-- ==== Sys2Proof/Word.lean ====
section
/-! DEFINITION. The word types of the FV7: registers and addresses are 64 bits, instruction words 32, memory is bytes. -/

namespace Sys2Proof

/-- A 64-bit register, message word or virtual address. -/
abbrev Word := BitVec 64

/-- A 32-bit instruction or configuration word. -/
abbrev Word32 := BitVec 32

/-- A byte of memory. -/
abbrev Byte := BitVec 8

end Sys2Proof
end

