-- ==== Sys2Proof/Machine/Tab.lean ====
section
/-! DEFINITION. Tables (key and value lists in rising key order) and bytes of memory (Host.Cell lists in canonical form). -/

namespace Sys2Proof.Machine

/-- A table from natural-number keys, kept in rising key order. -/
abbrev Tab (V : Type) := List (Nat × V)

/-- The entry a table lists for a key. -/
def Tab.find {V : Type} : Tab V → Nat → Option V
  | [], _ => none
  | (k', v) :: t, k => if k' = k then some v else Tab.find t k

/-- Lists or replaces an entry. -/
def Tab.put {V : Type} : Tab V → Nat → V → Tab V
  | [], k, v => [(k, v)]
  | (k', v') :: t, k, v =>
    if k < k' then (k, v) :: (k', v') :: t
    else if k = k' then (k, v) :: t
    else (k', v') :: Tab.put t k v

/-- Removes a key's entry. -/
def Tab.del {V : Type} (t : Tab V) (k : Nat) : Tab V := t.filter (fun e => e.1 != k)

/-- The listed entry, or `d`: what the table reads for a key it does not list. -/
def Tab.get {V : Type} (t : Tab V) (k : Nat) (d : V) : V := (t.find k).getD d

/-- Memory: the bytes that differ from zero, by rising address.  An address not listed reads as zero. -/
abbrev Mem := List Host.Cell

/-- What an address that memory does not list reads as (a choice of the model, assumption 1). -/
def Mem.empty : Byte := 0#8

/-- One byte of memory. -/
def Mem.byte : Mem → Nat → Byte
  | [], _ => Mem.empty
  | (k, b) :: m, a => if k = a then b else Mem.byte m a

/-- Writes one byte, keeping the canonical form: a byte equal to what an unlisted address reads as is not listed. -/
def Mem.setByte : Mem → Nat → Byte → Mem
  | [], a, b => if b = Mem.empty then [] else [(a, b)]
  | (k, x) :: m, a, b =>
    if a < k then (if b = Mem.empty then (k, x) :: m else (a, b) :: (k, x) :: m)
    else if a = k then (if b = Mem.empty then m else (a, b) :: m)
    else (k, x) :: Mem.setByte m a b

/-- The bytes at consecutive addresses. -/
def Mem.bytes (m : Mem) (a n : Nat) : List Byte := (List.range n).map (fun i => m.byte (a + i))

/-- Writes consecutive bytes. -/
def Mem.setBytes (m : Mem) (a : Nat) : List Byte → Mem
  | [] => m
  | b :: bs => Mem.setBytes (m.setByte a b) (a + 1) bs

/-- The canonical form: addresses strictly rising, no entry equal to what an unlisted address reads as. -/
def Mem.wfFrom : Nat → Mem → Bool
  | _, [] => true
  | lo, (a, b) :: m => decide (lo ≤ a) && (b != Mem.empty) && Mem.wfFrom (a + 1) m

/-- Memory is in canonical form. -/
def Mem.wf (m : Mem) : Bool := Mem.wfFrom 0 m

/-- The value of bytes read little-endian (R6). -/
def ofBytes : List Byte → Nat
  | [] => 0
  | b :: bs => b.toNat + 256 * ofBytes bs

/-- The `n` low bytes of a value, little-endian (R6). -/
def toBytes : Nat → Nat → List Byte
  | 0, _ => []
  | n + 1, v => BitVec.ofNat 8 v :: toBytes n (v / 256)

/-- Bits `[hi:lo]` of a number. -/
def fld (x hi lo : Nat) : Nat := (x >>> lo) % 2 ^ (hi + 1 - lo)

/-- Bit `i` of a number. -/
def bit (x i : Nat) : Bool := Nat.testBit x i

/-- A Bool as a bit. -/
def b2n (b : Bool) : Nat := if b then 1 else 0

/-- `x` with bits `[hi:lo]` replaced by `v`. -/
def putFld (x hi lo v : Nat) : Nat :=
  x - (fld x hi lo <<< lo) + ((v % 2 ^ (hi + 1 - lo)) <<< lo)

/-- The signed value of the `n` low bits of `x`. -/
def signed (x n : Nat) : Int :=
  let y := x % 2 ^ n
  if y < 2 ^ (n - 1) then (y : Int) else (y : Int) - (2 ^ n : Int)

/-- An integer modulo `2^n`. -/
def wrapNat (x : Int) (n : Nat) : Nat := (x % (2 ^ n : Int)).toNat

/-- The 32-bit little-endian words of a byte list. -/
def words32 : List Byte → List Nat
  | a :: b :: c :: d :: t => ofBytes [a, b, c, d] :: words32 t
  | _ => []

/-- Adds a number to a rising list without repeats. -/
def insertNat (x : Nat) : List Nat → List Nat
  | [] => [x]
  | y :: t => if x < y then x :: y :: t else if x = y then y :: t else y :: insertNat x t

/-- The first element that satisfies a test, with its index. -/
def findIdx {α : Type} (p : α → Bool) : List α → Nat → Option (Nat × α)
  | [], _ => none
  | a :: t, n => if p a then some (n, a) else findIdx p t (n + 1)

/-- Replaces the element at an index. -/
def setIdx {α : Type} : List α → Nat → α → List α
  | [], _, _ => []
  | _ :: t, 0, x => x :: t
  | a :: t, n + 1, x => a :: setIdx t n x

/-- Removes the element at an index. -/
def dropIdx {α : Type} : List α → Nat → List α
  | [], _ => []
  | _ :: t, 0 => t
  | a :: t, n + 1 => a :: dropIdx t n

end Sys2Proof.Machine
end

