-- ==== Sys2Proof/Syntax.lean ====
section
/-! DEFINITION. The instruction set: one constructor of `Instr` for every row of `spec/opcode_table.json`.

The rows are of two kinds.  161 rows are words with an encoding: sequencer words (chapter 16), processing-element words
(chapters 11 and 12), memory-tile and address-generator words (chapter 10) and island words (chapter 13).  117 rows are
steps of the machine that no word encodes (a page walk, a timer's expiry, a doorbell): their constructors carry what
the step cannot read from the state.  Which die, cluster and unit takes the step is the state's own actor. -/

namespace Sys2Proof

/-- A sequencer register number (R302). -/
abbrev Reg := BitVec 6

/-- Access sizes of the M format (R310): 0 b, 1 h, 2 w, 3 d. -/
inductive Size where
  | b | h | w | d
  deriving DecidableEq, Repr, Inhabited

/-- The order field (R310): 0 RLX, 1 ACQ, 2 REL, 3 SC. -/
inductive Order where
  | rlx | acq | rel | sc
  deriving DecidableEq, Repr, Inhabited

/-- The scope field (R281, R310): 0 CL, 1 DIE, 2 DEV, 3 SYS. -/
inductive Scope where
  | cl | die | dev | sys
  deriving DecidableEq, Repr, Inhabited

/-- The kinds of access that translation distinguishes (R22). -/
inductive AccKind where
  | read | write | atomic | fetch
  deriving DecidableEq, Repr, Inhabited

/-- The kinds of message sender that a full channel queue treats differently (R306). -/
inductive SenderKind where
  | tpost | machineCheck | hardware
  deriving DecidableEq, Repr, Inhabited

/-- An access over a link (R427): whether it writes, and its physical address. -/
structure PeerAccess where
  write : Bool
  pa : BitVec 48
  deriving DecidableEq, Repr, Inhabited

/-- The fields of a PE operation word beside its opcode (R153). -/
structure PeF where
  mod : BitVec 4
  imm : BitVec 5
  ty : BitVec 4
  pol : BitVec 4
  pred : BitVec 2
  mkb : BitVec 2
  en : BitVec 4
  deriving DecidableEq, Repr, Inhabited

/-- The fields of an MT word beside its opcode (R160). -/
structure MtF where
  base : BitVec 12
  span : BitVec 4
  mod : BitVec 4
  osel : Bool
  mkb : BitVec 2
  en : BitVec 4
  deriving DecidableEq, Repr, Inhabited

/-- The fields of an AG word beside its opcode (R162). -/
structure AgF where
  scope : Scope
  aclass : BitVec 4
  otin : Bool
  otout : Bool
  psel : BitVec 3
  mod : BitVec 4
  vco0 : BitVec 2
  vco1 : BitVec 2
  mkb : BitVec 2
  en : BitVec 4
  deriving DecidableEq, Repr, Inhabited

/-- The instructions: one constructor per row of the opcode table, in the table's order. -/
inductive Instr where
  /-- ADD (R318). -/
  | add (d a b : Reg)
  /-- SUB (R318). -/
  | sub (d a b : Reg)
  /-- AND (R318). -/
  | and (d a b : Reg)
  /-- OR (R318). -/
  | or (d a b : Reg)
  /-- XOR (R318). -/
  | xor (d a b : Reg)
  /-- SHL (R318). -/
  | shl (d a b : Reg)
  /-- SHR (R318). -/
  | shr (d a b : Reg)
  /-- SHA (R318). -/
  | sha (d a b : Reg)
  /-- MUL (R318). -/
  | mul (d a b : Reg)
  /-- MULH (R318). -/
  | mulh (d a b : Reg)
  /-- DIV (R318). -/
  | div (d a b : Reg)
  /-- DIVU (R318). -/
  | divu (d a b : Reg)
  /-- REM (R318). -/
  | rem (d a b : Reg)
  /-- MIN (R318). -/
  | min (d a b : Reg)
  /-- MAX (R318). -/
  | max (d a b : Reg)
  /-- MINU (R318). -/
  | minu (d a b : Reg)
  /-- MAXU (R318). -/
  | maxu (d a b : Reg)
  /-- SLT (R318). -/
  | slt (d a b : Reg)
  /-- SLTU (R318). -/
  | sltu (d a b : Reg)
  /-- CEQ (R318). -/
  | ceq (d a b : Reg)
  /-- CLZ (R318). -/
  | clz (d a : Reg)
  /-- POPC (R318). -/
  | popc (d a : Reg)
  /-- ADDI (R319). -/
  | addi (d a : Reg) (imm : BitVec 14)
  /-- ANDI (R319). -/
  | andi (d a : Reg) (imm : BitVec 14)
  /-- ORI (R319). -/
  | ori (d a : Reg) (imm : BitVec 14)
  /-- XORI (R319). -/
  | xori (d a : Reg) (imm : BitVec 14)
  /-- SHLI (R319). -/
  | shli (d a : Reg) (n : BitVec 6)
  /-- SHRI (R319). -/
  | shri (d a : Reg) (n : BitVec 6)
  /-- SHAI (R319). -/
  | shai (d a : Reg) (n : BitVec 6)
  /-- SLTI (R319). -/
  | slti (d a : Reg) (imm : BitVec 14)
  /-- LUI (R320). -/
  | lui (d : Reg) (imm : BitVec 20)
  /-- ADDPC (R320). -/
  | addpc (d : Reg) (imm : BitVec 20)
  /-- BEQ (R321). -/
  | beq (a b : Reg) (off : BitVec 14)
  /-- BNE (R321). -/
  | bne (a b : Reg) (off : BitVec 14)
  /-- BLT (R321). -/
  | blt (a b : Reg) (off : BitVec 14)
  /-- BGE (R321). -/
  | bge (a b : Reg) (off : BitVec 14)
  /-- BLTU (R321). -/
  | bltu (a b : Reg) (off : BitVec 14)
  /-- BGEU (R321). -/
  | bgeu (a b : Reg) (off : BitVec 14)
  /-- JAL (R321). -/
  | jal (off : BitVec 26)
  /-- JALR (R321). -/
  | jalr (d a : Reg) (imm : BitVec 14)
  /-- LD (R322). -/
  | ld (d a : Reg) (off : BitVec 8) (z : Size) (o : Order) (c : Scope)
  /-- ST (R322). -/
  | st (d a : Reg) (off : BitVec 8) (z : Size) (o : Order) (c : Scope)
  /-- AMOSWP (R323). -/
  | amoswp (d a b : Reg) (wide : Bool) (o : Order) (c : Scope)
  /-- AMOADD (R323). -/
  | amoadd (d a b : Reg) (wide : Bool) (o : Order) (c : Scope)
  /-- AMOCAS (R323). -/
  | amocas (d a b : Reg) (wide : Bool) (o : Order) (c : Scope)
  /-- AMOMIN (R323). -/
  | amomin (d a b : Reg) (wide : Bool) (o : Order) (c : Scope)
  /-- AMOMAX (R323). -/
  | amomax (d a b : Reg) (wide : Bool) (o : Order) (c : Scope)
  /-- AMOAND (R323). -/
  | amoand (d a b : Reg) (wide : Bool) (o : Order) (c : Scope)
  /-- AMOOR (R323). -/
  | amoor (d a b : Reg) (wide : Bool) (o : Order) (c : Scope)
  /-- AMOXOR (R323). -/
  | amoxor (d a b : Reg) (wide : Bool) (o : Order) (c : Scope)
  /-- FENCE (R289). -/
  | fence (o : Order) (c : Scope)
  /-- CFLUSH (R300). -/
  | cflush (a : Reg)
  /-- CINVAL (R300). -/
  | cinval (a : Reg)
  /-- QFENCE (R325). -/
  | qfence (d a : Reg)
  /-- TEND (R326). -/
  | tend
  /-- YIELD (R326). -/
  | yield
  /-- ERET (R316). -/
  | eret
  /-- TRAP (R341). -/
  | trap (imm : BitVec 14)
  /-- MFS (R341). -/
  | mfs (d : Reg) (n : BitVec 12)
  /-- MTS (R341). -/
  | mts (a : Reg) (n : BitVec 12)
  /-- BANKMODE (R78). -/
  | bankmode (v : BitVec 64)
  /-- BANK_MODE_CUT (R79). -/
  | bankModeCut
  /-- MCMODE (R292). -/
  | mcmode (v : BitVec 64)
  /-- CPY (R56). -/
  | cpy (d a b : Reg)
  /-- STRM (R56). -/
  | strm (d a b : Reg)
  /-- WTEST (R68). -/
  | wtest (d a b : Reg)
  /-- CFG (R330). -/
  | cfg (d a b : Reg)
  /-- RESID (R331). -/
  | resid (d a : Reg)
  /-- PARAM (R332). -/
  | param (d a b : Reg)
  /-- GBAR (R333). -/
  | gbar (d a b : Reg)
  /-- RESUME (R332). -/
  | resume (d a : Reg)
  /-- LEASE (R334). -/
  | lease (d a b : Reg)
  /-- LFREE (R334). -/
  | lfree (d a : Reg)
  /-- PCMD (R335). -/
  | pcmd (d a b : Reg)
  /-- BOOST (R336). -/
  | boost (d a b : Reg)
  /-- LNCH (R337). -/
  | lnch (d a : Reg)
  /-- XCMD (R338). -/
  | xcmd (d a b : Reg)
  /-- TBIND (R339). -/
  | tbind (d a b : Reg)
  /-- TPOST (R340). -/
  | tpost (d a b : Reg)
  /-- TASK_DISPATCH (R308). -/
  | taskDispatch
  /-- MESSAGE_ARRIVAL (R306). -/
  | messageArrival (k : SenderKind) (chan : BitVec 4) (w0 w1 w2 w3 : BitVec 64)
  /-- MESSAGE_RETRY (R306). -/
  | messageRetry
  /-- PAGE_WALK (R22). -/
  | pageWalk (ctx : BitVec 6) (k : AccKind) (va : BitVec 64)
  /-- INVALIDATION_ARRIVAL (R282). -/
  | invalidationArrival (line : BitVec 41)
  /-- TIER_C_TIMEOUT (R15). -/
  | tierCTimeout (pa : BitVec 48) (va : BitVec 64)
  /-- ECC_ERROR (R16). -/
  | eccError (sram : Bool) (addr : BitVec 48) (bad : Bool)
  /-- PATROL_SCRUB (R16). -/
  | patrolScrub (pa : BitVec 48)
  /-- AMB_PARK (R35). -/
  | ambPark (v : BitVec 64)
  /-- WAKE (R41). -/
  | wake (i : BitVec 14) (token : BitVec 32) (arg : BitVec 28)
  /-- PROMOTE_ALL (R37). -/
  | promoteAll (i : BitVec 14) (token : BitVec 32) (arg : BitVec 28)
  /-- PROMOTE_ONE (R47). -/
  | promoteOne (i : BitVec 14) (token : BitVec 32) (arg : BitVec 28)
  /-- DROP (R48). -/
  | drop (i : BitVec 14) (token : BitVec 32) (arg : BitVec 28)
  /-- HC_TIMER_EXPIRY (R38). -/
  | hcTimerExpiry (i : BitVec 14)
  /-- CF_TIMER_EXPIRY (R38). -/
  | cfTimerExpiry (i : BitVec 14)
  /-- AMBER_EXAMINATION (R465). -/
  | amberExamination (i : BitVec 14)
  /-- DEMOTE_HC (R39). -/
  | demoteHc (i : BitVec 14) (b : BitVec 28)
  /-- DEMOTE_CF (R40). -/
  | demoteCf (i : BitVec 14) (b : BitVec 28)
  /-- BLOCK_PROMOTION (R42). -/
  | blockPromotion (i : BitVec 14) (b : BitVec 28)
  /-- PROMOTION_RESUME (R42). -/
  | promotionResume (i : BitVec 14)
  /-- RESUME_LAUNCH_RETRY (R45). -/
  | resumeLaunchRetry (i : BitVec 14)
  /-- AMBER_PUSH_RETRY (R465). -/
  | amberPushRetry (i : BitVec 14)
  /-- AMBER_CFG (R52). -/
  | amberCfg
  /-- COPY (R60). -/
  | copy (q : BitVec 3)
  /-- MASKROWS (R61). -/
  | maskrows (q : BitVec 3)
  /-- STREAMIN (R62). -/
  | streamin (q : BitVec 3)
  /-- STREAMOUT (R62). -/
  | streamout (q : BitVec 3)
  /-- ARRIVE (R63). -/
  | arrive (q : BitVec 3)
  /-- BARSET (R70). -/
  | barset (q : BitVec 3)
  /-- STREAM_PORT_PUSH (R62). -/
  | streamPortPush (q : BitVec 3)
  /-- STREAM_PORT_POP (R62). -/
  | streamPortPop (q : BitVec 3)
  /-- CHUNK_COMPLETE (R67). -/
  | chunkComplete (q : BitVec 3)
  /-- CE_COMMAND_COMPLETE (R66). -/
  | ceCommandComplete (q : BitVec 3)
  /-- QFENCE_RETIRE (R65). -/
  | qfenceRetire (k : Nat)
  /-- RING_DESCRIPTOR_STORE (R82). -/
  | ringDescriptorStore (k : BitVec 4) (dw : BitVec 3) (v : BitVec 64)
  /-- FIFO_QUEUE_STORE (R86). -/
  | fifoQueueStore (bank : BitVec 6) (dw : BitVec 2) (v : BitVec 64)
  /-- WINDOW_QUEUE_STORE (R87). -/
  | windowQueueStore (bank : BitVec 6) (dw : BitVec 2) (v : BitVec 64)
  /-- SWITCH_FORWARD (R100). -/
  | switchForward (w : BitVec 3)
  /-- KILL_PROPAGATE (R106). -/
  | killPropagate (k : Nat)
  /-- IADD (R215). -/
  | iadd (f : PeF)
  /-- ISUB (R215). -/
  | isub (f : PeF)
  /-- IMUL (R215). -/
  | imul (f : PeF)
  /-- IMULH (R216). -/
  | imulh (f : PeF)
  /-- IMIN (R215). -/
  | imin (f : PeF)
  /-- IMAX (R215). -/
  | imax (f : PeF)
  /-- IABS (R217). -/
  | iabs (f : PeF)
  /-- PE_AND (R218). -/
  | peAnd (f : PeF)
  /-- PE_OR (R218). -/
  | peOr (f : PeF)
  /-- PE_XOR (R218). -/
  | peXor (f : PeF)
  /-- PE_SHL (R218). -/
  | peShl (f : PeF)
  /-- PE_SHR (R218). -/
  | peShr (f : PeF)
  /-- PE_SHA (R218). -/
  | peSha (f : PeF)
  /-- FSHL (R219). -/
  | fshl (f : PeF)
  /-- FSHR (R219). -/
  | fshr (f : PeF)
  /-- PE_CLZ (R220). -/
  | peClz (f : PeF)
  /-- PE_POPC (R220). -/
  | pePopc (f : PeF)
  /-- BWID (R220). -/
  | bwid (f : PeF)
  /-- ICMP (R221). -/
  | icmp (f : PeF)
  /-- SEL (R223). -/
  | sel (f : PeF)
  /-- FADD (R224). -/
  | fadd (f : PeF)
  /-- FSUB (R224). -/
  | fsub (f : PeF)
  /-- FMUL (R224). -/
  | fmul (f : PeF)
  /-- FFMA (R224). -/
  | ffma (f : PeF)
  /-- FMIN (R225). -/
  | fmin (f : PeF)
  /-- FMAX (R225). -/
  | fmax (f : PeF)
  /-- FCMP (R222). -/
  | fcmp (f : PeF)
  /-- CVT (R226). -/
  | cvt (f : PeF)
  /-- RED (R227). -/
  | red (f : PeF)
  /-- SCAN (R228). -/
  | scan (f : PeF)
  /-- PASS (R231). -/
  | pass (f : PeF)
  /-- SHUF (R232). -/
  | shuf (f : PeF)
  /-- PACKB (R233). -/
  | packb (f : PeF)
  /-- UNPKB (R233). -/
  | unpkb (f : PeF)
  /-- DELTA (R229). -/
  | delta (f : PeF)
  /-- GATE (R234). -/
  | gate (f : PeF)
  /-- STEER (R234). -/
  | steer (f : PeF)
  /-- CNT (R230). -/
  | cnt (f : PeF)
  /-- MARK (R235). -/
  | mark (f : PeF)
  /-- CONST (R231). -/
  | const (f : PeF)
  /-- MERGE (R236). -/
  | merge (f : PeF)
  /-- OJOIN (R237). -/
  | ojoin (f : PeF)
  /-- DADD (R246). -/
  | dadd (f : PeF)
  /-- DSUB (R246). -/
  | dsub (f : PeF)
  /-- DMUL (R246). -/
  | dmul (f : PeF)
  /-- DFMA (R246). -/
  | dfma (f : PeF)
  /-- DDIV (R246). -/
  | ddiv (f : PeF)
  /-- DSQRT (R246). -/
  | dsqrt (f : PeF)
  /-- DRSQ (R246). -/
  | drsq (f : PeF)
  /-- DEXP (R246). -/
  | dexp (f : PeF)
  /-- DLOG (R246). -/
  | dlog (f : PeF)
  /-- DNORM (R248). -/
  | dnorm (f : PeF)
  /-- DSCL (R249). -/
  | dscl (f : PeF)
  /-- DMAX (R251). -/
  | dmax (f : PeF)
  /-- DCMPK (R252). -/
  | dcmpk (f : PeF)
  /-- DRELU (R253). -/
  | drelu (f : PeF)
  /-- DRACE (R255). -/
  | drace (f : PeF)
  /-- DSEL (R254). -/
  | dsel (f : PeF)
  /-- DACC (R256). -/
  | dacc (f : PeF)
  /-- MTRD (R205). -/
  | mtrd (f : MtF)
  /-- MTWR (R205). -/
  | mtwr (f : MtF)
  /-- MTRING (R210). -/
  | mtring (f : MtF)
  /-- MTFIFO (R210). -/
  | mtfifo (f : MtF)
  /-- MTTAS (R206). -/
  | mttas (f : MtF)
  /-- MTHIST (R207). -/
  | mthist (f : MtF)
  /-- MTLUT (R208). -/
  | mtlut (f : MtF)
  /-- MTACC (R209). -/
  | mtacc (f : MtF)
  /-- MTCLR (R209). -/
  | mtclr (f : MtF)
  /-- AGLD (R198). -/
  | agld (f : AgF)
  /-- AGST (R199). -/
  | agst (f : AgF)
  /-- AGGA (R200). -/
  | agga (f : AgF)
  /-- AGSC (R200). -/
  | agsc (f : AgF)
  /-- AGSEL (R201). -/
  | agsel (f : AgF)
  /-- AGBT (R202). -/
  | agbt (f : AgF)
  /-- AGAMO (R200). -/
  | agamo (f : AgF)
  /-- AGPF (R198). -/
  | agpf (f : AgF)
  /-- ORDER_TOKEN_EMIT (R193). -/
  | orderTokenEmit
  /-- ITERATION_CLAIM (R352). -/
  | iterationClaim (slot : BitVec 4)
  /-- MZERO (R268). -/
  | mzero
  /-- MMA (R269). -/
  | mma (af bf ra rb : BitVec 4) (ovw : Bool)
  /-- MOUT (R270). -/
  | mout (out ro : BitVec 4) (bias act rq : Bool)
  /-- MLUT (R271). -/
  | mlut (ra : BitVec 4)
  /-- MQK (R272). -/
  | mqk (af bf ra rb : BitVec 4)
  /-- MSMU (R275). -/
  | msmu (pf : BitVec 4)
  /-- MPVA (R276). -/
  | mpva (bf rb : BitVec 4)
  /-- MSMF (R277). -/
  | msmf (out ro : BitVec 4)
  /-- MSMG (R278). -/
  | msmg (ra : BitVec 4)
  /-- MSET (R279). -/
  | mset (dreg : BitVec 6) (value : BitVec 64)
  /-- TILE_TEARDOWN (R346). -/
  | tileTeardown
  /-- RESIDENCY_MOVE (R350). -/
  | residencyMove (slot : BitVec 4) (page : BitVec 4)
  /-- LAUNCH_ELIGIBLE (R356). -/
  | launchEligible (n : BitVec 32)
  /-- LAUNCH_AGEING (R357). -/
  | launchAgeing (n : BitVec 32)
  /-- LAUNCH_BLOCKING (R357). -/
  | launchBlocking (n : BitVec 32)
  /-- LAUNCH_ADMISSION (R358). -/
  | launchAdmission
  /-- HQCTL (R364). -/
  | hqctl (q : BitVec 4) (v : BitVec 64)
  /-- HQMIRROR (R365). -/
  | hqmirror (q : BitVec 4) (v : BitVec 64)
  /-- HOST_QUEUE_TAIL (R365). -/
  | hostQueueTail (q : BitVec 4)
  /-- LINK_LAUNCH_SLOT (R427): the origin as a peer-map entry names it (R436), [1] transport and [63:2] link address. -/
  | linkLaunchSlot (origin : BitVec 64) (packet : BitVec 512)
  /-- LINK_ACCESS_REFUSED (R427): a read or a write that a link brings. -/
  | linkAccessRefused (link : BitVec 5) (acc : PeerAccess)
  /-- LEASE_ARBITRATION (R371). -/
  | leaseArbitration
  /-- LEASE_EVICTION (R374). -/
  | leaseEviction (p : BitVec 6)
  /-- PRALINE_READY (R368). -/
  | pralineReady (p : BitVec 6)
  /-- PRALINE_IDLE_SLEEP (R368). -/
  | pralineIdleSleep (p : BitVec 6)
  /-- LINGER_EXPIRY (R368). -/
  | lingerExpiry (p : BitVec 6)
  /-- CZIP (R379). -/
  | czip (p : BitVec 6)
  /-- CUNZ (R380). -/
  | cunz (p : BitVec 6)
  /-- TOPK (R381). -/
  | topk (p : BitVec 6)
  /-- KSORT (R382). -/
  | ksort (p : BitVec 6)
  /-- GENC (R383). -/
  | genc (p : BitVec 6)
  /-- GDEC (R383). -/
  | gdec (p : BitVec 6)
  /-- HSHA (R384). -/
  | hsha (p : BitVec 6)
  /-- HCHAIN (R384). -/
  | hchain (p : BitVec 6)
  /-- PRALINE_COMPLETE (R378). -/
  | pralineComplete (p : BitVec 6)
  /-- POWER_INTERVAL (R389). -/
  | powerInterval (region : BitVec 6)
  /-- SPINE_CHANGE (R392). -/
  | spineChange (spine : BitVec 3) (mhz : BitVec 12)
  /-- BOOST_SPINE_SWITCH (R396). -/
  | boostSpineSwitch
  /-- SUPPLY_LIMIT (R398). -/
  | supplyLimit (watts : BitVec 16)
  /-- BOOST_NOTICE_END (R398). -/
  | boostNoticeEnd (ctx : BitVec 6)
  /-- BOOST_EXPIRY (R398). -/
  | boostExpiry (ctx : BitVec 6)
  /-- PSTALL (R394). -/
  | pstall (v : BitVec 64)
  /-- THERMAL_SAMPLE (R400). -/
  | thermalSample (tj : BitVec 8)
  /-- TRIP_MARK (R402). -/
  | tripMark
  /-- EMERGENCY_SAVE_TIMEOUT (R402). -/
  | emergencySaveTimeout
  /-- HBM_SELF_REFRESH (R402). -/
  | hbmSelfRefresh
  /-- RAIL_REMOVAL (R402). -/
  | railRemoval
  /-- DIE_REPOWER (R403). -/
  | dieRepower
  /-- DEADLINE_EXPIRY (R415). -/
  | deadlineExpiry (ctx : BitVec 6)
  /-- CONTEXT_SAVE_COMPLETE (R420). -/
  | contextSaveComplete (ctx : BitVec 6)
  /-- TILE_FLAG_WRITE (R238). -/
  | tileFlagWrite (tile : BitVec 8) (v : BitVec 64)
  /-- ISLAND_STATUS_WRITE (R259). -/
  | islandStatusWrite (i : BitVec 2) (dw : BitVec 3) (v : BitVec 64)
  /-- REGISTER_WRITE (R8). -/
  | registerWrite (pa : BitVec 48) (v : BitVec 64)
  /-- IDENTIFY (R434). -/
  | identify
  /-- FEATURES (R435). -/
  | features
  /-- CTX_CREATE (R436). -/
  | ctxCreate
  /-- CTX_DESTROY (R434). -/
  | ctxDestroy
  /-- MAP (R461). -/
  | map
  /-- UNMAP (R461). -/
  | unmap
  /-- MAP_COMPLETE (R27). -/
  | mapComplete
  /-- POWER_CFG (R434). -/
  | powerCfg
  /-- ATTEST (R438). -/
  | attest
  /-- LIFELOG_READ (R434). -/
  | lifelogRead
  /-- RESET_DIE (R434). -/
  | resetDie
  /-- FW_UPDATE (R434). -/
  | fwUpdate
  /-- A2A (R430). -/
  | a2a (e : BitVec 1) (q : BitVec 2)
  /-- PUT (R430). -/
  | put (e : BitVec 1) (q : BitVec 2)
  /-- GET (R430). -/
  | get (e : BitVec 1) (q : BitVec 2)
  /-- SIG (R430). -/
  | sig (e : BitVec 1) (q : BitVec 2)
  /-- EXCHANGE_COMPLETE (R431). -/
  | exchangeComplete (e : BitVec 1) (q : BitVec 2)
  /-- KEEPALIVE_LOSS (R425). -/
  | keepaliveLoss (link : BitVec 5)
  /-- POWER_UP (R437). -/
  | powerUp
  /-- SRAM_SCRUB (R439). -/
  | sramScrub (cl : BitVec 8) (off : BitVec 24)
  /-- RECALIBRATION (R439). -/
  | recalibration (link : BitVec 5)
  /-- WEAR_LEVELLING (R439). -/
  | wearLevelling
  /-- TELEMETRY_SAMPLE (R439). -/
  | telemetrySample
  /-- LIFELOG_REWRITE (R440). -/
  | lifelogRewrite
  /-- HOST_MEMORY_ACCESS (R291). -/
  | hostMemoryAccess (write : Bool) (pa : BitVec 48) (len : Nat) (data : Nat)
  /-- REMOTE_EXCHANGE_REQUEST (R430). -/
  | remoteExchangeRequest (ctx : BitVec 6) (kind : BitVec 2) (va : BitVec 64) (len : Nat) (data : Nat)
  /-- POWER_LOSS (R440). -/
  | powerLoss
  /-- VOLTAGE_DROOP (R440). -/
  | voltageDroop (vfi : BitVec 8) (depth : BitVec 8)
  /-- LANE_RETRAIN (R440). -/
  | laneRetrain (link : BitVec 5)
  deriving DecidableEq, Repr, Inhabited

end Sys2Proof
end

