-- ==== Sys2Proof/Config.lean ====
section
/-! DEFINITION. What an implementation fixes, and the free values: constants without a body, so that no proof can see
what they are (assumption 2). -/

namespace Sys2Proof.Config

/-- Bytes of CXL memory on tier-C port 0 or 1 (R12, R437 step 4); 0 where the port is not populated. -/
opaque portBytes : Nat → Nat

/-- Successive free values of 64 bits. -/
opaque freeWord : Nat → BitVec 64

/-- Successive free numbers: delays, choices and sizes that the spec leaves to timing or to the implementation. -/
opaque freeNat : Nat → Nat

/-- Whether a die's tier-F namespace is formatted with the larger of the two LBA sizes (R426). -/
opaque lba4k : Nat → Bool

/-- The LBA size of a die's tier-F namespace (R426: 512 or 4,096 bytes). -/
def lbaBytes (d : Nat) : Nat := if lba4k d then 4096 else 512

/-- The link over which a peer-map entry's address is reached (R427, R430, R436): 0 to 17 UALink, 18 and 19 Ultra
Ethernet. -/
opaque routeLink : Nat → Nat

/-- The serial number and the part number and stepping of the package (R434). -/
opaque serial : BitVec 64
opaque partNumber : BitVec 64
opaque stepping : BitVec 64

/-- Watts that the package grants a die, without boost (R394). -/
opaque budget : Nat → Nat

/-- Tier-F namespaces of a die (R434). -/
opaque namespaces : Nat → Nat

/-- The digest of the firmware image that the package is delivered with (R438), and the version that an image holds
(R437), the delivered one being written as no bytes. -/
opaque fwDigest : BitVec 256
opaque fwVersion : List (BitVec 8) → Nat

/-- The LMS identifier I of the identity key (R434, R438); the key's secrets, by leaf and chain, and the random bytes of each
leaf's signature. -/
opaque identityI : BitVec 128
opaque identitySecret : Nat → Nat → BitVec 256
opaque identityRandom : Nat → BitVec 256

/-- The key in a trusted-key slot (R187): its identifier I and the root of its tree. -/
opaque trustedKey : Nat → Nat × Nat

/-- The device key that wraps the keys of CTX_CREATE (R436), 32 bytes. -/
opaque deviceKey : BitVec 256

/-- The firmware pool of page-table pages (R434): its first 4 KiB frame of tier H, and how many. -/
opaque poolBase : Nat
opaque poolCount : Nat

end Sys2Proof.Config
end

