-- ==== Sys2Proof/Machine/Types.lean ====
section
/-! DEFINITION. The parts of the machine's state that the sequencers, the memory system and the clusters' storage own. -/

namespace Sys2Proof.Machine

/-- A 32-byte message: the values of s56 to s59 of the task it starts (R302). -/
structure Msg where
  w0 : Word := 0
  w1 : Word := 0
  w2 : Word := 0
  w3 : Word := 0
  deriving DecidableEq, Repr, Inhabited

/-- A queued message (R306), with the context it belongs to and, for a start message (R359), its launch. -/
structure QMsg where
  msg : Msg := {}
  ctx : Nat := 0
  launch : Option Nat := none
  deriving DecidableEq, Repr, Inhabited

/-- A message channel: its binding (CHENTRY, CHQ; R307) and its queue, oldest first (R306). -/
structure Channel where
  entry : Word := 0
  q : Word := 0
  queue : List QMsg := []
  deriving DecidableEq, Repr, Inhabited

/-- A message that a hardware sender holds because its channel was full (R306).
Senders: 0 and 1 the copy engines, 2 to 33 the AGs, 34 to 37 the islands, 39 the sequencer; behind the cluster's message
port, 100 and the number of the agent outside the cluster, or 38 where the sender is no agent. -/
structure Held where
  sender : Nat
  chan : Nat
  m : QMsg
  deriving DecidableEq, Repr, Inhabited

/-- The running task: the channel it was started from, its context, and the binding it was started with (R308, R309). -/
structure Task where
  chan : Nat := 0
  ctx : Nat := 0
  q : Word := 0
  launch : Option Nat := none
  deriving DecidableEq, Repr, Inhabited

/-- A store of a sequencer that is not yet performed at home (R282, R284, R286); `rel` is the scope of a release. -/
structure StoreEnt where
  pa : Nat
  size : Nat
  data : Nat
  rel : Option Scope := none
  /-- Under FRUN, the residency slots and alias classes of AG loads that have returned its value (R285, R292). -/
  seen : List (Nat × Nat) := []
  deriving DecidableEq, Repr, Inhabited

/-- The sequencer's atomics (R323). -/
inductive AmoKind where
  | swp | add | cas | min | max | and | or | xor
  deriving DecidableEq, Repr, Inhabited

/-- A load or an RLX atomic of a sequencer that has been issued and is not yet performed (R286): the destination, the address,
the context and VA for the machine check of a poisoned word, and the atomic's kind, operand and comparand. -/
structure LoadEnt where
  d : Reg
  pa : Nat
  size : Nat
  cached : Bool
  ctx : Nat
  va : Nat
  amo : Option (AmoKind × Nat × Nat) := none
  deriving DecidableEq, Repr, Inhabited

/-- A pre-emption request on one cluster (R414, R415): context, deadline, and how it was decided
(`none` while undecided; `some true` cooperative, `some false` forced). -/
structure YReq where
  ctx : Nat
  deadline : Word
  coop : Option Bool := none
  deriving DecidableEq, Repr, Inhabited

/-- A task that a forced pre-emption suspended (R416): its registers, pc, task and trap state. -/
structure Suspended where
  regs : Vector Word 64
  pc : Word
  task : Task
  inTrap : Bool
  tcause : Word
  tpc : Word
  tval : Word
  tvec : Word
  stackbase : Word
  brkpc : Word
  /-- The next instruction is the first after an ERET (R316). -/
  brkSkip : Bool
  deriving DecidableEq, Repr

/-- The sequencer of one cluster (R302 to R309). -/
structure Seq where
  /-- s0 to s63; s0, s60 and s61 are handled by the register accessors (R302). -/
  regs : Vector Word 64 := Vector.replicate 64 0
  pc : Word := 0
  /-- The running task; `none` when the dispatcher is choosing. -/
  task : Option Task := none
  /-- TASKID, CYCLE and the trap registers (R305). -/
  taskid : Word := 0
  cycle : Word := 0
  inTrap : Bool := false
  mcLost : Bool := false
  tcause : Word := 0
  tpc : Word := 0
  tval : Word := 0
  tvec : Word := 0
  chanmask : Word := 0xFFFF
  stackbase : Word := 0xFFFFFFFFFF300000
  brkpc : Word := 0
  /-- The next instruction is the first after an ERET and does not take the breakpoint again (R316). -/
  brkSkip : Bool := false
  /-- Dispatch has stopped because a channel-0 task of this context was abandoned (R406). -/
  stopped : Option Nat := none
  /-- The store buffer, oldest first (R284, R286). -/
  sbuf : List StoreEnt := []
  /-- Loads issued and not yet performed, oldest first (R286). -/
  loads : List LoadEnt := []
  yreqs : List YReq := []
  suspended : List Suspended := []
  deriving DecidableEq, Repr

/-- A ring descriptor (R81). -/
structure Ring where
  rbase : Nat := 0
  cmask : Nat := 0
  rsize : Nat := 0
  slot : Nat := 0
  err : Bool := false
  en : Bool := false
  head : Nat := 0
  tail : Nat := 0
  fill : Nat := 0
  ended : Bool := false
  ahead : List Nat := [0, 0, 0, 0]
  deriving DecidableEq, Repr, Inhabited

/-- The queue registers of one bank: the FIFO view (R86) and the WINDOW view (R87) are told apart by the bank's mode. -/
structure BankQ where
  port : Nat := 0
  en : Bool := false
  frd : Nat := 0
  fwr : Nat := 0
  ffill : Nat := 0
  fend : Bool := false
  whead : Word := 0
  wtail : Word := 0
  deriving DecidableEq, Repr, Inhabited

/-- The staging buffer of an edge port (R86): at most 512 bytes, each with its poison mark, and the producer's end. -/
structure Stage where
  data : List (Byte × Bool) := []
  ended : Bool := false
  deriving DecidableEq, Repr, Inhabited

/-- BANKMODE's status word and the change in progress (R78, R79). -/
structure BankReq where
  bank : Nat := 0
  mode : Nat := 0
  bstat : Nat := 0
  /-- The accepted change that has not reached its cut cycle: bank and new mode. -/
  pend : Option (Nat × Nat) := none
  deriving DecidableEq, Repr, Inhabited

/-- A copy that one die holds of a line homed elsewhere (R13, R282): 128 bytes and a poison bit for each 32-byte word. -/
structure LineCopy where
  data : Nat := 0
  poison : Nat := 0
  deriving DecidableEq, Repr, Inhabited

/-- An invalidation on its way to a die, and the agents whose releases wait for it (R282, R287, R288). -/
structure Inval where
  die : Nat
  line : Nat
  knowers : List Nat
  /-- The agents that sent it by an SC store or SC atomic (R287). -/
  sc : List Nat := []
  deriving DecidableEq, Repr, Inhabited

/-- A write of an engine to device registers that its turn has made (R14): the address, the bytes, the cluster by which
the engine reports, and the context it acts for. -/
structure DevAcc where
  pa : Nat
  data : List Byte
  cl : Nat
  ctx : Nat
  deriving DecidableEq, Repr, Inhabited

/-- A cached translation (R25): who holds it (a cluster number, or 1000 plus a die), the context, the page and its leaf. -/
structure TlbEnt where
  owner : Nat
  ctx : Nat
  vbase : Nat
  size : Nat
  leaf : Nat
  lvl : Nat
  deriving DecidableEq, Repr, Inhabited

end Sys2Proof.Machine
end

