-- ==== Sys2Proof/Machine/EngTypes.lean ====
section
/-! DEFINITION. The parts of the state that the copy engines, the barriers, the residencies and the launch unit own. -/

namespace Sys2Proof.Machine

/-- A command in a copy queue (R55 to R71): the 512-bit descriptor, its sequence number, the context of its task, the
order in which the cluster accepted it (for the scoreboard, R69), and the engine's progress through it. -/
structure CopyCmd where
  desc : Nat
  seq : Nat
  ctx : Nat
  stamp : Nat
  /-- The command has been dispatched and has passed validation (R59, R64). -/
  started : Bool := false
  /-- The next row of the pattern, in loop order. -/
  row : Nat := 0
  /-- The next byte of a stream's pattern; the bytes of the present row that were written before a fault. -/
  pos : Nat := 0
  part : Nat := 0
  written : Nat := 0
  /-- MASKROWS: the mask read at dispatch, and the packed row count. -/
  mask : Nat := 0
  packed : Nat := 0
  /-- The chunks whose bitmap bits are set (R67). -/
  bits : List Nat := []
  /-- No access remains: the status, fault level and faulting VA are final. -/
  finished : Bool := false
  status : Nat := 0
  lvl : Nat := 0
  fva : Word := 0
  /-- A poisoned byte was written or pushed. -/
  poisoned : Bool := false
  /-- Its arrival was counted together with another of the same cycle (R71). -/
  arrived : Bool := false
  deriving DecidableEq, Repr, Inhabited

/-- An entry of a copy queue: a command or the marker of a QFENCE (R65). -/
inductive QEnt where
  | cmd (c : CopyCmd)
  | marker (id : Nat)
  deriving DecidableEq, Repr, Inhabited

/-- One copy queue: its entries, oldest first, and the next sequence number (R56). -/
structure CopyQueue where
  ents : List QEnt := []
  next : Nat := 0
  deriving DecidableEq, Repr, Inhabited

/-- An armed barrier slot (R70). -/
structure Barrier where
  expect : Nat
  mapword : Nat
  mask : Nat
  phase : Nat
  chan : Nat
  tag : Nat
  /-- Local address of the record, where PHASE is written. -/
  recAddr : Nat
  arrived : Nat := 0
  ctx : Nat := 0
  deriving DecidableEq, Repr, Inhabited

/-- The state of a fabric page or an island (R344): free, reserved for a member of a launch's gang, or held by the
residency in a slot. -/
inductive PageSt where
  | free
  | reserved (launch : Nat) (member : Nat)
  | held (slot : Nat)
  deriving DecidableEq, Repr, Inhabited

/-- An edge binding of a residency's AG (R185): path 0 DIRECT, 1 STAGE, 2 FIFO. -/
structure Bind where
  ag : Nat
  dirOut : Bool
  path : Nat
  bank : Nat
  deriving DecidableEq, Repr, Inhabited

/-- A residency slot of a cluster (R330, R331, R344, R349): the generation, and the residency that holds it, if any. -/
structure Resid where
  gen : Nat := 0
  live : Bool := false
  ctx : Nat := 0
  w : Nat := 0
  h : Nat := 0
  origin : Nat := 0
  image : Word := 0
  fgImage : Word := 0
  bgImage : Word := 0
  rseed : Nat := 0
  echan : Nat := 0
  emsg : Bool := false
  tag : Nat := 0
  /-- The launch and member whose reservation it claimed (R360). -/
  gang : Option (Nat × Nat) := none
  /-- The launch of its task permits moves (R350, R353); its foreground and its background image hold an island
  record or a STAGE or FIFO binding, and so keep it where it is. -/
  movable : Bool := false
  fgFixed : Bool := false
  bgFixed : Bool := false
  iterva : Word := 0
  /-- The item AG, and whether it has received EOS from the claims (R352). -/
  itemAg : Option Nat := none
  claimsDone : Bool := false
  census : Nat := 0
  csat : Bool := false
  draining : Bool := false
  /-- The forerunner mode it started with (R292). -/
  frun : Bool := false
  binds : List Bind := []
  pages : List Nat := []
  ags : List Nat := []
  islands : List Nat := []
  /-- Frozen by a stop wave (R417). -/
  frozen : Bool := false
  deriving DecidableEq, Repr, Inhabited

/-- An admitted or queued launch (R353 to R363). -/
structure Launch where
  num : Nat
  entry : Word
  chan : Nat
  prio : Nat
  elastic : Bool
  ctx : Nat
  movable : Bool
  nmemb : Nat
  minmemb : Nat
  rptva : Word
  args : Msg
  /-- One 32-bit shape entry per member; a single one when elastic. -/
  shapes : List Nat
  /-- The wait entries not yet satisfied: condition, VA, value (R354, R356). -/
  waits : List (Nat × Nat × Nat)
  eligible : Bool := false
  /-- The die's reference clock, in microseconds, when it became eligible. -/
  since : Nat := 0
  /-- Ageing steps taken (R357), the clock when priority 7 was reached, and whether it blocks. -/
  aged : Nat := 0
  since7 : Option Nat := none
  blocking : Bool := false
  /-- The link it came over, when residency reports go to an origin (R366). -/
  link : Option Nat := none
  deriving DecidableEq, Repr, Inhabited

/-- The state of one member of an admitted gang (R362). -/
structure Member where
  cl : Nat
  page : Nat
  w : Nat
  h : Nat
  imask : Nat
  handle : Nat := 0
  /-- 0 RESERVED, 1 RUNNING, 2 ENDED, 3 RELEASED. -/
  mstate : Nat := 0
  deriving DecidableEq, Repr, Inhabited

/-- An arrival at a gang barrier (R333): the member, and the channel and tag of its message. -/
structure GArrival where
  member : Nat
  cl : Nat
  chan : Nat
  tag : Nat
  deriving DecidableEq, Repr, Inhabited

/-- One of a gang's four barriers (R333): phase and the arrivals of the current phase. -/
structure GBarrier where
  phase : Nat := 0
  arrivals : List GArrival := []
  deriving DecidableEq, Repr, Inhabited

/-- An admitted gang (R358): its launch, its members and its barriers. -/
structure Gang where
  launch : Launch
  members : List Member
  barriers : List GBarrier := [{}, {}, {}, {}]
  done : Bool := false
  deriving DecidableEq, Repr, Inhabited

/-- A host queue of a launch unit (R364). -/
structure HostQ where
  ctl : Word := 0
  base : Word := 0
  tailadr : Word := 0
  head : Nat := 0
  /-- The last HQMIRROR value; in MODE 0 the tail word as read since the queue was enabled. -/
  mirror : Nat := 0
  tail : Option Nat := none
  refused : Nat := 0
  last : Nat := 0
  overrun : Bool := false
  deriving DecidableEq, Repr, Inhabited

end Sys2Proof.Machine
end

