-- ==== Sys2Proof/Machine/FabTypes.lean ====
section
/-! DEFINITION. The parts of the state that the fabric owns: tokens, tiles, address generators and islands (chapters 5,
8, 10 to 13). -/

namespace Sys2Proof.Machine

/-- A marker (R94, R103). -/
inductive Mk where
  | none
  | eod (lvl : Nat)
  | eos
  deriving DecidableEq, Repr, Inhabited

/-- A token: 16 lanes and the control field of R94.  Two fields are the model's own, on no link: `last` says that its
kill unit ends with it (R106), and `prov` names the AGs of the cluster with a finished round that it descends from
(R293, R294), bit a for AG a. -/
structure Token where
  lanes : List Word32 := List.replicate 16 0
  valid : BitVec 16 := 0
  pmask : BitVec 16 := 0
  tag : Nat := 0
  mcode : Nat := 0
  lvl : Nat := 0
  cmp : Bool := false
  run : Nat := 0
  nseq : Nat := 0
  cns : Bool := false
  last : Bool := false
  prov : Nat := 0
  deriving DecidableEq, Repr, Inhabited

/-- An entry of a receive buffer (R99): the token, the number of the configuration that sent it, and how many of its
logical tokens each switch word has taken (R100, R102). -/
structure BufEnt where
  tok : Token
  cfg : Nat := 0
  taken : Tab Nat := []
  deriving DecidableEq, Repr, Inhabited

/-- A token in an output register, or behind it as a later token of the same firing; the numbers among the unit's tokens
of those it stands for, for the census (R110), in words N, E, S and W those of the copies; and the switch words that have taken it. -/
structure OutTok where
  tok : Token
  fids : List Nat := []
  served : List Nat := []
  deriving DecidableEq, Repr, Inhabited

/-- A firing that has not retired (R110): the copies of its tokens not yet accepted by a first receiving buffer, and the fall. -/
structure Firing where
  ids : List Nat
  fall : Nat
  deriving DecidableEq, Repr, Inhabited

/-- A kill mask remembered at a port for a kill unit (R106, R107). -/
structure KillRec where
  port : Nat
  unit : Nat
  mask : BitVec 16
  deriving DecidableEq, Repr, Inhabited

/-- The buffers, registers and counts that a tile or an AG keeps for its links.

Receive buffers are keyed 4 * input + channel, inputs N, E, S, W, then slots A, B, C, P (R99); output registers N, E, S,
W, out0, out1 (R422), where a list holds the register's token and, behind it, the later tokens of the same firing.
Ports of kill units and masks (R106, R107): 0 to 7 the switch words, 8 and 9 the unit's outputs, 10 to 13 the inputs,
16 to 19 the slots. -/
structure Links where
  bufs : Tab (List BufEnt) := []
  outs : Tab (List OutTok) := []
  firings : List Firing := []
  nextId : Nat := 0
  /-- Counted tokens that the unit's state still holds (R110). -/
  kept : Nat := 0
  units : Tab Nat := []
  kills : List KillRec := []
  /-- Slots that have delivered EOS; slots whose stream has carried digits. -/
  slotEos : List Nat := []
  digIn : List Nat := []
  /-- The tag of the last token popped from slot A, MARKER tokens apart (R214); what the tokens popped so far descend from (R293). -/
  tagA : Option Nat := none
  prov : Nat := 0
  deriving DecidableEq, Repr, Inhabited

/-- A kill on a reverse wire: the unit that holds the link's sending end, the port of it, KSEQ and the lanes, and the number of
the configuration whose stream it concerns (R99, R106). -/
structure KillMsg where
  unit : Nat
  port : Nat
  kseq : Nat
  mask : BitVec 16
  cfg : Nat := 0
  deriving DecidableEq, Repr, Inhabited

/-- One configuration slot of a tile (R152); `cfg` numbers the configuration within its residency and `image` is the
VA of the image it came from.  `mtData` holds the words of MT-contents records (R92). -/
structure TileCfg where
  pe : Word32 := 0
  mts : Tab Word32 := []
  consts : Tab (List Word32 × Nat) := []
  pols : Tab Nat := []
  hold : Option Token := none
  sw : Tab Nat := []
  mtData : Tab Nat := []
  cfg : Nat := 0
  image : Word := 0
  deriving DecidableEq, Repr, Inhabited

/-- One lane of a number (R95, R133): its header (the exponent E, or a special code) and its digits, most significant
first; `bad` when a digit code 0b100 was received. -/
structure DNum where
  spec : Bool := false
  e : Nat := 0
  digits : List Int := []
  bad : Bool := false
  deriving DecidableEq, Repr, Inhabited

/-- One number being received or held in a digit slot (R147, R241), by lane; the DIGITS tokens received so far; whether
the number has ended; the marker it carries; and its kill unit. -/
structure NumBuf where
  valid : BitVec 16 := 0
  pmask : BitVec 16 := 0
  lanes : List DNum := []
  toks : Nat := 0
  fin : Bool := false
  mark : Mk := .none
  unit : Nat := 0
  /-- It was made from a word token, so that no kill is ever sent for it (R242). -/
  wordFed : Bool := false
  /-- Counted tokens that were popped for it by firings that pushed nothing (R110): the header and the DIGITS tokens, and the word
  token whose last element it is. -/
  cns : List Nat := []
  cnsW : Nat := 0
  deriving DecidableEq, Repr, Inhabited

/-- An item of a digit slot's stream (R241): a number or a lone marker. -/
inductive DItem where
  | num (n : NumBuf)
  | mark (m : Mk)
  deriving DecidableEq, Repr, Inhabited

/-- The operation state of R213 and R241. -/
structure OpSt where
  /-- CVT narrowing: group position, lanes so far, validity, poison, strongest marker. -/
  grpPos : Nat := 0
  grp : List Nat := []
  grpValid : BitVec 16 := 0
  grpPoison : BitVec 16 := 0
  grpMk : Mk := .none
  /-- RED: partials by 128q + 8i + j, tokens so far; RED, SCAN and DELTA: poison. -/
  parts : Tab Nat := []
  step : Nat := 0
  poisoned : Bool := false
  /-- SCAN's carry, DELTA's previous value, CNT's count. -/
  carry : Option Nat := none
  prev : Nat := 0
  count : Nat := 0
  /-- GATE and STEER under ACT: the segment's decision.  MERGE: the slot in use, the slot that is closed. -/
  decision : Option Bool := none
  chosen : Option Nat := none
  closed : Option Nat := none
  /-- PACKB and UNPKB: the bits held, lowest first, each with the mark of a poisoned lane. -/
  bits : List (Bool × Bool) := []
  /-- Digits framed for word-mode slots (R243), by slot; tokens ready for a firing. -/
  frames : Tab NumBuf := []
  framed : Tab (List NumBuf) := []
  ready : Tab (List Token) := []
  /-- Digit mode: items of slots A, B and C that are not yet consumed, oldest first. -/
  items : Tab (List DItem) := []
  /-- The output number in progress: header sent, DIGITS tokens sent, the predicate token of the number. -/
  hdrSent : Bool := false
  sent : Nat := 0
  pred : Option Token := none
  /-- DRACE: the identity token of the number at hand. -/
  idTok : Option Token := none
  /-- The decision of each decided lane: 0 to 2 the slot chosen, 8 + c a special code c, 16 invalid, and from 32 on a number
  with its exponent and extra delay. -/
  picks : Tab Nat := []
  /-- DCMPK: output 1's token has carried the number's marker. -/
  marked : Bool := false
  /-- DRACE: lanes of the number at hand that have lost; elsewhere the lanes that the number's header carried. -/
  decided : BitVec 16 := 0
  /-- DRACE and DACC: the segment or group holds a number; the marker of the one whose result is being sent. -/
  opened : Bool := false
  closing : Option Mk := none
  /-- DRACE: champions and identities by lane, and poison. -/
  champ : Tab DNum := []
  ident : Tab Nat := []
  racePoison : BitVec 16 := 0
  /-- DACC: sums over 4^(-272), special codes, lanes that held a number. -/
  acc : Tab Int := []
  accSpec : Tab Nat := []
  accAny : BitVec 16 := 0
  accPoison : BitVec 16 := 0
  /-- Counted tokens whose content is held (R110): those of a framed token by slot, those of a group's accumulation and of its marker,
  and DRACE's: the number that each lane's champion comes from, the counted tokens of each such number, the numbers so far. -/
  readyCns : Tab Nat := []
  stash : Nat := 0
  champFrom : Tab Nat := []
  champCns : Tab Nat := []
  races : Nat := 0
  deriving DecidableEq, Repr, Inhabited

/-- A token queue of an MT word (R210): tokens, oldest first, whose lanes stand in the region's words; the number stored
so far; whether everything held is to be sent; and where the region starts and how many tokens it holds. -/
structure MtQueue where
  toks : List Token := []
  stored : Nat := 0
  flush : Bool := false
  base : Nat := 0
  depth : Nat := 1
  deriving DecidableEq, Repr, Inhabited

/-- One tile (R4): its configuration slots, its links and its unit. -/
structure Tile where
  fg : Option TileCfg := none
  bg : Option TileCfg := none
  lk : Links := {}
  flags : Nat := 0
  fidx : Nat := 0
  op : OpSt := {}
  /-- MT contents by word index, where not 0; token queues by the slot that fills them. -/
  mt : Tab Nat := []
  queues : Tab MtQueue := []
  /-- Switch words that have passed EOS. -/
  swEos : List Nat := []
  /-- The channels that the foreground streams of the inputs use (R99): 4 * input + channel. -/
  inVc : List Nat := []
  deriving DecidableEq, Repr, Inhabited

/-- One configuration slot of an AG (R152), with the binding of its port. -/
structure AgCfg where
  word : Word32 := 0
  shape : Nat := 0
  bind : Option Bind := none
  cfg : Nat := 0
  image : Word := 0
  deriving DecidableEq, Repr, Inhabited

/-- A token position that an AG is working on (R194): the operand tokens it popped, the next lane to perform, what its
lanes have loaded, and the marker its token carries. -/
structure AgPos where
  a : Option Token := none
  b : Option Token := none
  lane : Nat := 0
  out : List Nat := List.replicate 16 0
  valid : BitVec 16 := 0
  pmask : BitVec 16 := 0
  mark : Mk := .none
  deriving DecidableEq, Repr, Inhabited

/-- Where an AG stands in its rounds (R190 to R193). -/
inductive AgPhase where
  /-- Before a round: the P token, if any, has been popped or not. -/
  | start (pDone : Bool)
  /-- In a round. -/
  | walk
  /-- After the final round: discarding until each enabled slot has delivered EOS. -/
  | drain
  deriving DecidableEq, Repr, Inhabited

/-- A block-table descriptor as read (R28). -/
structure BlockTab where
  entries : Nat
  hpool : Nat
  cpool : Nat
  len : Nat
  bshift : Nat
  tshift : Nat
  deriving DecidableEq, Repr, Inhabited

/-- One address generator. -/
structure Ag where
  fg : Option AgCfg := none
  bg : Option AgCfg := none
  /-- The foreground before the present one, by which a neighbour that has not adopted yet takes its stream (R99). -/
  prev : Option AgCfg := none
  lk : Links := {}
  /-- The parameter queue (R332); the flag marks tokens claimed from an iteration record (R352). -/
  params : List (Token × Bool) := []
  /-- BASE and the extents, with overwrites (R190). -/
  base : Nat := 0
  ext : List Nat := []
  phase : AgPhase := .start false
  empty : Bool := false
  final : Bool := false
  licensed : Bool := false
  /-- Loop counters of lane 0 of the next token position. -/
  cnt : List Nat := [0, 0, 0, 0, 0]
  rounds : Nat := 0
  /-- A round of the configuration has ended (R293). -/
  past : Bool := false
  /-- AGSEL: the mask token in hand, and the number of the row. -/
  maskTok : Option Token := none
  row : Nat := 0
  /-- AGBT: the descriptor, and the present block's address once resolved. -/
  desc : Option BlockTab := none
  block : Option Nat := none
  cur : Option AgPos := none
  /-- Rounds performed but not yet reported by an order token; whether the last of them is final (R193). -/
  owed : List Bool := []
  /-- Stopped at a fault point; the fault record and FSEQ (R408). -/
  stopped : Bool := false
  fault : Nat := 0
  fseq : Nat := 0
  /-- The channels that its foreground streams use (R99). -/
  inVc : List Nat := []
  deriving DecidableEq, Repr, Inhabited

/-- What an island's port holds of a block (R262): the lines' bytes so far, their validity and poison. -/
structure PortBlk where
  lines : List (List Byte) := []
  valid : BitVec 16 := 0
  pmask : BitVec 16 := 0
  toks : Nat := 0
  deriving DecidableEq, Repr, Inhabited

/-- One fabric port of an island: receive buffer of channel 0, whole blocks taken for the word in hand (`none` for an
absent second block), the block under way, end of stream, kill units. -/
structure IslePort where
  buf : List BufEnt := []
  /-- A foreground stream has begun on it (R99). -/
  used : Bool := false
  got : List (Option PortBlk) := []
  cur : PortBlk := {}
  ended : Bool := false
  unit : Nat := 0
  /-- Blocks still to be killed, the next one to be popped among them (R273). -/
  toKill : Nat := 0
  fall : Nat := 0
  deriving DecidableEq, Repr, Inhabited

/-- One matrix island (R257 to R259).  Cells are keyed 32r + n; a cell that is not listed is +0. -/
structure Isle where
  fg : Option (List Word32) := none
  bg : Option (List Word32) := none
  cfg : Nat := 0
  bgCfg : Nat := 0
  image : Word := 0
  bgImage : Word := 0
  ipc : Nat := 0
  acc : Tab Nat := []
  atype : Nat := 0
  score : Tab Nat := []
  mask : List Nat := []
  prob : Tab Nat := []
  pfmt : Nat := 0xC
  /-- Running maxima, -inf where not listed, and denominators, +0 where not listed. -/
  m : Tab Nat := []
  l : Tab Nat := []
  /-- The held query slot, with poisoned offsets / 32. -/
  qbuf : Option (List Byte × List Nat) := none
  kc : Nat := 0
  skip : Bool := false
  table : Tab Nat := []
  /-- Descriptor registers that differ from their reset value. -/
  dreg : Tab Nat := []
  /-- MSTAT's flags, ERR, ENDED; EMPTY; DEADCNT. -/
  flags : Nat := 0
  err : Nat := 0
  ended : Bool := false
  empty : Nat := 0
  deadcnt : Nat := 0
  /-- Format codes of the last MMA (R270). -/
  lastA : Nat := 0
  lastB : Nat := 0
  f0 : IslePort := {}
  f1 : IslePort := {}
  /-- Output bytes not yet pushed, with the ring, once the word in hand has computed them. -/
  pushing : List (List Byte) := []
  pushRing : Nat := 0
  /-- The word in hand has done its work and only its pushes remain. -/
  done : Bool := false
  /-- The cycles of work that the word in hand has done, which tell its plane and chunk (R265, R267). -/
  cyc : Nat := 0
  deriving DecidableEq, Repr, Inhabited

end Sys2Proof.Machine
end

