-- ==== Sys2Proof/Machine/DieTypes.lean ====
section
/-! DEFINITION. The parts of the state that the dies and the IOD own: leases and pralines (chapter 18), power, boost and
thermal state (chapter 19), exchange engines and firmware (chapter 21), Amber (chapter 2). -/

namespace Sys2Proof.Machine

/-! ### Leases and pralines -/

/-- A praline command (R376 to R378): its descriptor, and how far it has come. -/
structure PCmd where
  desc : Nat
  seq : Nat
  ctx : Nat
  /-- It has been validated at the head of its queue. -/
  started : Bool := false
  /-- Units completed, source bytes consumed, bytes written by completed units. -/
  units : Nat := 0
  spos : Nat := 0
  dpos : Nat := 0
  /-- HCHAIN: the digest so far, and whether it came from poison. -/
  chain : List Byte := []
  chainBad : Bool := false
  poisoned : Bool := false
  /-- No access remains: the status, fault level and faulting VA are final. -/
  finished : Bool := false
  status : Nat := 0
  lvl : Nat := 0
  fva : Nat := 0
  deriving DecidableEq, Repr, Inhabited

/-- An entry of a lease's command queue: a command, or the marker of a QFENCE (R376). -/
inductive PEnt where
  | cmd (c : PCmd)
  | marker (id : Nat)
  deriving DecidableEq, Repr, Inhabited

/-- What a lease slot holds (R369); `closing` is a lease given up by LFREE whose accepted commands still run (R334). -/
inductive SlotSt where
  | free
  | request
  | lease
  | closing
  deriving DecidableEq, Repr, Inhabited

/-- One lease slot of a cluster (R369, R372). -/
structure LeaseSlot where
  gen : Nat := 0
  st : SlotSt := .free
  ctx : Nat := 0
  kind : Nat := 0
  prio : Nat := 0
  chan : Nat := 0
  tag : Nat := 0
  /-- The praline of a lease, 16 * kind + index, and the order of its grant. -/
  praline : Nat := 0
  grant : Nat := 0
  /-- UNIT of the handle (R369): the praline's index when it was granted; a restore may put the lease on another (R386). -/
  unit : Nat := 0
  /-- The lease was granted to a queued request, whose number still names it (R334). -/
  asked : Bool := false
  q : List PEnt := []
  next : Nat := 0
  deriving DecidableEq, Repr, Inhabited

/-- Who holds a praline: a lease slot of a cluster, by local number, or Amber (R385). -/
inductive Holder where
  | slot (cl slot : Nat)
  | amber
  deriving DecidableEq, Repr, Inhabited

/-- One praline (R368): awake since its wake began at `since`; ready; who holds it; since when it has had no work (a
leased one) or has lingered (an unleased one); the reference clock when its holder was given notice (R374). -/
structure Praline where
  awake : Bool := false
  since : Nat := 0
  ready : Bool := false
  holder : Option Holder := none
  idle : Nat := 0
  notice : Option Nat := none
  /-- The order of the grant of a lease of Amber's that the arbiter has granted; 0 for those from start-up (R373). -/
  grant : Nat := 0
  deriving DecidableEq, Repr, Inhabited

/-- An entry of a die's lease queue (R371): a queued request, or a wake request, of a slot or of Amber; Amber's requests
name their kind. -/
structure LeaseReq where
  wake : Bool
  holder : Holder
  kind : Nat
  prio : Nat
  /-- The victim that has been given notice for this request (R373), by praline. -/
  victim : Option Nat := none
  deriving DecidableEq, Repr, Inhabited

/-- A crypto key slot of a die (R383): the context it is bound to and its key. -/
structure KeySlot where
  ctx : Nat
  key : List Byte
  deriving DecidableEq, Repr, Inhabited

/-! ### Power, boost and heat -/

/-- An active boost lease (R396 to R398). -/
structure Boost where
  ctx : Nat
  die : Nat
  cl : Nat
  chan : Nat
  watts : Nat
  dur : Nat
  gen : Nat
  /-- The die's reference clock at the grant and, once given, at the notice. -/
  start : Nat
  notice : Option Nat := none
  deriving DecidableEq, Repr, Inhabited

/-- How far a thermal emergency of a die has come (R402). -/
inductive EmergPhase where
  | none
  | saving
  | saved
  | selfRefresh
  | down
  deriving DecidableEq, Repr, Inhabited

/-- A die's thermal emergency: its phase, T0, the time of the last step, the contexts still to save, those saved and
those lost; and since when TJ has stayed at or below 95 degrees (R403). -/
structure Emerg where
  phase : EmergPhase := .none
  t0 : Nat := 0
  last : Nat := 0
  todo : List Nat := []
  saved : List Nat := []
  lost : List Nat := []
  cool : Option Nat := none
  deriving DecidableEq, Repr, Inhabited

/-! ### Exchange engines (R428 to R431) -/

/-- An exchange command: its descriptor and its progress. -/
structure XCmd where
  desc : Nat
  seq : Nat
  ctx : Nat
  cl : Nat
  started : Bool := false
  /-- The next routing-list entry of an A2A, the packages that the earlier ones name, each once, and bytes written. -/
  entry : Nat := 0
  pkgs : List Nat := []
  written : Nat := 0
  poisoned : Bool := false
  finished : Bool := false
  status : Nat := 0
  lvl : Nat := 0
  fva : Nat := 0
  deriving DecidableEq, Repr, Inhabited

/-- An entry of an exchange queue: a command, or the marker of a QFENCE that a cluster placed. -/
inductive XEnt where
  | cmd (c : XCmd)
  | marker (id cl : Nat)
  deriving DecidableEq, Repr, Inhabited

/-- One exchange queue: its entries, oldest first, and the next sequence number. -/
structure XQueue where
  ents : List XEnt := []
  next : Nat := 0
  deriving DecidableEq, Repr, Inhabited

/-! ### Amber (R34 to R54, R465) -/

/-- What a context is configured with (R52): parking allowed, its free stacks, its key slot. -/
structure AmbCtx where
  en : Bool := false
  hstack : Nat := 0
  cstack : Nat := 0
  keyslot : Nat := 0
  deriving DecidableEq, Repr, Inhabited

/-- A transfer under way: the block, the H or C block popped for it (none for a move to tier F), and the entry value
Amber last read. -/
structure Transfer where
  block : Nat
  popped : Option Nat := none
  entry : Nat
  deriving DecidableEq, Repr, Inhabited

/-- A block on its way back to a free stack (R39, R53, R465): the context and the stack's top word, the cluster that a
failure is reported to, the block, the VA of the entry that must quiesce first, if any, and whether an access of the push
has failed (R465: DROP then ends the wait). -/
structure Push where
  ctx : Nat
  cl : Nat
  top : Nat
  block : Nat
  entry : Option Nat := none
  failed : Bool := false
  deriving DecidableEq, Repr, Inhabited

/-- An entry that could not be read or written when its block was to be given back (R48, R458, R465), to be dealt with later:
the context, the cluster that failures are reported to, the C stack, the block's number and the VA of its entry; `beyond` where
the entry lies beyond the last LEN and is only read (R49). -/
structure Undone where
  ctx : Nat
  cl : Nat
  cstack : Nat
  block : Nat
  va : Nat
  beyond : Bool := false
  deriving DecidableEq, Repr, Inhabited

/-- A resume launch that met FULL (R45): the record, its context and CLUSTER, the packet as first submitted, the message
of R44, and Amber's clock at the last submission. -/
structure Resubmit where
  rix : Nat
  ctx : Nat
  cl : Nat
  packet : Nat
  msg : Msg
  last : Nat
  deriving DecidableEq, Repr, Inhabited

/-- Amber's private state of a continuation record. -/
structure AmbRec where
  /-- 0 FREE, 1 PARKED, 2 PROMOTING, 3 RESUMED. -/
  st : Nat := 0
  /-- The record's 64 bytes as read at the park (R34). -/
  img : Nat := 0
  payload : Nat := 0
  perr : Nat := 0
  /-- The effective timers and horizon, in milliseconds and blocks. -/
  hcMs : Nat := 0
  cfMs : Nat := 0
  horizon : Nat := 0
  /-- The block-table descriptor as read at the park (R35). -/
  tab : Option BlockTab := none
  /-- LEN as last read, the largest LEN read since the park, and the depth of the promotion range (0: every block). -/
  len : Nat := 0
  lenMax : Nat := 0
  depth : Nat := 0
  /-- Amber's clock, in microseconds, at the park; AGE_MS as last written; when the last H-to-C demotion completed. -/
  parkAt : Nat := 0
  age : Nat := 0
  hcEnd : Option Nat := none
  /-- The timers have expired, the last at this AGE_MS; the blocks of the present pass still to demote, in order; the
  clock at the last examination. -/
  hcDue : Bool := false
  cfDue : Bool := false
  dueMs : Nat := 0
  pass : List Nat := []
  lastExam : Nat := 0
  /-- Pending blocks in promotion order; those that PROMOTE_ONE put ahead of the others, the latest first (R47); blocks whose
  demotion, and blocks whose promotion, waits for the next examination; transfers under way. -/
  pend : List Nat := []
  ahead : List Nat := []
  skip : List Nat := []
  skipP : List Nat := []
  demHC : Option Transfer := none
  demCF : Option Transfer := none
  proC : Option Transfer := none
  proF : Option Transfer := none
  /-- A pool-dry message has been posted for the present halt; a class 0xA2 message since the last examination. -/
  dry : Bool := false
  told : Bool := false
  /-- Pushes and dropped entries still to be dealt with; when the failed ones, and when those that LOCK or a quiesce holds
  back, were last tried (R53, R465). -/
  pushes : List Push := []
  undone : List Undone := []
  lastPush : Nat := 0
  lastHeld : Nat := 0
  deriving DecidableEq, Repr, Inhabited

/-- A block in tier F (R40): its ciphertext and tag, its serial, and the context and key slot it was written with. -/
structure Extent where
  data : List Byte
  serial : Nat
  deriving DecidableEq, Repr, Inhabited

/-- Amber of one die: its parameters (R52), registers (R35), records, and private map of extents, keyed
2^28 * record + block. -/
structure Amber where
  recBase : Nat := 0
  recCount : Nat := 0
  hcDef : Nat := 200
  cfDef : Nat := 20000
  horizonDef : Nat := 64
  /-- Namespace, first and last LBA. -/
  fns : Option (Nat × Nat × Nat) := none
  mapBase : Nat := 0
  ctxs : Tab AmbCtx := []
  recs : Tab AmbRec := []
  drops : Nat := 0
  serial : Nat := 0
  exts : Tab Extent := []
  /-- Freed extents whose deallocation is still to be done (R439), by bytes. -/
  freed : List Nat := []
  /-- Resume launches that met FULL, oldest first (R45). -/
  retries : List Resubmit := []
  /-- Amber's clock, in microseconds: the die's reference clock, but standing still while the die is down (R403). -/
  clock : Nat := 0
  deriving DecidableEq, Repr, Inhabited

/-! ### Firmware (R432 to R440) -/

/-- A doorbell that firmware has still to serve: the mailbox, the block's address, and the writer. -/
structure FwCmd where
  mbx : Nat
  addr : Nat
  ctx : Nat := 0
  cl : Nat := 0
  deriving DecidableEq, Repr, Inhabited

/-- The registers of a mailbox (R432). -/
structure Mailbox where
  busy : Bool := false
  status : Nat := 0
  done : Nat := 0
  vec : Word := 0
  deriving DecidableEq, Repr, Inhabited

/-- A MAP or UNMAP whose entries are written and whose completion waits for R27: the context, the range, the table
pages to give back. -/
structure Mapping where
  cmd : FwCmd
  ctx : Nat
  va : Nat
  len : Nat
  freed : List Nat
  deriving DecidableEq, Repr, Inhabited

/-- A watch on the bytes `[lo, hi)` during a demotion (R39). -/
structure Watch where
  die : Nat
  rix : Nat
  lo : Nat
  hi : Nat
  hit : Bool := false
  deriving DecidableEq, Repr, Inhabited

end Sys2Proof.Machine
end

