-- ==== Sys2Proof/Machine/State.lean ====
section
/-! DEFINITION. The state of the package: plain data, holding everything the spec gives the machine, and the state
right after reset. -/

namespace Sys2Proof.Machine

/-- The reasons a step can stop with a fault. -/
inductive Fault where
  /-- A host access (R291) to a physical address that R10 reserves.  Raised by HOST_MEMORY_ACCESS; safe: the model
  stops where a real bus would answer with an abort. -/
  | noSuchAddress (pa : Nat)
  deriving DecidableEq, Repr

/-- The reasons a step can be refused. -/
inductive Refusal where
  /-- The instruction has no meaning in this model yet.  Raised by the dispatcher only; safe. -/
  | notModelled (mnemonic : String)
  deriving DecidableEq, Repr

/-- The unit that takes the present step: a die, a cluster by its package number (R3), and within the cluster a unit:
0 to 255 tiles as 16y + x, 256 to 287 AGs, 288 to 291 islands, 292 the sequencer, 300 to 307 copy queues; of the die,
400 to 463 pralines and 500 to 507 exchange queues.  Host accesses have unit 293, those of a link's peer 294. -/
structure Actor where
  die : Nat := 0
  cl : Nat := 0
  unit : Nat := 292
  deriving DecidableEq, Repr, Inhabited

/-- Whose turn it is.  The agenda of the state lists the turns to come (R280: many agents act; the machine takes one
turn at a time). -/
inductive Turn where
  /-- The sequencer of a cluster executes one instruction. -/
  | seq (cl : Nat)
  /-- A store buffer performs its entry `k` (R286). -/
  | drain (cl k : Nat)
  /-- A sequencer issues the load at its pc, to be performed later (R286). -/
  | issue (cl : Nat)
  /-- A sequencer's pending load `k` is performed. -/
  | perform (cl k : Nat)
  /-- A fabric unit fires its word. -/
  | fire (cl unit : Nat)
  /-- The named step is taken by the named actor. -/
  | event (a : Actor) (i : Instr)
  /-- A die's reference clock advances by some microseconds. -/
  | tick (die us : Nat)
  deriving DecidableEq, Repr, Inhabited

/-- The turn that comes when the agenda is empty: free (R280 fixes no order among the agents). -/
opaque Config.freeTurn : Nat → Turn

/-- A context (R18, R436). -/
structure Ctx where
  live : Bool := false
  root : Option Nat := none
  maxprio : Nat := 0
  powerw : Nat := 0
  rights : Nat := 0
  /-- MCMODE.FRUN (R292). -/
  frun : Bool := false
  ychan : Option Nat := none
  emergVa : Word := 0
  emergLen : Nat := 0
  peerVa : Word := 0
  rptPeer : Word := 0
  /-- Saves of this context so far (R420); it is being destroyed (R433). -/
  saves : Nat := 0
  dying : Bool := false
  deriving DecidableEq, Repr, Inhabited

/-- One cluster. -/
structure Cluster where
  seq : Seq := {}
  chans : Tab Channel := []
  held : List Held := []
  /-- Bytes of the 48 banks by local offset, and the poisoned 32-byte words (R462). -/
  sram : Mem := []
  sramPoison : List Nat := []
  /-- Bank modes that are not 0 (SCRATCH); the last BANKMODE request (R75, R78). -/
  bankMode : Tab Nat := []
  bankReq : BankReq := {}
  rings : Tab Ring := []
  bankQs : Tab BankQ := []
  stages : Tab Stage := []
  /-- Copy queues 0 to 7, the number of commands accepted so far, and the barrier slots (R55, R69, R70). -/
  cqs : Tab CopyQueue := []
  stamp : Nat := 0
  /-- The queue, 0 to 3, that each engine last dispatched from (R64). -/
  ceLast : Tab Nat := []
  bars : Tab Barrier := []
  resids : Tab Resid := []
  pages : Tab PageSt := []
  isles : Tab PageSt := []
  /-- Tiles by 16y + x, AGs 0 to 31, islands 0 to 3, and kills on their way (R106). -/
  tiles : Tab Tile := []
  ags : Tab Ag := []
  mats : Tab Isle := []
  wires : List KillMsg := []
  /-- The bucket of each region, by clock spine (R387, R389). -/
  power : Tab Nat := []
  /-- The lease slots 0 to 7 (R369). -/
  leases : Tab LeaseSlot := []
  deriving DecidableEq, Repr

/-- One compute die. -/
structure Die where
  /-- The reference clock, in microseconds. -/
  clock : Nat := 0
  /-- The launch unit (R353 to R366): queued launches in acceptance order, the next launch number, the admitted gangs by
  launch number, and the host queues. -/
  launches : List Launch := []
  nextLaunch : Nat := 0
  gangs : Tab Gang := []
  hqs : Tab HostQ := []
  /-- Promotions that AGs have asked of Amber (R30): context and VA of the block-table entry. -/
  wanted : List (Nat × Nat) := []
  /-- The lease arbiter (R368 to R373): the awake limit, the pralines (Amber's standing lease holds codec 0 and crypto 0,
  R51, R437), the lease queue in arrival order, and the grants so far. -/
  awakeMax : Nat := 12
  pralines : Tab Praline := [(0, { holder := some .amber }), (32, { holder := some .amber })]
  leaseQ : List LeaseReq := []
  grants : Nat := 0
  /-- The key slots that are bound (R383). -/
  keys : Tab KeySlot := []
  /-- Spine frequencies in effect and as last set by POWER_CFG, where not 2,400 MHz (R392, R394). -/
  spineF : Tab Nat := []
  spineReq : Tab Nat := []
  /-- TSPIN: the spine of each tile, where not 0, by 256 * local cluster + tile (R394); spines set by POWER_CFG that wait
  for an interval boundary; PSTALL. -/
  tspin : Tab Nat := []
  tspinNew : Tab Nat := []
  pstall : Word := 0
  /-- TJ, the warning state, and the thermal emergency (R394, R400 to R403). -/
  tj : Nat := 0
  warning : Bool := false
  emerg : Emerg := {}
  /-- The queues of the exchange engines, 4 * engine + queue (R428). -/
  xqs : Tab XQueue := []
  amber : Amber := {}
  deriving DecidableEq, Repr, Inhabited

/-- What a save image holds of one cluster (R420 to R422): the local cluster, the grade, the cluster as it stood, and by lease
slot the notices under way (R374, R419). -/
structure SavedCl where
  cl : Nat
  coop : Bool
  body : Cluster
  notes : Tab Nat := []
  deriving DecidableEq, Repr

/-- A pre-emption of a context on a die (R413 to R420): where the image goes and how much room there is, the clusters
affected, what the decided ones have saved, the messages discarded since, and the CTX_DESTROY command that waits for it. -/
structure Preempt where
  ctx : Nat
  die : Nat
  va : Nat
  room : Option Nat := none
  cls : List Nat
  snap : List SavedCl := []
  late : Nat := 0
  cmd : Option FwCmd := none
  deriving DecidableEq, Repr

/-- What a save image holds (R420 to R422). -/
structure SaveRec where
  ctx : Nat
  die : Nat
  cls : List SavedCl
  /-- MCMODE.FRUN (R292). -/
  frun : Bool := false
  /-- Queued exchange commands of the context and QFENCE markers of the saved clusters, by exchange queue. -/
  xcmds : List (Nat × XEnt) := []
  /-- Its gangs on the die, by launch number. -/
  gangs : Tab Gang := []
  deriving DecidableEq, Repr

/-- Something that leaves the package: a residency report (R366), a write or signal to a peer (R430), an interrupt. -/
structure OutMsg where
  /-- 0 link report, 1 exchange write, 2 exchange signal, 3 exchange read request, 4 interrupt, 5 firmware report,
  6 completer abort, 7 mailbox-5 block, 9 answer to a peer's request, 10 data read by the host. -/
  kind : Nat
  dest : Nat
  addr : Nat := 0
  data : List Byte := []
  /-- For the exchange kinds: the context that the remote address belongs to, the peer-map entry that leads to the package
  (R430, R436), and the offsets of poisoned bytes (R431). -/
  ctx : Nat := 0
  link : Nat := 0
  bad : List Nat := []
  deriving DecidableEq, Repr, Inhabited

/-- The IOD and what belongs to the package. -/
structure Package where
  /-- The confirmed feature vector (R435). -/
  features : Nat := 0
  /-- The lifetime log's running counts, keyed histogram * 2^32 + bin, and as last rewritten (R440). -/
  log : Tab Nat := []
  logNv : Tab Nat := []
  /-- The IOD's reference clock, in microseconds, and when it next calls for a rewrite of the log (R440). -/
  clock : Nat := 0
  logDue : Nat := 600000000
  /-- The steps of R437 that are complete: 8 once the package is up, 0 while it has no power or no valid firmware. -/
  startup : Nat := 8
  /-- Mailboxes, and the doorbells still to serve, oldest first (R432, R433). -/
  mbx : Tab Mailbox := []
  fwq : List FwCmd := []
  mapping : Option Mapping := none
  /-- Page-table frames of the firmware pool that are in use, by index (R434). -/
  poolUsed : List Nat := []
  /-- Pre-emptions under way (R413). -/
  preempts : List Preempt := []
  /-- Active boost leases, the next serial, and the joules granted with the time of the grant (R396). -/
  boosts : List Boost := []
  boostGen : Nat := 0
  boostLog : List (Nat × Nat) := []
  /-- The leaf counter of the identity key (R438); the running firmware image, empty for the delivered one, and the image in
  the inactive flash bank (R434, R437). -/
  leaf : Nat := 0
  fwRun : List Byte := []
  flash : List Byte := []
  /-- Links whose peer is lost (R425); the numbers of QFENCEs placed. -/
  lost : List Nat := []
  fences : Nat := 0
  /-- What the package has sent over its links and to its host, oldest first. -/
  outbox : List OutMsg := []
  deriving DecidableEq, Repr, Inhabited

/-- The whole machine. -/
structure State where
  mem : Mem := []
  /-- Poisoned 32-byte words of memory, as physical address / 32 (R17). -/
  poison : List Nat := []
  /-- Copies that dies hold of lines homed elsewhere; key die * 2^41 + line (R13, R282). -/
  copies : Tab LineCopy := []
  invals : List Inval := []
  tlb : List TlbEnt := []
  /-- Accesses to tier C that have gone unanswered (R15): the unit, and the word that its next turn finds poisoned. -/
  timeouts : List (Actor × Nat) := []
  /-- The words that the accesses of the present turn find uncorrectable (R15). -/
  armed : List Nat := []
  /-- Writes to device registers that the present turn's engine has made (R14). -/
  devq : List DevAcc := []
  /-- Blocks that Amber watches while it copies them (R39). -/
  watches : List Watch := []
  clusters : Tab Cluster := []
  dies : Tab Die := []
  ctxs : Tab Ctx := []
  pkg : Package := {}
  /-- Who takes the present step, and who takes the next ones (the model's own fields). -/
  actor : Actor := {}
  agenda : List Turn := []
  /-- How many free values have been drawn (the model's own field). -/
  free : Nat := 0
  deriving DecidableEq, Repr

/-- The machine right after reset. -/
def State.reset : State := {}

end Sys2Proof.Machine
end

