-- ==== Sys2Proof/Machine/Base.lean ====
section
/-! DEFINITION. Accessors of clusters, dies and contexts; free values; the message channels (R306). -/

namespace Sys2Proof.Machine

/-- Cluster `c` (package number, R3). -/
def State.cl (s : State) (c : Nat) : Cluster := s.clusters.get c {}

/-- Replaces cluster `c`. -/
def State.setCl (s : State) (c : Nat) (k : Cluster) : State := { s with clusters := s.clusters.put c k }

/-- The sequencer of cluster `c`. -/
def State.sq (s : State) (c : Nat) : Seq := (s.cl c).seq

/-- Replaces the sequencer of cluster `c`. -/
def State.setSq (s : State) (c : Nat) (q : Seq) : State := s.setCl c { s.cl c with seq := q }

/-- Die `d`. -/
def State.die (s : State) (d : Nat) : Die := s.dies.get d {}

/-- Replaces die `d`. -/
def State.setDie (s : State) (d : Nat) (k : Die) : State := { s with dies := s.dies.put d k }

/-- Context `x`. -/
def State.ctx (s : State) (x : Nat) : Ctx := s.ctxs.get x {}

/-- Replaces context `x`. -/
def State.setCtx (s : State) (x : Nat) (k : Ctx) : State := { s with ctxs := s.ctxs.put x k }

/-- Replaces the package part. -/
def State.setPkg (s : State) (p : Package) : State := { s with pkg := p }

/-- The die of a cluster (R3). -/
def dieOf (c : Nat) : Nat := c / 40

/-- The local number of a cluster (R3). -/
def localOf (c : Nat) : Nat := c % 40

/-- A free number, and the state that has drawn it. -/
def State.drawNat (s : State) : Nat × State := (Config.freeNat s.free, { s with free := s.free + 1 })

/-- A free 64-bit value, and the state that has drawn it. -/
def State.drawWord (s : State) : Word × State := (Config.freeWord s.free, { s with free := s.free + 1 })

/-- How many messages a channel's queue holds (R306). -/
def chanCap (n : Nat) : Nat := if n = 0 then 64 else 32

/-- Channel `n` of cluster `c`. -/
def State.chan (s : State) (c n : Nat) : Channel := (s.cl c).chans.get n {}

/-- Replaces channel `n` of cluster `c`. -/
def State.setChan (s : State) (c n : Nat) (x : Channel) : State :=
  s.setCl c { s.cl c with chans := (s.cl c).chans.put n x }

/-- The channel's queue has room. -/
def State.chanRoom (s : State) (c n : Nat) : Bool := decide ((s.chan c n).queue.length < chanCap n)

/-- The save of a context has written the sections of cluster `c` (R416). -/
def State.saveWritten (s : State) (c x : Nat) : Bool :=
  s.pkg.preempts.any (fun p => p.ctx == x && p.die == dieOf c && p.snap.any (fun z => z.cl == localOf c))

/-- The context that channel `n` of cluster `c` is bound in, if its save has written the cluster (R416). -/
def State.savedCtx (s : State) (c n : Nat) : Option Nat :=
  let q := (s.chan c n).q.toNat
  if bit q 48 && s.saveWritten c (fld q 47 42) then some (fld q 47 42) else none

/-- A message for context `x` reaches cluster `c` after its save has written it: it is discarded and counted (R416, R420). -/
def State.discardLate (s : State) (c x : Nat) : State :=
  s.setPkg { s.pkg with preempts := s.pkg.preempts.map (fun (p : Preempt) =>
    if p.ctx = x ∧ p.die = dieOf c then { p with late := p.late + 1 } else p) }

/-- Queues a message that has reached its channel; one for a context already saved here is discarded and counted (R416,
R420). -/
def State.enqueue (s : State) (c n : Nat) (m : QMsg) : State :=
  match s.savedCtx c n with
  | none => s.setChan c n { s.chan c n with queue := (s.chan c n).queue ++ [m] }
  | some x => s.discardLate c x

/-- A sender behind a cluster's message port that is no agent of R280. -/
def senderPort : Nat := 38

/-- An agent outside a cluster as a sender of messages to it. -/
def senderOut (agent : Nat) : Nat := 100 + agent

/-- The sender's messages come through the cluster's message port (R306). -/
def viaPort (sender : Nat) : Bool := sender == senderPort || decide (100 ≤ sender)

/-- A held message keeps a later one of a sender for channel `n` waiting (R306): no sender's messages are reordered, and
the message port keeps the order in which messages to one channel arrived there. -/
def Held.blocks (h : Held) (sender n : Nat) : Bool :=
  h.sender == sender || (viaPort h.sender && viaPort sender && h.chan == n)

/-- A hardware sender posts a message: it is queued, or held while the queue is full or an earlier message blocks it
(R306). -/
def State.post (s : State) (c sender n : Nat) (m : QMsg) : State :=
  if (s.cl c).held.any (fun h => h.blocks sender n) || !s.chanRoom c n then
    s.setCl c { s.cl c with held := (s.cl c).held ++ [{ sender := sender, chan := n, m := m }] }
  else s.enqueue c n m

/-- A held message is retried: queued if its channel now has room and no earlier message that is still held blocks it. -/
def State.retryHeld (s : State) (c k : Nat) : State :=
  match (s.cl c).held[k]? with
  | none => s
  | some h =>
    if ((s.cl c).held.take k).any (fun e => e.blocks h.sender h.chan) || !s.chanRoom c h.chan then s
    else (s.setCl c { s.cl c with held := dropIdx (s.cl c).held k }).enqueue c h.chan h.m

/-- The place of a sender in the source order of R306: the cluster's own sequencer, its copy engines, AGs and islands, and the
message port. -/
def sourceRank (sender : Nat) : Nat := if sender = 39 then 0 else if viaPort sender then 39 else sender + 1

/-- The held messages of the senders at one place of the source order are retried once, oldest first. -/
def State.retryFrom (s : State) (c rank : Nat) : State :=
  ((List.range (s.cl c).held.length).foldl (fun (acc : State × Nat) _ =>
    let n := (acc.1.cl c).held.length
    let mine := match (acc.1.cl c).held[acc.2]? with | some h => sourceRank h.sender == rank | none => false
    let s' := if mine then acc.1.retryHeld c acc.2 else acc.1
    (s', if (s'.cl c).held.length = n then acc.2 + 1 else acc.2)) (s, 0)).1

/-- Every held message is retried once, in the source order (R306). -/
def State.retryAll (s : State) (c : Nat) : State :=
  if (s.cl c).held.isEmpty then s else (List.range 40).foldl (fun s r => s.retryFrom c r) s

/-- Machine-check messages (R410): to channel 0, or dropped with MCLOST when it is full (R306). -/
def State.postMc (s : State) (c : Nat) (m : QMsg) : State :=
  if s.chanRoom c 0 then s.enqueue c 0 m
  else s.setSq c { s.sq c with mcLost := true }

/-- Counts an event in the lifetime log's running counts (R440): histogram `h`, bin `k`; counters saturate. -/
def State.count (s : State) (h k : Nat) : State :=
  let key := h * 2 ^ 32 + k
  let n := s.pkg.log.get key 0
  s.setPkg { s.pkg with log := s.pkg.log.put key (min (n + 1) (2 ^ 64 - 1)) }

/-- Lifetime-log histograms (R440). -/
def logMachineCheck : Nat := 7

/-- A machine-check message (R410), counted in the lifetime log whether or not it is dropped (R411). -/
def State.machineCheck (s : State) (c ctx source unit pa : Nat) (va : Word) (detail : Nat) : State :=
  (s.count logMachineCheck source).postMc c
    { msg := { w0 := BitVec.ofNat 64 (source + unit * 2 ^ 8 + ctx * 2 ^ 16 + 0x90 * 2 ^ 56), w1 := BitVec.ofNat 64 pa,
               w2 := va, w3 := BitVec.ofNat 64 detail }, ctx := ctx }

/-- Writes a word of an MT. -/
def mtSet (mt : Tab Nat) (i v : Nat) : Tab Nat := if v % 2 ^ 32 = 0 then mt.del i else mt.put i (v % 2 ^ 32)

/-- Turns the current actor's cluster into its number. -/
def State.here (s : State) : Nat := s.actor.cl

end Sys2Proof.Machine
end

