-- ==== Sys2Proof/Machine/CopyDesc.lean ====
section
/-! DEFINITION. The copy-command descriptor (R58), the bytes its pattern touches, and the range scoreboard (R69). -/

namespace Sys2Proof.Machine

/-- KIND codes of R58. -/
def kCopy : Nat := 0
def kMaskrows : Nat := 1
def kStreamIn : Nat := 2
def kStreamOut : Nat := 3
def kArrive : Nat := 4
def kBarset : Nat := 5

/-- Fields of a descriptor (R58). -/
def dKind (d : Nat) : Nat := fld d 3 0
def dSspace (d : Nat) : Nat := fld d 5 4
def dDspace (d : Nat) : Nat := fld d 7 6
def dClr (d : Nat) : Bool := bit d 8
def dMsg (d : Nat) : Bool := bit d 9
def dMchan (d : Nat) : Nat := fld d 13 10
def dBaren (d : Nat) : Bool := bit d 14
def dCmen (d : Nat) : Bool := bit d 15
def dBar (d : Nat) : Nat := fld d 19 16
def dPort (d : Nat) : Nat := fld d 25 20
def dTag (d : Nat) : Nat := fld d 47 32
def dSrc (d : Nat) : Nat := fld d 127 64
def dDst (d : Nat) : Nat := fld d 191 128
def dRowBytes (d : Nat) : Nat := fld d 211 192
def dN1 (d : Nat) : Nat := fld d 243 224
def dN2 (d : Nat) : Nat := fld d 275 256
def dSs1 (d : Nat) : Int := signed (fld d 319 288) 32
def dSs2 (d : Nat) : Int := signed (fld d 351 320) 32
def dDs1 (d : Nat) : Int := signed (fld d 383 352) 32
def dDs2 (d : Nat) : Int := signed (fld d 415 384) 32
def dCmap (d : Nat) : Nat := fld d 437 416
def dCfirst (d : Nat) : Nat := fld d 467 448
def dAux (d : Nat) : Nat := fld d 501 480

/-- A reserved bit of the descriptor is set. -/
def dReserved (d : Nat) : Bool :=
  fld d 31 26 != 0 || fld d 63 48 != 0 || fld d 223 212 != 0 || fld d 255 244 != 0 || fld d 287 276 != 0 ||
  fld d 447 438 != 0 || fld d 479 468 != 0 || fld d 511 502 != 0

/-- The address of row `r` (in loop order, R60) on one side, modulo `2^64`. -/
def rowAddr (base : Nat) (s1 s2 : Int) (n1 r : Nat) : Nat :=
  wrapNat ((base : Int) + s2 * (r / n1 : Nat) + s1 * (r % n1 : Nat)) 64

def dRows (d : Nat) : Nat := dN1 d * dN2 d
def srcRow (d r : Nat) : Nat := rowAddr (dSrc d) (dSs1 d) (dSs2 d) (dN1 d) r
def dstRow (d r : Nat) : Nat := rowAddr (dDst d) (dDs1 d) (dDs2 d) (dN1 d) r

/-- The bounding interval (R59) of a pattern, as integers: lowest and highest byte. -/
def boundsOf (base : Nat) (s1 s2 : Int) (n1 n2 rowBytes : Nat) : Int × Int :=
  let a1 := s1 * (n1 - 1 : Nat)
  let a2 := s2 * (n2 - 1 : Nat)
  ((base : Int) + min 0 a1 + min 0 a2, (base : Int) + max 0 a1 + max 0 a2 + (rowBytes : Int) - 1)

def srcBounds (d : Nat) : Int × Int := boundsOf (dSrc d) (dSs1 d) (dSs2 d) (dN1 d) (dN2 d) (dRowBytes d)

/-- The destination interval; MASKROWS packs its rows (R69). -/
def dstBounds (d : Nat) : Int × Int :=
  if dKind d = kMaskrows then ((dDst d : Int), (dDst d : Int) + (dN1 d * dRowBytes d : Nat) - 1)
  else boundsOf (dDst d) (dDs1 d) (dDs2 d) (dN1 d) (dN2 d) (dRowBytes d)

/-- Two closed intervals overlap. -/
def overlaps (a b : Int × Int) : Bool := decide (a.1 ≤ b.2) && decide (b.1 ≤ a.2)

/-- The commands in a cluster's copy queues. -/
def Cluster.cmds (k : Cluster) : List CopyCmd :=
  (k.cqs.map (fun e => e.2.ents.filterMap (fun
    | .cmd c => some c
    | .marker _ => none))).flatten

/-- The command enters the scoreboard (R69). -/
def onBoard (c : CopyCmd) : Bool := dKind c.desc == kCopy || dKind c.desc == kMaskrows

/-- An access stalls: bytes `[a, a + n)` of a space (0 the VAs of a context, 1 cluster SRAM) overlap the destination of a
command accepted before `before` (R69). -/
def Cluster.stalls (k : Cluster) (before : Option Nat) (space ctx a n : Nat) : Bool :=
  k.cmds.any (fun c => onBoard c && (match before with | none => true | some b => decide (c.stamp < b)) &&
    dDspace c.desc == space && (space != 0 || c.ctx == ctx) &&
    overlaps (dstBounds c.desc) ((a : Int), (a : Int) + n - 1))

end Sys2Proof.Machine
end

