-- ==== Sys2Proof/Machine/Xlat.lean ====
section
/-! DEFINITION. Physical memory, die views and stores at home (R10 to R17, R282); translation (R18 to R25). -/

namespace Sys2Proof.Machine

/-- The usable tier-C capacity (R12). -/
def capC : Nat :=
  if Config.portBytes 0 = 0 then Config.portBytes 1
  else if Config.portBytes 1 = 0 then Config.portBytes 0
  else 2 * min (Config.portBytes 0) (Config.portBytes 1)

/-- Tier H (R10). -/
def inH (pa : Nat) : Bool := decide (pa < 0x8000000000)

/-- The usable range of tier C (R10, R12). -/
def inC (pa : Nat) : Bool := decide (0x10000000000 ≤ pa) && decide (pa < 0x90000000000) && decide (pa < 0x10000000000 + capC)

/-- The device registers (R10). -/
def inDev (pa : Nat) : Bool := decide (0xF0000000000 ≤ pa) && decide (pa < 0xF0100000000)

/-- A populated physical address (R10). -/
def populated (pa : Nat) : Bool := inH pa || inDev pa || inC pa

/-- The home die of a line of tier H or tier C (R11). -/
def homeDie (pa : Nat) : Nat := if inH pa then fld pa 38 37 else fld pa 13 12

/-- The copy key of a line on a die. -/
def copyKey (die line : Nat) : Nat := die * 2 ^ 41 + line

/-- Poison of the 32-byte word at a physical address, as an access of the present turn finds it (R15, R17). -/
def State.poisonedAt (s : State) (pa : Nat) : Bool := s.poison.contains (pa / 32) || s.armed.contains (pa / 32)

/-- A line as its home holds it. -/
def State.homeLine (s : State) (line : Nat) : LineCopy :=
  { data := ofBytes (s.mem.bytes (line * 128) 128),
    poison := ((List.range 4).map (fun i => b2n (s.poison.contains (line * 4 + i)) * 2 ^ i)).sum }

/-- A die's copy of a line homed elsewhere, if it holds one. -/
def State.copyOf (s : State) (die line : Nat) : Option LineCopy := s.copies.find (copyKey die line)

/-- One byte and its poison, as a die sees it (R282): the home's byte, or the die's copy when the access is CACHED. -/
def State.viewByte (s : State) (die : Nat) (cached : Bool) (pa : Nat) : Byte × Bool :=
  match (if cached && homeDie pa != die then s.copyOf die (pa / 128) else none) with
  | some c => (BitVec.ofNat 8 (c.data >>> (8 * (pa % 128))), c.poison.testBit (pa % 128 / 32))
  | none => (s.mem.byte pa, s.poisonedAt pa)

/-- A CACHED read of a line homed elsewhere leaves a copy on the reading die (R13). -/
def State.keepCopy (s : State) (die : Nat) (cached : Bool) (pa : Nat) : State :=
  if cached && homeDie pa != die && (s.copyOf die (pa / 128)).isNone then
    { s with copies := s.copies.put (copyKey die (pa / 128)) (s.homeLine (pa / 128)) }
  else s

/-- A read through a die's view: the bytes, whether any is poisoned, and the state with the copies kept. -/
def State.readView (s : State) (die : Nat) (cached : Bool) (pa n : Nat) : List Byte × Bool × State :=
  let v := (List.range n).map (fun i => s.viewByte die cached (pa + i))
  (v.map Prod.fst, v.any Prod.snd, (s.keepCopy die cached pa).keepCopy die cached (pa + n - 1))

/-- The poison marks after a write of `n` bytes at `a` (R17, R462): words wholly written take the data's poison; words
partly written keep their mark, and a poisoned write sets it. -/
def poisonAfter (marks : List Nat) (a n : Nat) (bad : Bool) : List Nat :=
  (List.range ((a + n + 31) / 32 - a / 32)).foldl (fun ms i =>
    let w := a / 32 + i
    if bad then insertNat w ms
    else if a ≤ w * 32 ∧ (w + 1) * 32 ≤ a + n then ms.filter (fun x => x != w)
    else ms) marks

/-- Removes a die's copy of a line and the invalidations on their way to it. -/
def State.dropCopy (s : State) (die line : Nat) : State :=
  { s with copies := s.copies.del (copyKey die line),
           invals := s.invals.filter (fun v => !(v.die == die && v.line == line)) }

/-- The home invalidates the copies of a line (R13, R282): the issuer's own die loses its copy at once (R283), every
other die's copy goes when its invalidation arrives. -/
def State.invalidate (s : State) (die agent line : Nat) : State :=
  (List.range 4).foldl (fun s d =>
    if (s.copyOf d line).isSome then
      if d = die then s.dropCopy d line
      else { s with invals := s.invals ++ [{ die := d, line := line, knowers := [agent] }] }
    else s) s

/-- A store is performed at home (R282). -/
def State.storeHome (s : State) (die agent pa : Nat) (bs : List Byte) (bad : Bool) : State :=
  let s := { s with mem := s.mem.setBytes pa bs, poison := poisonAfter s.poison pa bs.length bad,
                    watches := s.watches.map (fun w => if pa < w.hi ∧ w.lo < pa + bs.length then { w with hit := true } else w) }
  (List.range ((pa + bs.length + 127) / 128 - pa / 128)).foldl (fun s i => s.invalidate die agent (pa / 128 + i)) s

/-- The dies a scope covers beyond the issuer's own (R281). -/
def scopeAll : Scope → Bool
  | .dev => true
  | .sys => true
  | _ => false

/-- Every invalidation the agent's release waits for arrives (R287, R289): those of its own stores and of stores it
has acquired, toward the dies of the scope. -/
def State.deliverKnown (s : State) (agent die : Nat) (c : Scope) : State :=
  (s.invals.filter (fun v => v.knowers.contains agent && (scopeAll c || v.die == die))).foldl
    (fun s v => s.dropCopy v.die v.line) s

/-- The invalidations of an agent's SC stores and SC atomics toward the dies of the scope arrive: what an SC access follows
even where it releases nothing (R287, R323). -/
def State.deliverSc (s : State) (agent die : Nat) (c : Scope) : State :=
  (s.invals.filter (fun v => v.sc.contains agent && (scopeAll c || v.die == die))).foldl
    (fun s v => s.dropCopy v.die v.line) s

/-- An SC access of the agent has stored to the line: the invalidations it knows there count as sent by it. -/
def State.markSc (s : State) (agent line : Nat) : State :=
  { s with invals := s.invals.map (fun v => if v.line = line ∧ v.knowers.contains agent then { v with sc := agent :: v.sc } else v) }

/-- The freshness step (R290): every invalidation sent toward the issuer's die arrives. -/
def State.freshen (s : State) (die : Nat) : State :=
  (s.invals.filter (fun v => v.die == die)).foldl (fun s v => s.dropCopy v.die v.line) s

/-- An acquire (R288): the agent's later releases also wait for the stores it may have observed. -/
def State.acquire (s : State) (agent : Nat) : State :=
  { s with invals := s.invals.map (fun v =>
      if v.knowers.contains agent then v else { v with knowers := agent :: v.knowers }) }

/-- The outcome of a translation: a physical address and memory type, or an R23 code and level. -/
inductive Xlat where
  | ok (pa mtype : Nat)
  | bad (code lvl : Nat)
  deriving DecidableEq, Repr, Inhabited

/-- Fault codes (R23). -/
def cNonCanon : Nat := 1
def cInvalid : Nat := 2
def cRsvd : Nat := 3
def cContig : Nat := 4
def cBadPa : Nat := 5
def cAttr : Nat := 6
def cPermR : Nat := 7
def cPermW : Nat := 8
def cPermX : Nat := 9
def cBlkInv : Nat := 10
def cBlkAbsent : Nat := 11
def cBlkDesc : Nat := 12

/-- A whole table lies in tier H or the usable range of tier C (R22). -/
def inTableRange (t lvl : Nat) : Bool :=
  let last := t + (if lvl = 3 then 0x10000 else 0x1000) - 1
  (inH t && inH last) || (inC t && inC last)

/-- The index of a level (R19). -/
def levelIdx (va lvl : Nat) : Nat := if lvl = 3 then fld va 51 39 else fld va (20 + 9 * lvl) (12 + 9 * lvl)

/-- The page size of a leaf (R19, R21). -/
def pageSize (lvl : Nat) (contig : Bool) : Nat :=
  if lvl = 2 then 0x40000000 else if lvl = 1 then 0x200000 else if contig then 0x10000 else 0x1000

/-- A malformed entry (R20, R21, R22). -/
def malformed (e lvl : Nat) : Bool :=
  fld e 11 10 != 0 || fld e 59 48 != 0 ||
  (if bit e 1 then
    lvl == 3 || (bit e 3 && !bit e 2) || (lvl != 0 && bit e 5) ||
    (lvl == 1 && fld e 20 12 != 0) || (lvl == 2 && fld e 29 12 != 0)
   else lvl == 0 || fld e 9 2 != 0)

/-- The group check of R21 over the 16 entries of the line that holds an L0 entry; `base` is entry 0's address.  DESIGN
CHOICE (assumption 66, unsafe): a neighbour with a reserved bit set also fails it, though R21 names four conditions. -/
def State.contigOk (s : State) (base : Nat) : Bool :=
  let e0 := ofBytes (s.mem.bytes base 8)
  fld e0 15 12 == 0 && (List.range 16).all (fun i =>
    let e := ofBytes (s.mem.bytes (base + 8 * i) 8)
    bit e 0 && bit e 1 && bit e 5 && fld e 7 2 == fld e0 7 2 && fld e 47 12 == fld e0 47 12 + i && !malformed e 0)

/-- A leaf that a walk found: its entry, the entry's address, its level, and whether it stands for a 64 KiB group. -/
structure Leaf where
  entry : Nat
  addr : Nat
  lvl : Nat
  contig : Bool
  deriving DecidableEq, Repr, Inhabited

/-- The outcome of a walk: a leaf, or a failure; a poisoned entry's address is kept for the machine check (R17). -/
inductive WalkRes where
  | leaf (l : Leaf)
  | bad (code lvl : Nat) (poisonAt : Option Nat)
  deriving DecidableEq, Repr, Inhabited

/-- The walk of R22 from one level down to the leaf.  `fuel` bounds the levels that remain.  DESIGN CHOICE (assumption 66,
unsafe): poison in any word of a 64 KiB group's line is found before the group check, and named by that word. -/
def State.walkFrom (s : State) (va : Nat) : Nat → Nat → Nat → WalkRes
  | 0, _, lvl => .bad cRsvd lvl none
  | fuel + 1, table, lvl =>
    if !inTableRange table lvl then .bad cBadPa (if lvl = 3 then 3 else lvl + 1) none
    else
      let a := table + levelIdx va lvl * 8
      if s.poisonedAt a then .bad cRsvd lvl (some a)
      else
        let e := ofBytes (s.mem.bytes a 8)
        if !bit e 0 then .bad cInvalid lvl none
        else if malformed e lvl then .bad cRsvd lvl none
        else if !bit e 1 then s.walkFrom va fuel (fld e 47 12 * 4096) (lvl - 1)
        else if lvl == 0 && bit e 5 then
          let base := a / 128 * 128
          match (List.range 4).find? (fun i => s.poisonedAt (base + 32 * i)) with
          | some i => .bad cRsvd 0 (some (base + 32 * i))
          | none =>
            if s.contigOk base then .leaf { entry := ofBytes (s.mem.bytes base 8), addr := base, lvl := 0, contig := true }
            else .bad cContig 0 none
        else .leaf { entry := e, addr := a, lvl := lvl, contig := false }

/-- The walk of a context's tables for a virtual address (R18, R22). -/
def State.walk (s : State) (ctx va : Nat) : WalkRes :=
  if va ≥ 2 ^ 52 then .bad cNonCanon 3 none
  else match (s.ctx ctx).root with
    | none => .bad cInvalid 3 none
    | some r => s.walkFrom va 4 r 3

/-- The checks of R22 on a leaf, for a kind of access. -/
def leafCheck (e lvl : Nat) (contig : Bool) (va : Nat) (k : AccKind) : Xlat :=
  let size := pageSize lvl contig
  let pa := fld e 47 12 * 4096 + va % size
  let mt := fld e 7 6
  if !populated pa then .bad cBadPa lvl
  else if mt == 3 || (inDev pa != (mt == 2)) || (mt == 2 && (k == .atomic || k == .fetch)) then .bad cAttr lvl
  else match k with
    | .read => if bit e 2 then .ok pa mt else .bad cPermR lvl
    | .write => if bit e 3 then .ok pa mt else .bad cPermW lvl
    | .atomic => if bit e 2 && bit e 3 then .ok pa mt else .bad cPermW lvl
    | .fetch => if bit e 4 then .ok pa mt else .bad cPermX lvl

/-- The access writes. -/
def isWrite : AccKind → Bool
  | .write => true
  | .atomic => true
  | _ => false

/-- Sets A, and D for a write, in a leaf's entry at its home (R24). -/
def State.setAD (s : State) (die : Nat) (l : Leaf) (w : Bool) : State :=
  let e := ofBytes (s.mem.bytes l.addr 8)
  let b := fld e 15 8
  let b' := b ||| 1 ||| (if w then 2 else 0)
  if b' = b then s else s.storeHome die 9999 (l.addr + 1) [BitVec.ofNat 8 b'] false

/-- A fresh walk with its checks, its A and D updates, and its machine check for a poisoned entry (R17, R22, R24).
`mcl` is the cluster that receives that machine check. -/
def State.freshWalk (s : State) (die mcl ctx va : Nat) (k : AccKind) : Xlat × Option Leaf × State :=
  match s.walk ctx va with
  | .bad c l p =>
    (.bad c l, none, match p with
      | none => s
      | some a => s.machineCheck mcl ctx 7 0 a (BitVec.ofNat 64 va) l)
  | .leaf l =>
    match leafCheck l.entry l.lvl l.contig va k with
    | .ok pa mt => (.ok pa mt, some l, s.setAD die l (isWrite k))
    | .bad c v => (.bad c v, none, s)

/-- The cached translation of an address, if `owner` holds one (R25). -/
def State.cachedLeaf (s : State) (owner ctx va : Nat) : Option TlbEnt :=
  s.tlb.find? (fun t => t.owner == owner && t.ctx == ctx && decide (t.vbase ≤ va) && decide (va < t.vbase + t.size))

/-- Translation (R22): from a cached leaf when one allows the access (a write also needs its D, R24), else by a fresh
walk.  `owner` names the cache: a cluster, or 1000 plus a die. -/
def State.translate (s : State) (owner die mcl ctx : Nat) (k : AccKind) (va : Nat) : Xlat × State :=
  match s.cachedLeaf owner ctx va with
  | some t =>
    match leafCheck t.leaf t.lvl (t.size == 0x10000) va k with
    | .ok pa mt =>
      if isWrite k && !bit t.leaf 9 then
        let r := s.freshWalk die mcl ctx va k
        (r.1, r.2.2)
      else (.ok pa mt, s)
    | .bad _ _ =>
      let r := s.freshWalk die mcl ctx va k
      (r.1, r.2.2)
  | none =>
    let r := s.freshWalk die mcl ctx va k
    (r.1, r.2.2)

/-- A walk whose result a translation cache keeps (R25): the step PAGE_WALK.  A failed walk is never kept. -/
def State.walkAndKeep (s : State) (owner die mcl ctx : Nat) (k : AccKind) (va : Nat) : Xlat × State :=
  let r := s.freshWalk die mcl ctx va k
  let s := { r.2.2 with tlb := r.2.2.tlb.filter (fun t =>
    !(t.owner == owner && t.ctx == ctx && decide (t.vbase ≤ va) && decide (va < t.vbase + t.size))) }
  match r.2.1 with
  | none => (r.1, s)
  | some l =>
    let size := pageSize l.lvl l.contig
    (r.1, { s with tlb := { owner := owner, ctx := ctx, vbase := va / size * size, size := size,
                            leaf := ofBytes (s.mem.bytes l.addr 8), lvl := l.lvl } :: s.tlb })

/-- A sequencer's or cluster unit's translation. -/
def State.xlatCl (s : State) (c ctx : Nat) (k : AccKind) (va : Nat) : Xlat × State :=
  s.translate c (dieOf c) c ctx k va

/-- Codes of class P (R23). -/
def isPerm (code : Nat) : Bool := code == cPermR || code == cPermW || code == cPermX

end Sys2Proof.Machine
end

