-- ==== Sys2Proof/Machine/Local.lean ====
section
/-! DEFINITION. The cluster's own storage (chapter 4): the local window, bank modes, ring descriptors and their pushes
and pops, bank queue registers. -/

namespace Sys2Proof.Machine

/-- A local address (R73). -/
def isLocal (va : Nat) : Bool := decide (0xFFFFFFFFFF000000 ≤ va)

/-- The local offset of a local address (R73). -/
def localOff (va : Nat) : Nat := va % 0x1000000

/-- The last byte of the banks, plus one. -/
def sramEnd : Nat := 0x300000

/-- Bank modes (R75). -/
def mScratch : Nat := 0
def mWays : Nat := 1
def mFifo : Nat := 2
def mWindow : Nat := 3

/-- The mode of bank `b`. -/
def Cluster.mode (k : Cluster) (b : Nat) : Nat := k.bankMode.get b mScratch

/-- Sets the mode of bank `b`. -/
def Cluster.setMode (k : Cluster) (b m : Nat) : Cluster :=
  { k with bankMode := if m = mScratch then k.bankMode.del b else k.bankMode.put b m }

/-- Every bank that bytes `[off, off + n)` touch is in SCRATCH mode. -/
def Cluster.scratch (k : Cluster) (off n : Nat) : Bool :=
  (List.range ((off + n - 1) / 0x10000 + 1 - off / 0x10000)).all (fun i => k.mode (off / 0x10000 + i) == mScratch)

/-- A mode change of a bank that bytes `[off, off + n)` touch is in progress (R79). -/
def Cluster.cutting (k : Cluster) (off n : Nat) : Bool :=
  match k.bankReq.pend with
  | none => false
  | some (b, _) => decide (off / 0x10000 ≤ b) && decide (b ≤ (off + n - 1) / 0x10000)

/-- Bytes of the banks. -/
def Cluster.bytes (k : Cluster) (off n : Nat) : List Byte := k.sram.bytes off n

/-- Bytes of the banks touch a poisoned word (R462). -/
def Cluster.poisoned (k : Cluster) (off n : Nat) : Bool :=
  (List.range ((off + n + 31) / 32 - off / 32)).any (fun i => k.sramPoison.contains (off / 32 + i))

/-- Writes bytes of the banks (R462). -/
def Cluster.write (k : Cluster) (off : Nat) (bs : List Byte) (bad : Bool) : Cluster :=
  { k with sram := k.sram.setBytes off bs, sramPoison := poisonAfter k.sramPoison off bs.length bad }

/-- Clears a bank's bytes and marks. -/
def Cluster.clearBank (k : Cluster) (b : Nat) : Cluster :=
  { k with sram := k.sram.filter (fun e => e.1 / 0x10000 != b),
           sramPoison := k.sramPoison.filter (fun w => w / 0x800 != b) }

/-! ### Rings (R81 to R84) -/

/-- Ring `r` of a cluster. -/
def Cluster.ring (k : Cluster) (r : Nat) : Ring := k.rings.get r {}

/-- Replaces a ring's descriptor. -/
def Cluster.setRing (k : Cluster) (r : Nat) (x : Ring) : Cluster := { k with rings := k.rings.put r x }

/-- The ring's size in bytes (R83). -/
def Ring.size (x : Ring) : Nat := x.rsize * 512

/-- The slot size in bytes (R83). -/
def Ring.slotBytes (x : Ring) : Nat := x.slot * 512

/-- The banks' offset of a ring's byte, wrapping (R83). -/
def Ring.at (x : Ring) (pos : Nat) : Nat := x.rbase + pos % x.size

/-- Byte `i` positions after `pos` of a ring. -/
def Cluster.ringBytes (k : Cluster) (x : Ring) (pos n : Nat) : List Byte :=
  (List.range n).map (fun i => k.sram.byte (x.at (pos + i)))

/-- Bytes of a ring touch a poisoned word. -/
def Cluster.ringPoison (k : Cluster) (x : Ring) (pos n : Nat) : Bool :=
  (List.range n).any (fun i => k.sramPoison.contains (x.at (pos + i) / 32))

/-- One write of bytes with their marks, byte `i` at the local offset `pos i`: a marked byte marks its word, and a word
whose 32 bytes are all written with valid bytes loses its mark (R462). -/
def Cluster.putAt (k : Cluster) (pos : Nat → Nat) (bs : List (Byte × Bool)) : Cluster :=
  let k := (List.range bs.length).foldl (fun k i =>
    match bs[i]? with
    | none => k
    | some (b, p) => k.write (pos i) [b] p) k
  { k with sramPoison := k.sramPoison.filter (fun w =>
    !((List.range 32).all (fun j => (List.range bs.length).any (fun i =>
      pos i == w * 32 + j && (match bs[i]? with | some (_, p) => !p | none => false))))) }

/-- Writes bytes at the tail of a ring and moves the tail: `push` of R83, once there is room. -/
def Cluster.ringPush (k : Cluster) (r : Nat) (bs : List (Byte × Bool)) : Cluster :=
  let x := k.ring r
  let k := k.putAt (fun i => x.at (x.tail + i)) bs
  k.setRing r { x with tail := (x.tail + bs.length) % x.size, fill := x.fill + bs.length }

/-- Pops `n` bytes from the head of a ring with CMASK 0 (R83). -/
def Cluster.ringPop (k : Cluster) (r n : Nat) : Cluster :=
  let x := k.ring r
  k.setRing r { x with head := (x.head + n) % x.size, fill := x.fill - n }

/-- Doubleword `i` of a ring descriptor (R81). -/
def Ring.dword (x : Ring) : Nat → Nat
  | 0 => x.rbase + x.cmask * 2 ^ 22 + x.rsize * 2 ^ 32 + x.slot * 2 ^ 48 + b2n x.err * 2 ^ 62 + b2n x.en * 2 ^ 63
  | 1 => x.head + x.tail * 2 ^ 32
  | 2 => x.fill + b2n x.ended * 2 ^ 23
  | 3 => x.ahead.getD 0 0 + x.ahead.getD 1 0 * 2 ^ 16 + x.ahead.getD 2 0 * 2 ^ 32 + x.ahead.getD 3 0 * 2 ^ 48
  | _ => 0

/-- The bytes of two rings overlap. -/
def Ring.meets (x y : Ring) : Bool :=
  overlaps ((x.rbase : Int), (x.rbase : Int) + x.size - 1) ((y.rbase : Int), (y.rbase : Int) + y.size - 1)

/-- The validation of R82, for the doubleword that enables the ring. -/
def Cluster.ringValid (k : Cluster) (r : Nat) (x : Ring) (v : Nat) : Bool :=
  x.rbase % 512 == 0 && decide (1 ≤ x.rsize) && decide (x.rsize ≤ 6144) && decide (1 ≤ x.slot) && decide (x.slot ≤ x.rsize) &&
  decide (x.rbase + x.size ≤ sramEnd) && k.scratch x.rbase x.size &&
  decide (x.head ≤ x.size) && decide (x.tail ≤ x.size) && decide (x.fill ≤ x.size) &&
  x.tail == (x.head + x.fill) % x.size &&
  x.ahead.all (fun a => decide (a ≤ x.fill / x.slotBytes)) &&
  fld v 31 26 == 0 && fld v 47 45 == 0 && !bit v 61 &&
  k.rings.all (fun e => e.1 == r || !e.2.en || !x.meets e.2)

/-- A store to doubleword `i` of ring `r`'s descriptor (R82).  R84 lets software disable a ring that holds a remainder, and
R82 performs a store of EN = 0 only when FILL is 0: the model follows R82, its choice (assumption 18). -/
def Cluster.ringStore (k : Cluster) (r i v : Nat) : Cluster :=
  let x := k.ring r
  if x.en then
    match i with
    | 0 => if !bit v 63 && x.fill == 0 then k.setRing r { x with en := false } else k
    | 2 => if !bit v 23 then k.setRing r { x with ended := false } else k
    | _ => k
  else
    match i with
    | 0 =>
      let y := { x with rbase := fld v 21 0, cmask := fld v 25 22, rsize := fld v 44 32, slot := fld v 60 48 }
      if bit v 63 then
        if k.ringValid r y v then k.setRing r { y with en := true, err := false } else k.setRing r { y with err := true }
      else k.setRing r y
    | 1 => k.setRing r { x with head := fld v 21 0, tail := fld v 53 32 }
    | 2 => k.setRing r { x with fill := fld v 22 0, ended := bit v 23 }
    | 3 => k.setRing r { x with ahead := [fld v 15 0, fld v 31 16, fld v 47 32, fld v 63 48] }
    | _ => k

/-! ### Bank queue registers (R86, R87) -/

/-- The queue registers of bank `b`. -/
def Cluster.bq (k : Cluster) (b : Nat) : BankQ := k.bankQs.get b {}

/-- Replaces the queue registers of bank `b`. -/
def Cluster.setBq (k : Cluster) (b : Nat) (x : BankQ) : Cluster := { k with bankQs := k.bankQs.put b x }

/-- The stream command that keeps a port busy (R62): dispatched and not complete. -/
def Cluster.portBusy (k : Cluster) (p : Nat) : Bool :=
  k.cmds.any (fun c => c.started && (dKind c.desc == kStreamIn || dKind c.desc == kStreamOut) && dPort c.desc == p)

/-- The staging buffer of an edge port (R86). -/
def Cluster.stage (k : Cluster) (p : Nat) : Stage := k.stages.get p {}

/-- Doubleword `i` of bank `b`'s queue registers: the FIFO view in FIFO mode, the WINDOW view in WINDOW mode. -/
def Cluster.bqDword (k : Cluster) (b i : Nat) : Nat :=
  let x := k.bq b
  if k.mode b = mFifo then
    match i with
    | 0 => x.port + b2n x.en * 2 ^ 63
    | 1 => x.frd + x.fwr * 2 ^ 16 + x.ffill * 2 ^ 32 + b2n x.fend * 2 ^ 49
    | _ => 0
  else if k.mode b = mWindow then
    match i with
    | 0 => x.port + b2n x.en * 2 ^ 63
    | 1 => x.whead.toNat
    | 2 => x.wtail.toNat
    | _ => 0
  else 0

/-- A store to a FIFO bank's queue registers (R86). -/
def Cluster.fifoStore (k : Cluster) (b i v : Nat) : Cluster :=
  let x := k.bq b
  if i != 0 then k
  else if x.en then
    if !bit v 63 && x.ffill == 0 then k.setBq b { x with en := false, port := fld v 4 0 } else k
  else
    let p := fld v 4 0
    let taken := k.bankQs.any (fun e => e.1 != b && k.mode e.1 == mFifo && e.2.en && e.2.port == p)
    let ok := bit v 63 && !taken && !k.portBusy p && (k.stage p).data.isEmpty
    k.setBq b { x with port := p, en := ok }

/-- A store to a WINDOW bank's queue registers (R87).  While EN is 1 a store of EN = 1 writes WAG, unless another enabled
window serves that AG: then it is ignored, and a WHEAD or WTAIL that is not 512-byte aligned is kept as written: the model's
choices (assumption 18). -/
def Cluster.windowStore (k : Cluster) (b i v : Nat) : Cluster :=
  let x := k.bq b
  match i with
  | 0 =>
    let p := fld v 4 0
    let taken := k.bankQs.any (fun e => e.1 != b && k.mode e.1 == mWindow && e.2.en && e.2.port == p)
    let inSpan := decide (x.whead.toNat ≤ x.wtail.toNat) && decide (x.wtail.toNat - x.whead.toNat ≤ 65536)
    if !bit v 63 then k.setBq b { x with port := p, en := false }
    else if x.en then (if taken then k else k.setBq b { x with port := p })
    else k.setBq b { x with port := p, en := !taken && inSpan }
  | 1 => if x.en then k else k.setBq b { x with whead := BitVec.ofNat 64 v }
  | 2 => if x.en then k else k.setBq b { x with wtail := BitVec.ofNat 64 v }
  | _ => k

/-- A store to a bank's queue registers, by the bank's mode. -/
def Cluster.bqStore (k : Cluster) (b i v : Nat) : Cluster :=
  if k.mode b = mFifo then k.fifoStore b i v
  else if k.mode b = mWindow then k.windowStore b i v
  else k

/-! ### Mode changes (R78 to R80) -/

/-- Bank `b` is in use (R80). -/
def Cluster.inUse (k : Cluster) (b : Nat) : Bool :=
  let iv : Int × Int := ((b * 0x10000 : Nat), (b * 0x10000 + 0xFFFF : Nat))
  k.rings.any (fun e => e.2.en && overlaps iv ((e.2.rbase : Int), (e.2.rbase : Int) + e.2.size - 1)) ||
  ((k.mode b == mFifo || k.mode b == mWindow) && (k.bq b).en) ||
  k.cmds.any (fun c => (onBoard c && dDspace c.desc == 1 && overlaps iv (dstBounds c.desc)) ||
    (dSspace c.desc == 1 && dKind c.desc != kStreamOut && dKind c.desc != kArrive && dKind c.desc != kBarset &&
      overlaps iv (srcBounds c.desc)))

/-- BSTAT of a request (R78): PENDING, BADREQ, BADBANK, OK for the present mode, LIMIT, INUSE, OK; the order is the model's
choice (assumption 18). -/
def Cluster.modeStatus (k : Cluster) (v : Nat) : Nat :=
  let b := fld v 5 0
  let m := fld v 9 8
  if k.bankReq.pend.isSome then 4
  else if fld v 7 6 != 0 || fld v 63 10 != 0 then 5
  else if 47 < b then 3
  else if k.mode b = m then 0
  else if m = mWays ∧ 24 ≤ (k.bankMode.filter (fun e => e.2 == mWays)).length then 1
  else if k.inUse b then 2
  else 0

/-- MTS BANKMODE (R78): the request is judged, and an accepted change starts. -/
def Cluster.bankRequest (k : Cluster) (v : Nat) : Cluster :=
  let st := k.modeStatus v
  let b := fld v 5 0
  let m := fld v 9 8
  let p := if st = 4 then k.bankReq.pend else if st = 0 ∧ k.mode b ≠ m then some (b, m) else none
  { k with bankReq := { bank := b, mode := m, bstat := st, pend := p } }

/-- The status word of BANKMODE (R78). -/
def Cluster.bankStatus (k : Cluster) : Nat :=
  k.bankReq.bank + k.bankReq.mode * 2 ^ 8 + k.bankReq.bstat * 2 ^ 12 + b2n k.bankReq.pend.isNone * 2 ^ 16

/-- The cut cycle of an accepted change (R79). -/
def Cluster.bankCut (k : Cluster) : Cluster :=
  match k.bankReq.pend with
  | none => k
  | some (b, m) =>
    let k := if m = mWays ∨ k.mode b = mWays then k.clearBank b else k
    let k := { k with bankQs := k.bankQs.del b }
    { k.setMode b m with bankReq := { k.bankReq with pend := none } }

/-- BANKST0 and BANKST1 (R78): two bits per bank from bank `lo`. -/
def Cluster.bankSt (k : Cluster) (lo n : Nat) : Nat :=
  ((List.range n).map (fun i => k.mode (lo + i) * 2 ^ (2 * i))).sum

/-! ### Accesses to the local window (R73, R76) -/

/-- What a local offset names, for an access of `n` bytes. -/
inductive LocalAt where
  | bank
  | ringDesc (r i : Nat)
  | bankReg (b i : Nat)
  | nothing
  deriving DecidableEq, Repr

/-- The decoding of a local offset (R73). -/
def localAt (off n : Nat) : LocalAt :=
  if off < sramEnd ∧ off + n ≤ sramEnd then .bank
  else if 0x800000 ≤ off ∧ off < 0x800400 then .ringDesc ((off - 0x800000) / 64) ((off - 0x800000) % 64 / 8)
  else if 0x800400 ≤ off ∧ off < 0x800A00 then .bankReg ((off - 0x800400) / 32) ((off - 0x800400) % 32 / 8)
  else .nothing

/-- The code with which a sequencer's local access is refused (R73, R76), if it is; a bank whose mode is changing is judged
only once the change is done, and until then the access waits (R79). -/
def Cluster.localRefusal (k : Cluster) (off n : Nat) (kind : AccKind) : Option Nat :=
  let perm := if kind = .read then cPermR else cPermW
  match localAt off n with
  | .bank => if k.scratch off n || k.cutting off n then none else some perm
  | .ringDesc _ _ => if n = 8 ∧ kind ≠ .atomic then none else some perm
  | .bankReg _ _ => if n = 8 ∧ kind ≠ .atomic then none else some perm
  | .nothing => some cBadPa

/-- A local load that passed its checks: the value, and whether a byte is poisoned. -/
def Cluster.localLoad (k : Cluster) (off n : Nat) : Nat × Bool :=
  match localAt off n with
  | .bank => (ofBytes (k.bytes off n), k.poisoned off n)
  | .ringDesc r i => ((k.ring r).dword i, false)
  | .bankReg b i => (k.bqDword b i, false)
  | .nothing => (0, false)

/-- A local store that passed its checks. -/
def Cluster.localStore (k : Cluster) (off n v : Nat) : Cluster :=
  match localAt off n with
  | .bank => k.write off (toBytes n v) false
  | .ringDesc r i => k.ringStore r i v
  | .bankReg b i => k.bqStore b i v
  | .nothing => k

end Sys2Proof.Machine
end

