-- ==== Sys2Proof/Machine/DevRead.lean ====
section
/-! DEFINITION. The device registers (R10, R14): where they stand, and what an 8-byte read of one gives; and the accesses
that engines make of them. -/

namespace Sys2Proof.Machine

/-- Tile `x` = 16y + x of a cluster. -/
def Cluster.tile (k : Cluster) (x : Nat) : Tile := k.tiles.get x {}

/-- Replaces a tile. -/
def Cluster.setTile (k : Cluster) (x : Nat) (t : Tile) : Cluster := { k with tiles := k.tiles.put x t }

/-- AG `a`. -/
def Cluster.ag (k : Cluster) (a : Nat) : Ag := k.ags.get a {}

/-- Replaces an AG. -/
def Cluster.setAg (k : Cluster) (a : Nat) (g : Ag) : Cluster := { k with ags := k.ags.put a g }

/-- Island `i`. -/
def Cluster.mat (k : Cluster) (i : Nat) : Isle := k.mats.get i {}

/-- Replaces an island. -/
def Cluster.setMat (k : Cluster) (i : Nat) (m : Isle) : Cluster := { k with mats := k.mats.put i m }

/-- Mailbox `m`. -/
def State.mailbox (s : State) (m : Nat) : Mailbox := s.pkg.mbx.get m {}

/-- Amber of die `d`. -/
def State.amber (s : State) (d : Nat) : Amber := (s.die d).amber

/-- Doubleword `i` of an island's window. -/
def Isle.window (m : Isle) (i : Nat) : Nat :=
  match i with
  | 0 => m.flags % 8 + m.err % 256 * 2 ^ 8 + m.ipc % 64 * 2 ^ 16 + b2n m.ended * 2 ^ 22 + b2n m.skip * 2 ^ 23 +
      m.atype % 4 * 2 ^ 24
  | 1 => m.empty
  | 2 => m.deadcnt
  | _ => 0

/-- Host queue `q` of a die. -/
def Die.hq (k : Die) (q : Nat) : HostQ := k.hqs.get q {}

/-- The frequency of a spine in MHz. -/
def Die.spine (k : Die) (n : Nat) : Nat := k.spineF.get n 2400

/-- TSTATE (R394). -/
def Die.tstate (k : Die) : Nat := if k.emerg.phase != EmergPhase.none then 2 else b2n k.warning

/-- A register window: its die, and the offset within the die's part. -/
def devAt (base pa : Nat) : Option (Nat × Nat) :=
  if base ≤ pa ∧ pa < base + 0x400000 then some ((pa - base) / 0x100000, (pa - base) % 0x100000) else none

def mbxBase : Nat := 0xF0000000000
def amberBase : Nat := 0xF0004000000
def flagBase : Nat := 0xF0008000000
def isleBase : Nat := 0xF000C000000
def hqBase : Nat := 0xF0010000000
def powerBase : Nat := 0xF0014000000
def faultBase : Nat := 0xF0018000000

/-- A register of mailbox `m` (R432). -/
def State.mbxRead (s : State) (m off : Nat) : Nat :=
  let x := s.mailbox m
  match off with
  | 0x08 => b2n x.busy + x.status * 2 ^ 8 + x.done * 2 ^ 16
  | 0x10 => if m = 0 then x.vec.toNat else 0
  | _ => 0

/-- Amber's window (R35). -/
def State.amberRegRead (s : State) (d off : Nat) : Nat :=
  match off with
  | 0x08 => (s.amber d).drops
  | 0x10 => ((s.amber d).recs.filter (fun e => e.2.st != 0)).length
  | _ => 0

/-- Tile flags and their summary (R238). -/
def State.flagRead (s : State) (d off : Nat) : Nat :=
  if 0x28000 ≤ off then 0
  else
    let k := s.cl (d * 40 + off / 0x1000)
    let o := off % 0x1000
    if o < 0x800 then (k.tile (o / 8)).flags
    else if o = 0x800 then k.tiles.foldl (fun f e => f ||| e.2.flags) 0
    else 0

/-- A register of a host queue (R364). -/
def HostQ.regRead (x : HostQ) : Nat → Nat
  | 0x00 => x.ctl.toNat
  | 0x08 => x.base.toNat
  | 0x10 => x.tailadr.toNat
  | 0x18 => x.head
  | 0x28 => x.refused + x.last * 2 ^ 32 + b2n x.overrun * 2 ^ 40
  | _ => 0

/-- The spines of a row of tiles (R394). -/
def Die.tspinRead (k : Die) (c y : Nat) : Nat :=
  ((List.range 16).map (fun x => k.tspin.get (256 * c + 16 * y + x) 0 * 2 ^ (4 * x))).sum

/-- A power register (R394). -/
def State.powerRead (s : State) (d off : Nat) : Nat :=
  let k := s.die d
  if off = 0x00 then k.tj + k.tstate * 2 ^ 8 + b2n (k.spine 0 == 2800) * 2 ^ 10
  else if off = 0x08 then
    (Config.budget d + ((s.pkg.boosts.filter (fun b => b.die == d)).map Boost.watts).sum) % 2 ^ 32
  else if off = 0x10 then k.pstall.toNat
  else if 0x40 ≤ off ∧ off < 0x80 then k.spine ((off - 0x40) / 8)
  else if 0x1000 ≤ off ∧ off < 0x2400 then k.tspinRead ((off - 0x1000) / 0x80) ((off - 0x1000) % 0x80 / 8)
  else 0

/-- An AG's fault window (R408). -/
def State.faultRead (s : State) (d off : Nat) : Nat :=
  if 0x14000 ≤ off then 0
  else
    let i := off % 0x40 / 8
    fld ((s.cl (d * 40 + off / 0x800)).ag (off % 0x800 / 0x40)).fault (64 * i + 63) (64 * i)

/-- An 8-byte read of a device register; an offset that nothing is listed at reads zero. -/
def State.deviceRead (s : State) (pa : Nat) : Word :=
  BitVec.ofNat 64 (
    if pa % 8 != 0 then 0
    else if mbxBase ≤ pa ∧ pa < mbxBase + 0x600 then s.mbxRead ((pa - mbxBase) / 0x100) ((pa - mbxBase) % 0x100)
    else match devAt amberBase pa, devAt flagBase pa, devAt isleBase pa with
      | some (d, off), _, _ => s.amberRegRead d off
      | _, some (d, off), _ => s.flagRead d off
      | _, _, some (d, off) =>
        if 0x2800 ≤ off then 0
        else ((s.cl (d * 40 + off / 0x100)).mat (off % 0x100 / 0x40)).window (off % 0x40 / 8)
      | none, none, none =>
        match devAt hqBase pa, devAt powerBase pa, devAt faultBase pa with
        | some (d, off), _, _ => if 0x400 ≤ off then 0 else ((s.die d).hq (off / 0x40)).regRead (off % 0x40)
        | _, some (d, off), _ => s.powerRead d off
        | _, _, some (d, off) => s.faultRead d off
        | none, none, none => 0)

/-- What `n` bytes of a DEVICE page give an engine (R14): one whole access, which takes effect only where it is of 8 bytes
(R35, R394; assumption 3). -/
def State.deviceBytes (s : State) (pa n : Nat) : List (Byte × Bool) :=
  (if n = 8 then toBytes 8 (s.deviceRead pa).toNat else List.replicate n 0).map (fun b => (b, false))

/-- A write of an engine to a DEVICE page: performed once and whole, at the end of its turn (R14). -/
def State.deviceStore (s : State) (cl ctx pa : Nat) (bs : List Byte) : State :=
  { s with devq := s.devq ++ [{ pa := pa, data := bs, cl := cl, ctx := ctx }] }

end Sys2Proof.Machine
end

