-- ==== Sys2Proof/Machine/Gang.lean ====
section
/-! DEFINITION. Accesses of engines by virtual address; page states, reservations, gang barriers and residency reports
(R333, R344, R358 to R363). -/

namespace Sys2Proof.Machine

/-- Who makes an access: the translation cache it uses, its die, the cluster for its machine checks, its agent number, and
whether it goes to the line's home die past the copies of its own die, as a link peer's does (R291). -/
structure Who where
  owner : Nat
  die : Nat
  mcl : Nat
  agent : Nat
  home : Bool := false
  deriving DecidableEq, Repr, Inhabited

/-- A unit of a cluster; `agent` tells the units apart for releases. -/
def whoCl (c agent : Nat) : Who := { owner := c, die := dieOf c, mcl := c, agent := agent }

/-- A unit of a die outside its clusters: its walks report to local cluster 0 (R17). -/
def whoDie (d agent : Nat) : Who := { owner := 1000 + d, die := d, mcl := d * 40, agent := agent }

/-- Agent numbers: sequencer of cluster `c`, its copy engines, its AG `a`, unit `n` of die `d`; the lease arbiter
and the power unit send messages only. -/
def agentSeq (c : Nat) : Nat := c
def agentCe (c : Nat) : Nat := 200 + c
def agentAg (c a : Nat) : Nat := 1000 + c * 32 + a
def agentDie (d n : Nat) : Nat := 400 + d * 100 + n
def agentLease (d : Nat) : Nat := agentDie d 70
def agentPower (d : Nat) : Nat := agentDie d 71
def agentHost : Nat := 900
def agentFw : Nat := 901

/-- A register write that the host posts (actor unit 293) passes none of its earlier posted writes (R291, R365). -/
def State.posted (s : State) : State := if s.actor.unit = 293 then s.deliverKnown agentHost 0 .sys else s

/-- A failed access: the R23 code, the level and the address. -/
structure AFail where
  code : Nat
  lvl : Nat
  va : Nat
  deriving DecidableEq, Repr, Inhabited

/-- Reads `n` bytes at a virtual address, translating once for each 4 KiB page they touch; each byte carries its poison.
What lies in one DEVICE page is one access (assumption 3). -/
def State.engReadF (w : Who) (ctx : Nat) (k : AccKind) : Nat → State → Nat → Nat → Except AFail (List (Byte × Bool)) × State
  | 0, s, _, _ => (.ok [], s)
  | fuel + 1, s, va, n =>
    if n = 0 then (.ok [], s)
    else
      let m := min n (4096 - va % 4096)
      match s.translate w.owner w.die w.mcl ctx k va with
      | (.bad c l, s) => (.error { code := c, lvl := l, va := va }, s)
      | (.ok pa mt, s) =>
        let cached := mt == 0 && !w.home
        let v := if mt == 2 then s.deviceBytes pa m else (List.range m).map (fun i => s.viewByte w.die cached (pa + i))
        let s := (List.range ((pa + m + 127) / 128 - pa / 128)).foldl
          (fun s i => s.keepCopy w.die cached ((pa / 128 + i) * 128)) s
        match State.engReadF w ctx k fuel s ((va + m) % 2 ^ 64) (n - m) with
        | (.ok r, s) => (.ok (v ++ r), s)
        | (.error e, s) => (.error e, s)

/-- Reads bytes with kind READ. -/
def State.engRead (s : State) (w : Who) (ctx va n : Nat) : Except AFail (List (Byte × Bool)) × State :=
  State.engReadF w ctx .read (n / 4096 + 2) s va n

/-- Stores of the host or of a peer: each line at its home die (R291). -/
def State.storeLines (agent : Nat) : Nat → State → Nat → List Byte → State
  | 0, s, _, _ => s
  | fuel + 1, s, pa, bs =>
    if bs.isEmpty then s
    else
      let n := min bs.length (128 - pa % 128)
      State.storeLines agent fuel (s.storeHome (homeDie pa) agent pa (bs.take n) false) (pa + n) (bs.drop n)

/-- Groups of equal poison within bytes: stores of one kind each. -/
def State.storeMarked (s : State) (w : Who) (pa : Nat) : List (Byte × Bool) → State
  | [] => s
  | bs =>
    let s1 := if w.home then State.storeLines w.agent (bs.length + 1) s pa (bs.map Prod.fst)
      else s.storeHome w.die w.agent pa (bs.map Prod.fst) false
    { s1 with poison := (List.range bs.length).foldl (fun ms i =>
        match bs[i]? with
        | some (_, true) => insertNat ((pa + i) / 32) ms
        | _ => ms) s1.poison }

/-- Writes bytes at a virtual address with kind WRITE; the bytes before a failing page stay written. -/
def State.engWriteF (w : Who) (ctx : Nat) : Nat → State → Nat → List (Byte × Bool) → Option AFail × State
  | 0, s, _, _ => (none, s)
  | fuel + 1, s, va, bs =>
    if bs.isEmpty then (none, s)
    else
      let m := min bs.length (4096 - va % 4096)
      match s.translate w.owner w.die w.mcl ctx .write va with
      | (.bad c l, s) => (some { code := c, lvl := l, va := va }, s)
      | (.ok pa mt, s) =>
        let s := if mt == 2 then s.deviceStore w.mcl ctx pa ((bs.take m).map Prod.fst) else s.storeMarked w pa (bs.take m)
        State.engWriteF w ctx fuel s ((va + m) % 2 ^ 64) (bs.drop m)

/-- Writes bytes at a virtual address. -/
def State.engWrite (s : State) (w : Who) (ctx va : Nat) (bs : List (Byte × Bool)) : Option AFail × State :=
  State.engWriteF w ctx (bs.length / 4096 + 2) s va bs

/-- Writes unpoisoned bytes. -/
def State.engPut (s : State) (w : Who) (ctx va : Nat) (bs : List Byte) : Option AFail × State :=
  s.engWrite w ctx va (bs.map (fun b => (b, false)))

/-- Bytes without their marks. -/
def plain (bs : List (Byte × Bool)) : List Byte := bs.map Prod.fst

/-- Some byte is poisoned. -/
def anyPoison (bs : List (Byte × Bool)) : Bool := bs.any Prod.snd

/-! ### Pages and islands (R344) -/

/-- The state of page `p` of a cluster. -/
def Cluster.page (k : Cluster) (p : Nat) : PageSt := k.pages.get p .free

/-- The state of island `i` of a cluster. -/
def Cluster.isle (k : Cluster) (i : Nat) : PageSt := k.isles.get i .free

/-- The pages of a rectangle with its origin at page `o` (R344); `none` where it leaves the cluster. -/
def rectPages (o w h : Nat) : Option (List Nat) :=
  if o % 4 + w ≤ 4 ∧ o / 4 + h ≤ 4 ∧ 1 ≤ w ∧ 1 ≤ h then
    some ((List.range h).flatMap (fun y => (List.range w).map (fun x => o + 4 * y + x)))
  else none

/-- Sets the states of pages and islands. -/
def Cluster.setPages (k : Cluster) (ps is : List Nat) (st : PageSt) : Cluster :=
  { k with pages := ps.foldl (fun t p => t.put p st) k.pages, isles := is.foldl (fun t i => t.put i st) k.isles }

/-- The islands a mask names. -/
def maskList (m n : Nat) : List Nat := (List.range n).filter (fun i => m.testBit i)

/-- The pages and islands still reserved for a member become free. -/
def Cluster.unreserve (k : Cluster) (l m : Nat) : Cluster :=
  let f : PageSt → PageSt := fun st => if st = .reserved l m then .free else st
  { k with pages := k.pages.map (fun e => (e.1, f e.2)), isles := k.isles.map (fun e => (e.1, f e.2)) }

/-! ### Reports (R362, R363, R366) -/

/-- A member's report entry (R362). -/
def Member.entry (m : Member) : Nat :=
  m.cl + m.page * 2 ^ 6 + m.w * 2 ^ 10 + m.h * 2 ^ 13 + m.handle * 2 ^ 16 + m.mstate * 2 ^ 32

/-- The first eight bytes of the report header (R362). -/
def Gang.header (g : Gang) (d : Nat) : Nat :=
  g.launch.num + d * 2 ^ 32 + g.launch.ctx * 2 ^ 34 + g.members.length * 2 ^ 40 + (if g.done then 2 else 1) * 2 ^ 48

/-- The launch unit as an agent. -/
def whoLaunch (d : Nat) : Who := whoDie d (agentDie d 0)

/-- Sends something out of the package. -/
def State.send (s : State) (m : OutMsg) : State := s.setPkg { s.pkg with outbox := s.pkg.outbox ++ [m] }

/-- The words of a gang's report (R362): the 64-byte header and every member entry. -/
def Gang.words (g : Gang) (d : Nat) : List Nat :=
  [g.header d, 0, 0, 0, 0, 0, 0, 0] ++ g.members.map Member.entry ++ List.replicate (g.launch.nmemb - g.members.length) 0

/-- The residency report of a launch that came over a link goes to its origin, the header and every entry (R366). -/
def State.reportLink (s : State) (d : Nat) (g : Gang) : State :=
  match g.launch.link with
  | none => s
  | some l => s.send { kind := 0, dest := l, addr := (s.ctx g.launch.ctx).rptPeer.toNat + 1024 * (g.launch.num % 256),
                       data := (g.words d).flatMap (toBytes 8) }

/-- The launch unit writes 8 bytes of a report, as a release (R358, R363). -/
def State.report (s : State) (d : Nat) (g : Gang) (off v : Nat) (c : Scope) : State :=
  if g.launch.rptva = 0 then s
  else ((s.deliverKnown (agentDie d 0) d c).engPut (whoLaunch d) g.launch.ctx (g.launch.rptva.toNat + off) (toBytes 8 v)).2

/-- The gang of a launch on die `d`. -/
def State.gang (s : State) (d l : Nat) : Option Gang := (s.die d).gangs.find l

/-- Replaces a gang. -/
def State.setGang (s : State) (d l : Nat) (g : Gang) : State :=
  s.setDie d { s.die d with gangs := (s.die d).gangs.put l g }

/-- A barrier's phase advances when every member that has not ended has arrived (R333, R361): each arrival receives its
message. -/
def State.gbarTry (s : State) (d l b : Nat) : State :=
  match s.gang d l with
  | none => s
  | some g =>
    match g.barriers[b]? with
    | none => s
    | some x =>
      let present := (List.range g.members.length).filter (fun m =>
        match g.members[m]? with | some y => y.mstate == 0 || y.mstate == 1 | none => false)
      if !x.arrivals.isEmpty && present.all (fun m => x.arrivals.any (fun a => a.member == m)) then
        let ph := (x.phase + 1) % 2 ^ 32
        let s := s.setGang d l { g with barriers := setIdx g.barriers b { phase := ph, arrivals := [] } }
        x.arrivals.foldl (fun s a =>
          s.post a.cl (senderOut (agentDie d 0)) a.chan
            { msg := { w0 := BitVec.ofNat 64 (b * 2 ^ 16 + ph * 2 ^ 32), w1 := BitVec.ofNat 64 a.tag },
              ctx := g.launch.ctx }) s
      else s

/-- A member changes state: the launch unit rewrites its entry, tries the gang's barriers, and writes DONE once every
member has ended or been released (R361, R363). -/
def State.setMember (s : State) (d l m : Nat) (f : Member → Member) : State :=
  match s.gang d l with
  | none => s
  | some g =>
    match g.members[m]? with
    | none => s
    | some x =>
      let y := f x
      let g' := { g with members := setIdx g.members m y }
      let s := ((s.setGang d l g').report d g' (64 + 8 * m) y.entry .dev).reportLink d g'
      let s := (List.range 4).foldl (fun s b => s.gbarTry d l b) s
      if g'.members.all (fun z => z.mstate == 2 || z.mstate == 3) && !g.done then
        match s.gang d l with
        | none => s
        | some g2 =>
          let g3 := { g2 with done := true }
          ((s.setGang d l g3).report d g3 0 (g3.header d) .sys).reportLink d g3
      else s

/-- The reservations of a launch that its start task on a cluster left unclaimed are released (R360). -/
def State.releaseUnclaimed (s : State) (c l : Nat) : State :=
  match s.gang (dieOf c) l with
  | none => s
  | some g =>
    (List.range g.members.length).foldl (fun s m =>
      match g.members[m]? with
      | some x =>
        if x.cl = localOf c ∧ x.mstate = 0 then
          (s.setCl c ((s.cl c).unreserve l m)).setMember (dieOf c) l m (fun y => { y with mstate := 3 })
        else s
      | none => s) s

end Sys2Proof.Machine
end

