-- ==== Sys2Proof/WellFormed.lean ====
section
/-! DEFINITION. Well-formedness: the fields that the encoding of an instruction holds at zero. -/

namespace Sys2Proof

/-- The fields that an instruction's encoding fixes at zero are zero (R154, R157, R158, R160 to R163). -/
def Instr.wellFormed : Instr → Bool
  | .imulh f => f.mod == 0
  | .peAnd f => f.mod == 0
  | .peOr f => f.mod == 0
  | .peXor f => f.mod == 0
  | .peShl f => f.mod == 0
  | .peShr f => f.mod == 0
  | .peSha f => f.mod == 0
  | .fshl f => f.mod == 0
  | .fshr f => f.mod == 0
  | .peClz f => f.mod == 0
  | .pePopc f => f.mod == 0
  | .bwid f => f.mod == 0
  | .sel f => f.mod == 0
  | .pass f => f.mod == 0
  | .shuf f => f.mod == 0
  | .packb f => f.mod == 0
  | .unpkb f => f.mod == 0
  | .delta f => f.mod == 0
  | .gate f => f.mod == 0
  | .steer f => f.mod == 0
  | .cnt f => f.mod == 0
  | .mark f => f.mod == 0
  | .const f => f.mod == 0
  | .ojoin f => f.mod == 0
  | .dadd f => f.mod == 0
  | .dsub f => f.mod == 0
  | .dmul f => f.mod == 0
  | .dfma f => f.mod == 0
  | .ddiv f => f.mod == 0
  | .dsqrt f => f.mod == 0
  | .drsq f => f.mod == 0
  | .dexp f => f.mod == 0
  | .dlog f => f.mod == 0
  | .dnorm f => f.mod == 0
  | .dscl f => f.mod == 0
  | .drelu f => f.mod == 0
  | .dsel f => f.mod == 0
  | .dacc f => f.mod == 0
  | .mtrd f => f.mod == 0
  | .mtwr f => f.mod == 0 && !f.osel
  | .mtring f => f.mod == 0
  | .mtfifo f => f.mod == 0
  | .mttas f => f.mod == 0
  | .mthist f => f.mod == 0
  | .mtacc f => !f.osel
  | .mtclr f => f.mod == 0 && !f.osel
  | .agld f => f.mod == 0
  | .agst f => f.mod == 0 && f.vco0 == 0
  | .agga f => f.mod == 0
  | .agsc f => f.mod == 0 && f.vco0 == 0
  | .agpf f => f.vco0 == 0
  | .add .. => true
  | .sub .. => true
  | .and .. => true
  | .or .. => true
  | .xor .. => true
  | .shl .. => true
  | .shr .. => true
  | .sha .. => true
  | .mul .. => true
  | .mulh .. => true
  | .div .. => true
  | .divu .. => true
  | .rem .. => true
  | .min .. => true
  | .max .. => true
  | .minu .. => true
  | .maxu .. => true
  | .slt .. => true
  | .sltu .. => true
  | .ceq .. => true
  | .clz .. => true
  | .popc .. => true
  | .addi .. => true
  | .andi .. => true
  | .ori .. => true
  | .xori .. => true
  | .shli .. => true
  | .shri .. => true
  | .shai .. => true
  | .slti .. => true
  | .lui .. => true
  | .addpc .. => true
  | .beq .. => true
  | .bne .. => true
  | .blt .. => true
  | .bge .. => true
  | .bltu .. => true
  | .bgeu .. => true
  | .jal .. => true
  | .jalr .. => true
  | .ld .. => true
  | .st .. => true
  | .amoswp .. => true
  | .amoadd .. => true
  | .amocas .. => true
  | .amomin .. => true
  | .amomax .. => true
  | .amoand .. => true
  | .amoor .. => true
  | .amoxor .. => true
  | .fence .. => true
  | .cflush .. => true
  | .cinval .. => true
  | .qfence .. => true
  | .tend => true
  | .yield => true
  | .eret => true
  | .trap .. => true
  | .mfs .. => true
  | .mts .. => true
  | .bankmode .. => true
  | .bankModeCut => true
  | .mcmode .. => true
  | .cpy .. => true
  | .strm .. => true
  | .wtest .. => true
  | .cfg .. => true
  | .resid .. => true
  | .param .. => true
  | .gbar .. => true
  | .resume .. => true
  | .lease .. => true
  | .lfree .. => true
  | .pcmd .. => true
  | .boost .. => true
  | .lnch .. => true
  | .xcmd .. => true
  | .tbind .. => true
  | .tpost .. => true
  | .taskDispatch => true
  | .messageArrival .. => true
  | .messageRetry => true
  | .pageWalk .. => true
  | .invalidationArrival .. => true
  | .tierCTimeout .. => true
  | .eccError .. => true
  | .patrolScrub .. => true
  | .ambPark .. => true
  | .wake .. => true
  | .promoteAll .. => true
  | .promoteOne .. => true
  | .drop .. => true
  | .hcTimerExpiry .. => true
  | .cfTimerExpiry .. => true
  | .amberExamination .. => true
  | .demoteHc .. => true
  | .demoteCf .. => true
  | .blockPromotion .. => true
  | .promotionResume .. => true
  | .resumeLaunchRetry .. => true
  | .amberPushRetry .. => true
  | .amberCfg => true
  | .copy .. => true
  | .maskrows .. => true
  | .streamin .. => true
  | .streamout .. => true
  | .arrive .. => true
  | .barset .. => true
  | .streamPortPush .. => true
  | .streamPortPop .. => true
  | .chunkComplete .. => true
  | .ceCommandComplete .. => true
  | .qfenceRetire .. => true
  | .ringDescriptorStore .. => true
  | .fifoQueueStore .. => true
  | .windowQueueStore .. => true
  | .switchForward .. => true
  | .killPropagate .. => true
  | .iadd .. => true
  | .isub .. => true
  | .imul .. => true
  | .imin .. => true
  | .imax .. => true
  | .iabs .. => true
  | .icmp .. => true
  | .fadd .. => true
  | .fsub .. => true
  | .fmul .. => true
  | .ffma .. => true
  | .fmin .. => true
  | .fmax .. => true
  | .fcmp .. => true
  | .cvt .. => true
  | .red .. => true
  | .scan .. => true
  | .merge .. => true
  | .dmax .. => true
  | .dcmpk .. => true
  | .drace .. => true
  | .mtlut .. => true
  | .agsel .. => true
  | .agbt .. => true
  | .agamo .. => true
  | .orderTokenEmit => true
  | .iterationClaim .. => true
  | .mzero => true
  | .mma .. => true
  | .mout .. => true
  | .mlut .. => true
  | .mqk .. => true
  | .msmu .. => true
  | .mpva .. => true
  | .msmf .. => true
  | .msmg .. => true
  | .mset .. => true
  | .tileTeardown => true
  | .residencyMove .. => true
  | .launchEligible .. => true
  | .launchAgeing .. => true
  | .launchBlocking .. => true
  | .launchAdmission => true
  | .hqctl .. => true
  | .hqmirror .. => true
  | .hostQueueTail .. => true
  | .linkLaunchSlot .. => true
  | .linkAccessRefused .. => true
  | .leaseArbitration => true
  | .leaseEviction .. => true
  | .pralineReady .. => true
  | .pralineIdleSleep .. => true
  | .lingerExpiry .. => true
  | .czip .. => true
  | .cunz .. => true
  | .topk .. => true
  | .ksort .. => true
  | .genc .. => true
  | .gdec .. => true
  | .hsha .. => true
  | .hchain .. => true
  | .pralineComplete .. => true
  | .powerInterval .. => true
  | .spineChange .. => true
  | .boostSpineSwitch => true
  | .supplyLimit .. => true
  | .boostNoticeEnd .. => true
  | .boostExpiry .. => true
  | .pstall .. => true
  | .thermalSample .. => true
  | .tripMark => true
  | .emergencySaveTimeout => true
  | .hbmSelfRefresh => true
  | .railRemoval => true
  | .dieRepower => true
  | .deadlineExpiry .. => true
  | .contextSaveComplete .. => true
  | .tileFlagWrite .. => true
  | .islandStatusWrite .. => true
  | .registerWrite .. => true
  | .identify => true
  | .features => true
  | .ctxCreate => true
  | .ctxDestroy => true
  | .map => true
  | .unmap => true
  | .mapComplete => true
  | .powerCfg => true
  | .attest => true
  | .lifelogRead => true
  | .resetDie => true
  | .fwUpdate => true
  | .a2a .. => true
  | .put .. => true
  | .get .. => true
  | .sig .. => true
  | .exchangeComplete .. => true
  | .keepaliveLoss .. => true
  | .powerUp => true
  | .sramScrub .. => true
  | .recalibration .. => true
  | .wearLevelling => true
  | .telemetrySample => true
  | .lifelogRewrite => true
  | .hostMemoryAccess .. => true
  | .remoteExchangeRequest .. => true
  | .powerLoss => true
  | .voltageDroop .. => true
  | .laneRetrain .. => true

end Sys2Proof
end

