-- ==== Sys2Proof/Decode.lean ====
section
/-! DEFINITION. The decoder, total on any words or bytes, rejecting by name, and after it the encoder.

Five encoding spaces stand beside each other in the spec: sequencer words (R310 to R313), PE words (R153 to R158), MT
words (R160, R161), AG words (R162, R163) and island words (R165, R166).  The same 32 bits may be a word of several
spaces; which one is meant is known from where the word stands. -/

namespace Sys2Proof

/-- Why bits are no instruction. -/
inductive DecodeErr where
  /-- Fewer bytes than the instruction needs. -/
  | short
  /-- The opcode, function or command is unallocated (R157, R161, R166, R311, R312). -/
  | unallocated
  /-- A reserved bit, or a field the instruction does not use, is not zero (R7, R170, R313). -/
  | notZero
  deriving DecidableEq, Repr, Inhabited

/-- The encoding spaces. -/
inductive Space where
  | sequencer | pe | mt | ag | island
  deriving DecidableEq, Repr, Inhabited

/-- An instruction whose unused fields are zero, or the refusal. -/
def needZero (ok : Bool) (i : Instr) : Except DecodeErr Instr := if ok then .ok i else .error .notZero

def orderOf (x : BitVec 2) : Order := if x = 0 then .rlx else if x = 1 then .acq else if x = 2 then .rel else .sc
def scopeOf (x : BitVec 2) : Scope := if x = 0 then .cl else if x = 1 then .die else if x = 2 then .dev else .sys
def sizeOf (x : BitVec 2) : Size := if x = 0 then .b else if x = 1 then .h else if x = 2 then .w else .d
def Order.bits : Order → BitVec 2 | .rlx => 0 | .acq => 1 | .rel => 2 | .sc => 3
def Scope.bits : Scope → BitVec 2 | .cl => 0 | .die => 1 | .dev => 2 | .sys => 3
def Size.bits : Size → BitVec 2 | .b => 0 | .h => 1 | .w => 2 | .d => 3

/-- The OP family by function code (R312). -/
def decodeOp (fn : Nat) (d a b : Reg) : Except DecodeErr Instr :=
  match fn with
  | 1 => .ok (.add d a b)
  | 2 => .ok (.sub d a b)
  | 3 => .ok (.and d a b)
  | 4 => .ok (.or d a b)
  | 5 => .ok (.xor d a b)
  | 6 => .ok (.shl d a b)
  | 7 => .ok (.shr d a b)
  | 8 => .ok (.sha d a b)
  | 9 => .ok (.mul d a b)
  | 10 => .ok (.mulh d a b)
  | 11 => .ok (.div d a b)
  | 12 => .ok (.divu d a b)
  | 13 => .ok (.rem d a b)
  | 14 => .ok (.min d a b)
  | 15 => .ok (.max d a b)
  | 16 => .ok (.minu d a b)
  | 17 => .ok (.maxu d a b)
  | 18 => .ok (.slt d a b)
  | 19 => .ok (.sltu d a b)
  | 20 => .ok (.ceq d a b)
  | 21 => needZero (b == 0) (.clz d a)
  | 22 => needZero (b == 0) (.popc d a)
  | _ => .error .unallocated

/-- The engine commands (R312, R327). -/
def decodeEng (cmd : Nat) (d a b : Reg) : Except DecodeErr Instr :=
  match cmd with
  | 0 => .ok (.cpy d a b)
  | 1 => .ok (.strm d a b)
  | 2 => .ok (.wtest d a b)
  | 3 => .ok (.cfg d a b)
  | 4 => needZero (b == 0) (.resid d a)
  | 5 => .ok (.param d a b)
  | 6 => .ok (.gbar d a b)
  | 7 => needZero (b == 0) (.resume d a)
  | 8 => .ok (.lease d a b)
  | 9 => needZero (b == 0) (.lfree d a)
  | 10 => .ok (.pcmd d a b)
  | 11 => .ok (.boost d a b)
  | 12 => needZero (b == 0) (.lnch d a)
  | 13 => .ok (.xcmd d a b)
  | 14 => .ok (.tbind d a b)
  | 15 => .ok (.tpost d a b)
  | _ => .error .unallocated

/-- The atomics (R312, R323). -/
def decodeAmo (op : Nat) (d a b : Reg) (wide : Bool) (o : Order) (c : Scope) : Instr :=
  match op with
  | 0 => .amoswp d a b wide o c
  | 1 => .amoadd d a b wide o c
  | 2 => .amocas d a b wide o c
  | 3 => .amomin d a b wide o c
  | 4 => .amomax d a b wide o c
  | 5 => .amoand d a b wide o c
  | 6 => .amoor d a b wide o c
  | _ => .amoxor d a b wide o c

/-- MEMCTL (R312, R324, R325). -/
def decodeMemctl (fn : BitVec 8) (d a b : Reg) : Except DecodeErr Instr :=
  match (fn.extractLsb' 4 4).toNat with
  | 0 => needZero (d == 0 && a == 0 && b == 0) (.fence (orderOf (fn.extractLsb' 2 2)) (scopeOf (fn.extractLsb' 0 2)))
  | 1 => needZero (d == 0 && b == 0 && fn.extractLsb' 0 4 == 0) (.cflush a)
  | 2 => needZero (d == 0 && b == 0 && fn.extractLsb' 0 4 == 0) (.cinval a)
  | 3 => needZero (b == 0 && fn.extractLsb' 0 4 == 0) (.qfence d a)
  | _ => .error .unallocated

/-- CTL (R312). -/
def decodeCtl (fn : Nat) (ok : Bool) : Except DecodeErr Instr :=
  match fn with
  | 0 => needZero ok .tend
  | 1 => needZero ok .yield
  | 2 => needZero ok .eret
  | _ => .error .unallocated

/-- Sequencer words (R310 to R313). -/
def decodeSeq (w : Word32) : Except DecodeErr Instr :=
  let d : Reg := w.extractLsb' 20 6
  let a : Reg := w.extractLsb' 14 6
  let b : Reg := w.extractLsb' 8 6
  let fn := w.extractLsb' 0 8
  let imm := w.extractLsb' 0 14
  match (w.extractLsb' 26 6).toNat with
  | 0x00 => decodeOp fn.toNat d a b
  | 1 => .ok (.addi d a imm)
  | 2 => .ok (.andi d a imm)
  | 3 => .ok (.ori d a imm)
  | 4 => .ok (.xori d a imm)
  | 5 => needZero (w.extractLsb' 6 8 == 0) (.shli d a (w.extractLsb' 0 6))
  | 6 => needZero (w.extractLsb' 6 8 == 0) (.shri d a (w.extractLsb' 0 6))
  | 7 => needZero (w.extractLsb' 6 8 == 0) (.shai d a (w.extractLsb' 0 6))
  | 0x08 => .ok (.slti d a imm)
  | 0x09 => .ok (.lui d (w.extractLsb' 0 20))
  | 0x0A => .ok (.addpc d (w.extractLsb' 0 20))
  | 16 => .ok (.beq d a imm)
  | 17 => .ok (.bne d a imm)
  | 18 => .ok (.blt d a imm)
  | 19 => .ok (.bge d a imm)
  | 20 => .ok (.bltu d a imm)
  | 21 => .ok (.bgeu d a imm)
  | 0x16 => .ok (.jal (w.extractLsb' 0 26))
  | 0x17 => .ok (.jalr d a imm)
  | 0x18 => .ok (.ld d a (w.extractLsb' 6 8) (sizeOf (w.extractLsb' 4 2)) (orderOf (w.extractLsb' 2 2)) (scopeOf (w.extractLsb' 0 2)))
  | 0x19 => .ok (.st d a (w.extractLsb' 6 8) (sizeOf (w.extractLsb' 4 2)) (orderOf (w.extractLsb' 2 2)) (scopeOf (w.extractLsb' 0 2)))
  | 0x1A => .ok (decodeAmo (w.extractLsb' 4 3).toNat d a b (w.getLsbD 7) (orderOf (w.extractLsb' 2 2)) (scopeOf (w.extractLsb' 0 2)))
  | 0x1B => decodeMemctl fn d a b
  | 0x20 => decodeEng fn.toNat d a b
  | 0x21 => decodeCtl fn.toNat (d == 0 && a == 0 && b == 0)
  | 0x22 => needZero (d == 0 && a == 0) (.trap imm)
  | 0x23 => needZero (a == 0 && w.extractLsb' 12 2 == 0) (.mfs d (w.extractLsb' 0 12))
  | 0x24 => needZero (d == 0 && w.extractLsb' 12 2 == 0) (.mts a (w.extractLsb' 0 12))
  | _ => .error .unallocated

/-- The constructor of a PE opcode (R157, R158). -/
def peCtor : Nat → Option (PeF → Instr)
  | 0x00 => some .iadd
  | 0x01 => some .isub
  | 0x02 => some .imul
  | 0x03 => some .imulh
  | 0x04 => some .imin
  | 0x05 => some .imax
  | 0x06 => some .iabs
  | 0x07 => some .peAnd
  | 0x08 => some .peOr
  | 0x09 => some .peXor
  | 0x0A => some .peShl
  | 0x0B => some .peShr
  | 0x0C => some .peSha
  | 0x0D => some .fshl
  | 0x0E => some .fshr
  | 0x0F => some .peClz
  | 0x10 => some .pePopc
  | 0x11 => some .bwid
  | 0x12 => some .icmp
  | 0x13 => some .sel
  | 0x14 => some .fadd
  | 0x15 => some .fsub
  | 0x16 => some .fmul
  | 0x17 => some .ffma
  | 0x18 => some .fmin
  | 0x19 => some .fmax
  | 0x1A => some .fcmp
  | 0x1B => some .cvt
  | 0x1C => some .red
  | 0x1D => some .scan
  | 0x1E => some .pass
  | 0x1F => some .shuf
  | 0x20 => some .packb
  | 0x21 => some .unpkb
  | 0x22 => some .delta
  | 0x23 => some .gate
  | 0x24 => some .steer
  | 0x25 => some .cnt
  | 0x26 => some .mark
  | 0x27 => some .const
  | 0x28 => some .merge
  | 0x29 => some .ojoin
  | 0x40 => some .dadd
  | 0x41 => some .dsub
  | 0x42 => some .dmul
  | 0x43 => some .dfma
  | 0x44 => some .ddiv
  | 0x45 => some .dsqrt
  | 0x46 => some .drsq
  | 0x47 => some .dexp
  | 0x48 => some .dlog
  | 0x49 => some .dnorm
  | 0x4A => some .dscl
  | 0x4B => some .dmax
  | 0x4C => some .dcmpk
  | 0x4D => some .drelu
  | 0x4E => some .drace
  | 0x4F => some .dsel
  | 0x50 => some .dacc
  | _ => none

/-- PE operation words (R153). -/
def decodePe (w : Word32) : Except DecodeErr Instr :=
  match peCtor (w.extractLsb' 25 7).toNat with
  | none => .error .unallocated
  | some mk =>
    let i := mk { mod := w.extractLsb' 21 4, imm := w.extractLsb' 16 5, ty := w.extractLsb' 12 4,
                  pol := w.extractLsb' 8 4, pred := w.extractLsb' 6 2, mkb := w.extractLsb' 4 2, en := w.extractLsb' 0 4 }
    needZero i.wellFormed i

/-- The constructor of an MT opcode (R161). -/
def mtCtor : Nat → Option (MtF → Instr)
  | 0 => some .mtrd
  | 1 => some .mtwr
  | 2 => some .mtring
  | 3 => some .mtfifo
  | 4 => some .mttas
  | 5 => some .mthist
  | 6 => some .mtlut
  | 7 => some .mtacc
  | 8 => some .mtclr
  | _ => none

/-- MT words (R160). -/
def decodeMt (w : Word32) : Except DecodeErr Instr :=
  match mtCtor (w.extractLsb' 28 4).toNat with
  | none => .error .unallocated
  | some mk =>
    let i := mk { base := w.extractLsb' 16 12, span := w.extractLsb' 12 4, mod := w.extractLsb' 8 4,
                  osel := w.getLsbD 7, mkb := w.extractLsb' 4 2, en := w.extractLsb' 0 4 }
    needZero (!w.getLsbD 6 && i.wellFormed) i

/-- The constructor of an AG opcode (R162): all eight are allocated. -/
def agCtor : Nat → AgF → Instr
  | 0 => .agld
  | 1 => .agst
  | 2 => .agga
  | 3 => .agsc
  | 4 => .agsel
  | 5 => .agbt
  | 6 => .agamo
  | _ => .agpf

/-- AG words (R162). -/
def decodeAg (w : Word32) : Except DecodeErr Instr :=
  let i := agCtor (w.extractLsb' 29 3).toNat
    { scope := scopeOf (w.extractLsb' 27 2), aclass := w.extractLsb' 23 4, otin := w.getLsbD 22, otout := w.getLsbD 21,
      psel := w.extractLsb' 18 3, mod := w.extractLsb' 14 4, vco0 := w.extractLsb' 12 2, vco1 := w.extractLsb' 10 2,
      mkb := w.extractLsb' 4 2, en := w.extractLsb' 0 4 }
  needZero (w.extractLsb' 6 4 == 0 && i.wellFormed) i

/-- Island words (R165, R166); MSET takes its two literal words too. -/
def decodeIsland : List Word32 → Except DecodeErr (Instr × List Word32)
  | [] => .error .short
  | w :: rest =>
    let af := w.extractLsb' 22 4
    let bf := w.extractLsb' 18 4
    let ra := w.extractLsb' 14 4
    let rb := w.extractLsb' 10 4
    let ro := w.extractLsb' 6 4
    let one (ok : Bool) (i : Instr) : Except DecodeErr (Instr × List Word32) :=
      if ok && w.extractLsb' 0 2 == 0 then .ok (i, rest) else .error .notZero
    match (w.extractLsb' 26 6).toNat with
    | 0 => one (w.extractLsb' 3 7 == 0) (.mma af bf ra rb (w.getLsbD 2))
    | 1 => one (w.extractLsb' 2 24 == 0) .mzero
    | 2 => one (bf == 0 && ra == 0 && rb == 0 && !w.getLsbD 2) (.mout af ro (w.getLsbD 5) (w.getLsbD 4) (w.getLsbD 3))
    | 3 => one (af == 0 && bf == 0 && w.extractLsb' 2 12 == 0) (.mlut ra)
    | 4 => one (w.extractLsb' 2 8 == 0) (.mqk af bf ra rb)
    | 5 => one (w.extractLsb' 2 20 == 0) (.msmu af)
    | 6 => one (af == 0 && ra == 0 && w.extractLsb' 2 8 == 0) (.mpva bf rb)
    | 7 => one (bf == 0 && ra == 0 && rb == 0 && w.extractLsb' 2 4 == 0) (.msmf af ro)
    | 8 => one (af == 0 && bf == 0 && w.extractLsb' 2 12 == 0) (.msmg ra)
    | 9 =>
      if w.extractLsb' 0 20 == 0 then
        match rest with
        | lo :: hi :: rest' => .ok (.mset (w.extractLsb' 20 6) (hi ++ lo), rest')
        | _ => .error .short
      else .error .notZero
    | _ => .error .unallocated

/-- The decoder of one space: the instruction and the words after it. -/
def decode (sp : Space) (ws : List Word32) : Except DecodeErr (Instr × List Word32) :=
  match sp, ws with
  | .island, ws => decodeIsland ws
  | _, [] => .error .short
  | .sequencer, w :: r => (decodeSeq w).map (fun i => (i, r))
  | .pe, w :: r => (decodePe w).map (fun i => (i, r))
  | .mt, w :: r => (decodeMt w).map (fun i => (i, r))
  | .ag, w :: r => (decodeAg w).map (fun i => (i, r))

/-- Little-endian words of a byte list (R6); a last word that is not whole is left out. -/
def wordsOf : List Byte → List Word32
  | a :: b :: c :: d :: t => (d ++ c ++ b ++ a) :: wordsOf t
  | _ => []

/-- The decoder on bytes. -/
def decodeBytes (sp : Space) (bs : List Byte) : Except DecodeErr (Instr × List Word32) := decode sp (wordsOf bs)

/-! ### The encoder -/

/-- The R and E formats (R310). -/
def wordR (maj : BitVec 6) (d a b : Reg) (fn : BitVec 8) : Word32 := maj ++ d ++ a ++ b ++ fn

/-- The I and B formats (R310). -/
def wordI (maj : BitVec 6) (d a : Reg) (imm : BitVec 14) : Word32 := maj ++ d ++ a ++ imm

/-- The M format (R310). -/
def wordM (maj : BitVec 6) (d a : Reg) (off : BitVec 8) (z : Size) (o : Order) (c : Scope) : Word32 :=
  maj ++ d ++ a ++ off ++ z.bits ++ o.bits ++ c.bits

/-- The atomics (R312). -/
def wordA (op : BitVec 3) (d a b : Reg) (wide : Bool) (o : Order) (c : Scope) : Word32 :=
  0x1A#6 ++ d ++ a ++ b ++ BitVec.ofBool wide ++ op ++ o.bits ++ c.bits

/-- PE words (R153). -/
def wordPe (op : BitVec 7) (f : PeF) : Word32 := op ++ f.mod ++ f.imm ++ f.ty ++ f.pol ++ f.pred ++ f.mkb ++ f.en

/-- MT words (R160). -/
def wordMt (op : BitVec 4) (f : MtF) : Word32 :=
  op ++ f.base ++ f.span ++ f.mod ++ BitVec.ofBool f.osel ++ 0#1 ++ f.mkb ++ f.en

/-- AG words (R162). -/
def wordAg (op : BitVec 3) (f : AgF) : Word32 :=
  op ++ f.scope.bits ++ f.aclass ++ BitVec.ofBool f.otin ++ BitVec.ofBool f.otout ++ f.psel ++ f.mod ++ f.vco0 ++ f.vco1 ++
    0#4 ++ f.mkb ++ f.en

/-- Island words (R165). -/
def wordIs (op : BitVec 6) (af bf ra rb ro : BitVec 4) (bias act rq acc : Bool) : Word32 :=
  op ++ af ++ bf ++ ra ++ rb ++ ro ++ BitVec.ofBool bias ++ BitVec.ofBool act ++ BitVec.ofBool rq ++ BitVec.ofBool acc ++ 0#2

/-- The words of an instruction; a step of the machine that no word encodes has none. -/
def encode : Instr → List Word32
  | .add d a b => [wordR 0x00 d a b 0x01]
  | .sub d a b => [wordR 0x00 d a b 0x02]
  | .and d a b => [wordR 0x00 d a b 0x03]
  | .or d a b => [wordR 0x00 d a b 0x04]
  | .xor d a b => [wordR 0x00 d a b 0x05]
  | .shl d a b => [wordR 0x00 d a b 0x06]
  | .shr d a b => [wordR 0x00 d a b 0x07]
  | .sha d a b => [wordR 0x00 d a b 0x08]
  | .mul d a b => [wordR 0x00 d a b 0x09]
  | .mulh d a b => [wordR 0x00 d a b 0x0A]
  | .div d a b => [wordR 0x00 d a b 0x0B]
  | .divu d a b => [wordR 0x00 d a b 0x0C]
  | .rem d a b => [wordR 0x00 d a b 0x0D]
  | .min d a b => [wordR 0x00 d a b 0x0E]
  | .max d a b => [wordR 0x00 d a b 0x0F]
  | .minu d a b => [wordR 0x00 d a b 0x10]
  | .maxu d a b => [wordR 0x00 d a b 0x11]
  | .slt d a b => [wordR 0x00 d a b 0x12]
  | .sltu d a b => [wordR 0x00 d a b 0x13]
  | .ceq d a b => [wordR 0x00 d a b 0x14]
  | .clz d a => [wordR 0x00 d a 0 0x15]
  | .popc d a => [wordR 0x00 d a 0 0x16]
  | .addi d a imm => [wordI 0x01 d a imm]
  | .andi d a imm => [wordI 0x02 d a imm]
  | .ori d a imm => [wordI 0x03 d a imm]
  | .xori d a imm => [wordI 0x04 d a imm]
  | .shli d a n => [wordI 0x05 d a (0#8 ++ n)]
  | .shri d a n => [wordI 0x06 d a (0#8 ++ n)]
  | .shai d a n => [wordI 0x07 d a (0#8 ++ n)]
  | .slti d a imm => [wordI 0x08 d a imm]
  | .lui d imm => [0x09#6 ++ d ++ imm]
  | .addpc d imm => [0x0A#6 ++ d ++ imm]
  | .beq a b off => [wordI 0x10 a b off]
  | .bne a b off => [wordI 0x11 a b off]
  | .blt a b off => [wordI 0x12 a b off]
  | .bge a b off => [wordI 0x13 a b off]
  | .bltu a b off => [wordI 0x14 a b off]
  | .bgeu a b off => [wordI 0x15 a b off]
  | .jal off => [0x16#6 ++ off]
  | .jalr d a imm => [wordI 0x17 d a imm]
  | .ld d a off z o c => [wordM 0x18 d a off z o c]
  | .st d a off z o c => [wordM 0x19 d a off z o c]
  | .amoswp d a b wide o c => [wordA 0 d a b wide o c]
  | .amoadd d a b wide o c => [wordA 1 d a b wide o c]
  | .amocas d a b wide o c => [wordA 2 d a b wide o c]
  | .amomin d a b wide o c => [wordA 3 d a b wide o c]
  | .amomax d a b wide o c => [wordA 4 d a b wide o c]
  | .amoand d a b wide o c => [wordA 5 d a b wide o c]
  | .amoor d a b wide o c => [wordA 6 d a b wide o c]
  | .amoxor d a b wide o c => [wordA 7 d a b wide o c]
  | .fence o c => [wordR 0x1B 0 0 0 (0#4 ++ o.bits ++ c.bits)]
  | .cflush a => [wordR 0x1B 0 a 0 0x10]
  | .cinval a => [wordR 0x1B 0 a 0 0x20]
  | .qfence d a => [wordR 0x1B d a 0 0x30]
  | .tend => [wordR 0x21 0 0 0 0]
  | .yield => [wordR 0x21 0 0 0 1]
  | .eret => [wordR 0x21 0 0 0 2]
  | .trap imm => [wordI 0x22 0 0 imm]
  | .mfs d n => [wordI 0x23 d 0 (0#2 ++ n)]
  | .mts a n => [wordI 0x24 0 a (0#2 ++ n)]
  | .bankmode _ => []
  | .bankModeCut => []
  | .mcmode _ => []
  | .cpy d a b => [wordR 0x20 d a b 0x00]
  | .strm d a b => [wordR 0x20 d a b 0x01]
  | .wtest d a b => [wordR 0x20 d a b 0x02]
  | .cfg d a b => [wordR 0x20 d a b 0x03]
  | .resid d a => [wordR 0x20 d a 0 0x04]
  | .param d a b => [wordR 0x20 d a b 0x05]
  | .gbar d a b => [wordR 0x20 d a b 0x06]
  | .resume d a => [wordR 0x20 d a 0 0x07]
  | .lease d a b => [wordR 0x20 d a b 0x08]
  | .lfree d a => [wordR 0x20 d a 0 0x09]
  | .pcmd d a b => [wordR 0x20 d a b 0x0A]
  | .boost d a b => [wordR 0x20 d a b 0x0B]
  | .lnch d a => [wordR 0x20 d a 0 0x0C]
  | .xcmd d a b => [wordR 0x20 d a b 0x0D]
  | .tbind d a b => [wordR 0x20 d a b 0x0E]
  | .tpost d a b => [wordR 0x20 d a b 0x0F]
  | .taskDispatch => []
  | .messageArrival _ _ _ _ _ _ => []
  | .messageRetry => []
  | .pageWalk _ _ _ => []
  | .invalidationArrival _ => []
  | .tierCTimeout _ _ => []
  | .eccError _ _ _ => []
  | .patrolScrub _ => []
  | .ambPark _ => []
  | .wake _ _ _ => []
  | .promoteAll _ _ _ => []
  | .promoteOne _ _ _ => []
  | .drop _ _ _ => []
  | .hcTimerExpiry _ => []
  | .cfTimerExpiry _ => []
  | .amberExamination _ => []
  | .demoteHc _ _ => []
  | .demoteCf _ _ => []
  | .blockPromotion _ _ => []
  | .promotionResume _ => []
  | .resumeLaunchRetry _ => []
  | .amberPushRetry _ => []
  | .amberCfg => []
  | .copy _ => []
  | .maskrows _ => []
  | .streamin _ => []
  | .streamout _ => []
  | .arrive _ => []
  | .barset _ => []
  | .streamPortPush _ => []
  | .streamPortPop _ => []
  | .chunkComplete _ => []
  | .ceCommandComplete _ => []
  | .qfenceRetire _ => []
  | .ringDescriptorStore _ _ _ => []
  | .fifoQueueStore _ _ _ => []
  | .windowQueueStore _ _ _ => []
  | .switchForward _ => []
  | .killPropagate _ => []
  | .iadd f => [wordPe 0x00 f]
  | .isub f => [wordPe 0x01 f]
  | .imul f => [wordPe 0x02 f]
  | .imulh f => [wordPe 0x03 f]
  | .imin f => [wordPe 0x04 f]
  | .imax f => [wordPe 0x05 f]
  | .iabs f => [wordPe 0x06 f]
  | .peAnd f => [wordPe 0x07 f]
  | .peOr f => [wordPe 0x08 f]
  | .peXor f => [wordPe 0x09 f]
  | .peShl f => [wordPe 0x0A f]
  | .peShr f => [wordPe 0x0B f]
  | .peSha f => [wordPe 0x0C f]
  | .fshl f => [wordPe 0x0D f]
  | .fshr f => [wordPe 0x0E f]
  | .peClz f => [wordPe 0x0F f]
  | .pePopc f => [wordPe 0x10 f]
  | .bwid f => [wordPe 0x11 f]
  | .icmp f => [wordPe 0x12 f]
  | .sel f => [wordPe 0x13 f]
  | .fadd f => [wordPe 0x14 f]
  | .fsub f => [wordPe 0x15 f]
  | .fmul f => [wordPe 0x16 f]
  | .ffma f => [wordPe 0x17 f]
  | .fmin f => [wordPe 0x18 f]
  | .fmax f => [wordPe 0x19 f]
  | .fcmp f => [wordPe 0x1A f]
  | .cvt f => [wordPe 0x1B f]
  | .red f => [wordPe 0x1C f]
  | .scan f => [wordPe 0x1D f]
  | .pass f => [wordPe 0x1E f]
  | .shuf f => [wordPe 0x1F f]
  | .packb f => [wordPe 0x20 f]
  | .unpkb f => [wordPe 0x21 f]
  | .delta f => [wordPe 0x22 f]
  | .gate f => [wordPe 0x23 f]
  | .steer f => [wordPe 0x24 f]
  | .cnt f => [wordPe 0x25 f]
  | .mark f => [wordPe 0x26 f]
  | .const f => [wordPe 0x27 f]
  | .merge f => [wordPe 0x28 f]
  | .ojoin f => [wordPe 0x29 f]
  | .dadd f => [wordPe 0x40 f]
  | .dsub f => [wordPe 0x41 f]
  | .dmul f => [wordPe 0x42 f]
  | .dfma f => [wordPe 0x43 f]
  | .ddiv f => [wordPe 0x44 f]
  | .dsqrt f => [wordPe 0x45 f]
  | .drsq f => [wordPe 0x46 f]
  | .dexp f => [wordPe 0x47 f]
  | .dlog f => [wordPe 0x48 f]
  | .dnorm f => [wordPe 0x49 f]
  | .dscl f => [wordPe 0x4A f]
  | .dmax f => [wordPe 0x4B f]
  | .dcmpk f => [wordPe 0x4C f]
  | .drelu f => [wordPe 0x4D f]
  | .drace f => [wordPe 0x4E f]
  | .dsel f => [wordPe 0x4F f]
  | .dacc f => [wordPe 0x50 f]
  | .mtrd f => [wordMt 0 f]
  | .mtwr f => [wordMt 1 f]
  | .mtring f => [wordMt 2 f]
  | .mtfifo f => [wordMt 3 f]
  | .mttas f => [wordMt 4 f]
  | .mthist f => [wordMt 5 f]
  | .mtlut f => [wordMt 6 f]
  | .mtacc f => [wordMt 7 f]
  | .mtclr f => [wordMt 8 f]
  | .agld f => [wordAg 0 f]
  | .agst f => [wordAg 1 f]
  | .agga f => [wordAg 2 f]
  | .agsc f => [wordAg 3 f]
  | .agsel f => [wordAg 4 f]
  | .agbt f => [wordAg 5 f]
  | .agamo f => [wordAg 6 f]
  | .agpf f => [wordAg 7 f]
  | .orderTokenEmit => []
  | .iterationClaim _ => []
  | .mzero => [wordIs 1 0 0 0 0 0 false false false false]
  | .mma af bf ra rb ovw => [wordIs 0 af bf ra rb 0 false false false ovw]
  | .mout out ro bias act rq => [wordIs 2 out 0 0 0 ro bias act rq false]
  | .mlut ra => [wordIs 3 0 0 ra 0 0 false false false false]
  | .mqk af bf ra rb => [wordIs 4 af bf ra rb 0 false false false false]
  | .msmu pf => [wordIs 5 pf 0 0 0 0 false false false false]
  | .mpva bf rb => [wordIs 6 0 bf 0 rb 0 false false false false]
  | .msmf out ro => [wordIs 7 out 0 0 0 ro false false false false]
  | .msmg ra => [wordIs 8 0 0 ra 0 0 false false false false]
  | .mset dreg v => [0x09#6 ++ dreg ++ 0#20, v.extractLsb' 0 32, v.extractLsb' 32 32]
  | .tileTeardown => []
  | .residencyMove _ _ => []
  | .launchEligible _ => []
  | .launchAgeing _ => []
  | .launchBlocking _ => []
  | .launchAdmission => []
  | .hqctl _ _ => []
  | .hqmirror _ _ => []
  | .hostQueueTail _ => []
  | .linkLaunchSlot _ _ => []
  | .linkAccessRefused _ _ => []
  | .leaseArbitration => []
  | .leaseEviction _ => []
  | .pralineReady _ => []
  | .pralineIdleSleep _ => []
  | .lingerExpiry _ => []
  | .czip _ => []
  | .cunz _ => []
  | .topk _ => []
  | .ksort _ => []
  | .genc _ => []
  | .gdec _ => []
  | .hsha _ => []
  | .hchain _ => []
  | .pralineComplete _ => []
  | .powerInterval _ => []
  | .spineChange _ _ => []
  | .boostSpineSwitch => []
  | .supplyLimit _ => []
  | .boostNoticeEnd _ => []
  | .boostExpiry _ => []
  | .pstall _ => []
  | .thermalSample _ => []
  | .tripMark => []
  | .emergencySaveTimeout => []
  | .hbmSelfRefresh => []
  | .railRemoval => []
  | .dieRepower => []
  | .deadlineExpiry _ => []
  | .contextSaveComplete _ => []
  | .tileFlagWrite _ _ => []
  | .islandStatusWrite _ _ _ => []
  | .registerWrite _ _ => []
  | .identify => []
  | .features => []
  | .ctxCreate => []
  | .ctxDestroy => []
  | .map => []
  | .unmap => []
  | .mapComplete => []
  | .powerCfg => []
  | .attest => []
  | .lifelogRead => []
  | .resetDie => []
  | .fwUpdate => []
  | .a2a _ _ => []
  | .put _ _ => []
  | .get _ _ => []
  | .sig _ _ => []
  | .exchangeComplete _ _ => []
  | .keepaliveLoss _ => []
  | .powerUp => []
  | .sramScrub _ _ => []
  | .recalibration _ => []
  | .wearLevelling => []
  | .telemetrySample => []
  | .lifelogRewrite => []
  | .hostMemoryAccess _ _ _ _ => []
  | .remoteExchangeRequest _ _ _ _ _ => []
  | .powerLoss => []
  | .voltageDroop _ _ => []
  | .laneRetrain _ => []

/-- The first word of an instruction; zero for one that has none. -/
def Instr.word (i : Instr) : Word32 := (encode i).headD 0

/-! ### The table's words -/

/-- The spaces in the order in which a word of the opcode table is tried (assumption 4). -/
def tableSpaces : List Space := [.sequencer, .pe, .mt, .ag, .island]

/-- The instruction and the space that a list of words reads as: the first space whose decoder accepts it. -/
def decodeAny (ws : List Word32) : Option (Space × Instr) :=
  tableSpaces.findSome? (fun sp => match decode sp ws with
    | .ok (i, _) => some (sp, i)
    | .error _ => none)

/-- The three words that the table's bits of an instruction stand for: the bits above `nbits` are zero. -/
def tableWords (nbits w : Nat) : List Word32 :=
  let v := w % 2 ^ nbits
  [BitVec.ofNat 32 v, BitVec.ofNat 32 (v / 2 ^ 32), BitVec.ofNat 32 (v / 2 ^ 64)]

/-- The instruction that the decoder reads from an instruction whose bits the opcode table numbers. -/
def decodeTableWord (nbits w : Nat) : Option Instr := (decodeAny (tableWords nbits w)).map Prod.snd

end Sys2Proof
end

