-- ==== Sys2Proof/Machine/Ops.lean ====
section
/-! DEFINITION. The named operations of a sequencer: its registers with their ring forms (R302, R303), trap entry,
abandonment and return (R314 to R316), the end of a task (R326), and the release of its stores (R286 to R290). -/

namespace Sys2Proof.Machine

/-- A trap about to be taken (R314, R315). -/
structure Trap where
  cause : Nat
  xcode : Nat := 0
  xlvl : Nat := 0
  val : Word := 0
  deriving DecidableEq, Repr, Inhabited

/-- Cause codes (R315). -/
def tIllegal : Nat := 1
def tMisalign : Nat := 2
def tTranslation : Nat := 3
def tPermission : Nat := 4
def tRingUf : Nat := 5
def tRingOf : Nat := 6
def tTrap : Nat := 7
def tBreak : Nat := 8
def tMcheck : Nat := 9

/-- Why an instruction does not complete: it traps, in a state where only what its accesses did to the page tables and
channels shows; or it waits, and is tried again at the sequencer's next turn (R69, R79). -/
inductive Stop where
  | trap (t : Trap) (s : State)
  | wait

/-- TRAPCAUSE as a trap writes it (R305). -/
def Trap.word (t : Trap) : Word := BitVec.ofNat 64 (t.cause + t.xcode * 2 ^ 8 + t.xlvl * 2 ^ 12)

/-- The return address of a trap (R314). -/
def Trap.retPc (t : Trap) (pc : Word) : Word := if t.cause = tTrap then pc + 4 else pc

/-! ### Registers as stored (R302) -/

/-- A register's stored value; s0 reads zero. -/
def Seq.reg (q : Seq) (r : Reg) : Word := if r = 0 then 0 else q.regs[r.toNat]'(by have := r.isLt; omega)

/-- Stores a register; writes of s0 are discarded. -/
def Seq.setReg (q : Seq) (r : Reg) (v : Word) : Seq :=
  if r = 0 then q else { q with regs := q.regs.set r.toNat v (by have := r.isLt; omega) }

/-- A load's byte: the youngest store of the buffer to it, or the die's view (R284). -/
def State.loadByte (s : State) (c : Nat) (cached : Bool) (pa : Nat) : Byte × Bool :=
  match ((s.sq c).sbuf.filter (fun e => decide (e.pa ≤ pa) && decide (pa < e.pa + e.size))).getLast? with
  | some e => (BitVec.ofNat 8 (e.data >>> (8 * (pa - e.pa))), false)
  | none => s.viewByte (dieOf c) cached pa

/-- A poisoned word reads as 0, with a machine check (R17, R462). -/
def State.seqPoison (s : State) (c ctx pa va : Nat) : State := s.machineCheck c ctx 1 0 pa (BitVec.ofNat 64 va) 0

/-- Reads `n` bytes of memory for a sequencer: the value, zero-extended. -/
def State.loadMem (s : State) (c ctx va n pa : Nat) (cached : Bool) : Nat × State :=
  let bs := (List.range n).map (fun i => s.loadByte c cached (pa + i))
  let s := s.keepCopy (dieOf c) cached pa
  if anyPoison bs then (0, s.seqPoison c ctx pa va) else (ofBytes (plain bs), s)

/-! ### Stores, releases and fences (R284 to R290) -/

/-- Performs a store-buffer entry at home; a release first waits for what its scope names (R287). -/
def State.performStore (s : State) (c : Nat) (e : StoreEnt) : State :=
  let s := match e.rel with
    | none => s
    | some r => s.deliverKnown (agentSeq c) (dieOf c) r
  s.storeHome (dieOf c) (agentSeq c) e.pa (toBytes e.size e.data) false

/-- Two entries touch a common byte. -/
def StoreEnt.meets (a b : StoreEnt) : Bool := decide (a.pa < b.pa + b.size) && decide (b.pa < a.pa + a.size)

/-- Entry `k` of the store buffer may be performed next: no earlier entry touches its bytes, and releases keep the
order of what precedes them (R283, R286, R287). -/
def mayDrain (b : List StoreEnt) (k : Nat) : Bool :=
  match b[k]? with
  | none => false
  | some e => k == 0 || (e.rel.isNone && (b.take k).all (fun x => x.rel.isNone && !x.meets e))

/-- The store buffer performs entry `k`, if it may. -/
def State.drain (s : State) (c k : Nat) : State :=
  let q := s.sq c
  match q.sbuf[k]? with
  | none => s
  | some e =>
    if mayDrain q.sbuf k then (s.setSq c { q with sbuf := dropIdx q.sbuf k }).performStore c e else s

/-- The store buffer performs everything it holds, in order. -/
def State.drainAll (s : State) (c : Nat) : State :=
  let q := s.sq c
  q.sbuf.foldl (fun s e => s.performStore c e) (s.setSq c { q with sbuf := [] })

/-- The entries of a store buffer up to the last that `p` picks. -/
def upTo (b : List StoreEnt) (p : StoreEnt → Bool) : List StoreEnt := (b.reverse.dropWhile (fun e => !p e)).reverse

/-- The store buffer performs, in order, everything up to the last entry that `p` picks. -/
def State.drainTo (s : State) (c : Nat) (p : StoreEnt → Bool) : State :=
  let q := s.sq c
  let now := upTo q.sbuf p
  now.foldl (fun s e => s.performStore c e) (s.setSq c { q with sbuf := q.sbuf.drop now.length })

/-- A later store that does not go through the buffer follows every release in it, and what those follow (R287). -/
def State.drainRel (s : State) (c : Nat) : State := s.drainTo c (fun e => e.rel.isSome)

/-- Every earlier access of the sequencer is performed at the scope (R287, R289, R297). -/
def State.releaseAt (s : State) (c : Nat) (sc : Scope) : State :=
  (s.drainAll c).deliverKnown (agentSeq c) (dieOf c) sc

/-- The freshness step belongs to SC at DEV and SYS (R287, R290). -/
def State.freshAt (s : State) (c : Nat) (sc : Scope) : State :=
  if scopeAll sc then s.freshen (dieOf c) else s

/-- The new value of an atomic on `n` bytes, from old, operand and comparand; `none` where it writes nothing. -/
abbrev AmoFn := Nat → Nat → Nat → Nat → Option Nat

def amoSwpFn : AmoFn := fun _ _ op _ => some op
def amoAddFn : AmoFn := fun n old op _ => some ((old + op) % 2 ^ (8 * n))
def amoCasFn : AmoFn := fun _ old op cmp => if old = cmp then some op else none
def amoMinFn : AmoFn := fun n old op _ => some (if signed op (8 * n) < signed old (8 * n) then op else old)
def amoMaxFn : AmoFn := fun n old op _ => some (if signed old (8 * n) < signed op (8 * n) then op else old)
def amoAndFn : AmoFn := fun _ old op _ => some (old &&& op)
def amoOrFn : AmoFn := fun _ old op _ => some (old ||| op)
def amoXorFn : AmoFn := fun _ old op _ => some (old ^^^ op)

/-- The function of each atomic (R323). -/
def AmoKind.fn : AmoKind → AmoFn
  | .swp => amoSwpFn
  | .add => amoAddFn
  | .cas => amoCasFn
  | .min => amoMinFn
  | .max => amoMaxFn
  | .and => amoAndFn
  | .or => amoOrFn
  | .xor => amoXorFn

/-- Own stores to the bytes of an atomic are performed before it (R283). -/
def State.settleOwn (s : State) (c pa n : Nat) : State :=
  s.drainTo c (fun e => decide (e.pa < pa + n) && decide (pa < e.pa + e.size))

/-- Performs an atomic at the word's home: the old value; `pre` is what precedes its store part.  One that writes nothing is
a load; as it has read the home, a copy that its die holds of the line is gone, or a later load would return an older value
(R283). -/
def State.amoHome (s : State) (c ctx va pa n : Nat) (f : AmoFn) (op cmp : Nat) (pre : State → State) : Nat × State :=
  let s := s.settleOwn c pa n
  if s.poisonedAt pa then (0, s.seqPoison c ctx pa va)
  else
    let old := ofBytes (s.mem.bytes pa n)
    match f n old op cmp with
    | none => (old, if homeDie pa = dieOf c then s else s.dropCopy (dieOf c) (pa / 128))
    | some w => (old, (pre s).storeHome (dieOf c) (agentSeq c) pa (toBytes n w) false)

/-- A pending load or atomic is performed: its destination takes the value. -/
def State.performEnt (s : State) (c : Nat) (e : LoadEnt) : State :=
  let r := match e.amo with
    | none => s.loadMem c e.ctx e.va e.size e.pa e.cached
    | some (k, op, cmp) => s.amoHome c e.ctx e.va e.pa e.size k.fn op cmp (fun s => s.drainRel c)
  r.2.setSq c ((r.2.sq c).setReg e.d (BitVec.ofNat 64 r.1))

/-- The pending loads that `p` picks are performed, in order. -/
def State.performLoads (s : State) (c : Nat) (p : LoadEnt → Bool) : State :=
  let q := s.sq c
  if q.loads.isEmpty then s
  else (q.loads.filter p).foldl (fun s e => s.performEnt c e) (s.setSq c { q with loads := q.loads.filter (fun e => !p e) })

/-- Every pending load is performed. -/
def State.settleLoads (s : State) (c : Nat) : State := s.performLoads c (fun _ => true)

/-! ### Traps and abandonment (R314 to R316) -/

/-- The running task ends (R326): a start task's unclaimed reservations are released (R360). -/
def State.endTask (s : State) (c : Nat) : State :=
  let q := s.sq c
  let s' := s.setSq c { q with task := none, brkSkip := false }
  match q.task with
  | some { launch := some l, .. } => s'.releaseUnclaimed c l
  | _ => s'

/-- The sequencer itself as a sender of messages. -/
def senderSeq : Nat := 39

/-- An abandoned task (R316, R406): it ends, and channel 0 receives its report, unless channel 0 started it: then
dispatch stops and firmware reports the cluster. -/
def State.abandon (s : State) (c : Nat) (t : Trap) : State :=
  let q := s.sq c
  match q.task with
  | none => s
  | some k =>
    let s := s.endTask c
    if k.chan = 0 then
      (s.setSq c { s.sq c with stopped := some k.ctx }).send { kind := 5, dest := c, addr := t.cause }
    else
      s.post c senderSeq 0
        { msg := { w0 := t.word ||| (1#64 <<< 62), w1 := t.retPc q.pc, w2 := t.val, w3 := q.taskid }, ctx := k.ctx }

/-- Trap entry (R314): the one place where a sequencer trap is taken.  Loads that were still waiting have completed: a fetch
that traps completes them (`State.fetchTrap`), and before a word that can trap no load is left pending (`State.settleFor`). -/
def State.takeTrap (s : State) (c : Nat) (t : Trap) : State :=
  let q := s.sq c
  if q.inTrap = true ∨ q.tvec = 0 then s.abandon c t
  else s.setSq c { q with tcause := t.word, tval := t.val, tpc := t.retPc q.pc, inTrap := true, pc := q.tvec, brkSkip := false }

/-- The trap of a fetch: the loads that are still waiting complete first (R314). -/
def State.fetchTrap (s : State) (c : Nat) (t : Trap) : State := (s.settleLoads c).takeTrap c t

/-- Return from a trap (R316). -/
def State.returnTrap (s : State) (c : Nat) : State :=
  let q := s.sq c
  s.setSq c { q with pc := q.tpc, inTrap := false, brkSkip := true }

/-- What an instruction that stopped leaves. -/
def State.settle (s : State) (c : Nat) : Except Stop State → State
  | .ok s' => s'
  | .error (.trap t s') => s'.takeTrap c t
  | .error .wait => s

/-! ### Registers (R302, R303) -/

/-- The fields of CHQ (R307). -/
def qIn (q : Word) : Nat := fld q.toNat 15 0
def qOut (q : Word) : Nat := fld q.toNat 31 16
def qInRing (q : Word) : Nat := fld q.toNat 35 32
def qInEn (q : Word) : Bool := bit q.toNat 36
def qOutRing (q : Word) : Nat := fld q.toNat 40 37
def qOutEn (q : Word) : Bool := bit q.toNat 41
def qCtx (q : Word) : Nat := fld q.toNat 47 42
def qBound (q : Word) : Bool := bit q.toNat 48

/-- The running task; an idle sequencer executes nothing, so the default is never used. -/
def Seq.running (q : Seq) : Task := q.task.getD {}

/-- The ILLEGAL trap of an instruction word (R313, R315). -/
def illegal (w : Word32) : Trap := { cause := tIllegal, val := w.setWidth 64 }

/-- A ring can give `n` bytes to s60 (R303): CMASK is 0, EN is 1 and FILL suffices. -/
def Cluster.canPop (k : Cluster) (r n : Nat) : Bool :=
  (k.ring r).en && (k.ring r).cmask == 0 && decide (n ≤ (k.ring r).fill)

/-- A ring can take 8 bytes from s61 (R303). -/
def Cluster.canPush (k : Cluster) (r : Nat) : Bool :=
  (k.ring r).en && decide ((k.ring r).fill + 8 ≤ (k.ring r).size)

/-- One pop of s60: its 8 bytes, or 0 and a machine check when one is poisoned (R303, R462). -/
def State.pop60 (s : State) (c : Nat) : Word × State :=
  let t := (s.sq c).running
  let r := qInRing t.q
  let k := s.cl c
  let x := k.ring r
  let v := BitVec.ofNat 64 (ofBytes (k.ringBytes x x.head 8))
  let bad := k.ringPoison x x.head 8
  let s' := s.setCl c (k.ringPop r 8)
  if bad then (0, s'.machineCheck c t.ctx 1 0 0 (BitVec.ofNat 64 (0xFFFFFFFFFF000000 + x.at x.head)) 0) else (v, s')

/-- Reads one source register, popping for s60. -/
def State.readReg (s : State) (c : Nat) (r : Reg) : Word × State :=
  if r = 60 then s.pop60 c else ((s.sq c).reg r, s)

/-- Reads the source registers in field order (R302), after the ILLEGAL and RINGUF checks (R404 orders 4 and 5).
`w` is the instruction word and `dst` the destination field. -/
def State.readSrcs (s : State) (c : Nat) (w : Word32) (srcs : List Reg) (dst : Option Reg) :
    Except Stop (List Word × State) :=
  if srcs.contains 61 || dst == some 60 then .error (.trap (illegal w) s)
  else
    let n := (srcs.filter (fun r => r == 60)).length
    let q := (s.sq c).running.q
    if n != 0 && !(qInEn q && (s.cl c).canPop (qInRing q) (8 * n)) then
      .error (.trap { cause := tRingUf, val := if qInEn q then BitVec.ofNat 64 (qInRing q) else 0xFF } s)
    else .ok (srcs.foldl (fun (acc : List Word × State) r =>
      let x := acc.2.readReg c r
      (acc.1 ++ [x.1], x.2)) ([], s))

/-- The RINGOF check of a destination (R303, R404 order 8), in the state before any pop. -/
def State.dstOk (s : State) (c : Nat) (d : Reg) : Bool :=
  d != 61 || (qOutEn (s.sq c).running.q && (s.cl c).canPush (qOutRing (s.sq c).running.q))

/-- The RINGOF trap (R315). -/
def State.ringOf (s : State) (c : Nat) : Trap :=
  let q := (s.sq c).running.q
  { cause := tRingOf, val := if qOutEn q then BitVec.ofNat 64 (qOutRing q) else 0xFF }

/-- Writes the destination: a push for s61, nothing for s0 (R302). -/
def State.writeDst (s : State) (c : Nat) (d : Reg) (v : Word) : State :=
  if d = 61 then
    s.setCl c ((s.cl c).ringPush (qOutRing (s.sq c).running.q) ((toBytes 8 v.toNat).map (fun b => (b, false))))
  else s.setSq c ((s.sq c).setReg d v)

/-- Sets the pc. -/
def State.setPc (s : State) (c : Nat) (pc : Word) : State := s.setSq c { s.sq c with pc := pc, brkSkip := false }

/-- Moves to the next instruction. -/
def State.advance (s : State) (c : Nat) : State := s.setPc c ((s.sq c).pc + 4)

/-- The shape that every register-writing instruction shares: sources are read, the result computed, the destination
checked, then written, and the pc advances.  `f` computes the result from the values of the sources. -/
def State.compute (s : State) (c : Nat) (w : Word32) (srcs : List Reg) (d : Reg) (f : List Word → Word) :
    Except Stop State := do
  let (vs, s') ← s.readSrcs c w srcs (some d)
  if s.dstOk c d then .ok ((s'.writeDst c d (f vs)).advance c) else .error (.trap (s.ringOf c) s)

/-- A register that may stand in one of the three register fields of an instruction word (R310). -/
def mentions (w : Word32) (r : Reg) : Bool :=
  fld w.toNat 25 20 == r.toNat || fld w.toNat 19 14 == r.toNat || fld w.toNat 13 8 == r.toNat

/-- An instruction that only computes or branches (R312) and cannot trap: its word's major opcode is below the memory formats,
it is no JAL, which links through s62, and no JALR, and it names no ring. -/
def computes (w : Word32) : Bool :=
  decide (w.toNat / 2 ^ 26 < 0x16) && !mentions w 60 && !mentions w 61

/-- Before an instruction, the pending loads whose registers it may name are performed; before one that is not plain
computing, all of them (R286: only an address that depends on a load orders a later load behind it). -/
def State.settleFor (s : State) (c : Nat) (w : Word32) : State :=
  if computes w then s.performLoads c (fun e => mentions w e.d) else s.settleLoads c

/-- A pending load `k` is performed. -/
def State.performNth (s : State) (c k : Nat) : State :=
  let q := s.sq c
  match q.loads[k]? with
  | none => s
  | some e => (s.setSq c { q with loads := dropIdx q.loads k }).performEnt c e

end Sys2Proof.Machine
end

