-- ==== Sys2Proof/Machine/Operands.lean ====
section
/-! DEFINITION. The operand forms of sequencer instructions: sign-extended immediates, offsets and sizes (R310, R319 to
R322), and the operand words of the engine commands (R332, R333). -/

namespace Sys2Proof.Machine

/-- A 14-bit immediate, sign-extended (R319). -/
def sx14 (i : BitVec 14) : Word := i.signExtend 64

/-- A 20-bit immediate times 4,096 (R320). -/
def upper (i : BitVec 20) : Word := i.signExtend 64 <<< 12

/-- A branch offset in words, as bytes (R321). -/
def branchOff (o : BitVec 14) : Word := o.signExtend 64 <<< 2

/-- A jump offset in words, as bytes (R321). -/
def jumpOff (o : BitVec 26) : Word := o.signExtend 64 <<< 2

/-- Access sizes in bytes (R310). -/
def sizeBytes : Size → Nat
  | .b => 1
  | .h => 2
  | .w => 4
  | .d => 8

/-- The address of an M-format access (R322). -/
def mAddr (base : Word) (off : BitVec 8) (z : Size) : Word := base + off.signExtend 64 * BitVec.ofNat 64 (sizeBytes z)

/-- The size of an atomic in bytes (R323). -/
def amoBytes (wide : Bool) : Nat := if wide then 8 else 4

/-- The fields of a target word (R332). -/
def tgHandle (x : Word) : Nat := fld x.toNat 15 0
def tgUnit (x : Word) : Nat := fld x.toNat 20 16
def tgMk (x : Word) : Nat := fld x.toNat 22 21

/-- The fields of a message word (R333). -/
def mwChan (x : Word) : Nat := fld x.toNat 3 0
def mwTag (x : Word) : Nat := fld x.toNat 19 4

/-- A result word: the status in [7:0] and a value in [63:32] (R328). -/
def result (status value : Nat) : Word := BitVec.ofNat 64 (status + value * 2 ^ 32)

end Sys2Proof.Machine
end

