-- ==== Sys2Proof/Machine/Ports.lean ====
section
/-! DEFINITION. Ports of stream commands and edge AGs: staging buffers, FIFO banks and rings (R62, R83, R84, R86). -/

namespace Sys2Proof.Machine

/-- The enabled FIFO bank that serves an edge port (R86). -/
def Cluster.fifoOf (k : Cluster) (p : Nat) : Option Nat :=
  (k.bankQs.find? (fun e => k.mode e.1 == mFifo && e.2.en && e.2.port == p)).map Prod.fst

/-- Free room of a port, in bytes. -/
def Cluster.portRoom (k : Cluster) (p : Nat) : Nat :=
  if p < 32 then
    match k.fifoOf p with
    | some b => 65536 - (k.bq b).ffill
    | none => 512 - (k.stage p).data.length
  else (k.ring (p - 32)).size - (k.ring (p - 32)).fill

/-- Bytes a port holds. -/
def Cluster.portFill (k : Cluster) (p : Nat) : Nat :=
  if p < 32 then
    match k.fifoOf p with
    | some b => (k.bq b).ffill
    | none => (k.stage p).data.length
  else (k.ring (p - 32)).fill

/-- The port's producer has ended. -/
def Cluster.portEnded (k : Cluster) (p : Nat) : Bool :=
  if p < 32 then
    match k.fifoOf p with
    | some b => (k.bq b).fend
    | none => (k.stage p).ended
  else (k.ring (p - 32)).ended

/-- Sets or clears the port's END. -/
def Cluster.setPortEnd (k : Cluster) (p : Nat) (v : Bool) : Cluster :=
  if p < 32 then
    match k.fifoOf p with
    | some b => k.setBq b { k.bq b with fend := v }
    | none => { k with stages := k.stages.put p { k.stage p with ended := v } }
  else k.setRing (p - 32) { k.ring (p - 32) with ended := v }

/-- Pushes bytes for which there is room. -/
def Cluster.portPush (k : Cluster) (p : Nat) (bs : List (Byte × Bool)) : Cluster :=
  if p < 32 then
    match k.fifoOf p with
    | some b =>
      let x := k.bq b
      let k := k.putAt (fun i => b * 0x10000 + (x.fwr + i) % 65536) bs
      k.setBq b { x with fwr := (x.fwr + bs.length) % 65536, ffill := x.ffill + bs.length }
    | none => { k with stages := k.stages.put p { k.stage p with data := (k.stage p).data ++ bs } }
  else k.ringPush (p - 32) bs

/-- The oldest `n` bytes of a port. -/
def Cluster.portPeek (k : Cluster) (p n : Nat) : List (Byte × Bool) :=
  if p < 32 then
    match k.fifoOf p with
    | some b => (List.range n).map (fun i =>
        let a := b * 0x10000 + ((k.bq b).frd + i) % 65536
        (k.sram.byte a, k.sramPoison.contains (a / 32)))
    | none => (k.stage p).data.take n
  else
    let x := k.ring (p - 32)
    (List.range n).map (fun i => (k.sram.byte (x.at (x.head + i)), k.sramPoison.contains (x.at (x.head + i) / 32)))

/-- Removes the oldest `n` bytes of a port. -/
def Cluster.portPop (k : Cluster) (p n : Nat) : Cluster :=
  if p < 32 then
    match k.fifoOf p with
    | some b =>
      let x := k.bq b
      k.setBq b { x with frd := (x.frd + n) % 65536, ffill := x.ffill - n }
    | none => { k with stages := k.stages.put p { k.stage p with data := (k.stage p).data.drop n } }
  else k.ringPop (p - 32) n

/-- A STREAMOUT may pop the port: a ring must have CMASK 0 (R83). -/
def Cluster.portPoppable (k : Cluster) (p : Nat) : Bool := decide (p < 32) || (k.ring (p - 32)).cmask == 0

/-- The port has a binding (R59, R185): a running residency's STAGE or FIFO entry names it; a ring is bound while enabled. -/
def Cluster.portBound (k : Cluster) (p : Nat) : Bool :=
  if p < 32 then k.resids.any (fun e => e.2.live && e.2.binds.any (fun b => b.ag == p && b.path != 0))
  else decide (p < 48) && (k.ring (p - 32)).en

end Sys2Proof.Machine
end

