-- ==== Sys2Proof/Machine/Flags.lean ====
section
/-! DEFINITION. Conditions and flags: the comparisons of branches and OP words (R318, R321), and the bit numbers of the
sticky flag registers of tiles (R130, R238) and islands (R259). -/

namespace Sys2Proof.Machine

/-- A comparison as a register value. -/
def boolWord (b : Bool) : Word := if b then 1 else 0

/-- The branch conditions (R321). -/
def brEq (x y : Word) : Bool := x == y
def brNe (x y : Word) : Bool := x != y
def brLt (x y : Word) : Bool := x.slt y
def brGe (x y : Word) : Bool := !x.slt y
def brLtu (x y : Word) : Bool := x.ult y
def brGeu (x y : Word) : Bool := !x.ult y

/-- Bits of a tile's sticky flag register (R238). -/
def fNv : Nat := 1
def fDz : Nat := 2
def fOf : Nat := 4
def fUf : Nat := 8
def fNx : Nat := 16
def fIsat : Nat := 32
def fOor : Nat := 64

/-- Bits of an island's MSTAT (R259). -/
def mOvf : Nat := 1
def mInv : Nat := 2
def mSat : Nat := 4

end Sys2Proof.Machine
end

