-- ==== Sys2Proof/Machine/Num.lean ====
section
/-! DEFINITION. Number formats (chapter 6): encodings, rounding, special values, conversions, stochastic-rounding keys,
and the conversions between words and digit streams. -/

namespace Sys2Proof.Machine

/-! ### Floating-point formats (R113, R123) -/

/-- A floating-point format: total width, significand width `b`, exponent width, bias; whether it has infinities and
NaNs; and the exponent field and mantissa of its largest finite value. -/
structure Fmt where
  width : Nat
  b : Nat
  ew : Nat
  bias : Nat
  hasInf : Bool
  hasNan : Bool
  topE : Nat
  topM : Nat
  deriving DecidableEq, Repr, Inhabited

def fp32 : Fmt := ⟨32, 24, 8, 127, true, true, 254, 2 ^ 23 - 1⟩
def bf16 : Fmt := ⟨16, 8, 8, 127, true, true, 254, 127⟩
def fp16 : Fmt := ⟨16, 11, 5, 15, true, true, 30, 1023⟩
def e5m2 : Fmt := ⟨8, 3, 5, 15, true, true, 30, 3⟩
def e4m3 : Fmt := ⟨8, 4, 4, 7, false, true, 15, 6⟩
def e3m2 : Fmt := ⟨6, 3, 3, 3, false, false, 7, 3⟩
def e2m3 : Fmt := ⟨6, 4, 2, 1, false, false, 3, 7⟩
def e2m1 : Fmt := ⟨4, 2, 2, 1, false, false, 3, 1⟩
def accf : Fmt := ⟨48, 38, 10, 511, true, true, 1022, 2 ^ 37 - 1⟩

/-- Mantissa bits. -/
def Fmt.mw (F : Fmt) : Nat := F.b - 1

/-- The exponent of the minimum normal. -/
def Fmt.emin (F : Fmt) : Int := 1 - (F.bias : Int)

/-- The sign bit in place. -/
def Fmt.signBit (F : Fmt) (neg : Bool) : Nat := if neg then 2 ^ (F.width - 1) else 0

/-- The largest finite value with a sign. -/
def Fmt.maxBits (F : Fmt) (neg : Bool) : Nat := F.signBit neg + F.topE * 2 ^ F.mw + F.topM

/-- The infinity of a sign, in a format that has one. -/
def Fmt.infBits (F : Fmt) (neg : Bool) : Nat := F.signBit neg + (2 ^ F.ew - 1) * 2 ^ F.mw

/-- The canonical quiet NaN of a sign (R123, R129): FP8-E4M3 has a single mantissa code for it. -/
def Fmt.nanBits (F : Fmt) (neg : Bool) : Nat :=
  F.signBit neg + (2 ^ F.ew - 1) * 2 ^ F.mw + (if F.hasInf then 2 ^ (F.mw - 1) else 2 ^ F.mw - 1)

/-- A decoded value.  `fin`: magnitude `m * 2^e`, zero when `m = 0`.  `nan`: the payload `m` stands left-aligned in 64
bits; `quiet` is false for a signalling input; `made` marks one created from inputs that are not NaN. -/
inductive FpClass where
  | fin | inf | nan
  deriving DecidableEq, Repr, Inhabited

structure Fp where
  cls : FpClass := .fin
  neg : Bool := false
  m : Nat := 0
  e : Int := 0
  quiet : Bool := true
  made : Bool := false
  deriving DecidableEq, Repr, Inhabited

/-- Values by name. -/
def Fp.zero (neg : Bool) : Fp := { neg := neg }
def Fp.inf (neg : Bool) : Fp := { cls := .inf, neg := neg }
def Fp.nanMade : Fp := { cls := .nan, made := true }
def Fp.nanOf (neg : Bool) : Fp := { cls := .nan, neg := neg, m := 2 ^ 63 }
def Fp.ofInt (x : Int) : Fp := { neg := decide (x < 0), m := x.natAbs }
def Fp.pow2 (e : Int) : Fp := { m := 1, e := e }

/-- Tests. -/
def Fp.isNan (v : Fp) : Bool := v.cls == .nan
def Fp.isInf (v : Fp) : Bool := v.cls == .inf
def Fp.isFin (v : Fp) : Bool := v.cls == .fin
def Fp.isZero (v : Fp) : Bool := v.cls == .fin && v.m == 0

/-- A finite value's signed mantissa. -/
def Fp.sm (v : Fp) : Int := if v.neg then -(v.m : Int) else v.m

/-- Decodes an element (R113); `subin` flushes subnormals to the zero of their sign (R128). -/
def Fmt.decode (F : Fmt) (x : Nat) (subin : Bool) : Fp :=
  let neg := bit x (F.width - 1)
  let E := fld x (F.width - 2) F.mw
  let M := x % 2 ^ F.mw
  if F.hasInf && E == 2 ^ F.ew - 1 then
    if M = 0 then .inf neg else { cls := .nan, neg := neg, m := M <<< (64 - F.mw), quiet := bit M (F.mw - 1) }
  else if F.hasNan && !F.hasInf && E == 2 ^ F.ew - 1 && M == 2 ^ F.mw - 1 then
    { cls := .nan, neg := neg, m := M <<< (64 - F.mw) }
  else if E = 0 then
    if subin then .zero neg else { neg := neg, m := M, e := F.emin - F.mw }
  else { neg := neg, m := 2 ^ F.mw + M, e := (E : Int) - F.bias - F.mw }

/-! ### Policies and rounding (R125 to R129) -/

/-- A special-value policy (R125). -/
structure Pol where
  subin : Bool := false
  subout : Bool := false
  nanp : Bool := false
  narrow : Bool := false
  rmode : Nat := 0
  deriving DecidableEq, Repr, Inhabited

/-- A policy entry's fields. -/
def polOf (x : Nat) : Pol :=
  { subin := bit x 0, subout := bit x 1, nanp := bit x 2, narrow := bit x 3, rmode := fld x 6 4 }

/-- The policy with the rounding MOD of R159 in place of RMODE, where that MOD is not zero. -/
def Pol.withMod (p : Pol) (mod : Nat) : Pol := if mod = 0 then p else { p with rmode := mod - 1 }

/-- Rounding modes. -/
def rne : Nat := 0
def rtz : Nat := 1
def rup : Nat := 2
def rdn : Nat := 3
def rsr : Nat := 4

/-- rint of `m / 2^d` (R126): the integer, and whether it is exact.  `sr` is the element's sr24 value. -/
def rint (mode : Nat) (neg : Bool) (m d sr : Nat) : Nat × Bool :=
  let n := m >>> d
  let r := m % 2 ^ d
  if r = 0 then (n, true)
  else
    let up :=
      match mode with
      | 0 => decide (2 ^ d < 2 * r) || (2 * r == 2 ^ d && n % 2 == 1)
      | 1 => false
      | 2 => !neg
      | 3 => neg
      | _ => decide (sr < (r <<< 24) >>> d)
    (if up then n + 1 else n, false)

/-- The overflow result of a format (R127). -/
def Fmt.ovf (F : Fmt) (mode : Nat) (p : Pol) (neg : Bool) : Nat :=
  let toInf := mode == rne || mode == rsr || (mode == rup && !neg) || (mode == rdn && neg)
  if F.hasInf then
    if (p.narrow && decide (F.width < 32)) || !toInf then F.maxBits neg else F.infBits neg
  else if F.hasNan then (if p.narrow || !toInf then F.maxBits neg else F.nanBits neg)
  else F.maxBits neg

/-- The conversion of an infinity (R127). -/
def Fmt.infOut (F : Fmt) (p : Pol) (neg : Bool) : Nat × Nat :=
  if F.hasInf then (F.infBits neg, 0)
  else if F.hasNan && !p.narrow then (F.nanBits neg, fNv)
  else (F.maxBits neg, fOf ||| fNx)

/-- The NaN of a result (R129). -/
def Fmt.nanOut (F : Fmt) (p : Pol) (v : Fp) : Nat × Nat :=
  let nv := if v.made || !v.quiet then fNv else 0
  if !F.hasNan then (F.signBit v.neg, fNv)
  else if v.made then (F.nanBits false, nv)
  else if p.nanp && F.hasInf then
    (F.signBit v.neg + (2 ^ F.ew - 1) * 2 ^ F.mw + ((v.m >>> (64 - F.mw)) ||| 2 ^ (F.mw - 1)), nv)
  else (F.nanBits v.neg, nv)

/-- Rounds a finite magnitude `m * 2^e` (R126): the bits and the flags. -/
def Fmt.roundFin (F : Fmt) (mode : Nat) (p : Pol) (neg : Bool) (m : Nat) (e : Int) (sr : Nat) : Nat × Nat :=
  if m = 0 then (F.signBit neg, 0)
  else
    let lg : Int := Nat.log2 m + e
    let q : Int := max lg F.emin - F.mw
    let (n, exact) := if q ≤ e then (m <<< (e - q).toNat, true) else rint mode neg m (q - e).toNat sr
    let topQ : Int := (F.topE : Int) - F.bias - F.mw
    if topQ < q || (topQ == q && decide (2 ^ F.mw + F.topM < n)) then (F.ovf mode p neg, fOf ||| fNx)
    else
      let nx := if exact then 0 else fNx
      let uf := if !exact && decide (lg < F.emin) then fUf else 0
      if p.subout && n != 0 && decide (n < 2 ^ F.mw) then (F.signBit neg, nx ||| uf ||| fUf ||| fNx)
      else
        -- q is emin - mw for n below 2^mw, and n may have carried to 2^b
        let bits := if n < 2 ^ F.mw then n else (q + F.mw + F.bias).toNat * 2 ^ F.mw + (n - 2 ^ F.mw)
        (F.signBit neg + bits, nx ||| uf)

/-- round(v, F, pol, key) of R126. -/
def Fmt.round (F : Fmt) (p : Pol) (v : Fp) (sr : Nat) : Nat × Nat :=
  match v.cls with
  | .nan => F.nanOut p v
  | .inf => F.infOut p v.neg
  | .fin => F.roundFin p.rmode p v.neg v.m v.e sr

/-! ### Exact arithmetic with special values (R121, R222, R224, R225) -/

/-- The NaN that a result takes from its inputs: the first in slot order; a signalling one anywhere raises NV (R129). -/
def firstNan (vs : List Fp) : Option Fp :=
  match vs.find? Fp.isNan with
  | none => none
  | some v => some { v with quiet := vs.all (fun x => !x.isNan || x.quiet), made := vs.any (fun x => x.isNan && x.made) && v.made }

/-- Signed mantissas of two finite values over their common exponent. -/
def Fp.align (x y : Fp) : Int × Int × Int :=
  let e := min x.e y.e
  (x.sm * 2 ^ (x.e - e).toNat, y.sm * 2 ^ (y.e - e).toNat, e)

/-- The exact sum; an exact zero of opposite signs is +0, or -0 under RDN (R224). -/
def Fp.add (x y : Fp) (down : Bool) : Fp :=
  match firstNan [x, y] with
  | some n => n
  | none =>
    if x.isInf then (if y.isInf && y.neg != x.neg then .nanMade else x)
    else if y.isInf then y
    else
      let (a, b, e) := x.align y
      let t := a + b
      if t = 0 then .zero (if x.m = 0 ∧ y.m = 0 ∧ x.neg = y.neg then x.neg else down)
      else { neg := decide (t < 0), m := t.natAbs, e := e }

/-- The value with its sign changed. -/
def Fp.negate (x : Fp) : Fp := { x with neg := !x.neg }

/-- The exact product. -/
def Fp.mul (x y : Fp) : Fp :=
  match firstNan [x, y] with
  | some n => n
  | none =>
    if x.isInf || y.isInf then
      if x.isZero || y.isZero then .nanMade else .inf (x.neg != y.neg)
    else { neg := x.neg != y.neg, m := x.m * y.m, e := x.e + y.e }

/-- The order of two values that are not NaN: negative, zero or positive; -0 equals +0. -/
def Fp.order (x y : Fp) : Int :=
  let w := fun (v : Fp) => if v.isInf then (if v.neg then (-1 : Int) else 1) else 0
  if w x != w y then w x - w y
  else if x.isInf then 0
  else
    let (a, b, _) := x.align y
    a - b

/-- Comparison; `none` when unordered. -/
def Fp.cmp (x y : Fp) : Option Int := if x.isNan || y.isNan then none else some (x.order y)

/-- `x` orders below `y`, with -0 below +0. -/
def Fp.below (x y : Fp) : Bool := decide (x.order y < 0) || (x.order y == 0 && x.neg && !y.neg)

/-- IEEE minimum and maximum (R225): which input is the result, or the NaN. -/
def Fp.pick (mx num : Bool) (x y : Fp) : Fp :=
  match firstNan [x, y] with
  | some n =>
    if num && !(x.isNan && y.isNan) then (if x.isNan then y else x) else n
  | none => if mx then (if x.below y then y else x) else (if y.below x then y else x)

/-! ### Element tags (R114, R116) -/

/-- What the elements of a tag are. -/
inductive ElKind where
  | raw
  | int (w : Nat) (signed : Bool)
  | flt (F : Fmt)
  deriving DecidableEq, Repr, Inhabited

/-- The elements of a word tag (R116). -/
def tagKind : Nat → ElKind
  | 1 => .int 32 true
  | 2 => .int 32 false
  | 3 => .flt fp32
  | 4 => .flt bf16
  | 5 => .flt fp16
  | 6 => .flt e4m3
  | 7 => .flt e5m2
  | 8 => .flt e2m1
  | 9 => .int 8 true
  | 10 => .int 16 true
  | 11 => .int 8 false
  | 12 => .int 4 true
  | _ => .raw

/-- Elements per lane. -/
def tagCount : Nat → Nat
  | 4 => 2
  | 5 => 2
  | 6 => 4
  | 7 => 4
  | 8 => 8
  | 9 => 4
  | 10 => 2
  | 11 => 4
  | 12 => 8
  | _ => 1

/-- Element width in bits. -/
def tagWidth (t : Nat) : Nat := 32 / tagCount t

/-- Tags of the formats. -/
def tagRaw : Nat := 0
def tagInt32 : Nat := 1
def tagUint32 : Nat := 2
def tagFp32 : Nat := 3
def tagDhdr : Nat := 13
def tagDigits : Nat := 14
def tagMarker : Nat := 15

/-- Element `j` of a lane. -/
def elem (t x j : Nat) : Nat := (x >>> (tagWidth t * j)) % 2 ^ tagWidth t

/-- A lane of elements, lowest first. -/
def laneOf (t : Nat) (es : List Nat) : Nat :=
  ((List.range es.length).map (fun j => (es.getD j 0 % 2 ^ tagWidth t) <<< (tagWidth t * j))).sum

/-- The least and the greatest integer of an integer format. -/
def intMin (w : Nat) (sg : Bool) : Int := if sg then -(2 ^ (w - 1) : Int) else 0
def intMax (w : Nat) (sg : Bool) : Int := if sg then (2 ^ (w - 1) : Int) - 1 else (2 ^ w : Int) - 1

/-- The integer that bits hold. -/
def intVal (w : Nat) (sg : Bool) (x : Nat) : Int := if sg then signed x w else (x % 2 ^ w : Nat)

/-- Saturates an integer: the bits, and whether it changed. -/
def satBits (w : Nat) (sg : Bool) (x : Int) : Nat × Bool :=
  let y := max (intMin w sg) (min x (intMax w sg))
  (wrapNat y w, y != x)

/-- A float to an integer format (R131). -/
def Fp.toIntFmt (v : Fp) (w : Nat) (sg : Bool) (mode sr : Nat) : Nat × Nat :=
  match v.cls with
  | .nan => (0, fNv)
  | .inf => (wrapNat (if v.neg then intMin w sg else intMax w sg) w, fNv)
  | .fin =>
    let (n, exact) := if 0 ≤ v.e then (v.m <<< v.e.toNat, true) else rint mode v.neg v.m (-v.e).toNat sr
    let (b, sat) := satBits w sg (if v.neg then -(n : Int) else n)
    (b, (if sat then fNv else 0) ||| (if exact then 0 else fNx))

/-- A value into the elements of a tag, rounded (R126, R131). -/
def Fp.into (v : Fp) (k : ElKind) (p : Pol) (sr : Nat) : Nat × Nat :=
  match k with
  | .raw => fp32.round p v sr
  | .int w sg => v.toIntFmt w sg p.rmode sr
  | .flt F => F.round p v sr

/-- The value of an element; RAW32 reads as FP32 (R242). -/
def ElKind.value (k : ElKind) (x : Nat) (subin : Bool) : Fp :=
  match k with
  | .raw => fp32.decode x subin
  | .int w sg => .ofInt (intVal w sg x)
  | .flt F => F.decode x subin

/-- An element that is already in its float format (R131, the exact row): SUBIN and R129 act on it; nothing is rounded, and
as an operand it takes no SUBOUT, which is for results (R128). -/
def Fmt.same (F : Fmt) (p : Pol) (x : Nat) : Nat × Nat :=
  let v := F.decode x p.subin
  if v.isNan then F.nanOut p v else if p.subin && v.isZero then (F.signBit v.neg, 0) else (x, 0)

/-- A float result that no rounding has made: SUBOUT flushes a subnormal one, with UF and NX (R128; R225 for FMIN and FMAX). -/
def Fmt.result (F : Fmt) (p : Pol) (x : Nat) : Nat × Nat :=
  let v := F.decode x false
  if p.subout && v.isFin && !v.isZero && (F.decode x true).isZero then (F.signBit v.neg, fUf ||| fNx) else (x, 0)

/-- Converts an element between tags (R131). -/
def convElem (a b : ElKind) (p : Pol) (x sr : Nat) : Nat × Nat :=
  match a, b with
  | .raw, _ => (x, 0)
  | _, .raw => (x, 0)
  | .int w sg, .int w' sg' =>
    let (y, sat) := satBits w' sg' (intVal w sg x)
    (y, if sat then fIsat else 0)
  | .int w sg, .flt F => F.round p (.ofInt (intVal w sg x)) sr
  | .flt F, .int w sg => (F.decode x p.subin).toIntFmt w sg p.rmode sr
  | .flt F, .flt G => G.round p (F.decode x p.subin) sr

/-! ### Stochastic rounding (R136) -/

/-- The parts of a key that one firing fixes. -/
structure SrKey where
  rseed : Nat := 0
  fidx : Nat := 0
  rx : Nat := 0
  ry : Nat := 0
  deriving DecidableEq, Repr, Inhabited

/-- sr24 of R136. -/
def SrKey.sr24 (k : SrKey) (lane sub : Nat) : Nat :=
  let M := 2 ^ 64
  let x := (k.rseed % 2 ^ 32) * 2 ^ 32 + k.fidx % 2 ^ 32
  let y := (sub % 8) * 2 ^ 12 + (lane % 16) * 2 ^ 8 + (k.ry % 16) * 2 ^ 4 + k.rx % 16
  let z := x ^^^ (y * 0x9E3779B97F4A7C15) % M
  let z := ((z ^^^ (z >>> 30)) * 0xBF58476D1CE4E5B9) % M
  let z := ((z ^^^ (z >>> 27)) * 0x94D049BB133111EB) % M
  (z ^^^ (z >>> 31)) >>> 40

/-! ### Accumulator cells (R123, R124) -/

/-- A rounding into ACCF: RNE, subnormals kept; the flags are those of MSTAT. -/
def rndAccf (v : Fp) : Nat × Nat :=
  match v.cls with
  | .nan => (accf.nanBits (if v.made then false else v.neg), if v.made then mInv else 0)
  | .inf => (accf.infBits v.neg, 0)
  | .fin =>
    let (b, f) := accf.roundFin rne {} v.neg v.m v.e 0
    (b, if f &&& fOf = 0 then 0 else mOvf)

/-- The value of an ACCF cell. -/
def accfVal (x : Nat) : Fp := accf.decode (x % 2 ^ 48) false

/-- A saturating addition into ACCI. -/
def sat48 (x : Int) : Int × Nat :=
  let y := max (-(2 ^ 47 : Int)) (min x (2 ^ 47 - 1))
  (y, if y = x then 0 else mSat)

/-! ### Digit streams (R95, R133 to R135) -/

/-- A number with a special header. -/
def DNum.code (c : Nat) : DNum := { spec := true, e := c }

/-- Special codes (R95). -/
def DNum.isZeroCode (u : DNum) : Bool := u.spec && u.e == 0
def DNum.isPosInf (u : DNum) : Bool := u.spec && u.e == 1
def DNum.isNegInf (u : DNum) : Bool := u.spec && u.e == 2
def DNum.isInf (u : DNum) : Bool := u.isPosInf || u.isNegInf
/-- NaN: code 3 or above, or an invalid digit. -/
def DNum.isNan (u : DNum) : Bool := (u.spec && decide (3 ≤ u.e)) || u.bad

/-- The header's lane bits (R95). -/
def DNum.header (u : DNum) : Nat := u.e % 512 + (if u.spec then 512 else 0)

/-- The number that a header announces. -/
def DNum.ofHeader (x : Nat) : DNum := { spec := bit x 9, e := x % 512 }

/-- A digit's code, and the digit of a code (R133). -/
def digitCode (d : Int) : Nat := if d < 0 then 4 + d.natAbs else d.natAbs
def codeDigit (c : Nat) : Option Int := if c < 4 then some c else if c = 4 then none else some (-((c : Int) - 4))

/-- The integer whose base-4 digits are `ds`, with sign digits allowed: the prefix scaled by `4^length`. -/
def preInt (ds : List Int) : Int := ds.foldl (fun t d => 4 * t + d) 0

/-- Digit `i` (from 1); digits that are missing are 0. -/
def DNum.digit (u : DNum) (i : Nat) : Int := if i = 0 then 0 else u.digits.getD (i - 1) 0

/-- The first `n` digits, padded with zeros. -/
def DNum.take (u : DNum) (n : Nat) : List Int := (List.range n).map (fun i => u.digits.getD i 0)

/-- Base-4 digits of `n`, most significant first, in `L` places. -/
def base4 (n : Nat) : Nat → List Int
  | 0 => []
  | L + 1 => ((n / 4 ^ L) % 4 : Nat) :: base4 n L

/-- A magnitude `m * 2^e` as a number at precision L (R134), with the sign on its digits. -/
def numOfMag (neg : Bool) (m : Nat) (e : Int) (L : Nat) : DNum :=
  if m = 0 then .code 0
  else
    -- the smallest k with m * 2^e < 4^k
    let k : Int := (Nat.log2 m + e) / 2 + 1
    let sh : Int := e + 2 * L - 2 * k
    let n := if 0 ≤ sh then m <<< sh.toNat else (rint rne false m (-sh).toNat 0).1
    let (n, k) := if n = 4 ^ L then (4 ^ (L - 1), k + 1) else (n, k)
    { e := (256 + k).toNat, digits := (base4 n L).map (fun d => if neg then -d else d) }

/-- A word value as a number (R134). -/
def Fp.toNum (v : Fp) (L : Nat) : DNum :=
  match v.cls with
  | .nan => .code 3
  | .inf => .code (if v.neg then 2 else 1)
  | .fin => numOfMag v.neg v.m v.e L

/-- The exact value of a number of `L` digits (R133). -/
def DNum.value (u : DNum) (L : Nat) : Fp :=
  if u.isNan then .nanOf false
  else if u.spec then (if u.e = 0 then .zero false else .inf (u.e == 2))
  else
    let t := preInt (u.take L)
    { neg := decide (t < 0), m := t.natAbs, e := 2 * ((u.e : Int) - 256 - L) }

/-- A number into a word element (R135): RNE whatever RMODE; a NaN is the canonical one, of sign 0. -/
def DNum.toElem (u : DNum) (L : Nat) (k : ElKind) (p : Pol) : Nat × Nat :=
  (u.value L).into k { p with rmode := rne, nanp := false } 0

end Sys2Proof.Machine
end

