-- ==== Sys2Proof/Machine/Token.lean ====
section
/-! DEFINITION. Tokens and links (chapter 5): markers and poison, run packets, buffers and output registers, kill units
and masks, and the tokens a firing sends. -/

namespace Sys2Proof.Machine

/-! ### Lanes and masks -/

/-- The mask of the lanes that satisfy a test. -/
def maskOf (p : Nat → Bool) : BitVec 16 := BitVec.ofNat 16 ((List.range 16).map (fun i => b2n (p i) * 2 ^ i)).sum

/-- Sixteen lanes by a function. -/
def lanesOf (f : Nat → Nat) : List Word32 := (List.range 16).map (fun i => BitVec.ofNat 32 (f i))

/-- Lane `i` of a lane list. -/
def laneAt (ls : List Word32) (i : Nat) : Nat := (ls.getD i 0).toNat

/-- Lane `i` of a token. -/
def Token.lane (t : Token) (i : Nat) : Nat := laneAt t.lanes i

/-- Lane `i` carries an element; lane `i` is poisoned (R94). -/
def Token.has (t : Token) (i : Nat) : Bool := t.valid.getLsbD i
def Token.bad (t : Token) (i : Nat) : Bool := t.pmask.getLsbD i

/-- Some lane of a mask. -/
def anyLane (m : BitVec 16) : Bool := m != 0

/-! ### Markers (R103, R104, R156) -/

/-- The marker a token carries. -/
def Token.mark (t : Token) : Mk := if t.mcode = 1 then .eod t.lvl else if t.mcode = 2 then .eos else .none

/-- The stronger of two markers (R156). -/
def Mk.stronger : Mk → Mk → Mk
  | .eos, _ => .eos
  | _, .eos => .eos
  | .eod a, .eod b => .eod (max a b)
  | .eod a, .none => .eod a
  | .none, b => b

/-- The strongest marker of several. -/
def strongest (ms : List Mk) : Mk := ms.foldl Mk.stronger .none

/-- MKB (R156): 0 FOLLOW, 1 ACT, 2 STRIP. -/
def mkFollow : Nat := 0
def mkAct : Nat := 1
def mkStrip : Nat := 2

/-- The marker that FOLLOW and STRIP keep; ACT keeps it as FOLLOW does where its operation says "the token's marker". -/
def Mk.kept (m : Mk) (mkb : Nat) : Mk := if mkb = mkStrip then (if m = .eos then .eos else .none) else m

/-- A marker is present. -/
def Mk.any (m : Mk) : Bool := m != .none

/-- MK and LVL of a marker. -/
def Mk.code : Mk → Nat
  | .none => 0
  | .eod _ => 1
  | .eos => 2
def Mk.level : Mk → Nat
  | .eod l => l % 8
  | _ => 0

/-- A MARKER token (R95). -/
def markerToken (m : Mk) : Token := { tag := tagMarker, mcode := m.code, lvl := m.level }

/-- A token with its marker; lanes that are not valid carry zero, poisoned lanes are valid and carry zero, and a marker
beside poison follows on a MARKER token (R94, R104). -/
def tokensOf (tag : Nat) (valid poison : BitVec 16) (f : Nat → Nat) (m : Mk) : List Token :=
  let v := valid ||| poison
  let ls := lanesOf (fun i => if v.getLsbD i && !poison.getLsbD i then f i else 0)
  if anyLane poison then
    { lanes := ls, valid := v, pmask := poison, tag := tag, mcode := 3 } :: (if m.any then [markerToken m] else [])
  else [{ lanes := ls, valid := v, tag := tag, mcode := m.code, lvl := m.level }]

/-- A token of no lanes with tag 0: an order token (R193, R237). -/
def orderToken (m : Mk) : Token := { mcode := m.code, lvl := m.level }

/-- Digit tokens (R95). -/
def Token.isHdr (t : Token) : Bool := t.tag == tagDhdr
def Token.isDigits (t : Token) : Bool := t.tag == tagDigits
def Token.isMarker (t : Token) : Bool := t.tag == tagMarker
def Token.isDigital (t : Token) : Bool := t.isHdr || t.isDigits

/-- Clears lanes: VALID, PMASK and data; the rest of the token is unchanged (R108). -/
def Token.clear (t : Token) (m : BitVec 16) : Token :=
  { t with valid := t.valid &&& ~~~m, pmask := t.pmask &&& ~~~m,
           lanes := (List.range 16).map (fun i => if m.getLsbD i then 0 else t.lanes.getD i 0) }

/-- How many logical tokens it stands for (R101). -/
def Token.logical (t : Token) : Nat := if t.cmp then t.run + 1 else 1

/-- One logical token of a run packet. -/
def Token.single (t : Token) : Token := { t with cmp := false, run := 0 }

/-- The packet without its first logical token. -/
def Token.rest (t : Token) : Option Token :=
  if t.logical ≤ 1 then none
  else if t.logical = 2 then some t.single
  else some { t with run := t.run - 1 }

/-- Two tokens are identical in every field but CMP and RUN (R101). -/
def Token.alike (a b : Token) : Bool :=
  { a with cmp := false, run := 0, prov := 0 } == { b with cmp := false, run := 0, prov := 0 }

/-- The first `n` logical tokens of a run packet, and what is left after `n` of them. -/
def Token.firstN (t : Token) (n : Nat) : Token := if n ≤ 1 then t.single else { t with run := n - 1 }
def Token.after (t : Token) (n : Nat) : Token := t.firstN (t.logical - n)

/-- The 64-bit control field (R94). -/
def Token.ctl (t : Token) : Nat :=
  t.valid.toNat + t.pmask.toNat * 2 ^ 16 + (t.tag % 16) * 2 ^ 32 + (t.mcode % 4) * 2 ^ 36 + (t.lvl % 8) * 2 ^ 38 +
  b2n t.cmp * 2 ^ 41 + (t.run % 16) * 2 ^ 42 + (t.nseq % 8) * 2 ^ 46 + b2n t.cns * 2 ^ 49

/-- A token from 64 data bytes and a control field. -/
def Token.ofRaw (data : List Byte) (c : Nat) : Token :=
  { lanes := ((words32 data).map (BitVec.ofNat 32)).take 16, valid := BitVec.ofNat 16 (fld c 15 0),
    pmask := BitVec.ofNat 16 (fld c 31 16), tag := fld c 35 32, mcode := fld c 37 36, lvl := fld c 40 38,
    cmp := bit c 41, run := fld c 45 42, nseq := fld c 48 46, cns := bit c 49,
    last := fld c 37 36 != 0 && fld c 37 36 != 3 && fld c 35 32 != tagDhdr && fld c 35 32 != tagDigits }

/-- The 72 bytes of a token, data then control (R422). -/
def Token.raw (t : Token) : List Byte := t.lanes.flatMap (fun w => toBytes 4 w.toNat) ++ toBytes 8 t.ctl

/-! ### Kill units (R106) -/

/-- The unit of a token at a port that stands at unit `h`: the count nearest to `h` that agrees with NSEQ. -/
def unitAt (h nseq : Nat) : Nat :=
  let d := (nseq + 8 - h % 8) % 8
  if d < 4 then h + d else if h + d < 8 then h else h + d - 8

/-- Where a port stands after a token has left it. -/
def unitAfter (h : Nat) (t : Token) : Nat := unitAt h t.nseq + b2n t.last

/-- The unit of a token that was stamped before its sender came to unit `n`. -/
def unitBack (n nseq : Nat) : Nat := n - (n % 8 + 8 - nseq % 8) % 8

/-- The unit that a kill with KSEQ `q` names at a port that stands at unit `h`: u ≡ q (mod 8), h - 3 ≤ u ≤ h + 4; `none`
where it lies before `h`. -/
def killUnit (h q : Nat) : Option Nat :=
  let d := (q + 8 - h % 8) % 8
  if d ≤ 4 then some (h + d) else none

/-- The mask remembered at a port for a unit. -/
def Links.killed (k : Links) (port u : Nat) : BitVec 16 :=
  match k.kills.find? (fun r => r.port == port && r.unit == u) with
  | some r => r.mask
  | none => 0

/-- Remembers a mask, combined as an OR (R107); masks of units before `h` are forgotten. -/
def Links.rememberFrom (k : Links) (h port u : Nat) (m : BitVec 16) : Links :=
  { k with kills := (k.kills.filter (fun r => r.port != port || (decide (h ≤ r.unit) && r.unit != u))) ++
      [{ port := port, unit := u, mask := k.killed port u ||| m }] }

/-- Remembers a mask until the port leaves its unit. -/
def Links.remember (k : Links) (port u : Nat) (m : BitVec 16) : Links := k.rememberFrom (k.units.get port 0) port u m

/-! ### Buffers (R97 to R99) -/

/-- The buffer of an input and channel. -/
def Links.buf (k : Links) (key : Nat) : List BufEnt := k.bufs.get key []

/-- Replaces it. -/
def Links.setBuf (k : Links) (key : Nat) (b : List BufEnt) : Links :=
  { k with bufs := if b.isEmpty then k.bufs.del key else k.bufs.put key b }

/-- There is room for one more entry (R99). -/
def Links.room (k : Links) (key : Nat) : Bool := decide ((k.buf key).length < 2)

/-- Adds an entry. -/
def Links.put (k : Links) (key : Nat) (e : BufEnt) : Links := k.setBuf key (k.buf key ++ [e])

/-- The channel whose oldest entry is next for an input: of a configuration not later than `cfg`, the earliest. -/
def Links.nextVc (k : Links) (input cfg : Nat) (vc : Option Nat) : Option Nat :=
  let cand := (List.range 4).filter (fun v =>
    (match vc with | none => true | some x => v == x) &&
    (match (k.buf (4 * input + v)).head? with | some e => decide (e.cfg ≤ cfg) | none => false))
  let low := cand.foldl (fun (acc : Option Nat) v =>
    match acc, (k.buf (4 * input + v)).head? with
    | none, _ => some v
    | some a, some e =>
      (match (k.buf (4 * input + a)).head? with
        | some ea => if e.cfg < ea.cfg then some v else some a
        | none => some v)
    | some a, none => some a) none
  low

/-- Removes the first logical token of a buffer (R102). -/
def Links.dropOne (k : Links) (key : Nat) : Links :=
  match k.buf key with
  | [] => k
  | e :: r =>
    match e.tok.rest with
    | none => k.setBuf key r
    | some t => k.setBuf key ({ e with tok := t } :: r)

/-- The next logical token of slot `s` (0 A to 3 P), with the lanes this unit has killed cleared (R108). -/
def Links.peekSlot (k : Links) (s cfg : Nat) : Option Token :=
  match k.nextVc (4 + s) cfg none with
  | none => none
  | some v =>
    match (k.buf (4 * (4 + s) + v)).head? with
    | none => none
    | some e =>
      let t := e.tok.single
      some (t.clear (k.killed (16 + s) (unitAt (k.units.get (16 + s) 0) t.nseq)))

/-- Pops that token: the token, and the links after it. -/
def Links.popSlot (k : Links) (s cfg : Nat) : Option (Token × Links) :=
  match k.peekSlot s cfg, k.nextVc (4 + s) cfg none with
  | some t, some v =>
    let k := k.dropOne (4 * (4 + s) + v)
    let k := { k with units := k.units.put (16 + s) (unitAfter (k.units.get (16 + s) 0) t) }
    let k := { k with slotEos := if t.mark == Mk.eos then insertNat s k.slotEos else k.slotEos }
    some (t, { k with digIn := if t.isDigital then insertNat s k.digIn else k.digIn, kept := k.kept + b2n t.cns,
                      tagA := if s = 0 && !t.isMarker then some t.tag else k.tagA, prov := k.prov ||| t.prov })
  | _, _ => none

/-- Pops one token from each of several slots.  What was counted in is `kept` until the firing retires (R110). -/
def Links.popSlots (k : Links) (cfg : Nat) (ss : List Nat) : Links :=
  ss.foldl (fun k s => match k.popSlot s cfg with | some (_, k') => k' | none => k) k

/-! ### Output registers (R98, R110) -/

/-- The tokens of an output register. -/
def Links.out (k : Links) (o : Nat) : List OutTok := k.outs.get o []

/-- Replaces them. -/
def Links.setOut (k : Links) (o : Nat) (ts : List OutTok) : Links :=
  { k with outs := if ts.isEmpty then k.outs.del o else k.outs.put o ts }

/-- Output `o` (0 or 1) of the unit has room for a firing's first token. -/
def Links.outRoom (k : Links) (o : Nat) : Bool := (k.out (4 + o)).isEmpty

/-- The current unit of output `o` (R106): that of the token it is handing over, or of the next one it will. -/
def Links.outUnit (k : Links) (o : Nat) : Nat :=
  match k.out (4 + o) with
  | [] => k.units.get (8 + o) 0
  | e :: _ => unitBack (k.units.get (8 + o) 0) e.tok.nseq

/-- Sends one token on output `o`: stamped with its kill unit, which it may end, killed lanes cleared; it descends from
what the unit has popped (R293). -/
def Links.sendAs (k : Links) (o : Nat) (last : Bool) (t : Token) : Links :=
  let u := k.units.get (8 + o) 0
  let t := { t.clear (k.killed (8 + o) u) with nseq := u % 8, cns := false, last := last, prov := t.prov ||| k.prov }
  { k.setOut (4 + o) (k.out (4 + o) ++ [{ tok := t, fids := [k.nextId] }]) with
    nextId := k.nextId + 1, units := if last then k.units.put (8 + o) (u + 1) else k.units }

/-- Sends tokens of a word stream: a unit is a segment (R106). -/
def Links.sendWords (k : Links) (o : Nat) (ts : List Token) : Links := ts.foldl (fun k t => k.sendAs o t.mark.any t) k

/-- Sends tokens of a digit stream: a unit is a number (R106), which ends with the last of its DIGITS tokens where `up`
says that they are its last. -/
def Links.sendDigits (k : Links) (o : Nat) (up : Bool) : List Token → Links
  | [] => k
  | t :: ts => (k.sendAs o (up && t.isDigital && ts.all (fun u => !u.isDigital)) t).sendDigits o up ts

/-- The number of the copy that word `w` takes of token `id`. -/
def copyId (id w : Nat) : Nat := 16 * id + w

/-- Records the firing whose tokens are those numbered from `id0`; `words` gives the words that take each output.  It takes with it
everything kept but `held` tokens, whose content a later push carries out; without a copy to be accepted it retires at once (R110). -/
def Links.fired (k : Links) (words : Nat → List Nat) (id0 held : Nat) : Nat × Links :=
  let ids := [0, 1].flatMap (fun o => (k.out (4 + o)).flatMap (fun e =>
    (e.fids.filter (fun i => decide (id0 ≤ i))).flatMap (fun i => (words o).map (copyId i))))
  let fall := k.kept - held
  if ids.isEmpty then (fall, { k with kept := held })
  else (0, { k with firings := k.firings ++ [{ ids := ids, fall := fall }], kept := held })

/-- First receiving buffers have accepted the copies numbered `ids`: the census falls of the firings that thereby retire. -/
def Links.accepted (k : Links) (ids : List Nat) : Nat × Links :=
  if ids.isEmpty then (0, k)
  else
    let fs := k.firings.map (fun f => { f with ids := f.ids.filter (fun x => !ids.contains x) })
    (((fs.filter (fun f => f.ids.isEmpty)).map Firing.fall).sum, { k with firings := fs.filter (fun f => !f.ids.isEmpty) })

/-- Nothing of the unit is under way. -/
def Links.quiet (k : Links) : Bool := k.firings.isEmpty && (k.out 4).isEmpty && (k.out 5).isEmpty

end Sys2Proof.Machine
end

