-- ==== Sys2Proof/Machine/Resid.lean ====
section
/-! DEFINITION. Residencies as the fabric sees them: which residency a unit belongs to, the census (R110, R111), and the
end of a residency (R349). -/

namespace Sys2Proof.Machine

/-! ### Units of a cluster -/

/-- A tile's page (R4). -/
def pageOfTile (x : Nat) : Nat := x / 64 * 4 + x % 16 / 4

/-- The tiles of a page. -/
def tilesOfPage (p : Nat) : List Nat :=
  (List.range 4).flatMap (fun y => (List.range 4).map (fun x => 16 * (4 * (p / 4) + y) + 4 * (p % 4) + x))

/-- The tile that an AG faces (R162), and the side of that tile. -/
def agTile (a : Nat) : Nat := if a < 16 then 16 * a else 16 * (a - 16) + 15
def agSide (a : Nat) : Nat := if a < 16 then 3 else 1

/-- The tiles that face an island's ports F0 and F1 (R262). -/
def portTile (i p : Nat) : Nat := (if i < 2 then 0 else 240) + (if i % 2 = 0 then 2 else 12) + p

/-- Residency slot `r`. -/
def Cluster.resident (k : Cluster) (r : Nat) : Resid := k.resids.get r {}

/-- Replaces a residency slot. -/
def Cluster.setResident (k : Cluster) (r : Nat) (x : Resid) : Cluster := { k with resids := k.resids.put r x }

/-- The handle of a slot (R330). -/
def Resid.handle (x : Resid) (r : Nat) : Nat := r + x.gen * 16

/-- The residency that holds a tile, an AG or an island. -/
def Cluster.tileOwner (k : Cluster) (x : Nat) : Option Nat :=
  match k.page (pageOfTile x) with | .held r => some r | _ => none
def Cluster.agOwner (k : Cluster) (a : Nat) : Option Nat :=
  (k.resids.find? (fun e => e.2.live && e.2.ags.contains a)).map Prod.fst
def Cluster.isleOwner (k : Cluster) (i : Nat) : Option Nat :=
  match k.isle i with | .held r => some r | _ => none

/-- The unit's residency: tiles 0 to 255, AGs 256 to 287, islands 288 to 291. -/
def Cluster.owner (k : Cluster) (u : Nat) : Option Nat :=
  if u < 256 then k.tileOwner u else if u < 288 then k.agOwner (u - 256) else k.isleOwner (u - 288)

/-- A stop wave has frozen the unit's residency (R417). -/
def Cluster.isFrozen (k : Cluster) (u : Nat) : Bool :=
  match k.owner u with | some r => (k.resident r).frozen | none => false

/-- A configuration slot of a tile is in use. -/
def Tile.idle (t : Tile) : Bool := t.fg.isNone && t.bg.isNone

/-- What is left of a tile that its residency has given back: its flags (R238). -/
def Tile.cleared (t : Tile) : Tile := { flags := t.flags }

/-- What is left of a tile that has become idle within its residency: its flags, FIDX, which counts every firing in the
residency (R136), and the MT contents, which a later configuration finds (R92). -/
def Tile.idled (t : Tile) : Tile := { flags := t.flags, fidx := t.fidx, mt := t.mt }

/-- An AG that has become idle keeps its fault window (R408), and the word that its last tokens came from (R99). -/
def Ag.cleared (g : Ag) : Ag := { fault := g.fault, fseq := g.fseq, prev := g.fg.orElse (fun _ => g.prev) }

/-- An island that has become idle keeps its state until it is placed again (R257). -/
def Isle.cleared (m : Isle) : Isle := { m with fg := none, bg := none, f0 := {}, f1 := {}, pushing := [], done := false, cyc := 0 }

/-! ### The end of a residency (R349) -/

/-- The message of R331. -/
def Resid.endMsg (x : Resid) (r : Nat) : Msg :=
  { w0 := BitVec.ofNat 64 (x.handle r + x.tag * 2 ^ 16), w1 := BitVec.ofNat 64 x.census, w2 := BitVec.ofNat 64 (b2n x.csat) }

/-- Every access of the residency's AGs is performed at its word's scope (R297). -/
def State.performAgs (s : State) (c : Nat) (as : List Nat) : State :=
  as.foldl (fun s a =>
    match ((s.cl c).ag a).fg with
    | none => s
    | some g => s.deliverKnown (agentAg c a) (dieOf c) (scopeOf (BitVec.ofNat 2 (fld g.word.toNat 28 27)))) s

/-- Everything the residency holds is idle and free. -/
def Cluster.vacate (k : Cluster) (r : Nat) : Cluster :=
  let x := k.resident r
  let k := x.pages.foldl (fun k p => (tilesOfPage p).foldl (fun k t => k.setTile t (k.tile t).cleared) k) k
  let k := x.ags.foldl (fun k a => k.setAg a (k.ag a).cleared) k
  let k := x.islands.foldl (fun k i => k.setMat i (k.mat i).cleared) k
  let k := { k.setPages x.pages x.islands .free with
    wires := k.wires.filter (fun w =>
      !(x.pages.any (fun p => (tilesOfPage p).contains w.unit) || x.ags.any (fun a => w.unit == 256 + a))) }
  k.setResident r { x with live := false, pages := [], ags := [], islands := [], binds := [], itemAg := none, frozen := false }

/-- The residency in slot `r` ends: its gang's entry, then its message, once its accesses are performed (R297, R331,
R349, R363).  `quiet` withholds the message (CTX_DESTROY). -/
def State.endResid (s : State) (c r : Nat) (quiet : Bool) : State :=
  let x := (s.cl c).resident r
  if !x.live then s
  else
    let s := s.performAgs c x.ags
    let s := s.setCl c ((s.cl c).vacate r)
    let s := match x.gang with
      | none => s
      | some (l, m) => s.setMember (dieOf c) l m (fun y => { y with mstate := 2 })
    if x.emsg && !quiet then s.post c senderPort x.echan { msg := x.endMsg r, ctx := x.ctx } else s

/-- The residency ends once the last of its pages, AGs and islands is idle; an island stopped by R260 counts as idle once
every other unit is (R349, R412). -/
def State.checkEnd (s : State) (c r : Nat) : State :=
  let k := s.cl c
  let x := k.resident r
  if x.live && x.pages.isEmpty && x.ags.isEmpty && x.islands.all (fun i => (k.mat i).err != 0 || (k.mat i).fg.isNone) then
    s.endResid c r false
  else s

/-! ### The census (R110, R111) -/

/-- The census rises; at its limit it sticks and CSAT is set. -/
def Cluster.censusRise (k : Cluster) (r n : Nat) : Cluster :=
  let x := k.resident r
  if n = 0 then k
  else if x.census + n < 2 ^ 40 then k.setResident r { x with census := x.census + n }
  else k.setResident r { x with census := 2 ^ 40 - 1, csat := true }

/-- The census falls, not below zero; on reaching zero it ends the residency, unless CSAT is set. -/
def State.censusFall (s : State) (c : Nat) (r : Option Nat) (n : Nat) : State :=
  match r with
  | none => s
  | some r =>
    let x := (s.cl c).resident r
    let s' := s.setCl c ((s.cl c).setResident r { x with census := x.census - n })
    if n != 0 && x.census != 0 && decide (x.census ≤ n) && !x.csat then s'.endResid c r false else s'

end Sys2Proof.Machine
end

