-- ==== Sys2Proof/Machine/Fabric.lean ====
section
/-! DEFINITION. The fabric's switches, kills, power tokens and teardown (R97 to R111, R346 to R348, R387 to R389), and
what every firing of a tile's unit has in common. -/

namespace Sys2Proof.Machine

/-! ### Switch words (R168) -/

def swSrc (w : Nat) : Nat := fld w 15 13
def swVc (w : Nat) : Nat := fld w 12 11
def swCmp (w : Nat) : Nat := fld w 10 9
def swCeil (w : Nat) : Nat := fld w 8 5 + 1
def swCns (w : Nat) : Bool := bit w 4

/-- Switch word `w` of a configuration; one that the image does not give has source 7, none (R152). -/
def TileCfg.switch (g : TileCfg) (w : Nat) : Nat := g.sw.get w 0xE000

/-- The tile's foreground, or the empty configuration. -/
def Tile.cfgNow (t : Tile) : TileCfg := t.fg.getD {}

/-- Where a link leads (R162, R262): a tile's input, an AG's slot, an island's port. -/
inductive Recv where
  | input (tile i : Nat)
  | ag (a : Nat)
  | port (isle p : Nat)
  | nowhere
  deriving DecidableEq, Repr

/-- The island and port that a tile faces to the north or south. -/
def facedPort (x : Nat) : Recv :=
  let i0 := if x < 16 then 0 else 2
  match x % 16 with
  | 2 => .port i0 0
  | 3 => .port i0 1
  | 12 => .port (i0 + 1) 0
  | 13 => .port (i0 + 1) 1
  | _ => .nowhere

/-- The receiver of switch word `w` of tile `x`. -/
def recvOf (x w : Nat) : Recv :=
  match w with
  | 0 => if x < 16 then facedPort x else .input (x - 16) 2
  | 1 => if x % 16 = 15 then .ag (16 + x / 16) else .input (x + 1) 3
  | 2 => if 240 ≤ x then facedPort x else .input (x + 16) 0
  | 3 => if x % 16 = 0 then .ag (x / 16) else .input (x - 1) 1
  | w => .input x w

/-- What sends into input `i` of tile `x`: a neighbour's switch word or an AG. -/
inductive Sender where
  | word (tile w : Nat)
  | ag (a : Nat)
  | nothing
  deriving DecidableEq, Repr

/-- The sender on an input. -/
def senderOf (x i : Nat) : Sender :=
  match i with
  | 0 => if x < 16 then .nothing else .word (x - 16) 2
  | 1 => if x % 16 = 15 then .ag (16 + x / 16) else .word (x + 1) 3
  | 2 => if 240 ≤ x then .nothing else .word (x + 16) 0
  | 3 => if x % 16 = 0 then .ag (x / 16) else .word (x - 1) 1
  | _ => .nothing

/-- AG word fields (R162). -/
def agOp (w : Nat) : Nat := fld w 31 29
def agOtin (w : Nat) : Bool := bit w 22
def agOtout (w : Nat) : Bool := bit w 21
def agVc (w o : Nat) : Nat := if o = 0 then fld w 13 12 else fld w 11 10

/-- An AG operation has output 0 (R163). -/
def agHasOut (op : Nat) : Bool := op != 1 && op != 3 && op != 7

/-- A kill cancels accesses of an AG operation: those of loads (R196). -/
def agKillable (op : Nat) : Bool := op != 1 && op != 3 && op != 6

/-- An AG drives both outputs. -/
def agDual (w : Nat) : Bool := agHasOut (agOp w) && agOtout w

/-- The word of AG `a` whose streams the foreground of tile `x` takes: the present one, or the one before it where the AG has
adopted a configuration that the tile has not (R99). -/
def Cluster.agWordFor (k : Cluster) (x a : Nat) : Nat :=
  let g := k.ag a
  let old := (g.prev.map (fun w => w.word.toNat)).getD 0
  match g.fg with
  | some w => if (k.tile x).cfgNow.cfg < w.cfg && g.prev.isSome then old else w.word.toNat
  | none => old

/-- The channel that a word takes from its source: its own where it faces an AG with two outputs, any otherwise (R99). -/
def Cluster.streamVc (k : Cluster) (x src vc : Nat) : Option Nat :=
  match (if src < 4 then senderOf x src else .nothing) with
  | .ag a => if agDual (k.agWordFor x a) then some vc else none
  | _ => none

/-- The switch words that take the stream which word `w` takes (R100). -/
def Cluster.sharers (k : Cluster) (x w : Nat) : List Nat :=
  let g := (k.tile x).cfgNow
  let sw := g.switch w
  let v := k.streamVc x (swSrc sw) (swVc sw)
  (List.range 8).filter (fun u =>
    swSrc (g.switch u) == swSrc sw && k.streamVc x (swSrc sw) (swVc (g.switch u)) == v)

/-! ### Handing over a token -/

/-- A receiver takes a token if it has room: two entries for each channel (R99), islands on channel 0 alone (R262).  A
background stream waits while its channel is that of the stream in use (R99). -/
def Cluster.offer (k : Cluster) (r : Recv) (vc cfg : Nat) (t : Token) : Option Cluster :=
  match r with
  | .input x i =>
    let tl := k.tile x
    let mine := tl.cfgNow.cfg
    let key := 4 * i + vc
    if !tl.lk.room key || (decide (mine < cfg) && tl.inVc.contains key) then none
    else
      some (k.setTile x { tl with lk := tl.lk.put key { tok := t, cfg := cfg },
                                  inVc := if cfg ≤ mine then insertNat key tl.inVc else tl.inVc })
  | .ag a =>
    let g := k.ag a
    let mine := (g.fg.getD {}).cfg
    let key := 4 * (4 + vc)
    if !g.lk.room key || (decide (mine < cfg) && g.inVc.contains vc) then none
    else
      some (k.setAg a { g with lk := g.lk.put key { tok := t, cfg := cfg },
                               inVc := if cfg ≤ mine then insertNat vc g.inVc else g.inVc })
  | .port i p =>
    let m := k.mat i
    let q := if p = 0 then m.f0 else m.f1
    if vc != 0 || 2 ≤ q.buf.length || (decide (m.cfg < cfg) && q.used) then none
    else
      let q := { q with buf := q.buf ++ [{ tok := t, cfg := cfg }], used := q.used || decide (cfg ≤ m.cfg) }
      some (k.setMat i (if p = 0 then { m with f0 := q } else { m with f1 := q }))
  | .nowhere => none

/-- A token that crosses a word with its census bit set is counted, once; further copies of counted tokens, `again` of
its logical tokens, count separately (R110). -/
def Cluster.cross (k : Cluster) (x sw again : Nat) (t : Token) : Token × Cluster :=
  let n := if swCns sw && !t.cns then t.logical else if t.cns then min again t.logical else 0
  ({ t with cns := t.cns || swCns sw }, match k.tileOwner x with | some r => k.censusRise r n | none => k)

/-- Where word `w` stands in the head of an input: the logical tokens it has taken. -/
def BufEnt.pos (e : BufEnt) (w : Nat) : Nat := e.taken.get w 0

/-- How many of the logical tokens that word `w` takes next, its source has already given to another word. -/
def Cluster.givenAway (k : Cluster) (x w : Nat) : Nat :=
  let t := k.tile x
  let sw := t.cfgNow.switch w
  let src := swSrc sw
  if src < 4 then
    match t.lk.nextVc src t.cfgNow.cfg (k.streamVc x src (swVc sw)) with
    | none => 0
    | some v =>
      match (t.lk.buf (4 * src + v)).head? with
      | some e => ((k.sharers x w).filter (fun u => u != w)).foldl (fun n u => max n (e.pos u)) 0 - e.pos w
      | none => 0
  else if src < 6 then
    match (t.lk.out src).head? with | some e => b2n (!e.served.isEmpty) | none => 0
  else 0

/-- The run may leave on an edge with compression field `cmp` and ceiling `n` (R101, R102). -/
def runAllowed (cmp n : Nat) (t : Token) : Bool :=
  let zero := t.lanes.all (fun w => w == 0)
  t.logical == 1 || (t.logical ≤ n && ((zero && (cmp == 1 || cmp == 3)) || (!zero && (cmp == 2 || cmp == 3))))

/-- The part of a run that leaves at once on an edge with compression field `cmp` and ceiling `n`: whole where that is
permitted, else the longest permitted run, else one token (R102). -/
def runPart (cmp n : Nat) (t : Token) : Token :=
  if runAllowed cmp n t then t
  else if runAllowed cmp n (t.firstN (min n t.logical)) then t.firstN (min n t.logical) else t.single

/-- The lanes of unit `u` that a word's source may stop (R107): those that every word taking it has killed.  A copy of the
hold token is the word's own. -/
def Cluster.killMask (k : Cluster) (x w u : Nat) : BitVec 16 :=
  if 6 ≤ swSrc ((k.tile x).cfgNow.switch w) then (k.tile x).lk.killed w u
  else (k.sharers x w).foldl (fun a v => a &&& (k.tile x).lk.killed v u) 0xFFFF

/-- A token that word `w` is to take, with the killed lanes of its unit cleared (R108). -/
def Cluster.lessKilled (k : Cluster) (x w : Nat) (t : Token) : Token :=
  t.clear (k.killMask x w (unitAt ((k.tile x).lk.units.get w 0) t.nseq))

/-- The head of the stream that word `w` takes, if it has not taken it yet: a token of an input or of a unit output, or
a copy of the hold token, which is zero where no record gives it (R152).  Killed lanes are cleared; of
the run that is left, each word takes what its edge may carry (R101, R102).  A copy of the hold token keeps the NSEQ of its record, a
marker among its fields or not: R152 gives the record a whole token, R106 counts units of every stream; the model's choice (assumption
67). -/
def Cluster.wordHead (k : Cluster) (x w : Nat) : Option (Token × List Nat) :=
  let t := k.tile x
  let g := t.cfgNow
  let sw := g.switch w
  let src := swSrc sw
  if src < 4 then
    match t.lk.nextVc src g.cfg (k.streamVc x src (swVc sw)) with
    | none => none
    | some v =>
      match (t.lk.buf (4 * src + v)).head? with
      | none => none
      | some e =>
        if e.tok.logical ≤ e.pos w then none
        else some (runPart (swCmp sw) (swCeil sw) (k.lessKilled x w (e.tok.after (e.pos w))), [])
  else if src < 6 then
    match (t.lk.out src).head? with
    | none => none
    | some e => if e.served.contains w then none else some (k.lessKilled x w e.tok, e.fids.map (fun i => copyId i w))
  else if src = 6 then let h := g.hold.getD {}; some (k.lessKilled x w { h with cns := false, last := h.mark.any }, [])
  else none

/-- Word `w` has taken `tok` of the head of its source; the source pops it when the last sharer has all of it (R100). -/
def Cluster.took (k : Cluster) (x w : Nat) (tok : Token) : Cluster :=
  let t := k.tile x
  let g := t.cfgNow
  let sw := g.switch w
  let src := swSrc sw
  if src < 4 then
    match t.lk.nextVc src g.cfg (k.streamVc x src (swVc sw)) with
    | none => k
    | some v =>
      match t.lk.buf (4 * src + v) with
      | [] => k
      | e :: r =>
        let e := { e with taken := e.taken.put w (e.pos w + tok.logical) }
        if (k.sharers x w).all (fun u => decide (e.tok.logical ≤ e.pos u)) then
          let lk := t.lk.setBuf (4 * src + v) r
          k.setTile x { t with lk := { lk with units := lk.units.put (10 + src) (unitAfter (lk.units.get (10 + src) 0) e.tok) } }
        else k.setTile x { t with lk := t.lk.setBuf (4 * src + v) (e :: r) }
  else if src < 6 then
    match t.lk.out src with
    | [] => k
    | e :: r =>
      let served := insertNat w e.served
      let left := if (k.sharers x w).all (fun u => served.contains u) then r else { e with served := served } :: r
      k.setTile x { t with lk := t.lk.setOut src left }
  else k

/-- A word's token has reached a receiving buffer: the kill unit and EOS are noted, and firings retire (R106, R110,
R346). -/
def State.reached (s : State) (c x w : Nat) (tok : Token) (fids : List Nat) : State :=
  let k := s.cl c
  let t := k.tile x
  let lk := { t.lk with units := t.lk.units.put w (unitAfter (t.lk.units.get w 0) tok) }
  let (fall, lk) := lk.accepted fids
  let t := { t with lk := lk, swEos := if tok.mark == Mk.eos then insertNat w t.swEos else t.swEos }
  (s.setCl c (k.setTile x t)).censusFall c (k.tileOwner x) fall

/-- Words N, E, S and W hand the token of their output register over (R97, R98); of a run that a kill has made one that
the edge may not carry, what it may (R101). -/
def State.handOver (s : State) (c x w : Nat) : State :=
  let k := s.cl c
  let t := k.tile x
  match t.lk.out w with
  | [] => s
  | e :: _ =>
    let sw := t.cfgNow.switch w
    let part := runPart (swCmp sw) (swCeil sw) e.tok
    let rest := if part.logical < e.tok.logical then [{ e with tok := e.tok.after part.logical }] else []
    match k.offer (recvOf x w) (swVc sw) t.cfgNow.cfg part with
    | none => s
    | some k =>
      let t := k.tile x
      (s.setCl c (k.setTile x { t with lk := t.lk.setOut w rest })).reached c x w part (if rest.isEmpty then e.fids else [])

/-- A word's token may join the run in its output register (R101, R102). -/
def mayJoin (sw : Nat) (e tok : Token) : Bool :=
  !e.mark.any && e.mcode == 0 && !e.last && e.alike tok &&
  runAllowed (swCmp sw) (swCeil sw) { e with cmp := true, run := e.logical + tok.logical - 1 }

/-- A word takes the head of its source: words N, E, S and W into their output register, where a sender may also combine
equal tokens into a run (whether it does is free, R102); slot words into the slot's buffer, and a copy of the hold token
straight into the receiver's, whenever that has room (R152). -/
def State.takeWord (s : State) (c x w : Nat) : State :=
  let k := s.cl c
  let t := k.tile x
  let g := t.cfgNow
  let sw := g.switch w
  match k.wordHead x w with
  | none => s
  | some (tok, fids) =>
    let (tok', k') := (k.took x w tok).cross x sw (k.givenAway x w) tok
    let t' := k'.tile x
    if w < 4 && swSrc sw != 6 then
      match t.lk.out w with
      | [] => s.setCl c (k'.setTile x { t' with lk := t'.lk.setOut w [{ tok := tok', fids := fids }] })
      | e :: _ =>
        if mayJoin sw e.tok tok' then
          let run := { e.tok with cmp := true, run := e.tok.logical + tok.logical - 1, prov := e.tok.prov ||| tok.prov }
          let (free, s) := s.drawNat
          if free % 2 = 1 then
            s.setCl c (k'.setTile x { t' with lk := t'.lk.setOut w [{ tok := run, fids := e.fids ++ fids }] })
          else s
        else s
    else
      match k'.offer (recvOf x w) (swVc sw) g.cfg tok' with
      | none => s
      | some k2 => (s.setCl c k2).reached c x w tok' fids

/-! ### Kills (R106 to R109) -/

/-- A kill is put on a reverse wire. -/
def Cluster.wire (k : Cluster) (m : KillMsg) : Cluster := { k with wires := k.wires ++ [m] }

/-- The unit of tile `x` drives a kill of lanes of unit `u` on slot `i`, and treats those lanes as invalid from then on. -/
def Cluster.driveKill (k : Cluster) (x i u : Nat) (m : BitVec 16) : Cluster :=
  let t := k.tile x
  if m = 0 then k
  else (k.setTile x { t with lk := t.lk.remember (16 + i) u m }).wire { unit := x, port := 4 + i, kseq := u % 8, mask := m, cfg := t.cfgNow.cfg }

/-- Clears the lanes of the tokens of unit `u` in a register or queue that stands at unit `h`. -/
def clearUnit (h u : Nat) (m : BitVec 16) (t : Token) : Token := if unitAt h t.nseq = u then t.clear m else t

/-- The first word of the queue's `i`-th oldest token: stored token k stands at BASE + 16 (k mod D) (R210). -/
def MtQueue.word (q : MtQueue) (i : Nat) : Nat := q.base + 16 * ((q.stored - q.toks.length + i) % q.depth)

/-- The marker with which a queue of marker behaviour `mkb` sends a stored token, and whether its kill unit then ends
with it. -/
def queueMark (mkb : Nat) (t : Token) : Mk := t.mark.kept mkb
def queueLast (mkb : Nat) (t : Token) : Bool := if t.isDigital then t.last else t.last && (queueMark mkb t).any

/-- The kill units with which stored tokens will leave an output that stands at unit `h` (R106). -/
def queueUnits (mkb : Nat) : Nat → List Token → List Nat
  | _, [] => []
  | h, t :: ts => h :: queueUnits mkb (h + b2n (queueLast mkb t)) ts

/-- A kill of lanes of unit `u` in a queue whose output stands at unit `h`: the stored tokens of the unit, and the words
that hold their lanes, are cleared (R210). -/
def MtQueue.kill (q : MtQueue) (mkb h u : Nat) (m : BitVec 16) (mt : Tab Nat) : MtQueue × Tab Nat :=
  let us := queueUnits mkb h q.toks
  ({ q with toks := (q.toks.zip us).map (fun e => if e.2 = u then e.1.clear m else e.1) },
   (List.range q.toks.length).foldl (fun mt i =>
     if us.getD i 0 = u then
       (List.range 16).foldl (fun mt j => if m.getLsbD j then mtSet mt (q.word i + j) 0 else mt) mt
     else mt) mt)

/-- The queue word that a slot fills; its output and marker behaviour. -/
def TileCfg.queueWord (g : TileCfg) (slot : Nat) : Nat :=
  (((List.range 4).map (fun w => (g.mts.get w 0).toNat)).find? (fun w =>
    (fld w 31 28 == 2 || fld w 31 28 == 3) && (List.range 4).find? (fun i => bit w i) == some slot)).getD 0
def queueOut (w : Nat) : Nat := b2n (bit w 7)
def queueMkb (w : Nat) : Nat := fld w 5 4

/-- The tile's MT queues that feed output `o`, after a kill of lanes of unit `u` of it. -/
def Tile.killQueues (t : Tile) (o u : Nat) (m : BitVec 16) : Tile :=
  t.queues.foldl (fun (t' : Tile) e =>
    let w := t.cfgNow.queueWord e.1
    if queueOut w != o then t'
    else
      let r := e.2.kill (queueMkb w) (t.lk.units.get (8 + o) 0) u m t'.mt
      { t' with queues := t'.queues.put e.1 r.1, mt := r.2 }) t

/-- Word-mode operations that forward kills (R214); CVT only between tags of equal element counts. -/
def peForwards (op : Nat) (sameCount : Bool) : Bool := decide (op ≤ 0x1A) || (op == 0x1B && sameCount) || op == 0x1E

/-- Digit-mode operations whose kills are forwarded to every digit slot (R245), and those whose entries say when. -/
def digitForwards (op : Nat) : Bool := (decide (0x40 ≤ op) && decide (op ≤ 0x4A)) || op == 0x4D

/-- DCMPK (R252). -/
def opDcmpk : Nat := 0x4C

/-- The kill unit of the number at the head of a digit slot. -/
def OpSt.headUnit (o : OpSt) (i : Nat) : Option Nat :=
  match (o.items.get i []).head? with
  | some (.num n) => if n.wordFed then none else some n.unit
  | _ => none

/-- The stream of slot `i` is known to carry digits: it has delivered some, or they stand at its head. -/
def Tile.slotDigits (t : Tile) (i : Nat) : Bool :=
  t.lk.digIn.contains i || (match t.lk.peekSlot i t.cfgNow.cfg with | some h => h.isDigital | none => false)

/-- The kill unit that digit slot `i` is receiving: that of the number at its head, or of the next one of a stream that is
known to carry digits; none for numbers made from words (R242). -/
def Tile.slotUnit (t : Tile) (i : Nat) : Option Nat :=
  if (t.op.items.get i []).isEmpty then
    if t.slotDigits i then some (t.lk.units.get (16 + i) 0) else none
  else t.op.headUnit i

/-- CVT passes lanes one to one (R214): the tag of the token at slot A, or of the last one there, counts as TYPE does; MARKER tokens
have no element count of their own. -/
def Tile.cvtSame (t : Tile) : Bool :=
  match (((t.lk.peekSlot 0 t.cfgNow.cfg).filter (fun h => !h.isMarker)).map Token.tag).orElse (fun _ => t.lk.tagA) with
  | some tag => tag == tagRaw || tagCount tag == tagCount (fld t.cfgNow.pe.toNat 15 12)
  | none => false

/-- The slots that a kill of lanes `m`, acting at output 0 for the unit that lies `ahead` units after the one at hand,
goes on to, with the unit each slot then names (R106, R214, R247, R251 to R254).  `sel` gives, for the operations that
choose an operand, the lanes of `m` that still concern a slot of the number at hand; DCMPK holds a kill until it decides. -/
def Tile.forwardKill (t : Tile) (ahead : Nat) (m : BitVec 16) (sel : Nat → BitVec 16) : List (Nat × Nat × BitVec 16) :=
  let w := t.cfgNow.pe.toNat
  let op := fld w 31 25
  let en := (List.range 3).filter (fun i => bit w i)
  let slots := fun (lanes : Nat → BitVec 16) =>
    en.filterMap (fun i => (t.slotUnit i).map (fun u => (i, u + ahead, lanes i)))
  if op < 0x40 then
    if peForwards op t.cvtSame && fld w 5 4 == mkFollow && en.all (fun i => !t.slotDigits i) then
      en.map (fun i => (i, t.lk.units.get (16 + i) 0 + ahead, m))
    else []
  else if digitForwards op then slots (fun _ => m)
  else if op = opDcmpk then (if ahead = 0 then slots (fun i => m &&& sel i) else [])
  else if op = 0x4B ∨ op = 0x4F then slots (fun i => if ahead = 0 then m &&& sel i else m)
  else []

/-- The unit of tile `x` discards kills on output `o`: DCMPK on output 1 (R252). -/
def Tile.deafTo (t : Tile) (o : Nat) : Bool := o == 1 && fld t.cfgNow.pe.toNat 31 25 == opDcmpk

/-- A tile with a processing element (R4). -/
def isPeTile (x : Nat) : Bool := (x % 16 + x / 16) % 2 == 0

/-- A kill that acts at a unit's output (R106 to R109): discarded where the unit named has left; else remembered for the
tokens still to be sent, applied to those that wait, and forwarded where the operation forwards it. -/
def Cluster.killOutput (k : Cluster) (x o u : Nat) (m : BitVec 16) (sel : Nat → BitVec 16) : Cluster :=
  let t := k.tile x
  if u < t.lk.outUnit o || (isPeTile x && t.deafTo o) then k
  else
    let n := t.lk.units.get (8 + o) 0
    let lk := t.lk.remember (8 + o) u m
    let lk := lk.setOut (4 + o) ((lk.out (4 + o)).map (fun e =>
      if unitBack n e.tok.nseq = u then { e with tok := e.tok.clear m } else e))
    -- an MT queue clears the tokens it stores, as a switch does (R210)
    let k := k.setTile x ({ t with lk := lk }.killQueues o u m)
    if o == 0 && n ≤ u && isPeTile x then
      (t.forwardKill (u - n) m sel).foldl (fun k (i, u', m') => k.driveKill x i u' m') k
    else k

/-- A kill arrives at the sending end that switch word `w` of tile `x` holds (R106, R107). -/
def Cluster.killWord (k : Cluster) (x w q : Nat) (m : BitVec 16) (sel : Nat → BitVec 16) : Cluster :=
  let t := k.tile x
  let h := t.lk.units.get w 0
  match killUnit h q with
  | none => k
  | some u =>
    -- a mask stays until every word that takes the source has left the unit
    let low := if swSrc (t.cfgNow.switch w) < 6 then (k.sharers x w).foldl (fun n v => min n (t.lk.units.get v 0)) h else h
    let k := k.setTile x { t with lk := t.lk.rememberFrom low w u m }
    let all := k.killMask x w u
    let g := (k.tile x).cfgNow
    let src := swSrc (g.switch w)
    -- it acts on the lanes that every word taking the same source has killed
    let k := (if src < 6 then (k.sharers x w).filter (fun v => decide (v < 4)) else [w].filter (fun v => decide (v < 4))).foldl
      (fun k v =>
        let t := k.tile x
        k.setTile x { t with lk := t.lk.setOut v ((t.lk.out v).map (fun e =>
          { e with tok := clearUnit (t.lk.units.get v 0) u all e.tok })) }) k
    if src < 4 then
      let old := (k.tile x).lk.killed (10 + src) u
      if all &&& ~~~old = 0 then k
      else
        let t := k.tile x
        let hs := t.lk.units.get (10 + src) 0
        let lk := t.lk.remember (10 + src) u all
        let lk := (List.range 4).foldl (fun lk v =>
          if k.streamVc x src (swVc (g.switch w)) == none || k.streamVc x src (swVc (g.switch w)) == some v then
            lk.setBuf (4 * src + v) ((lk.buf (4 * src + v)).map (fun e => { e with tok := clearUnit hs u all e.tok }))
          else lk) lk
        let k := k.setTile x { t with lk := lk }
        match senderOf x src with
        | .word y v => k.wire { unit := y, port := v, kseq := u % 8, mask := all, cfg := g.cfg }
        | .ag a =>
          let out1 := k.streamVc x src (swVc (g.switch w)) == some (agVc (k.agWordFor x a) 1)
          k.wire { unit := 256 + a, port := b2n out1, kseq := u % 8, mask := all, cfg := g.cfg }
        | .nothing => k
    else if src < 6 then
      let o := src - 4
      let old := (k.tile x).lk.killed (8 + o) u
      if all &&& ~~~old = 0 then k else k.killOutput x o u all sel
    else k

/-- The lanes of the fault record's PEND that a kill takes away (R195, R409): bits [303:288]. -/
def clearPend (rcd : Nat) (m : BitVec 16) : Nat :=
  putFld rcd 303 288 ((BitVec.ofNat 16 (fld rcd 303 288)) &&& ~~~m).toNat

/-- A kill arrives at an AG's output (R109, R196): output 1 discards it.  A stopped AG's record shows it at once. -/
def Cluster.killAg (k : Cluster) (a o q : Nat) (m : BitVec 16) : Cluster :=
  let g := k.ag a
  if o != 0 then k
  else
    let n := g.lk.units.get 8 0
    match killUnit (g.lk.outUnit 0) q with
    | none => k
    | some u =>
      let lk := g.lk.remember 8 u m
      let lk := lk.setOut 4 ((lk.out 4).map (fun e => if unitBack n e.tok.nseq = u then { e with tok := e.tok.clear m } else e))
      k.setAg a { g with lk := lk, fault := if g.stopped && u == n && agKillable (agOp ((g.fg.map (fun x => x.word.toNat)).getD 0))
                                             then clearPend g.fault m else g.fault }

/-- For the operations that choose an operand, the lanes of a kill that still concern slot `i` (R251, R252, R254): before the
decision every slot, or for DCMPK none; after it the chosen slot alone. -/
def Tile.killSel (t : Tile) (i : Nat) : BitVec 16 :=
  let op := fld t.cfgNow.pe.toNat 31 25
  maskOf (fun k => match t.op.picks.find k with
    | some n => n == i
    | none => op != 0x4C)

/-- The configuration that runs at the sending end that a kill goes to. -/
def Cluster.holderCfg (k : Cluster) (u : Nat) : Nat :=
  if u < 256 then (k.tile u).cfgNow.cfg else ((k.ag (u - 256)).fg.getD {}).cfg

/-- A kill acts at the holder of its link's sending end.  One that concerns a stream which the holder has replaced is discarded
with it: all of that stream has left. -/
def Cluster.deliverKill (k : Cluster) (m : KillMsg) : Cluster :=
  if m.cfg < k.holderCfg m.unit then k
  else if m.unit < 256 then k.killWord m.unit m.port m.kseq m.mask (k.tile m.unit).killSel
  else k.killAg (m.unit - 256) m.port m.kseq m.mask

/-- The kills on their way to unit `u` act before it hands over a further token: a kill acts from the cycle after the one in which
it is driven (R108), so that no hop is ever more than three tokens ahead of it (R106).  A kill for a stream that the unit has yet to
adopt waits for it. -/
def Cluster.takeKills (k : Cluster) (u : Nat) : Cluster :=
  let due := fun (m : KillMsg) => m.unit == u && decide (m.cfg ≤ k.holderCfg u)
  (k.wires.filter due).foldl Cluster.deliverKill { k with wires := k.wires.filter (fun m => !due m) }

/-- SWITCH_FORWARD (R97 to R102): one switch word of a tile moves a token along, once the kills that have
reached the tile have acted. -/
def State.switchForward (s : State) (c x w : Nat) : State :=
  if (s.cl c).isFrozen x || ((s.cl c).tile x).fg.isNone then s
  else
    let s := s.setCl c ((s.cl c).takeKills x)
    (if w < 4 then s.handOver c x w else s).takeWord c x w

def execSwitchForward (w : BitVec 3) (s : State) : Host.Outcome State Fault Refusal :=
  .next (s.switchForward s.here (s.actor.unit % 256) w.toNat)

/-! ### Power tokens (R387 to R389) -/

/-- The tile whose spine a unit runs on (R387). -/
def regionTile (u : Nat) : Nat := if u < 256 then u else if u < 288 then agTile (u - 256) else portTile (u - 288) 0

/-- The spine of a unit. -/
def State.spineOf (s : State) (c u : Nat) : Nat := (s.die (dieOf c)).tspin.get (localOf c * 256 + regionTile u) 0

/-- A firing draws its power: `each` for each cycle of it, `total` over all of them.  A bucket that cannot serve a cycle
refuses it, which PSTALL counts.  The cycles of a longer firing that outlast the bucket wait for the refills of later
intervals, all within the turn that the firing takes (timing, R391). -/
def State.drawPower (s : State) (c u each total : Nat) : Bool × State :=
  let k := s.cl c
  let sp := s.spineOf c u
  let b := k.power.get sp 0
  if b < each then
    let d := s.die (dieOf c)
    (false, s.setDie (dieOf c) { d with pstall := d.pstall + 1 })
  else (true, s.setCl c { k with power := k.power.put sp (b - total) })

/-! ### What every firing of a tile's unit has in common -/

/-- What one firing does: the slots it pops, the tokens it sends, flags, operation state, MT contents, whether it keeps
what it popped without sending it (R110), the kills it drives (slot, unit, lanes), the lanes with machine checks, and the
cycles of power it draws. -/
structure FireOut where
  pops : List Nat := []
  out0 : List Token := []
  out1 : List Token := []
  flags : Nat := 0
  op : OpSt := {}
  mt : Tab Nat := []
  queues : Tab MtQueue := []
  keep : Bool := false
  kills : List (Nat × Nat × BitVec 16) := []
  checks : List Nat := []
  cycles : Nat := 1
  /-- The firing ends output 0's number, and with it the kill unit (R106). -/
  unitUp : Bool := false
  deriving Inhabited

/-- Some switch word takes unit output `o`. -/
def TileCfg.heard (g : TileCfg) (o : Nat) : Bool := (List.range 8).any (fun w => swSrc (g.switch w) == 4 + o)

/-- The tokens of an output that no switch word takes go at once: R100 holds them for no destination. -/
def Links.unheard (k : Links) (g : TileCfg) (o : Nat) : Links := if g.heard o then k else k.setOut (4 + o) []

/-- The switch words that take unit output `o`. -/
def TileCfg.takers (g : TileCfg) (o : Nat) : List Nat := (List.range 8).filter (fun w => swSrc (g.switch w) == 4 + o)

/-- Counted tokens of a number whose content has not gone out, from its header (0) or a later token on. -/
def NumBuf.holds (n : NumBuf) (start : Nat) : Nat := (n.cns.drop start).sum + n.cnsW

/-- Counted tokens whose content an operation state holds for a later push (R110).  A number's header and DIGITS tokens go out with
those of the result; a champion's and a group's go out with the last token of their result. -/
def OpSt.holds (o : OpSt) : Nat :=
  let ready := fun (l : List NumBuf) => (l.map (fun n => n.holds 0)).sum
  let slot := fun (l : List DItem) =>
    match l with
    | .num n :: r => n.holds (if o.hdrSent then 1 + o.sent else 0) + ready (r.filterMap (fun
        | .num n => some n
        | .mark _ => none))
    | _ => 0
  (o.items.map (fun e => slot e.2)).sum + (o.frames.map (fun e => e.2.holds 0)).sum + (o.framed.map (fun e => ready e.2)).sum +
  (o.readyCns.map Prod.snd).sum + b2n (o.pred.getD {}).cns + b2n (o.idTok.getD {}).cns + o.stash + (o.champCns.map Prod.snd).sum

/-- Applies a firing, once power is granted.  `digits` says that output 0 carries numbers, whose kill units the caller
counts itself. -/
def State.applyFire (s : State) (c x : Nat) (cost : Nat) (digits : Bool) (f : FireOut) : State :=
  let (ok, s) := s.drawPower c x cost (cost * f.cycles)
  if !ok then s
  else
    let k := s.cl c
    let t := k.tile x
    let lk := t.lk.popSlots t.cfgNow.cfg f.pops
    let id0 := lk.nextId
    let lk := if digits then lk.sendDigits 0 f.unitUp f.out0 else lk.sendWords 0 f.out0
    let lk := lk.sendWords 1 f.out1
    let sent := !(f.out0.isEmpty && f.out1.isEmpty)
    let held := f.op.holds
    let (fall, lk) :=
      if sent then lk.fired t.cfgNow.takers id0 held
      else if f.keep && !digits then (0, lk)
      else (lk.kept - held, { lk with kept := held })
    let lk := (lk.unheard t.cfgNow 0).unheard t.cfgNow 1
    let t := { t with lk := lk, flags := t.flags ||| f.flags, op := f.op, fidx := (t.fidx + 1) % 2 ^ 32, mt := f.mt, queues := f.queues }
    let k := f.kills.foldl (fun k (i, u, m) => k.driveKill x i u m) (k.setTile x t)
    let s := f.checks.foldl (fun s lane =>
      s.machineCheck c (match k.tileOwner x with | some r => (k.resident r).ctx | none => 0) 8 x 0 0 lane) (s.setCl c k)
    s.censusFall c ((s.cl c).tileOwner x) fall

/-- A unit pops and discards one token from each of some slots (R463), and is left with operation state `op`. -/
def State.discard (s : State) (c x : Nat) (ss : List Nat) (op : OpSt) : State :=
  let k := s.cl c
  let t := k.tile x
  let lk := t.lk.popSlots t.cfgNow.cfg ss
  (s.setCl c (k.setTile x { t with op := op, lk := { lk with kept := op.holds } })).censusFall c (k.tileOwner x) (lk.kept - op.holds)

/-- A slot has delivered EOS, and nothing that came before it is still to be consumed (R463). -/
def Tile.ended (t : Tile) (i : Nat) : Bool :=
  t.lk.slotEos.contains i && (t.op.ready.get i []).isEmpty && (t.op.items.get i []).isEmpty

/-- The unit of tile `x` may act: it has a foreground, and no stop wave holds it. -/
def Cluster.mayFire (k : Cluster) (x : Nat) : Bool := (k.tile x).fg.isSome && !k.isFrozen x

end Sys2Proof.Machine
end

