-- ==== Sys2Proof/Machine/AgUnit.lean ====
section
/-! DEFINITION. Address generators (R188 to R202): loop nests, rounds, order tokens, ports, faults (R408, R409), block
tables (R28 to R32) and windows (R88). -/

namespace Sys2Proof.Machine

/-! ### Shape records (R164) -/

def shBase (x : Nat) : Nat := fld x 63 0
def shExt (x k : Nat) : Nat := fld x (83 + 20 * k) (64 + 20 * k)
def shStr (x k : Nat) : Int := signed (fld x (195 + 32 * k) (164 + 32 * k)) 32
def shEsize (x : Nat) : Nat := 2 ^ fld x 326 324
def shRing (x : Nat) : Bool := fld x 328 327 == 1
def shWlog (x : Nat) : Nat := fld x 333 329
def shTag (x : Nat) : Nat := fld x 337 334

/-- The AG as its configuration starts it. -/
def Ag.start (g : Ag) : Ag :=
  let x := (g.fg.map AgCfg.shape).getD 0
  { g with base := shBase x, ext := (List.range 5).map (shExt x), phase := .start false, empty := false, final := false,
           licensed := false, cnt := [0, 0, 0, 0, 0], maskTok := none, row := 0, desc := none, block := none, cur := none,
           owed := [], stopped := false }

/-! ### What an AG's turn sees -/

/-- An AG about to act: its number, its word, its shape, its binding, its residency. -/
structure AgEnv where
  c : Nat
  a : Nat
  f : AgF
  op : Nat
  shape : Nat
  bind : Option Bind
  res : Nat
  ctx : Nat
  handle : Nat
  frun : Bool

def State.agEnv (s : State) (c a op : Nat) (f : AgF) : AgEnv :=
  let k := s.cl c
  let g := (k.ag a).fg.getD {}
  let r := (k.agOwner a).getD 0
  { c := c, a := a, f := f, op := op, shape := g.shape, bind := g.bind, res := r, ctx := (k.resident r).ctx,
    handle := (k.resident r).handle r, frun := (k.resident r).frun }

/-- Opcodes (R162). -/
def agLd : Nat := 0
def agSt : Nat := 1
def agGa : Nat := 2
def agSc : Nat := 3
def agSel : Nat := 4
def agBt : Nat := 5
def agAmo : Nat := 6
def agPf : Nat := 7

/-- Enabled slots; the data slots among them. -/
def AgEnv.slots (e : AgEnv) : List Nat := (List.range 4).filter e.f.en.getLsbD
def AgEnv.data (e : AgEnv) : List Nat := [0, 1].filter e.f.en.getLsbD
def AgEnv.hasOut (e : AgEnv) : Bool := agHasOut e.op
def AgEnv.indexed (e : AgEnv) : Bool := e.op == agGa || e.op == agSc || e.op == agAmo
def AgEnv.mkb (e : AgEnv) : Nat := e.f.mkb.toNat
def AgEnv.who (e : AgEnv) : Who := whoCl e.c (agentAg e.c e.a)

/-- The port that the binding puts in place of memory (R192). -/
def AgEnv.port (e : AgEnv) : Option Nat :=
  match e.bind with | some b => if b.path = 0 then none else some e.a | none => none

/-- The AG's message sender; a machine check of its own (R410). -/
def agSender (a : Nat) : Nat := 2 + a
def State.agCheck (s : State) (e : AgEnv) (source pa va lane : Nat) : State :=
  s.machineCheck e.c e.ctx source e.a pa (BitVec.ofNat 64 va) lane

/-! ### Addresses (R188, R200) -/

/-- The address at an offset from BASE, and its byte `j`. -/
def AgEnv.eaddr (e : AgEnv) (base : Nat) (off : Int) (j : Nat) : Nat :=
  let a := wrapNat ((base : Int) + off + j) 64
  if shRing e.shape then
    let m := 2 ^ shWlog e.shape - 1
    base - base % (m + 1) + a % (m + 1)
  else a

/-- The bytes of an element. -/
def AgEnv.elemBytes (e : AgEnv) (base : Nat) (off : Int) (n : Nat) : List Nat := (List.range n).map (e.eaddr base off)

/-- The offset of the nest's iteration. -/
def AgEnv.nestOff (e : AgEnv) (cnt : List Nat) (lane : Nat) : Int :=
  ((List.range 5).map (fun k => shStr e.shape k * ((cnt.getD k 0 + (if k = 0 then lane else 0) : Nat) : Int))).sum

/-! ### Descent (R293, R294) -/

/-- The AGs that a set of them names. -/
def provAgs (p : Nat) : List Nat := (List.range 32).filter (bit p)

/-- An AG's tokens also descend from its own finished rounds. -/
def Ag.mine (g : Ag) (a : Nat) (t : Token) : Token := if g.past then { t with prov := t.prov ||| 2 ^ a } else t

/-- An access that descends from finished rounds acts as a release by the AG of each such round, at that round's SCOPE: it
covers the round's accesses and those of the rounds, among the ones the access descends from, that the round itself descends
from (R294). -/
def State.agRelease (s : State) (e : AgEnv) : State :=
  let p := ((s.cl e.c).ag e.a).lk.prov
  (provAgs p).foldl (fun s b =>
    let g := (s.cl e.c).ag b
    match g.fg with
    | none => s
    | some w => (b :: provAgs (p &&& g.lk.prov)).foldl (fun s a =>
        s.deliverKnown (agentAg e.c a) (dieOf e.c) (scopeOf (BitVec.ofNat 2 (fld w.word.toNat 28 27)))) s) s

/-! ### One lane's access (R194, R197, R76, R88) -/

/-- Why a lane did not complete: the code, level and address of a fault; or it waits for a port; or the port has ended. -/
inductive LaneStop where
  | fault (f : AFail)
  | wait
  | ended
  deriving DecidableEq, Repr

/-- The code with which an AG's local access is refused (R73, R76). -/
def Cluster.agLocalRefusal (k : Cluster) (offs : List Nat) (perm : Nat) : Option Nat :=
  let far := offs.filter (fun o => sramEnd ≤ o)
  if !far.isEmpty then (if far.all (fun o => 0x800000 ≤ o && o < 0x800A00) then some perm else some cBadPa)
  else if offs.all (fun o => k.scratch o 1) then none else some perm

/-- Translates the bytes of a lane that are not local, once for each page, in order. -/
def State.agXlat (s : State) (e : AgEnv) (kind : AccKind) (addrs : List Nat) : Except AFail (List (Nat × Nat)) × State :=
  let (r, _, s) := addrs.foldl
    (fun (st : Except AFail (List (Nat × Nat)) × Option (Nat × Nat × Nat) × State) va =>
      match st with
      | (.error x, p, s) => (.error x, p, s)
      | (.ok l, p, s) =>
        match (match p with | some (pg, base, mt) => if pg = va / 4096 then some (base, mt) else none | none => none) with
        | some (base, mt) => (.ok (l ++ [(base + va % 4096, mt)]), p, s)
        | none =>
          match s.translate e.who.owner e.who.die e.who.mcl e.ctx kind va with
          | (.bad c l', s) => (.error { code := c, lvl := l', va := va }, p, s)
          | (.ok pa mt, s) => (.ok (l ++ [(pa, mt)]), some (va / 4096, pa - va % 4096, mt), s))
    ((.ok [], none, s) : Except AFail (List (Nat × Nat)) × Option (Nat × Nat × Nat) × State)
  (r, s)

/-- Under FRUN, the stores that the cluster's sequencer still holds and that a lane's load sees, as places in the store
buffer: free ones, and each whose value a load of the same residency and alias class has returned (R285, R292). -/
def State.agSees (s : State) (e : AgEnv) (free : Nat) : List Nat :=
  if e.frun then
    ((s.sq e.c).sbuf.zipIdx.filter (fun x => bit free x.2 || x.1.seen.contains (e.handle, e.f.aclass.toNat))).map Prod.snd
  else []

/-- The newest of those stores that writes a byte, with its place. -/
def State.agForwarded (s : State) (e : AgEnv) (sees : List Nat) (pa : Nat) : Option (StoreEnt × Nat) :=
  ((s.sq e.c).sbuf.zipIdx.filter (fun x => sees.contains x.2 && decide (x.1.pa ≤ pa) && decide (pa < x.1.pa + x.1.size))).getLast?

/-- A byte of memory as an AG load sees it.  A DEVICE access of a lane, of at most four bytes, reads zero (assumption 3). -/
def State.agByte (s : State) (e : AgEnv) (sees : List Nat) (pa mt : Nat) : Byte × Bool :=
  if mt == 2 then (0, false)
  else match s.agForwarded e sees pa with
    | some (x, _) => (BitVec.ofNat 8 (x.data >>> (8 * (pa - x.pa))), false)
    | none => s.viewByte e.who.die (mt == 0) pa

/-- What a load has returned from the store buffer is noted there (R285). -/
def State.agSaw (s : State) (e : AgEnv) (sees : List Nat) (pas : List Nat) : State :=
  let at' := pas.filterMap (fun pa => (s.agForwarded e sees pa).map Prod.snd)
  if at'.isEmpty then s
  else
    let q := s.sq e.c
    let mark := (e.handle, e.f.aclass.toNat)
    s.setSq e.c { q with sbuf := q.sbuf.zipIdx.map (fun x =>
      if at'.contains x.2 && !x.1.seen.contains mark then { x.1 with seen := x.1.seen ++ [mark] } else x.1) }

/-- The VA that a fault record names (R194): the lane's first byte in the failing page. -/
def laneVa (lane : List Nat) (va : Nat) : Nat := (lane.find? (fun a => a / 4096 == va / 4096)).getD va

/-- The window that serves this AG's reads (R87). -/
def Cluster.windowOf (k : Cluster) (a : Nat) : Option Nat :=
  (k.bankQs.find? (fun q => k.mode q.1 == mWindow && q.2.en && q.2.port == a)).map Prod.fst

/-- Writes bytes with their marks into a bank. -/
def Cluster.putMarked (k : Cluster) (off : Nat) (bs : List (Byte × Bool)) : Cluster :=
  (List.range bs.length).foldl (fun k i => match bs[i]? with | some (b, p) => k.write (off + i) [b] p | none => k)
    { k with sramPoison := k.sramPoison.filter (fun w => !(off / 32 ≤ w && (w + 1) * 32 ≤ off + bs.length)) }

/-- win_read of R88 brings granule `g` into bank `b`, if it belongs there: `some true` it is held, `some false` the
read goes below the window. -/
def State.winFill (s : State) (e : AgEnv) (b g : Nat) : Nat → Except AFail Bool × State
  | 0 => (.ok false, s)
  | fuel + 1 =>
    let q := (s.cl e.c).bq b
    let h := q.whead.toNat
    let t := q.wtail.toNat
    if h ≤ g ∧ g < t then (.ok true, s)
    else if g < h then (.ok false, s)
    else
      let (q, t) := if t + 65536 ≤ g then ({ q with whead := BitVec.ofNat 64 g, wtail := BitVec.ofNat 64 g }, g) else (q, t)
      let s := s.setCl e.c ((s.cl e.c).setBq b q)
      match s.engRead e.who e.ctx t 512 with
      | (.error x, s) => (.error x, s)
      | (.ok bs, s) =>
        let k := (s.cl e.c).putMarked (b * 0x10000 + t % 65536) bs
        let t' := t + 512
        let h' := if 65536 < t' - q.whead.toNat then q.whead.toNat + 512 else q.whead.toNat
        let s := s.setCl e.c (k.setBq b { q with wtail := BitVec.ofNat 64 t', whead := BitVec.ofNat 64 h' })
        State.winFill s e b g fuel

/-- Reads the bytes of a lane: a value, its poison, or the fault.  A lane that is only partly local has a byte that no table
maps (R18). -/
def State.agRead (s : State) (e : AgEnv) (addrs : List Nat) : Except AFail (Nat × Bool) × State :=
  if addrs.all isLocal then
    match (s.cl e.c).agLocalRefusal (addrs.map localOff) cPermR with
    | some code => let (n, s) := s.drawNat; (.error { code := code, lvl := n % 4, va := addrs.headD 0 }, s)
    | none =>
      let bs := addrs.map (fun a => ((s.cl e.c).sram.byte (localOff a), (s.cl e.c).poisoned (localOff a) 1))
      (.ok (ofBytes (bs.map Prod.fst), bs.any Prod.snd), s)
  else
    match (s.cl e.c).windowOf e.a with
    | some b =>
      let (r, s) := addrs.foldl (fun (st : Except AFail (List (Byte × Bool)) × State) va =>
        match st with
        | (.error x, s) => (.error x, s)
        | (.ok l, s) =>
          match s.winFill e b (va / 512 * 512) 130 with
          | (.error x, s) => (.error x, s)
          | (.ok true, s) =>
            let o := b * 0x10000 + va % 65536
            (.ok (l ++ [((s.cl e.c).sram.byte o, (s.cl e.c).poisoned o 1)]), s)
          | (.ok false, s) =>
            match s.engRead e.who e.ctx va 1 with
            | (.error x, s) => (.error x, s)
            | (.ok v, s) => (.ok (l ++ v), s)) ((.ok [], s) : Except AFail (List (Byte × Bool)) × State)
      (match r with | .error x => .error x | .ok l => .ok (ofBytes (l.map Prod.fst), l.any Prod.snd), s)
    | none =>
      match s.agXlat e .read addrs with
      | (.error x, s) => (.error x, s)
      | (.ok ps, s) =>
        let (free, s) := if e.frun then s.drawNat else (0, s)
        let sees := s.agSees e free
        let bs := ps.map (fun p => s.agByte e sees p.1 p.2)
        let s := s.agSaw e sees ((ps.filter (fun p => p.2 != 2)).map Prod.fst)
        let s := ps.foldl (fun s p => s.keepCopy e.who.die (p.2 == 0) p.1) s
        (.ok (ofBytes (bs.map Prod.fst), bs.any Prod.snd), s)

/-- Updates the bytes that the AG's window holds of an address it stores to (R88). -/
def State.winStore (s : State) (e : AgEnv) (va : Nat) (b : Byte) (bad : Bool) : State :=
  match (s.cl e.c).windowOf e.a with
  | none => s
  | some w =>
    let q := (s.cl e.c).bq w
    if q.whead.toNat ≤ va ∧ va < q.wtail.toNat then s.setCl e.c ((s.cl e.c).write (w * 0x10000 + va % 65536) [b] bad) else s

/-- Bytes at consecutive addresses, as whole accesses. -/
def wholeRuns : List (Nat × Byte) → List (Nat × List Byte)
  | [] => []
  | (a, b) :: r =>
    match wholeRuns r with
    | (a', bs) :: t => if a' = a + 1 then (a, b :: bs) :: t else (a, [b]) :: (a', bs) :: t
    | [] => [(a, [b])]

/-- Writes the enabled bytes of a lane whose first byte is at `first`; a poisoned lane poisons them and raises a machine
check (R17, R104). -/
def State.agWrite (s : State) (e : AgEnv) (lane first : Nat) (addrs : List Nat) (bs : List Byte) (bad : Bool) :
    Option AFail × State :=
  if addrs.isEmpty then (none, s)
  else if addrs.all isLocal then
    match (s.cl e.c).agLocalRefusal (addrs.map localOff) cPermW with
    | some code => let (n, s) := s.drawNat; (some { code := code, lvl := n % 4, va := first }, s)
    | none =>
      let k := (addrs.zip bs).foldl (fun (k : Cluster) p => k.write (localOff p.1) [p.2] bad) (s.cl e.c)
      let s := s.setCl e.c k
      (none, if bad then s.agCheck e 2 0 (addrs.headD 0) lane else s)
  else
    match s.agXlat e .write addrs with
    | (.error x, s) => (some x, s)
    | (.ok ps, s) =>
      let s := ((addrs.zip ps).zip bs).foldl (fun s p =>
        let s := if p.1.2.2 == 2 then s else s.storeMarked e.who p.1.2.1 [(p.2, bad)]
        s.winStore e p.1.1 p.2 bad) s
      -- the bytes in DEVICE pages, as one access each (R14)
      let dev := ((ps.zip bs).filter (fun p => p.1.2 == 2)).map (fun p => (p.1.1, p.2))
      let s := (wholeRuns dev).foldl (fun s r => s.deviceStore e.c e.ctx r.1 r.2) s
      (none, if bad then s.agCheck e 2 ((ps.headD (0, 0)).1) (addrs.headD 0) lane else s)

/-- AGAMO's functions (R200). -/
def agAmoVal (mod old x : Nat) : Nat :=
  let so := signed old 32
  let sx := signed x 32
  match mod with
  | 0 => (old + x) % 2 ^ 32
  | 1 => x
  | 2 => if so ≤ sx then old else x
  | 3 => if so ≤ sx then x else old
  | 4 => min old x
  | 5 => max old x
  | 6 => old &&& x
  | 7 => old ||| x
  | _ => old ^^^ x

/-- One atomic, at home or at the bank (R13, R76): the old word.  A poisoned word is not written (R17). -/
def State.agAtomic (s : State) (e : AgEnv) (va x : Nat) : Except AFail (Nat × Bool) × State :=
  let addrs := [va, va + 1, va + 2, va + 3]
  let f := agAmoVal e.f.mod.toNat
  if isLocal va then
    match (s.cl e.c).agLocalRefusal (addrs.map localOff) cPermW with
    | some code => let (n, s) := s.drawNat; (.error { code := code, lvl := n % 4, va := va }, s)
    | none =>
      let k := s.cl e.c
      let o := localOff va
      let old := ofBytes (k.bytes o 4)
      if k.poisoned o 4 then (.ok (0, true), s) else (.ok (old, false), s.setCl e.c (k.write o (toBytes 4 (f old x)) false))
  else
    match s.agXlat e .atomic addrs with
    | (.error y, s) => (.error y, s)
    | (.ok ps, s) =>
      let pa := (ps.headD (0, 0)).1
      let old := ofBytes (s.mem.bytes pa 4)
      if s.poisonedAt pa then (.ok (0, true), s)
      else
        let bs := toBytes 4 (f old x)
        let s := s.storeHome e.who.die e.who.agent pa bs false
        (.ok (old, false), (addrs.zip bs).foldl (fun s p => s.winStore e p.1 p.2 false) s)

/-! ### Token positions -/

/-- What one token position does: the lanes of its output token, the lanes that access and which of them write, the
lanes poisoned without an access, the bytes of each lane, the operands, and the marker before MKB. -/
structure AgPlan where
  valid : BitVec 16 := 0
  acts : BitVec 16 := 0
  bad : BitVec 16 := 0
  addrs : Nat → List Nat := fun _ => []
  data : Nat → Nat := fun _ => 0
  badData : Nat → Bool := fun _ => false
  bytesOn : Nat → List Nat := fun _ => [0, 1, 2, 3]
  checks : List (Nat × Nat) := []

/-- The kind of access (R198 to R202) as R22 and R408 number it. -/
def AgEnv.kind (e : AgEnv) : AccKind :=
  if e.op = agSt ∨ e.op = agSc then .write
  else if e.op = agAmo then .atomic
  else if e.op = agBt ∧ e.f.mod.toNat = 1 then .write
  else .read
/-- Its accesses are loads, which a kill may cancel (R196). -/
def AgEnv.loads (e : AgEnv) : Bool := e.op != agSt && e.op != agSc && e.op != agAmo

def kindNo : AccKind → Nat
  | .read => 0
  | .write => 1
  | .atomic => 2
  | .fetch => 0

/-- One lane of a position. -/
def State.agLane (s : State) (e : AgEnv) (p : AgPlan) (j : Nat) : Except LaneStop (Nat × Bool) × State :=
  let addrs := p.addrs j
  let on := (List.range addrs.length).filter (fun b => (p.bytesOn j).contains b)
  if e.op = agPf then
    -- one request for each line; those that cannot be made are dropped (R198)
    let lines := (addrs.filter (fun a => !isLocal a)).foldl (fun l a => if l.contains (a / 128) then l else l ++ [a / 128]) []
    (.ok (0, false), lines.foldl (fun s l => (s.agXlat e .read [128 * l]).2) s)
  else if e.op = agSt ∨ e.op = agSc then
    let bs := on.map (fun b => BitVec.ofNat 8 (p.data j >>> (8 * b)))
    match e.port with
    | some q =>
      let k := s.cl e.c
      if k.portRoom q < bs.length then (.error .wait, s)
      else
        let s := s.setCl e.c (k.portPush q (bs.map (fun b => (b, p.badData j))))
        (.ok (0, false), if p.badData j && !bs.isEmpty then s.agCheck e 2 0 0 j else s)
    | none =>
      -- a lane touches its enabled bytes
      match s.agWrite e j (addrs.headD 0) (on.map (fun b => addrs.getD b 0)) bs (p.badData j) with
      | (some x, s) => (.error (.fault { x with va := laneVa addrs x.va }), s)
      | (none, s) => (.ok (0, false), s)
  else if e.op = agAmo then
    match s.agAtomic e (addrs.headD 0) (p.data j) with
    | (.error x, s) => (.error (.fault x), s)
    | (.ok v, s) => (.ok v, s)
  else
    match e.port with
    | some q =>
      let k := s.cl e.c
      let n := shEsize e.shape
      if k.portFill q < n then (if k.portEnded q then (.error .ended, s) else (.error .wait, s))
      else
        let bs := k.portPeek q n
        (.ok (ofBytes (bs.map Prod.fst), bs.any Prod.snd), s.setCl e.c (k.portPop q n))
    | none =>
      -- AGBT under MOD 1 needs the right to write, and reads (R202)
      let chk := if e.op = agBt && e.f.mod.toNat == 1 && !addrs.all isLocal then s.agXlat e .write addrs else (.ok [], s)
      match chk with
      | (.error x, s) => (.error (.fault x), s)
      | (.ok _, s) =>
        match s.agRead e addrs with
        | (.error x, s) => (.error (.fault { x with va := laneVa addrs x.va }), s)
        | (.ok v, s) => (.ok v, s)

/-- The lanes of the token under way that a kill keeps from being fetched (R196). -/
def State.agKilled (s : State) (e : AgEnv) : BitVec 16 :=
  let g := (s.cl e.c).ag e.a
  if e.loads && e.port.isNone then g.lk.killed 8 (g.lk.units.get 8 0) else 0

/-- Lanes in order from the position's next one, until one stops. -/
def State.agLanes (s : State) (e : AgEnv) (p : AgPlan) (pos : AgPos) : List Nat → Option LaneStop × AgPos × State
  | [] => (none, pos, s)
  | j :: js =>
    if !p.acts.getLsbD j || (s.agKilled e).getLsbD j then State.agLanes s e p { pos with lane := j + 1 } js
    else
      match s.agLane e p j with
      | (.error x, s) => (some x, { pos with lane := j }, s)
      | (.ok (v, bad), s) =>
        State.agLanes s e p { pos with lane := j + 1, out := setIdx pos.out j v,
                                       valid := pos.valid ||| BitVec.ofNat 16 (2 ^ j),
                                       pmask := if bad then pos.pmask ||| BitVec.ofNat 16 (2 ^ j) else pos.pmask } js

/-! ### Fault records (R194, R408, R409) -/

/-- A fault point: the record, the window, the message, and the stop. -/
def State.agFault (s : State) (e : AgEnv) (kind lane code lvl va : Nat) (cnt : List Nat) (pend : BitVec 16) (btva : Nat) : State :=
  let g := (s.cl e.c).ag e.a
  let seq := (g.fseq + 1) % 2 ^ 32
  let rcd := code % 16 + (lvl % 4) * 2 ^ 4 + kind * 2 ^ 6 + e.a * 2 ^ 8 + e.op * 2 ^ 13 + (e.handle % 2 ^ 16) * 2 ^ 16 + lane * 2 ^ 32 +
    0x80 * 2 ^ 56 + (va % 2 ^ 64) * 2 ^ 64 +
    ((List.range 5).map (fun k => (cnt.getD k 0 % 2 ^ 20) * 2 ^ (128 + 20 * k))).sum +
    (g.rounds % 2 ^ 32) * 2 ^ 256 + pend.toNat * 2 ^ 288 + (btva % 2 ^ 64) * 2 ^ 320 + e.ctx * 2 ^ 384 +
    localOf e.c * 2 ^ 390 + dieOf e.c * 2 ^ 396 + seq * 2 ^ 448
  let w := fun i => BitVec.ofNat 64 (fld rcd (64 * i + 63) (64 * i))
  let s := s.setCl e.c ((s.cl e.c).setAg e.a { g with stopped := true, fault := rcd, fseq := seq })
  s.post e.c (agSender e.a) 0 { msg := { w0 := w 0, w1 := w 1, w2 := w 2, w3 := w 3 }, ctx := e.ctx }

/-! ### Rounds and markers (R189 to R193) -/

/-- Carries into level `k`: the highest level that ended, 5 where all of them did, and the counters. -/
def nestCarry (ext : List Nat) : Nat → Nat → List Nat → Option Nat × List Nat
  | 0, _, c => (some 5, c)
  | n + 1, k, c =>
    let v := c.getD k 0 + 1
    if v < ext.getD k 0 then (some (k - 1), setIdx c k v) else nestCarry ext n (k + 1) (setIdx c k 0)

/-- The next token position of a nest of `top` levels, counter 0 moving by `step`: the highest level that ends before
it, if one does, and the counters. -/
def nestNext (ext cnt : List Nat) (step top : Nat) : Option Nat × List Nat :=
  let n := cnt.getD 0 0 + step
  if n < ext.getD 0 0 then (none, setIdx cnt 0 n) else nestCarry ext (top - 1) 1 (setIdx cnt 0 0)

/-- The end marker of a round. -/
def Ag.roundMark (g : Ag) : Mk := if g.final then .eos else .eod 5

/-- The producer side of a bound port ends with its AG (R86). -/
def State.agPortEnd (s : State) (e : AgEnv) : State :=
  match e.port, e.op == agSt with
  | some q, true => s.setCl e.c ((s.cl e.c).setPortEnd q true)
  | _, _ => s

/-- A round is over: it is owed to the order token's consumers, and the AG starts the next or drains (R190 to R193). -/
def State.agRoundEnd (s : State) (e : AgEnv) (final : Bool) : State :=
  let g := (s.cl e.c).ag e.a
  let g := { g with rounds := (g.rounds + 1) % 2 ^ 32, owed := if e.f.otout then g.owed ++ [final] else g.owed,
                    past := true, cnt := [0, 0, 0, 0, 0], row := 0, maskTok := none, desc := none, block := none, cur := none, empty := false,
                    phase := if final then .drain else .start false }
  let s := s.setCl e.c ((s.cl e.c).setAg e.a g)
  if final then s.agPortEnd e else s

/-- Sends what a position sends on output 0, and retires it (R110). -/
def State.agSend (s : State) (e : AgEnv) (ts : List Token) (retire : Bool) : State :=
  let g := (s.cl e.c).ag e.a
  let id0 := g.lk.nextId
  let lk := g.lk.sendWords 0 (ts.map (g.mine e.a))
  let (fall, lk) := if !ts.isEmpty then lk.fired (fun _ => [0]) id0 0 else if retire then (lk.kept, { lk with kept := 0 }) else (0, lk)
  (s.setCl e.c ((s.cl e.c).setAg e.a { g with lk := lk })).censusFall e.c (some e.res) fall

/-- A position's token on output 0 with its marker, by MKB; a marker alone rides on a MARKER token. -/
def AgEnv.tokens (e : AgEnv) (p : AgPlan) (pos : AgPos) (m : Mk) : List Token :=
  if e.hasOut then tokensOf (shTag e.shape) p.valid ((p.bad ||| pos.pmask) &&& p.valid) (fun j => pos.out.getD j 0) (m.kept e.mkb) else []
def AgEnv.markOnly (e : AgEnv) (m : Mk) : List Token :=
  if e.hasOut && (m.kept e.mkb).any then [markerToken (m.kept e.mkb)] else []

/-- The AG can send on output 0, if it has one. -/
def Ag.room (g : Ag) (e : AgEnv) : Bool := !e.hasOut || g.lk.outRoom 0

/-- Draws an AG's power token (R388). -/
def State.agPower (s : State) (e : AgEnv) : Bool × State := s.drawPower e.c (256 + e.a) 1 1

/-- The end of an empty round (R189, R190); its marker is a token sent, the one thing that draws power (R388). -/
def State.agEmpty (s : State) (e : AgEnv) : State :=
  let g := (s.cl e.c).ag e.a
  let out := e.markOnly g.roundMark
  if !g.room e then s
  else
    let (ok, s) := if out.isEmpty then (true, s) else s.agPower e
    if ok then (s.agSend e out true).agRoundEnd e g.final else s

/-! ### Performing a position -/

/-- An access that an older copy command (R69) or a change of a bank's mode (R79) holds back. -/
def State.agHeld (s : State) (e : AgEnv) (p : AgPlan) (from' : Nat) : Bool :=
  e.port.isNone && e.op != agPf && (List.range 16).any (fun j => from' ≤ j && p.acts.getLsbD j &&
    (p.addrs j).zipIdx.any (fun w => (p.bytesOn j).contains w.2 &&
      (if isLocal w.1 then (s.cl e.c).stalls none 1 e.ctx (localOff w.1) 1 || (s.cl e.c).cutting (localOff w.1) 1
       else (s.cl e.c).stalls none 0 e.ctx w.1 1)))

/-- What a position's turn comes to. -/
inductive PosEnd where
  /-- It waits, or has stopped at a fault. -/
  | stay (s : State)
  /-- Its lanes are done; `ended` says that the port ended within it. -/
  | done (pos : AgPos) (ended : Bool) (s : State)

/-- Performs a position: `before` is the state to keep where it cannot begin, `cnt` the counters of lane `j`. -/
def State.agPerform (before s : State) (e : AgEnv) (p : AgPlan) (pos : AgPos) (fresh : Bool) (cnt : Nat → List Nat) : PosEnd :=
  let g := (s.cl e.c).ag e.a
  if !g.room e || s.agHeld e p pos.lane then .stay before
  else
    let (ok, s) := if fresh then s.agPower e else (true, s)
    if !ok then .stay { before with dies := s.dies }
    else
      let s := if fresh then p.checks.foldl (fun s k => s.agCheck e k.1 0 0 k.2) s else s
      let s := if e.loads then s else s.agRelease e
      let (stop, pos, s) := s.agLanes e p pos ((List.range 16).drop pos.lane)
      let keep := fun (s : State) => s.setCl e.c ((s.cl e.c).setAg e.a { (s.cl e.c).ag e.a with cur := some pos })
      match stop with
      | none => .done pos false s
      | some .ended => .done pos true s
      | some .wait => .stay (keep s)
      | some (.fault x) =>
        let pend := p.acts &&& ~~~(s.agKilled e) &&& ~~~(BitVec.ofNat 16 (2 ^ pos.lane - 1))
        .stay ((keep s).agFault e (kindNo e.kind) pos.lane x.code x.lvl x.va (cnt pos.lane) pend 0)

/-- Pops the data slots a position needs: the tokens, and the AG after it; `none` while one is absent. -/
def Ag.popData (g : Ag) (ss : List Nat) : Option (List Token × Ag) :=
  let cfg := (g.fg.getD {}).cfg
  let ts := ss.filterMap (fun i => g.lk.peekSlot i cfg)
  if ts.length = ss.length then some (ts, { g with lk := g.lk.popSlots cfg ss }) else none

/-- A token that brings EOS. -/
def Token.ends (t : Token) : Bool := t.mark == Mk.eos

/-! ### The nest: AGLD, AGST, AGPF, AGSEL (R198, R199, R201) -/

/-- The lanes of a position within its row. -/
def rowLanes (ext cnt : List Nat) : BitVec 16 := maskOf (fun j => cnt.getD 0 0 + j < ext.getD 0 0)

/-- AGST's plan (R199). -/
def AgEnv.storePlan (e : AgEnv) (g : Ag) (a b : Option Token) : AgPlan :=
  let lanes := rowLanes g.ext g.cnt
  let t := b.getD {}
  let on := lanes &&& t.valid &&& (match a with | some m => m.valid | none => 0xFFFF)
  let bad := match a with | some m => m.valid &&& m.pmask | none => 0
  { acts := on &&& ~~~bad, addrs := fun j => e.elemBytes g.base (e.nestOff g.cnt j) (shEsize e.shape),
    data := fun j => t.lane j, badData := fun j => t.bad j,
    bytesOn := fun j => match a with | some m => (List.range 4).filter (fun i => bit (m.lane j) i) | none => [0, 1, 2, 3],
    checks := ((List.range 16).filter bad.getLsbD).map (fun j => (3, j)) }

/-- The plan of a load. -/
def AgEnv.loadPlan (e : AgEnv) (g : Ag) : AgPlan :=
  let lanes := rowLanes g.ext g.cnt
  { valid := lanes, acts := lanes, addrs := fun j => e.elemBytes g.base (e.nestOff g.cnt j) (shEsize e.shape) }

/-- AGSEL: row `r` is selected by the mask token (R197, R201). -/
def AgEnv.selected (e : AgEnv) (m : Token) (r : Nat) : Bool :=
  let k := r % 512 / 32
  m.has k && !m.bad k && (bit (m.lane k) (r % 32) == (e.f.mod.toNat == 0))

/-- After a position of the nest: the next one, or the end of the round. -/
def State.nestAfter (s : State) (e : AgEnv) (next : List Nat) (lvl : Option Nat) (fin1 : Bool) : State :=
  let g := (s.cl e.c).ag e.a
  if fin1 || lvl == some 5 then s.agRoundEnd e (fin1 || g.final)
  else s.setCl e.c ((s.cl e.c).setAg e.a { g with cur := none, cnt := next, row := if lvl.isSome then g.row + 1 else g.row })

/-- A turn within a round of the nest. -/
def State.nestTurn (s : State) (e : AgEnv) : State :=
  let g := (s.cl e.c).ag e.a
  let (lvl, next) := nestNext g.ext g.cnt 16 5
  let mark := fun (fin1 : Bool) (fin : Bool) =>
    if fin1 then Mk.eos else match lvl with
      | none => .none
      | some 5 => if fin then .eos else .eod 5
      | some k => .eod k
  match g.cur with
  | some pos =>
    let p := if e.op = agSt then e.storePlan g pos.a pos.b else e.loadPlan g
    let fin1 := (match pos.a with | some t => t.ends | none => false) || (match pos.b with | some t => t.ends | none => false)
    match s.agPerform s e p pos false (fun j => setIdx g.cnt 0 (g.cnt.getD 0 0 + j)) with
    | .stay s => s
    | .done pos ended s =>
      let p := if ended then { p with valid := pos.valid } else p
      let fin1 := fin1 || ended
      let ts := if ended && pos.valid == 0 then e.markOnly .eos else e.tokens p pos (mark fin1 g.final)
      (s.agSend e ts true).nestAfter e next lvl fin1
  | none =>
    let begin := fun (s0 s : State) (p : AgPlan) (a b : Option Token) (fin1 : Bool) =>
      match s0.agPerform s e p { a := a, b := b } true (fun j => setIdx g.cnt 0 (g.cnt.getD 0 0 + j)) with
      | .stay s => s
      | .done pos ended s =>
        let p := if ended then { p with valid := pos.valid } else p
        let fin1 := fin1 || ended
        let ts := if ended && pos.valid == 0 then e.markOnly .eos else e.tokens p pos (mark fin1 g.final)
        (s.agSend e ts true).nestAfter e next lvl fin1
    if e.op = agSt then
      match g.popData e.data with
      | none => s
      | some (ts, g') =>
        let a := if e.f.en.getLsbD 0 then ts.head? else none
        let b := ts.getLast?
        begin s (s.setCl e.c ((s.cl e.c).setAg e.a g')) (e.storePlan g a b) a b (ts.any Token.ends)
    else if e.op = agSel then
      -- a mask token when a row first needs it
      let needs := g.row % 512 == 0 && g.cnt.getD 0 0 == 0 && (g.maskTok.isNone || g.row != 0)
      let got := if needs then g.popData [0] else some ([g.maskTok.getD {}], g)
      match got with
      | none => s
      | some (ts, g') =>
        let m := ts.headD {}
        let g' := { g' with maskTok := some m }
        let s' := s.setCl e.c ((s.cl e.c).setAg e.a g')
        let checks := if needs then ((List.range 16).filter (fun j => m.has j && m.bad j)).map (fun j => (3, j)) else []
        let fin1 := m.ends && needs
        if e.selected m g.row then begin s s' { e.loadPlan g with checks := checks } (if fin1 then some m else none) none fin1
        else
          -- an unselected row: no access and no token, but the marker of a higher level
          let rowEnd := setIdx g.cnt 0 (g.ext.getD 0 0)
          let (lvl, next) := nestNext g.ext rowEnd 0 5
          let mk := if fin1 then Mk.eos else match lvl with
            | none => .none
            | some 0 => .none
            | some 5 => g.roundMark
            | some k => .eod k
          let out := e.markOnly mk
          if !(out.isEmpty || g.room e) then s
          else
            let (ok, s') := if out.isEmpty then (true, s') else s'.agPower e
            if !ok then { s with dies := s'.dies }
            else
              let s' := checks.foldl (fun s k => s.agCheck e k.1 0 0 k.2) s'
              (s'.agSend e out false).nestAfter e next lvl fin1
    else begin s s (e.loadPlan g) none none false

/-! ### Indexed operations: AGGA, AGSC, AGAMO (R200) -/

/-- The plan of one firing. -/
def AgEnv.indexPlan (e : AgEnv) (g : Ag) (a b : Token) : AgPlan :=
  let pair := e.op != agGa
  let v := a.valid &&& (if pair then b.valid else 0xFFFF)
  let bad := v &&& (a.pmask ||| (if e.op = agAmo then b.pmask else 0))
  let n := shEsize e.shape
  { valid := v, acts := v &&& ~~~bad, bad := bad,
    addrs := fun j =>
      let off := signed (a.lane j) 32 * n
      if e.op = agAmo then let w := e.eaddr g.base off 0; [w - w % 4, w - w % 4 + 1, w - w % 4 + 2, w - w % 4 + 3]
      else e.elemBytes g.base off n,
    data := fun j => b.lane j, badData := fun j => b.bad j,
    checks := ((List.range 16).filter
      ((a.valid &&& a.pmask) ||| (if e.op = agAmo then b.valid &&& b.pmask else 0)).getLsbD).map (fun j => (3, j)) }

/-- The loop counters after a firing. -/
def indexNext (cnt : List Nat) : Mk → List Nat
  | .eod k =>
    let c := (List.range 5).map (fun i => if i ≤ min k 4 then 0 else cnt.getD i 0)
    if k < 4 then setIdx c (k + 1) (c.getD (k + 1) 0 + 1) else c
  | _ => setIdx cnt 0 (cnt.getD 0 0 + 1)

/-- A turn of an indexed operation. -/
def State.indexTurn (s : State) (e : AgEnv) : State :=
  let g := (s.cl e.c).ag e.a
  let finish := fun (a b : Token) (r : PosEnd) (p : AgPlan) =>
    match r with
    | .stay s => s
    | .done pos _ s =>
      let fin1 := a.ends || (e.op != agGa && b.ends)
      let ends := fin1 || a.mark == Mk.eod 7
      let fin := fin1 || (ends && g.final)
      let m := if fin then Mk.eos else a.mark
      let s := s.agSend e (e.tokens p pos m) true
      if ends then s.agRoundEnd e fin
      else s.setCl e.c ((s.cl e.c).setAg e.a { (s.cl e.c).ag e.a with cur := none, cnt := indexNext g.cnt a.mark })
  match g.cur with
  | some pos =>
    let a := pos.a.getD {}
    let b := pos.b.getD {}
    let p := e.indexPlan g a b
    finish a b (s.agPerform s e p pos false (fun _ => g.cnt)) p
  | none =>
    match g.popData e.data with
    | none => s
    | some (ts, g') =>
      let a := ts.headD {}
      let b := ts.getD 1 {}
      let p := e.indexPlan g a b
      finish a b (s.agPerform (s.setCl e.c ((s.cl e.c).setAg e.a g')) e p { a := some a, b := some b } true (fun _ => g.cnt)) p

/-! ### AGBT (R28 to R32, R202) -/

/-- A block-table descriptor's fields; `none` where it is malformed (R28). -/
def blockTab (va x : Nat) : Option BlockTab :=
  let d : BlockTab := { entries := fld x 63 0, hpool := fld x 127 64, cpool := fld x 191 128, len := fld x 223 192,
                        bshift := fld x 228 224, tshift := fld x 233 229 }
  if va % 32 = 0 ∧ d.entries % 4 = 0 ∧ 9 ≤ d.bshift ∧ d.bshift ≤ 24 ∧ d.tshift + 4 ≤ d.bshift ∧ fld x 255 234 = 0 ∧
     d.hpool % 2 ^ d.bshift = 0 ∧ d.cpool % 2 ^ d.bshift = 0 ∧ (d.len + 15) / 16 ≤ 2 ^ 28 then some d else none

/-- How an entry resolves (R30): an address, a stall with or without a request for promotion, or a fault. -/
inductive BlockRes where
  | at (va : Nat)
  | stall (ask : Bool)
  | fault (code : Nat)

def BlockTab.resolve (d : BlockTab) (x : Nat) (write : Bool) : BlockRes :=
  let h := (d.hpool + fld x 27 0 * 2 ^ d.bshift) % 2 ^ 64
  let c := (d.cpool + fld x 27 0 * 2 ^ d.bshift) % 2 ^ 64
  if !bit x 31 || 4 < fld x 30 28 then .fault cBlkInv
  else match fld x 30 28, write with
    | 0, _ => .at h
    | 1, false => .at c
    | 1, true => .stall true
    | 2, false => .at c
    | 2, true => .stall false
    | 3, false => .fault cBlkAbsent
    | 3, true => .stall true
    | _, _ => .stall false

/-- The lanes of block `b`. -/
def BlockTab.lanes (d : BlockTab) (b : Nat) : BitVec 16 := maskOf (fun j => 16 * b + j < d.len)

/-- The request for promotion of a block (R30). -/
def State.wantBlock (s : State) (d ctx va : Nat) : State :=
  let k := s.die d
  if k.wanted.contains (ctx, va) then s else s.setDie d { k with wanted := k.wanted ++ [(ctx, va)] }

/-- The lowest lane of a mask. -/
def lowLane (m : BitVec 16) : Nat := ((List.range 16).find? m.getLsbD).getD 0

/-- A turn of AGBT: the descriptor, then the block's entry, then one token.  The entry is read once a token of the block
has a lane that no kill has taken (R195, R196). -/
def State.blockTurn (s : State) (e : AgEnv) : State :=
  let g := (s.cl e.c).ag e.a
  let put := fun (s : State) (g : Ag) => s.setCl e.c ((s.cl e.c).setAg e.a g)
  match g.desc with
  | none =>
    if (s.cl e.c).stalls none 0 e.ctx g.base 32 then s
    else match s.engRead e.who e.ctx g.base 32 with
    | (.error x, s) => s.agFault e 3 0 x.code x.lvl x.va [0, 0, 0, 0, 0] 0 0
    | (.ok bs, s) =>
      match (if anyPoison bs then none else blockTab g.base (ofBytes (plain bs))) with
      | none => s.agFault e 3 0 cBlkDesc 0 g.base [0, 0, 0, 0, 0] 0 g.base
      | some d => put s { g with desc := some d }
  | some d =>
    let b := g.cnt.getD 4 0
    if d.len = 0 then s.agEmpty e
    else
      let left := d.lanes b &&& ~~~(s.agKilled e)
      match (if left = 0 then some (g.block.getD 0) else g.block) with
      | none =>
        let va := (d.entries + 4 * b) % 2 ^ 64
        if (s.cl e.c).stalls none 0 e.ctx va 4 then s
        else match s.engRead e.who e.ctx va 4 with
        | (.error x, s) => s.agFault e 3 (lowLane left) x.code x.lvl x.va g.cnt left 0
        | (.ok bs, s) =>
          match d.resolve (if anyPoison bs then 0 else ofBytes (plain bs)) (e.f.mod.toNat == 1) with
          | .at base => put s { g with block := some base }
          | .stall ask => if ask then s.wantBlock (dieOf e.c) e.ctx va else s
          | .fault code => s.agFault e 3 0 code 0 va [0, 0, 0, 0, b] left g.base
      | some base =>
        let (lvl, next) := nestNext g.ext (g.cnt.take 4) 1 4
        let blockEnd := lvl == some 5
        let last := (d.len + 15) / 16 ≤ b + 1
        let m := if blockEnd then (if last then g.roundMark else Mk.eod 4) else match lvl with | some k => .eod k | none => .none
        let off := ((List.range 4).map (fun k => shStr e.shape k * ((g.cnt.getD k 0 : Nat) : Int))).sum
        let p : AgPlan :=
          { valid := d.lanes b, acts := d.lanes b,
            addrs := fun j => (List.range (shEsize e.shape)).map (fun (i : Nat) =>
              wrapNat ((base : Int) + (j * 2 ^ d.tshift : Nat) + off + i) 64) }
        match s.agPerform s e p (g.cur.getD {}) g.cur.isNone (fun _ => g.cnt) with
        | .stay s => s
        | .done pos _ s =>
          let s := s.agSend e (e.tokens p pos m) true
          if blockEnd && last then s.agRoundEnd e g.final
          else
            let g := (s.cl e.c).ag e.a
            put s (if blockEnd then { g with cur := none, cnt := [0, 0, 0, 0, b + 1], block := none }
                   else { g with cur := none, cnt := next ++ [b] })

/-! ### Starting a round (R190, R193) -/

/-- The lanes that PSEL reads. -/
def pselLanes (psel : Nat) : List Nat := if psel = 0 then [0, 1] else [0]

/-- A P token's effect on the fields of a round (R190). -/
def AgEnv.takeParam (e : AgEnv) (g : Ag) (t : Token) : Ag :=
  let n := e.f.psel.toNat
  if (pselLanes n).all (fun i => t.has i && !t.bad i) then
    if n = 0 then { g with base := t.lane 1 * 2 ^ 32 + t.lane 0 } else { g with ext := setIdx g.ext (n - 1) (t.lane 0 % 2 ^ 20) }
  else g

/-- The P token that is next: from the parameter queue, or from slot P. -/
def Ag.popParam (g : Ag) : Option (Token × Ag) :=
  match g.params with
  | (t, _) :: r => some (t, { g with params := r, lk := { g.lk with slotEos := if t.ends then insertNat 3 g.lk.slotEos else g.lk.slotEos } })
  | [] => (g.lk.popSlot 3 (g.fg.getD {}).cfg).map (fun r => (r.1, { g with lk := r.2 }))

/-- The round is empty (R189): the nest's extents, or for AGBT those of levels 0 to 3. -/
def AgEnv.noElems (e : AgEnv) (g : Ag) : Bool := !e.indexed && (g.ext.take (if e.op = agBt then 4 else 5)).any (fun x => x == 0)

/-- A turn before a round: the P token, then the order token. -/
def State.agStart (s : State) (e : AgEnv) (pDone : Bool) : State :=
  let g := (s.cl e.c).ag e.a
  let put := fun (s : State) (g : Ag) => s.setCl e.c ((s.cl e.c).setAg e.a g)
  if e.f.en.getLsbD 3 && !pDone then
    match g.popParam with
    | none => s
    | some (t, g') =>
      if t.isMarker && t.ends then
        -- the AG ends without a round
        if !g.room e then s
        else
          let (ok, s) := s.agPower e
          if !ok then s
          else
            let s := put s { g' with phase := .drain, owed := if e.f.otout then g'.owed ++ [true] else g'.owed }
            (s.agSend e (e.markOnly .eos) true).agPortEnd e
      else
        let bad := (pselLanes e.f.psel.toNat).filter (fun i => t.has i && t.bad i)
        let g' := if bad.isEmpty then e.takeParam g' t else { g' with empty := true }
        bad.foldl (fun s i => s.agCheck e 3 0 0 i) (put s { g' with final := t.ends, phase := .start true })
  else
    let g := if e.f.en.getLsbD 3 then g else { g with final := true }
    if e.f.otin && !g.licensed then
      match g.lk.popSlot 2 (g.fg.getD {}).cfg with
      | none => s
      | some (t, lk) => put s { g with lk := lk, licensed := t.ends, phase := .walk }
    else put s { g with phase := .walk }

/-! ### Turns -/

/-- The AG hands a token over to the tile it faces (R162), once the kills that have reached it have acted. -/
def State.agDeliver (s : State) (c a o : Nat) (w : Word32) : State :=
  let s := s.setCl c ((s.cl c).takeKills (256 + a))
  let g := (s.cl c).ag a
  match g.lk.out (4 + o) with
  | [] => s
  | x :: rest =>
    match (s.cl c).offer (.input (agTile a) (agSide a)) (agVc w.toNat o) (g.fg.getD {}).cfg x.tok with
    | none => s
    | some k =>
      let g := k.ag a
      let lk := g.lk.setOut (4 + o) rest
      let (fall, lk) := lk.accepted (x.fids.map (fun i => copyId i 0))
      (s.setCl c (k.setAg a { g with lk := lk })).censusFall c (k.agOwner a) fall

/-- After its end the AG discards what its slots still receive, until each has delivered EOS (R191). -/
def State.agDrain (s : State) (e : AgEnv) : State :=
  e.slots.foldl (fun s i =>
    let g := (s.cl e.c).ag e.a
    if g.lk.slotEos.contains i then s
    else
      let r := if i = 3 then g.popParam else (g.lk.popSlot i (g.fg.getD {}).cfg).map (fun r => (r.1, { g with lk := r.2 }))
      match r with
      | none => s
      | some (_, g) => s.setCl e.c ((s.cl e.c).setAg e.a g)) s |> (fun s => s.agSend e [] true)

/-- One turn of an AG. -/
def State.agTurn (s : State) (op : Nat) (f : AgF) : State :=
  let c := s.here
  let a := (s.actor.unit - 256) % 32
  let k := s.cl c
  match (k.ag a).fg with
  | none => s
  | some g0 =>
    if k.isFrozen (256 + a) then s
    else
      let s := (s.agDeliver c a 0 g0.word).agDeliver c a 1 g0.word
      let g := (s.cl c).ag a
      if g.fg.isNone || g.stopped then s
      else
        let e := s.agEnv c a op f
        match g.phase with
        | .start d => s.agStart e d
        | .drain => s.agDrain e
        | .walk =>
          if g.empty || e.noElems g then s.agEmpty e
          else if e.indexed then s.indexTurn e
          else if op = agBt then s.blockTurn e
          else s.nestTurn e

def execAgld (f : AgF) (s : State) : Host.Outcome State Fault Refusal := .next (s.agTurn agLd f)
def execAgst (f : AgF) (s : State) : Host.Outcome State Fault Refusal := .next (s.agTurn agSt f)
def execAgga (f : AgF) (s : State) : Host.Outcome State Fault Refusal := .next (s.agTurn agGa f)
def execAgsc (f : AgF) (s : State) : Host.Outcome State Fault Refusal := .next (s.agTurn agSc f)
def execAgsel (f : AgF) (s : State) : Host.Outcome State Fault Refusal := .next (s.agTurn agSel f)
def execAgbt (f : AgF) (s : State) : Host.Outcome State Fault Refusal := .next (s.agTurn agBt f)
def execAgamo (f : AgF) (s : State) : Host.Outcome State Fault Refusal := .next (s.agTurn agAmo f)
def execAgpf (f : AgF) (s : State) : Host.Outcome State Fault Refusal := .next (s.agTurn agPf f)

/-- ORDER_TOKEN_EMIT (R193): every access of the oldest unreported round is performed at SCOPE, and its order token
leaves on output 1, with EOS for the final round. -/
def execOrderTokenEmit (s : State) : Host.Outcome State Fault Refusal :=
  let c := s.here
  let a := (s.actor.unit - 256) % 32
  let k := s.cl c
  let g := k.ag a
  .next (match g.owed, g.fg with
    | fin :: rest, some x =>
      if k.isFrozen (256 + a) || g.stopped || !g.lk.outRoom 1 then s
      else
        let (ok, s) := s.drawPower c (256 + a) 1 1
        if !ok then s
        else
          -- the round's own accesses, and those of every round that it descends from (R294)
          let sc := scopeOf (BitVec.ofNat 2 (fld x.word.toNat 28 27))
          let s := (a :: provAgs g.lk.prov).foldl (fun s b => s.deliverKnown (agentAg c b) (dieOf c) sc) s
          let g := (s.cl c).ag a
          let id0 := g.lk.nextId
          let (_, lk) := (g.lk.sendWords 1 [g.mine a (orderToken (if fin then .eos else .none))]).fired (fun _ => [0]) id0 0
          s.setCl c ((s.cl c).setAg a { g with lk := lk, owed := rest })
    | _, _ => s)

/-- RESUME restarts a stopped AG at its fault point (R195). -/
def Ag.resume (g : Ag) : Ag := { g with stopped := false }

end Sys2Proof.Machine
end

