-- ==== Sys2Proof/Machine/Crypto.lean ====
section
/-! DEFINITION. SHA-256 (FIPS 180-4), AES-256 (FIPS 197) and GCM (NIST SP 800-38D), as R383, R384 and R420 use them. -/

namespace Sys2Proof.Machine

/-! ### SHA-256 -/

/-- The round constants. -/
def shaK : List (BitVec 32) :=
  [0x428a2f98, 0x71374491, 0xb5c0fbcf, 0xe9b5dba5, 0x3956c25b, 0x59f111f1, 0x923f82a4, 0xab1c5ed5] ++
  [0xd807aa98, 0x12835b01, 0x243185be, 0x550c7dc3, 0x72be5d74, 0x80deb1fe, 0x9bdc06a7, 0xc19bf174] ++
  [0xe49b69c1, 0xefbe4786, 0x0fc19dc6, 0x240ca1cc, 0x2de92c6f, 0x4a7484aa, 0x5cb0a9dc, 0x76f988da] ++
  [0x983e5152, 0xa831c66d, 0xb00327c8, 0xbf597fc7, 0xc6e00bf3, 0xd5a79147, 0x06ca6351, 0x14292967] ++
  [0x27b70a85, 0x2e1b2138, 0x4d2c6dfc, 0x53380d13, 0x650a7354, 0x766a0abb, 0x81c2c92e, 0x92722c85] ++
  [0xa2bfe8a1, 0xa81a664b, 0xc24b8b70, 0xc76c51a3, 0xd192e819, 0xd6990624, 0xf40e3585, 0x106aa070] ++
  [0x19a4c116, 0x1e376c08, 0x2748774c, 0x34b0bcb5, 0x391c0cb3, 0x4ed8aa4a, 0x5b9cca4f, 0x682e6ff3] ++
  [0x748f82ee, 0x78a5636f, 0x84c87814, 0x8cc70208, 0x90befffa, 0xa4506ceb, 0xbef9a3f7, 0xc67178f2]

/-- The initial hash value. -/
def shaInit : List (BitVec 32) :=
  [0x6a09e667, 0xbb67ae85, 0x3c6ef372, 0xa54ff53a, 0x510e527f, 0x9b05688c, 0x1f83d9ab, 0x5be0cd19]

/-- Big-endian value of bytes. -/
def beNat (bs : List Byte) : Nat := bs.foldl (fun n b => n * 256 + b.toNat) 0

/-- Big-endian bytes of a value. -/
def beBytes (n v : Nat) : List Byte := (toBytes n v).reverse

/-- The message schedule, extended by one word per step; the newest word first. -/
def shaExtend : Nat → List (BitVec 32) → List (BitVec 32)
  | 0, w => w
  | n + 1, w =>
    let x := w.getD 14 0
    let y := w.getD 1 0
    let s0 := x.rotateRight 7 ^^^ x.rotateRight 18 ^^^ x >>> 3
    let s1 := y.rotateRight 17 ^^^ y.rotateRight 19 ^^^ y >>> 10
    shaExtend n ((w.getD 15 0 + s0 + w.getD 6 0 + s1) :: w)

/-- One round on the working variables. -/
def shaRound (v : List (BitVec 32)) (kw : BitVec 32 × BitVec 32) : List (BitVec 32) :=
  match v with
  | [a, b, c, d, e, f, g, h] =>
    let s1 := e.rotateRight 6 ^^^ e.rotateRight 11 ^^^ e.rotateRight 25
    let ch := (e &&& f) ^^^ (~~~e &&& g)
    let t1 := h + s1 + ch + kw.1 + kw.2
    let s0 := a.rotateRight 2 ^^^ a.rotateRight 13 ^^^ a.rotateRight 22
    let maj := (a &&& b) ^^^ (a &&& c) ^^^ (b &&& c)
    [t1 + (s0 + maj), a, b, c, d + t1, e, f, g]
  | _ => v

/-- Compresses one 64-byte block. -/
def shaBlock (h : List (BitVec 32)) (block : List Byte) : List (BitVec 32) :=
  let w0 := (List.range 16).map (fun i => BitVec.ofNat 32 (beNat ((block.drop (4 * i)).take 4)))
  let w := (shaExtend 48 w0.reverse).reverse
  let v := (shaK.zip w).foldl shaRound h
  (h.zip v).map (fun e => e.1 + e.2)

/-- SHA-256. -/
def sha256 (bs : List Byte) : List Byte :=
  let n := bs.length
  let padded := bs ++ 0x80#8 :: (List.replicate ((119 - n % 64) % 64) 0#8 ++ beBytes 8 (8 * n))
  let h := (List.range (padded.length / 64)).foldl (fun h i => shaBlock h ((padded.drop (64 * i)).take 64)) shaInit
  h.flatMap (fun x => beBytes 4 x.toNat)

/-! ### AES-256 -/

/-- Multiplication by x in GF(2^8). -/
def gfX (b : Byte) : Byte := (b <<< 1) ^^^ (if b.getLsbD 7 then 0x1b#8 else 0#8)

/-- Multiplication in GF(2^8), `n` bits of the second factor. -/
def gfMulN : Nat → Byte → Byte → Byte
  | 0, _, _ => 0
  | n + 1, a, b => (if b.getLsbD 0 then a else 0#8) ^^^ gfMulN n (gfX a) (b >>> 1)

/-- Multiplication in GF(2^8). -/
def gfMul (a b : Byte) : Byte := gfMulN 8 a b

/-- The inverse in GF(2^8), a^254; 0 for 0. -/
def gfInv (a : Byte) : Byte :=
  let a2 := gfMul a a
  let a3 := gfMul a2 a
  let a6 := gfMul a3 a3
  let a12 := gfMul a6 a6
  let a15 := gfMul a12 a3
  let a30 := gfMul a15 a15
  let a60 := gfMul a30 a30
  let a120 := gfMul a60 a60
  let a126 := gfMul a120 a6
  let a127 := gfMul a126 a
  gfMul a127 a127

/-- SubBytes on one byte. -/
def subByte (a : Byte) : Byte :=
  let b := gfInv a
  b ^^^ b.rotateLeft 1 ^^^ b.rotateLeft 2 ^^^ b.rotateLeft 3 ^^^ b.rotateLeft 4 ^^^ 0x63#8

/-- The S-box as a table. -/
def sbox : List Byte := (List.range 256).map (fun i => subByte (BitVec.ofNat 8 i))

/-- SubBytes by table. -/
def sub (a : Byte) : Byte := sbox.getD a.toNat 0

/-- Bytewise exclusive or. -/
def xorBytes (a b : List Byte) : List Byte := (a.zip b).map (fun e => e.1 ^^^ e.2)

/-- The key schedule, extended by one four-byte word per step; the newest word first. -/
def aesExpand : Nat → Nat → Byte → List (List Byte) → List (List Byte)
  | 0, _, _, w => w
  | n + 1, i, rc, w =>
    let t := w.getD 0 []
    let t' := if i % 8 = 0 then xorBytes (((t.drop 1) ++ t.take 1).map sub) [rc, 0, 0, 0]
      else if i % 8 = 4 then t.map sub else t
    aesExpand n (i + 1) (if i % 8 = 0 then gfX rc else rc) (xorBytes (w.getD 7 []) t' :: w)

/-- The 15 round keys of a 256-bit key. -/
def aesKeys (key : List Byte) : List (List Byte) :=
  let w := (aesExpand 52 8 1 ((List.range 8).map (fun i => (key.drop (4 * i)).take 4)).reverse).reverse
  (List.range 15).map (fun r => ((w.drop (4 * r)).take 4).flatten)

/-- ShiftRows on a state in column order. -/
def shiftRows (s : List Byte) : List Byte := (List.range 16).map (fun i => s.getD ((i + 4 * (i % 4)) % 16) 0)

/-- MixColumns on one column. -/
def mixColumn (c : List Byte) : List Byte :=
  (List.range 4).map (fun i =>
    gfX (c.getD i 0) ^^^ (gfX (c.getD ((i + 1) % 4) 0) ^^^ c.getD ((i + 1) % 4) 0) ^^^ c.getD ((i + 2) % 4) 0 ^^^
      c.getD ((i + 3) % 4) 0)

/-- MixColumns. -/
def mixColumns (s : List Byte) : List Byte := (List.range 4).flatMap (fun i => mixColumn ((s.drop (4 * i)).take 4))

/-- The cipher of AES-256 on a 16-byte block, with the round keys. -/
def aesBlock (ks : List (List Byte)) (b : List Byte) : List Byte :=
  match ks with
  | [] => b
  | k0 :: rest =>
    let s := rest.dropLast.foldl (fun s k => xorBytes (mixColumns (shiftRows (s.map sub))) k) (xorBytes b k0)
    xorBytes (shiftRows (s.map sub)) (rest.getLastD [])

/-- The inverse S-box as a table. -/
def sboxInv : List Byte :=
  (List.range 256).map (fun i => BitVec.ofNat 8 (sbox.findIdx (fun b => b.toNat == i)))

/-- InvShiftRows. -/
def invShiftRows (s : List Byte) : List Byte := (List.range 16).map (fun i => s.getD ((i + 16 - 4 * (i % 4)) % 16) 0)

/-- InvMixColumns on one column. -/
def invMixColumn (c : List Byte) : List Byte :=
  (List.range 4).map (fun i =>
    gfMul 14 (c.getD i 0) ^^^ gfMul 11 (c.getD ((i + 1) % 4) 0) ^^^ gfMul 13 (c.getD ((i + 2) % 4) 0) ^^^
      gfMul 9 (c.getD ((i + 3) % 4) 0))

/-- InvMixColumns. -/
def invMixColumns (s : List Byte) : List Byte := (List.range 4).flatMap (fun i => invMixColumn ((s.drop (4 * i)).take 4))

/-- The inverse cipher of AES-256, with the round keys in the cipher's order. -/
def aesUnblock (ks : List (List Byte)) (b : List Byte) : List Byte :=
  match ks.reverse with
  | [] => b
  | k0 :: rest =>
    let unsub := fun (s : List Byte) => (invShiftRows s).map (fun x => sboxInv.getD x.toNat 0)
    let s := rest.dropLast.foldl (fun s k => invMixColumns (xorBytes (unsub s) k)) (xorBytes b k0)
    xorBytes (unsub s) (rest.getLastD [])

/-- One step of the key unwrapping of RFC 3394: register A and the registers R. -/
def unwrapStep (ks : List (List Byte)) (n t : Nat) (x : List Byte × List (List Byte)) : List Byte × List (List Byte) :=
  let i := (t - 1) % n
  let b := aesUnblock ks (xorBytes x.1 (beBytes 8 t) ++ x.2.getD i [])
  (b.take 8, setIdx x.2 i (b.drop 8))

/-- The key unwrapping of RFC 3394: the 32-byte key in 40 bytes; `none` where the check value is wrong. -/
def keyUnwrap (kek wrapped : List Byte) : Option (List Byte) :=
  let ks := aesKeys kek
  let r := (List.range 24).foldl (fun x i => unwrapStep ks 4 (24 - i) x)
    (wrapped.take 8, (List.range 4).map (fun i => (wrapped.drop (8 + 8 * i)).take 8))
  if r.1 = List.replicate 8 0xA6#8 then some r.2.flatten else none

/-! ### GCM -/

/-- Multiplication in GF(2^128) of SP 800-38D: bit 0 of a block is its most significant bit. -/
def gcmMulN : Nat → Nat → Nat → Nat → Nat
  | 0, _, _, z => z
  | n + 1, x, v, z =>
    let z := if x.testBit n then z ^^^ v else z
    let v := if v.testBit 0 then (v >>> 1) ^^^ (0xe1 <<< 120) else v >>> 1
    gcmMulN n x v z

/-- GHASH of a byte string whose length is a multiple of 16. -/
def ghash (h : Nat) (bs : List Byte) : Nat :=
  (List.range (bs.length / 16)).foldl (fun y i => gcmMulN 128 (y ^^^ beNat ((bs.drop (16 * i)).take 16)) h 0) 0

/-- Zero bytes up to a multiple of 16. -/
def pad16 (bs : List Byte) : List Byte := bs ++ List.replicate ((16 - bs.length % 16) % 16) 0#8

/-- Counter-mode encryption from a counter block on. -/
def gctr (ks : List (List Byte)) (j0 : Nat) (bs : List Byte) : List Byte :=
  (List.range ((bs.length + 15) / 16)).flatMap (fun i =>
    let cb := j0 - j0 % 2 ^ 32 + (j0 % 2 ^ 32 + i) % 2 ^ 32
    xorBytes ((bs.drop (16 * i)).take 16) (aesBlock ks (beBytes 16 cb)))

/-- The tag of a ciphertext. -/
def gcmTag (ks : List (List Byte)) (j0 : Nat) (aad cipher : List Byte) : List Byte :=
  let h := beNat (aesBlock ks (List.replicate 16 0#8))
  let g := ghash h (pad16 aad ++ pad16 cipher ++ beBytes 8 (8 * aad.length) ++ beBytes 8 (8 * cipher.length))
  gctr ks j0 (beBytes 16 g)

/-- AES-256-GCM with a 96-bit IV: the ciphertext followed by the 16-byte tag (R383). -/
def gcmSeal (key iv aad msg : List Byte) : List Byte :=
  let ks := aesKeys key
  let j0 := beNat iv * 2 ^ 32 + 1
  let c := gctr ks (j0 + 1) msg
  c ++ gcmTag ks j0 aad c

/-- The plaintext of a sealed record; `none` where its tag does not verify. -/
def gcmOpen (key iv aad box : List Byte) : Option (List Byte) :=
  let ks := aesKeys key
  let j0 := beNat iv * 2 ^ 32 + 1
  let c := box.take (box.length - 16)
  if gcmTag ks j0 aad c = box.drop (box.length - 16) then some (gctr ks (j0 + 1) c) else none

end Sys2Proof.Machine
end

