-- ==== Sys2Proof/Machine/Image.lean ====
section
/-! DEFINITION. Configuration images (R183 to R185) and the judgement of CFG (R152 to R171). -/

namespace Sys2Proof.Machine

/-- CSTAT codes (R170). -/
def cUndef : Nat := 1
def cRsv : Nat := 2
def cField : Nat := 3
def cSlots : Nat := 4
def cFmt : Nat := 5
def cRoute : Nat := 6
def cImage : Nat := 7

/-- The status word of R170. -/
def cfgStatus (cstat kind x y u w : Nat) : Nat :=
  cstat + kind % 16 * 2 ^ 8 + x % 16 * 2 ^ 12 + y % 16 * 2 ^ 16 + u % 32 * 2 ^ 20 + w % 64 * 2 ^ 25

/-- The first code of several that is not 0. -/
def firstCode (cs : List (Bool × Nat)) : Nat :=
  match cs.find? (fun c => c.1) with
  | some c => c.2
  | none => 0

/-! ### PE words (R153 to R159) -/

/-- What an operation accepts: data slots, the starred slot, MOD codes, tags, ACT, output 1, and the use of IMM: 0 as
R154 says, 1 three bits, 2 any value. -/
structure PeSpec where
  slots : Nat
  star : Option Nat := none
  mods : Nat := 1
  types : List Nat := List.range 16
  act : Bool := false
  out1 : Bool := false
  imm : Nat := 0

def tysInt : List Nat := [1, 2, 9, 10, 11, 12]
def tysBits : List Nat := [0, 1, 2, 9, 10, 11, 12]
def tysRaw : List Nat := [0, 1, 2]
def tysFloat : List Nat := [3, 4]
def tysAll : List Nat := List.range 13
def tysConv : List Nat := (List.range 12).map (· + 1)

def peSpec (op : Nat) : Option PeSpec :=
  match op with
  | 0x00 => some { slots := 3, star := some 1, mods := 2, types := tysInt }
  | 0x01 => some { slots := 3, star := some 1, mods := 2, types := tysInt }
  | 0x02 => some { slots := 3, star := some 1, mods := 2, types := tysInt }
  | 0x03 => some { slots := 3, star := some 1, types := [1, 2] }
  | 0x04 => some { slots := 3, star := some 1, mods := 2, types := tysInt }
  | 0x05 => some { slots := 3, star := some 1, mods := 2, types := tysInt }
  | 0x06 => some { slots := 1, mods := 2, types := [1, 9, 10, 12] }
  | 0x07 => some { slots := 3, star := some 1, types := tysBits }
  | 0x08 => some { slots := 3, star := some 1, types := tysBits }
  | 0x09 => some { slots := 3, star := some 1, types := tysBits }
  | 0x0A => some { slots := 3, star := some 1, types := tysBits }
  | 0x0B => some { slots := 3, star := some 1, types := tysBits }
  | 0x0C => some { slots := 3, star := some 1, types := tysBits }
  | 0x0D => some { slots := 7, star := some 2, types := tysRaw }
  | 0x0E => some { slots := 7, star := some 2, types := tysRaw }
  | 0x0F => some { slots := 1, types := tysRaw }
  | 0x10 => some { slots := 1, types := tysRaw }
  | 0x11 => some { slots := 1, types := tysRaw }
  | 0x12 => some { slots := 3, star := some 1, mods := 10, types := tysInt }
  | 0x13 => some { slots := 7, types := tysAll }
  | 0x14 => some { slots := 3, star := some 1, mods := 6, types := tysFloat }
  | 0x15 => some { slots := 3, star := some 1, mods := 6, types := tysFloat }
  | 0x16 => some { slots := 3, star := some 1, mods := 6, types := tysFloat }
  | 0x17 => some { slots := 7, star := some 2, mods := 6, types := tysFloat }
  | 0x18 => some { slots := 3, star := some 1, mods := 2, types := tysFloat }
  | 0x19 => some { slots := 3, star := some 1, mods := 2, types := tysFloat }
  | 0x1A => some { slots := 3, star := some 1, mods := 8, types := tysFloat }
  | 0x1B => some { slots := 1, mods := 6, types := tysConv }
  | 0x1C => some { slots := 1, mods := 6, types := tysConv, act := true }
  | 0x1D => some { slots := 1, mods := 6, types := tysConv, act := true }
  | 0x1E => some { slots := 1, types := tysAll }
  | 0x1F => some { slots := 3, star := some 1, types := tysAll }
  | 0x20 => some { slots := 3, star := some 1, types := tysRaw, act := true }
  | 0x21 => some { slots := 3, star := some 1, types := tysRaw, act := true }
  | 0x22 => some { slots := 1, types := [1, 2], act := true }
  | 0x23 => some { slots := 3, types := tysAll, act := true }
  | 0x24 => some { slots := 3, types := tysAll, act := true, out1 := true }
  | 0x25 => some { slots := 1, types := [1, 2], act := true }
  | 0x26 => some { slots := 1, types := tysAll, act := true, imm := 1 }
  | 0x27 => some { slots := 1, types := tysAll, imm := 1 }
  | 0x28 => some { slots := 3, mods := 2, types := tysAll, act := true }
  | 0x29 => some { slots := 3, types := [0] }
  | 0x40 => some { slots := 3, star := some 1 }
  | 0x41 => some { slots := 3, star := some 1 }
  | 0x42 => some { slots := 3, star := some 1 }
  | 0x43 => some { slots := 7, star := some 2 }
  | 0x44 => some { slots := 3, star := some 1 }
  | 0x45 => some { slots := 1 }
  | 0x46 => some { slots := 1 }
  | 0x47 => some { slots := 1 }
  | 0x48 => some { slots := 1 }
  | 0x49 => some { slots := 1 }
  | 0x4A => some { slots := 1, imm := 2 }
  | 0x4B => some { slots := 3, star := some 1, mods := 2 }
  | 0x4C => some { slots := 3, star := some 1, mods := 6, out1 := true }
  | 0x4D => some { slots := 1 }
  | 0x4E => some { slots := 3, mods := 2, act := true, out1 := true }
  | 0x4F => some { slots := 7 }
  | 0x50 => some { slots := 1, act := true }
  | _ => none

/-- A set of slots `a` holds every slot of `b`. -/
def holds (a b : Nat) : Bool := (List.range 4).all (fun i => !bit b i || bit a i)

/-- The judgement of a PE word (R157, R171); the idle word is accepted (R184). -/
def judgePe (w : Nat) : Nat :=
  if w = 0 then 0
  else match peSpec (fld w 31 25) with
    | none => cUndef
    | some p =>
      let op := fld w 31 25
      let mod := fld w 24 21
      let imm := fld w 20 16
      let ty := fld w 15 12
      let pred := fld w 7 6
      let mkb := fld w 5 4
      let en := fld w 3 0
      let data := en % 8
      let starOn := match p.star with | some i => bit data i | none => false
      let immBad := match p.imm with
        | 1 => imm / 8 != 0
        | 2 => false
        | _ => if p.star.isSome && !starOn then imm / 8 == 3 else imm != 0
      let need := match p.star with | some i => p.slots - 2 ^ i | none => p.slots
      let most := if op = 0x29 then 7 else p.slots
      firstCode [
        (decide (p.mods ≤ mod) || !p.types.contains ty ||
          ((op == 0x1C || op == 0x1D) && decide (3 ≤ mod) && !tysInt.contains ty) ||
          pred == 3 || mkb == 3 || (mkb == 1 && !p.act) ||
          (op == 0x28 && (pred != 0 || bit en 3)) || (op == 0x29 && pred != 0) || immBad, cField),
        (!holds data need || !holds most data || (pred != 0) != bit en 3, cSlots)]

/-- The judgement of a policy entry (R125). -/
def judgePol (x : Nat) : Nat := if x / 2 ^ 7 != 0 then cRsv else if decide (4 < fld x 6 4) then cField else 0

/-! ### MT words (R160, R161, R203) -/

/-- Operands, output, MOD codes and ACT of an MT opcode. -/
def mtSpec : Nat → Option (Nat × Bool × Nat × Bool)
  | 0 => some (1, true, 1, false)
  | 1 => some (2, false, 1, false)
  | 2 => some (1, true, 1, true)
  | 3 => some (1, true, 1, true)
  | 4 => some (1, true, 1, false)
  | 5 => some (1, true, 1, true)
  | 6 => some (1, true, 2, false)
  | 7 => some (2, false, 2, false)
  | 8 => some (1, false, 1, false)
  | _ => none

def judgeMt (w : Nat) : Nat :=
  match mtSpec (fld w 31 28) with
  | none => cUndef
  | some (n, out, mods, act) =>
    let op := fld w 31 28
    let span := fld w 15 12
    let mkb := fld w 5 4
    firstCode [
      (bit w 6, cRsv),
      (decide (12 < span) || decide (4096 < fld w 27 16 + 2 ^ span) || decide (mods ≤ fld w 11 8) || mkb == 3 ||
        (mkb == 1 && !act) || (!out && bit w 7) || ((op == 2 || op == 3) && decide (span < 4)), cField),
      (((List.range 4).filter (fun i => bit w i)).length != n, cSlots)]

/-- The judgement of word `i` of a tile's MT words, given those before it: an earlier word's slot, an earlier word's
output (R161). -/
def judgeMtAfter (before : List Nat) (w : Nat) : Nat :=
  let hasOut := fun (x : Nat) => match mtSpec (fld x 31 28) with | some (_, o, _, _) => o | none => false
  firstCode [
    (judgeMt w != 0, judgeMt w),
    (before.any (fun v => (List.range 4).any (fun i => bit v i && bit w i)), cSlots),
    (hasOut w && before.any (fun v => hasOut v && bit v 7 == bit w 7), cRoute)]

/-! ### AG words and shape records (R162 to R164, R198 to R202) -/

def judgeAg (w : Nat) : Nat :=
  let op := agOp w
  let psel := fld w 20 18
  let mkb := fld w 5 4
  let mods := match op with | 4 => 2 | 5 => 2 | 6 => 9 | 7 => 2 | _ => 1
  let out := agHasOut op
  let (req, opt) := match op with | 1 => (2, 1) | 2 => (1, 0) | 3 => (3, 0) | 4 => (1, 0) | 6 => (3, 0) | _ => (0, 0)
  let ab := fld w 1 0
  firstCode [
    (fld w 9 6 != 0, cRsv),
    (decide (6 ≤ psel) || bit mkb 0 || decide (mods ≤ fld w 17 14) || (op == 1 && mkb != 0) ||
      (!out && agVc w 0 != 0) || (!agOtout w && agVc w 1 != 0) || (out && agOtout w && agVc w 0 == agVc w 1) ||
      (psel != 0 && (!bit w 3 || op == 2 || op == 3 || op == 6)), cField),
    (bit w 2 != agOtin w || !holds ab req || !holds (req + opt) ab, cSlots)]

def judgeShape (x op : Nat) : Nat :=
  let wrap := fld x 328 327
  let wlog := fld x 333 329
  firstCode [
    (x / 2 ^ 338 != 0, cRsv),
    (decide (2 < fld x 326 324) || decide (1 < wrap) || decide (12 < fld x 337 334) ||
      (wrap == 1 && !(decide (9 ≤ wlog) && decide (wlog ≤ 30))) || (wrap == 0 && wlog != 0) ||
      (op == 6 && fld x 326 324 != 2) || (op == 5 && wrap != 0), cField)]

/-! ### Island words (R165 to R167, R260) -/

/-- The bits of the fields that an operation uses. -/
def isleUsed : Nat → Nat
  | 0 => 0x3FFFC04
  | 2 => 0x3C003F8
  | 3 => 0x003C000
  | 4 => 0x3FFFC00
  | 5 => 0x3C00000
  | 6 => 0x03C3C00
  | 7 => 0x3C003C0
  | 8 => 0x003C000
  | _ => 0

/-- Codes of integer formats. -/
def intFmt (c : Nat) : Bool := c == 0xA || c == 0xB

/-- The judgement of island word `w` at index `i` of a program of `n` words. -/
def judgeIsle (w i n : Nat) : Nat :=
  let op := w / 2 ^ 26
  let af := fld w 25 22
  let bf := fld w 21 18
  if 9 < op then cUndef
  else if w % 4 != 0 then cRsv
  else if op = 9 then firstCode [(fld w 19 2 != 0 || bit w 25 || decide (n ≤ i + 2), cField)]
  else
    let pair := op == 0 || op == 4
    firstCode [
      ((w % 2 ^ 26) &&& (0x3FFFFFC - isleUsed op) != 0, cField),
      (pair && (decide (13 < af) || decide (13 < bf) || fld w 17 14 == fld w 13 10), cField),
      ((op == 2 || op == 7) && decide (7 < af), cField),
      (op == 2 && af == 7 && (bit w 5 || bit w 4 || bit w 3), cField),
      (op == 5 && decide (13 < af), cField),
      (op == 6 && decide (13 < bf), cField),
      (op == 0 && intFmt af != intFmt bf, cFmt),
      (op == 4 && (intFmt af || intFmt bf), cFmt),
      (op == 7 && af == 7, cFmt),
      (op == 5 && af != 0xC && af != 8, cFmt),
      (op == 6 && (bf == 6 || bf == 7 || intFmt bf), cFmt)]

/-- The first failing word of a program from index `i`; `skip` literals are passed over. -/
def judgeProg (n : Nat) : Nat → Nat → List Nat → Option (Nat × Nat)
  | _, _, [] => none
  | skip + 1, i, _ :: t => judgeProg n skip (i + 1) t
  | 0, i, w :: t =>
    let c := judgeIsle w i n
    if c = 0 then judgeProg n (if w / 2 ^ 26 = 9 then 2 else 0) (i + 1) t else some (c, i)

/-! ### Images (R183) -/

/-- A record of an image. -/
structure ImgRec where
  rtype : Nat
  x : Nat
  y : Nat
  u : Nat
  payload : List Byte
  deriving DecidableEq, Repr, Inhabited

/-- An image as read: header fields, binding entries and records. -/
structure Image where
  va : Nat
  psid : Nat
  w : Nat
  h : Nat
  binds : List Nat
  recs : List ImgRec
  deriving DecidableEq, Repr, Inhabited

/-- A binding entry's fields (R185). -/
def biSide (x : Nat) : Nat := fld x 16 16
def biRow (x : Nat) : Nat := fld x 20 17
def biOut (x : Nat) : Bool := bit x 21
def biPath (x : Nat) : Nat := fld x 23 22
def biBank (x : Nat) : Nat := fld x 29 24

/-- The record has a legal kind, coordinate, length and index, and matches the tile's parity (R184).  Contents of a memory
tile with n = 0 (PLEN 4) are no legal length, the model's choice (assumption 67). -/
def ImgRec.shaped (r : ImgRec) (w h : Nat) : Bool :=
  let n := r.payload.length
  let tile := decide (r.x < 4 * w) && decide (r.y < 4 * h)
  let pe := (r.x + r.y) % 2 == 0
  match r.rtype with
  | 1 => tile && pe && n == 4 && r.u == 0
  | 2 => tile && !pe && n == 4 && decide (r.u < 4)
  | 3 => tile && n == 2 && decide (r.u < 8)
  | 4 => tile && pe && n == 2 && decide (r.u < 16)
  | 5 => tile && pe && n == 65 && decide (r.u < 8)
  | 6 => tile && n == 72 && r.u == 0
  | 7 => tile && !pe && decide (8 ≤ n) && n % 4 == 0 && r.u == 0 &&
      decide (ofBytes (r.payload.take 4) + (n / 4 - 1) ≤ 4096)
  | 8 => decide (r.x < 2) && decide (r.y < 4 * h) && n == 56 && r.u == 0 && (r.payload.drop 4 |>.take 4).all (fun b => b == 0)
  | 9 => r.x == 0 && r.y == 0 && decide (4 ≤ n) && decide (n ≤ 256) && n % 4 == 0 && decide (r.u < 4)
  | _ => false

/-- Two records give the same item, or overlapping MT contents. -/
def ImgRec.clash (a b : ImgRec) : Bool :=
  a.rtype == b.rtype && a.x == b.x && a.y == b.y &&
  (if a.rtype = 7 then
    let p := ofBytes (a.payload.take 4)
    let q := ofBytes (b.payload.take 4)
    decide (p < q + (b.payload.length / 4 - 1)) && decide (q < p + (a.payload.length / 4 - 1))
   else a.u == b.u)

/-- The records that stand, and the malformed ones. -/
def splitRecs (w h : Nat) (rs : List ImgRec) : List ImgRec × List ImgRec :=
  rs.foldl (fun (acc : List ImgRec × List ImgRec) r =>
    if r.shaped w h && !acc.1.any (fun q => q.clash r) then (acc.1 ++ [r], acc.2) else (acc.1, acc.2 ++ [r])) ([], [])

/-- The item of a kind at a place. -/
def Image.item (m : Image) (rtype x y u : Nat) : Option ImgRec :=
  m.recs.find? (fun r => r.rtype == rtype && r.x == x && r.y == y && r.u == u)

/-- A record's payload as a number. -/
def ImgRec.value (r : ImgRec) : Nat := ofBytes r.payload

def Image.peWord (m : Image) (x y : Nat) : Nat := ((m.item 1 x y 0).map ImgRec.value).getD 0
def Image.mtWords (m : Image) (x y : Nat) : List (Nat × Nat) :=
  (List.range 4).filterMap (fun i => (m.item 2 x y i).map (fun r => (i, r.value)))
def Image.swWord (m : Image) (x y i : Nat) : Option Nat := (m.item 3 x y i).map ImgRec.value
def Image.agWord (m : Image) (side row : Nat) : Option Nat := (m.item 8 side row 0).map (fun r => ofBytes (r.payload.take 4))
def ImgRec.shape (r : ImgRec) : Nat := ofBytes (r.payload.drop 8)
def Image.prog (m : Image) (i : Nat) : Option (List Nat) := (m.item 9 0 0 i).map (fun r => words32 r.payload)
def Image.islands (m : Image) : List Nat := (List.range 4).filter (fun i => (m.prog i).isSome)
def Image.agRecs (m : Image) : List ImgRec := m.recs.filter (fun r => r.rtype == 8)

/-! ### Switch words (R168, R169, R184) -/

/-- The unit outputs that a tile drives, and the slots it enables. -/
def Image.drives (m : Image) (x y o : Nat) : Bool :=
  if (x + y) % 2 = 0 then
    let w := m.peWord x y
    w != 0 && (match peSpec (fld w 31 25) with | some p => o == 0 || p.out1 | none => false)
  else (m.mtWords x y).any (fun e =>
    (match mtSpec (fld e.2 31 28) with | some (_, out, _, _) => out | none => false) && b2n (bit e.2 7) == o)
def Image.enables (m : Image) (x y i : Nat) : Bool :=
  if (x + y) % 2 = 0 then bit (m.peWord x y) i else (m.mtWords x y).any (fun e => bit e.2 i)

/-- The judgement of switch word `d` of relative tile (x, y): RSVD, FIELD, ROUTE by R169, and IMAGE by R184 where the
page set is placed with its north-west tile at `place`. -/
def Image.judgeSwitch (m : Image) (place : Option (Nat × Nat)) (x y d : Nat) : Nat :=
  let given := m.swWord x y d
  let w := given.getD 0xE000
  let src := swSrc w
  let own := firstCode [(w % 16 != 0, cRsv), (swCmp w == 0 && fld w 8 5 != 0, cField)]
  let fromAg := fun (side : Nat) =>
    match m.agWord side y with
    | some a => agDual a && swVc w != agVc a 0 && swVc w != agVc a 1
    | none => false
  let leaves := (d == 0 && y == 0) || (d == 1 && x + 1 == 4 * m.w) || (d == 2 && y + 1 == 4 * m.h) || (d == 3 && x == 0)
  let isl := if d = 0 then [0, 1] else [2, 3]
  let faced := isl.filter (fun i => (m.prog i).isSome &&
    (if i % 2 = 0 then x % 4 == 2 || x % 4 == 3 else x % 4 == 0 || x % 4 == 1))
  let atPort := match place with
    | none => true
    | some (cx, cy) => faced.any (fun i => (List.range 2).any (fun p => portTile i p == 16 * (cy + y) + cx + x))
  let route := firstCode [
    ((src == 4 || src == 5) && !m.drives x y (src - 4), cRoute),
    (src == 3 && x == 0 && fromAg 0, cRoute),
    (src == 1 && x + 1 == 4 * m.w && fromAg 1, cRoute),
    (decide (4 ≤ d) && (src == 7) == m.enables x y (d - 4), cRoute),
    (decide (d < 4) && src == d, cRoute),
    (decide (d < 4) && src != 7 && leaves && (d == 1 || d == 3) && (m.agWord (if d = 3 then 0 else 1) y).isNone, cRoute),
    (decide (d < 4) && src != 7 && leaves && (d == 0 || d == 2) && faced.isEmpty, cRoute),
    (decide (d < 4) && src != 7 && leaves && (d == 0 || d == 2) && !atPort, cImage)]
  if given.isSome && own != 0 then own else route

/-! ### The judgement (R170, R171, R184) -/

/-- The place of an item in the order of R171: a tile's items, an AG's, an island's. -/
def tileKey (x y cls i sub : Nat) : Nat := ((((y * 256 + x) * 8 + cls) * 256 + i) * 2) + sub
def agKey (side row i : Nat) : Nat := 2 ^ 40 + (side * 256 + row) * 8 + i
def isleKey (i w : Nat) : Nat := 2 ^ 41 + i * 1024 + w

/-- A malformed record's place and status: IMAGE, before the checks of the same item. -/
def ImgRec.failure (r : ImgRec) (row0 : Nat) : Nat × Nat :=
  match r.rtype with
  | 8 => (agKey (r.x % 2) r.y 0, cfgStatus cImage 2 0 0 (row0 + r.y + 16 * (r.x % 2)) 0)
  | 9 => (isleKey r.u 0, cfgStatus cImage 4 0 0 r.u 0)
  | t =>
    let cls := match t with | 4 => 0 | 1 => 1 | 2 => 1 | 3 => 2 | _ => 3
    let kind := match t with | 1 => 0 | 2 => 1 | 3 => 5 | 4 => 6 | 5 => 0 | 7 => 1 | _ => (r.x + r.y) % 2
    (tileKey r.x r.y cls r.u 0, cfgStatus cImage kind r.x r.y (if t = 4 then r.u else 0) (if t = 2 ∨ t = 3 then r.u else 0))

/-- The failures of one tile. -/
def Image.tileFailures (m : Image) (place : Option (Nat × Nat)) (x y : Nat) : List (Nat × Nat) :=
  let pols := (List.range 16).filterMap (fun i => (m.item 4 x y i).map (fun r =>
    (tileKey x y 0 i 1, judgePol r.value, cfgStatus (judgePol r.value) 6 x y i 0)))
  let pe := if (x + y) % 2 = 0 then
      [(tileKey x y 1 0 1, judgePe (m.peWord x y), cfgStatus (judgePe (m.peWord x y)) 0 x y 0 0)]
    else
      let ws := m.mtWords x y
      ws.map (fun e =>
        let c := judgeMtAfter ((ws.filter (fun v => decide (v.1 < e.1))).map Prod.snd) e.2
        (tileKey x y 1 e.1 1, c, cfgStatus c 1 x y 0 e.1))
  let sws := (List.range 8).map (fun d =>
    let c := m.judgeSwitch place x y d
    (tileKey x y 2 d 1, c, cfgStatus c 5 x y 0 d))
  ((pols ++ pe ++ sws).filter (fun e => e.2.1 != 0)).map (fun e => (e.1, e.2.2))

/-- The failures of the AGs and bindings. -/
def Image.agFailures (m : Image) (place : Option (Nat × Nat)) : List (Nat × Nat) :=
  let row0 := (place.map Prod.snd).getD 0
  let edgeBad := fun (side : Nat) => match place with
    | none => false
    | some (cx, _) => if side = 0 then cx != 0 else cx + 4 * m.w != 16
  m.agRecs.flatMap (fun r =>
    let n := row0 + r.y + 16 * r.x
    let w := ofBytes (r.payload.take 4)
    let a := judgeAg w
    let sh := judgeShape r.shape (agOp w)
    (if edgeBad r.x then [(agKey r.x r.y 1, cfgStatus cImage 2 0 0 n 0)] else []) ++
    (if a != 0 then [(agKey r.x r.y 2, cfgStatus a 2 0 0 n 0)] else []) ++
    (if sh != 0 then [(agKey r.x r.y 3, cfgStatus sh 3 0 0 n 0)] else [])) ++
  m.binds.flatMap (fun b => if edgeBad (biSide b) then
    [(agKey (biSide b) (biRow b) 1, cfgStatus cImage 2 0 0 (row0 + biRow b + 16 * biSide b) 0)] else [])

/-- The failures of the islands. -/
def Image.isleFailures (m : Image) : List (Nat × Nat) :=
  m.islands.filterMap (fun i =>
    let p := (m.prog i).getD []
    (judgeProg p.length 0 0 p).map (fun (c, w) => (isleKey i (w + 1), cfgStatus c 4 0 0 i w)))

/-- The least entry of a list by its key. -/
def leastKey : List (Nat × Nat) → Option (Nat × Nat)
  | [] => none
  | e :: t => match leastKey t with
    | none => some e
    | some f => if f.1 < e.1 then some f else some e

/-- The judgement: the status word of the first failure, or 0.  `page` is the W and H of the page set named, if one is. -/
def Image.judge (m : Image) (page place : Option (Nat × Nat)) : Nat :=
  let whOk := decide (1 ≤ m.w) && decide (m.w ≤ 4) && decide (1 ≤ m.h) && decide (m.h ≤ 4) &&
    (match page with | none => true | some (w, h) => w == m.w && h == m.h)
  if !whOk then cfgStatus cImage 0 0 0 0 0
  else
    let (good, bad) := splitRecs m.w m.h m.recs
    let g := { m with recs := good }
    let tiles := (List.range (4 * m.h)).flatMap (fun y => (List.range (4 * m.w)).flatMap (fun x => g.tileFailures place x y))
    let row0 := (place.map Prod.snd).getD 0
    match leastKey (bad.map (fun r => r.failure row0) ++ tiles ++ g.agFailures place ++ g.isleFailures) with
    | some (_, st) => st
    | none => 0

/-! ### Reading an image (R183, R322, R327) -/

/-- What reading an image gives: an access that fails, a malformed header or record list, or the image. -/
inductive ImgLoad where
  | fault (f : AFail)
  | bad
  | ok (m : Image)

/-- The virtual and physical address of the first poisoned byte among bytes read at a VA, if there is one. -/
def State.firstBad (s : State) (c ctx va : Nat) (bs : List (Byte × Bool)) : List (Nat × Nat) :=
  match bs.findIdx? Prod.snd with
  | none => []
  | some i =>
    let v := (va + i) % 2 ^ 64
    match (s.xlatCl c ctx .read v).1 with
    | .ok pa _ => [(v, pa)]
    | .bad _ _ => [(v, 0)]

/-- A command of a sequencer reads global memory, as its loads do: the bytes, poisoned ones as 0, and where they are poisoned. -/
def State.cmdBytes (s : State) (c ctx va n : Nat) : Except AFail (List Byte × List (Nat × Nat)) × State :=
  match s.engRead (whoCl c (agentSeq c)) ctx va n with
  | (.error f, s) => (.error f, s)
  | (.ok bs, s) => (.ok (bs.map (fun b => if b.2 then 0#8 else b.1), s.firstBad c ctx va bs), s)

/-- The machine checks of a command that has read poison (R17, R410): one for each read, naming the first poisoned byte.  They
are posted when the command has its effect; one that traps has none (R314). -/
def State.cmdChecks (s : State) (c ctx : Nat) (bad : List (Nat × Nat)) : State :=
  bad.foldl (fun s e => s.machineCheck c ctx 1 0 e.2 (BitVec.ofNat 64 e.1) 0) s

/-- A command's one read, with its machine check. -/
def State.cmdRead (s : State) (c ctx va n : Nat) : Except AFail (List Byte) × State :=
  match s.cmdBytes c ctx va n with
  | (.error f, s) => (.error f, s)
  | (.ok (bs, bad), s) => (.ok bs, s.cmdChecks c ctx bad)

/-- Reads `n` records from position `pos` of an image of `len` bytes; `none` where LEN does not cover them exactly. -/
def State.readRecs (c ctx va len : Nat) : Nat → State → Nat → Except AFail (Option (List ImgRec) × List (Nat × Nat)) × State
  | 0, s, pos => (.ok (if pos = len then some [] else none, []), s)
  | n + 1, s, pos =>
    if len < pos + 8 then (.ok (none, []), s)
    else match s.cmdBytes c ctx ((va + pos) % 2 ^ 64) 8 with
      | (.error f, s) => (.error f, s)
      | (.ok (h, bad), s) =>
        let x := ofBytes h
        let plen := fld x 63 32
        let next := pos + 8 + (plen + 7) / 8 * 8
        if len < next then (.ok (none, bad), s)
        else match s.cmdBytes c ctx ((va + pos + 8) % 2 ^ 64) (min plen 16392) with
          | (.error f, s) => (.error f, s)
          | (.ok (p, bad2), s) =>
            match State.readRecs c ctx va len n s next with
            | (.ok (rs, bad3), s) =>
              let r : ImgRec := { rtype := fld x 7 0, x := fld x 15 8, y := fld x 23 16, u := fld x 31 24, payload := p }
              (.ok (rs.map (fun l => r :: l), bad ++ bad2 ++ bad3), s)
            | (.error f, s) => (.error f, s)

/-- Reads the image at a VA: what it is, and where poison was read. -/
def State.readImageRaw (s : State) (c ctx va : Nat) : (ImgLoad × List (Nat × Nat)) × State :=
  match s.cmdBytes c ctx va 32 with
  | (.error f, s) => ((.fault f, []), s)
  | (.ok (hb, bad), s) =>
    let h := ofBytes hb
    let bcount := fld h 95 80
    if fld h 31 24 != 0 || fld h 127 96 != 0 || fld h 255 192 != 0 || (bcount == 0 && fld h 191 128 != 0) then ((.bad, bad), s)
    else match State.readRecs c ctx va (fld h 63 32) (fld h 79 64) s 32 with
      | (.error f, s) => ((.fault f, []), s)
      | (.ok (none, bad2), s) => ((.bad, bad ++ bad2), s)
      | (.ok (some rs, bad2), s) =>
        match s.cmdBytes c ctx (fld h 191 128) (8 * bcount) with
        | (.error f, s) => ((.fault f, []), s)
        | (.ok (bb, bad3), s) =>
          let binds := (List.range bcount).map (fun i => ofBytes ((bb.drop (8 * i)).take 8))
          ((.ok { va := va, psid := fld h 15 0, w := fld h 19 16, h := fld h 23 20, binds := binds, recs := rs },
            bad ++ bad2 ++ bad3), s)

/-- Reads the image at a VA for a command of a sequencer; a fault is a trap, so that it posts nothing (R314). -/
def State.readImage (s : State) (c ctx va : Nat) : ImgLoad × State :=
  let (r, s) := s.readImageRaw c ctx va
  (r.1, s.cmdChecks c ctx r.2)

/-! ### What an image configures (R152) -/

/-- The configuration of relative tile (x, y).  R170, R171 and R184 list no check of a hold token's reserved bits [63:50] and none of a
constant's tag byte above four bits: the model accepts such an image and drops those bits, its choice (assumption 67). -/
def Image.tileCfg (m : Image) (cfg x y : Nat) : TileCfg :=
  { pe := BitVec.ofNat 32 (m.peWord x y),
    mts := (m.mtWords x y).map (fun e => (e.1, BitVec.ofNat 32 e.2)),
    consts := (List.range 8).filterMap (fun i => (m.item 5 x y i).map (fun r =>
      (i, ((words32 (r.payload.take 64)).map (BitVec.ofNat 32), ofBytes (r.payload.drop 64) % 16)))),
    pols := (List.range 16).filterMap (fun i => (m.item 4 x y i).map (fun r => (i, r.value))),
    hold := (m.item 6 x y 0).map (fun r => { Token.ofRaw (r.payload.take 64) (ofBytes (r.payload.drop 64)) with cns := false }),
    sw := (List.range 8).filterMap (fun i => (m.swWord x y i).map (fun w => (i, w))),
    mtData := (m.recs.filter (fun r => r.rtype == 7 && r.x == x && r.y == y)).foldl (fun t r =>
      let p := ofBytes (r.payload.take 4)
      ((List.range (r.payload.length / 4 - 1)).zip (words32 (r.payload.drop 4))).foldl (fun t e => t.put (p + e.1) e.2) t) [],
    cfg := cfg, image := BitVec.ofNat 64 m.va }

/-- The binding of an AG (R185), given its absolute number. -/
def Image.bindOf (m : Image) (side row a : Nat) : Option Bind :=
  (m.binds.find? (fun b => biSide b == side && biRow b == row)).map
    (fun b => { ag := a, dirOut := biOut b, path := biPath b, bank := biBank b })

/-- The configuration of an AG's record. -/
def Image.agCfg (m : Image) (cfg row0 : Nat) (r : ImgRec) : Nat × AgCfg :=
  let a := row0 + r.y + 16 * r.x
  (a, { word := BitVec.ofNat 32 (ofBytes (r.payload.take 4)), shape := r.shape, bind := m.bindOf r.x r.y a, cfg := cfg,
        image := BitVec.ofNat 64 m.va })

end Sys2Proof.Machine
end

