-- ==== Sys2Proof/Machine/SeqAlu.lean ====
section
/-! DEFINITION. The meanings of the sequencer's integer operations (R318 to R320), branches and jumps (R321). -/

namespace Sys2Proof.Machine

/-- Leading zero bits of a 64-bit value (R318). -/
def clz64 (x : Word) : Nat := 64 - (if x.toNat = 0 then 0 else Nat.log2 x.toNat + 1)

/-- One bits of a value (R318). -/
def popCount (n x : Nat) : Nat := ((List.range n).filter (fun i => x.testBit i)).length

/-- The functions of the OP family (R318). -/
def opShl (x y : Word) : Word := x <<< (y.toNat % 64)
def opShr (x y : Word) : Word := x >>> (y.toNat % 64)
def opSha (x y : Word) : Word := x.sshiftRight (y.toNat % 64)
def opMulh (x y : Word) : Word := BitVec.ofInt 64 (x.toInt * y.toInt / (2 ^ 64 : Int))
def opDiv (x y : Word) : Word :=
  if y = 0 then BitVec.allOnes 64
  else if x = BitVec.intMin 64 ∧ y = BitVec.allOnes 64 then BitVec.intMin 64
  else BitVec.ofInt 64 (x.toInt.tdiv y.toInt)
def opDivu (x y : Word) : Word := if y = 0 then BitVec.allOnes 64 else x / y
def opRem (x y : Word) : Word :=
  if y = 0 then x
  else if x = BitVec.intMin 64 ∧ y = BitVec.allOnes 64 then 0
  else BitVec.ofInt 64 (x.toInt - y.toInt * x.toInt.tdiv y.toInt)
def opMin (x y : Word) : Word := if x.slt y then x else y
def opMax (x y : Word) : Word := if x.slt y then y else x
def opMinu (x y : Word) : Word := if x.ult y then x else y
def opMaxu (x y : Word) : Word := if x.ult y then y else x

/-- A result of two sources. -/
def two (f : Word → Word → Word) : List Word → Word
  | [x, y] => f x y
  | _ => 0

/-- A result of one source. -/
def one (f : Word → Word) : List Word → Word
  | [x] => f x
  | _ => 0

/-- An OP word with sources a and b. -/
def runOp (i : Instr) (d a b : Reg) (f : Word → Word → Word) (s : State) : Host.Outcome State Fault Refusal :=
  .next (s.settle s.here (s.compute s.here i.word [a, b] d (two f)))

/-- A word with the one source a. -/
def runOp1 (i : Instr) (d a : Reg) (f : Word → Word) (s : State) : Host.Outcome State Fault Refusal :=
  .next (s.settle s.here (s.compute s.here i.word [a] d (one f)))

/-- A word without sources. -/
def runOp0 (i : Instr) (d : Reg) (v : Word) (s : State) : Host.Outcome State Fault Refusal :=
  .next (s.settle s.here (s.compute s.here i.word [] d (fun _ => v)))

def execAdd (d a b : Reg) (s : State) := runOp (.add d a b) d a b (fun x y => x + y) s
def execSub (d a b : Reg) (s : State) := runOp (.sub d a b) d a b (fun x y => x - y) s
def execAnd (d a b : Reg) (s : State) := runOp (.and d a b) d a b (fun x y => x &&& y) s
def execOr (d a b : Reg) (s : State) := runOp (.or d a b) d a b (fun x y => x ||| y) s
def execXor (d a b : Reg) (s : State) := runOp (.xor d a b) d a b (fun x y => x ^^^ y) s
def execShl (d a b : Reg) (s : State) := runOp (.shl d a b) d a b opShl s
def execShr (d a b : Reg) (s : State) := runOp (.shr d a b) d a b opShr s
def execSha (d a b : Reg) (s : State) := runOp (.sha d a b) d a b opSha s
def execMul (d a b : Reg) (s : State) := runOp (.mul d a b) d a b (fun x y => x * y) s
def execMulh (d a b : Reg) (s : State) := runOp (.mulh d a b) d a b opMulh s
def execDiv (d a b : Reg) (s : State) := runOp (.div d a b) d a b opDiv s
def execDivu (d a b : Reg) (s : State) := runOp (.divu d a b) d a b opDivu s
def execRem (d a b : Reg) (s : State) := runOp (.rem d a b) d a b opRem s
def execMin (d a b : Reg) (s : State) := runOp (.min d a b) d a b opMin s
def execMax (d a b : Reg) (s : State) := runOp (.max d a b) d a b opMax s
def execMinu (d a b : Reg) (s : State) := runOp (.minu d a b) d a b opMinu s
def execMaxu (d a b : Reg) (s : State) := runOp (.maxu d a b) d a b opMaxu s
def execSlt (d a b : Reg) (s : State) := runOp (.slt d a b) d a b (fun x y => boolWord (x.slt y)) s
def execSltu (d a b : Reg) (s : State) := runOp (.sltu d a b) d a b (fun x y => boolWord (x.ult y)) s
def execCeq (d a b : Reg) (s : State) := runOp (.ceq d a b) d a b (fun x y => boolWord (x == y)) s
def execClz (d a : Reg) (s : State) := runOp1 (.clz d a) d a (fun x => BitVec.ofNat 64 (clz64 x)) s
def execPopc (d a : Reg) (s : State) := runOp1 (.popc d a) d a (fun x => BitVec.ofNat 64 (popCount 64 x.toNat)) s

def execAddi (d a : Reg) (imm : BitVec 14) (s : State) := runOp1 (.addi d a imm) d a (fun x => x + sx14 imm) s
def execAndi (d a : Reg) (imm : BitVec 14) (s : State) := runOp1 (.andi d a imm) d a (fun x => x &&& sx14 imm) s
def execOri (d a : Reg) (imm : BitVec 14) (s : State) := runOp1 (.ori d a imm) d a (fun x => x ||| sx14 imm) s
def execXori (d a : Reg) (imm : BitVec 14) (s : State) := runOp1 (.xori d a imm) d a (fun x => x ^^^ sx14 imm) s
def execShli (d a : Reg) (n : BitVec 6) (s : State) := runOp1 (.shli d a n) d a (fun x => opShl x (n.setWidth 64)) s
def execShri (d a : Reg) (n : BitVec 6) (s : State) := runOp1 (.shri d a n) d a (fun x => opShr x (n.setWidth 64)) s
def execShai (d a : Reg) (n : BitVec 6) (s : State) := runOp1 (.shai d a n) d a (fun x => opSha x (n.setWidth 64)) s
def execSlti (d a : Reg) (imm : BitVec 14) (s : State) :=
  runOp1 (.slti d a imm) d a (fun x => boolWord (x.slt (sx14 imm))) s

def execLui (d : Reg) (imm : BitVec 20) (s : State) := runOp0 (.lui d imm) d (upper imm) s
def execAddpc (d : Reg) (imm : BitVec 20) (s : State) := runOp0 (.addpc d imm) d ((s.sq s.here).pc + upper imm) s

/-- A conditional branch (R321). -/
def runBranch (i : Instr) (a b : Reg) (off : BitVec 14) (cond : Word → Word → Bool) (s : State) :
    Host.Outcome State Fault Refusal :=
  let c := s.here
  .next (s.settle c (do
    let (vs, s') ← s.readSrcs c i.word [a, b] none
    .ok (match vs with
      | [x, y] => if cond x y then s'.setPc c ((s.sq c).pc + branchOff off) else s'.advance c
      | _ => s')))

def execBeq (a b : Reg) (off : BitVec 14) (s : State) := runBranch (.beq a b off) a b off brEq s
def execBne (a b : Reg) (off : BitVec 14) (s : State) := runBranch (.bne a b off) a b off brNe s
def execBlt (a b : Reg) (off : BitVec 14) (s : State) := runBranch (.blt a b off) a b off brLt s
def execBge (a b : Reg) (off : BitVec 14) (s : State) := runBranch (.bge a b off) a b off brGe s
def execBltu (a b : Reg) (off : BitVec 14) (s : State) := runBranch (.bltu a b off) a b off brLtu s
def execBgeu (a b : Reg) (off : BitVec 14) (s : State) := runBranch (.bgeu a b off) a b off brGeu s

/-- JAL (R321): s62 receives the return address. -/
def execJal (off : BitVec 26) (s : State) : Host.Outcome State Fault Refusal :=
  let c := s.here
  let pc := (s.sq c).pc
  .next ((s.writeDst c 62 (pc + 4)).setPc c (pc + jumpOff off))

/-- JALR (R321): a misaligned target traps and writes nothing. -/
def execJalr (d a : Reg) (imm : BitVec 14) (s : State) : Host.Outcome State Fault Refusal :=
  let c := s.here
  let pc := (s.sq c).pc
  .next (s.settle c (do
    let (vs, s') ← s.readSrcs c (Instr.jalr d a imm).word [a] (some d)
    let t := one (fun x => x + sx14 imm) vs
    if t.toNat % 4 != 0 then .error (.trap { cause := tMisalign, val := t } s)
    else if !s.dstOk c d then .error (.trap (s.ringOf c) s)
    else .ok ((s'.writeDst c d (pc + 4)).setPc c t)))

end Sys2Proof.Machine
end

