-- ==== Sys2Proof/Machine/SeqSys.lean ====
section
/-! DEFINITION. The meanings of fences, cache maintenance, system registers, task control, and the steps of channels,
dispatch and memory upkeep (R287 to R341). -/

namespace Sys2Proof.Machine

/-! ### Task control (R326, R341) -/

def execTend (s : State) : Host.Outcome State Fault Refusal := .next (s.endTask s.here)

/-- ERET (R316): ILLEGAL outside a trap handler. -/
def execEret (s : State) : Host.Outcome State Fault Refusal :=
  let c := s.here
  .next (if (s.sq c).inTrap then s.returnTrap c else s.takeTrap c (illegal Instr.eret.word))

/-- TRAP (R341). -/
def execTrap (imm : BitVec 14) (s : State) : Host.Outcome State Fault Refusal :=
  .next (s.takeTrap s.here { cause := tTrap, val := imm.setWidth 64 })

/-! ### Fences and cache maintenance (R289, R290, R300, R324) -/

/-- What a fence orders (R289).  The model performs a sequencer's loads and atomics in program order, so an acquire only
widens what later releases wait for. -/
def State.fence (s : State) (c : Nat) (o : Order) (sc : Scope) : State :=
  match o with
  | .rlx => s
  | .acq => s.acquire (agentSeq c)
  | .rel => s.releaseAt c sc
  | .sc => ((s.releaseAt c sc).freshAt c sc).acquire (agentSeq c)

def execFence (o : Order) (sc : Scope) (s : State) : Host.Outcome State Fault Refusal :=
  .next ((s.fence s.here o sc).advance s.here)

/-- A translation for CFLUSH or CINVAL: as a READ, but a leaf without R does not fault (R324). -/
def State.xlatFlush (s : State) (c ctx va : Nat) : Xlat × State :=
  match s.xlatCl c ctx .read va with
  | (.bad code lvl, s') =>
    if code = cPermR then
      match s.walk ctx va with
      | .leaf l => (.ok (fld l.entry 47 12 * 4096 + va % pageSize l.lvl l.contig) (fld l.entry 7 6), s'.setAD (dieOf c) l false)
      | .bad _ _ _ => (.bad code lvl, s')
    else (.bad code lvl, s')
  | r => r

/-- The trap of a failed data access (R322, R404 order 7). -/
def accessTrap (code lvl : Nat) (va : Word) : Trap :=
  { cause := if isPerm code then tPermission else tTranslation, xcode := code, xlvl := lvl, val := va }

/-- CFLUSH and CINVAL (R300, R324): `f` removes the copies of a line. -/
def runFlush (i : Instr) (a : Reg) (f : State → Nat → State) (s : State) : Host.Outcome State Fault Refusal :=
  let c := s.here
  .next (s.settle c (do
    let (vs, s') ← s.readSrcs c i.word [a] none
    let va := one (fun x => x) vs
    if isLocal va.toNat then .ok (s'.advance c)
    else
      match s'.xlatFlush c (s.sq c).running.ctx va.toNat with
      | (.bad code lvl, _) => .error (.trap (accessTrap code lvl va) (s.xlatFlush c (s.sq c).running.ctx va.toNat).2)
      | (.ok pa mt, s2) =>
        let line := pa / 128
        let s3 := (s2.sq c).sbuf.foldl (fun s e => if e.pa / 128 = line then s.drainAll c else s) s2
        .ok ((if mt = 2 then s3 else f s3 line).advance c)))

/-- CFLUSH removes every copy outside the line's home cache. -/
def execCflush (a : Reg) (s : State) : Host.Outcome State Fault Refusal :=
  runFlush (.cflush a) a (fun s line => (List.range 4).foldl (fun s d => s.dropCopy d line) s) s

/-- CINVAL removes only the issuing cluster's way copy: the die loses its copy where no other way held one, which is free
(R282; assumption 16). -/
def execCinval (a : Reg) (s : State) : Host.Outcome State Fault Refusal :=
  runFlush (.cinval a) a (fun s line =>
    let r := s.drawNat
    if r.1 % 2 = 1 then r.2.dropCopy (dieOf s.here) line else r.2) s

/-! ### System registers (R304, R305, R341) -/

/-- The pre-emption request that a task of context `x` sees (R414). -/
def Seq.yreqOf (q : Seq) (x : Nat) : Option YReq := q.yreqs.find? (fun y => y.ctx == x && y.coop.isNone)

/-- STATUS (R305). -/
def Seq.status (q : Seq) : Word :=
  BitVec.ofNat 64 (b2n q.inTrap + 2 * b2n (q.yreqOf q.running.ctx).isSome + 4 * b2n q.mcLost)

/-- The value of a system register; `none` for an unallocated index (R304). -/
def State.sysReg (s : State) (c n : Nat) : Option Word :=
  let q := s.sq c
  let k := s.cl c
  match n with
  | 0x000 => some q.taskid
  | 0x001 => some (BitVec.ofNat 64 (localOf c))
  | 0x002 => some (BitVec.ofNat 64 (dieOf c))
  | 0x003 => some q.cycle
  | 0x004 => some q.status
  | 0x005 => some q.tcause
  | 0x006 => some q.tpc
  | 0x007 => some q.tval
  | 0x008 => some q.tvec
  | 0x009 => some q.chanmask
  | 0x00A => some (match q.yreqOf q.running.ctx with | some y => y.deadline | none => 0)
  | 0x00B => some q.stackbase
  | 0x00C => some q.brkpc
  | 0x010 => some (boolWord (s.ctx q.running.ctx).frun)
  | 0x020 => some (BitVec.ofNat 64 k.bankStatus)
  | 0x021 => some (BitVec.ofNat 64 (k.bankSt 0 32))
  | 0x022 => some (BitVec.ofNat 64 (k.bankSt 32 16))
  | n =>
    if 0x040 ≤ n ∧ n < 0x050 then some (s.chan c (n - 0x040)).entry
    else if 0x050 ≤ n ∧ n < 0x060 then some (s.chan c (n - 0x050)).q
    else if 0x060 ≤ n ∧ n < 0x070 then some (BitVec.ofNat 64 (s.chan c (n - 0x060)).queue.length)
    else none

/-- A write of MCMODE by a task (R292): `none` where a reserved bit is set. -/
def State.writeMcmode (s : State) (ctx : Nat) (v : Word) : Option State :=
  if v.toNat / 2 = 0 then some (s.setCtx ctx { s.ctx ctx with frun := bit v.toNat 0 }) else none

/-- A write of a system register (R304, R305, R341): `none` where it raises the permission trap. -/
def State.writeSys (s : State) (c n : Nat) (v : Word) : Option State :=
  let q := s.sq c
  let x := v.toNat
  match n with
  | 0x004 => if x / 8 = 0 then some (s.setSq c { q with mcLost := q.mcLost && !bit x 2 }) else none
  | 0x008 => if x % 4 = 0 then some (s.setSq c { q with tvec := v }) else none
  | 0x009 => if x / 0x10000 = 0 then some (s.setSq c { q with chanmask := v ||| 1 }) else none
  | 0x00B => if x % 8 = 0 then some (s.setSq c { q with stackbase := v }) else none
  | 0x00C => if bit x 1 then none else some (s.setSq c { q with brkpc := v })
  | 0x010 => s.writeMcmode q.running.ctx v
  | 0x020 => some (s.setCl c ((s.cl c).bankRequest x))
  | _ => none

/-- MFS (R304, R341). -/
def execMfs (d : Reg) (n : BitVec 12) (s : State) : Host.Outcome State Fault Refusal :=
  let c := s.here
  .next (match s.sysReg c n.toNat with
    | none => s.takeTrap c (illegal (Instr.mfs d n).word)
    | some v => s.settle c (s.compute c (Instr.mfs d n).word [] d (fun _ => v)))

/-- MTS (R304, R341). -/
def execMts (a : Reg) (n : BitVec 12) (s : State) : Host.Outcome State Fault Refusal :=
  let c := s.here
  .next (s.settle c (do
    let (vs, s') ← s.readSrcs c (Instr.mts a n).word [a] none
    match s'.writeSys c n.toNat (one (fun x => x) vs) with
    | none => .error (.trap { cause := tPermission, val := n.setWidth 64 } s)
    | some s2 => .ok (s2.advance c)))

/-- BANKMODE: a write of the register by the cluster (R78). -/
def execBankmode (v : BitVec 64) (s : State) : Host.Outcome State Fault Refusal :=
  .next (s.setCl s.here ((s.cl s.here).bankRequest v.toNat))

/-- BANK_MODE_CUT (R79). -/
def execBankModeCut (s : State) : Host.Outcome State Fault Refusal := .next (s.setCl s.here (s.cl s.here).bankCut)

/-- MCMODE: a write of the register by the cluster's running task (R292); one with a reserved bit changes nothing. -/
def execMcmode (v : BitVec 64) (s : State) : Host.Outcome State Fault Refusal :=
  .next (((s.writeMcmode (s.sq s.here).running.ctx v)).getD s)

/-! ### Channels and dispatch (R306 to R309) -/

/-- Channel `n` is ready (R308). -/
def State.chanReady (s : State) (c n : Nat) : Bool :=
  let k := s.cl c
  let x := s.chan c n
  bit k.seq.chanmask.toNat n && qBound x.q && !x.queue.isEmpty &&
  (!qInEn x.q || ((k.ring (qInRing x.q)).en && decide (8 * qIn x.q ≤ (k.ring (qInRing x.q)).fill))) &&
  (!qOutEn x.q || ((k.ring (qOutRing x.q)).en &&
    decide (8 * qOut x.q + (k.ring (qOutRing x.q)).fill ≤ (k.ring (qOutRing x.q)).size))) &&
  k.seq.yreqs.all (fun y => y.ctx != qCtx x.q || y.coop.isNone)

/-- The lowest ready channel (R308). -/
def State.pickChan (s : State) (c : Nat) : Option Nat := (List.range 16).find? (fun n => s.chanReady c n)

/-- The registers of a task at its start (R308). -/
def startRegs (m : Msg) (base : Word) : Vector Word 64 :=
  ((((((Vector.replicate 64 0).set 56 m.w0).set 57 m.w1).set 58 m.w2).set 59 m.w3).set 63 base)

/-- TASK_DISPATCH (R308): with no task running, the oldest message of the lowest ready channel starts one; the task
holds the message's acquire (R297). -/
def State.dispatchTask (s : State) (c : Nat) : State :=
  let q := s.sq c
  if q.task.isSome || q.stopped.isSome then s
  else match s.pickChan c with
    | none => s
    | some n =>
      let x := s.chan c n
      match x.queue with
      | [] => s
      | m :: rest =>
        let s := (s.setChan c n { x with queue := rest }).acquire (agentSeq c)
        let t : Task := { chan := n, ctx := qCtx x.q, q := x.q, launch := m.launch }
        let q := s.sq c
        s.setSq c { q with regs := startRegs m.msg q.stackbase, pc := x.entry, task := some t,
                           taskid := BitVec.ofNat 64 (n + qCtx x.q * 16), inTrap := false, brkSkip := false }

def execTaskDispatch (s : State) : Host.Outcome State Fault Refusal := .next (s.dispatchTask s.here)

/-- A channel of cluster `t` takes a TPOST of cluster `c` (R306, R340): one from another cluster comes after the messages
that its port already holds for the channel (assumption 68). -/
def State.takesPost (s : State) (c t n : Nat) : Bool :=
  s.chanRoom t n && !(s.cl t).held.any (fun h => h.blocks (if c = t then senderSeq else senderPort) n)

/-- MESSAGE_ARRIVAL (R306): by the kind of sender, a message that meets a full queue is refused, dropped or held. -/
def execMessageArrival (k : SenderKind) (chan : BitVec 4) (w0 w1 w2 w3 : BitVec 64) (s : State) :
    Host.Outcome State Fault Refusal :=
  let c := s.here
  let m : QMsg := { msg := { w0 := w0, w1 := w1, w2 := w2, w3 := w3 }, ctx := qCtx (s.chan c chan.toNat).q }
  .next (match k with
    | .tpost => if s.chanRoom c chan.toNat then s.enqueue c chan.toNat m else s
    | .machineCheck => s.postMc c m
    | .hardware => s.post c senderPort chan.toNat m)

/-- MESSAGE_RETRY (R306): every held message is tried once, oldest first. -/
def execMessageRetry (s : State) : Host.Outcome State Fault Refusal :=
  .next (s.retryAll s.here)

/-! ### Memory upkeep (R15, R16, R22, R25, R282) -/

/-- PAGE_WALK: a walk for the actor's cluster whose result its translation cache keeps. -/
def execPageWalk (ctx : BitVec 6) (k : AccKind) (va : BitVec 64) (s : State) : Host.Outcome State Fault Refusal :=
  let c := s.here
  .next (s.walkAndKeep c (dieOf c) c ctx.toNat k va.toNat).2

/-- INVALIDATION_ARRIVAL: the actor's die loses its copies of a line (R282).  A copy also goes when a cache replaces it. -/
def execInvalidationArrival (line : BitVec 41) (s : State) : Host.Outcome State Fault Refusal :=
  .next (s.dropCopy s.actor.die line.toNat)

/-- The tier-C port of an address (R12). -/
def portOf (pa : Nat) : Nat :=
  if Config.portBytes 1 = 0 then 0 else if Config.portBytes 0 = 0 then 1 else fld pa 14 14

/-- Lifetime-log histograms of errors (R440): HBM pseudo-channels, and SRAM regions: 7,680 banks, the 16 MT columns of each
cluster, and the 16 home-cache ways of each die. -/
def logHbm : Nat := 2
def logSram : Nat := 3

/-- The pseudo-channel of an address in tier H, over the package (R12). -/
def pseudoChannel (pa : Nat) : Nat := fld pa 38 37 * 128 + (fld pa 14 8 ^^^ fld pa 21 15 ^^^ fld pa 28 22)

/-- The SRAM words of the error events beside those of a cluster's banks: byte 4 w of tile t's MT at 0xC00000 + 16 KiB t, and
way w of the actor's home cache at 2^40 + w. -/
def mtErrBase : Nat := 0xC00000
def wayErrBase : Nat := 2 ^ 40

/-- An error found in an MT word (R439): a correctable one is counted by the tile's column, an uncorrectable one leaves a free
value, since MT words have no mark. -/
def State.mtError (s : State) (t w : Nat) (bad : Bool) : State :=
  let c := s.here
  if (t % 16 + t / 16) % 2 = 0 then s
  else if bad then
    let r := s.drawNat
    let x := (r.2.cl c).tile t
    r.2.setCl c ((r.2.cl c).setTile t { x with mt := mtSet x.mt w r.1 })
  else s.count logSram (7680 + 16 * c + t % 16)

/-- An error found in a word of memory (R16, R17), or in SRAM of the actor's cluster or die (R439, R440, R462): a correctable one
is counted, its data unchanged; an uncorrectable one poisons the word. -/
def State.eccError (s : State) (sram : Bool) (a : Nat) (bad : Bool) : State :=
  let c := s.here
  if sram then
    if a < sramEnd then
      if bad then s.setCl c { s.cl c with sramPoison := insertNat (a / 32) (s.cl c).sramPoison }
      else s.count logSram (c * 48 + a / 0x10000)
    else if mtErrBase ≤ a ∧ a < mtErrBase + 0x400000 then
      s.mtError ((a - mtErrBase) / 0x4000) ((a - mtErrBase) % 0x4000 / 4) bad
    else if wayErrBase ≤ a ∧ a < wayErrBase + 16 ∧ !bad then s.count logSram (10240 + 16 * s.actor.die + (a - wayErrBase))
    else s
  else if inH a || inC a then
    if bad then { s with poison := insertNat (a / 32) s.poison }
    else if inH a then s.count logHbm (pseudoChannel a) else s
  else s

def execEccError (sram : Bool) (addr : BitVec 48) (bad : Bool) (s : State) : Host.Outcome State Fault Refusal :=
  .next (s.eccError sram addr.toNat bad)

/-- What a scrub finds in a word: nothing, a correctable error, or an uncorrectable one; which is free. -/
def State.scrub (s : State) (sram : Bool) (a : Nat) : State :=
  let r := s.drawNat
  match r.1 % 3 with
  | 0 => r.2
  | 1 => r.2.eccError sram a false
  | _ => r.2.eccError sram a true

/-- PATROL_SCRUB (R16): reads a word of tier H and corrects the errors it finds. -/
def execPatrolScrub (pa : BitVec 48) (s : State) : Host.Outcome State Fault Refusal :=
  .next (if inH pa.toNat then s.scrub false pa.toNat else s)

/-- SRAM_SCRUB (R439): reads a word of a cluster's banks, or of its MTs from 0xC00000 on. -/
def execSramScrub (cl : BitVec 8) (off : BitVec 24) (s : State) : Host.Outcome State Fault Refusal :=
  let s' := { s with actor := { s.actor with cl := cl.toNat, die := dieOf cl.toNat } }
  .next { s'.scrub true off.toNat with actor := s.actor }

/-! ### Bindings and messages (R307, R339, R340) -/

/-- TBIND (R339): the status, and the state with the channel's binding. -/
def State.tbind (s : State) (c ctx : Nat) (entry v : Word) : Nat × State :=
  let x := v.toNat
  let n := fld x 45 42
  let ch := s.chan c n
  if fld x 47 46 != 0 || fld x 63 49 != 0 || (bit x 48 && entry.toNat % 4 != 0) then (26, s)
  else if qBound ch.q && qCtx ch.q != ctx then (32, s)
  else if bit x 48 then
    (0, s.setChan c n { ch with entry := entry, q := BitVec.ofNat 64 (fld x 41 0 + ctx * 2 ^ 42 + 2 ^ 48) })
  else (0, s.setChan c n { ch with entry := 0, q := 0 })

/-- A command that traps has popped nothing (R302, R404). -/
def Stop.unpop (e : Stop) (c : Nat) (s0 : State) : Stop :=
  match e with
  | .trap t s => .trap t (s.setCl c { s.cl c with rings := (s0.cl c).rings })
  | .wait => .wait

/-- How a command that does not complete stops: its trap is the one it takes on the state before its reads, so that it
has popped nothing and a poisoned operand has posted nothing (R302, R314, R404). -/
def stopped (f : List Word → State → Except Stop (Word × State)) (vs : List Word) (e : Stop) (c : Nat) (s : State) : Stop :=
  match f vs s with
  | .error e => e
  | .ok _ => e.unpop c s

/-- A command that reads a and b, does its work, and writes a result to d (R327).  The work sees the state after the
sources are read. -/
def runCmd (i : Instr) (d : Reg) (srcs : List Reg) (f : List Word → State → Except Stop (Word × State)) (s : State) :
    Host.Outcome State Fault Refusal :=
  let c := s.here
  .next (s.settle c (do
    let (vs, s') ← s.readSrcs c i.word srcs (some d)
    if !s.dstOk c d then
      -- the command's own traps come before RINGOF (R404)
      match f vs s' with
      | .error e => .error (stopped f vs e c s)
      | .ok _ => .error (.trap (s.ringOf c) s)
    else
      match f vs s' with
      | .error e => .error (stopped f vs e c s)
      | .ok (v, s2) => .ok ((s2.writeDst c d v).advance c)))

def execTbind (d a b : Reg) (s : State) : Host.Outcome State Fault Refusal :=
  runCmd (.tbind d a b) d [a, b] (fun vs s =>
    let r := s.tbind s.here (s.sq s.here).running.ctx (vs.getD 0 0) (vs.getD 1 0)
    .ok (result r.1 0, r.2)) s

/-- The bytes that a command names by a local address lie in a bank whose mode is changing. -/
def State.descCut (s : State) (va n : Nat) : Bool := isLocal va && (s.cl s.here).cutting (localOff va) n

/-- A command that reads `n` bytes at a local address waits while the bank's mode is changing (R79). -/
def State.whenSettled (s : State) (va : Word) (n : Nat) (r : Word × State) : Except Stop (Word × State) :=
  if s.descCut va.toNat n then .error .wait else .ok r

/-- A descriptor's bytes at a local address (R327): `none` unless it is aligned and lies in one SCRATCH bank. -/
def Cluster.localDesc (k : Cluster) (va align n : Nat) : Option (List Byte) :=
  let off := localOff va
  if isLocal va && off % align == 0 && decide (off + n ≤ sramEnd) && off / 0x10000 == (off + n - 1) / 0x10000 && k.scratch off n
  then some (k.bytes off n) else none

/-- The message in 32 bytes. -/
def msgOf (bs : List Byte) : Msg :=
  { w0 := BitVec.ofNat 64 (ofBytes (bs.take 8)), w1 := BitVec.ofNat 64 (ofBytes ((bs.drop 8).take 8)),
    w2 := BitVec.ofNat 64 (ofBytes ((bs.drop 16).take 8)), w3 := BitVec.ofNat 64 (ofBytes ((bs.drop 24).take 8)) }

/-- The smallest scope that holds two clusters (R297). -/
def scopeBetween (c c' : Nat) : Scope := if c = c' then .cl else if dieOf c = dieOf c' then .die else .dev

/-- TPOST (R340): the destination word is judged before the message. -/
def State.tpost (s : State) (c ctx : Nat) (va v : Word) : Nat × State :=
  let x := v.toNat
  let n := fld x 3 0
  let t := fld x 11 10 * 40 + fld x 9 4
  if fld x 63 12 != 0 || 39 < fld x 9 4 then (26, s)
  else match (s.cl c).localDesc va.toNat 8 32 with
    | none => (20, s)
    | some bs =>
      let ch := s.chan t n
      if qBound ch.q && qCtx ch.q != ctx then (32, s)
      else if s.saveWritten t ctx then (32, s.discardLate t ctx)
      else
        let s := if c = t then s.retryFrom t (sourceRank senderSeq) else s.retryAll t
        if !s.takesPost c t n then (31, s)
        else (0, (s.releaseAt c (scopeBetween c t)).enqueue t n { msg := msgOf bs, ctx := ctx })

def execTpost (d a b : Reg) (s : State) : Host.Outcome State Fault Refusal :=
  runCmd (.tpost d a b) d [a, b] (fun vs s =>
    let r := s.tpost s.here (s.sq s.here).running.ctx (vs.getD 0 0) (vs.getD 1 0)
    s.whenSettled (vs.getD 0 0) 32 (result r.1 0, r.2)) s

end Sys2Proof.Machine
end

