-- ==== Sys2Proof/Machine/Residency.lean ====
section
/-! DEFINITION. Residencies: placement (R344, R345), RESID, CFG, PARAM, RESUME and GBAR (R330 to R333), teardown and
adoption (R346 to R348), moves (R350, R351), iteration records (R352) and the tiles' flag registers (R238). -/

namespace Sys2Proof.Machine

/-! ### Placement (R344, R345) -/

/-- The north-west tile of a page, as column and row. -/
def pageTile (p : Nat) : Nat × Nat := (4 * (p % 4), 4 * (p / 4))

/-- The AGs of an image placed at page `o`. -/
def Image.agsAt (m : Image) (o : Nat) : List Nat := m.agRecs.map (fun r => (pageTile o).2 + r.y + 16 * r.x)

/-- The image is validly placed with its origin at page `o`: pages and islands are free, or are among the reservations
that `mine` admits; no AG it uses is still held; the edges and ports are where the image needs them. -/
def Cluster.validAt (k : Cluster) (m : Image) (mine : PageSt → Bool) (o : Nat) : Bool :=
  match rectPages o m.w m.h with
  | none => false
  | some ps =>
    let ok := fun (st : PageSt) => st == .free || mine st
    ps.all (fun p => ok (k.page p)) && m.islands.all (fun i => ok (k.isle i)) &&
    (m.agsAt o).all (fun a => (k.agOwner a).isNone) && m.judge none (some (pageTile o)) == 0

/-- The lowest valid origin. -/
def Cluster.findPlace (k : Cluster) (m : Image) (mine : PageSt → Bool) : Option Nat :=
  (List.range 16).find? (fun o => k.validAt m mine o)

/-! ### Moves (R350, R351) -/

/-- The tiles of a residency. -/
def Resid.tiles (x : Resid) : List Nat := ((rectPages x.origin x.w x.h).getD []).flatMap tilesOfPage

/-- A tile of the residency holds a background configuration not yet adopted. -/
def Cluster.pendingBg (k : Cluster) (x : Resid) : Bool := x.tiles.any (fun t => (k.tile t).bg.isSome)

/-- An image that a residency cannot move with (R350): it holds an island record or a STAGE or FIFO binding. -/
def Image.fixed (m : Image) : Bool := !m.islands.isEmpty || m.binds.any (fun b => biPath b != 0)

/-- The residency's foreground image is no longer in use: every unit has adopted the background, and no island runs on. -/
def Cluster.leftFg (k : Cluster) (x : Resid) : Bool :=
  x.bgImage != 0 && !k.pendingBg x && x.ags.all (fun a => (k.ag a).bg.isNone) &&
  x.islands.all (fun i => (k.mat i).bg.isNone && (k.mat i).fg.isNone)

/-- A residency may be moved: its launch allows it; no island record and no STAGE or FIFO binding in an image that it still
uses, nor any binding that is still made; no AG stopped at a fault point or with a record waiting in channel 0; no PARAM token waiting.  One that a stop
wave has frozen stays where it is saved. -/
def Cluster.canMove (k : Cluster) (r : Nat) : Bool :=
  let x := k.resident r
  x.live && x.movable && !x.frozen && !x.bgFixed && (!x.fgFixed || k.leftFg x) && x.islands.all (fun i => (k.mat i).bg.isNone && (k.mat i).fg.isNone) &&
  x.binds.all (fun b => b.path == 0) &&
  x.ags.all (fun a => !(k.ag a).stopped && (k.ag a).params.all (fun p => p.2) &&
    (match (k.ag a).bg with | some g => (match g.bind with | some b => b.path == 0 | none => true) | none => true)) &&
  !((k.chans.get 0 {}).queue.any (fun q => fld q.msg.w0.toNat 63 56 == 0x80 && fld q.msg.w0.toNat 31 16 == x.handle r))

/-- A residency of `w` by `h` pages with these AG sides fits at page `o` (R345): every page there is free. -/
def Cluster.moveFits (k : Cluster) (r o : Nat) : Bool :=
  let x := k.resident r
  match rectPages o x.w x.h with
  | none => false
  | some ps =>
    o != x.origin && ps.all (fun p => k.page p == .free) &&
    x.ags.all (fun a => if a < 16 then o % 4 == 0 else o % 4 + x.w == 4) &&
    x.ags.all (fun a => match k.agOwner (a + 4 * (o / 4) - 4 * (x.origin / 4)) with | none => true | some q => q == r)

/-- A tile number moved by pages. -/
def shiftTile (o o' t : Nat) : Nat :=
  let (cx, cy) := pageTile o
  let (cx', cy') := pageTile o'
  16 * (t / 16 + cy' - cy) + (t % 16 + cx' - cx)

/-- What tokens descend from (R293), when AGs move. -/
def movedAgs (ags : List Nat) (up : Nat → Nat) (p : Nat) : Nat := ((ags.filter (bit p)).map (fun a => 2 ^ up a)).sum
def Token.mapProv (f : Nat → Nat) (t : Token) : Token := { t with prov := f t.prov }
def Links.mapProv (f : Nat → Nat) (k : Links) : Links :=
  { k with prov := f k.prov, bufs := k.bufs.map (fun e => (e.1, e.2.map (fun b => { b with tok := b.tok.mapProv f }))),
           outs := k.outs.map (fun e => (e.1, e.2.map (fun b => { b with tok := b.tok.mapProv f }))) }
def Tile.mapProv (f : Nat → Nat) (t : Tile) : Tile :=
  { t with lk := t.lk.mapProv f, queues := t.queues.map (fun e => (e.1, { e.2 with toks := e.2.toks.map (Token.mapProv f) })) }

/-- Moves the residency in slot `r` to page `o` (R350): tiles, AGs, buffers, kills on their way and bindings. -/
def Cluster.moveTo (k : Cluster) (r o : Nat) : Cluster :=
  let x := k.resident r
  let tiles := x.pages.flatMap tilesOfPage
  let old := tiles.map (fun t => (t, k.tile t))
  let oldAgs := x.ags.map (fun a => (a, k.ag a))
  let up := fun (a : Nat) => a + 4 * (o / 4) - 4 * (x.origin / 4)
  let bind := fun (b : Bind) => { b with ag := up b.ag }
  let cfg := fun (g : Option AgCfg) => g.map (fun c => { c with bind := c.bind.map bind })
  let old := old.map (fun e => (e.1, e.2.mapProv (movedAgs x.ags up)))
  let k := tiles.foldl (fun k t => k.setTile t {}) k
  let k := x.ags.foldl (fun k a => k.setAg a (k.ag a).cleared) k
  let k := old.foldl (fun k e => k.setTile (shiftTile x.origin o e.1) e.2) k
  let k := oldAgs.foldl (fun k e => k.setAg (up e.1) 
    -- an AG's fault window stays with its number (R408)
    { e.2 with fg := cfg e.2.fg, bg := cfg e.2.bg, lk := e.2.lk.mapProv (movedAgs x.ags up), fault := (k.ag (up e.1)).fault }) k
  let shiftPage := fun (p : Nat) => p + o - x.origin
  let pages := x.pages.map shiftPage
  let k := (k.setPages x.pages [] .free).setPages pages [] (.held r)
  let k := { k with wires := k.wires.map (fun (w : KillMsg) =>
    if w.unit < 256 then (if tiles.contains w.unit then { w with unit := shiftTile x.origin o w.unit } else w)
    else if x.ags.contains (w.unit - 256) then { w with unit := 256 + up (w.unit - 256) } else w) }
  k.setResident r { x with origin := o, pages := pages, ags := x.ags.map up, binds := x.binds.map bind,
                           itemAg := x.itemAg.map up }

/-- What an AG's accesses have made known moves with it (R293, R294). -/
def State.renameAgs (s : State) (c : Nat) (as : List (Nat × Nat)) : State :=
  { s with invals := s.invals.map (fun v => { v with knowers := v.knowers.map (fun n =>
      match as.find? (fun e => agentAg c e.1 == n) with | some e => agentAg c e.2 | none => n) }) }

/-- A move as the launch unit sees it: a gang member's entry is rewritten (R363). -/
def State.moveResid (s : State) (c r o : Nat) : State :=
  let x := (s.cl c).resident r
  let s := s.setCl c ((s.cl c).moveTo r o)
  let s := s.renameAgs c (x.ags.map (fun a => (a, a + 4 * (o / 4) - 4 * (x.origin / 4))))
  match ((s.cl c).resident r).gang with
  | none => s
  | some (l, m) => s.setMember (dieOf c) l m (fun y => { y with page := o })

/-- The moves open to a cluster: residencies by rising origin, destinations by rising page. -/
def Cluster.moves (k : Cluster) : List (Nat × Nat) :=
  (List.range 16).flatMap (fun p =>
    ((List.range 16).filter (fun r => (k.resident r).origin == p && k.canMove r)).flatMap (fun r =>
      ((List.range 16).filter (fun o => k.moveFits r o)).map (fun o => (r, o))))

/-- The first list of exactly `n` moves after which a test holds. -/
def Cluster.movesFor (ok : Cluster → Bool) : Nat → Cluster → Option (List (Nat × Nat))
  | 0, k => if ok k then some [] else none
  | n + 1, k => k.moves.findSome? (fun (r, o) => ((k.moveTo r o).movesFor ok n).map (fun t => (r, o) :: t))

/-- The fewest moves after which a test holds (R351), up to one for each residency slot. -/
def Cluster.fewestMoves (k : Cluster) (ok : Cluster → Bool) : Option (List (Nat × Nat)) :=
  (List.range 17).findSome? (fun n => k.movesFor ok n)

/-! ### RESID (R331) -/

/-- Fields of a residency descriptor. -/
def rdImage (d : Nat) : Nat := fld d 63 0
def rdSeed (d : Nat) : Nat := fld d 95 64
def rdEchan (d : Nat) : Nat := fld d 99 96
def rdEmsg (d : Nat) : Bool := bit d 100
def rdTag (d : Nat) : Nat := fld d 143 128
def rdGang (d : Nat) : Nat := fld d 159 144
def rdGv (d : Nat) : Bool := bit d 160
def rdIter (d : Nat) : Nat := fld d 255 192

/-- Step 1 of R331, and the alignment of ITERVA (R352). -/
def rdBad (d : Nat) : Bool :=
  fld d 127 101 != 0 || fld d 191 161 != 0 || fld d 511 256 != 0 || rdIter d % 32 != 0

/-- The image sends toward AG record `r` on channel 3. -/
def Image.linksP (m : Image) (r : ImgRec) : Bool :=
  match m.swWord (if r.x = 0 then 0 else 4 * m.w - 1) r.y (if r.x = 0 then 3 else 1) with
  | some w => swSrc w != 7 && swVc w == 3
  | none => false

/-- The item AG of an image placed at page `o` (R352). -/
def Image.itemAg (m : Image) (o : Nat) : Option Nat :=
  ((m.agRecs.filter (fun r => bit (ofBytes (r.payload.take 4)) 3 && !m.linksP r)).map
    (fun r => (pageTile o).2 + r.y + 16 * r.x)).foldl (fun a n => match a with | none => some n | some b => some (min b n)) none

/-- A binding entry can be made (R185, R192), for an image placed at page `o`. -/
def Cluster.bindOk (k : Cluster) (m : Image) (o b : Nat) : Bool :=
  let port := (pageTile o).2 + biRow b + 16 * biSide b
  b / 2 ^ 30 == 0 && fld b 15 0 == m.psid && decide (biRow b < 4 * m.h) && biPath b != 3 &&
  (biPath b == 2 || biBank b == 0) &&
  (biPath b == 0 || (match m.agWord (biSide b) (biRow b) with
    | some w => agOp w == b2n (biOut b)
    | none => true)) &&
  (biPath b != 2 || (decide (biBank b < 48) && k.mode (biBank b) == mFifo && (k.bq (biBank b)).en &&
    (k.bq (biBank b)).port == port)) &&
  (m.binds.filter (fun b' => biSide b' == biSide b && biRow b' == biRow b)).length == 1

/-- Reservations of a launch. -/
def isMine (l : Nat) (st : PageSt) : Bool := match st with | .reserved l' _ => l' == l | _ => false

/-- The members of a launch whose reservation a placement touches. -/
def Cluster.touched (k : Cluster) (l : Nat) (ps is : List Nat) : List Nat :=
  (List.range 64).filter (fun m => ps.any (fun p => k.page p == .reserved l m) || is.any (fun i => k.isle i == .reserved l m))

/-- Starts a residency in slot `r` at page `o` (step 6 of R331), which also holds the islands `more` of the reservation
it claims (R360); one of these that its image does not use is idle. -/
def Cluster.startResid (k : Cluster) (m : Image) (r o : Nat) (more : List Nat) (x : Resid) : Cluster :=
  let (cx, cy) := pageTile o
  let ps := (rectPages o m.w m.h).getD []
  let isl := more.foldl (fun l i => insertNat i l) m.islands
  let k := k.setPages ps isl (.held r)
  let k := (isl.filter (fun i => !m.islands.contains i)).foldl (fun k i => k.setMat i (k.mat i).cleared) k
  let k := (List.range (4 * m.h)).foldl (fun k y => (List.range (4 * m.w)).foldl (fun k x =>
    let g := m.tileCfg 0 x y
    k.setTile (16 * (cy + y) + cx + x) { fg := some g, mt := g.mtData.filter (fun e => e.2 != 0) }) k) k
  let k := m.agRecs.foldl (fun k rc =>
    let (a, g) := m.agCfg 0 cy rc
    let old := k.ag a
    k.setAg a ({ fg := some g, fault := old.fault } : Ag).start) k
  let k := m.islands.foldl (fun k i =>
    k.setMat i { fg := some (((m.prog i).getD []).map (BitVec.ofNat 32)), image := BitVec.ofNat 64 m.va }) k
  let binds := m.agRecs.filterMap (fun rc => ((m.agCfg 0 cy rc).2).bind)
  let lone := m.binds.filter (fun b => (m.agWord (biSide b) (biRow b)).isNone)
  let binds := binds ++ lone.map (fun b =>
    { ag := cy + biRow b + 16 * biSide b, dirOut := biOut b, path := biPath b, bank := biBank b })
  k.setResident r { x with live := true, origin := o, w := m.w, h := m.h, pages := ps, ags := m.agsAt o,
                           islands := isl, fgFixed := m.fixed, binds := binds }

/-- Whether a launch on die `d` is blocking (R357). -/
def Die.blocked (d : Die) : Bool := d.launches.any Launch.blocking

/-- The lowest residency slot with no live residency. -/
def Cluster.freeSlot (k : Cluster) : Option Nat := (List.range 16).find? (fun r => !(k.resident r).live)

/-- Where a RESID places its image: the page, the moves that make room first, and the reservation it claims. -/
def State.choosePlace (s : State) (c : Nat) (m : Image) (gv : Bool) (claim : Option (Nat × Member)) (l : Option Nat) :
    Option (Nat × List (Nat × Nat)) :=
  let k := s.cl c
  if gv then
    match claim, l with
    | some (n, y), some l => if k.validAt m (fun st => st == .reserved l n) y.page then some (y.page, []) else none
    | _, _ => none
  else if (s.die (dieOf c)).blocked then none
  else
    let mine := fun (st : PageSt) => match l with | some l => isMine l st | none => false
    match k.fewestMoves (fun k => (k.findPlace m mine).isSome) with
    | none => none
    | some mv => ((mv.foldl (fun k e => k.moveTo e.1 e.2) k).findPlace m mine).map (fun o => (o, mv))

/-- The reservation that a RESID with GV = 1 claims (R360). -/
def State.claimOf (s : State) (c : Nat) (l : Option Nat) (m : Image) : Option (Nat × Member) :=
  match l.bind (fun l => s.gang (dieOf c) l) with
  | none => none
  | some g => ((List.range g.members.length).zip g.members).find? (fun e =>
      e.2.cl == localOf c && e.2.mstate == 0 && e.2.w == m.w && e.2.h == m.h)

/-- RESID once its image is read: the result word and the state (steps 2 to 6 of R331). -/
def State.residWith (s : State) (c ctx d : Nat) (m : Image) : Word × State :=
  let l := (s.sq c).running.launch
  let st := m.judge none none
  let claim := if rdGang d = 0 then s.claimOf c l m else none
  if st != 0 then (BitVec.ofNat 64 st, s)
  else if rdIter d != 0 && (m.itemAg 0).isNone then (result 20 0, s)
  else if rdGv d && claim.isNone then (result 21 0, s)
  else match (s.cl c).freeSlot, s.choosePlace c m (rdGv d) claim l with
    | some r, some (o, mv) =>
      if m.binds.any (fun b => !(s.cl c).bindOk m o b) then (result 19 0, s)
      else
        let s := mv.foldl (fun s e => s.moveResid c e.1 e.2) s
        let s := s.releaseAt c .cl
        let ps := (rectPages o m.w m.h).getD []
        -- reservations that an unclaimed start takes from are consumed whole (R360)
        let s := if rdGv d then s else match l with
          | none => s
          | some l => ((s.cl c).touched l ps m.islands).foldl (fun s n =>
              (s.setCl c ((s.cl c).unreserve l n)).setMember (dieOf c) l n (fun y => { y with mstate := 3 })) s
        let more := match claim, l with
          | some (n, _), some l => if rdGv d then (List.range 4).filter (fun i => (s.cl c).isle i == .reserved l n) else []
          | _, _ => []
        let s := match claim, l with
          | some (n, _), some l => if rdGv d then s.setCl c ((s.cl c).unreserve l n) else s
          | _, _ => s
        let gen := (((s.cl c).resident r).gen + 1) % 4096
        let movable := match l.bind (fun l => s.gang (dieOf c) l) with | some g => g.launch.movable | none => false
        let x : Resid := { gen := gen, ctx := ctx, image := BitVec.ofNat 64 m.va, fgImage := BitVec.ofNat 64 m.va,
                           rseed := rdSeed d, echan := rdEchan d, emsg := rdEmsg d, tag := rdTag d,
                           gang := if rdGv d then l.bind (fun l => claim.map (fun e => (l, e.1))) else none,
                           movable := movable, iterva := BitVec.ofNat 64 (rdIter d),
                           itemAg := if rdIter d = 0 then none else m.itemAg o, frun := (s.ctx ctx).frun }
        let s := s.setCl c ((s.cl c).startResid m r o more x)
        let h := x.handle r
        let s := match x.gang with
          | some (l, n) => s.setMember (dieOf c) l n (fun y => { y with mstate := 1, handle := h })
          | none => s
        (result 0 h, s)
    | _, _ => (result 18 0, s)

/-- RESID (R331). -/
def State.residCmd (s : State) (c ctx : Nat) (va : Word) : Except Stop (Word × State) :=
  if s.descCut va.toNat 64 then .error .wait
  else match (s.cl c).localDesc va.toNat 64 64 with
  | none => .ok (result 20 0, s)
  | some bs =>
    let d := ofBytes bs
    if rdBad d then .ok (result 20 0, s)
    else
      match (s.drainAll c).readImage c ctx (rdImage d) with
      | (.fault f, s) => .error (.trap (accessTrap f.code f.lvl (BitVec.ofNat 64 f.va)) s)
      | (.bad, s) => .ok (BitVec.ofNat 64 (cfgStatus cImage 0 0 0 0 0), s)
      | (.ok m, s) => .ok (s.residWith c ctx d m)

def execResid (d a : Reg) (s : State) : Host.Outcome State Fault Refusal :=
  runCmd (.resid d a) d [a] (fun vs s => s.residCmd s.here (s.sq s.here).running.ctx (vs.getD 0 0)) s

/-! ### CFG (R330) -/

/-- The slot of a live residency of a context; one whose save has written the cluster is no longer found (R419). -/
def State.liveResid (s : State) (c ctx h : Nat) : Option Nat :=
  let r := h % 16
  let x := (s.cl c).resident r
  if x.live && x.gen == h / 16 && x.ctx == ctx && decide (h < 2 ^ 16) && !s.saveWritten c ctx then some r else none

/-- The number of the next configuration of a residency. -/
def Cluster.nextCfg (k : Cluster) (x : Resid) : Nat :=
  let n := x.tiles.foldl (fun n t => max n (((k.tile t).fg.map TileCfg.cfg).getD 0)) 0
  let n := x.ags.foldl (fun n a => max n (((k.ag a).fg.map AgCfg.cfg).getD 0)) n
  x.islands.foldl (fun n i => max n (k.mat i).cfg) n + 1

/-- An AG or island that a later image names is another residency's, or a binding cannot be made: the spec gives CFG no
code for either, and the model answers IMAGE (assumption 31). -/
def Cluster.cfgClash (k : Cluster) (m : Image) (r : Nat) (x : Resid) : Nat :=
  let taken := (m.agsAt x.origin).filter (fun a => match k.agOwner a with | some q => q != r | none => false)
  let isl := m.islands.filter (fun i => k.isle i != .free && k.isle i != .held r)
  let bad := m.binds.filter (fun b => !k.bindOk m x.origin b)
  match taken, isl, bad with
  | a :: _, _, _ => cfgStatus cImage 2 0 0 a 0
  | [], i :: _, _ => cfgStatus cImage 4 0 0 i 0
  | [], [], b :: _ => cfgStatus cImage 2 0 0 ((pageTile x.origin).2 + biRow b + 16 * biSide b) 0
  | [], [], [] => 0

/-- Writes every background slot of an image. -/
def Cluster.writeBg (k : Cluster) (m : Image) (r : Nat) : Cluster :=
  let x := k.resident r
  let n := k.nextCfg x
  let (cx, cy) := pageTile x.origin
  let k := (List.range (4 * m.h)).foldl (fun k y => (List.range (4 * m.w)).foldl (fun k x =>
    let t := 16 * (cy + y) + cx + x
    k.setTile t { k.tile t with bg := some (m.tileCfg n x y) }) k) k
  let k := m.agRecs.foldl (fun k rc =>
    let (a, g) := m.agCfg n cy rc
    -- faults are counted from the AG's entry into the residency (R408)
    let was := k.ag a
    k.setAg a { was with bg := some g, fseq := if x.ags.contains a then was.fseq else 0 }) k
  let k := m.islands.foldl (fun k i =>
    k.setMat i { k.mat i with bg := some (((m.prog i).getD []).map (BitVec.ofNat 32)), bgCfg := n,
                              bgImage := BitVec.ofNat 64 m.va }) k
  let k := k.setPages [] m.islands (.held r)
  k.setResident r { x with bgImage := BitVec.ofNat 64 m.va, bgFixed := m.fixed,
                           fgFixed := if x.bgImage = 0 then x.fgFixed else x.bgFixed, ags := (m.agsAt x.origin).foldl (fun l a => insertNat a l) x.ags,
                           islands := m.islands.foldl (fun l i => insertNat i l) x.islands }

/-- CFG (R330). -/
def State.cfgCmd (s : State) (c ctx : Nat) (va h : Word) : Except Stop (Word × State) :=
  match s.liveResid c ctx h.toNat with
  | none => .ok (16, s)
  | some r =>
    let x := (s.cl c).resident r
    if x.draining then .ok (16, s)
    else if (s.cl c).pendingBg x then .ok (17, s)
    else
      match (s.drainAll c).readImage c ctx va.toNat with
      | (.fault f, s) => .error (.trap (accessTrap f.code f.lvl (BitVec.ofNat 64 f.va)) s)
      | (.bad, s) => .ok (BitVec.ofNat 64 (cfgStatus cImage 0 0 0 0 0), s)
      | (.ok m, s) =>
        let st := m.judge (some (x.w, x.h)) (some (pageTile x.origin))
        if st != 0 then .ok (BitVec.ofNat 64 st, s)
        else
          let st := (s.cl c).cfgClash m r x
          if st != 0 then .ok (BitVec.ofNat 64 st, s)
          else .ok (0, s.setCl c ((s.cl c).writeBg m r))

def execCfg (d a b : Reg) (s : State) : Host.Outcome State Fault Refusal :=
  runCmd (.cfg d a b) d [a, b] (fun vs s => s.cfgCmd s.here (s.sq s.here).running.ctx (vs.getD 0 0) (vs.getD 1 0)) s

/-! ### PARAM, RESUME, GBAR (R332, R333) -/

/-- A switch word of the AG's facing tile sends toward it on channel 3. -/
def Cluster.paramLinked (k : Cluster) (a : Nat) : Bool :=
  match (k.tile (agTile a)).fg with
  | none => false
  | some g => let w := g.switch (agSide a); swSrc w != 7 && swVc w == 3

/-- The token that PARAM appends. -/
def paramToken (v : Nat) (eos : Bool) : Token :=
  { lanes := lanesOf (fun i => if i = 0 then v % 2 ^ 32 else if i = 1 then v / 2 ^ 32 else 0), valid := 3, tag := tagUint32,
    mcode := if eos then 2 else 0 }

/-- An AG has ended (R191): every enabled slot has delivered EOS after its final round, every order token has left, and
the tile it faces has taken its last token. -/
def Ag.ended (g : Ag) : Bool :=
  match g.fg with
  | none => true
  | some x => g.phase == .drain && ((List.range 4).filter (fun i => bit x.word.toNat i)).all (fun i => g.lk.slotEos.contains i) &&
      g.owed.isEmpty && g.lk.quiet && !g.stopped

/-- PARAM (R332). -/
def State.paramCmd (s : State) (c ctx : Nat) (t v : Word) : Word × State :=
  let a := tgUnit t
  if t.toNat / 2 ^ 23 != 0 || tgMk t % 2 == 1 then (result 26 0, s)
  else match s.liveResid c ctx (tgHandle t) with
    | none => (result 16 0, s)
    | some r =>
      let k := s.cl c
      let g := k.ag a
      let fits := match g.fg with | some x => (k.resident r).ags.contains a && bit x.word.toNat 3 && !g.ended | none => false
      if !fits then (result 26 0, s)
      else if k.paramLinked a then (result 24 0, s)
      else if 4 ≤ g.params.length then (result 23 0, s)
      else
        let s := s.releaseAt c .cl
        let k := s.cl c
        (result 0 0, s.setCl c (k.setAg a { g with params := g.params ++ [(paramToken v.toNat (tgMk t == 2), false)] }))

def execParam (d a b : Reg) (s : State) : Host.Outcome State Fault Refusal :=
  runCmd (.param d a b) d [a, b] (fun vs s =>
    .ok (s.paramCmd s.here (s.sq s.here).running.ctx (vs.getD 0 0) (vs.getD 1 0))) s

/-- RESUME (R332, R195). -/
def State.resumeCmd (s : State) (c ctx : Nat) (t : Word) : Word × State :=
  let a := tgUnit t
  if t.toNat / 2 ^ 21 != 0 then (result 26 0, s)
  else match s.liveResid c ctx (tgHandle t) with
    | none => (result 16 0, s)
    | some r =>
      if !(((s.cl c).resident r).ags.contains a && ((s.cl c).ag a).stopped) then (result 22 0, s)
      else
        let s := s.releaseAt c .cl
        (result 0 0, s.setCl c ((s.cl c).setAg a ((s.cl c).ag a).resume))

def execResume (d a : Reg) (s : State) : Host.Outcome State Fault Refusal :=
  runCmd (.resume d a) d [a] (fun vs s => .ok (s.resumeCmd s.here (s.sq s.here).running.ctx (vs.getD 0 0))) s

/-- GBAR (R333). -/
def State.gbarCmd (s : State) (c ctx : Nat) (t mw : Word) : Word × State :=
  let b := fld t.toNat 17 16
  if t.toNat / 2 ^ 18 != 0 || mw.toNat / 2 ^ 20 != 0 then (result 26 0, s)
  else match s.liveResid c ctx (tgHandle t) with
    | none => (result 16 0, s)
    | some r =>
      match ((s.cl c).resident r).gang with
      | none => (result 21 0, s)
      | some (l, m) =>
        match s.gang (dieOf c) l with
        | none => (result 21 0, s)
        | some g =>
          let x := g.barriers.getD b {}
          if x.arrivals.any (fun y => y.member == m) then (result 25 0, s)
          else
            let s := s.releaseAt c .die
            let y : GArrival := { member := m, cl := c, chan := mwChan mw, tag := mwTag mw }
            let s := s.setGang (dieOf c) l { g with barriers := setIdx g.barriers b { x with arrivals := x.arrivals ++ [y] } }
            (result 0 0, s.gbarTry (dieOf c) l b)

def execGbar (d a b : Reg) (s : State) : Host.Outcome State Fault Refusal :=
  runCmd (.gbar d a b) d [a, b] (fun vs s =>
    .ok (s.gbarCmd s.here (s.sq s.here).running.ctx (vs.getD 0 0) (vs.getD 1 0))) s

/-! ### Teardown and adoption (R346 to R348) -/

/-- The slots that a tile's unit enables. -/
def TileCfg.slots (g : TileCfg) : List Nat :=
  (List.range 4).filter (fun i => bit g.pe.toNat i || g.mts.any (fun e => bit e.2.toNat i))

/-- The unit of a tile has ended (R346): every enabled slot has delivered EOS, what it popped is counted out, and nothing
of it is still to be sent. -/
def Tile.unitEnded (t : Tile) : Bool :=
  t.cfgNow.slots.all (fun i => t.ended i) && t.lk.quiet && t.lk.kept == 0 && t.op.closing.isNone && !t.op.hdrSent &&
  t.queues.all (fun e => e.2.toks.isEmpty)

/-- Every switch word whose source is an input or a unit output has passed EOS. -/
def Tile.switchesEnded (t : Tile) : Bool :=
  (List.range 8).all (fun w => decide (6 ≤ swSrc (t.cfgNow.switch w)) || t.swEos.contains w)

/-- The channels on which the streams of a configuration already stand in the buffers at adoption (R99). -/
def adoptedVc (bufs : Tab (List BufEnt)) (cfg : Nat) : List Nat :=
  (bufs.filter (fun e => e.2.any (fun b => decide (b.cfg ≤ cfg)))).map Prod.fst

/-- The tile adopts its background: the operation state starts empty, the MT keeps its contents but for the words the
image gives (R92), flags and FIDX stay. -/
def Tile.adopt (t : Tile) (g : TileCfg) : Tile :=
  { fg := some g, bg := none, lk := { bufs := t.lk.bufs }, flags := t.flags, fidx := t.fidx,
    mt := g.mtData.foldl (fun m e => mtSet m e.1 e.2) t.mt, inVc := adoptedVc t.lk.bufs g.cfg }

/-- A residency gives back a page whose tiles are all idle. -/
def State.returnPage (s : State) (c r p : Nat) : State :=
  let k := s.cl c
  let x := k.resident r
  if (tilesOfPage p).all (fun t => (k.tile t).idle) && x.pages.contains p then
    let k := (tilesOfPage p).foldl (fun (k : Cluster) t => k.setTile t (k.tile t).cleared) k
    let k := (k.setPages [p] [] .free).setResident r { x with pages := x.pages.filter (fun q => q != p), draining := true }
    (s.setCl c k).checkEnd c r
  else s

/-- A tile tears down (R346, R347); an idle tile with a background adopts it at once.  From an adoption on, FGIMAGE is
the image it came from (R421). -/
def State.tileDown (s : State) (c x : Nat) : State :=
  let k := s.cl c
  let t := k.tile x
  match k.tileOwner x with
  | none => s
  | some r =>
    let gone := t.fg.isNone || (t.unitEnded && t.switchesEnded)
    if k.isFrozen x || !gone then s
    else match t.bg with
      | some g => s.setCl c ((k.setTile x (t.adopt g)).setResident r { k.resident r with fgImage := g.image })
      | none => if t.fg.isNone then s else (s.setCl c (k.setTile x t.idled)).returnPage c r (pageOfTile x)

/-- An AG that has ended adopts its background, or is released (R347, R348); its accesses are performed at its word's
SCOPE first (R297). -/
def State.agDown (s : State) (c a : Nat) : State :=
  let k := s.cl c
  let g := k.ag a
  match k.agOwner a with
  | none => s
  | some r =>
    let x := k.resident r
    if k.isFrozen (256 + a) || !g.ended then s
    else match g.bg with
      | some b =>
        let s := s.performAgs c [a]
        let k := s.cl c
        let binds := x.binds.filter (fun y => y.ag != a) ++ (match b.bind with | some y => [y] | none => [])
        let k := k.setAg a ({ g with fg := some b, bg := none, prev := g.fg, lk := { bufs := g.lk.bufs }, past := false,
                                     inVc := (adoptedVc g.lk.bufs b.cfg).map (fun key => key / 4 - 4) } : Ag).start
        s.setCl c (k.setResident r { x with binds := binds })
      | none =>
        let s := s.performAgs c [a]
        let k := (s.cl c).setAg a g.cleared
        (s.setCl c (k.setResident r { x with ags := x.ags.filter (fun y => y != a) })).checkEnd c r

/-- A port at its island's adoption of configuration `cfg` keeps what has already arrived for it (R99). -/
def IslePort.adopt (q : IslePort) (cfg : Nat) : IslePort := { buf := q.buf, used := q.buf.any (fun b => decide (b.cfg ≤ cfg)) }

/-- An island that has ended adopts its background, with its state kept, or is released. -/
def State.isleDown (s : State) (c i : Nat) : State :=
  let k := s.cl c
  let m := k.mat i
  match k.isleOwner i with
  | none => s
  | some r =>
    let x := k.resident r
    if k.isFrozen (288 + i) || !(m.ended || m.fg.isNone) || m.err != 0 then s
    else match m.bg with
      | some p =>
        s.setCl c (k.setMat i { m with fg := some p, bg := none, cfg := m.bgCfg, image := m.bgImage, ipc := 0, ended := false,
                                       done := false, cyc := 0, pushing := [], f0 := m.f0.adopt m.bgCfg, f1 := m.f1.adopt m.bgCfg })
      | none =>
        let k := (k.setMat i m.cleared).setPages [] [i] .free
        (s.setCl c (k.setResident r { x with islands := x.islands.filter (fun j => j != i) })).checkEnd c r

/-- TILE_TEARDOWN (R346 to R348), of whichever unit acts. -/
def execTileTeardown (s : State) : Host.Outcome State Fault Refusal :=
  let u := s.actor.unit
  .next (if u < 256 then s.tileDown s.here u
    else if u < 288 then s.agDown s.here (u - 256)
    else s.isleDown s.here ((u - 288) % 4))

/-! ### Iteration records (R352) -/

/-- The fault record of a claim that fails translation: an ATOMIC at NEXT's VA, by the item AG, at no lane. -/
def State.claimFault (s : State) (c r a : Nat) (f : AFail) : State :=
  let k := s.cl c
  let x := k.resident r
  let g := k.ag a
  let n := g.fseq + 1
  let op := match g.fg with | some w => agOp w.word.toNat | none => 0
  let rcd := f.code + f.lvl * 2 ^ 4 + 2 * 2 ^ 6 + a * 2 ^ 8 + op * 2 ^ 13 + x.handle r * 2 ^ 16 + 0x80 * 2 ^ 56 +
    f.va * 2 ^ 64 + g.rounds % 2 ^ 32 * 2 ^ 256 + x.ctx * 2 ^ 384 + localOf c * 2 ^ 390 + dieOf c * 2 ^ 396 +
    n % 2 ^ 32 * 2 ^ 448
  let s := s.setCl c (k.setAg a { g with stopped := true, fault := rcd, fseq := n })
  s.post c (2 + a) 0 { msg := msgOf (toBytes 32 rcd), ctx := x.ctx }

/-- The item AG claims an item (R352): an atomic add at NEXT, at home, an acquire at DEV, whose accesses descend from it.
An older copy that writes NEXT stalls it, as any atomic of an AG (R69). -/
def State.claimItem (s : State) (c r : Nat) : State :=
  let k := s.cl c
  let x := k.resident r
  match x.itemAg with
  | none => s
  | some a =>
    let g := k.ag a
    if !x.live || x.frozen || x.iterva = 0 || x.claimsDone || g.fg.isNone || g.stopped || g.lk.slotEos.contains 3 ||
        g.params.any Prod.snd || 4 ≤ g.params.length ||
        k.stalls none 0 x.ctx x.iterva.toNat 8 then s
    else
      let va := x.iterva.toNat
      match s.translate c (dieOf c) c x.ctx .atomic va with
      | (.bad code lvl, s) => s.claimFault c r a { code := code, lvl := lvl, va := va }
      | (.ok pa _, s) =>
        if s.poisonedAt pa then s.machineCheck c x.ctx 2 a pa x.iterva 0
        else
          let old := ofBytes (s.mem.bytes pa 8)
          let rest := ofBytes (s.mem.bytes (pa + 8) 24)
          let s := (s.storeHome (dieOf c) (agentAg c a) pa (toBytes 8 (old + 1)) false).acquire (agentAg c a)
          let k := s.cl c
          let g := k.ag a
          let x := k.resident r
          let more := decide (old < fld rest 63 0)
          let v := (fld rest 127 64 + old * fld rest 191 128) % 2 ^ 64
          let t := if more then paramToken v false else markerToken .eos
          s.setCl c ((k.setAg a { g with params := g.params ++ [(t, true)] }).setResident r { x with claimsDone := !more })

/-- ITERATION_CLAIM (R352). -/
def execIterationClaim (slot : BitVec 4) (s : State) : Host.Outcome State Fault Refusal :=
  .next (s.claimItem s.here slot.toNat)

/-! ### Tile flags (R238) -/

/-- A W1C store to a tile's flag register. -/
def Tile.clearFlags (t : Tile) (v : Nat) : Tile :=
  { t with flags := (BitVec.ofNat 7 t.flags &&& ~~~BitVec.ofNat 7 v).toNat }

/-- TILE_FLAG_WRITE (R238). -/
def execTileFlagWrite (tile : BitVec 8) (v : BitVec 64) (s : State) : Host.Outcome State Fault Refusal :=
  let k := s.cl s.here
  .next (s.setCl s.here (k.setTile tile.toNat ((k.tile tile.toNat).clearFlags v.toNat)))

end Sys2Proof.Machine
end

