-- ==== Sys2Proof/Machine/Launch.lean ====
section
/-! DEFINITION. The launch unit of a die: launch packets (R353 to R355), eligibility and ageing (R356, R357), admission
(R358, R359), host queues and link launches (R364 to R366). -/

namespace Sys2Proof.Machine

/-! ### Packets (R353, R354) -/

def lpEntry (p : Nat) : Nat := fld p 63 0
def lpChan (p : Nat) : Nat := fld p 67 64
def lpPrio (p : Nat) : Nat := fld p 70 68
def lpElastic (p : Nat) : Bool := bit p 71
def lpCtx (p : Nat) : Nat := fld p 77 72
def lpMovable (p : Nat) : Bool := bit p 78
def lpNmemb (p : Nat) : Nat := fld p 86 80
def lpMinmemb (p : Nat) : Nat := fld p 94 88
def lpNwait (p : Nat) : Nat := fld p 98 96
def lpShapeva (p : Nat) : Nat := fld p 191 128
def lpRptva (p : Nat) : Nat := fld p 255 192

/-- A packet whose own bits are out of range. -/
def lpBad (p : Nat) : Bool :=
  bit p 79 || bit p 87 || bit p 95 || fld p 127 99 != 0 || lpEntry p % 4 != 0 || lpNmemb p == 0 || decide (64 < lpNmemb p) ||
  (if lpElastic p then lpMinmemb p == 0 || decide (lpNmemb p < lpMinmemb p) else lpMinmemb p != 0) ||
  decide (4 < lpNwait p) || lpShapeva p % 8 != 0 || lpRptva p % 64 != 0

/-- Fields of a shape entry. -/
def shW (e : Nat) : Nat := fld e 2 0
def shH (e : Nat) : Nat := fld e 5 3
def shMask (e : Nat) : Nat := fld e 9 6
def shEdge (e : Nat) : Nat := fld e 11 10

/-- A shape entry out of range. -/
def shBad (e : Nat) : Bool :=
  shW e == 0 || decide (4 < shW e) || shH e == 0 || decide (4 < shH e) || e / 4096 != 0 || (shEdge e == 3 && shW e != 4)

/-! ### Placement of members (R345, R351, R358) -/

/-- A shape fits at page `o`: its pages and islands are free, and the edges it uses lie at the cluster's edges (R184). -/
def Cluster.shapeFits (k : Cluster) (e o : Nat) : Bool :=
  match rectPages o (shW e) (shH e) with
  | none => false
  | some ps =>
    ps.all (fun p => k.page p == .free) && (maskList (shMask e) 4).all (fun i => k.isle i == .free) &&
    (!bit (shEdge e) 0 || o % 4 == 0) && (!bit (shEdge e) 1 || o % 4 + shW e == 4)

/-- The lowest origin at which a shape fits. -/
def Cluster.shapeAt (k : Cluster) (e : Nat) : Option Nat := (List.range 16).find? (fun o => k.shapeFits e o)

/-- Reserves a shape's pages and islands for a member. -/
def Cluster.reserve (k : Cluster) (e o l m : Nat) : Cluster :=
  k.setPages ((rectPages o (shW e) (shH e)).getD []) (maskList (shMask e) 4) (.reserved l m)

/-- Places one shape on the first of a list of clusters where it fits. -/
def placeOne (e : Nat) : List Cluster → Option (List Cluster)
  | [] => none
  | k :: ks =>
    match k.shapeAt e with
    | some o => some (k.reserve e o 0 0 :: ks)
    | none => (placeOne e ks).map (fun ks => k :: ks)

/-- The shapes could all be placed, one after the other. -/
def placeTest : List Nat → List Cluster → Bool
  | [], _ => true
  | e :: es, ks => match placeOne e ks with | some ks => placeTest es ks | none => false

/-- The shape of member `m`. -/
def Launch.shape (l : Launch) (m : Nat) : Nat := l.shapes.getD (if l.elastic then 0 else m) 0

/-- A cluster whose CHAN is bound in another context is no place for the launch (R359). -/
def State.launchable (s : State) (l : Launch) (c : Nat) : Bool :=
  let q := (s.chan c l.chan).q
  !(qBound q && qCtx q != l.ctx)

/-- Reserves a place for a member on the first cluster of a list that has one, making room by moves where that is the
only way (R351). -/
def State.placeMember (s : State) (l : Launch) (m : Nat) : List Nat → Option (Member × State)
  | [] => none
  | c :: cs =>
    let e := l.shape m
    let k := s.cl c
    let plan := if s.launchable l c then k.fewestMoves (fun k => (k.shapeAt e).isSome) else none
    match plan with
    | none => s.placeMember l m cs
    | some mv =>
      let s := mv.foldl (fun s x => s.moveResid c x.1 x.2) s
      match (s.cl c).shapeAt e with
      | none => none
      | some o =>
        some ({ cl := localOf c, page := o, w := shW e, h := shH e, imask := shMask e },
          s.setCl c ((s.cl c).reserve e o l.num m))

/-- Places members from `m` on, `n` of them at most, stopping at the first that fails. -/
def State.placeMembers (l : Launch) (d : Nat) : Nat → Nat → State → List Member × State
  | 0, _, s => ([], s)
  | n + 1, m, s =>
    match s.placeMember l m ((List.range 40).map (fun i => d * 40 + i)) with
    | none => ([], s)
    | some (x, s) => let r := State.placeMembers l d n (m + 1) s; (x :: r.1, r.2)

/-- The members a launch would be admitted with; `none` where it does not fit. -/
def State.tryPlace (s : State) (d : Nat) (l : Launch) : Option (List Member × State) :=
  let r := State.placeMembers l d l.nmemb 0 s
  if (if l.elastic then l.minmemb else l.nmemb) ≤ r.1.length then some r else none

/-- The moves on cluster `c` by which the members of a launch from `m` on are placed, the first for each member. -/
def State.movesOf (l : Launch) (d c : Nat) : Nat → Nat → State → List (Nat × Nat)
  | 0, _, _ => []
  | n + 1, m, s =>
    match s.placeMember l m ((List.range 40).map (fun i => d * 40 + i)) with
    | none => []
    | some (x, t) =>
      let mv := if d * 40 + x.cl = c then (s.cl c).fewestMoves (fun k => (k.shapeAt (l.shape m)).isSome) else none
      (mv.getD []).take 1 ++ State.movesOf l d c n (m + 1) t

/-! ### Acceptance (R355, R356) -/

/-- COND of a wait entry (R354). -/
def waitHolds (cond x y : Nat) : Bool :=
  match cond with
  | 0 => x == y
  | 1 => x != y
  | 2 => decide (y ≤ x)
  | _ => decide (x < y)

/-- Reads each unsatisfied wait word through the die's view, as an acquire; a satisfied wait stays satisfied. -/
def State.readWaits (d ctx : Nat) : List (Nat × Nat × Nat) → State → List (Nat × Nat × Nat) × State
  | [], s => ([], s)
  | (cond, va, v) :: ws, s =>
    match s.engRead (whoLaunch d) ctx va 8 with
    | (.error _, s) => let r := State.readWaits d ctx ws s; ((cond, va, v) :: r.1, r.2)
    | (.ok bs, s) =>
      let r := State.readWaits d ctx ws (s.acquire (agentDie d 0))
      if !anyPoison bs && waitHolds cond (ofBytes (plain bs)) v then r else ((cond, va, v) :: r.1, r.2)

/-- Brings a launch's waits up to date; with none left it becomes eligible. -/
def State.watch (s : State) (d : Nat) (l : Launch) : Launch × State :=
  let (ws, s) := State.readWaits d l.ctx l.waits s
  let l := { l with waits := ws }
  (if ws.isEmpty && !l.eligible then { l with eligible := true, since := (s.die d).clock } else l, s)

/-- The launch a packet and its entries make; `none` where they are malformed (R353, R354). -/
def launchOf (p : Nat) (es : List Byte) (num : Nat) (args : Msg) (link : Option Nat) : Option Launch :=
  let ns := if lpElastic p then 1 else lpNmemb p
  let shapes := (List.range ns).map (fun i => ofBytes ((es.drop (4 * i)).take 4))
  let w0 := (4 * ns + 7) / 8 * 8
  let waits := (List.range (lpNwait p)).map (fun i => ofBytes ((es.drop (w0 + 16 * i)).take 16))
  if shapes.any shBad || waits.any (fun w => bit w 2) then none
  else some { num := num, entry := BitVec.ofNat 64 (lpEntry p), chan := lpChan p, prio := lpPrio p, elastic := lpElastic p,
              ctx := lpCtx p, movable := lpMovable p, nmemb := lpNmemb p, minmemb := lpMinmemb p,
              rptva := BitVec.ofNat 64 (lpRptva p), args := args, shapes := shapes,
              waits := waits.map (fun w => (fld w 1 0, fld w 63 3 * 8, fld w 127 64)), link := link }

/-- An origin appears in a context's peer map (R436): a valid entry with its transport and its link address. -/
def State.peerNamed (s : State) (d ctx origin : Nat) : Bool :=
  let va := (s.ctx ctx).peerVa.toNat
  va != 0 && (List.range 4096).any (fun i =>
    match (s.engRead (whoLaunch d) ctx (va + 8 * i) 8).1 with
    | .error _ => false
    | .ok bs =>
      let e := ofBytes (plain bs)
      !anyPoison bs && bit e 0 && e / 2 == origin / 2)

/-- A launch from a link needs the context's right, and its origin in the peer map (R427). -/
def State.linkAdmits (s : State) (d ctx : Nat) : Option Nat → Bool
  | none => true
  | some o => bit (s.ctx ctx).rights 1 && s.peerNamed d ctx o

/-- Accepts or refuses a packet (R355): the R328 status, the launch number, and the state.  `ctxOk` judges CTX; `args`
replaces the packet's arguments (R44). -/
def State.accept (s : State) (d p : Nat) (ctxOk : Nat → Bool) (args : Option Msg) (link : Option Nat) : Nat × Nat × State :=
  let ctx := lpCtx p
  if lpBad p || !ctxOk ctx || !(s.ctx ctx).live then (20, 0, s)
  else
    let ns := if lpElastic p then 1 else lpNmemb p
    match s.engRead (whoLaunch d) ctx (lpShapeva p) ((4 * ns + 7) / 8 * 8 + 16 * lpNwait p) with
    | (.error _, s) => (20, 0, s)
    | (.ok es, s) =>
      let k := s.die d
      match launchOf p (plain es) k.nextLaunch (args.getD (msgOf (toBytes 32 (p / 2 ^ 256)))) link with
      | none => (20, 0, s)
      | some l =>
        let need := (List.range (if l.elastic then l.minmemb else l.nmemb)).map l.shape
        if anyPoison es || !placeTest need (List.replicate 40 {}) then (20, 0, s)
        else if !s.linkAdmits d ctx link || decide ((s.ctx ctx).maxprio < l.prio) then (33, 0, s)
        else if 256 ≤ (k.launches.filter (fun x => x.prio == l.prio)).length then (31, 0, s)
        else
          let (l, s) := s.watch d l
          let k := s.die d
          (0, l.num, s.setDie d { k with launches := k.launches ++ [l], nextLaunch := (k.nextLaunch + 1) % 2 ^ 32 })

/-- LNCH (R337). -/
def State.lnch (s : State) (c ctx : Nat) (va : Word) : Except Stop (Word × State) :=
  if va.toNat % 64 != 0 then .ok (result 20 0, s)
  else match (s.drainAll c).cmdRead c ctx va.toNat 64 with
    | (.error f, s) => .error (.trap (accessTrap f.code f.lvl (BitVec.ofNat 64 f.va)) s)
    | (.ok bs, s) =>
      match (s.releaseAt c .die).accept (dieOf c) (ofBytes bs) (fun x => x == ctx) none none with
      | (0, n, s) => .ok (result 0 n, s)
      | (st, _, s) => .ok (result st 0, s)

def execLnch (d a : Reg) (s : State) : Host.Outcome State Fault Refusal :=
  runCmd (.lnch d a) d [a] (fun vs s => s.lnch s.here (s.sq s.here).running.ctx (vs.getD 0 0)) s

/-! ### Eligibility, ageing, admission (R356 to R359) -/

/-- The die of the actor. -/
def State.hereDie (s : State) : Nat := s.actor.die

/-- Replaces a queued launch. -/
def Die.setLaunch (k : Die) (l : Launch) : Die :=
  { k with launches := k.launches.map (fun (x : Launch) => if x.num = l.num then l else x) }

/-- LAUNCH_ELIGIBLE (R356): the waits of a queued launch are read again. -/
def execLaunchEligible (n : BitVec 32) (s : State) : Host.Outcome State Fault Refusal :=
  let d := s.hereDie
  .next (match (s.die d).launches.find? (fun l => l.num == n.toNat) with
    | none => s
    | some l => let (l, s) := s.watch d l; s.setDie d ((s.die d).setLaunch l))

/-- Steps of 2 ms that an eligible launch has waited. -/
def Die.steps (k : Die) (l : Launch) : Nat := (k.clock - l.since) / 2000

/-- The effective priority (R357). -/
def Die.effPrio (k : Die) (l : Launch) : Nat := min 7 (l.prio + k.steps l)

/-- When an eligible launch reaches priority 7. -/
def Launch.at7 (l : Launch) : Nat := l.since + (7 - l.prio) * 2000

/-- LAUNCH_AGEING (R357): the launch takes its due ageing steps. -/
def execLaunchAgeing (n : BitVec 32) (s : State) : Host.Outcome State Fault Refusal :=
  let d := s.hereDie
  let k := s.die d
  .next (match k.launches.find? (fun l => l.num == n.toNat && l.eligible) with
    | none => s
    | some l =>
      s.setDie d (k.setLaunch { l with aged := k.steps l, since7 := if k.effPrio l = 7 then some l.at7 else none }))

/-- LAUNCH_BLOCKING (R357): a launch that does not fit blocks 16 ms after it reached priority 7. -/
def execLaunchBlocking (n : BitVec 32) (s : State) : Host.Outcome State Fault Refusal :=
  let d := s.hereDie
  let k := s.die d
  .next (match k.launches.find? (fun l => l.num == n.toNat && l.eligible) with
    | none => s
    | some l =>
      if l.at7 + 16000 ≤ k.clock && (s.tryPlace d l).isNone then
        s.setDie d (k.setLaunch { l with aged := k.steps l, since7 := some l.at7, blocking := true })
      else s)

/-- Inserts a launch into selection order: higher effective priority first, then earlier acceptance. -/
def Die.insertSel (k : Die) (l : Launch) : List Launch → List Launch
  | [] => [l]
  | x :: xs => if k.effPrio x < k.effPrio l then l :: x :: xs else x :: k.insertSel l xs

/-- The eligible launches in selection order (R357). -/
def Die.selection (k : Die) : List Launch :=
  (k.launches.filter Launch.eligible).foldl (fun acc l => k.insertSel l acc) []

/-- Writes the report of an admission (R358, R362). -/
def State.admitReport (s : State) (d : Nat) (g : Gang) : State :=
  let ws := g.words d
  (((List.range ws.length).zip ws).foldl (fun s e => s.report d g (8 * e.1) e.2 .dev) s).reportLink d g

/-- The start messages (R359): CHAN is bound and ARGS posted on each cluster that holds a member. -/
def State.startGang (s : State) (d : Nat) (g : Gang) : State :=
  let l := g.launch
  ((List.range 40).filter (fun i => g.members.any (fun m => m.cl == i))).foldl (fun s i =>
    let c := d * 40 + i
    let s := (s.tbind c l.ctx l.entry (BitVec.ofNat 64 (l.chan * 2 ^ 42 + 2 ^ 48))).2
    s.post c (senderOut (agentDie d 0)) l.chan { msg := l.args, ctx := l.ctx, launch := some l.num }) s

/-- Admits a launch that fits. -/
def State.takeIn (s : State) (d : Nat) (l : Launch) (ms : List Member) : State :=
  let g : Gang := { launch := { l with blocking := false }, members := ms }
  let k := s.die d
  let s := s.setDie d { k with launches := k.launches.filter (fun x => x.num != l.num), gangs := k.gangs.put l.num g }
  (s.admitReport d g).startGang d g

/-- Goes through launches in selection order; a blocking launch that does not fit holds back those behind it. -/
def State.admitAll (d : Nat) : List Launch → State → State
  | [], s => s
  | l :: ls, s =>
    match s.tryPlace d l with
    | some (ms, s) => State.admitAll d ls (s.takeIn d l ms)
    | none => if l.blocking then s else State.admitAll d ls s

/-- The first move on cluster `c` that admitting launches in this order makes (R351, R357): a launch that does not fit makes
none, and a blocking one holds back those behind it. -/
def State.nextMoveOf (c : Nat) : List Launch → State → Option (Nat × Nat)
  | [], _ => none
  | l :: ls, s =>
    match s.tryPlace (dieOf c) l with
    | some (_, t) =>
      match (State.movesOf l (dieOf c) c l.nmemb 0 s).head? with
      | some m => some m
      | none => State.nextMoveOf c ls t
    | none => if l.blocking then none else State.nextMoveOf c ls s

/-- The next move that makes room for launches on cluster `c`, in selection order. -/
def State.nextMove (s : State) (c : Nat) : Option (Nat × Nat) :=
  if (s.die (dieOf c)).emerg.phase = .none then State.nextMoveOf c (s.die (dieOf c)).selection s else none

/-- RESIDENCY_MOVE (R350, R351): a movable residency of the actor's cluster moves where a launch that is to be admitted
needs the room; RESID and admission make the moves they need themselves. -/
def execResidencyMove (slot page : BitVec 4) (s : State) : Host.Outcome State Fault Refusal :=
  .next (if s.nextMove s.here = some (slot.toNat, page.toNat) then s.moveResid s.here slot.toNat page.toNat else s)

/-! ### Host queues (R364, R365) -/

/-- Replaces a host queue. -/
def State.setHq (s : State) (d q : Nat) (x : HostQ) : State := s.setDie d { s.die d with hqs := (s.die d).hqs.put q x }

def HostQ.en (x : HostQ) : Bool := bit x.ctl.toNat 0
def HostQ.inTierH (x : HostQ) : Bool := bit x.ctl.toNat 1
def HostQ.ctx (x : HostQ) : Nat := fld x.ctl.toNat 7 2
def HostQ.logN (x : HostQ) : Nat := fld x.ctl.toNat 12 8

/-- A write of HQCTL (R364): while EN is 1 only one that clears EN is not ignored. -/
def HostQ.writeCtl (x : HostQ) (v : Nat) : HostQ :=
  if x.en then (if bit v 0 then x else { x with ctl := BitVec.ofNat 64 (fld v 12 0) })
  else if bit v 0 && (decide (fld v 12 8 < 4) || decide (16 < fld v 12 8)) then x
  else { x with ctl := BitVec.ofNat 64 (fld v 12 0), head := if bit v 0 then 0 else x.head, tail := none }

/-- The packet at a position of a queue: tier H holds it, or the host's memory, whose contents come from outside. -/
def State.hqPacket (s : State) (x : HostQ) : Option Nat × State :=
  let a := x.base.toNat + 64 * (x.head % 2 ^ x.logN)
  if x.inTierH then
    if inH (a + 63) then
      (if s.poisonedAt a || s.poisonedAt (a + 32) then none else some (ofBytes (s.mem.bytes a 64)), s)
    else (none, s)
  else
    let r := (List.range 8).foldl (fun (acc : Nat × State) i =>
      let w := acc.2.drawWord
      (acc.1 + w.1.toNat * 2 ^ (64 * i), w.2)) (0, s)
    (some r.1, r.2)

/-- Accepts the packets that wait in a queue, `n` at most; one that meets FULL is not consumed. -/
def State.pumpHq (d q : Nat) : Nat → State → State
  | 0, s => s
  | n + 1, s =>
    let x := (s.die d).hq q
    let (p, s) := s.hqPacket x
    let (st, _, s) := match p with
      | none => (20, 0, s)
      | some p => s.accept d p (fun c => c == x.ctx) none none
    if st = 31 then s
    else
      let x := { x with head := (x.head + 1) % 2 ^ 32 }
      let x := if st = 0 then x else { x with refused := (x.refused + 1) % 2 ^ 32, last := st }
      State.pumpHq d q n (s.setHq d q x)

/-- The tail of a queue (R365): the last HQMIRROR value in MODE 1, the tail word once read in MODE 0. -/
def HostQ.tailNow (x : HostQ) : Option Nat := if x.inTierH then some x.mirror else x.tail

/-- A queue takes its tail into account (R365): a tail too far ahead stops it. -/
def State.serveHq (s : State) (d q : Nat) : State :=
  let x := (s.die d).hq q
  let n := (x.tailNow.getD x.head + 2 ^ 32 - x.head) % 2 ^ 32
  if !x.en then s
  else if 2 ^ x.logN < n then s.setHq d q { x with ctl := x.ctl &&& ~~~1#64, overrun := true }
  else State.pumpHq d q n s

/-- HQCTL (R364). -/
def execHqctl (q : BitVec 4) (v : BitVec 64) (s : State) : Host.Outcome State Fault Refusal :=
  let d := s.hereDie
  .next (s.posted.setHq d q.toNat (((s.die d).hq q.toNat).writeCtl v.toNat))

/-- A doorbell write (R365): HQMIRROR takes the value, which in MODE 1 is the tail. -/
def State.hqDoorbell (s : State) (d q v : Nat) : State :=
  let x := (s.die d).hq q
  let s := s.setHq d q { x with mirror := v % 2 ^ 32 }
  if x.en && x.inTierH then s.serveHq d q else s

/-- HQMIRROR (R365). -/
def execHqmirror (q : BitVec 4) (v : BitVec 64) (s : State) : Host.Outcome State Fault Refusal :=
  .next (s.posted.hqDoorbell s.hereDie q.toNat v.toNat)

/-- HOST_QUEUE_TAIL (R365): in MODE 0 the tail word is read again from the host's memory, whose value comes from outside. -/
def execHostQueueTail (q : BitVec 4) (s : State) : Host.Outcome State Fault Refusal :=
  let d := s.hereDie
  let x := (s.die d).hq q.toNat
  .next (if x.en && !x.inTierH then
    let (t, s) := s.drawNat
    (s.setHq d q.toNat { x with tail := some (t % 2 ^ 32) }).serveHq d q.toNat
  else s.serveHq d q.toNat)

/-- LAUNCH_ADMISSION (R358): queues that met FULL first go on; a die in an emergency admits nothing (R402). -/
def execLaunchAdmission (s : State) : Host.Outcome State Fault Refusal :=
  let d := s.hereDie
  .next (if (s.die d).emerg.phase = .none then
    let s := State.admitAll d (s.die d).selection s
    (List.range 16).foldl (fun s q => s.serveHq d q) s
  else s)

/-! ### Links (R366, R427) -/

/-- LINK_LAUNCH_SLOT (R366, R427): refusals are reported to the origin once. -/
def execLinkLaunchSlot (origin : BitVec 64) (packet : BitVec 512) (s : State) : Host.Outcome State Fault Refusal :=
  let d := s.hereDie
  let o := origin.toNat
  let (st, _, s) :=
    if !bit s.pkg.features 9 then (5, 0, s) else s.accept d packet.toNat (fun _ => true) none (some o)
  .next (if st = 0 then s else s.send { kind := 0, dest := o, data := toBytes 8 st })

/-- The link window (R427). -/
def inLinkWindow (pa : Nat) : Bool :=
  (decide (0xF0004000000 ≤ pa) && decide (pa < 0xF0004400000) &&
    decide (0x80000 ≤ (pa - 0xF0004000000) % 0x100000) && decide ((pa - 0xF0004000000) % 0x100000 < 0xA0000)) ||
  (decide (0xF0010000000 ≤ pa) && decide (pa < 0xF0010400000) &&
    decide (0x400 ≤ (pa - 0xF0010000000) % 0x100000) && decide ((pa - 0xF0010000000) % 0x100000 < 0x440)) ||
  (decide (0xF0000000500 ≤ pa) && decide (pa < 0xF0000000600))

/-- LINK_ACCESS_REFUSED (R427): a peer may only write, and only the link window; every other access is aborted and changes
nothing. -/
def execLinkAccessRefused (link : BitVec 5) (acc : PeerAccess) (s : State) : Host.Outcome State Fault Refusal :=
  .next (if acc.write && inLinkWindow acc.pa.toNat then s else s.send { kind := 6, dest := link.toNat, addr := acc.pa.toNat })

end Sys2Proof.Machine
end

