-- ==== Sys2Proof/Machine/Power.lean ====
section
/-! DEFINITION. Power and boost (chapter 19): intervals and allotments, spines, PSTALL, boost leases. -/

namespace Sys2Proof.Machine

/-! ### The lifetime log (R440) -/

def logTj : Nat := 0
def logDroop : Nat := 1
def logRetrain : Nat := 4
def logBoost : Nat := 5
def logHeat : Nat := 6
def logTierF : Nat := 8

/-- The bin of a die's tier-F namespace. -/
def nsBin (d ns : Nat) : Nat := d * 2 ^ 28 + ns % 2 ^ 28

/-- Adds to a counter of the lifetime log, which saturates. -/
def State.countBy (s : State) (h k n : Nat) : State :=
  let key := h * 2 ^ 32 + k
  s.setPkg { s.pkg with log := s.pkg.log.put key (min (s.pkg.log.get key 0 + n) (2 ^ 64 - 1)) }

/-! ### Regions and intervals (R387 to R389) -/

/-- A running residency of cluster `c` has a unit in the region of a spine. -/
def State.regionUsed (s : State) (c sp : Nat) : Bool :=
  let k := s.cl c
  (List.range 16).any (fun r =>
    let x := k.resident r
    x.live && ((x.pages.flatMap tilesOfPage ++ x.ags.map (fun a => 256 + a) ++ x.islands.map (fun i => 288 + i)).any
      (fun u => s.spineOf c u == sp)))

/-- Tiles whose new spine waits for an interval boundary of their old region take it (R394). -/
def State.moveSpines (s : State) (c sp : Nat) : State :=
  let d := dieOf c
  let k := s.die d
  let mine := k.tspinNew.filter (fun e => e.1 / 256 == localOf c && k.tspin.get e.1 0 == sp)
  s.setDie d { k with tspin := mine.foldl (fun t e => t.put e.1 e.2) k.tspin,
                      tspinNew := mine.foldl (fun t e => t.del e.1) k.tspinNew }

/-- POWER_INTERVAL (R389): the bucket of a region of the actor's cluster is set to its allotment.  How the power
controller chooses it is not architectural, so it is free, but at least 64 for a region in use; in an emergency it is that
floor (R402). -/
def execPowerInterval (region : BitVec 6) (s : State) : Host.Outcome State Fault Refusal :=
  let c := s.here
  let sp := region.toNat
  .next (if 8 ≤ sp then s
    else
      let floor := if s.regionUsed c sp then 64 else 0
      let (n, s) := s.drawNat
      let n := if (s.die (dieOf c)).emerg.phase = .none then floor + n else floor
      (s.setCl c { s.cl c with power := (s.cl c).power.put sp n }).moveSpines c sp)

/-! ### Spines (R392) -/

/-- SPINE_CHANGE (R392): a spine takes the frequency POWER_CFG asked for. -/
def execSpineChange (spine : BitVec 3) (mhz : BitVec 12) (s : State) : Host.Outcome State Fault Refusal :=
  let d := s.hereDie
  let k := s.die d
  .next (if k.spineReq.find spine.toNat = some mhz.toNat then
    s.setDie d { k with spineF := k.spineF.put spine.toNat mhz.toNat, spineReq := k.spineReq.del spine.toNat }
  else s)

/-- PSTALL (R394): a write sets the count. -/
def execPstall (v : BitVec 64) (s : State) : Host.Outcome State Fault Refusal :=
  .next (s.posted.setDie s.hereDie { s.die s.hereDie with pstall := v })

/-! ### Boost leases (R336, R396 to R399) -/

/-- A boost handle (R397). -/
def Boost.handle (b : Boost) : Nat := b.ctx + b.die * 2 ^ 6 + b.gen * 2 ^ 16 + 2 * 2 ^ 30

/-- A boost message (R398): the event, its number, the reason. -/
def Boost.say (b : Boost) (s : State) (event n reason : Nat) : State :=
  s.post b.cl (senderOut (agentPower b.die)) b.chan
    { msg := { w0 := BitVec.ofNat 64 (event + b.handle * 2 ^ 32), w1 := BitVec.ofNat 64 n, w2 := BitVec.ofNat 64 reason },
      ctx := b.ctx }

/-- A boost lease ends; its time is counted in whole seconds (R440). -/
def State.dropBoost (s : State) (b : Boost) : State :=
  (s.setPkg { s.pkg with boosts := s.pkg.boosts.filter (fun x => x.ctx != b.ctx) }).countBy logBoost b.die
    (((s.die b.die).clock - b.start) / 1000000)

/-- A boost lease ends with BENDED. -/
def State.endBoost (s : State) (b : Boost) (reason : Nat) : State := b.say (s.dropBoost b) 0x53 0 reason

/-- A lease has run its time. -/
def State.expired (s : State) (b : Boost) : Bool := decide (b.start + b.dur ≤ (s.die b.die).clock)

/-- Every active lease is given notice (R398); one that has run its time ends as EXPIRED instead (R399). -/
def State.revokeBoosts (s : State) : State :=
  (s.pkg.boosts.filter (fun b => b.notice.isNone)).foldl (fun s b =>
    if s.expired b then s.endBoost b 0
    else b.say (s.setPkg { s.pkg with boosts := s.pkg.boosts.map (fun (x : Boost) =>
      if x.ctx = b.ctx then { x with notice := some (s.die b.die).clock } else x) }) 0x52 100 0) s

/-- A thermal emergency ends every lease without notice (R398). -/
def State.thermalBoosts (s : State) : State := s.pkg.boosts.foldl (fun s b => s.endBoost b 2) s

/-- Some die is in the warning or emergency state. -/
def State.anyHot (s : State) : Bool :=
  (List.range 4).any (fun d => (s.die d).warning || (s.die d).emerg.phase != EmergPhase.none)

/-- BOOST (R336, R396): its statuses in the order of R336. -/
def State.boostCmd (s : State) (c ctx a b : Nat) : Word × State :=
  let w := fld a 15 0
  if w == 0 || decide (800 < w) || fld a 63 20 != 0 || b == 0 || decide (100000 < b) then (result 26 0, s)
  else if !bit (s.ctx ctx).rights 0 || !bit s.pkg.features 5 then (result 33 0, s)
  else if s.pkg.boosts.any (fun x => x.ctx == ctx) then (result 30 0, s)
  else
    let p := s.pkg
    let recent := p.boostLog.filter (fun e => decide (p.clock < e.1 + 1000000))
    if 800 < (p.boosts.map Boost.watts).sum + w ∨ 80000000 < (recent.map Prod.snd).sum + w * b ∨ s.anyHot then
      (result 29 0, s)
    else
      let d := dieOf c
      let x : Boost := { ctx := ctx, die := d, cl := c, chan := fld a 19 16, watts := w, dur := b, gen := p.boostGen,
                         start := (s.die d).clock }
      (result 0 x.handle, s.setPkg { p with boosts := p.boosts ++ [x], boostGen := (p.boostGen + 1) % 2 ^ 14,
                                            boostLog := recent ++ [(p.clock, w * b)] })

def execBoost (d a b : Reg) (s : State) : Host.Outcome State Fault Refusal :=
  runCmd (.boost d a b) d [a, b] (fun vs s =>
    .ok (s.boostCmd s.here (s.sq s.here).running.ctx (vs.getD 0 0).toNat (vs.getD 1 0).toNat)) s

/-- BOOST_SPINE_SWITCH (R396): spine 0 of the actor's die runs at 2,800 MHz while the die holds an active lease. -/
def execBoostSpineSwitch (s : State) : Host.Outcome State Fault Refusal :=
  let d := s.hereDie
  let k := s.die d
  .next (s.setDie d { k with spineF := if s.pkg.boosts.any (fun b => b.die == d) then k.spineF.put 0 2800
                                       else k.spineF.del 0 })

/-- SUPPLY_LIMIT (R398). -/
def execSupplyLimit (_ : BitVec 16) (s : State) : Host.Outcome State Fault Refusal := .next s.revokeBoosts

/-- BOOST_EXPIRY (R398). -/
def execBoostExpiry (ctx : BitVec 6) (s : State) : Host.Outcome State Fault Refusal :=
  .next (match s.pkg.boosts.find? (fun b => b.ctx == ctx.toNat) with
    | none => s
    | some b => if s.expired b then s.endBoost b 0 else s)

/-- BOOST_NOTICE_END (R398): no sooner than 100 microseconds after the notice; a lease that has expired ends as EXPIRED
(R399). -/
def execBoostNoticeEnd (ctx : BitVec 6) (s : State) : Host.Outcome State Fault Refusal :=
  .next (match s.pkg.boosts.find? (fun b => b.ctx == ctx.toNat) with
    | none => s
    | some b =>
      match b.notice with
      | none => s
      | some t =>
        if s.expired b then s.endBoost b 0
        else if t + 100 ≤ (s.die b.die).clock then s.endBoost b 1 else s)

end Sys2Proof.Machine
end

