-- ==== Sys2Proof/Machine/Lease.lean ====
section
/-! DEFINITION. The lease arbiter (R368 to R375): grants, wakes, notices, LEASE, LFREE and PCMD, and the steps of the
arbiter. -/

namespace Sys2Proof.Machine

/-! ### Pralines of a die (R367, R368) -/

/-- Praline `p` = 16 * kind + index. -/
def Die.praline (k : Die) (p : Nat) : Praline := k.pralines.get p {}

/-- Replaces a praline. -/
def Die.setPraline (k : Die) (p : Nat) (x : Praline) : Die := { k with pralines := k.pralines.put p x }

/-- Wake latency of a kind, in microseconds. -/
def wakeLatency : Nat → Nat
  | 0 => 8
  | 1 => 4
  | 2 => 6
  | _ => 3

/-- Pralines awake. -/
def Die.awake (k : Die) : Nat := (k.pralines.filter (fun e => e.2.awake)).length

/-- A praline begins to wake. -/
def Die.wakeUp (k : Die) (p : Nat) : Die :=
  k.setPraline p { k.praline p with awake := true, ready := false, since := k.clock }

/-- A praline sleeps. -/
def Die.sleep (k : Die) (p : Nat) : Die := k.setPraline p { k.praline p with awake := false, ready := false }

/-- A praline lingers: awake and unleased. -/
def Praline.lingers (x : Praline) : Bool := x.awake && x.holder.isNone

/-- The praline that has lingered longest, other than `p`; ties go to the lower number. -/
def Die.longest (k : Die) (p : Nat) : Option Nat :=
  ((k.pralines.filter (fun e => e.2.lingers && e.1 != p)).foldl (fun (b : Option (Nat × Nat)) e =>
    match b with
    | none => some (e.1, e.2.idle)
    | some (q, t) => if e.2.idle < t then some (e.1, e.2.idle) else some (q, t)) none).map Prod.fst

/-- Lingering pralines sleep, the longest first, until no more than `limit` are awake; praline `p` is left, and so are leased
ones, which stay awake until they sleep of themselves (assumption 48). -/
def Die.shed (limit p : Nat) : Nat → Die → Die
  | 0, k => k
  | n + 1, k => if k.awake ≤ limit then k
    else match k.longest p with
      | none => k
      | some q => Die.shed limit p n (k.sleep q)

/-- After the awake limit has come down, or a lease has ended, no more pralines linger than the limit allows (R368). -/
def Die.awakeDown (k : Die) : Die := Die.shed k.awakeMax 64 64 k

/-- Makes an awake place for praline `p` and begins its wake; `none` where there is no place. -/
def Die.place (k : Die) (p : Nat) : Option Die :=
  if (k.praline p).awake then some k
  else
    let k := Die.shed (k.awakeMax - 1) p 64 k
    if k.awake < k.awakeMax then some (k.wakeUp p) else none

/-- The unleased praline of a kind that a grant takes (R370): the lowest that is awake, else the lowest. -/
def Die.pick (k : Die) (kind : Nat) : Option Nat :=
  let free := (List.range 16).filter (fun i => (k.praline (16 * kind + i)).holder.isNone)
  match free.find? (fun i => (k.praline (16 * kind + i)).awake) with
  | some i => some (16 * kind + i)
  | none => free.head?.map (fun i => 16 * kind + i)

/-- Grants a praline of a kind, if the request is grantable (R370). -/
def Die.grant (k : Die) (kind : Nat) (h : Holder) : Option (Nat × Die) :=
  match k.pick kind with
  | none => none
  | some p => (k.place p).map (fun k => (p, k.setPraline p { k.praline p with holder := some h, idle := k.clock }))

/-- The lease of praline `p` ends: it lingers if it is awake and the awake limit allows it. -/
def Die.unlease (k : Die) (p : Nat) : Die :=
  (k.setPraline p { k.praline p with holder := none, idle := k.clock, notice := none }).awakeDown

/-! ### Slots and handles (R369) -/

/-- Lease slot `i` of a cluster. -/
def Cluster.lslot (k : Cluster) (i : Nat) : LeaseSlot := k.leases.get i {}

/-- Replaces a lease slot. -/
def State.setSlot (s : State) (c i : Nat) (x : LeaseSlot) : State := s.setCl c { s.cl c with leases := (s.cl c).leases.put i x }

/-- The handle of a lease. -/
def LeaseSlot.handle (x : LeaseSlot) (i : Nat) : Nat := i + x.kind * 2 ^ 3 + x.unit * 2 ^ 5 + x.gen * 2 ^ 16

/-- The number of a request. -/
def LeaseSlot.number (x : LeaseSlot) (i : Nat) : Nat := i + x.gen * 2 ^ 16 + 2 ^ 30

/-- A slot that has become free keeps its generation. -/
def LeaseSlot.emptied (x : LeaseSlot) : LeaseSlot := { gen := x.gen }

/-- A lease event message (R372). -/
def State.sayLease (s : State) (c i event n reason : Nat) : State :=
  let x := (s.cl c).lslot i
  s.post c (senderOut (agentLease (dieOf c))) x.chan
    { msg := { w0 := BitVec.ofNat 64 (event + x.tag * 2 ^ 16 + x.handle i * 2 ^ 32), w1 := BitVec.ofNat 64 n,
               w2 := BitVec.ofNat 64 reason }, ctx := x.ctx }

/-! ### Arbitration (R370, R371, R373) -/

/-- Turns a slot into a lease of praline `p`. -/
def State.lease (s : State) (c i p : Nat) (asked : Bool) : State :=
  let d := dieOf c
  let n := (s.die d).grants
  let s := s.setDie d { s.die d with grants := n + 1 }
  s.setSlot c i { (s.cl c).lslot i with st := .lease, praline := p, unit := p % 16, grant := n, asked := asked, q := [], next := 0 }

/-- Serves one entry of the lease queue; `none` where it must wait. -/
def State.serve (s : State) (d : Nat) (e : LeaseReq) : Option State :=
  let k := s.die d
  match e.holder with
  | .amber =>
    if e.wake then
      match (List.range 16).find? (fun i => (k.praline (16 * e.kind + i)).holder == some Holder.amber) with
      | none => some s
      | some i => (k.place (16 * e.kind + i)).map (fun k => s.setDie d k)
    else (k.grant e.kind .amber).map (fun r =>
      let n := k.grants + 1
      s.setDie d ({ r.2 with grants := n }.setPraline r.1 { r.2.praline r.1 with grant := n }))
  | .slot cl i =>
    let c := d * 40 + cl
    let x := (s.cl c).lslot i
    if e.wake then (k.place x.praline).map (fun k => s.setDie d k)
    else (k.grant e.kind (.slot cl i)).map (fun r =>
      let s := (s.setDie d r.2).lease c i r.1 true
      s.sayLease c i 0x40 (((s.cl c).lslot i).number i) 0)

/-- The queue in serving order: higher priority first, then earlier arrival (R371). -/
def leaseOrder (q : List LeaseReq) : List LeaseReq :=
  (List.range 8).reverse.flatMap (fun p => q.filter (fun e => e.prio == p))

/-- Serves every entry that can be served, in order; what is left keeps its arrival order. -/
def State.serveQueue (d : Nat) : List LeaseReq → State → State
  | [], s => s
  | e :: es, s =>
    match s.serve d e with
    | none => State.serveQueue d es s
    | some s => State.serveQueue d es (s.setDie d { s.die d with leaseQ := (s.die d).leaseQ.filter (fun x => x != e) })

/-- Amber's pralines have come to the end of a transfer: the 1 ms after which they sleep begins (R368, R385). -/
def State.restEngines (s : State) (d : Nat) : State :=
  let k := s.die d
  s.setDie d { k with pralines := k.pralines.map (fun e =>
    (e.1, if e.2.holder == some Holder.amber then { e.2 with idle := k.clock } else e.2)) }

/-- The priority of Amber's work in hand (R51): the job's for promotion work, 0 for demotion. -/
def State.amberPrio (s : State) (d : Nat) : Nat :=
  ((s.die d).amber.recs.filter (fun e => e.2.proF.isSome || !e.2.pend.isEmpty)).foldl
    (fun m e => max m (s.ctx (fld e.2.img 229 224)).maxprio) 0

/-- The priority and grant order of a praline's lease. -/
def State.leaseRank (s : State) (d p : Nat) : Option (Nat × Nat) :=
  match ((s.die d).praline p).holder with
  | some (.slot cl i) =>
    let x := (s.cl (d * 40 + cl)).lslot i
    if x.st == SlotSt.lease then some (x.prio, x.grant + 1) else none
  | some .amber => some (s.amberPrio d, ((s.die d).praline p).grant)
  | none => none

/-- The entry could be served once praline `p` is unleased. -/
def State.wouldServe (s : State) (d : Nat) (e : LeaseReq) (p : Nat) : Bool :=
  ((s.setDie d ((s.die d).unlease p)).serve d e).isSome

/-- Of two candidate victims, the one of lower priority, or of the later grant. -/
def worseLease (a b : Nat × Nat × Nat) : Nat × Nat × Nat :=
  if b.2.1 < a.2.1 ∨ (b.2.1 = a.2.1 ∧ a.2.2 < b.2.2) then b else a

/-- The victim for an entry at the head of its priority (R373). -/
def State.victim (s : State) (d : Nat) (e : LeaseReq) : Option Nat :=
  let k := s.die d
  if e.victim.isSome || k.pralines.any (fun x => x.2.notice.isSome && s.wouldServe d e x.1) then none
  else
    let cand := k.pralines.filterMap (fun x =>
      match s.leaseRank d x.1 with
      | some (pr, g) => if x.2.notice.isNone && decide (pr < e.prio) && s.wouldServe d e x.1 then some (x.1, pr, g) else none
      | none => none)
    match cand with
    | [] => none
    | a :: as => some (as.foldl worseLease a).1

/-- Gives notice to the victim of the entry at the head of one priority. -/
def State.giveNotice (s : State) (d prio : Nat) : State :=
  match (s.die d).leaseQ.find? (fun e => e.prio == prio) with
  | none => s
  | some e =>
    match s.victim d e with
    | none => s
    | some p =>
      let k := s.die d
      let x := k.praline p
      let k := k.setPraline p { x with notice := some k.clock }
      let s := s.setDie d { k with leaseQ := k.leaseQ.map (fun y => if y = e then { y with victim := some p } else y) }
      match x.holder with
      | some (.slot cl i) => s.sayLease (d * 40 + cl) i 0x42 200 0
      | _ => s

/-- Amber's wake and lease requests stand at the priority of its present work (R51, R385). -/
def State.amberWakes (s : State) (d : Nat) : State :=
  let mine := fun (e : LeaseReq) => e.holder == Holder.amber
  let q := (s.die d).leaseQ
  if q.any mine then
    s.setDie d { s.die d with leaseQ := q.map (fun e => if mine e then { e with prio := s.amberPrio d } else e) }
  else s

/-- The arbiter examines its queue (R371). -/
def State.arbitrate (s : State) (d : Nat) : State :=
  let s := s.amberWakes d
  let s := State.serveQueue d (leaseOrder (s.die d).leaseQ) s
  (List.range 8).reverse.foldl (fun s p => s.giveNotice d p) s

/-- LEASE_ARBITRATION (R371). -/
def execLeaseArbitration (s : State) : Host.Outcome State Fault Refusal := .next (s.arbitrate s.hereDie)

/-! ### LEASE (R334, R370) -/

/-- LEASE. -/
def State.leaseCmd (s : State) (c ctx a b : Nat) : Word × State :=
  let d := dieOf c
  let kind := fld a 1 0
  if a / 8 != 0 || b / 2 ^ 20 != 0 then (result 26 0, s)
  else if !bit s.pkg.features 5 then (result 33 0, s)
  else match (List.range 8).find? (fun i => ((s.cl c).lslot i).st == SlotSt.free) with
    | none => (result 29 0, s)
    | some i =>
      let gen := (((s.cl c).lslot i).gen + 1) % 2 ^ 14
      let x : LeaseSlot := { gen := gen, st := .request, ctx := ctx, kind := kind, prio := (s.ctx ctx).maxprio,
                             chan := fld b 3 0, tag := fld b 19 4 }
      let k := s.die d
      match k.grant kind (.slot (localOf c) i) with
      | some (p, k) =>
        let s := ((s.setSlot c i x).setDie d k).lease c i p false
        (result 0 (((s.cl c).lslot i).handle i), s)
      | none =>
        if bit a 2 || decide (128 ≤ (k.leaseQ.filter (fun e => !e.wake)).length) then (result 29 0, s)
        else
          let e : LeaseReq := { wake := false, holder := .slot (localOf c) i, kind := kind, prio := x.prio }
          (result 28 (x.number i), (s.setSlot c i x).setDie d { k with leaseQ := k.leaseQ ++ [e] })

def execLease (d a b : Reg) (s : State) : Host.Outcome State Fault Refusal :=
  runCmd (.lease d a b) d [a, b] (fun vs s =>
    .ok (s.leaseCmd s.here (s.sq s.here).running.ctx (vs.getD 0 0).toNat (vs.getD 1 0).toNat)) s

/-! ### LFREE (R334, R397) -/

/-- The commands of a queue. -/
def pcmdsOf (q : List PEnt) : List PCmd := q.filterMap (fun e => match e with | .cmd c => some c | .marker _ => none)

/-- Withdraws the queue entries of a slot. -/
def Die.withdraw (k : Die) (cl i : Nat) : Die := { k with leaseQ := k.leaseQ.filter (fun e => e.holder != .slot cl i) }

/-- A lease that LFREE ended is over once its last command has ended: the slot is free, the praline lingers. -/
def State.settleSlot (s : State) (c i : Nat) : State :=
  let x := (s.cl c).lslot i
  if x.st == SlotSt.closing && (pcmdsOf x.q).isEmpty then
    (s.setSlot c i x.emptied).setDie (dieOf c)
      (((s.die (dieOf c)).withdraw (localOf c) i).unlease x.praline)
  else s

/-- Releases a lease: accepted commands complete first. -/
def State.releaseLease (s : State) (c i : Nat) : State :=
  let d := dieOf c
  let x := (s.cl c).lslot i
  let k := s.die d
  let s := s.setDie d (k.setPraline x.praline { k.praline x.praline with notice := none })
  let s := (s.setSlot c i { x with st := .closing }).settleSlot c i
  s.arbitrate d

/-- LFREE of a lease handle, a request number or a boost handle. -/
def State.lfreeCmd (s : State) (c ctx v : Nat) : Word × State :=
  let i := fld v 2 0
  let x := (s.cl c).lslot i
  let mine := x.ctx == ctx
  if x.st == SlotSt.lease && mine && x.handle i == v then (result 0 0, s.releaseLease c i)
  else if x.st == SlotSt.lease && mine && x.asked && x.number i == v then (result 0 0, s.releaseLease c i)
  else if x.st == SlotSt.request && mine && x.number i == v then
    (result 0 0, (s.setSlot c i x.emptied).setDie (dieOf c) ((s.die (dieOf c)).withdraw (localOf c) i))
  else match s.pkg.boosts.find? (fun b => b.ctx == ctx && b.handle == v) with
    | some b => (result 0 0, s.dropBoost b)
    | none => (result 27 0, s)

def execLfree (d a : Reg) (s : State) : Host.Outcome State Fault Refusal :=
  runCmd (.lfree d a) d [a] (fun vs s => .ok (s.lfreeCmd s.here (s.sq s.here).running.ctx (vs.getD 0 0).toNat)) s

/-! ### PCMD (R335, R371, R376) -/

/-- Fields of a praline descriptor (R377). -/
def pdCmd (x : Nat) : Nat := fld x 3 0
def pdMsg (x : Nat) : Bool := bit x 8
def pdChan (x : Nat) : Nat := fld x 12 9
def pdTag (x : Nat) : Nat := fld x 47 32
def pdSrc (x : Nat) : Nat := fld x 127 64
def pdDst (x : Nat) : Nat := fld x 191 128
def pdP (x n : Nat) : Nat := fld x (255 + 64 * n) (192 + 64 * n)

/-- A new command wakes a sleeping praline, or leaves a wake request (R368, R371). -/
def State.wakeFor (s : State) (d : Nat) (e : LeaseReq) (p : Nat) : State :=
  let k := s.die d
  match k.place p with
  | some k => s.setDie d k
  | none => if k.leaseQ.any (fun y => y.wake && y.holder == e.holder && y.kind == e.kind) then s else s.setDie d { k with leaseQ := k.leaseQ ++ [e] }

/-- PCMD: the issue word (R56, R335) and the state. -/
def State.pcmd (s : State) (c ctx va h : Nat) : Word × State :=
  let i := fld h 2 0
  let x := (s.cl c).lslot i
  let held := x.st == SlotSt.lease && x.ctx == ctx && x.handle i == h
  if held && decide (8 ≤ x.q.length) then (1, s)
  else match (s.cl c).localDesc va 64 64 with
    | none => (3, s)
    | some bs =>
      let desc := ofBytes bs
      if held && pdCmd desc / 2 != x.kind then (5, s)
      else if !held then (6, s)
      else
        let s := s.releaseAt c .die
        let e : LeaseReq := { wake := true, holder := .slot (localOf c) i, kind := x.kind, prio := x.prio }
        let s := s.setSlot c i { x with q := x.q ++ [.cmd { desc := desc, seq := x.next, ctx := ctx }],
                                        next := (x.next + 1) % 2 ^ 16 }
        (BitVec.ofNat 64 (x.next * 2 ^ 16), s.wakeFor (dieOf c) e x.praline)

def execPcmd (d a b : Reg) (s : State) : Host.Outcome State Fault Refusal :=
  runCmd (.pcmd d a b) d [a, b] (fun vs s =>
    s.whenSettled (vs.getD 0 0) 64 (s.pcmd s.here (s.sq s.here).running.ctx (vs.getD 0 0).toNat (vs.getD 1 0).toNat)) s

/-! ### Waking, sleeping, lingering (R368) -/

/-- PRALINE_READY. -/
def execPralineReady (p : BitVec 6) (s : State) : Host.Outcome State Fault Refusal :=
  let d := s.hereDie
  let k := s.die d
  let x := k.praline p.toNat
  .next (if x.awake && !x.ready && decide (x.since + wakeLatency (p.toNat / 16) ≤ k.clock) then
    s.setDie d (k.setPraline p.toNat { x with ready := true })
  else s)

/-- The holder of a praline has no work for it. -/
def State.workless (s : State) (d p : Nat) : Bool :=
  match ((s.die d).praline p).holder with
  | some (.slot cl i) => (pcmdsOf ((s.cl (d * 40 + cl)).lslot i).q).isEmpty
  | some .amber => (s.die d).amber.recs.all (fun e => e.2.demCF.isNone && e.2.proF.isNone)
  | none => false

/-- PRALINE_IDLE_SLEEP: a leased praline with no work for 1 ms sleeps and keeps its lease. -/
def execPralineIdleSleep (p : BitVec 6) (s : State) : Host.Outcome State Fault Refusal :=
  let d := s.hereDie
  let k := s.die d
  let x := k.praline p.toNat
  .next (if x.awake && s.workless d p.toNat && decide (x.idle + 1000 ≤ k.clock) then s.setDie d (k.sleep p.toNat) else s)

/-- LINGER_EXPIRY: an unleased praline sleeps after 100 microseconds. -/
def execLingerExpiry (p : BitVec 6) (s : State) : Host.Outcome State Fault Refusal :=
  let d := s.hereDie
  let k := s.die d
  let x := k.praline p.toNat
  .next (if x.lingers && decide (x.idle + 100 ≤ k.clock) then s.setDie d (k.sleep p.toNat) else s)

end Sys2Proof.Machine
end

