-- ==== Sys2Proof/Machine/Praline.lean ====
section
/-! DEFINITION. The praline commands (R377 to R384): validation, the units of work of each command, completion, and the
end of a lease under a command (R374). -/

namespace Sys2Proof.Machine

/-- Praline statuses (R378). -/
def pBadCmd : Nat := 0x21
def pBadShape : Nat := 0x22
def pEvicted : Nat := 0x30
def pAuthFail : Nat := 0x31
def pCorrupt : Nat := 0x32
def pNoKey : Nat := 0x33
def pOverrun : Nat := 0x34

/-! ### Validation (R378) -/

/-- Two byte intervals, start and length, meet. -/
def spansMeet (a : Int) (n : Nat) (b : Int) (m : Nat) : Bool :=
  decide (0 < n) && decide (0 < m) && decide (a < b + m) && decide (b < a + n)

/-- A reserved bit is set, or an unused field is not zero. -/
def pdBadCmd (x : Nat) : Bool :=
  fld x 7 4 != 0 || fld x 31 13 != 0 || fld x 63 48 != 0 ||
  (match pdCmd x with
    | 0 => fld (pdP x 0) 63 32 != 0 || pdP x 2 != 0 || pdP x 3 != 0 || pdP x 4 != 0
    | 1 => fld (pdP x 1) 63 32 != 0 || pdP x 2 != 0 || pdP x 3 != 0 || pdP x 4 != 0
    | 2 => fld (pdP x 0) 63 44 != 0 || fld (pdP x 1) 63 32 != 0 || fld (pdP x 2) 63 32 != 0 || pdP x 3 != 0 || pdP x 4 != 0
    | 3 => fld (pdP x 0) 63 35 != 0 || fld (pdP x 1) 63 32 != 0 || pdP x 2 != 0 || pdP x 3 != 0 || pdP x 4 != 0
    | 4 | 5 => fld (pdP x 0) 31 6 != 0 || fld (pdP x 3) 63 32 != 0 || fld (pdP x 4) 63 32 != 0
    | _ => fld (pdP x 0) 63 32 != 0 || fld (pdP x 1) 63 32 != 0 || pdP x 3 != 0 || pdP x 4 != 0)

/-- A number outside `[lo, hi]`. -/
def outside (x lo hi : Nat) : Bool := decide (x < lo) || decide (hi < x)

/-- TOPK's element size (R381). -/
def topkSize (p0 : Nat) : Nat := if fld p0 42 41 = 1 then 2 else 4

/-- The interval that `n` runs of `len` bytes, a signed stride apart, touch from `base`. -/
def strided (base n len : Nat) (stride : Int) : Int × Nat :=
  let far := stride * ((n : Int) - 1)
  ((base : Int) + min 0 far, len + far.natAbs)

/-- A parameter is out of range, or source and destination overlap. -/
def pdBadShape (x : Nat) : Bool :=
  let src := pdSrc x
  let dst := pdDst x
  let p0 := pdP x 0
  let p1 := pdP x 1
  match pdCmd x with
  | 0 => outside (fld p0 31 0) 1 65536 || spansMeet src (4096 * fld p0 31 0) dst p1
  | 1 => spansMeet src p0 dst (4096 * fld p1 31 0)
  | 2 =>
    let n := fld p0 31 0
    let k := fld p0 40 32
    let s := strided src (fld p1 31 0) (n * topkSize p0) (signed (pdP x 2) 32)
    outside (fld p1 31 0) 1 (2 ^ 20) || outside n 1 65536 || outside k 1 256 || decide (n < k) ||
    spansMeet s.1 s.2 dst (8 * k * fld p1 31 0)
  | 3 =>
    let len := 8 * fld p0 31 0 * fld p1 31 0
    outside (fld p1 31 0) 1 (2 ^ 20) || outside (fld p0 31 0) 1 (2 ^ 20) || fld p0 33 32 == 3 || spansMeet src len dst len
  | 4 | 5 =>
    let r := fld (pdP x 3) 31 0
    let n := fld (pdP x 4) 31 0
    let (a, b) := if pdCmd x = 4 then (r, r + 16) else (r + 16, r)
    outside r 1 65536 || outside n 1 (2 ^ 20) || spansMeet src (a * n) dst (b * n)
  | c =>
    let len := fld p0 31 0
    let n := fld p1 31 0
    let s := if c = 6 then strided src n len (signed (pdP x 2) 64) else (((src : Nat) : Int), len * n)
    outside n 1 (2 ^ 20) || outside len 1 (2 ^ 24) || spansMeet s.1 s.2 dst (32 * n)

/-- The key of a crypto command, if its slot is bound to the context (R383). -/
def Die.keyOf (k : Die) (ctx n : Nat) : Option (List Byte) :=
  match k.keys.find n with
  | some y => if y.ctx = ctx then some y.key else none
  | none => none

/-- The status of a command at the head of its queue; 0 where it may start. -/
def Die.judge (k : Die) (ctx x : Nat) : Nat :=
  if pdBadCmd x then pBadCmd
  else if pdBadShape x then pBadShape
  else if pdCmd x / 2 = 2 && (k.keyOf ctx (fld (pdP x 0) 5 0)).isNone then pNoKey
  else 0

/-! ### CZIP and CUNZ (R379, R380) -/

/-- A line's code and payload, given the line before it, if any. -/
def zipLine (before : Option (List Byte)) (l : List Byte) : Nat × List Byte :=
  if l.all (fun b => b == 0#8) then (0, [])
  else if before == some l then (1, [])
  else if (List.range 16).all (fun i => (l.drop (4 * i)).take 4 == l.take 4) then (2, l.take 4)
  else (3, l)

/-- The frame of a 4,096-byte page. -/
def zipPage (page : List Byte) : List Byte :=
  let line := fun i => (page.drop (64 * i)).take 64
  let cs := (List.range 64).map (fun i => zipLine (if i = 0 then none else some (line (i - 1))) (line i))
  let body := cs.flatMap Prod.snd
  let map := ((List.range 64).zip cs).foldl (fun m e => m + e.2.1 * 2 ^ (2 * e.1)) 0
  toBytes 4 (20 + body.length) ++ toBytes 16 map ++ body

/-- Unpacks lines `i` to 63 of a frame: the page's bytes and the payload left over; `none` where SAME opens it or the
payload is short. -/
def unzipLines (map : Nat) : Nat → Nat → List Byte → List Byte → Option (List Byte × List Byte)
  | 0, _, _, body => some ([], body)
  | n + 1, i, before, body =>
    match fld map (2 * i + 1) (2 * i) with
    | 0 => (unzipLines map n (i + 1) (List.replicate 64 0#8) body).map (fun r => (List.replicate 64 0#8 ++ r.1, r.2))
    | 1 => if i = 0 then none else (unzipLines map n (i + 1) before body).map (fun r => (before ++ r.1, r.2))
    | 2 =>
      if body.length < 4 then none
      else
        let l := (List.replicate 16 (body.take 4)).flatten
        (unzipLines map n (i + 1) l (body.drop 4)).map (fun r => (l ++ r.1, r.2))
    | _ =>
      if body.length < 64 then none
      else (unzipLines map n (i + 1) (body.take 64) (body.drop 64)).map (fun r => (body.take 64 ++ r.1, r.2))

/-- The page of a frame and the frame's length; `none` where it is CORRUPT.  `bs` runs to the end of the source. -/
def unzipPage (bs : List Byte) : Option (Nat × List Byte) :=
  let w := ofBytes (bs.take 4)
  if w < 20 ∨ 4116 < w ∨ bs.length < w then none
  else match unzipLines (ofBytes ((bs.drop 4).take 16)) 64 0 [] ((bs.take w).drop 20) with
    | some (page, []) => some (w, page)
    | _ => none

/-! ### TOPK and KSORT (R381, R382) -/

/-- A float's rank as an integer, by value: both zeros alike; `none` for a NaN.  `bits` is the width, `man` the mantissa. -/
def floatRank (x bits man : Nat) : Option Int :=
  let mag := x % 2 ^ (bits - 1)
  if 2 ^ (bits - 1) - 2 ^ man < mag then none
  else some (if x.testBit (bits - 1) then -(mag : Int) else (mag : Int))

/-- The rank of an element by ETYPE. -/
def topkRank (etype x : Nat) : Option Int :=
  match etype with
  | 0 => floatRank x 32 23
  | 1 => floatRank x 16 7
  | 2 => some (signed x 32)
  | _ => some (x : Int)

/-- The first entry goes before the second: the better rank, then the lower index; a NaN after every number. -/
def topkBefore (min : Bool) (a b : Option Int × Nat) : Bool :=
  match a.1, b.1 with
  | some x, some y => if x = y then decide (a.2 < b.2) else if min then decide (x < y) else decide (y < x)
  | some _, none => true
  | none, some _ => false
  | none, none => decide (a.2 < b.2)

/-- Inserts into a list sorted by `before`, after everything that does not come after it. -/
def insertBy {α : Type} (before : α → α → Bool) (x : α) : List α → List α
  | [] => [x]
  | y :: t => if before x y then x :: y :: t else y :: insertBy before x t

/-- A stable sort. -/
def sortBy {α : Type} (before : α → α → Bool) (l : List α) : List α := l.foldl (fun acc x => insertBy before x acc) []

/-- The elements of a row, by size. -/
def elems (esize n : Nat) (bs : List Byte) : List Nat :=
  (List.range n).map (fun j => ofBytes ((bs.drop (esize * j)).take esize))

/-- The output entries of a row (R381). -/
def topkRow (p0 : Nat) (bs : List Byte) : List Byte :=
  let es := elems (topkSize p0) (fld p0 31 0) bs
  let ranked := ((List.range es.length).zip es).map (fun e => ((topkRank (fld p0 42 41) e.2, e.1), e.2))
  let best := (sortBy (fun a b => topkBefore (bit p0 43) a.1 b.1) ranked).take (fld p0 40 32)
  best.flatMap (fun e => toBytes 4 e.1.2 ++ toBytes 4 e.2)

/-- The order of a KSORT key as a number: unsigned, signed, or the totalOrder of FP32. -/
def ksortKey (ty x : Nat) : Nat :=
  match ty with
  | 0 => x
  | 1 => x ^^^ 0x80000000
  | _ => if x.testBit 31 then 0xFFFFFFFF - x else x + 0x80000000

/-- A sorted segment (R382). -/
def ksortSeg (p0 : Nat) (bs : List Byte) : List Byte :=
  let key := fun (e : Nat) => ksortKey (fld p0 33 32) (e % 2 ^ 32)
  let before := fun (a b : Nat) => if bit p0 34 then decide (key b < key a) else decide (key a < key b)
  (sortBy before (elems 8 (fld p0 31 0) bs)).flatMap (fun e => toBytes 8 e)

/-! ### GENC, GDEC, HSHA, HCHAIN (R383, R384) -/

/-- The IV of record `r`. -/
def recIv (x r : Nat) : List Byte := toBytes 4 (fld (pdP x 0) 63 32) ++ toBytes 8 (pdP x 1 + r)

/-- The additional data of record `r`. -/
def recAad (x r : Nat) : List Byte := toBytes 8 (pdP x 2) ++ toBytes 8 r

/-! ### A unit of work -/

/-- What the next unit of a command does: it stops with a status, or writes bytes at an address and completes. -/
inductive UnitOut where
  | stop (status lvl va : Nat)
  | write (va : Nat) (bs : List Byte) (bad : Bool) (next : PCmd)

/-- Units of a whole command; CUNZ ends by its source. -/
def pdUnits (x : Nat) : Nat :=
  match pdCmd x with
  | 0 => fld (pdP x 0) 31 0
  | 4 | 5 => fld (pdP x 4) 31 0
  | _ => fld (pdP x 1) 31 0

/-- The command has no unit left. -/
def PCmd.allDone (c : PCmd) : Bool :=
  if pdCmd c.desc = 1 then decide (pdP c.desc 0 ≤ c.spos) else decide (pdUnits c.desc ≤ c.units)

/-- Praline `p` of die `d` as an agent. -/
def whoPraline (d p : Nat) : Who := whoDie d (agentDie d (1 + p))

/-- Adds to a VA. -/
def vaAdd (a : Nat) (n : Int) : Nat := wrapNat ((a : Int) + n) 64

/-- The next unit once its source bytes are read. -/
def PCmd.unit (c : PCmd) (key : List Byte) (bs : List Byte) (bad : Bool) : UnitOut :=
  let x := c.desc
  let u := c.units
  let dst := pdDst x
  let next := fun (n : Nat) => { c with units := u + 1, dpos := c.dpos + n, poisoned := c.poisoned || bad }
  match pdCmd x with
  | 0 =>
    let f := zipPage bs
    if pdP x 1 < c.dpos + f.length then .stop pOverrun 0 0
    else .write (vaAdd dst c.dpos) f bad (next f.length)
  | 1 =>
    match unzipPage bs with
    | none => .stop pCorrupt 0 0
    | some (n, page) =>
      if fld (pdP x 1) 31 0 ≤ u then .stop pOverrun 0 0
      else .write (vaAdd dst (4096 * u)) page bad { next 4096 with spos := c.spos + n }
  | 2 => let o := topkRow (pdP x 0) bs; .write (vaAdd dst (o.length * u)) o bad (next o.length)
  | 3 => let o := ksortSeg (pdP x 0) bs; .write (vaAdd dst (o.length * u)) o bad (next o.length)
  | 4 => let o := gcmSeal key (recIv x u) (recAad x u) bs; .write (vaAdd dst (o.length * u)) o bad (next o.length)
  | 5 =>
    match gcmOpen key (recIv x u) (recAad x u) bs with
    | none => .stop pAuthFail 0 0
    | some o => .write (vaAdd dst (o.length * u)) o bad (next o.length)
  | 6 => .write (vaAdd dst (32 * u)) (sha256 bs) bad (next 32)
  | _ =>
    let h := sha256 (c.chain ++ bs)
    let bad := bad || c.chainBad
    .write (vaAdd dst (32 * u)) h bad { next 32 with chain := h, chainBad := bad, poisoned := c.poisoned || bad }

/-- Where the next unit reads, and how many bytes. -/
def PCmd.source (c : PCmd) : Nat × Nat :=
  let x := c.desc
  let u := c.units
  let src := pdSrc x
  match pdCmd x with
  | 0 => (vaAdd src (4096 * u), 4096)
  | 1 => (vaAdd src c.spos, min 4116 (pdP x 0 - c.spos))
  | 2 => (vaAdd src (signed (pdP x 2) 32 * u), topkSize (pdP x 0) * fld (pdP x 0) 31 0)
  | 3 => (vaAdd src (8 * fld (pdP x 0) 31 0 * u), 8 * fld (pdP x 0) 31 0)
  | 4 => (vaAdd src (fld (pdP x 3) 31 0 * u), fld (pdP x 3) 31 0)
  | 5 => (vaAdd src ((fld (pdP x 3) 31 0 + 16) * u), fld (pdP x 3) 31 0 + 16)
  | 6 => (vaAdd src (signed (pdP x 2) 64 * u), fld (pdP x 0) 31 0)
  | _ => (vaAdd src (fld (pdP x 0) 31 0 * u), fld (pdP x 0) 31 0)

/-- Bytes a frame takes at the head of CUNZ's source: its header says. -/
def frameLen (bs : List Byte) : Nat := let w := ofBytes (bs.take 4); if w < 20 ∨ 4116 < w then 20 else w

/-- Reads the source of the next unit.  CUNZ reads a frame's header, then the frame. -/
def State.unitSource (s : State) (w : Who) (c : PCmd) : Except AFail (List (Byte × Bool)) × State :=
  let (va, n) := c.source
  if pdCmd c.desc = 1 then
    match s.engRead w c.ctx va (min 20 n) with
    | (.error f, s) => (.error f, s)
    | (.ok h, s) => s.engRead w c.ctx va (min n (frameLen (plain h)))
  else s.engRead w c.ctx va n

/-- The next unit of a command that has started. -/
def State.nextUnit (s : State) (d p : Nat) (c : PCmd) : UnitOut × State :=
  match s.unitSource (whoPraline d p) c with
  | (.error f, s) => (.stop f.code f.lvl f.va, s)
  | (.ok bs, s) =>
    (c.unit (((s.die d).keyOf c.ctx (fld (pdP c.desc 0) 5 0)).getD []) (plain bs) (anyPoison bs), s)

/-- Every page of a destination translates: a fault stops the command before the unit writes (R378). -/
def State.probe (w : Who) (ctx : Nat) : Nat → State → Nat → Nat → Option AFail × State
  | 0, s, _, _ => (none, s)
  | fuel + 1, s, va, n =>
    if n = 0 then (none, s)
    else
      let m := min n (4096 - va % 4096)
      match s.translate w.owner w.die w.mcl ctx .write va with
      | (.bad c l, s) => (some { code := c, lvl := l, va := va }, s)
      | (.ok _ _, s) => State.probe w ctx fuel s ((va + m) % 2 ^ 64) (n - m)

/-- A unit's write, whole or not at all.  Poison that it writes posts no machine check: R410 has no SOURCE for it; the model's
choice (assumption 50). -/
def State.unitWrite (s : State) (w : Who) (ctx va : Nat) (bs : List Byte) (bad : Bool) : Option AFail × State :=
  match State.probe w ctx (bs.length / 4096 + 2) s va bs.length with
  | (some f, s) => (some f, s)
  | (none, s) => s.engWrite w ctx va (bs.map (fun b => (b, bad)))

/-- A command that stops here. -/
def PCmd.stop (c : PCmd) (status lvl va : Nat) : PCmd := { c with finished := true, status := status, lvl := lvl, fva := va }

/-- The first digest of an HCHAIN (R384). -/
def State.chainStart (s : State) (d p : Nat) (c : PCmd) : PCmd × State :=
  if pdCmd c.desc != 7 then (c, s)
  else if pdP c.desc 2 = 0 then ({ c with chain := List.replicate 32 0#8 }, s)
  else match s.engRead (whoPraline d p) c.ctx (pdP c.desc 2) 32 with
    | (.error f, s) => (c.stop f.code f.lvl f.va, s)
    | (.ok bs, s) => ({ c with chain := plain bs, chainBad := anyPoison bs }, s)

/-- A started command with nothing left to do has its final status. -/
def PCmd.settle (c : PCmd) : PCmd :=
  if c.started && !c.finished && c.allDone then c.stop (if c.poisoned then 0x20 else 0) 0 0 else c

/-- One turn of a praline at the head of its queue: validation, or one unit. -/
def State.pralineWork (s : State) (d p : Nat) (c : PCmd) : PCmd × State :=
  if c.finished then (c, s)
  else if !c.started then
    let st := (s.die d).judge c.ctx c.desc
    if st != 0 then ({ c with started := true }.stop st 0 0, s)
    else let r := s.chainStart d p { c with started := true }; (r.1.settle, r.2)
  else match s.nextUnit d p c with
    | (.stop st lvl va, s) => (c.stop st lvl va, s)
    | (.write va bs bad next, s) =>
      match s.unitWrite (whoPraline d p) c.ctx va bs bad with
      | (some f, s) => (c.stop f.code f.lvl f.va, s)
      | (none, s) => (next.settle, s)

/-- The lease slot that holds praline `p` of a die: the cluster and the slot. -/
def State.slotOf (s : State) (d p : Nat) : Option (Nat × Nat) :=
  match ((s.die d).praline p).holder with
  | some (.slot cl i) => some (d * 40 + cl, i)
  | _ => none

/-- The turn of praline `p` of the actor's die on a command of kind `cmd`.  A command that has not started when its
context's save writes the cluster is in the image and starts no more here (R386). -/
def runPraline (cmd : Nat) (p : BitVec 6) (s : State) : Host.Outcome State Fault Refusal :=
  let d := s.hereDie
  .next (match s.slotOf d p.toNat with
    | none => s
    | some (c, i) =>
      let x := (s.cl c).lslot i
      match x.q with
      | .cmd y :: rest =>
        if pdCmd y.desc = cmd && ((s.die d).praline p.toNat).ready && (y.started || !s.saveWritten c y.ctx) then
          let r := s.pralineWork d p.toNat y
          r.2.setSlot c i { (r.2.cl c).lslot i with q := .cmd r.1 :: rest }
        else s
      | _ => s)

def execCzip (p : BitVec 6) (s : State) : Host.Outcome State Fault Refusal := runPraline 0 p s
def execCunz (p : BitVec 6) (s : State) : Host.Outcome State Fault Refusal := runPraline 1 p s
def execTopk (p : BitVec 6) (s : State) : Host.Outcome State Fault Refusal := runPraline 2 p s
def execKsort (p : BitVec 6) (s : State) : Host.Outcome State Fault Refusal := runPraline 3 p s
def execGenc (p : BitVec 6) (s : State) : Host.Outcome State Fault Refusal := runPraline 4 p s
def execGdec (p : BitVec 6) (s : State) : Host.Outcome State Fault Refusal := runPraline 5 p s
def execHsha (p : BitVec 6) (s : State) : Host.Outcome State Fault Refusal := runPraline 6 p s
def execHchain (p : BitVec 6) (s : State) : Host.Outcome State Fault Refusal := runPraline 7 p s

/-! ### Completion and eviction (R374, R378) -/

/-- The completion message. -/
def State.pralineDone (s : State) (c i : Nat) (y : PCmd) : State :=
  if pdMsg y.desc then
    s.post c (senderOut (whoPraline (dieOf c) ((s.cl c).lslot i).praline).agent) (pdChan y.desc)
      { msg := { w0 := BitVec.ofNat 64 (y.status + pdCmd y.desc * 2 ^ 8 + i * 2 ^ 12 + pdTag y.desc * 2 ^ 16 + y.lvl * 2 ^ 32),
                 w1 := BitVec.ofNat 64 y.dpos, w2 := BitVec.ofNat 64 y.units, w3 := BitVec.ofNat 64 y.fva }, ctx := y.ctx }
  else s

/-- PRALINE_COMPLETE: the finished command at the head leaves the queue. -/
def execPralineComplete (p : BitVec 6) (s : State) : Host.Outcome State Fault Refusal :=
  let d := s.hereDie
  .next (match s.slotOf d p.toNat with
    | none => s
    | some (c, i) =>
      let x := (s.cl c).lslot i
      match x.q with
      | .cmd y :: rest =>
        if y.finished then
          let k := s.die d
          let s := s.setDie d (k.setPraline p.toNat { k.praline p.toNat with idle := k.clock })
          ((s.setSlot c i { x with q := rest }).pralineDone c i y).settleSlot c i
        else s
      | _ => s)

/-- Bytes chosen freely, one by one, from two lists: the old where a free number is even, else the new. -/
def State.mixBytes : List ((Byte × Bool) × (Byte × Bool)) → State → List (Byte × Bool) × State
  | [], s => ([], s)
  | (o, n) :: t, s =>
    let (x, s) := s.drawNat
    let r := State.mixBytes t s
    ((if x % 2 = 0 then o else n) :: r.1, r.2)

/-- The destination of a stopped command beyond its completed units: each byte is free to be what it was or what the
command would have written (R374).  GDEC and KSORT write nothing for an incomplete unit. -/
def State.mixRest (d p : Nat) : Nat → State → PCmd → State
  | 0, s, _ => s
  | fuel + 1, s, c =>
    if c.allDone || pdCmd c.desc == 3 || pdCmd c.desc == 5 then s
    else match s.nextUnit d p c with
      | (.stop _ _ _, s) => s
      | (.write va bs bad next, s) =>
        match s.engRead (whoPraline d p) c.ctx va bs.length with
        | (.error _, s) => s
        | (.ok old, s) =>
          let r := State.mixBytes (old.zip (bs.map (fun b => (b, bad)))) s
          State.mixRest d p fuel (r.2.engWrite (whoPraline d p) c.ctx va r.1).2 next

/-- The commands of an ended lease complete with EVICTED, in queue order; the running one keeps its completed units. -/
def State.evictCmds (d p c i : Nat) : List PEnt → State → State
  | [], s => s
  | .marker _ :: t, s => State.evictCmds d p c i t s
  | .cmd y :: t, s =>
    let (y, s) := if y.finished then (y, s)
      else if y.started then (y.stop pEvicted 0 0, State.mixRest d p (pdUnits y.desc + pdP y.desc 0 / 20 + 1) s y)
      else (y.stop pEvicted 0 0, s)
    State.evictCmds d p c i t (s.pralineDone c i y)

/-- A lease ends under its holder: its commands complete with EVICTED, ENDED is posted, and the slot is free. -/
def State.endLease (s : State) (c i reason : Nat) : State :=
  let d := dieOf c
  let x := (s.cl c).lslot i
  let s := State.evictCmds d x.praline c i x.q s
  let s := if x.st == SlotSt.lease then s.sayLease c i 0x43 0 reason else s
  (s.setSlot c i x.emptied).setDie d (((s.die d).withdraw (localOf c) i).unlease x.praline)

/-- The fields of a continuation record (R34) that name its context and its CLUSTER, and Amber's configuration for a
context (R52). -/
def arCtx (x : Nat) : Nat := fld x 229 224
def arCluster (x : Nat) : Nat := fld x 245 240
def Amber.cfg (a : Amber) (x : Nat) : AmbCtx := a.ctxs.get x {}

/-- Block `b` comes before block `c` in promotion order: blocks that PROMOTE_ONE put ahead first, the latest before the earlier
(R47), then from the newest downward (R41). -/
def AmbRec.sooner (r : AmbRec) (b c : Nat) : Bool :=
  match r.ahead.idxOf? b, r.ahead.idxOf? c with
  | some i, some j => decide (i < j)
  | some _, none => true
  | none, some _ => false
  | none, none => decide (c < b)

/-- Puts a block into promotion order. -/
def AmbRec.queueUp (r : AmbRec) (b : Nat) : List Nat → List Nat
  | [] => [b]
  | c :: cs => if r.sooner b c then b :: c :: cs else c :: r.queueUp b cs

/-- The transfers of a record that need a praline are abandoned (R51): a demotion is tried again at the next examination,
and an H block popped for a promotion goes back to the stack `h`, and the promotion starts again. -/
def AmbRec.dropEngines (r : AmbRec) (h : Nat) : AmbRec :=
  let r := match r.demCF with
    | none => r
    | some t => { r with demCF := none, skip := r.skip ++ [t.block] }
  match r.proF with
  | none => r
  | some t =>
    let back : List Push := match t.popped with
      | some b => [{ ctx := arCtx r.img, cl := arCluster r.img, top := h, block := b }]
      | none => []
    { r with proF := none, pushes := r.pushes ++ back, pend := r.queueUp t.block r.pend }

/-- Amber of a die abandons every transfer that needs a praline (R51, R402), and the watches of those it abandons. -/
def State.dropEngines (s : State) (d : Nat) : State :=
  let k := s.die d
  let a := k.amber
  let s := { s with watches := s.watches.filter (fun w => !(w.die == d && (a.recs.get w.rix {}).demCF.isSome)) }
  let any := a.recs.any (fun e => e.2.demCF.isSome || e.2.proF.isSome)
  let s := s.setDie d { k with amber := { a with recs := a.recs.map (fun e => (e.1, e.2.dropEngines (a.cfg (arCtx e.2.img)).hstack)) } }
  if any then s.restEngines d else s

/-- Amber loses its lease of praline `p` (R51): its transfers are abandoned, and it asks for another lease. -/
def State.amberEvicted (s : State) (d p : Nat) : State :=
  let s := s.dropEngines d
  let s := s.setDie d ((s.die d).unlease p)
  let e : LeaseReq := { wake := false, holder := .amber, kind := p / 16, prio := s.amberPrio d }
  s.setDie d { s.die d with leaseQ := (s.die d).leaseQ ++ [e] }

/-- LEASE_EVICTION (R374): no sooner than 200 microseconds after the notice. -/
def execLeaseEviction (p : BitVec 6) (s : State) : Host.Outcome State Fault Refusal :=
  let d := s.hereDie
  let k := s.die d
  let x := k.praline p.toNat
  .next (match x.notice with
    | none => s
    | some t =>
      if k.clock < t + 200 then s
      else match x.holder with
        | some (.slot cl i) => (s.endLease (d * 40 + cl) i 0).arbitrate d
        | some .amber => (s.amberEvicted d p.toNat).arbitrate d
        | none => s)

end Sys2Proof.Machine
end

