-- ==== Sys2Proof/Machine/AmberUnit.lean ====
section
/-! DEFINITION. Amber (chapter 2): parking, aging, demotion, waking, promotion, resumption, DROP, free stacks. -/

namespace Sys2Proof.Machine

/-! ### Records (R34) -/

def arBtdesc (x : Nat) : Nat := fld x 63 0
def arToken (x : Nat) : Nat := fld x 95 64
def arHc (x : Nat) : Nat := fld x 117 96
def arCf (x : Nat) : Nat := fld x 149 128
def arHorizon (x : Nat) : Nat := fld x 175 160
def arPinned (x : Nat) : Nat := fld x 191 176
def arDepth (x : Nat) : Nat := fld x 219 192
def arByMsg (x : Nat) : Bool := bit x 232
def arChan (x : Nat) : Nat := fld x 251 248
def arResume (x : Nat) : Nat := fld x 319 256

/-- A record that may not be parked (PERR 2). -/
def arBad (x : Nat) : Bool :=
  fld x 127 118 != 0 || fld x 159 150 != 0 || fld x 223 220 != 0 || fld x 231 230 != 0 || fld x 239 233 != 0 ||
  fld x 247 246 != 0 || fld x 255 252 != 0 || decide (3600000 < arHc x) || decide (3600000 < arCf x) ||
  decide (39 < arCluster x) || arResume x % 64 != 0

/-- Amber of die `d`, and its record `i`. -/
def State.setAmber (s : State) (d : Nat) (a : Amber) : State := s.setDie d { s.die d with amber := a }
def State.arec (s : State) (d i : Nat) : AmbRec := (s.amber d).recs.get i {}
def State.setArec (s : State) (d i : Nat) (r : AmbRec) : State :=
  s.setAmber d { s.amber d with recs := (s.amber d).recs.put i r }

/-- Through which context Amber reaches memory, and the CLUSTER that hears of its failures (R465): a record's, or those
kept with a push or a dropped entry. -/
structure AmbAcc where
  ctx : Nat
  cl : Nat

/-- Amber's agent number. -/
def agentAmber (d : Nat) : Nat := agentDie d 80

/-- Amber as an agent: its walks report to the CLUSTER (R17). -/
def AmbAcc.who (x : AmbAcc) (d : Nat) : Who := { owner := 1000 + d, die := d, mcl := d * 40 + x.cl, agent := agentAmber d }

/-- A record's context and CLUSTER. -/
def AmbRec.acc (r : AmbRec) : AmbAcc := { ctx := arCtx r.img, cl := arCluster r.img }
def Push.acc (p : Push) : AmbAcc := { ctx := p.ctx, cl := p.cl }
def Undone.acc (u : Undone) : AmbAcc := { ctx := u.ctx, cl := u.cl }

/-- Amber as an agent, for a record. -/
def whoAmber (d : Nat) (r : AmbRec) : Who := r.acc.who d

/-- Blocks of a record, by the LEN last read; and by the largest LEN read since the park. -/
def AmbRec.n (r : AmbRec) : Nat := (r.len + 15) / 16
def AmbRec.nMax (r : AmbRec) : Nat := (r.lenMax + 15) / 16

/-- A store of Amber at home, by physical address. -/
def State.amberStore (s : State) (d pa : Nat) (bs : List Byte) : State := s.storeHome d (agentAmber d) pa bs false

/-- Writes PAYLOAD, STATE and PERR (R34). -/
def State.writeRec (s : State) (d i : Nat) : State :=
  let r := s.arec d i
  s.amberStore d ((s.amber d).recBase + 64 * i + 40) (toBytes 8 (r.payload + r.st * 2 ^ 28 + r.perr * 2 ^ 31))

/-- Writes AGE_MS. -/
def State.writeAge (s : State) (d i : Nat) : State :=
  s.amberStore d ((s.amber d).recBase + 64 * i + 60) (toBytes 4 (s.arec d i).age)

/-- A message of Amber. -/
def State.amberSay (s : State) (d cl chan : Nat) (m : Msg) (ctx : Nat) : State :=
  s.post (d * 40 + cl) (senderOut (agentAmber d)) chan { msg := m, ctx := ctx }

/-! ### Accesses through the record's context (R465) -/

/-- Code of a poisoned word in a class 0xA2 message. -/
def cPoisoned : Nat := 0xF

/-- The number that stands for no block. -/
def noBlock : Nat := 0xFFFFFFFF

/-- An access for record `i` failed: at most one class 0xA2 message per examination. -/
def State.accFail (s : State) (x : AmbAcc) (d i b : Nat) (f : AFail) : State :=
  let r := s.arec d i
  if r.told then s
  else (s.setArec d i { r with told := true }).amberSay d x.cl 0
    { w0 := BitVec.ofNat 64 (i + d * 2 ^ 14 + f.code * 2 ^ 16 + f.lvl * 2 ^ 20 + 0xA2 * 2 ^ 56), w1 := BitVec.ofNat 64 f.va,
      w2 := BitVec.ofNat 64 b } x.ctx

/-- An access through the record's own context failed. -/
def State.amberFail (s : State) (d i b : Nat) (f : AFail) : State := s.accFail (s.arec d i).acc d i b f

/-- Reads bytes as HOME accesses; a poisoned word fails the read. -/
def State.amberRead (x : AmbAcc) (d : Nat) (k : AccKind) : Nat → State → Nat → Nat → Except AFail (List Byte) × State
  | 0, s, _, _ => (.ok [], s)
  | fuel + 1, s, va, n =>
    if n = 0 then (.ok [], s)
    else
      let m := min n (4096 - va % 4096)
      let w := x.who d
      match s.translate w.owner w.die w.mcl x.ctx k va with
      | (.bad c l, s) => (.error { code := c, lvl := l, va := va }, s)
      | (.ok pa _, s) =>
        match (List.range m).find? (fun j => s.poisonedAt (pa + j)) with
        | some j => (.error { code := cPoisoned, lvl := 0, va := va + j }, s)
        | none =>
          match State.amberRead x d k fuel s ((va + m) % 2 ^ 64) (n - m) with
          | (.ok r, s) => (.ok (s.mem.bytes pa m ++ r), s)
          | e => e

/-- Reads `n` bytes. -/
def State.accGet (s : State) (x : AmbAcc) (d va n : Nat) : Except AFail (List Byte) × State :=
  State.amberRead x d .read (n / 4096 + 2) s va n

/-- Reads `n` bytes for a record. -/
def State.amberGet (s : State) (d i va n : Nat) : Except AFail (List Byte) × State := s.accGet (s.arec d i).acc d va n

/-- Writes bytes at home; marks are cleared by whole words. -/
def State.accPut (s : State) (x : AmbAcc) (d va : Nat) (bs : List (Byte × Bool)) : Option AFail × State :=
  match State.probe (x.who d) x.ctx (bs.length / 4096 + 2) s va bs.length with
  | (some f, s) => (some f, s)
  | (none, s) => s.engWrite (x.who d) x.ctx va bs

/-- Writes bytes at home for a record. -/
def State.amberPut (s : State) (d i va : Nat) (bs : List (Byte × Bool)) : Option AFail × State := s.accPut (s.arec d i).acc d va bs

/-- What Amber has written is performed before what it writes next: a release at DEV scope (R42, R53, R287). -/
def State.amberRelease (s : State) (d : Nat) : State := s.deliverKnown (agentAmber d) d .dev

/-- Reads the block-table descriptor afresh; `none` where it is malformed (R28). -/
def State.amberDesc (s : State) (d i : Nat) : Except AFail (Option BlockTab) × State :=
  let va := arBtdesc (s.arec d i).img
  match s.amberGet d i va 32 with
  | (.error f, s) => (.error f, s)
  | (.ok bs, s) => (.ok (blockTab va (ofBytes bs)), s)

/-- The descriptor's table as read at the park (R35); only LEN is read again, at a WAKE (R41). -/
def State.table (s : State) (d i : Nat) : BlockTab :=
  (s.arec d i).tab.getD { entries := 0, hpool := 0, cpool := 0, len := 0, bshift := 9, tshift := 0 }

/-- The VA of entry `b`. -/
def BlockTab.entryVa (t : BlockTab) (b : Nat) : Nat := (t.entries + 4 * b) % 2 ^ 64

/-- Reads entry `b`; a failure is reported (R465). -/
def State.entry (s : State) (d i : Nat) (t : BlockTab) (b : Nat) : Option Nat × State :=
  match s.amberGet d i (t.entryVa b) 4 with
  | (.ok bs, s) => (some (ofBytes bs), s)
  | (.error f, s) => (none, s.amberFail d i b f)

/-- Fields of an entry (R29): H 0, C 1, C_PEND 2, F 3, F_PEND 4. -/
def enIndex (e : Nat) : Nat := fld e 27 0
def enState (e : Nat) : Nat := fld e 30 28
def enValid (e : Nat) : Bool := bit e 31

/-- An entry that counts as in H for R44 and R46. -/
def enHome (e : Nat) : Bool := !enValid e || enState e == 0 || decide (4 < enState e)

/-- The outcome of an entry write (R49). -/
inductive CasRes where
  | done
  | changed
  | failed
  deriving DecidableEq

/-- Writes the entry of block `b` at a VA as an atomic update that succeeds only if it still holds `old` (R49); copies of
its line go (R39). -/
def State.accCas (s : State) (x : AmbAcc) (d i b va old new : Nat) : CasRes × State :=
  let w := x.who d
  match s.translate w.owner w.die w.mcl x.ctx .atomic va with
  | (.bad c l, s) => (.failed, s.accFail x d i b { code := c, lvl := l, va := va })
  | (.ok pa _, s) =>
    if s.poisonedAt pa then (.failed, s.accFail x d i b { code := cPoisoned, lvl := 0, va := va })
    else if ofBytes (s.mem.bytes pa 4) != old then (.changed, s)
    else
      let s := s.amberStore d pa (toBytes 4 new)
      (.done, (List.range 4).foldl (fun s e => s.dropCopy e (pa / 128)) s)

/-- Writes entry `b` of a record. -/
def State.cas (s : State) (d i : Nat) (t : BlockTab) (b old new : Nat) : CasRes × State :=
  s.accCas (s.arec d i).acc d i b (t.entryVa b) old new

/-- Reads the entries of blocks, in order. -/
def State.entries (d i : Nat) (t : BlockTab) : List Nat → State → List (Option Nat) × State
  | [], s => ([], s)
  | b :: bs, s =>
    let r := s.entry d i t b
    let q := State.entries d i t bs r.2
    (r.1 :: q.1, q.2)

/-- Counts the record's blocks by tier and writes NH, NC and NF (R34). -/
def State.recount (s : State) (d i : Nat) : State :=
  let (es, s) := State.entries d i (s.table d i) (List.range (s.arec d i).n) s
  let es := es.filterMap id
  let count := fun (p : Nat → Bool) => (es.filter (fun e => enValid e && p (enState e))).length
  let nh := count (fun x => x == 0)
  let nc := count (fun x => x == 1 || x == 2)
  let nf := count (fun x => x == 3 || x == 4)
  s.amberStore d ((s.amber d).recBase + 64 * i + 48) (toBytes 4 nh ++ toBytes 4 nc ++ toBytes 4 nf)

/-- NH as last written. -/
def State.countH (s : State) (d i : Nat) : Nat := ofBytes (s.mem.bytes ((s.amber d).recBase + 64 * i + 48) 4)

/-! ### Free stacks (R53) -/

/-- What a pop gives. -/
inductive PopRes where
  | block (b : Nat)
  | empty
  | locked
  deriving DecidableEq

/-- The closing store of a pop or a push: COUNT := `n` and LOCK := 0, a release at DEV scope. -/
def State.closeStack (s : State) (x : AmbAcc) (d va n : Nat) : State :=
  ((s.amberRelease d).accPut x d va ((toBytes 8 n).map (fun y => (y, false)))).2

/-- Pops a block for record `i`, block `b`: the lock (an acquire), the entry and the closing store in one step; a stack that
software has locked is tried again later, and a failed access counts as an empty stack (R465). -/
def State.popBlock (s : State) (d i va b : Nat) : PopRes × State :=
  let x := (s.arec d i).acc
  match State.amberRead x d .atomic 2 s va 8 with
  | (.error f, s) => (.empty, s.accFail x d i b f)
  | (.ok top, s) =>
    let n := ofBytes (top.take 4)
    if bit (ofBytes top) 63 then (.locked, s)
    else
      let s := s.acquire (agentAmber d)
      if n = 0 then (.empty, s.closeStack x d va 0)
      else match s.accGet x d ((va + 8 + 4 * (n - 1)) % 2 ^ 64) 4 with
        | (.error f, s) => (.empty, s.accFail x d i b f)
        | (.ok e, s) => (.block (ofBytes e), s.closeStack x d va (n - 1))

/-- What a push comes to: it is made; it is held back by LOCK; or an access of it failed. -/
inductive PushRes where
  | done
  | held
  | failed
  deriving DecidableEq

/-- Tries a push for record `i`.  The message of one that fails names no block: it ends no transfer; the model's choice
(assumption 51). -/
def State.tryPush (s : State) (d i : Nat) (p : Push) : PushRes × State :=
  let x := p.acc
  match State.amberRead x d .atomic 2 s p.top 8 with
  | (.error f, s) => (.failed, s.accFail x d i noBlock f)
  | (.ok top, s) =>
    let n := ofBytes (top.take 4)
    if bit (ofBytes top) 63 then (.held, s)
    else
      let s := s.acquire (agentAmber d)
      match s.accPut x d ((p.top + 8 + 4 * n) % 2 ^ 64) ((toBytes 4 p.block).map (fun y => (y, false))) with
      | (some f, s) => (.failed, s.accFail x d i noBlock f)
      | (none, s) => (.done, s.closeStack x d p.top (n + 1))

/-- An AG still works through the block whose entry stands at a VA (R39: accesses already translated through it). -/
def State.walked (s : State) (ctx va : Nat) : Bool :=
  s.clusters.any (fun k => k.2.ags.any (fun a =>
    match a.2.desc, a.2.block with
    | some t, some _ => t.entryVa (a.2.cnt.getD 4 0) == va &&
        (match k.2.agOwner a.1 with | some r => (k.2.resident r).ctx == ctx | none => false)
    | _, _ => false))

/-- Something of the record failed and is tried again in its millisecond (R465). -/
def AmbRec.failing (r : AmbRec) : Bool := r.pushes.any Push.failed || !r.undone.isEmpty

/-- A failure at time `t` begins that millisecond, unless one has begun. -/
def AmbRec.missed (r : AmbRec) (t : Nat) : AmbRec := { r with lastPush := if r.failing then r.lastPush else t }

/-- Keeps a push: a failed one is tried again after 1 ms (R465), one that waits after 1 microsecond (R53). -/
def AmbRec.keepPush (r : AmbRec) (t : Nat) (p : Push) : AmbRec :=
  let r := if p.failed then r.missed t
    else { r with lastHeld := if r.pushes.all Push.failed then t else r.lastHeld }
  { r with pushes := r.pushes ++ [p] }

/-- Makes a push of record `i`, or keeps it to be repeated: its entry has not quiesced, the stack is locked, or an access
failed. -/
def State.givePush (s : State) (d i : Nat) (p : Push) : State :=
  let wait := match p.entry with | some va => s.walked p.ctx va | none => false
  let (r, s) := if wait then (.held, s) else s.tryPush d i p
  match r with
  | .done => s
  | .held => s.setArec d i ((s.arec d i).keepPush (s.amber d).clock p)
  | .failed => s.setArec d i ((s.arec d i).keepPush (s.amber d).clock { p with failed := true })

/-- Gives a block of record `i` back to the context's H stack or C stack, once the entry at `entry` has quiesced. -/
def State.giveBack (s : State) (d i : Nat) (toH : Bool) (block : Nat) (entry : Option Nat := none) : State :=
  let x := (s.arec d i).acc
  let c := (s.amber d).cfg x.ctx
  s.givePush d i { ctx := x.ctx, cl := x.cl, top := if toH then c.hstack else c.cstack, block := block, entry := entry }

/-! ### Tier F (R40, R42, R43) -/

/-- The praline of a kind that Amber's standing lease holds, awake and ready. -/
def Die.amberReady (k : Die) (kind : Nat) : Bool :=
  (List.range 16).any (fun j => let x := k.praline (16 * kind + j); x.holder == some Holder.amber && x.awake && x.ready)

/-- Wakes Amber's pralines for a transfer to or from tier F (R51, R385). -/
def State.wakeEngines (s : State) (d : Nat) : State :=
  [0, 2].foldl (fun s kind =>
    match (List.range 16).find? (fun j => ((s.die d).praline (16 * kind + j)).holder == some Holder.amber) with
    | none => s
    | some j => s.wakeFor d { wake := true, holder := .amber, kind := kind, prio := s.amberPrio d } (16 * kind + j)) s

/-- The nonce of an extent (R40) as GENC's IV (R383): NONCEHI, whose top bits are the die, then the serial, each little-endian. -/
def extIv (d serial : Nat) : List Byte := toBytes 4 (d * 2 ^ 30) ++ toBytes 8 serial

/-- The additional data of an extent (R40): CTX (6 bits), record (14), block (28) and serial (64), packed in 14 bytes, the
whole little-endian as R6 has numbers (assumption 64). -/
def extAad (ctx i b serial : Nat) : List Byte := toBytes 14 (ctx * 2 ^ 106 + i * 2 ^ 92 + b * 2 ^ 64 + serial)

/-- A block's bytes as frames; a block shorter than a page is filled up with zeros. -/
def packBlock (bs : List Byte) : List Byte :=
  let full := bs ++ List.replicate ((4096 - bs.length % 4096) % 4096) 0#8
  (List.range (full.length / 4096)).flatMap (fun j => zipPage ((full.drop (4096 * j)).take 4096))

/-- The bytes of frames. -/
def unpackBlock : Nat → List Byte → List Byte
  | 0, _ => []
  | n + 1, bs =>
    match unzipPage bs with
    | none => []
    | some (len, page) => page ++ unpackBlock n (bs.drop len)

/-- The key in the map of extents. -/
def extKey (i b : Nat) : Nat := i * 2 ^ 28 + b

/-- Room is left in the die's tier-F range for another extent. -/
def Amber.room (a : Amber) (d n : Nat) : Bool :=
  match a.fns with
  | none => false
  | some (_, lo, hi) =>
    let lba := Config.lbaBytes d
    let size := fun (m : Nat) => (m + lba - 1) / lba
    decide (((a.exts.map (fun e => size e.2.data.length)).sum + (a.freed.map size).sum) + size n ≤ hi + 1 - lo)

/-- Writes an extent: compressed, then encrypted under the context's key; `none` where the key slot or the room fails. -/
def State.writeExtent (s : State) (d i b : Nat) (bs : List Byte) : Option State :=
  let a := s.amber d
  let ctx := arCtx (s.arec d i).img
  match (s.die d).keyOf ctx (a.cfg ctx).keyslot with
  | none => none
  | some key =>
    let n := a.serial
    let box := gcmSeal key (extIv d n) (extAad ctx i b n) (packBlock bs)
    if a.room d box.length then
      some ((s.setAmber d { a with serial := n + 1, exts := a.exts.put (extKey i b) { data := box, serial := n } }).countBy
        logTierF (nsBin d (a.fns.getD (0, 0, 0)).1) box.length)
    else none

/-- A freed extent waits for its deallocation (R439). -/
def State.freeExtent (s : State) (d i b : Nat) : State :=
  let a := s.amber d
  match a.exts.find (extKey i b) with
  | none => s
  | some e => s.setAmber d { a with exts := a.exts.del (extKey i b), freed := a.freed ++ [e.data.length] }

/-- What reading an extent gives: the block's bytes; a tag that does not verify; or nothing, where Amber has no such
extent or the key slot is not the context's. -/
inductive ExtRes where
  | block (bs : List Byte)
  | mismatch
  | absent

/-- Reads block `b` of `n` bytes from its extent (R42). -/
def State.readExtent (s : State) (d i b n : Nat) : ExtRes :=
  let a := s.amber d
  let ctx := arCtx (s.arec d i).img
  match a.exts.find (extKey i b), (s.die d).keyOf ctx (a.cfg ctx).keyslot with
  | some e, some key =>
    match gcmOpen key (extIv d e.serial) (extAad ctx i b e.serial) e.data with
    | some x => .block ((unpackBlock (n / 4096 + 1) x).take n)
    | none => .mismatch
  | _, _ => .absent

/-! ### Watches (R39) -/

/-- Drops a record's watches. -/
def State.unwatch (s : State) (d i : Nat) : State :=
  { s with watches := s.watches.filter (fun w => !(w.die == d && w.rix == i)) }

/-- Watches the bytes of a block, page by page. -/
def State.watchBlock (d i : Nat) : Nat → State → Nat → Nat → Option AFail × State
  | 0, s, _, _ => (none, s)
  | fuel + 1, s, va, n =>
    if n = 0 then (none, s)
    else
      let m := min n (4096 - va % 4096)
      let w := whoAmber d (s.arec d i)
      match s.translate w.owner w.die w.mcl (arCtx (s.arec d i).img) .read va with
      | (.bad c l, s) => (some { code := c, lvl := l, va := va }, s)
      | (.ok pa _, s) =>
        State.watchBlock d i fuel { s with watches := s.watches ++ [{ die := d, rix := i, lo := pa, hi := pa + m }] }
          ((va + m) % 2 ^ 64) (n - m)

/-- The watched block has been written. -/
def State.written (s : State) (d i : Nat) : Bool := s.watches.any (fun w => w.die == d && w.rix == i && w.hit)

/-! ### Demotion (R38 to R40) -/

/-- The addresses of blocks in the pools. -/
def BlockTab.hva (t : BlockTab) (x : Nat) : Nat := (t.hpool + x * 2 ^ t.bshift) % 2 ^ 64
def BlockTab.cva (t : BlockTab) (x : Nat) : Nat := (t.cpool + x * 2 ^ t.bshift) % 2 ^ 64

/-- Leaves a block's demotion, or its promotion, for the next examination. -/
def State.later (s : State) (d i b : Nat) : State := s.setArec d i { s.arec d i with skip := (s.arec d i).skip ++ [b] }
def State.laterUp (s : State) (d i b : Nat) : State := s.setArec d i { s.arec d i with skipP := insertNat b (s.arec d i).skipP }

/-- A block's promotion is over, or is wanted no more. -/
def State.settledUp (s : State) (d i b : Nat) : State :=
  s.setArec d i { s.arec d i with ahead := (s.arec d i).ahead.filter (fun x => x != b) }

/-- Starts the next demotion of the present pass; with the last H-to-C demotion complete the C-to-F timer starts. -/
def State.nextDemotion (d i : Nat) : Nat → State → State
  | 0, s => s
  | fuel + 1, s =>
    let r := s.arec d i
    let c := (s.amber d).cfg (arCtx r.img)
    if r.st != 1 || r.demHC.isSome || r.demCF.isSome then s
    else match r.pass with
      | [] =>
        if r.hcDue && !r.cfDue && r.hcEnd.isNone && r.skip.isEmpty then
          s.setArec d i { r with hcEnd := some (s.amber d).clock }
        else s
      | b :: rest =>
        let t := s.table d i
        let (e, s) := s.entry d i t b
        let s := s.setArec d i { s.arec d i with pass := rest }
        let toC := !r.cfDue
        let src := if r.cfDue && c.cstack != 0 then 1 else 0
        match e with
        | none => State.nextDemotion d i fuel (s.later d i b)
        | some e =>
          if !enValid e || enState e != src then State.nextDemotion d i fuel s
          else if toC then
            match s.popBlock d i c.cstack b with
            | (.locked, s) => s.setArec d i { s.arec d i with pass := b :: rest }
            | (.empty, s) => State.nextDemotion d i fuel (s.later d i b)
            | (.block x, s) =>
              match State.watchBlock d i (2 ^ t.bshift / 4096 + 2) s (t.hva (enIndex e)) (2 ^ t.bshift) with
              | (some f, s) =>
                State.nextDemotion d i fuel ((((s.unwatch d i).amberFail d i b f).giveBack d i false x).later d i b)
              | (none, s) => s.setArec d i { s.arec d i with demHC := some { block := b, popped := some x, entry := e } }
          else
            let s := s.wakeEngines d
            let go := fun (s : State) => s.setArec d i { s.arec d i with demCF := some { block := b, entry := e } }
            if src = 1 then go s
            else match State.watchBlock d i (2 ^ t.bshift / 4096 + 2) s (t.hva (enIndex e)) (2 ^ t.bshift) with
              | (some f, s) => State.nextDemotion d i fuel (((s.unwatch d i).amberFail d i b f).later d i b)
              | (none, s) => go s

/-- Goes on with the present pass. -/
def State.goDemote (s : State) (d i : Nat) : State := State.nextDemotion d i ((s.arec d i).pass.length + 1) s

/-- A demotion from H to C completes, or is abandoned (R39). -/
def State.finishHC (s : State) (d i : Nat) (x : Transfer) : State :=
  let t := s.table d i
  let hit := s.written d i
  let s := (s.unwatch d i).setArec d i { s.arec d i with demHC := none }
  let c := x.popped.getD 0
  let back := fun (s : State) => s.giveBack d i false c
  if hit then (back s).later d i x.block
  else match s.amberGet d i (t.hva (enIndex x.entry)) (2 ^ t.bshift) with
    | (.error f, s) => (back (s.amberFail d i x.block f)).later d i x.block
    | (.ok bs, s) =>
      match s.amberPut d i (t.cva c) (bs.map (fun b => (b, false))) with
      | (some f, s) => (back (s.amberFail d i x.block f)).later d i x.block
      | (none, s) =>
        match (s.amberRelease d).cas d i t x.block x.entry (2 ^ 31 + 2 ^ 28 + c) with
        | (.failed, s) => (back s).later d i x.block
        | (.changed, s) => back s
        | (.done, s) =>
          (s.giveBack d i true (enIndex x.entry) (some (t.entryVa x.block))).recount d i

/-- A demotion to tier F completes, or is abandoned (R40). -/
def State.finishCF (s : State) (d i : Nat) (x : Transfer) : State :=
  let t := s.table d i
  let hit := s.written d i
  let s := ((s.unwatch d i).setArec d i { s.arec d i with demCF := none }).restEngines d
  let inC := enState x.entry == 1
  if hit then s.later d i x.block
  else match s.amberGet d i (if inC then t.cva (enIndex x.entry) else t.hva (enIndex x.entry)) (2 ^ t.bshift) with
    | (.error f, s) => (s.amberFail d i x.block f).later d i x.block
    | (.ok bs, s) =>
      match s.writeExtent d i x.block bs with
      | none => s.later d i x.block
      | some s =>
        match s.cas d i t x.block x.entry (2 ^ 31 + 3 * 2 ^ 28) with
        | (.failed, s) => (s.freeExtent d i x.block).later d i x.block
        | (.changed, s) => s.freeExtent d i x.block
        | (.done, s) =>
          (s.giveBack d i (!inC) (enIndex x.entry) (some (t.entryVa x.block))).recount d i

/-- The demotions in flight are abandoned (R41): their destinations are freed. -/
def State.abandonDemotions (s : State) (d i : Nat) : State :=
  let r := s.arec d i
  let s := (s.unwatch d i).setArec d i { r with demHC := none, demCF := none, pass := [], skip := [] }
  let s := if r.demCF.isSome then s.restEngines d else s
  match r.demHC with
  | some { popped := some c, .. } => s.giveBack d i false c
  | _ => s

/-! ### Resumption (R44 to R46, R458) -/

/-- Every block of a range is in H, or counts so. -/
def State.allHome (s : State) (d i lo hi : Nat) : Bool × State :=
  let (es, s) := State.entries d i (s.table d i) ((List.range (hi - lo)).map (fun j => lo + j)) s
  (es.all (fun e => match e with | some e => enHome e | none => false), s)

/-- Gives up one entry: V := 0 and INDEX := 0, then, once it has quiesced, its C block goes back; one beyond the last LEN is not
rewritten.  One that cannot be read or written is kept to be dealt with later. -/
def State.dropEntry (s : State) (d i : Nat) (u : Undone) : State :=
  let keep := fun (s : State) =>
    let r := (s.arec d i).missed (s.amber d).clock
    s.setArec d i { r with undone := r.undone ++ [u] }
  match s.accGet u.acc d u.va 4 with
  | (.error f, s) => keep (s.accFail u.acc d i u.block f)
  | (.ok bs, s) =>
    let e := ofBytes bs
    let back := fun (s : State) =>
      if enState e == 1 || enState e == 2 then
        s.givePush d i { ctx := u.ctx, cl := u.cl, top := u.cstack, block := enIndex e, entry := some u.va }
      else s
    if !enValid e || enState e == 0 || decide (4 < enState e) then s
    else if u.beyond then back s
    else match s.accCas u.acc d i u.block u.va e (enState e * 2 ^ 28) with
      | (.done, s) => back s
      | (.changed, s) => s
      | (.failed, s) => keep s

/-- The C blocks and extents of blocks beyond the LEN last read are given back (R48, R458); their entries, which no walk
reaches, are not rewritten (R49).  It is done once; an entry that cannot be read is kept and tried again, the model's choice
(assumption 51). -/
def State.freeBeyond (s : State) (d i : Nat) : State :=
  let r := s.arec d i
  let t := s.table d i
  let x := r.acc
  let s := (List.range (r.nMax - r.n)).foldl (fun s j =>
    let b := r.n + j
    (s.freeExtent d i b).dropEntry d i
      { ctx := x.ctx, cl := x.cl, cstack := ((s.amber d).cfg x.ctx).cstack, block := b, va := t.entryVa b, beyond := true }) s
  s.setArec d i { s.arec d i with lenMax := r.len }

/-- The promotion range's lowest block (R41). -/
def AmbRec.low (r : AmbRec) : Nat := if r.depth = 0 then 0 else r.n - r.depth

/-- The message of R44. -/
def AmbRec.resumeMsg (r : AmbRec) (d i nh : Nat) : Msg :=
  { w0 := BitVec.ofNat 64 (i + d * 2 ^ 14), w1 := BitVec.ofNat 64 r.payload, w2 := BitVec.ofNat 64 nh,
    w3 := BitVec.ofNat 64 (arBtdesc r.img) }

/-- The launch unit's answer to a resume launch (R45): a packet that met FULL is kept to be submitted again, and a refused
one is reported. -/
def State.submitPacket (s : State) (d : Nat) (x : Resubmit) : State :=
  let a := s.accept d x.packet (fun y => y == x.ctx) (some x.msg) none
  let s := a.2.2
  if a.1 = 0 then s
  else if a.1 = 31 then
    s.setAmber d { s.amber d with retries := (s.amber d).retries ++ [{ x with last := (s.amber d).clock }] }
  else s.amberSay d x.cl 0 { x.msg with w0 := BitVec.ofNat 64 (x.rix + d * 2 ^ 14 + a.1 * 2 ^ 16 + 0xA1 * 2 ^ 56) } x.ctx

/-- Submits the resume launch of a record (R44, R45); a packet that cannot be read is refused as BADDESC. -/
def State.submit (s : State) (d i nh : Nat) : State :=
  let r := s.arec d i
  let m := r.resumeMsg d i nh
  let refused := fun (s : State) => s.amberSay d (arCluster r.img) 0
    { m with w0 := BitVec.ofNat 64 (i + d * 2 ^ 14 + 20 * 2 ^ 16 + 0xA1 * 2 ^ 56) } (arCtx r.img)
  match s.engRead (whoAmber d r) (arCtx r.img) (arResume r.img) 64 with
  | (.error _, s) => refused s
  | (.ok bs, s) =>
    if anyPoison bs then refused s
    else s.submitPacket d { rix := i, ctx := arCtx r.img, cl := arCluster r.img, packet := ofBytes (plain bs), msg := m, last := 0 }

/-- A record whose every block is in H becomes FREE (R46, R458), once all its C blocks and extents have been returned: while a push
of it still waits, it stays RESUMED, so that DROP can end the wait (R465; assumption 51). -/
def State.freeIfHome (s : State) (d i : Nat) : State :=
  if (s.arec d i).st != 3 then s
  else
    let (home, s) := s.allHome d i 0 (s.arec d i).n
    if home then
      let s := s.freeBeyond d i
      let r := s.arec d i
      if r.pushes.isEmpty && r.undone.isEmpty then
        (s.setArec d i { r with st := 0, pend := [], ahead := [], skipP := [] }).writeRec d i
      else s
    else s

/-- The record resumes once its resume set is in H, and becomes FREE once every block is. -/
def State.checkRecord (s : State) (d i : Nat) : State :=
  let r := s.arec d i
  let top := max r.low (r.n - r.horizon)
  if r.st != 2 then s.freeIfHome d i
  else
    let (home, s) := s.allHome d i top r.n
    if !home then s
    else
      let s := s.recount d i
      let s := (s.setArec d i { s.arec d i with st := 3 }).writeRec d i
      let nh := s.countH d i
      let s := if arByMsg r.img then s.amberSay d (arCluster r.img) (arChan r.img) (r.resumeMsg d i nh) (arCtx r.img)
        else s.submit d i nh
      s.freeIfHome d i

/-! ### Promotion (R41, R42, R47) -/

/-- What marking a block pending comes to: its entry was rewritten; it was pending already; it is in no state to be
promoted; or it could not be read or written. -/
inductive MarkRes where
  | put
  | was
  | other
  | failed
  deriving DecidableEq

/-- Rewrites entry `b` from C to C_PEND or F to F_PEND. -/
def State.markPending (s : State) (d i b : Nat) : MarkRes × State :=
  let t := s.table d i
  match s.entry d i t b with
  | (none, s) => (.failed, s)
  | (some e, s) =>
    if enValid e && (enState e == 1 || enState e == 3) then
      match s.cas d i t b e (e + 2 ^ 28) with
      | (.done, s) => (.put, s)
      | (.changed, s) => (.other, s)
      | (.failed, s) => (.failed, s)
    else (if enValid e && (enState e == 2 || enState e == 4) then .was else .other, s)

/-- A transfer of block `b` into H is under way. -/
def AmbRec.rising (r : AmbRec) (b : Nat) : Bool := [r.proC, r.proF].any (fun x => match x with | some t => t.block == b | none => false)

/-- Marks block `b` and puts it among the pending blocks in promotion order, unless it is one of them or on its way; one whose
entry fails is left for the next examination. -/
def State.wantUp (s : State) (d i b : Nat) : State :=
  let (m, s) := s.markPending d i b
  let r := s.arec d i
  match m with
  | .failed => s.laterUp d i b
  | .other => s
  | _ => if r.pend.contains b || r.rising b || r.skipP.contains b then s else s.setArec d i { r with pend := r.queueUp b r.pend }

/-- Marks the blocks from `hi` down to `lo`. -/
def State.markRange (s : State) (d i lo hi : Nat) : State :=
  (List.range (hi - lo)).reverse.foldl (fun s j => s.wantUp d i (lo + j)) s

/-- The first pending block whose entry is in a state; pending blocks that another agent has changed are forgotten, and
one whose entry cannot be read is left for the next examination. -/
def State.nextPending (s : State) (d i st : Nat) : List Nat → Option (Nat × Nat) × State
  | [] => (none, s)
  | b :: bs =>
    let t := s.table d i
    let drop := fun (s : State) => s.setArec d i { s.arec d i with pend := (s.arec d i).pend.filter (fun x => x != b) }
    let forget := fun (s : State) => (drop s).settledUp d i b
    match s.entry d i t b with
    | (none, s) => ((drop s).laterUp d i b).nextPending d i st bs
    | (some e, s) =>
      if enValid e && enState e == st then (some (b, e), s)
      else if enValid e && (enState e == 2 || enState e == 4) then s.nextPending d i st bs
      else (forget s).nextPending d i st bs

/-- Starts a transfer into H for entries in state `st`, where none is in flight. -/
def State.startPromotion (s : State) (d i st : Nat) : State :=
  let r := s.arec d i
  let busy := if st = 2 then r.proC.isSome else r.proF.isSome
  if busy then s
  else match s.nextPending d i st r.pend with
    | (none, s) => s
    | (some (b, e), s) =>
      match s.popBlock d i ((s.amber d).cfg (arCtx r.img)).hstack b with
      | (.locked, s) => s
      | (.empty, s) =>
        let r := s.arec d i
        if r.dry then s
        else (s.setArec d i { r with dry := true }).amberSay d (arCluster r.img) 0
          { w0 := BitVec.ofNat 64 (i + d * 2 ^ 14 + 0xA0 * 2 ^ 56) } (arCtx r.img)
      | (.block x, s) =>
        let r := s.arec d i
        let tr : Transfer := { block := b, popped := some x, entry := e }
        let r := { r with dry := false, pend := r.pend.filter (fun y => y != b) }
        if st = 2 then s.setArec d i { r with proC := some tr }
        else (s.setArec d i { r with proF := some tr }).wakeEngines d

/-- At most one transfer of each kind is in flight (R41). -/
def State.pump (s : State) (d i : Nat) : State :=
  if (s.arec d i).st = 0 then s else (s.startPromotion d i 2).startPromotion d i 4

/-- PROMOTE_ONE, and a write through a block (R47, R50): the block goes ahead of every other pending one. -/
def State.promoteOne (s : State) (d i b : Nat) : State :=
  if (s.arec d i).n ≤ b then s
  else
    let (m, s) := s.markPending d i b
    let s1 := s.setArec d i { s.arec d i with ahead := b :: (s.arec d i).ahead.filter (fun x => x != b) }
    let r := s1.arec d i
    match m with
    | .failed => s1.laterUp d i b
    | .put => (s1.setArec d i { r with pend := r.queueUp b (r.pend.filter (fun x => x != b)),
                                       skipP := r.skipP.filter (fun x => x != b) }).pump d i
    | _ => s

/-- A transfer into H ends without success: the block is pushed back, and tried again at the next examination. -/
def State.failPromotion (s : State) (d i : Nat) (x : Transfer) (again : Bool) : State :=
  let s := s.giveBack d i true (x.popped.getD 0)
  if again then s.laterUp d i x.block else s.settledUp d i x.block

/-- Transfers into H under way are abandoned where `p` holds of their block: the blocks popped for them go back. -/
def State.abandonPromotions (s : State) (d i : Nat) (p : Nat → Bool) : State :=
  let r := s.arec d i
  let gone := fun (x : Option Transfer) => match x with | some t => p t.block | none => false
  let s := s.setArec d i { r with proC := if gone r.proC then none else r.proC, proF := if gone r.proF then none else r.proF }
  let s := if gone r.proF then s.restEngines d else s
  [r.proC, r.proF].foldl (fun s x =>
    match x with
    | some { block := b, popped := some h, .. } => if p b then s.giveBack d i true h else s
    | _ => s) s

/-- A transfer into H completes (R42, R43): the entry is written as H, a release at DEV, once every byte is performed. -/
def State.finishPromotion (s : State) (d i : Nat) (x : Transfer) (fromF : Bool) : State :=
  let t := s.table d i
  let n := 2 ^ t.bshift
  let r := s.arec d i
  let s := if fromF then (s.setArec d i { r with proF := none }).restEngines d else s.setArec d i { r with proC := none }
  let h := x.popped.getD 0
  let marked := fun (bs : List Byte) => bs.map (fun b => (b, false))
  let (got, s) : Except (Option AFail) (List (Byte × Bool)) × State :=
    if fromF then
      match s.readExtent d i x.block n with
      | .block bs => (.ok (marked bs), s)
      | .mismatch => (.ok (List.replicate n (0#8, true)), s)
      | .absent => (.error none, s)
    else match s.amberGet d i (t.cva (enIndex x.entry)) n with
      | (.ok bs, s) => (.ok (marked bs), s)
      | (.error f, s) => (.error (some f), s)
  match got with
  | .error f =>
    (match f with | some f => s.amberFail d i x.block f | none => s).failPromotion d i x true
  | .ok bs =>
    match s.amberPut d i (t.hva h) bs with
    | (some f, s) => (s.amberFail d i x.block f).failPromotion d i x true
    | (none, s) =>
      match (s.amberRelease d).cas d i t x.block x.entry (2 ^ 31 + h) with
      | (.failed, s) => s.failPromotion d i x true
      | (.changed, s) => s.failPromotion d i x false
      | (.done, s) =>
        let s := if bs.any Prod.snd then
          s.machineCheck (d * 40 + arCluster r.img) (arCtx r.img) 6 0 0 0 (i + x.block * 2 ^ 32) else s
        let s := if fromF then s.freeExtent d i x.block
          else s.giveBack d i false (enIndex x.entry) (some (t.entryVa x.block))
        ((s.settledUp d i x.block).recount d i).checkRecord d i

/-! ### The window (R35 to R37) -/

/-- Counts an ignored write. -/
def State.amberDrop (s : State) (d : Nat) : State :=
  let a := s.amber d
  s.setAmber d { a with drops := min (a.drops + 1) (2 ^ 64 - 1) }

/-- Writes PERR of a record that stays as it is. -/
def State.parkFails (s : State) (d i perr : Nat) : State :=
  let r := s.arec d i
  if r.st = 0 then
    let pa := (s.amber d).recBase + 64 * i + 40
    s.amberStore d pa (toBytes 8 (putFld (ofBytes (s.mem.bytes pa 8)) 34 31 perr))
  else (s.setArec d i { r with perr := perr }).writeRec d i

/-- A park request (R35). -/
def State.park (s : State) (d i : Nat) : State :=
  let a := s.amber d
  let pa := a.recBase + 64 * i
  let x := ofBytes (s.mem.bytes pa 64)
  if (s.arec d i).st != 0 then s.parkFails d i 1
  else if arBad x || s.poisonedAt pa || s.poisonedAt (pa + 32) then s.parkFails d i 2
  else
    let r : AmbRec := { img := x, payload := fld x 347 320, hcMs := if arHc x = 0 then a.hcDef else arHc x,
                        cfMs := if arCf x = 0 then a.cfDef else arCf x,
                        horizon := if arHorizon x = 0 then a.horizonDef else arHorizon x, depth := arDepth x,
                        parkAt := a.clock, lastExam := a.clock, lastPush := (s.arec d i).lastPush, lastHeld := (s.arec d i).lastHeld,
                        pushes := (s.arec d i).pushes, undone := (s.arec d i).undone }
    match (s.setArec d i r).amberDesc d i with
    | (.ok (some t), s) =>
      if !(a.cfg (arCtx x)).en then s.parkFails d i 4
      else
        let s := (s.setArec d i { s.arec d i with st := 1, tab := some t, len := t.len, lenMax := t.len }).recount d i
        (s.writeRec d i).writeAge d i
    | (_, s) => s.parkFails d i 3

/-- A write to AMB_PARK. -/
def State.amberPark (s : State) (d v : Nat) : State :=
  if v / 2 ^ 14 != 0 || decide ((s.amber d).recCount ≤ v) then s.amberDrop d else s.park d v

/-- AGE_MS now (R34). -/
def State.ageMs (s : State) (d i : Nat) : Nat := min (((s.amber d).clock - (s.arec d i).parkAt) / 1000) (2 ^ 32 - 1)

/-- An accepted WAKE (R41). -/
def State.wake (s : State) (d i arg : Nat) : State :=
  let s := (s.setArec d i { s.arec d i with age := s.ageMs d i, payload := arg, told := false }).writeAge d i
  let s := (s.writeRec d i).abandonDemotions d i
  let s := match s.amberDesc d i with
    | (.ok (some t), s) => s.setArec d i { s.arec d i with len := t.len, lenMax := max t.len (s.arec d i).lenMax }
    | (.ok none, s) => s.amberFail d i noBlock { code := cBlkDesc, lvl := 0, va := arBtdesc (s.arec d i).img }
    | (.error f, s) => s.amberFail d i noBlock f
  -- blocks beyond the new LEN are not promoted (R49)
  let n := (s.arec d i).n
  let s := s.abandonPromotions d i (fun b => decide (n ≤ b))
  let r := s.arec d i
  let s := s.setArec d i { r with depth := if r.n ≤ r.depth then 0 else r.depth,
                                  pend := r.pend.filter (fun b => decide (b < n)), skipP := r.skipP.filter (fun b => decide (b < n)) }
  let r := s.arec d i
  let s := s.markRange d i r.low r.n
  let s := ((s.setArec d i { s.arec d i with st := 2, lastExam := (s.amber d).clock }).recount d i).writeRec d i
  (s.checkRecord d i).pump d i

/-- An accepted PROMOTE_ALL (R37). -/
def State.promoteAll (s : State) (d i : Nat) : State :=
  let r := s.arec d i
  let s := (s.setArec d i { r with depth := 0 }).markRange d i 0 r.n
  ((s.recount d i).checkRecord d i).pump d i

/-- An accepted DROP (R48).  Pushes that only wait for LOCK or for a quiesce stay; the wait of those that failed ends
(R465). -/
def State.dropRecord (s : State) (d i : Nat) : State :=
  let s := (s.abandonDemotions d i).abandonPromotions d i (fun _ => true)
  let r := s.arec d i
  let s := s.setArec d i { r with pend := [], ahead := [], skipP := [], pushes := r.pushes.filter (fun p => !p.failed) }
  let t := s.table d i
  let x := r.acc
  let s := (List.range r.n).foldl (fun s b =>
    (s.freeExtent d i b).dropEntry d i
      { ctx := x.ctx, cl := x.cl, cstack := ((s.amber d).cfg x.ctx).cstack, block := b, va := t.entryVa b }) s
  let s := (s.freeBeyond d i).recount d i
  let r := s.arec d i
  let age := if r.st = 1 then s.ageMs d i else r.age
  ((s.setArec d i { r with st := 0, age := age }).writeRec d i).writeAge d i

/-- The write operations of a wake slot (R36). -/
inductive WakeOp where
  | wake
  | promoteAll
  | promoteOne
  | drop
  deriving DecidableEq, Repr

/-- Whether the record's state accepts an operation (R37). -/
def WakeOp.accepts : WakeOp → Nat → Bool
  | .wake, st => st == 1
  | .promoteAll, st => st == 2 || st == 3
  | .promoteOne, st => st == 1 || st == 2 || st == 3
  | .drop, st => st == 1 || st == 3

/-- A wake-slot write (R36, R37): accepted and applied whole, or ignored and counted. -/
def State.wakeSlot (s : State) (d i token : Nat) (op : WakeOp) (arg : Nat) : State :=
  let r := s.arec d i
  if arToken r.img != token || !op.accepts r.st || (arg != 0 && (op == .promoteAll || op == .drop)) then s.amberDrop d
  else match op with
    | .wake => s.wake d i arg
    | .promoteAll => s.promoteAll d i
    | .promoteOne => (s.promoteOne d i arg).recount d i
    | .drop => s.dropRecord d i

/-- A store to wake slot `i`. -/
def State.wakeStore (s : State) (d i v : Nat) : State :=
  match fld v 35 32 with
  | 0 => s.wakeSlot d i (v % 2 ^ 32) .wake (fld v 63 36)
  | 1 => s.wakeSlot d i (v % 2 ^ 32) .promoteAll (fld v 63 36)
  | 2 => s.wakeSlot d i (v % 2 ^ 32) .promoteOne (fld v 63 36)
  | 3 => s.wakeSlot d i (v % 2 ^ 32) .drop (fld v 63 36)
  | _ => s.amberDrop d

def execAmbPark (v : BitVec 64) (s : State) : Host.Outcome State Fault Refusal :=
  .next (s.posted.amberPark s.hereDie v.toNat)

def execWake (i : BitVec 14) (token : BitVec 32) (arg : BitVec 28) (s : State) : Host.Outcome State Fault Refusal :=
  .next (s.posted.wakeSlot s.hereDie i.toNat token.toNat .wake arg.toNat)

def execPromoteAll (i : BitVec 14) (token : BitVec 32) (arg : BitVec 28) (s : State) : Host.Outcome State Fault Refusal :=
  .next (s.posted.wakeSlot s.hereDie i.toNat token.toNat .promoteAll arg.toNat)

def execPromoteOne (i : BitVec 14) (token : BitVec 32) (arg : BitVec 28) (s : State) : Host.Outcome State Fault Refusal :=
  .next (s.posted.wakeSlot s.hereDie i.toNat token.toNat .promoteOne arg.toNat)

def execDrop (i : BitVec 14) (token : BitVec 32) (arg : BitVec 28) (s : State) : Host.Outcome State Fault Refusal :=
  .next (s.posted.wakeSlot s.hereDie i.toNat token.toNat .drop arg.toNat)

/-! ### Timers, examinations, transfers -/

/-- The aging range (R35). -/
def AmbRec.aging (r : AmbRec) : List Nat := (List.range r.n).filter (fun b => decide (arPinned r.img ≤ b))

/-- HC_TIMER_EXPIRY (R38): the H-to-C pass starts. -/
def State.hcExpiry (s : State) (d i : Nat) : State :=
  let r := s.arec d i
  let c := (s.amber d).cfg (arCtx r.img)
  if r.st = 1 && !r.hcDue && c.cstack != 0 && decide (r.hcMs ≤ s.ageMs d i) then
    (s.setArec d i { r with hcDue := true, dueMs := s.ageMs d i, pass := r.aging }).goDemote d i
  else s

/-- CF_TIMER_EXPIRY (R38): the pass into tier F starts, from C, or from H where there is no tier-C pool. -/
def State.cfExpiry (s : State) (d i : Nat) : State :=
  let r := s.arec d i
  let a := s.amber d
  let c := a.cfg (arCtx r.img)
  let due := if c.cstack = 0 then decide (r.hcMs + r.cfMs ≤ s.ageMs d i)
    else match r.hcEnd with | some t => decide (t + 1000 * r.cfMs ≤ a.clock) | none => false
  if r.st = 1 && !r.cfDue && a.fns.isSome && due then
    (s.setArec d i { r with hcDue := true, cfDue := true, dueMs := s.ageMs d i, pass := r.aging, skip := [] }).goDemote d i
  else s

def execHcTimerExpiry (i : BitVec 14) (s : State) : Host.Outcome State Fault Refusal := .next (s.hcExpiry s.hereDie i.toNat)
def execCfTimerExpiry (i : BitVec 14) (s : State) : Host.Outcome State Fault Refusal := .next (s.cfExpiry s.hereDie i.toNat)

/-- Writes through blocks of a record that AGs of any die are stalled on (R30, R50). -/
def State.serveWanted (s : State) (d i : Nat) : State :=
  let r := s.arec d i
  let t := s.table d i
  (List.range 4).foldl (fun s e =>
    let mine := (s.die e).wanted.filter (fun (w : Nat × Nat) =>
      w.1 == arCtx r.img && decide (t.entries ≤ w.2) && (w.2 - t.entries) % 4 == 0 && decide ((w.2 - t.entries) / 4 < r.n))
    let s := s.setDie e { s.die e with wanted := (s.die e).wanted.filter (fun w => !mine.contains w) }
    mine.foldl (fun s w => s.promoteOne d i ((w.2 - t.entries) / 4)) s) s

/-- AMBER_EXAMINATION (R38, R465): once a millisecond.  Demotions that were left go back into the pass, the lowest block first, and
promotions into their order. -/
def State.examine (s : State) (d i : Nat) : State :=
  let r := s.arec d i
  let a := s.amber d
  if r.st = 0 || decide (a.clock < r.lastExam + 1000) then s
  else
    let s := s.setArec d i { r with lastExam := a.clock, told := false, skip := [], skipP := [],
                                    age := if r.st = 1 then s.ageMs d i else r.age,
                                    pass := if r.st = 1 then r.skip.foldl (fun p b => insertNat b p) r.pass else r.pass }
    let s := s.writeAge d i
    let s := r.skipP.reverse.foldl (fun s b => s.wantUp d i b) s
    (((s.serveWanted d i).checkRecord d i).pump d i).goDemote d i

def execAmberExamination (i : BitVec 14) (s : State) : Host.Outcome State Fault Refusal := .next (s.examine s.hereDie i.toNat)

/-- The millisecond in which the timer expired is over: a WAKE in it comes before any demotion (R41). -/
def State.pastDue (s : State) (d i : Nat) : Bool := decide ((s.arec d i).dueMs < s.ageMs d i)

/-- DEMOTE_HC (R39): the copy in flight of block `b` completes; with none in flight the pass goes on. -/
def execDemoteHc (i : BitVec 14) (b : BitVec 28) (s : State) : Host.Outcome State Fault Refusal :=
  let d := s.hereDie
  .next (match (s.arec d i.toNat).demHC with
    | none => s.goDemote d i.toNat
    | some x => if x.block = b.toNat ∧ s.pastDue d i.toNat then (s.finishHC d i.toNat x).goDemote d i.toNat else s)

/-- DEMOTE_CF (R40): needs both pralines of the standing lease, awake and ready (R51). -/
def execDemoteCf (i : BitVec 14) (b : BitVec 28) (s : State) : Host.Outcome State Fault Refusal :=
  let d := s.hereDie
  let k := s.die d
  .next (match (s.arec d i.toNat).demCF with
    | none => s.goDemote d i.toNat
    | some x =>
      if x.block != b.toNat then s
      else if k.amberReady 0 && k.amberReady 2 then
        (if s.pastDue d i.toNat then (s.finishCF d i.toNat x).goDemote d i.toNat else s)
      else s.wakeEngines d)

/-- BLOCK_PROMOTION (R42): a transfer into H of block `b` completes; with none in flight promotion goes on. -/
def execBlockPromotion (i : BitVec 14) (b : BitVec 28) (s : State) : Host.Outcome State Fault Refusal :=
  let d := s.hereDie
  let r := s.arec d i.toNat
  let k := s.die d
  let mine := fun (x : Option Transfer) => match x with | some y => y.block == b.toNat | none => false
  .next (if mine r.proC then ((s.finishPromotion d i.toNat (r.proC.getD default) false).pump d i.toNat)
    else if mine r.proF then
      (if k.amberReady 0 && k.amberReady 2 then (s.finishPromotion d i.toNat (r.proF.getD default) true).pump d i.toNat
       else s.wakeEngines d)
    else s.pump d i.toNat)

/-- PROMOTION_RESUME (R42): a block has come back to the H free stack. -/
def execPromotionResume (i : BitVec 14) (s : State) : Host.Outcome State Fault Refusal := .next (s.pump s.hereDie i.toNat)

/-- RESUME_LAUNCH_RETRY (R45): once a millisecond, the oldest resume launch of record `i` that met FULL; a DROP or a new
park of the record does not end it, so that no resume is lost. -/
def execResumeLaunchRetry (i : BitVec 14) (s : State) : Host.Outcome State Fault Refusal :=
  let d := s.hereDie
  let a := s.amber d
  .next (match a.retries.find? (fun x => x.rix == i.toNat) with
    | some x =>
      if x.last + 1000 ≤ a.clock then (s.setAmber d { a with retries := a.retries.erase x }).submitPacket d x else s
    | none => s)

/-- AMBER_PUSH_RETRY: pushes that LOCK or a quiesce holds back are tried again after 1 microsecond (R53), those that failed, and
entries that could not be read or written, after a millisecond (R465).  A record that only waited for them becomes FREE. -/
def execAmberPushRetry (i : BitVec 14) (s : State) : Host.Outcome State Fault Refusal :=
  let d := s.hereDie
  let n := i.toNat
  let r := s.arec d n
  let t := (s.amber d).clock
  let slow := decide (r.lastPush + 1000 ≤ t)
  let quick := decide (r.lastHeld < t)
  let due := fun (p : Push) => if p.failed then slow else quick
  let fails := slow && (r.pushes.any Push.failed || !r.undone.isEmpty)
  .next (if !r.pushes.any due && !fails then s
    else
      let s := s.setArec d n { r with pushes := r.pushes.filter (fun p => !due p), undone := if slow then [] else r.undone,
                                      lastPush := if fails then t else r.lastPush,
                                      lastHeld := if quick then t else r.lastHeld,
                                      told := r.told && !(fails && r.st == 0) }
      let s := (if slow then r.undone else []).foldl (fun s u => s.dropEntry d n u) s
      ((r.pushes.filter due).foldl (fun s p => s.givePush d n { p with failed := false }) s).freeIfHome d n)

end Sys2Proof.Machine
end

