-- ==== Sys2Proof/Machine/Copy.lean ====
section
/-! DEFINITION. The copy engines (chapter 3): issue, validation, the movement of rows and streams, chunk bits, barriers,
completion.  A command's step events each do one indivisible part of it. -/

namespace Sys2Proof.Machine

/-- The sender code of a queue's engine (R55, R306). -/
def ceOf (q : Nat) : Nat := q / 4

/-- The copy engine as an agent. -/
def whoCe (c q : Nat) : Who := whoCl c (agentCe c * 2 + ceOf q + 100000)

/-- Queue `q` of a cluster. -/
def Cluster.cq (k : Cluster) (q : Nat) : CopyQueue := k.cqs.get q {}

/-- Replaces queue `q`. -/
def Cluster.setCq (k : Cluster) (q : Nat) (x : CopyQueue) : Cluster := { k with cqs := k.cqs.put q x }

/-- The command at the head of a queue (R64). -/
def Cluster.headCmd (k : Cluster) (q : Nat) : Option CopyCmd :=
  match (k.cq q).ents with
  | .cmd c :: _ => some c
  | _ => none

/-- Replaces the command at the head of a queue. -/
def Cluster.setHead (k : Cluster) (q : Nat) (c : CopyCmd) : Cluster :=
  k.setCq q { k.cq q with ents := .cmd c :: (k.cq q).ents.drop 1 }

/-! ### Issue (R56, R57, R329) -/

/-- The issue word (R56). -/
def issueWord (istat seq : Nat) : Word := BitVec.ofNat 64 (istat + seq * 2 ^ 16)

/-- CPY and STRM: the issue word, and the state with the command in its queue. -/
def State.copyIssue (s : State) (c ctx : Nat) (strm : Bool) (va qn : Word) : Word × State :=
  let k := s.cl c
  let q := qn.toNat
  if q ≤ 7 ∧ 8 ≤ (k.cq q).ents.length then (issueWord 1 0, s)
  else match k.localDesc va.toNat 64 64 with
    | none => (issueWord 3 0, s)
    | some bs =>
      let d := ofBytes bs
      let isStream := dKind d == kStreamIn || dKind d == kStreamOut
      if 7 < q then (issueWord 4 0, s)
      else if isStream != strm || 5 < dKind d then (issueWord 5 0, s)
      else
        let s := s.releaseAt c .cl
        let k := s.cl c
        let x := k.cq q
        let cmd : CopyCmd := { desc := d, seq := x.next, ctx := ctx, stamp := k.stamp }
        (issueWord 0 x.next,
          s.setCl c { k.setCq q { ents := x.ents ++ [.cmd cmd], next := (x.next + 1) % 65536 } with stamp := k.stamp + 1 })

def execCpy (d a b : Reg) (s : State) : Host.Outcome State Fault Refusal :=
  runCmd (.cpy d a b) d [a, b] (fun vs s =>
    s.whenSettled (vs.getD 0 0) 64 (s.copyIssue s.here (s.sq s.here).running.ctx false (vs.getD 0 0) (vs.getD 1 0))) s

def execStrm (d a b : Reg) (s : State) : Host.Outcome State Fault Refusal :=
  runCmd (.strm d a b) d [a, b] (fun vs s =>
    s.whenSettled (vs.getD 0 0) 64 (s.copyIssue s.here (s.sq s.here).running.ctx true (vs.getD 0 0) (vs.getD 1 0))) s

/-- WTEST (R68, R329): MISALIGN and PERMISSION traps; 1 is an acquire at CL.  A word that carries a poison mark gives its
bytes as they stand, without a machine check: the model's choice (assumption 65). -/
def execWtest (d a b : Reg) (s : State) : Host.Outcome State Fault Refusal :=
  runCmd (.wtest d a b) d [a, b] (fun vs s =>
    let c := s.here
    let va := vs.getD 0 0
    let mask := vs.getD 1 0
    let off := localOff va.toNat
    if va.toNat % 8 != 0 then .error (.trap { cause := tMisalign, val := va } s)
    else if s.descCut va.toNat 8 then .error .wait
    else if !isLocal va.toNat || sramEnd ≤ off || !(s.cl c).scratch off 8 then
      .error (.trap { cause := tPermission, xcode := cPermR, xlvl := Config.freeNat s.free % 4, val := va } s)
    else
      let w := BitVec.ofNat 64 (ofBytes ((s.cl c).bytes off 8))
      if w &&& mask = mask then .ok (1, s.acquire (agentSeq c)) else .ok (0, s)) s

/-! ### Rows and chunks (R60, R61, R67) -/

/-- The rows that a command writes: for MASKROWS those it has packed. -/
def CopyCmd.rows (c : CopyCmd) : Nat := if dKind c.desc = kMaskrows then c.packed else dRows c.desc

/-- Destination of row `r`. -/
def CopyCmd.dst (c : CopyCmd) (r : Nat) : Nat :=
  if dKind c.desc = kMaskrows then (dDst c.desc + r * dRowBytes c.desc) % 2 ^ 64 else dstRow c.desc r

/-- The index of the `j`-th selected row of a mask (R61). -/
def nthSet (mask : Nat) : Nat → Nat → Nat → Nat
  | 0, i, _ => i
  | fuel + 1, i, j => if mask.testBit i then (if j = 0 then i else nthSet mask fuel (i + 1) (j - 1)) else nthSet mask fuel (i + 1) j

/-- Source of row `r`. -/
def CopyCmd.src (c : CopyCmd) (r : Nat) : Nat :=
  if dKind c.desc = kMaskrows then
    wrapNat ((dSrc c.desc : Int) + dSs1 c.desc * (nthSet c.mask (dN1 c.desc) 0 r : Nat)) 64
  else srcRow c.desc r

/-- The lowest destination byte, rounded down to 512 (R67). -/
def CopyCmd.chunkBase (c : CopyCmd) : Int :=
  if dKind c.desc = kMaskrows then ((dDst c.desc / 512 * 512 : Nat) : Int) else (dstBounds c.desc).1 / 512 * 512

/-- The number of chunks (R67). -/
def CopyCmd.chunks (c : CopyCmd) : Nat :=
  if !dCmen c.desc || c.rows == 0 then 0
  else if dKind c.desc = kMaskrows then
    ((((dDst c.desc + c.packed * dRowBytes c.desc - 1 : Nat) : Int) - c.chunkBase) / 512).toNat + 1
  else (((dstBounds c.desc).2 - c.chunkBase) / 512).toNat + 1

/-- The bytes of row `r` from byte `start` on meet chunk `k`. -/
def CopyCmd.touches (c : CopyCmd) (r start k : Nat) : Bool :=
  let a : Int := (c.dst r : Nat)
  let lo := c.chunkBase + 512 * k
  decide (start < dRowBytes c.desc) && overlaps (a + start, a + dRowBytes c.desc - 1) (lo, lo + 511)

/-- Rows wholly written so far, and the bytes written of the next one. -/
def CopyCmd.rowsDone (c : CopyCmd) : Nat :=
  if dKind c.desc = kStreamOut then c.pos / dRowBytes c.desc else c.row
def CopyCmd.partDone (c : CopyCmd) : Nat :=
  (if dKind c.desc = kStreamOut then c.pos % dRowBytes c.desc else 0) + c.part

/-- Chunk `k` is due: its bit is not set, and every byte of the pattern in it is written.  A chunk that a fault or a SHORT
left partly written keeps its bit clear: the model's choice (assumption 65). -/
def CopyCmd.due (c : CopyCmd) (k : Nat) : Bool :=
  !c.bits.contains k && (List.range (c.rows - c.rowsDone)).all (fun i =>
    !c.touches (c.rowsDone + i) (if i = 0 then c.partDone else 0) k)

/-- The lowest due chunk. -/
def CopyCmd.nextDue (c : CopyCmd) : Option Nat := (List.range c.chunks).find? (fun k => c.due k)

/-- Sets or clears bit `i` of the bitmap at a local address (R67). -/
def Cluster.putBit (k : Cluster) (cmap i : Nat) (v : Bool) : Cluster :=
  let a := cmap + i / 8
  let b := (k.sram.byte a).toNat
  let b' := if v then b ||| 2 ^ (i % 8) else b - (if b.testBit (i % 8) then 2 ^ (i % 8) else 0)
  k.write a [BitVec.ofNat 8 b'] false

/-! ### Validation (R59) -/

/-- BADCMD. -/
def badCmd (d : Nat) : Bool := 5 < dKind d || 1 < dSspace d || 1 < dDspace d || dReserved d

/-- A field that the KIND does not use is not zero (R59, R61 to R63). -/
def unusedSet (d : Nat) : Bool :=
  let strS := fld d 351 288 != 0
  let strD := fld d 415 352 != 0
  let maps := !dCmen d && (dCmap d != 0 || dCfirst d != 0 || dClr d)
  let k := dKind d
  if k = kCopy then dPort d != 0 || dAux d != 0
  else if k = kMaskrows then dPort d != 0 || strD || fld d 351 320 != 0 || dN2 d != 1
  else if k = kStreamIn then dDspace d != 0 || dDst d != 0 || strD || dAux d != 0 || maps
  else if k = kStreamOut then dSspace d != 0 || dSrc d != 0 || strS || dAux d != 0
  else dSspace d != 0 || dDspace d != 0 || dSrc d != 0 || dDst d != 0 || strS || strD || dPort d != 0 || maps ||
    dRowBytes d != 1 || dN1 d != 1 || dN2 d != 1 || (k == kArrive && dAux d != 0)

/-- BADSHAPE. -/
def badShape (d : Nat) : Bool :=
  dRowBytes d == 0 || dN1 d == 0 || dN2 d == 0 || unusedSet d ||
  ((dKind d == kCopy || dKind d == kMaskrows) && dSspace d == dDspace d && overlaps (srcBounds d) (dstBounds d))

/-- BADMAP.  MASKROWS is judged, here and in `Cluster.badLocal`, as if its mask selected all N1 rows: validation comes
before the mask is read (R59, R61), and the spec does not say which rows it counts; the model's choice (assumption 65). -/
def Cluster.badMap (k : Cluster) (c : CopyCmd) : Bool :=
  let d := c.desc
  let full := { c with packed := dN1 d }
  let last := dCmap d + (dCfirst d + full.chunks - 1) / 8
  (dCmen d && (dCmap d % 8 != 0 || 65536 < full.chunks || dKind d == kStreamIn || dKind d == kArrive || dKind d == kBarset ||
    sramEnd ≤ last || dCmap d / 0x10000 != last / 0x10000 || !k.scratch (dCmap d) 1)) ||
  (dKind d == kMaskrows && (!dCmen d || dCmap d < 8))

/-- BADPORT. -/
def Cluster.badPort (k : Cluster) (d : Nat) : Bool :=
  (dKind d == kStreamIn || dKind d == kStreamOut) && (47 < dPort d || !k.portBound (dPort d))

/-- Local bytes lie in SCRATCH banks. -/
def Cluster.localOk (k : Cluster) (a n : Nat) : Bool := a + n ≤ sramEnd && k.scratch a n

/-- BADLOCAL. -/
def Cluster.badLocal (k : Cluster) (c : CopyCmd) : Bool :=
  let d := c.desc
  let kd := dKind d
  let srcRows := if kd = kCopy ∨ kd = kStreamIn then dRows d else if kd = kMaskrows then dN1 d else 0
  let dstRows := if kd = kCopy ∨ kd = kStreamOut then dRows d else 0
  (dSspace d == 1 && (List.range srcRows).any (fun r => !k.localOk (srcRow d r) (dRowBytes d))) ||
  (dDspace d == 1 && (List.range dstRows).any (fun r => !k.localOk (dstRow d r) (dRowBytes d))) ||
  (kd == kMaskrows && ((dDspace d == 1 && !k.localOk (dDst d) (dN1 d * dRowBytes d)) ||
    !k.localOk (dAux d) ((dN1 d + 7) / 8) || !k.localOk (dCmap d - 8) 8)) ||
  (kd == kBarset && (dAux d % 32 != 0 || !k.localOk (dAux d) 32))

/-- The validation of a command at the head of its queue (R59): the first status of the table that applies. -/
def Cluster.validate (k : Cluster) (c : CopyCmd) : Nat :=
  if badCmd c.desc then 0x21 else if badShape c.desc then 0x22 else if k.badMap c then 0x23
  else if k.badPort c.desc then 0x24 else if k.badLocal c then 0x25 else 0

/-! ### Barriers (R70, R71) -/

/-- A barrier slot is evaluated (R71); `q` tells whose engine posts the advance message. -/
def State.barEval (s : State) (c q b : Nat) : State :=
  let k := s.cl c
  match k.bars.find b with
  | none => s
  | some x =>
    let w := ofBytes (k.bytes x.mapword 8)
    if x.expect ≤ x.arrived ∧ w &&& x.mask = x.mask then
      let ph := (x.phase + 1) % 2 ^ 32
      let k := (k.write (x.recAddr + 16) (toBytes 4 ph) false).write x.mapword (toBytes 8 (w - x.mask)) false
      let k := { k with bars := k.bars.put b { x with phase := ph, arrived := x.arrived - x.expect } }
      (s.setCl c k).post c (ceOf q) x.chan
        { msg := { w0 := BitVec.ofNat 64 (0xF * 2 ^ 8 + b * 2 ^ 12 + x.tag * 2 ^ 16), w1 := BitVec.ofNat 64 ph }, ctx := x.ctx }
    else s

/-- The slots that watch the bitmap word of local address `a` are evaluated (R71), in ascending order, the model's choice: bits that
one clears are not seen by the next (assumption 65). -/
def State.barWord (s : State) (c q a : Nat) : State :=
  (List.range 16).foldl (fun s b =>
    match (s.cl c).bars.find b with
    | some x => if x.mapword = a / 8 * 8 then s.barEval c q b else s
    | none => s) s

/-! ### Dispatch (R64) -/

/-- A stream command. -/
def CopyCmd.isStream (c : CopyCmd) : Bool := dKind c.desc == kStreamIn || dKind c.desc == kStreamOut

/-- A copy command's own bytes of cluster SRAM, a mask or bitmap or barrier record, must wait: for an older command that
writes them (R69), or for a mode change (R79). -/
def Cluster.ctlStalls (k : Cluster) (x : CopyCmd) (a n : Nat) : Bool := k.stalls (some x.stamp) 1 x.ctx a n || k.cutting a n

/-- What a command reads and writes at its dispatch is held by older commands: its bitmap bytes, row mask and count word, or
its barrier record. -/
def Cluster.startStalls (k : Cluster) (x : CopyCmd) : Bool :=
  let d := x.desc
  let full := { x with packed := dN1 d }
  (dKind d == kMaskrows && (k.ctlStalls x (dAux d) ((dN1 d + 7) / 8) || k.ctlStalls x (dCmap d - 8) 8)) ||
  (dKind d == kBarset && k.ctlStalls x (dAux d) 32) ||
  (dCmen d && k.ctlStalls x (dCmap d + dCfirst d / 8) ((dCfirst d % 8 + full.chunks + 7) / 8))

/-- A valid command waits at the head of its queue: its port is busy, or what it reads at dispatch is held. -/
def Cluster.headWaits (k : Cluster) (x : CopyCmd) : Bool :=
  k.validate x == 0 && ((x.isStream && k.portBusy (dPort x.desc)) || k.startStalls x)

/-- The head of queue `q` may be dispatched: it has not started, it need not wait, and its context's save has not stored
the cluster (R72: it is saved as queued). -/
def State.canDispatch (s : State) (c q : Nat) : Bool :=
  let k := s.cl c
  match k.headCmd q with
  | none => false
  | some x => !x.started && !s.saveWritten c x.ctx && !k.headWaits x

/-- The queue that engine `e` dispatches from next: the first in round-robin order behind the last; before the first
dispatch queue 0 comes first, the model's choice (assumption 65). -/
def State.ceChoice (s : State) (c e : Nat) : Option Nat :=
  ((List.range 4).map (fun i => 4 * e + ((s.cl c).ceLast.get e 3 + 1 + i) % 4)).find? (s.canDispatch c)

/-- The port that the head of queue `q` would take. -/
def Cluster.wantsPort (k : Cluster) (q : Nat) : Option Nat :=
  match k.headCmd q with
  | some x => if x.isStream && k.validate x == 0 then some (dPort x.desc) else none
  | none => none

/-- The head of queue `q` is dispatched now: its engine's choice, and of one free port CE0 takes it. -/
def State.mayDispatch (s : State) (c q : Nat) : Bool :=
  s.ceChoice c (ceOf q) == some q &&
  !(decide (4 ≤ q) && (match s.ceChoice c 0, (s.cl c).wantsPort q with
    | some r, some p => (s.cl c).wantsPort r == some p
    | _, _ => false))

/-- The head of queue `q` as its dispatch leaves it. -/
def Cluster.dispatched (k : Cluster) (q : Nat) (x : CopyCmd) : Cluster :=
  { k.setHead q { x with started := true } with ceLast := k.ceLast.put (ceOf q) (q % 4) }

/-- A finished command has set every bit it owes, so that it completes (R66). -/
def CopyCmd.complete (c : CopyCmd) : Bool :=
  c.finished && !(dCmen c.desc && !(decide (0x21 ≤ c.status) && decide (c.status ≤ 0x25)) && c.nextDue.isSome)

/-- The queues other than `q` whose heads could arrive at slot `b` in the same cycle (R71). -/
def State.arrivalMates (s : State) (c q b : Nat) : List Nat :=
  (List.range 8).filter (fun r =>
    r != q && (match (s.cl c).headCmd r with
      | none => false
      | some x => !x.arrived && dBar x.desc == b &&
        ((dBaren x.desc && x.complete) ||
         (dKind x.desc == kArrive && ceOf r != ceOf q && s.mayDispatch c r && (s.cl c).validate x == 0))))

/-- An arrival at slot `b`; `false` where the slot is not armed.  Arrivals that fall into the same cycle, which is free, are
counted before the one evaluation (R71). -/
def State.barArrive (s : State) (c q b : Nat) : Bool × State :=
  match (s.cl c).bars.find b with
  | none => (false, s)
  | some x =>
    let mates := s.arrivalMates c q b
    let (n, s) := if mates.isEmpty then (0, s) else s.drawNat
    let now := mates.filter (fun r => n.testBit r)
    let k := now.foldl (fun (k : Cluster) r =>
      match k.headCmd r with
      | some y => k.setHead r { y with arrived := true }
      | none => k) (s.cl c)
    (true, (s.setCl c { k with bars := k.bars.put b { x with arrived := x.arrived + 1 + now.length } }).barEval c q b)

/-! ### The steps of a command -/

/-- Validates and starts the command at the head of queue `q`, once it may be dispatched (R59, R64): streams claim their
free port and clear its END; chunk bits are cleared under CLR, and the bits of chunks without writes are set, and the
slots that watch them evaluated (R71).  Poisoned bytes of the row mask are used as they stand: the model's choice
(assumption 65). -/
def State.copyStart (s : State) (c q : Nat) (cmd : CopyCmd) : State :=
  let k := s.cl c
  let d := cmd.desc
  let st := k.validate cmd
  if !s.mayDispatch c q then s
  else if st != 0 then s.setCl c (k.dispatched q { cmd with finished := true, status := st })
  else
    let mask := if dKind d = kMaskrows then ofBytes (k.bytes (dAux d) ((dN1 d + 7) / 8)) % 2 ^ dN1 d else 0
    let cmd := { cmd with mask := mask, packed := popCount (dN1 d) mask }
    let k := if cmd.isStream then k.setPortEnd (dPort d) false else k
    let k := if dClr d && dCmen d then
        (List.range cmd.chunks).foldl (fun k i => k.putBit (dCmap d) (dCfirst d + i) false) k else k
    let k := if dKind d = kMaskrows then k.write (dCmap d - 8) (toBytes 8 cmd.packed) false else k
    let idle := (List.range cmd.chunks).filter (fun i => (List.range cmd.rows).all (fun r => !cmd.touches r 0 i))
    let k := idle.foldl (fun k i => k.putBit (dCmap d) (dCfirst d + i) true) k
    let cmd := { cmd with bits := idle, finished := !cmd.isStream && cmd.rows == 0 }
    let words := (idle.map (fun i => (dCmap d + (dCfirst d + i) / 8) / 8 * 8)).eraseDups
    words.foldl (fun s w => s.barWord c q w) (s.setCl c (k.dispatched q cmd))

/-- Bytes read by a copy engine from one of its spaces: `none` where it must wait. -/
def State.copyRead (s : State) (c q : Nat) (cmd : CopyCmd) (a n : Nat) : Option (Except AFail (List (Byte × Bool)) × State) :=
  let k := s.cl c
  let sp := dSspace cmd.desc
  if k.stalls (some cmd.stamp) sp cmd.ctx a n || (sp == 1 && k.cutting a n) then none
  else if sp = 1 then some (.ok ((List.range n).map (fun i => (k.sram.byte (a + i), k.sramPoison.contains ((a + i) / 32)))), s)
  else some (s.engRead (whoCe c q) cmd.ctx a n)

/-- Bytes written by a copy engine to one of its spaces: `none` where it must wait.  Poison that it writes posts no machine check:
R410 has no SOURCE for it; the model's choice (assumption 65). -/
def State.copyWrite (s : State) (c q : Nat) (cmd : CopyCmd) (a : Nat) (bs : List (Byte × Bool)) :
    Option (Option AFail × State) :=
  let k := s.cl c
  let sp := dDspace cmd.desc
  if k.stalls (some cmd.stamp) sp cmd.ctx a bs.length || (sp == 1 && k.cutting a bs.length) then none
  else if sp = 1 then
    let k1 := k.write a (plain bs) false
    let k2 := (List.range bs.length).foldl (fun (k : Cluster) i =>
      match bs[i]? with
      | some (_, true) => { k with sramPoison := insertNat ((a + i) / 32) k.sramPoison }
      | _ => k) k1
    some (none, s.setCl c k2)
  else some (s.engWrite (whoCe c q) cmd.ctx a bs)

/-- The ring bytes that a stream command is to push or pop overlap the destination of an older command (R69). -/
def Cluster.portStalls (k : Cluster) (cmd : CopyCmd) (push : Bool) (n : Nat) : Bool :=
  let p := dPort cmd.desc
  let x := k.ring (p - 32)
  decide (32 ≤ p) && (List.range n).any (fun i =>
    k.stalls (some cmd.stamp) 1 cmd.ctx (x.at ((if push then x.tail else x.head) + i)) 1)

/-- The command fails: no write follows (R66). -/
def CopyCmd.fail (cmd : CopyCmd) (f : AFail) : CopyCmd :=
  { cmd with finished := true, status := f.code, lvl := f.lvl, fva := BitVec.ofNat 64 f.va }

/-- A write at `a` fails: the pages before the one that failed stay written, and count (R66, R67). -/
def CopyCmd.failWrite (cmd : CopyCmd) (f : AFail) (a : Nat) : CopyCmd :=
  let n := (f.va + 2 ^ 64 - a) % 2 ^ 64
  { cmd.fail f with written := cmd.written + n, part := n }

/-- COPY and MASKROWS move their next row (R60, R61).  The command completes with POISON for the marks of its source bytes;
clean bytes written into part of a word whose mark stays (R17, R462) are no reason: the model's choice (assumption 65). -/
def State.copyRow (s : State) (c q : Nat) (cmd : CopyCmd) : State :=
  let n := dRowBytes cmd.desc
  let a := cmd.dst cmd.row
  match s.copyRead c q cmd (cmd.src cmd.row) n with
  | none => s
  | some (.error f, s1) => s1.setCl c ((s1.cl c).setHead q (cmd.fail f))
  | some (.ok bs, s1) =>
    match s1.copyWrite c q cmd a bs with
    | none => s
    | some (some f, s2) => s2.setCl c ((s2.cl c).setHead q (cmd.failWrite f a))
    | some (none, s2) =>
      s2.setCl c ((s2.cl c).setHead q { cmd with row := cmd.row + 1, written := cmd.written + n,
                                                 poisoned := cmd.poisoned || anyPoison bs,
                                                 finished := decide (cmd.row + 1 = cmd.rows) })

/-- A step of a command of kind `kd` at the head of queue `q`. -/
def State.copyStep (s : State) (kd q : Nat) : State :=
  let c := s.here
  match (s.cl c).headCmd q with
  | none => s
  | some cmd =>
    if dKind cmd.desc != kd || cmd.finished then s
    else if !cmd.started then s.copyStart c q cmd
    else s.copyRow c q cmd

def execCopy (q : BitVec 3) (s : State) : Host.Outcome State Fault Refusal := .next (s.copyStep kCopy q.toNat)
def execMaskrows (q : BitVec 3) (s : State) : Host.Outcome State Fault Refusal := .next (s.copyStep kMaskrows q.toNat)

/-- Starts a stream command, once its port is free. -/
def State.streamStart (s : State) (kd q : Nat) : State :=
  let c := s.here
  match (s.cl c).headCmd q with
  | none => s
  | some cmd => if dKind cmd.desc != kd || cmd.started then s else s.copyStart c q cmd

def execStreamin (q : BitVec 3) (s : State) : Host.Outcome State Fault Refusal := .next (s.streamStart kStreamIn q.toNat)
def execStreamout (q : BitVec 3) (s : State) : Host.Outcome State Fault Refusal := .next (s.streamStart kStreamOut q.toNat)

/-- ARRIVE (R63): the arrival happens as it reaches the head of its queue; at an unarmed slot it is discarded. -/
def execArrive (q : BitVec 3) (s : State) : Host.Outcome State Fault Refusal :=
  let c := s.here
  let qn := q.toNat
  .next (match (s.cl c).headCmd qn with
    | none => s
    | some cmd =>
      if dKind cmd.desc != kArrive || cmd.started || !s.mayDispatch c qn then s
      else
        let st := (s.cl c).validate cmd
        if st != 0 then s.setCl c ((s.cl c).dispatched qn { cmd with finished := true, status := st })
        else
          let r := if cmd.arrived then (true, s) else s.barArrive c qn (dBar cmd.desc)
          r.2.setCl c ((r.2.cl c).dispatched qn { cmd with finished := true, arrived := false, status := if r.1 then 0 else 0x28 }))

/-- BARSET (R63, R70): arms the slot from its record.  R59 names two causes of BADBAR: a record whose MAPWORD lies beyond
the banks or in a bank not in SCRATCH mode, whose reserved bits are set, or which is poisoned, arms the slot as it stands;
the model's choice (assumption 65). -/
def execBarset (q : BitVec 3) (s : State) : Host.Outcome State Fault Refusal :=
  let c := s.here
  let qn := q.toNat
  .next (match (s.cl c).headCmd qn with
    | none => s
    | some cmd =>
      if dKind cmd.desc != kBarset || cmd.started || !s.mayDispatch c qn then s
      else
        let k := s.cl c
        let st := k.validate cmd
        let done (k : Cluster) (st : Nat) : State :=
          s.setCl c (k.dispatched qn { cmd with finished := true, status := st })
        if st != 0 then done k st
        else
          let r := ofBytes (k.bytes (dAux cmd.desc) 32)
          if fld r 15 0 == 0 || fld r 53 32 % 8 != 0 then done k 0x29
          else done { k with bars := k.bars.put (dBar cmd.desc) { expect := fld r 15 0, mapword := fld r 53 32,
                                                                  mask := fld r 127 64, phase := fld r 159 128,
                                                                  chan := fld r 163 160, tag := fld r 191 176,
                                                                  recAddr := dAux cmd.desc, ctx := cmd.ctx } } 0)

/-- STREAM_PORT_PUSH (R62): up to 512 bytes of the present row are read and pushed, as many as the port has room for; the
last byte is followed by END.  s57 then counts the bytes pushed: the spec names bytes written only, and a STREAMIN writes none; the
model's choice (assumption 65). -/
def execStreamPortPush (q : BitVec 3) (s : State) : Host.Outcome State Fault Refusal :=
  let c := s.here
  let qn := q.toNat
  .next (match (s.cl c).headCmd qn with
    | none => s
    | some cmd =>
      let d := cmd.desc
      if dKind d != kStreamIn || !cmd.started || cmd.finished then s
      else
        let n := min (min 512 (dRowBytes d - cmd.pos % dRowBytes d)) ((s.cl c).portRoom (dPort d))
        if n = 0 || (s.cl c).portStalls cmd true n then s
        else match s.copyRead c qn cmd ((srcRow d (cmd.pos / dRowBytes d) + cmd.pos % dRowBytes d) % 2 ^ 64) n with
          | none => s
          | some (.error f, s1) => s1.setCl c ((s1.cl c).setHead qn (cmd.fail f))
          | some (.ok bs, s1) =>
            let k := (s1.cl c).portPush (dPort d) bs
            let last := decide (cmd.pos + n = dRows d * dRowBytes d)
            let k := if last then k.setPortEnd (dPort d) true else k
            s1.setCl c (k.setHead qn { cmd with pos := cmd.pos + n, written := cmd.written + n,
                                                poisoned := cmd.poisoned || anyPoison bs, finished := last }))

/-- STREAM_PORT_POP (R62): up to 512 bytes of the present row are popped and written; a port that ends early completes
the command with SHORT.  Where a write fails, what has been written has been popped. -/
def execStreamPortPop (q : BitVec 3) (s : State) : Host.Outcome State Fault Refusal :=
  let c := s.here
  let qn := q.toNat
  .next (match (s.cl c).headCmd qn with
    | none => s
    | some cmd =>
      let d := cmd.desc
      let k := s.cl c
      if dKind d != kStreamOut || !cmd.started || cmd.finished || !k.portPoppable (dPort d) then s
      else if k.portFill (dPort d) = 0 then
        if k.portEnded (dPort d) then s.setCl c (k.setHead qn { cmd with finished := true, status := 0x27 }) else s
      else
        let n := min (min 512 (k.portFill (dPort d))) (dRowBytes d - cmd.pos % dRowBytes d)
        let bs := k.portPeek (dPort d) n
        let a := (dstRow d (cmd.pos / dRowBytes d) + cmd.pos % dRowBytes d) % 2 ^ 64
        if k.portStalls cmd false n then s
        else match s.copyWrite c qn cmd a bs with
        | none => s
        | some (some f, s1) =>
          let x := cmd.failWrite f a
          s1.setCl c (((s1.cl c).portPop (dPort d) x.part).setHead qn x)
        | some (none, s1) =>
          let k := (s1.cl c).portPop (dPort d) n
          s1.setCl c (k.setHead qn { cmd with pos := cmd.pos + n, written := cmd.written + n,
                                              poisoned := cmd.poisoned || anyPoison bs,
                                              finished := decide (cmd.pos + n = dRows d * dRowBytes d) }))

/-- CHUNK_COMPLETE (R67): the lowest chunk whose bytes are all performed gets its bit, and the slots that watch that word
are evaluated (R71). -/
def execChunkComplete (q : BitVec 3) (s : State) : Host.Outcome State Fault Refusal :=
  let c := s.here
  let qn := q.toNat
  .next (match (s.cl c).headCmd qn with
    | none => s
    | some cmd =>
      if !cmd.started || !dCmen cmd.desc || (0x21 ≤ cmd.status && cmd.status ≤ 0x25) then s
      else match cmd.nextDue with
        | none => s
        | some i =>
          let bitNo := dCfirst cmd.desc + i
          let a := dCmap cmd.desc + bitNo / 8
          if (s.cl c).ctlStalls cmd a 1 then s
          else
            let k := ((s.cl c).putBit (dCmap cmd.desc) bitNo true).setHead qn { cmd with bits := insertNat i cmd.bits }
            (s.setCl c k).barWord c qn a)

/-- The status a command completes with (R59): its fault or SHORT, POISON, NOBAR, or OK.  A STREAMOUT that ends early and
wrote poisoned bytes tells SHORT: the spec does not say which, and the model does not follow the table's order here
(assumption 65). -/
def CopyCmd.finalStatus (cmd : CopyCmd) (armed : Bool) : Nat :=
  if cmd.status != 0 then cmd.status
  else if cmd.poisoned then 0x20
  else if dBaren cmd.desc && !armed then 0x28 else 0

/-- CE_COMMAND_COMPLETE (R66): once every write and bitmap bit is done, the command leaves its queue and the scoreboard,
arrives at its barrier and posts its message. -/
def execCeCommandComplete (q : BitVec 3) (s : State) : Host.Outcome State Fault Refusal :=
  let c := s.here
  let qn := q.toNat
  .next (match (s.cl c).headCmd qn with
    | none => s
    | some cmd =>
      let d := cmd.desc
      if !cmd.complete then s
      else
        let k := (s.cl c).setCq qn { (s.cl c).cq qn with ents := ((s.cl c).cq qn).ents.drop 1 }
        let r := if dBaren d && !cmd.arrived then (s.setCl c k).barArrive c qn (dBar d) else (true, s.setCl c k)
        if dMsg d then
          r.2.post c (ceOf qn) (dMchan d)
            { msg := { w0 := BitVec.ofNat 64 (cmd.finalStatus r.1 + dKind d * 2 ^ 8 + qn * 2 ^ 12 + dTag d * 2 ^ 16 + cmd.lvl * 2 ^ 32),
                       w1 := BitVec.ofNat 64 cmd.written,
                       w2 := BitVec.ofNat 64 (if dKind d = kMaskrows then cmd.packed else 0),
                       w3 := cmd.fva }, ctx := cmd.ctx }
        else r.2)

/-! ### Stores to the cluster's control registers as steps of their own (R82, R86, R87) -/

def execRingDescriptorStore (k : BitVec 4) (dw : BitVec 3) (v : BitVec 64) (s : State) : Host.Outcome State Fault Refusal :=
  .next (s.setCl s.here ((s.cl s.here).ringStore k.toNat dw.toNat v.toNat))

def execFifoQueueStore (bank : BitVec 6) (dw : BitVec 2) (v : BitVec 64) (s : State) : Host.Outcome State Fault Refusal :=
  .next (if (s.cl s.here).mode bank.toNat = mFifo then s.setCl s.here ((s.cl s.here).fifoStore bank.toNat dw.toNat v.toNat) else s)

def execWindowQueueStore (bank : BitVec 6) (dw : BitVec 2) (v : BitVec 64) (s : State) : Host.Outcome State Fault Refusal :=
  .next (if (s.cl s.here).mode bank.toNat = mWindow then s.setCl s.here ((s.cl s.here).windowStore bank.toNat dw.toNat v.toNat) else s)

end Sys2Proof.Machine
end

