-- ==== Sys2Proof/Machine/Lms.lean ====
section
/-! DEFINITION. LMS signatures with LM-OTS over SHA-256, in the parameter sets that R187 and R438 name.  PRESUMED: the spec
names LMS and does not repeat its computation, which is that of RFC 8554 (assumption 73). -/

namespace Sys2Proof.Machine

/-- The height of an LMS type (R187): 0x06 H10, 0x07 H15, 0x08 H20. -/
def lmsHeight : Nat → Option Nat
  | 6 => some 10
  | 7 => some 15
  | 8 => some 20
  | _ => none

/-- The Winternitz width of an LM-OTS type (R187): 0x03 W4, 0x04 W8; chains of a signature; shift of the checksum. -/
def otsWidth : Nat → Option Nat
  | 3 => some 4
  | 4 => some 8
  | _ => none
def otsChains (w : Nat) : Nat := if w = 4 then 67 else 34
def otsShift (w : Nat) : Nat := if w = 4 then 4 else 0

/-- Digit `i` of width `w` of a byte string, from the left. -/
def otsCoef (bs : List Byte) (i w : Nat) : Nat :=
  ((bs.getD (i * w / 8) 0).toNat >>> (8 - (w * (i % (8 / w)) + w))) % 2 ^ w

/-- The digits of the hash `q` and of its checksum. -/
def otsDigits (q : List Byte) (w : Nat) : List Nat :=
  let c := ((List.range (256 / w)).map (fun i => 2 ^ w - 1 - otsCoef q i w)).sum <<< otsShift w
  (List.range (otsChains w)).map (fun i => otsCoef (q ++ beBytes 2 c) i w)

/-- A hash under the identifier `ident` and the number `r`, with a tag of two bytes. -/
def lmsHash (ident : List Byte) (r tag : Nat) (bs : List Byte) : List Byte := sha256 (ident ++ beBytes 4 r ++ beBytes 2 tag ++ bs)

/-- `n` steps of chain `i` of leaf `q` from step `j` on. -/
def otsChain (ident : List Byte) (q i : Nat) : Nat → Nat → List Byte → List Byte
  | 0, _, x => x
  | n + 1, j, x => otsChain ident q i n (j + 1) (lmsHash ident q i (beBytes 1 j ++ x))

/-- The hash that leaf `q` signs: the message behind the signature's random bytes. -/
def otsHash (ident : List Byte) (q : Nat) (c msg : List Byte) : List Byte := lmsHash ident q 0x8181 (c ++ msg)

/-- The public key of leaf `q` from the ends of its chains, and the leaf as a node of a tree of height `h`. -/
def otsPublic (ident : List Byte) (q : Nat) (ends : List (List Byte)) : List Byte := lmsHash ident q 0x8080 ends.flatten
def lmsLeaf (ident : List Byte) (h q : Nat) (k : List Byte) : List Byte := lmsHash ident (2 ^ h + q) 0x8282 k

/-- The node above two nodes. -/
def lmsJoin (ident : List Byte) (r : Nat) (a b : List Byte) : List Byte := lmsHash ident r 0x8383 (a ++ b)

/-- The root to which a path leads from node `r`. -/
def lmsClimb (ident : List Byte) : Nat → List Byte → List (List Byte) → List Byte
  | _, x, [] => x
  | r, x, y :: ys => lmsClimb ident (r / 2) (if r % 2 = 1 then lmsJoin ident (r / 2) y x else lmsJoin ident (r / 2) x y) ys

/-- Cuts bytes into pieces of 32. -/
def pieces32 (n : Nat) (bs : List Byte) : List (List Byte) := (List.range n).map (fun i => (bs.drop (32 * i)).take 32)

/-- Bytes of a signature (RFC 8554, section 5.4). -/
def lmsSigBytes (h w : Nat) : Nat := 4 + (4 + 32 + 32 * otsChains w) + 4 + 32 * h

/-- The root that a signature of `msg` leads to; `none` where its types or its leaf do not fit. -/
def lmsRoot (ident : List Byte) (lt ot h w : Nat) (msg sig : List Byte) : Option (List Byte) :=
  let q := beNat (sig.take 4)
  let c := (sig.drop 8).take 32
  let after := sig.drop (40 + 32 * otsChains w)
  if beNat ((sig.drop 4).take 4) != ot || beNat (after.take 4) != lt || decide (2 ^ h ≤ q) then none
  else
    let y := pieces32 (otsChains w) (sig.drop 40)
    let ends := ((otsDigits (otsHash ident q c msg) w).zip y).zipIdx.map (fun e =>
      otsChain ident q e.2 (2 ^ w - 1 - e.1.1) e.1.1 e.1.2)
    some (lmsClimb ident (2 ^ h + q) (lmsLeaf ident h q (otsPublic ident q ends)) (pieces32 h (after.drop 4)))

/-- A file signed as in R187 verifies: its last bytes are a 32-byte header and a signature of a parameter set that R187 allows, and
the signature of the SHA-256 digest of every byte before them leads to the root of the trusted key that the header names, under
that key's identifier.  The header is found from the end, by the length of each set's signature; its reserved bits are not
examined (assumption 73). -/
def lmsVerified (file : List Byte) : Bool :=
  [(6, 3), (6, 4), (7, 3), (7, 4), (8, 3), (8, 4)].any (fun (e : Nat × Nat) =>
    match lmsHeight e.1, otsWidth e.2 with
    | some h, some w =>
      let n := file.length - (32 + lmsSigBytes h w)
      let hd := ofBytes ((file.drop n).take 32)
      let ident := ((file.drop n).take 32).drop 16
      let key := Config.trustedKey (fld hd 95 64)
      decide (32 + lmsSigBytes h w ≤ file.length) && fld hd 31 0 == e.1 && fld hd 63 32 == e.2 &&
      key.1 == ofBytes ident &&
      lmsRoot ident e.1 e.2 h w (sha256 (file.take n)) (file.drop (n + 32)) == some (beBytes 32 key.2)
    | _, _ => false)

/-! ### The identity key (R438): LMS_SHA256_M32_H20 with LM-OTS W8 -/

/-- The identifier as bytes, and the start of chain `i` of leaf `q`. -/
def identBytes : List Byte := toBytes 16 Config.identityI.toNat
def identSecret (q i : Nat) : List Byte := beBytes 32 (Config.identitySecret q i).toNat

/-- Leaf `q` as a node. -/
def identLeaf (q : Nat) : List Byte :=
  lmsLeaf identBytes 20 q (otsPublic identBytes q ((List.range 34).map (fun i => otsChain identBytes q i 255 0 (identSecret q i))))

/-- Node `r` of the tree, `n` levels above the leaves. -/
def identNode : Nat → Nat → List Byte
  | 0, r => identLeaf (r - 2 ^ 20)
  | n + 1, r => lmsJoin identBytes r (identNode n (2 * r)) (identNode n (2 * r + 1))

/-- The signature of a message with leaf `q`: 1,772 bytes. -/
def lmsSignature (q : Nat) (msg : List Byte) : List Byte :=
  let c := beBytes 32 (Config.identityRandom q).toNat
  let y := (otsDigits (otsHash identBytes q c msg) 8).zipIdx.map (fun e => otsChain identBytes q e.2 e.1 0 (identSecret q e.2))
  let path := (List.range 20).map (fun n => identNode n (((2 ^ 20 + q) / 2 ^ n) ^^^ 1))
  beBytes 4 q ++ beBytes 4 4 ++ c ++ y.flatten ++ beBytes 4 8 ++ path.flatten

end Sys2Proof.Machine
end

