-- ==== Sys2Proof/Machine/Qfence.lean ====
section
/-! DEFINITION. QFENCE: the markers of R65 in copy queues, lease-slot queues and exchange queues (R325, R376, R428). -/

namespace Sys2Proof.Machine

/-- Exchange queue `q` = 4 * engine + queue of a die. -/
def Die.xq (k : Die) (q : Nat) : XQueue := k.xqs.get q {}

/-- Replaces an exchange queue. -/
def State.setXq (s : State) (d q : Nat) (x : XQueue) : State := s.setDie d { s.die d with xqs := (s.die d).xqs.put q x }

/-- Queue `b` of a QFENCE mask can take no marker.  A lease slot without a lease takes none, as it retires at once. -/
def State.fenceFull (s : State) (c b : Nat) : Bool :=
  if b < 8 then decide (8 ≤ ((s.cl c).cq b).ents.length)
  else if b < 16 then
    ((s.cl c).lslot (b - 8)).st == SlotSt.lease && decide (8 ≤ ((s.cl c).lslot (b - 8)).q.length)
  else decide (16 ≤ ((s.die (dieOf c)).xq (b - 16)).ents.length)

/-- Places marker `id` in queue `b`. -/
def State.placeMarker (s : State) (c id b : Nat) : State :=
  if b < 8 then
    let x := (s.cl c).cq b
    s.setCl c ((s.cl c).setCq b { x with ents := x.ents ++ [.marker id] })
  else if b < 16 then
    let x := (s.cl c).lslot (b - 8)
    if x.st == SlotSt.lease then s.setSlot c (b - 8) { x with q := x.q ++ [.marker id] } else s
  else
    let x := (s.die (dieOf c)).xq (b - 16)
    s.setXq (dieOf c) (b - 16) { x with ents := x.ents ++ [.marker id c] }

/-- QFENCE (R325): the result and the state. -/
def State.qfence (s : State) (c mask : Nat) : Word × State :=
  if mask / 2 ^ 24 != 0 then (2, s)
  else
    let bs := (List.range 24).filter (fun b => mask.testBit b)
    if bs.any (fun b => s.fenceFull c b) then (1, s)
    else if bs.isEmpty then (0, s)
    else
      let id := s.pkg.fences
      (0, bs.foldl (fun s b => s.placeMarker c id b) (s.setPkg { s.pkg with fences := id + 1 }))

def execQfence (d a : Reg) (s : State) : Host.Outcome State Fault Refusal :=
  runCmd (.qfence d a) d [a] (fun vs s => .ok (s.qfence s.here (vs.getD 0 0).toNat)) s

/-- The entries of a queue without the marker that `p` picks; `none` where a command stands ahead of it (R65); markers of
other fences do not hold it. -/
def passMarker {α : Type} (p cmd : α → Bool) : List α → Option (List α)
  | [] => some []
  | e :: t => if p e then some t else if cmd e && t.any p then none else (passMarker p cmd t).map (e :: ·)

def QEnt.isMarker (id : Nat) : QEnt → Bool
  | .marker n => n == id
  | _ => false
def QEnt.isCmd : QEnt → Bool
  | .cmd _ => true
  | _ => false
def PEnt.isMarker (id : Nat) : PEnt → Bool
  | .marker n => n == id
  | _ => false
def PEnt.isCmd : PEnt → Bool
  | .cmd _ => true
  | _ => false
def XEnt.isMarker (id : Nat) : XEnt → Bool
  | .marker n _ => n == id
  | _ => false
def XEnt.isCmd : XEnt → Bool
  | .cmd _ => true
  | _ => false

/-- QFENCE_RETIRE (R65): the markers of a fence retire together, once no command stands ahead of any. -/
def State.retireFence (s : State) (c id : Nat) : State :=
  let k := s.cl c
  let d := dieOf c
  let cqs := k.cqs.map (fun e => (e.1, passMarker (QEnt.isMarker id) QEnt.isCmd e.2.ents))
  let lqs := k.leases.map (fun e => (e.1, passMarker (PEnt.isMarker id) PEnt.isCmd e.2.q))
  let xqs := (s.die d).xqs.map (fun e => (e.1, passMarker (XEnt.isMarker id) XEnt.isCmd e.2.ents))
  if cqs.any (fun e => e.2.isNone) || lqs.any (fun e => e.2.isNone) || xqs.any (fun e => e.2.isNone) then s
  else
    let k := cqs.foldl (fun (k : Cluster) e => k.setCq e.1 { k.cq e.1 with ents := e.2.getD [] }) k
    let k := lqs.foldl (fun (k : Cluster) e => { k with leases := k.leases.put e.1 { k.lslot e.1 with q := e.2.getD [] } }) k
    let s := s.setCl c k
    xqs.foldl (fun s e => s.setXq d e.1 { (s.die d).xq e.1 with ents := e.2.getD [] }) s

def execQfenceRetire (k : Nat) (s : State) : Host.Outcome State Fault Refusal := .next (s.retireFence s.here k)

end Sys2Proof.Machine
end

