-- ==== Sys2Proof/Machine/Exchange.lean ====
section
/-! DEFINITION. The exchange engines (R428 to R431): XCMD, the commands A2A, PUT, GET and SIG, their completion, requests
that arrive from peers, and the loss of a link (R425). -/

namespace Sys2Proof.Machine

/-! ### Descriptors (R429) -/

def xdKind (x : Nat) : Nat := fld x 3 0
def xdMsg (x : Nat) : Bool := bit x 8
def xdChan (x : Nat) : Nat := fld x 12 9
def xdTag (x : Nat) : Nat := fld x 47 32
def xdSrc (x : Nat) : Nat := fld x 127 64
def xdDst (x : Nat) : Nat := fld x 191 128
def xdLen (x : Nat) : Nat := fld x 223 192
def xdPkg (x : Nat) : Nat := fld x 235 224
def xdSigRva (x : Nat) : Nat := fld x 319 256
def xdSigVal (x : Nat) : Nat := fld x 383 320

/-- Exchange statuses (R59, R431). -/
def xNoPeer : Nat := 0x40
def xLinkDown : Nat := 0x41
def xRemote : Nat := 0x42

/-- A reserved bit is set. -/
def xdReserved (x : Nat) : Bool :=
  fld x 7 4 != 0 || fld x 31 13 != 0 || fld x 63 48 != 0 || fld x 255 236 != 0 || x / 2 ^ 384 != 0

/-- A field is out of range, or one that the KIND does not use is not zero. -/
def xdShape (x : Nat) : Bool :=
  match xdKind x with
  | 0 => outside (xdLen x) 1 65536 || xdSrc x % 32 != 0 || xdDst x != 0 || xdPkg x != 0 || xdSigRva x % 8 != 0
  | 3 => xdSrc x != 0 || xdLen x != 0 || xdSigRva x != 0 || xdDst x % 8 != 0
  | _ => outside (xdLen x) 64 (2 ^ 24) || xdSigRva x != 0 || xdSigVal x != 0

/-- The status of a command at the head of its queue; 0 where it may start. -/
def xJudge (x : Nat) : Nat := if xdReserved x then 0x21 else if xdShape x then 0x22 else 0

/-! ### XCMD (R338, R428) -/

/-- XCMD: the issue word and the state. -/
def State.xcmd (s : State) (c ctx va b : Nat) : Word × State :=
  let d := dieOf c
  let q := fld b 0 0 * 4 + fld b 2 1
  if b < 8 ∧ 16 ≤ ((s.die d).xq q).ents.length then (issueWord 1 0, s)
  else match (s.cl c).localDesc va 64 64 with
    | none => (issueWord 3 0, s)
    | some bs =>
      let desc := ofBytes bs
      if 8 ≤ b then (issueWord 4 0, s)
      else if 3 < xdKind desc || !bit s.pkg.features 8 then (issueWord 5 0, s)
      else
        let s := s.releaseAt c .dev
        let x := (s.die d).xq q
        (issueWord 0 x.next,
          s.setXq d q { ents := x.ents ++ [.cmd { desc := desc, seq := x.next, ctx := ctx, cl := c }],
                        next := (x.next + 1) % 65536 })

def execXcmd (d a b : Reg) (s : State) : Host.Outcome State Fault Refusal :=
  runCmd (.xcmd d a b) d [a, b] (fun vs s =>
    s.whenSettled (vs.getD 0 0) 64 (s.xcmd s.here (s.sq s.here).running.ctx (vs.getD 0 0).toNat (vs.getD 1 0).toNat)) s

/-! ### Peers (R430, R436) -/

/-- Exchange queue `q` of a die as an agent. -/
def whoX (d q : Nat) : Who := whoDie d (agentDie d (82 + q))

/-- The command stops here. -/
def XCmd.stop (c : XCmd) (status lvl va : Nat) : XCmd := { c with finished := true, status := status, lvl := lvl, fva := va }

/-- Looks a package up in the context's peer map: its link address, or the status that stops the command. -/
def State.peer (s : State) (d q ctx pkg : Nat) : Except AFail Nat × State :=
  let va := (s.ctx ctx).peerVa.toNat
  if va = 0 then (.error { code := xNoPeer, lvl := 0, va := 0 }, s)
  else match s.engRead (whoX d q) ctx (va + 8 * pkg) 8 with
    | (.error f, s) => (.error f, s)
    | (.ok bs, s) =>
      let e := ofBytes (plain bs)
      if anyPoison bs || !bit e 0 then (.error { code := xNoPeer, lvl := 0, va := 0 }, s)
      else if s.pkg.lost.contains (Config.routeLink e) then (.error { code := xLinkDown, lvl := 0, va := 0 }, s)
      else (.ok e, s)

/-- The remote package's answer to an access, which comes from outside: it acknowledges, or reports a fault. -/
def State.remoteAnswer (s : State) : Bool × State := let (n, s) := s.drawNat; (n % 2 == 0, s)

/-- Sends something to a package, for the context of the same number there (R430), and takes its answer. -/
def State.toPeer (s : State) (d q ctx pkg : Nat) (m : OutMsg) : Option AFail × State :=
  match s.peer d q ctx pkg with
  | (.error f, s) => (some f, s)
  | (.ok e, s) =>
    let (ok, s) := (s.send { m with dest := pkg, ctx := ctx, link := e }).remoteAnswer
    if ok then (none, s) else (some { code := xRemote, lvl := 0, va := 0 }, s)

/-- Machine checks for the poisoned lanes of a piece that starts at a VA (R410, R431). -/
def State.laneChecks (s : State) (cl ctx pa va : Nat) (bs : List (Byte × Bool)) : State :=
  (List.range bs.length).foldl (fun s i =>
    match bs[i]? with
    | some (_, true) =>
      if i = 0 ∨ (va + i) % 4 = 0 then
        s.machineCheck cl ctx 2 0 (if pa = 0 then 0 else pa + i) (BitVec.ofNat 64 (va + i)) ((va + i) % 64 / 4)
      else s
    | _ => s) s

/-- The offsets of the poisoned bytes. -/
def poisonedAts (bs : List (Byte × Bool)) : List Nat :=
  (bs.zipIdx.filter (fun b => b.1.2)).map Prod.snd

/-- Sends bytes from a local VA to a remote one, poisoned lanes poisoned (R431); a piece never crosses a page. -/
def State.sendPiece (s : State) (d q : Nat) (c : XCmd) (src rva pkg n : Nat) : Option AFail × Bool × State :=
  match s.engRead (whoX d q) c.ctx src n with
  | (.error f, s) => (some f, false, s)
  | (.ok bs, s) =>
    let bad := anyPoison bs
    let (t, s) := s.translate (whoX d q).owner d (d * 40) c.ctx .read src
    let pa := match t with | .ok pa _ => pa | .bad _ _ => 0
    let s := s.laneChecks c.cl c.ctx pa src bs
    let r := s.toPeer d q c.ctx pkg { kind := 1, dest := pkg, addr := rva, data := plain bs, bad := poisonedAts bs }
    (r.1, bad, r.2)

/-- Bytes up to the end of a page. -/
def pieceLen (va n : Nat) : Nat := min n (4096 - va % 4096)

/-- A signal: AMOADD.d of SIGVAL at a remote word. -/
def State.signal (s : State) (d q : Nat) (c : XCmd) (pkg rva : Nat) : Option AFail × State :=
  s.toPeer d q c.ctx pkg { kind := 2, dest := pkg, addr := rva, data := toBytes 8 (xdSigVal c.desc) }

/-! ### The commands (R430) -/

/-- PUT sends its next piece. -/
def State.putStep (s : State) (d q : Nat) (c : XCmd) : XCmd × State :=
  let x := c.desc
  let n := pieceLen (vaAdd (xdSrc x) c.written) (xdLen x - c.written)
  match s.sendPiece d q c (vaAdd (xdSrc x) c.written) (vaAdd (xdDst x) c.written) (xdPkg x) n with
  | (some f, _, s) => (c.stop f.code f.lvl f.va, s)
  | (none, bad, s) =>
    let c := { c with written := c.written + n, poisoned := c.poisoned || bad }
    (if xdLen x ≤ c.written then c.stop (if c.poisoned then 0x20 else 0) 0 0 else c, s)

/-- Bytes that come from a peer: their values and their poison come from outside. -/
def State.freeBytes : Nat → State → List (Byte × Bool) × State
  | 0, s => ([], s)
  | n + 1, s =>
    let (w, s) := s.drawWord
    let (p, s) := s.drawNat
    let r := State.freeBytes n s
    ((w.setWidth 8, p % 2 == 1) :: r.1, r.2)

/-- GET asks for its next piece and writes what comes back. -/
def State.getStep (s : State) (d q : Nat) (c : XCmd) : XCmd × State :=
  let x := c.desc
  let dst := vaAdd (xdDst x) c.written
  let src := vaAdd (xdSrc x) c.written
  let n := pieceLen dst (xdLen x - c.written)
  match s.toPeer d q c.ctx (xdPkg x) { kind := 3, dest := xdPkg x, addr := src, data := toBytes 8 n } with
  | (some f, s) => (c.stop f.code f.lvl f.va, s)
  | (none, s) =>
    let (bs, s) := State.freeBytes n s
    let s := s.laneChecks c.cl c.ctx 0 src bs
    match s.engWrite (whoX d q) c.ctx dst bs with
    | (some f, s) => (c.stop f.code f.lvl f.va, s)
    | (none, s) =>
      let c := { c with written := c.written + n, poisoned := c.poisoned || anyPoison bs }
      (if xdLen x ≤ c.written then c.stop (if c.poisoned then 0x20 else 0) 0 0 else c, s)

/-- SIG: every earlier command of the queue is complete, so its writes are performed. -/
def State.sigStep (s : State) (d q : Nat) (c : XCmd) : XCmd × State :=
  match s.signal d q c (xdPkg c.desc) (xdDst c.desc) with
  | (some f, s) => (c.stop f.code f.lvl f.va, s)
  | (none, s) => (c.stop 0 0 0, s)

/-- A routing-list entry (R429): SRC, RVA, LEN and PKG; `none` where it is malformed. -/
def routeEntry (e : Nat) : Option (Nat × Nat × Nat × Nat) :=
  if fld e 159 128 < 64 || decide (2 ^ 20 < fld e 159 128) || e / 2 ^ 172 != 0 then none
  else some (fld e 63 0, fld e 127 64, fld e 159 128, fld e 171 160)

/-- Sends an entry's bytes, piece by piece. -/
def State.sendEntry (d q : Nat) (c : XCmd) : Nat → State → Nat → Nat → Nat → Nat → Option AFail × Nat × Bool × State
  | 0, s, _, _, _, _ => (none, 0, false, s)
  | fuel + 1, s, src, rva, pkg, n =>
    if n = 0 then (none, 0, false, s)
    else
      let m := pieceLen src n
      match s.sendPiece d q c src rva pkg m with
      | (some f, bad, s) => (some f, 0, bad, s)
      | (none, bad, s) =>
        let r := State.sendEntry d q c fuel s (vaAdd src m) (vaAdd rva m) pkg (n - m)
        (r.1, m + r.2.1, bad || r.2.2.1, r.2.2.2)

/-- Sends the signals of an A2A. -/
def State.signals (d q : Nat) (c : XCmd) : List Nat → State → Option AFail × State
  | [], s => (none, s)
  | p :: ps, s =>
    match s.signal d q c p (xdSigRva c.desc) with
    | (some f, s) => (some f, s)
    | (none, s) => State.signals d q c ps s

/-- A2A sends its next entry; after the last, one signal goes to each package. -/
def State.a2aStep (s : State) (d q : Nat) (c : XCmd) : XCmd × State :=
  let x := c.desc
  if xdLen x ≤ c.entry then
    match (if xdSigRva x = 0 then (none, s) else State.signals d q c c.pkgs s) with
    | (some f, s) => (c.stop f.code f.lvl f.va, s)
    | (none, s) => (c.stop (if c.poisoned then 0x20 else 0) 0 0, s)
  else match s.engRead (whoX d q) c.ctx (vaAdd (xdSrc x) (32 * c.entry)) 32 with
    | (.error f, s) => (c.stop f.code f.lvl f.va, s)
    | (.ok bs, s) =>
      match routeEntry (ofBytes (plain bs)) with
      | none => (c.stop 0x22 0 0, s)
      | some (src, rva, len, pkg) =>
        if anyPoison bs then (c.stop 0x20 0 0, s)
        else
          let r := State.sendEntry d q c (len / 64 + 2) s src rva pkg len
          let c := { c with written := c.written + r.2.1, poisoned := c.poisoned || r.2.2.1 }
          match r.1 with
          | some f => (c.stop f.code f.lvl f.va, r.2.2.2)
          | none => ({ c with entry := c.entry + 1, pkgs := if c.pkgs.contains pkg then c.pkgs else c.pkgs ++ [pkg] }, r.2.2.2)

/-- The command at the head of an exchange queue. -/
def Die.headX (k : Die) (q : Nat) : Option XCmd :=
  match (k.xq q).ents with
  | .cmd c :: _ => some c
  | _ => none

/-- Replaces the command at the head. -/
def State.setHeadX (s : State) (d q : Nat) (c : XCmd) : State :=
  s.setXq d q { (s.die d).xq q with ents := .cmd c :: ((s.die d).xq q).ents.drop 1 }

/-- A turn of an exchange engine on the command of kind `kind` at the head of its queue: validation, or a piece of work.  A
command that has not started when its context's save writes the cluster is in the image and starts no more here (R421). -/
def State.exchange (s : State) (kind q : Nat) : State :=
  let d := s.hereDie
  match (s.die d).headX q with
  | none => s
  | some c =>
    if xdKind c.desc != kind || c.finished || (!c.started && s.saveWritten c.cl c.ctx) then s
    else if !c.started then
      let c := { c with started := true }
      let st := xJudge c.desc
      s.setHeadX d q (if st = 0 then c else c.stop st 0 0)
    else
      let r := match kind with
        | 0 => s.a2aStep d q c
        | 1 => s.putStep d q c
        | 2 => s.getStep d q c
        | _ => s.sigStep d q c
      r.2.setHeadX d q r.1

def execA2a (e : BitVec 1) (q : BitVec 2) (s : State) : Host.Outcome State Fault Refusal :=
  .next (s.exchange 0 (e.toNat * 4 + q.toNat))
def execPut (e : BitVec 1) (q : BitVec 2) (s : State) : Host.Outcome State Fault Refusal :=
  .next (s.exchange 1 (e.toNat * 4 + q.toNat))
def execGet (e : BitVec 1) (q : BitVec 2) (s : State) : Host.Outcome State Fault Refusal :=
  .next (s.exchange 2 (e.toNat * 4 + q.toNat))
def execSig (e : BitVec 1) (q : BitVec 2) (s : State) : Host.Outcome State Fault Refusal :=
  .next (s.exchange 3 (e.toNat * 4 + q.toNat))

/-! ### Completion (R431) -/

/-- The completion message. -/
def State.exchangeDone (s : State) (q : Nat) (c : XCmd) : State :=
  if xdMsg c.desc then
    s.post c.cl (senderOut (whoX (dieOf c.cl) q).agent) (xdChan c.desc)
      { msg := { w0 := BitVec.ofNat 64 (c.status + xdKind c.desc * 2 ^ 8 + q * 2 ^ 12 + xdTag c.desc * 2 ^ 16 + c.lvl * 2 ^ 32),
                 w1 := BitVec.ofNat 64 c.written, w3 := BitVec.ofNat 64 c.fva }, ctx := c.ctx }
  else s

/-- EXCHANGE_COMPLETE: the finished command at the head leaves its queue, its writes performed at SYS. -/
def execExchangeComplete (e : BitVec 1) (q : BitVec 2) (s : State) : Host.Outcome State Fault Refusal :=
  let d := s.hereDie
  let n := e.toNat * 4 + q.toNat
  .next (match (s.die d).headX n with
    | none => s
    | some c =>
      if c.finished then
        let s := s.deliverKnown (whoX d n).agent d .sys
        (s.setXq d n { (s.die d).xq n with ents := ((s.die d).xq n).ents.drop 1 }).exchangeDone n c
      else s)

/-! ### Peers' requests and links (R425, R430) -/

/-- The unit of a die that performs peers' requests, each line at its home die (R291). -/
def whoPeer (d : Nat) : Who := { whoDie d (agentDie d 90) with home := true }

/-- A request of a peer (R430): 0 write, 1 read, 2 signal, 3 write with poisoned lanes, bit 8 len + i of `data` marking byte
i; a missing context or a failed translation is answered as a remote fault.  What it writes is performed at SYS before it
is acknowledged (R431). -/
def State.peerRequest (s : State) (d ctx kind va len data : Nat) : State :=
  let w := whoPeer d
  let answer := fun (s : State) (st : Nat) (bs : List Byte) => s.send { kind := 9, dest := ctx, addr := st, data := bs }
  if !(s.ctx ctx).live then answer s xRemote []
  else match kind with
    | 1 =>
      match s.engRead w ctx va len with
      | (.error _, s) => answer s xRemote []
      | (.ok bs, s) => s.send { kind := 9, dest := ctx, addr := if anyPoison bs then 0x20 else 0, data := plain bs, bad := poisonedAts bs }
    | 2 =>
      let s := s.deliverKnown w.agent d .sys
      match s.translate w.owner d w.mcl ctx .atomic va with
      | (.bad _ _, s) => answer s xRemote []
      | (.ok pa _, s) =>
        if va % 8 != 0 then answer s xRemote []
        else if s.poisonedAt pa then answer (s.machineCheck w.mcl ctx 1 0 pa (BitVec.ofNat 64 va) 0) 0x20 []
        else
          let s := s.storeHome (homeDie pa) w.agent pa (toBytes 8 ((ofBytes (s.mem.bytes pa 8) + data) % 2 ^ 64)) false
          answer (s.deliverKnown w.agent d .sys) 0 []
    | k =>
      match s.engWrite w ctx va ((toBytes len data).zipIdx.map (fun b => (b.1, k == 3 && data.testBit (8 * len + b.2)))) with
      | (some _, s) => answer s xRemote []
      | (none, s) => answer (s.deliverKnown w.agent d .sys) 0 []

def execRemoteExchangeRequest (ctx : BitVec 6) (kind : BitVec 2) (va : BitVec 64) (len data : Nat) (s : State) :
    Host.Outcome State Fault Refusal :=
  .next (s.peerRequest s.hereDie ctx.toNat kind.toNat va.toNat len data)

/-- KEEPALIVE_LOSS (R425): the loss of a peer is detected and reported; routes over its link have failed. -/
def execKeepaliveLoss (link : BitVec 5) (s : State) : Host.Outcome State Fault Refusal :=
  .next (if 20 ≤ link.toNat then s
    else (s.setPkg { s.pkg with lost := insertNat link.toNat s.pkg.lost }).send { kind := 5, dest := 1000 + link.toNat, addr := 0x41 })

/-! ### Accesses to tier C that go unanswered (R15) -/

/-- The context that the actor's accesses act for: that of the command at the head of a queue, of the residency of a
fabric unit, or of the running task. -/
def State.actorCtx (s : State) : Nat :=
  let a := s.actor
  let k := s.cl a.cl
  if a.unit < 292 then (match k.owner a.unit with | some r => (k.resident r).ctx | none => 0)
  else if 500 ≤ a.unit then (match (s.die a.die).headX (a.unit - 500) with | some c => c.ctx | none => 0)
  else if 400 ≤ a.unit then
    (match s.slotOf a.die (a.unit - 400) with
      | some (c, i) => ((s.cl c).lslot i).ctx
      | none => 0)
  else if 300 ≤ a.unit then (match k.headCmd (a.unit - 300) with | some c => c.ctx | none => 0)
  else k.seq.running.ctx

/-- TIER_C_TIMEOUT (R15): a machine check names the port, and the actor's access, at its next turn, finds its word
uncorrectable. -/
def execTierCTimeout (pa : BitVec 48) (va : BitVec 64) (s : State) : Host.Outcome State Fault Refusal :=
  let c := s.here
  .next (if inC pa.toNat then
    let s := s.machineCheck c s.actorCtx 4 (portOf pa.toNat) pa.toNat va 0
    { s with timeouts := s.timeouts ++ [(s.actor, pa.toNat / 32)] }
  else s)

end Sys2Proof.Machine
end

