-- ==== Sys2Proof/Machine/Mailbox.lean ====
section
/-! DEFINITION. The management mailboxes (R432, R433): doorbells, command blocks, completion. -/

namespace Sys2Proof.Machine

/-- Firmware as an agent: it works through a die's caches, the writer's for mailboxes 1 to 4. -/
def whoFw (m : Nat) : Who := whoDie (if 1 ≤ m ∧ m ≤ 4 then m - 1 else 0) agentFw

/-- A mailbox takes a virtual address of its writer (R432). -/
def FwCmd.virt (c : FwCmd) : Bool := decide (1 ≤ c.mbx) && decide (c.mbx ≤ 4)

/-- Bytes of the command block from offset `off`; `none` where it cannot be read or is misaligned. -/
def State.fwRead (s : State) (c : FwCmd) (off n : Nat) : Option (List Byte) × State :=
  let a := c.addr + off
  if c.addr % 256 != 0 then (none, s)
  else if c.virt then
    match s.engRead (whoFw c.mbx) c.ctx a n with
    | (.error _, s) => (none, s)
    | (.ok bs, s) => (if anyPoison bs then none else some (plain bs), s)
  else if (inH a && inH (a + n)) || (inC a && inC (a + n)) then
    (if (List.range n).any (fun i => s.poisonedAt (a + i)) then none else some (s.mem.bytes a n), s)
  else (none, s)

/-- Firmware writes into the command block (R433). -/
def State.fwWrite (s : State) (c : FwCmd) (off : Nat) (bs : List Byte) : State :=
  let a := c.addr + off
  if c.addr % 256 != 0 then s
  else if c.virt then (s.engPut (whoFw c.mbx) c.ctx a bs).2
  else if (inH a && inH (a + bs.length)) || (inC a && inC (a + bs.length)) then s.storeHome 0 agentFw a bs false
  else s

/-- The header of a block (R433): OPC, CHAN, TAG. -/
def fwOpc (h : Nat) : Nat := fld h 7 0
def fwChan (h : Nat) : Nat := fld h 11 8
def fwTag (h : Nat) : Nat := fld h 27 12
def fwHeadBad (h : Nat) : Bool := fld h 63 28 != 0 || fld h 127 96 != 0

/-- Replaces a mailbox. -/
def State.setMailbox (s : State) (m : Nat) (x : Mailbox) : State := s.setPkg { s.pkg with mbx := s.pkg.mbx.put m x }

/-- A doorbell (R432): ignored while the mailbox is busy. -/
def State.doorbell (s : State) (c : FwCmd) : State :=
  if (s.mailbox c.mbx).busy then s
  else
    let s := s.setMailbox c.mbx { s.mailbox c.mbx with busy := true }
    s.setPkg { s.pkg with fwq := s.pkg.fwq ++ [c] }

/-- A command ends (R433): STATUS is written after the results, all performed at SYS, and completion is signalled. -/
def State.fwDone (s : State) (c : FwCmd) (status : Nat) : State :=
  let (h, s) := s.fwRead c 0 16
  let hd := ofBytes (h.getD [])
  let s := (s.fwWrite c 8 (toBytes 4 status)).deliverKnown agentFw (whoFw c.mbx).die .sys
  let x := s.mailbox c.mbx
  let s := s.setMailbox c.mbx { x with busy := false, status := status, done := (x.done + 1) % 2 ^ 32 }
  if c.mbx = 0 then
    if bit x.vec.toNat 31 then s.send { kind := 4, dest := fld x.vec.toNat 10 0 } else s
  else if c.mbx = 5 then
    let (bs, s) := s.fwRead c 0 256
    s.send { kind := 7, dest := c.cl, addr := c.addr, data := bs.getD [] }
  else if h.isNone then s
  else
    s.post c.cl (senderOut agentFw) (fwChan hd)
      { msg := { w0 := BitVec.ofNat 64 (status + fwTag hd * 2 ^ 8 + 0xC0 * 2 ^ 56) }, ctx := c.ctx }

end Sys2Proof.Machine
end

