-- ==== Sys2Proof/Machine/Codec.lean ====
section
/-! DEFINITION. The encoding of engine and fabric state in a save image, where R421 and R422 name what is held and give no layout
(assumption 57). -/

namespace Sys2Proof.Machine

/-! ### Codecs -/

/-- A way to write values as bytes and to read them back. -/
structure Codec (α : Type) where
  put : α → List Byte
  get : List Byte → Option (α × List Byte)

/-- A number in bytes of seven bits, lowest first, each but the last with bit 7 set. -/
def putNat : Nat → Nat → List Byte
  | 0, n => [BitVec.ofNat 8 n]
  | f + 1, n => if n < 128 then [BitVec.ofNat 8 n] else BitVec.ofNat 8 (128 + n % 128) :: putNat f (n / 128)

def getNat : List Byte → Option (Nat × List Byte)
  | [] => none
  | b :: bs => if b.toNat < 128 then some (b.toNat, bs) else (getNat bs).map (fun r => (b.toNat % 128 + 128 * r.1, r.2))

def natC : Codec Nat := { put := fun n => putNat (Nat.log2 n) n, get := getNat }

/-- The codec of a type that another type represents. -/
def isoC {α β : Type} (f : α → β) (g : β → α) (c : Codec β) : Codec α :=
  { put := fun a => c.put (f a), get := fun bs => (c.get bs).map (fun r => (g r.1, r.2)) }

def pairC {α β : Type} (c : Codec α) (e : Codec β) : Codec (α × β) :=
  { put := fun x => c.put x.1 ++ e.put x.2,
    get := fun bs => (c.get bs).bind (fun r => (e.get r.2).map (fun q => ((r.1, q.1), q.2))) }

def boolC : Codec Bool := isoC b2n (fun n => n != 0) natC
def bitsC (w : Nat) : Codec (BitVec w) := isoC BitVec.toNat (BitVec.ofNat w) natC
def intC : Codec Int :=
  isoC (fun z => if z < 0 then 2 * (-z).toNat + 1 else 2 * z.toNat) (fun n => if n % 2 = 1 then -((n / 2 : Nat) : Int) else ((n / 2 : Nat) : Int)) natC

/-- One of two: a 0 or a 1, then the value. -/
def sumC {α β : Type} (c : Codec α) (e : Codec β) : Codec (α ⊕ β) :=
  { put := fun x => match x with | .inl a => natC.put 0 ++ c.put a | .inr b => natC.put 1 ++ e.put b,
    get := fun bs => (getNat bs).bind (fun r =>
      if r.1 = 0 then (c.get r.2).map (fun q => (.inl q.1, q.2)) else (e.get r.2).map (fun q => (.inr q.1, q.2))) }

def optC {α : Type} (c : Codec α) : Codec (Option α) :=
  { put := fun x => match x with | none => natC.put 0 | some a => natC.put 1 ++ c.put a,
    get := fun bs => (getNat bs).bind (fun r => if r.1 = 0 then some (none, r.2) else (c.get r.2).map (fun q => (some q.1, q.2))) }

/-- Reads `n` values. -/
def getMany {α : Type} (c : Codec α) : Nat → List Byte → Option (List α × List Byte)
  | 0, bs => some ([], bs)
  | n + 1, bs => (c.get bs).bind (fun r => (getMany c n r.2).map (fun q => (r.1 :: q.1, q.2)))

/-- A list: its length, then its elements. -/
def listC {α : Type} (c : Codec α) : Codec (List α) :=
  { put := fun xs => natC.put xs.length ++ xs.flatMap c.put, get := fun bs => (getNat bs).bind (fun r => getMany c r.1 r.2) }

/-- Bytes as they stand, behind their number. -/
def bytesC : Codec (List Byte) :=
  { put := fun xs => natC.put xs.length ++ xs,
    get := fun bs => (getNat bs).bind (fun r => if r.2.length < r.1 then none else some (r.2.take r.1, r.2.drop r.1)) }

/-! ### What section ENGINES holds -/

/-- The payload of section ENGINES: copy queues with their markers, the barrier slots, the context's lease slots with their pending
notices, its exchange commands and the cluster's markers by queue and place; what the other sections leave without a place: the bound
channels, the launches of queued messages, held messages, BANKMODE's change in progress, staging buffers, kills on reverse wires,
poisoned words of the banks, the suspended task's binding and launch, MCMODE.FRUN, the gangs; and the rest of records that do
not fit their places. -/
structure EngRec where
  cqs : Tab CopyQueue
  stamp : Nat
  bars : Tab Barrier
  leases : Tab LeaseSlot
  notes : Tab Nat
  xcmds : List (Nat × Nat × XEnt)
  chans : List Nat
  launches : List (Option Nat)
  held : List Held
  bankReq : BankReq
  stages : Tab Stage
  wires : List KillMsg
  poison : List Nat
  task : Option (Task × Bool)
  frun : Bool
  gangs : Tab Gang
  spill : List (List Byte)
  deriving DecidableEq, Repr, Inhabited

/-! ### The codecs of the state's parts -/

def Msg.codec : Codec Msg := isoC (fun (x : Msg) => (x.w0, x.w1, x.w2, x.w3))
  (fun t => { w0 := t.1, w1 := t.2.1, w2 := t.2.2.1, w3 := t.2.2.2 })
  (pairC (bitsC 64) <| pairC (bitsC 64) <| pairC (bitsC 64) <| (bitsC 64))

def QMsg.codec : Codec QMsg := isoC (fun (x : QMsg) => (x.msg, x.ctx, x.launch))
  (fun t => { msg := t.1, ctx := t.2.1, launch := t.2.2 })
  (pairC Msg.codec <| pairC natC <| (optC natC))

def Held.codec : Codec Held := isoC (fun (x : Held) => (x.sender, x.chan, x.m))
  (fun t => { sender := t.1, chan := t.2.1, m := t.2.2 })
  (pairC natC <| pairC natC <| QMsg.codec)

def Task.codec : Codec Task := isoC (fun (x : Task) => (x.chan, x.ctx, x.q, x.launch))
  (fun t => { chan := t.1, ctx := t.2.1, q := t.2.2.1, launch := t.2.2.2 })
  (pairC natC <| pairC natC <| pairC (bitsC 64) <| (optC natC))

def Stage.codec : Codec Stage := isoC (fun (x : Stage) => (x.data, x.ended))
  (fun t => { data := t.1, ended := t.2 })
  (pairC (listC (pairC (bitsC 8) boolC)) <| boolC)

def BankReq.codec : Codec BankReq := isoC (fun (x : BankReq) => (x.bank, x.mode, x.bstat, x.pend))
  (fun t => { bank := t.1, mode := t.2.1, bstat := t.2.2.1, pend := t.2.2.2 })
  (pairC natC <| pairC natC <| pairC natC <| (optC (pairC natC natC)))

def CopyCmd.codec : Codec CopyCmd := isoC (fun (x : CopyCmd) => (x.desc, x.seq, x.ctx, x.stamp, x.started, x.row, x.pos, x.part,
    x.written, x.mask, x.packed, x.bits, x.finished, x.status, x.lvl, x.fva, x.poisoned, x.arrived))
  (fun t => { desc := t.1, seq := t.2.1, ctx := t.2.2.1, stamp := t.2.2.2.1, started := t.2.2.2.2.1, row := t.2.2.2.2.2.1,
              pos := t.2.2.2.2.2.2.1, part := t.2.2.2.2.2.2.2.1, written := t.2.2.2.2.2.2.2.2.1,
              mask := t.2.2.2.2.2.2.2.2.2.1, packed := t.2.2.2.2.2.2.2.2.2.2.1, bits := t.2.2.2.2.2.2.2.2.2.2.2.1,
              finished := t.2.2.2.2.2.2.2.2.2.2.2.2.1, status := t.2.2.2.2.2.2.2.2.2.2.2.2.2.1,
              lvl := t.2.2.2.2.2.2.2.2.2.2.2.2.2.2.1, fva := t.2.2.2.2.2.2.2.2.2.2.2.2.2.2.2.1,
              poisoned := t.2.2.2.2.2.2.2.2.2.2.2.2.2.2.2.2.1, arrived := t.2.2.2.2.2.2.2.2.2.2.2.2.2.2.2.2.2 })
  (pairC natC <| pairC natC <| pairC natC <| pairC natC <| pairC boolC <| pairC natC <| pairC natC <| pairC natC <| pairC natC <|
    pairC natC <| pairC natC <| pairC (listC natC) <| pairC boolC <| pairC natC <| pairC natC <| pairC (bitsC 64) <| pairC boolC
    <| boolC)

def QEnt.codec : Codec QEnt := isoC
  (fun e => match e with | .cmd c => .inl c | .marker n => .inr n)
  (fun e => match e with | .inl c => .cmd c | .inr n => .marker n)
  (sumC CopyCmd.codec natC)

def CopyQueue.codec : Codec CopyQueue := isoC (fun (x : CopyQueue) => (x.ents, x.next))
  (fun t => { ents := t.1, next := t.2 })
  (pairC (listC QEnt.codec) <| natC)

def Barrier.codec : Codec Barrier := isoC (fun (x : Barrier) => (x.expect, x.mapword, x.mask, x.phase, x.chan, x.tag, x.recAddr,
    x.arrived, x.ctx))
  (fun t => { expect := t.1, mapword := t.2.1, mask := t.2.2.1, phase := t.2.2.2.1, chan := t.2.2.2.2.1,
              tag := t.2.2.2.2.2.1, recAddr := t.2.2.2.2.2.2.1, arrived := t.2.2.2.2.2.2.2.1, ctx := t.2.2.2.2.2.2.2.2
              })
  (pairC natC <| pairC natC <| pairC natC <| pairC natC <| pairC natC <| pairC natC <| pairC natC <| pairC natC <| natC)

def Bind.codec : Codec Bind := isoC (fun (x : Bind) => (x.ag, x.dirOut, x.path, x.bank))
  (fun t => { ag := t.1, dirOut := t.2.1, path := t.2.2.1, bank := t.2.2.2 })
  (pairC natC <| pairC boolC <| pairC natC <| natC)

def Resid.codec : Codec Resid := isoC (fun (x : Resid) => (x.gen, x.live, x.ctx, x.w, x.h, x.origin, x.image, x.fgImage,
    x.bgImage, x.rseed, x.echan, x.emsg, x.tag, x.gang, x.movable, x.fgFixed, x.bgFixed, x.iterva, x.itemAg, x.claimsDone,
    x.census, x.csat, x.draining, x.frun, x.binds, x.pages, x.ags, x.islands, x.frozen))
  (fun t => { gen := t.1, live := t.2.1, ctx := t.2.2.1, w := t.2.2.2.1, h := t.2.2.2.2.1, origin := t.2.2.2.2.2.1,
              image := t.2.2.2.2.2.2.1, fgImage := t.2.2.2.2.2.2.2.1, bgImage := t.2.2.2.2.2.2.2.2.1,
              rseed := t.2.2.2.2.2.2.2.2.2.1, echan := t.2.2.2.2.2.2.2.2.2.2.1, emsg := t.2.2.2.2.2.2.2.2.2.2.2.1,
              tag := t.2.2.2.2.2.2.2.2.2.2.2.2.1, gang := t.2.2.2.2.2.2.2.2.2.2.2.2.2.1,
              movable := t.2.2.2.2.2.2.2.2.2.2.2.2.2.2.1, fgFixed := t.2.2.2.2.2.2.2.2.2.2.2.2.2.2.2.1,
              bgFixed := t.2.2.2.2.2.2.2.2.2.2.2.2.2.2.2.2.1, iterva := t.2.2.2.2.2.2.2.2.2.2.2.2.2.2.2.2.2.1,
              itemAg := t.2.2.2.2.2.2.2.2.2.2.2.2.2.2.2.2.2.2.1,
              claimsDone := t.2.2.2.2.2.2.2.2.2.2.2.2.2.2.2.2.2.2.2.1,
              census := t.2.2.2.2.2.2.2.2.2.2.2.2.2.2.2.2.2.2.2.2.1,
              csat := t.2.2.2.2.2.2.2.2.2.2.2.2.2.2.2.2.2.2.2.2.2.1,
              draining := t.2.2.2.2.2.2.2.2.2.2.2.2.2.2.2.2.2.2.2.2.2.2.1,
              frun := t.2.2.2.2.2.2.2.2.2.2.2.2.2.2.2.2.2.2.2.2.2.2.2.1,
              binds := t.2.2.2.2.2.2.2.2.2.2.2.2.2.2.2.2.2.2.2.2.2.2.2.2.1,
              pages := t.2.2.2.2.2.2.2.2.2.2.2.2.2.2.2.2.2.2.2.2.2.2.2.2.2.1,
              ags := t.2.2.2.2.2.2.2.2.2.2.2.2.2.2.2.2.2.2.2.2.2.2.2.2.2.2.1,
              islands := t.2.2.2.2.2.2.2.2.2.2.2.2.2.2.2.2.2.2.2.2.2.2.2.2.2.2.2.1,
              frozen := t.2.2.2.2.2.2.2.2.2.2.2.2.2.2.2.2.2.2.2.2.2.2.2.2.2.2.2.2 })
  (pairC natC <| pairC boolC <| pairC natC <| pairC natC <| pairC natC <| pairC natC <| pairC (bitsC 64) <| pairC (bitsC 64) <|
    pairC (bitsC 64) <| pairC natC <| pairC natC <| pairC boolC <| pairC natC <| pairC (optC (pairC natC natC)) <| pairC boolC
    <| pairC boolC <| pairC boolC <| pairC (bitsC 64) <| pairC (optC natC) <| pairC boolC <| pairC natC <| pairC boolC <| pairC
    boolC <| pairC boolC <| pairC (listC Bind.codec) <| pairC (listC natC) <| pairC (listC natC) <| pairC (listC natC) <| boolC)

def Launch.codec : Codec Launch := isoC (fun (x : Launch) => (x.num, x.entry, x.chan, x.prio, x.elastic, x.ctx, x.movable,
    x.nmemb, x.minmemb, x.rptva, x.args, x.shapes, x.waits, x.eligible, x.since, x.aged, x.since7, x.blocking, x.link))
  (fun t => { num := t.1, entry := t.2.1, chan := t.2.2.1, prio := t.2.2.2.1, elastic := t.2.2.2.2.1,
              ctx := t.2.2.2.2.2.1, movable := t.2.2.2.2.2.2.1, nmemb := t.2.2.2.2.2.2.2.1,
              minmemb := t.2.2.2.2.2.2.2.2.1, rptva := t.2.2.2.2.2.2.2.2.2.1, args := t.2.2.2.2.2.2.2.2.2.2.1,
              shapes := t.2.2.2.2.2.2.2.2.2.2.2.1, waits := t.2.2.2.2.2.2.2.2.2.2.2.2.1,
              eligible := t.2.2.2.2.2.2.2.2.2.2.2.2.2.1, since := t.2.2.2.2.2.2.2.2.2.2.2.2.2.2.1,
              aged := t.2.2.2.2.2.2.2.2.2.2.2.2.2.2.2.1, since7 := t.2.2.2.2.2.2.2.2.2.2.2.2.2.2.2.2.1,
              blocking := t.2.2.2.2.2.2.2.2.2.2.2.2.2.2.2.2.2.1, link := t.2.2.2.2.2.2.2.2.2.2.2.2.2.2.2.2.2.2 })
  (pairC natC <| pairC (bitsC 64) <| pairC natC <| pairC natC <| pairC boolC <| pairC natC <| pairC boolC <| pairC natC <| pairC
    natC <| pairC (bitsC 64) <| pairC Msg.codec <| pairC (listC natC) <| pairC (listC (pairC natC (pairC natC natC))) <| pairC
    boolC <| pairC natC <| pairC natC <| pairC (optC natC) <| pairC boolC <| (optC natC))

def Member.codec : Codec Member := isoC (fun (x : Member) => (x.cl, x.page, x.w, x.h, x.imask, x.handle, x.mstate))
  (fun t => { cl := t.1, page := t.2.1, w := t.2.2.1, h := t.2.2.2.1, imask := t.2.2.2.2.1, handle := t.2.2.2.2.2.1,
              mstate := t.2.2.2.2.2.2 })
  (pairC natC <| pairC natC <| pairC natC <| pairC natC <| pairC natC <| pairC natC <| natC)

def GArrival.codec : Codec GArrival := isoC (fun (x : GArrival) => (x.member, x.cl, x.chan, x.tag))
  (fun t => { member := t.1, cl := t.2.1, chan := t.2.2.1, tag := t.2.2.2 })
  (pairC natC <| pairC natC <| pairC natC <| natC)

def GBarrier.codec : Codec GBarrier := isoC (fun (x : GBarrier) => (x.phase, x.arrivals))
  (fun t => { phase := t.1, arrivals := t.2 })
  (pairC natC <| (listC GArrival.codec))

def Gang.codec : Codec Gang := isoC (fun (x : Gang) => (x.launch, x.members, x.barriers, x.done))
  (fun t => { launch := t.1, members := t.2.1, barriers := t.2.2.1, done := t.2.2.2 })
  (pairC Launch.codec <| pairC (listC Member.codec) <| pairC (listC GBarrier.codec) <| boolC)

def Mk.codec : Codec Mk := isoC
  (fun (m : Mk) => (match m with | .none => Option.none | .eos => some Option.none | .eod l => some (some l) : Option (Option Nat)))
  (fun m => match m with | Option.none => .none | some Option.none => .eos | some (some l) => .eod l)
  (optC (optC natC))

def Token.codec : Codec Token := isoC (fun (x : Token) => (x.lanes, x.valid, x.pmask, x.tag, x.mcode, x.lvl, x.cmp, x.run,
    x.nseq, x.cns, x.last, x.prov))
  (fun t => { lanes := t.1, valid := t.2.1, pmask := t.2.2.1, tag := t.2.2.2.1, mcode := t.2.2.2.2.1,
              lvl := t.2.2.2.2.2.1, cmp := t.2.2.2.2.2.2.1, run := t.2.2.2.2.2.2.2.1, nseq := t.2.2.2.2.2.2.2.2.1,
              cns := t.2.2.2.2.2.2.2.2.2.1, last := t.2.2.2.2.2.2.2.2.2.2.1, prov := t.2.2.2.2.2.2.2.2.2.2.2 })
  (pairC (listC (bitsC 32)) <| pairC (bitsC 16) <| pairC (bitsC 16) <| pairC natC <| pairC natC <| pairC natC <| pairC boolC <|
    pairC natC <| pairC natC <| pairC boolC <| pairC boolC <| natC)

def BufEnt.codec : Codec BufEnt := isoC (fun (x : BufEnt) => (x.tok, x.cfg, x.taken))
  (fun t => { tok := t.1, cfg := t.2.1, taken := t.2.2 })
  (pairC Token.codec <| pairC natC <| (listC (pairC natC natC)))

def OutTok.codec : Codec OutTok := isoC (fun (x : OutTok) => (x.tok, x.fids, x.served))
  (fun t => { tok := t.1, fids := t.2.1, served := t.2.2 })
  (pairC Token.codec <| pairC (listC natC) <| (listC natC))

def Firing.codec : Codec Firing := isoC (fun (x : Firing) => (x.ids, x.fall))
  (fun t => { ids := t.1, fall := t.2 })
  (pairC (listC natC) <| natC)

def KillRec.codec : Codec KillRec := isoC (fun (x : KillRec) => (x.port, x.unit, x.mask))
  (fun t => { port := t.1, unit := t.2.1, mask := t.2.2 })
  (pairC natC <| pairC natC <| (bitsC 16))

def Links.codec : Codec Links := isoC (fun (x : Links) => (x.bufs, x.outs, x.firings, x.nextId, x.kept, x.units, x.kills,
    x.slotEos, x.digIn, x.tagA, x.prov))
  (fun t => { bufs := t.1, outs := t.2.1, firings := t.2.2.1, nextId := t.2.2.2.1, kept := t.2.2.2.2.1,
              units := t.2.2.2.2.2.1, kills := t.2.2.2.2.2.2.1, slotEos := t.2.2.2.2.2.2.2.1,
              digIn := t.2.2.2.2.2.2.2.2.1, tagA := t.2.2.2.2.2.2.2.2.2.1, prov := t.2.2.2.2.2.2.2.2.2.2 })
  (pairC (listC (pairC natC (listC BufEnt.codec))) <| pairC (listC (pairC natC (listC OutTok.codec))) <| pairC (listC
    Firing.codec) <| pairC natC <| pairC natC <| pairC (listC (pairC natC natC)) <| pairC (listC KillRec.codec) <| pairC (listC
    natC) <| pairC (listC natC) <| pairC (optC natC) <| natC)

def KillMsg.codec : Codec KillMsg := isoC (fun (x : KillMsg) => (x.unit, x.port, x.kseq, x.mask, x.cfg))
  (fun t => { unit := t.1, port := t.2.1, kseq := t.2.2.1, mask := t.2.2.2.1, cfg := t.2.2.2.2 })
  (pairC natC <| pairC natC <| pairC natC <| pairC (bitsC 16) <| natC)

def TileCfg.codec : Codec TileCfg := isoC (fun (x : TileCfg) => (x.pe, x.mts, x.consts, x.pols, x.hold, x.sw, x.mtData, x.cfg,
    x.image))
  (fun t => { pe := t.1, mts := t.2.1, consts := t.2.2.1, pols := t.2.2.2.1, hold := t.2.2.2.2.1, sw := t.2.2.2.2.2.1,
              mtData := t.2.2.2.2.2.2.1, cfg := t.2.2.2.2.2.2.2.1, image := t.2.2.2.2.2.2.2.2 })
  (pairC (bitsC 32) <| pairC (listC (pairC natC (bitsC 32))) <| pairC (listC (pairC natC (pairC (listC (bitsC 32)) natC))) <|
    pairC (listC (pairC natC natC)) <| pairC (optC Token.codec) <| pairC (listC (pairC natC natC)) <| pairC (listC (pairC natC
    natC)) <| pairC natC <| (bitsC 64))

def DNum.codec : Codec DNum := isoC (fun (x : DNum) => (x.spec, x.e, x.digits, x.bad))
  (fun t => { spec := t.1, e := t.2.1, digits := t.2.2.1, bad := t.2.2.2 })
  (pairC boolC <| pairC natC <| pairC (listC intC) <| boolC)

def NumBuf.codec : Codec NumBuf := isoC (fun (x : NumBuf) => (x.valid, x.pmask, x.lanes, x.toks, x.fin, x.mark, x.unit,
    x.wordFed, x.cns, x.cnsW))
  (fun t => { valid := t.1, pmask := t.2.1, lanes := t.2.2.1, toks := t.2.2.2.1, fin := t.2.2.2.2.1,
              mark := t.2.2.2.2.2.1, unit := t.2.2.2.2.2.2.1, wordFed := t.2.2.2.2.2.2.2.1, cns := t.2.2.2.2.2.2.2.2.1,
              cnsW := t.2.2.2.2.2.2.2.2.2 })
  (pairC (bitsC 16) <| pairC (bitsC 16) <| pairC (listC DNum.codec) <| pairC natC <| pairC boolC <| pairC Mk.codec <| pairC natC
    <| pairC boolC <| pairC (listC natC) <| natC)

def DItem.codec : Codec DItem := isoC
  (fun e => match e with | .num n => .inl n | .mark m => .inr m)
  (fun e => match e with | .inl n => .num n | .inr m => .mark m)
  (sumC NumBuf.codec Mk.codec)

def OpSt.codec : Codec OpSt := isoC (fun (x : OpSt) => (x.grpPos, x.grp, x.grpValid, x.grpPoison, x.grpMk, x.parts, x.step,
    x.poisoned, x.carry, x.prev, x.count, x.decision, x.chosen, x.closed, x.bits, x.frames, x.framed, x.ready, x.items,
    x.hdrSent, x.sent, x.pred, x.idTok, x.picks, x.marked, x.decided, x.opened, x.closing, x.champ, x.ident, x.racePoison,
    x.acc, x.accSpec, x.accAny, x.accPoison, x.readyCns, x.stash, x.champFrom, x.champCns, x.races))
  (fun t => { grpPos := t.1, grp := t.2.1, grpValid := t.2.2.1, grpPoison := t.2.2.2.1, grpMk := t.2.2.2.2.1,
              parts := t.2.2.2.2.2.1, step := t.2.2.2.2.2.2.1, poisoned := t.2.2.2.2.2.2.2.1,
              carry := t.2.2.2.2.2.2.2.2.1, prev := t.2.2.2.2.2.2.2.2.2.1, count := t.2.2.2.2.2.2.2.2.2.2.1,
              decision := t.2.2.2.2.2.2.2.2.2.2.2.1, chosen := t.2.2.2.2.2.2.2.2.2.2.2.2.1,
              closed := t.2.2.2.2.2.2.2.2.2.2.2.2.2.1, bits := t.2.2.2.2.2.2.2.2.2.2.2.2.2.2.1,
              frames := t.2.2.2.2.2.2.2.2.2.2.2.2.2.2.2.1, framed := t.2.2.2.2.2.2.2.2.2.2.2.2.2.2.2.2.1,
              ready := t.2.2.2.2.2.2.2.2.2.2.2.2.2.2.2.2.2.1, items := t.2.2.2.2.2.2.2.2.2.2.2.2.2.2.2.2.2.2.1,
              hdrSent := t.2.2.2.2.2.2.2.2.2.2.2.2.2.2.2.2.2.2.2.1, sent := t.2.2.2.2.2.2.2.2.2.2.2.2.2.2.2.2.2.2.2.2.1,
              pred := t.2.2.2.2.2.2.2.2.2.2.2.2.2.2.2.2.2.2.2.2.2.1,
              idTok := t.2.2.2.2.2.2.2.2.2.2.2.2.2.2.2.2.2.2.2.2.2.2.1,
              picks := t.2.2.2.2.2.2.2.2.2.2.2.2.2.2.2.2.2.2.2.2.2.2.2.1,
              marked := t.2.2.2.2.2.2.2.2.2.2.2.2.2.2.2.2.2.2.2.2.2.2.2.2.1,
              decided := t.2.2.2.2.2.2.2.2.2.2.2.2.2.2.2.2.2.2.2.2.2.2.2.2.2.1,
              opened := t.2.2.2.2.2.2.2.2.2.2.2.2.2.2.2.2.2.2.2.2.2.2.2.2.2.2.1,
              closing := t.2.2.2.2.2.2.2.2.2.2.2.2.2.2.2.2.2.2.2.2.2.2.2.2.2.2.2.1,
              champ := t.2.2.2.2.2.2.2.2.2.2.2.2.2.2.2.2.2.2.2.2.2.2.2.2.2.2.2.2.1,
              ident := t.2.2.2.2.2.2.2.2.2.2.2.2.2.2.2.2.2.2.2.2.2.2.2.2.2.2.2.2.2.1,
              racePoison := t.2.2.2.2.2.2.2.2.2.2.2.2.2.2.2.2.2.2.2.2.2.2.2.2.2.2.2.2.2.2.1,
              acc := t.2.2.2.2.2.2.2.2.2.2.2.2.2.2.2.2.2.2.2.2.2.2.2.2.2.2.2.2.2.2.2.1,
              accSpec := t.2.2.2.2.2.2.2.2.2.2.2.2.2.2.2.2.2.2.2.2.2.2.2.2.2.2.2.2.2.2.2.2.1,
              accAny := t.2.2.2.2.2.2.2.2.2.2.2.2.2.2.2.2.2.2.2.2.2.2.2.2.2.2.2.2.2.2.2.2.2.1,
              accPoison := t.2.2.2.2.2.2.2.2.2.2.2.2.2.2.2.2.2.2.2.2.2.2.2.2.2.2.2.2.2.2.2.2.2.2.1,
              readyCns := t.2.2.2.2.2.2.2.2.2.2.2.2.2.2.2.2.2.2.2.2.2.2.2.2.2.2.2.2.2.2.2.2.2.2.2.1,
              stash := t.2.2.2.2.2.2.2.2.2.2.2.2.2.2.2.2.2.2.2.2.2.2.2.2.2.2.2.2.2.2.2.2.2.2.2.2.1,
              champFrom := t.2.2.2.2.2.2.2.2.2.2.2.2.2.2.2.2.2.2.2.2.2.2.2.2.2.2.2.2.2.2.2.2.2.2.2.2.2.1,
              champCns := t.2.2.2.2.2.2.2.2.2.2.2.2.2.2.2.2.2.2.2.2.2.2.2.2.2.2.2.2.2.2.2.2.2.2.2.2.2.2.1,
              races := t.2.2.2.2.2.2.2.2.2.2.2.2.2.2.2.2.2.2.2.2.2.2.2.2.2.2.2.2.2.2.2.2.2.2.2.2.2.2.2 })
  (pairC natC <| pairC (listC natC) <| pairC (bitsC 16) <| pairC (bitsC 16) <| pairC Mk.codec <| pairC (listC (pairC natC natC))
    <| pairC natC <| pairC boolC <| pairC (optC natC) <| pairC natC <| pairC natC <| pairC (optC boolC) <| pairC (optC natC) <|
    pairC (optC natC) <| pairC (listC (pairC boolC boolC)) <| pairC (listC (pairC natC NumBuf.codec)) <| pairC (listC (pairC
    natC (listC NumBuf.codec))) <| pairC (listC (pairC natC (listC Token.codec))) <| pairC (listC (pairC natC (listC
    DItem.codec))) <| pairC boolC <| pairC natC <| pairC (optC Token.codec) <| pairC (optC Token.codec) <| pairC (listC (pairC
    natC natC)) <| pairC boolC <| pairC (bitsC 16) <| pairC boolC <| pairC (optC Mk.codec) <| pairC (listC (pairC natC
    DNum.codec)) <| pairC (listC (pairC natC natC)) <| pairC (bitsC 16) <| pairC (listC (pairC natC intC)) <| pairC (listC
    (pairC natC natC)) <| pairC (bitsC 16) <| pairC (bitsC 16) <| pairC (listC (pairC natC natC)) <| pairC natC <| pairC (listC
    (pairC natC natC)) <| pairC (listC (pairC natC natC)) <| natC)

def MtQueue.codec : Codec MtQueue := isoC (fun (x : MtQueue) => (x.toks, x.stored, x.flush, x.base, x.depth))
  (fun t => { toks := t.1, stored := t.2.1, flush := t.2.2.1, base := t.2.2.2.1, depth := t.2.2.2.2 })
  (pairC (listC Token.codec) <| pairC natC <| pairC boolC <| pairC natC <| natC)

def AgCfg.codec : Codec AgCfg := isoC (fun (x : AgCfg) => (x.word, x.shape, x.bind, x.cfg, x.image))
  (fun t => { word := t.1, shape := t.2.1, bind := t.2.2.1, cfg := t.2.2.2.1, image := t.2.2.2.2 })
  (pairC (bitsC 32) <| pairC natC <| pairC (optC Bind.codec) <| pairC natC <| (bitsC 64))

def AgPos.codec : Codec AgPos := isoC (fun (x : AgPos) => (x.a, x.b, x.lane, x.out, x.valid, x.pmask, x.mark))
  (fun t => { a := t.1, b := t.2.1, lane := t.2.2.1, out := t.2.2.2.1, valid := t.2.2.2.2.1, pmask := t.2.2.2.2.2.1,
              mark := t.2.2.2.2.2.2 })
  (pairC (optC Token.codec) <| pairC (optC Token.codec) <| pairC natC <| pairC (listC natC) <| pairC (bitsC 16) <| pairC (bitsC
    16) <| Mk.codec)

def AgPhase.codec : Codec AgPhase := isoC
  (fun (m : AgPhase) => match m with | .walk => none | .drain => some none | .start b => some (some b))
  (fun m => match m with | none => .walk | some none => .drain | some (some b) => .start b)
  (optC (optC boolC))

def BlockTab.codec : Codec BlockTab := isoC (fun (x : BlockTab) => (x.entries, x.hpool, x.cpool, x.len, x.bshift, x.tshift))
  (fun t => { entries := t.1, hpool := t.2.1, cpool := t.2.2.1, len := t.2.2.2.1, bshift := t.2.2.2.2.1,
              tshift := t.2.2.2.2.2 })
  (pairC natC <| pairC natC <| pairC natC <| pairC natC <| pairC natC <| natC)

def Ag.codec : Codec Ag := isoC (fun (x : Ag) => (x.fg, x.bg, x.prev, x.lk, x.params, x.base, x.ext, x.phase, x.empty, x.final,
    x.licensed, x.cnt, x.rounds, x.past, x.maskTok, x.row, x.desc, x.block, x.cur, x.owed, x.stopped, x.fault, x.fseq, x.inVc))
  (fun t => { fg := t.1, bg := t.2.1, prev := t.2.2.1, lk := t.2.2.2.1, params := t.2.2.2.2.1, base := t.2.2.2.2.2.1,
              ext := t.2.2.2.2.2.2.1, phase := t.2.2.2.2.2.2.2.1, empty := t.2.2.2.2.2.2.2.2.1,
              final := t.2.2.2.2.2.2.2.2.2.1, licensed := t.2.2.2.2.2.2.2.2.2.2.1, cnt := t.2.2.2.2.2.2.2.2.2.2.2.1,
              rounds := t.2.2.2.2.2.2.2.2.2.2.2.2.1, past := t.2.2.2.2.2.2.2.2.2.2.2.2.2.1,
              maskTok := t.2.2.2.2.2.2.2.2.2.2.2.2.2.2.1, row := t.2.2.2.2.2.2.2.2.2.2.2.2.2.2.2.1,
              desc := t.2.2.2.2.2.2.2.2.2.2.2.2.2.2.2.2.1, block := t.2.2.2.2.2.2.2.2.2.2.2.2.2.2.2.2.2.1,
              cur := t.2.2.2.2.2.2.2.2.2.2.2.2.2.2.2.2.2.2.1, owed := t.2.2.2.2.2.2.2.2.2.2.2.2.2.2.2.2.2.2.2.1,
              stopped := t.2.2.2.2.2.2.2.2.2.2.2.2.2.2.2.2.2.2.2.2.1,
              fault := t.2.2.2.2.2.2.2.2.2.2.2.2.2.2.2.2.2.2.2.2.2.1,
              fseq := t.2.2.2.2.2.2.2.2.2.2.2.2.2.2.2.2.2.2.2.2.2.2.1,
              inVc := t.2.2.2.2.2.2.2.2.2.2.2.2.2.2.2.2.2.2.2.2.2.2.2 })
  (pairC (optC AgCfg.codec) <| pairC (optC AgCfg.codec) <| pairC (optC AgCfg.codec) <| pairC Links.codec <| pairC (listC (pairC
    Token.codec boolC)) <| pairC natC <| pairC (listC natC) <| pairC AgPhase.codec <| pairC boolC <| pairC boolC <| pairC boolC
    <| pairC (listC natC) <| pairC natC <| pairC boolC <| pairC (optC Token.codec) <| pairC natC <| pairC (optC BlockTab.codec)
    <| pairC (optC natC) <| pairC (optC AgPos.codec) <| pairC (listC boolC) <| pairC boolC <| pairC natC <| pairC natC <| (listC
    natC))

def PortBlk.codec : Codec PortBlk := isoC (fun (x : PortBlk) => (x.lines, x.valid, x.pmask, x.toks))
  (fun t => { lines := t.1, valid := t.2.1, pmask := t.2.2.1, toks := t.2.2.2 })
  (pairC (listC bytesC) <| pairC (bitsC 16) <| pairC (bitsC 16) <| natC)

def IslePort.codec : Codec IslePort := isoC (fun (x : IslePort) => (x.buf, x.used, x.got, x.cur, x.ended, x.unit, x.toKill,
    x.fall))
  (fun t => { buf := t.1, used := t.2.1, got := t.2.2.1, cur := t.2.2.2.1, ended := t.2.2.2.2.1, unit := t.2.2.2.2.2.1,
              toKill := t.2.2.2.2.2.2.1, fall := t.2.2.2.2.2.2.2 })
  (pairC (listC BufEnt.codec) <| pairC boolC <| pairC (listC (optC PortBlk.codec)) <| pairC PortBlk.codec <| pairC boolC <| pairC
    natC <| pairC natC <| natC)

def Isle.codec : Codec Isle := isoC (fun (x : Isle) => (x.fg, x.bg, x.cfg, x.bgCfg, x.image, x.bgImage, x.ipc, x.acc, x.atype,
    x.score, x.mask, x.prob, x.pfmt, x.m, x.l, x.qbuf, x.kc, x.skip, x.table, x.dreg, x.flags, x.err, x.ended, x.empty,
    x.deadcnt, x.lastA, x.lastB, x.f0, x.f1, x.pushing, x.pushRing, x.done, x.cyc))
  (fun t => { fg := t.1, bg := t.2.1, cfg := t.2.2.1, bgCfg := t.2.2.2.1, image := t.2.2.2.2.1, bgImage := t.2.2.2.2.2.1,
              ipc := t.2.2.2.2.2.2.1, acc := t.2.2.2.2.2.2.2.1, atype := t.2.2.2.2.2.2.2.2.1,
              score := t.2.2.2.2.2.2.2.2.2.1, mask := t.2.2.2.2.2.2.2.2.2.2.1, prob := t.2.2.2.2.2.2.2.2.2.2.2.1,
              pfmt := t.2.2.2.2.2.2.2.2.2.2.2.2.1, m := t.2.2.2.2.2.2.2.2.2.2.2.2.2.1,
              l := t.2.2.2.2.2.2.2.2.2.2.2.2.2.2.1, qbuf := t.2.2.2.2.2.2.2.2.2.2.2.2.2.2.2.1,
              kc := t.2.2.2.2.2.2.2.2.2.2.2.2.2.2.2.2.1, skip := t.2.2.2.2.2.2.2.2.2.2.2.2.2.2.2.2.2.1,
              table := t.2.2.2.2.2.2.2.2.2.2.2.2.2.2.2.2.2.2.1, dreg := t.2.2.2.2.2.2.2.2.2.2.2.2.2.2.2.2.2.2.2.1,
              flags := t.2.2.2.2.2.2.2.2.2.2.2.2.2.2.2.2.2.2.2.2.1,
              err := t.2.2.2.2.2.2.2.2.2.2.2.2.2.2.2.2.2.2.2.2.2.1,
              ended := t.2.2.2.2.2.2.2.2.2.2.2.2.2.2.2.2.2.2.2.2.2.2.1,
              empty := t.2.2.2.2.2.2.2.2.2.2.2.2.2.2.2.2.2.2.2.2.2.2.2.1,
              deadcnt := t.2.2.2.2.2.2.2.2.2.2.2.2.2.2.2.2.2.2.2.2.2.2.2.2.1,
              lastA := t.2.2.2.2.2.2.2.2.2.2.2.2.2.2.2.2.2.2.2.2.2.2.2.2.2.1,
              lastB := t.2.2.2.2.2.2.2.2.2.2.2.2.2.2.2.2.2.2.2.2.2.2.2.2.2.2.1,
              f0 := t.2.2.2.2.2.2.2.2.2.2.2.2.2.2.2.2.2.2.2.2.2.2.2.2.2.2.2.1,
              f1 := t.2.2.2.2.2.2.2.2.2.2.2.2.2.2.2.2.2.2.2.2.2.2.2.2.2.2.2.2.1,
              pushing := t.2.2.2.2.2.2.2.2.2.2.2.2.2.2.2.2.2.2.2.2.2.2.2.2.2.2.2.2.2.1,
              pushRing := t.2.2.2.2.2.2.2.2.2.2.2.2.2.2.2.2.2.2.2.2.2.2.2.2.2.2.2.2.2.2.1,
              done := t.2.2.2.2.2.2.2.2.2.2.2.2.2.2.2.2.2.2.2.2.2.2.2.2.2.2.2.2.2.2.2.1,
              cyc := t.2.2.2.2.2.2.2.2.2.2.2.2.2.2.2.2.2.2.2.2.2.2.2.2.2.2.2.2.2.2.2.2 })
  (pairC (optC (listC (bitsC 32))) <| pairC (optC (listC (bitsC 32))) <| pairC natC <| pairC natC <| pairC (bitsC 64) <| pairC
    (bitsC 64) <| pairC natC <| pairC (listC (pairC natC natC)) <| pairC natC <| pairC (listC (pairC natC natC)) <| pairC (listC
    natC) <| pairC (listC (pairC natC natC)) <| pairC natC <| pairC (listC (pairC natC natC)) <| pairC (listC (pairC natC natC))
    <| pairC (optC (pairC bytesC (listC natC))) <| pairC natC <| pairC boolC <| pairC (listC (pairC natC natC)) <| pairC (listC
    (pairC natC natC)) <| pairC natC <| pairC natC <| pairC boolC <| pairC natC <| pairC natC <| pairC natC <| pairC natC <|
    pairC IslePort.codec <| pairC IslePort.codec <| pairC (listC bytesC) <| pairC natC <| pairC boolC <| natC)

def PCmd.codec : Codec PCmd := isoC (fun (x : PCmd) => (x.desc, x.seq, x.ctx, x.started, x.units, x.spos, x.dpos, x.chain,
    x.chainBad, x.poisoned, x.finished, x.status, x.lvl, x.fva))
  (fun t => { desc := t.1, seq := t.2.1, ctx := t.2.2.1, started := t.2.2.2.1, units := t.2.2.2.2.1,
              spos := t.2.2.2.2.2.1, dpos := t.2.2.2.2.2.2.1, chain := t.2.2.2.2.2.2.2.1,
              chainBad := t.2.2.2.2.2.2.2.2.1, poisoned := t.2.2.2.2.2.2.2.2.2.1, finished := t.2.2.2.2.2.2.2.2.2.2.1,
              status := t.2.2.2.2.2.2.2.2.2.2.2.1, lvl := t.2.2.2.2.2.2.2.2.2.2.2.2.1,
              fva := t.2.2.2.2.2.2.2.2.2.2.2.2.2 })
  (pairC natC <| pairC natC <| pairC natC <| pairC boolC <| pairC natC <| pairC natC <| pairC natC <| pairC bytesC <| pairC boolC
    <| pairC boolC <| pairC boolC <| pairC natC <| pairC natC <| natC)

def PEnt.codec : Codec PEnt := isoC
  (fun e => match e with | .cmd c => .inl c | .marker n => .inr n)
  (fun e => match e with | .inl c => .cmd c | .inr n => .marker n)
  (sumC PCmd.codec natC)

def SlotSt.codec : Codec SlotSt := isoC
  (fun (m : SlotSt) => match m with | .free => none | .request => some none | .lease => some (some false) | .closing => some (some true))
  (fun m => match m with | none => .free | some none => .request | some (some false) => .lease | some (some true) => .closing)
  (optC (optC boolC))

def LeaseSlot.codec : Codec LeaseSlot := isoC (fun (x : LeaseSlot) => (x.gen, x.st, x.ctx, x.kind, x.prio, x.chan, x.tag,
    x.praline, x.grant, x.unit, x.asked, x.q, x.next))
  (fun t => { gen := t.1, st := t.2.1, ctx := t.2.2.1, kind := t.2.2.2.1, prio := t.2.2.2.2.1, chan := t.2.2.2.2.2.1,
              tag := t.2.2.2.2.2.2.1, praline := t.2.2.2.2.2.2.2.1, grant := t.2.2.2.2.2.2.2.2.1,
              unit := t.2.2.2.2.2.2.2.2.2.1, asked := t.2.2.2.2.2.2.2.2.2.2.1, q := t.2.2.2.2.2.2.2.2.2.2.2.1,
              next := t.2.2.2.2.2.2.2.2.2.2.2.2 })
  (pairC natC <| pairC SlotSt.codec <| pairC natC <| pairC natC <| pairC natC <| pairC natC <| pairC natC <| pairC natC <| pairC
    natC <| pairC natC <| pairC boolC <| pairC (listC PEnt.codec) <| natC)

def XCmd.codec : Codec XCmd := isoC (fun (x : XCmd) => (x.desc, x.seq, x.ctx, x.cl, x.started, x.entry, x.pkgs, x.written,
    x.poisoned, x.finished, x.status, x.lvl, x.fva))
  (fun t => { desc := t.1, seq := t.2.1, ctx := t.2.2.1, cl := t.2.2.2.1, started := t.2.2.2.2.1, entry := t.2.2.2.2.2.1,
              pkgs := t.2.2.2.2.2.2.1, written := t.2.2.2.2.2.2.2.1, poisoned := t.2.2.2.2.2.2.2.2.1,
              finished := t.2.2.2.2.2.2.2.2.2.1, status := t.2.2.2.2.2.2.2.2.2.2.1, lvl := t.2.2.2.2.2.2.2.2.2.2.2.1,
              fva := t.2.2.2.2.2.2.2.2.2.2.2.2 })
  (pairC natC <| pairC natC <| pairC natC <| pairC natC <| pairC boolC <| pairC natC <| pairC (listC natC) <| pairC natC <| pairC
    boolC <| pairC boolC <| pairC natC <| pairC natC <| natC)

def XEnt.codec : Codec XEnt := isoC
  (fun e => match e with | .cmd c => .inl c | .marker n c => .inr (n, c))
  (fun e => match e with | .inl c => .cmd c | .inr n => .marker n.1 n.2)
  (sumC XCmd.codec (pairC natC natC))

def EngRec.codec : Codec EngRec := isoC (fun (x : EngRec) => (x.cqs, x.stamp, x.bars, x.leases, x.notes, x.xcmds, x.chans,
    x.launches, x.held, x.bankReq, x.stages, x.wires, x.poison, x.task, x.frun, x.gangs, x.spill))
  (fun t => { cqs := t.1, stamp := t.2.1, bars := t.2.2.1, leases := t.2.2.2.1, notes := t.2.2.2.2.1,
              xcmds := t.2.2.2.2.2.1, chans := t.2.2.2.2.2.2.1, launches := t.2.2.2.2.2.2.2.1,
              held := t.2.2.2.2.2.2.2.2.1, bankReq := t.2.2.2.2.2.2.2.2.2.1, stages := t.2.2.2.2.2.2.2.2.2.2.1,
              wires := t.2.2.2.2.2.2.2.2.2.2.2.1, poison := t.2.2.2.2.2.2.2.2.2.2.2.2.1,
              task := t.2.2.2.2.2.2.2.2.2.2.2.2.2.1, frun := t.2.2.2.2.2.2.2.2.2.2.2.2.2.2.1,
              gangs := t.2.2.2.2.2.2.2.2.2.2.2.2.2.2.2.1, spill := t.2.2.2.2.2.2.2.2.2.2.2.2.2.2.2.2 })
  (pairC (listC (pairC natC CopyQueue.codec)) <| pairC natC <| pairC (listC (pairC natC Barrier.codec)) <| pairC (listC (pairC
    natC LeaseSlot.codec)) <| pairC (listC (pairC natC natC)) <| pairC (listC (pairC natC (pairC natC XEnt.codec))) <| pairC
    (listC natC) <| pairC (listC (optC natC)) <| pairC (listC Held.codec) <| pairC BankReq.codec <| pairC (listC (pairC natC
    Stage.codec)) <| pairC (listC KillMsg.codec) <| pairC (listC natC) <| pairC (optC (pairC Task.codec boolC)) <| pairC boolC
    <| pairC (listC (pairC natC Gang.codec)) <| (listC bytesC))

end Sys2Proof.Machine
end

