-- ==== Sys2Proof/Machine/SaveImage.lean ====
section
/-! DEFINITION. Save images (R420 to R422): the sections that a save writes, and what an image holds. -/

namespace Sys2Proof.Machine

/-! ### The save image -/

/-- A section: type, cluster, grade, handle, gang, payload. -/
structure Sect where
  ty : Nat
  cl : Nat
  coop : Bool
  handle : Nat := 0
  gang : Nat := 0
  body : List (Byte × Bool)

/-- Bytes up to the next multiple of 64. -/
def padTo64 (n : Nat) : List (Byte × Bool) := List.replicate ((64 - n % 64) % 64) (0#8, false)

/-- Unpoisoned bytes. -/
def clean (bs : List Byte) : List (Byte × Bool) := bs.map (fun b => (b, false))

/-- A section with its header, filled up to 64 bytes. -/
def Sect.bytes (x : Sect) : List (Byte × Bool) :=
  let h := x.ty + x.cl * 2 ^ 8 + b2n x.coop * 2 ^ 16 + x.body.length * 2 ^ 64 + x.handle * 2 ^ 128 + x.gang * 2 ^ 144
  let b := clean (toBytes 32 h) ++ x.body
  b ++ padTo64 b.length

/-- The 32 bytes of a message. -/
def Msg.bytes (m : Msg) : List Byte := toBytes 8 m.w0.toNat ++ toBytes 8 m.w1.toNat ++ toBytes 8 m.w2.toNat ++ toBytes 8 m.w3.toNat

/-- The channels that are bound in a context, and its queued messages by channel. -/
def Cluster.boundIn (k : Cluster) (x : Nat) : Tab Channel := k.chans.filter (fun e => qBound e.2.q && qCtx e.2.q == x)
def Cluster.msgsOf (k : Cluster) (x : Nat) : List (Nat × QMsg) :=
  k.chans.flatMap (fun e => (e.2.queue.filter (fun m => m.ctx == x)).map (fun m => (e.1, m)))

/-- Section CHANNELS: bindings, then messages, then the fault records of the context's AGs. -/
def Cluster.chanSect (k : Cluster) (x : Nat) : List Byte :=
  let faults := k.resids.flatMap (fun e =>
    if e.2.live && e.2.ctx == x then (e.2.ags.filter (fun a => (k.ag a).stopped)).map (fun a => (k.ag a).fault) else [])
  (k.boundIn x).flatMap (fun e => toBytes 8 e.2.entry.toNat ++ toBytes 8 e.2.q.toNat) ++
  (k.msgsOf x).flatMap (fun e => toBytes 8 e.1 ++ e.2.msg.bytes) ++ faults.flatMap (fun f => toBytes 64 f)

/-- Section LOCAL, with the marks of poisoned words. -/
def Cluster.localSect (k : Cluster) : List (Byte × Bool) :=
  clean (toBytes 8 (k.bankSt 0 32) ++ toBytes 8 (k.bankSt 32 16) ++
    (List.range 16).flatMap (fun r => (List.range 8).flatMap (fun i => toBytes 8 ((k.ring r).dword i))) ++
    (List.range 48).flatMap (fun b => (List.range 4).flatMap (fun i => toBytes 8 (k.bqDword b i)))) ++
  ((List.range 48).filter (fun b => k.mode b != mWays)).flatMap (fun b =>
    (List.range 0x10000).map (fun i => (k.sram.byte (b * 0x10000 + i), k.sramPoison.contains ((b * 0x10000 + i) / 32))))

/-- Section TASK. -/
def Suspended.sect (t : Suspended) (mcLost : Bool) : List Byte :=
  (t.regs.toList.drop 1).flatMap (fun r => toBytes 8 r.toNat) ++
    [t.pc.toNat, b2n t.inTrap + 4 * b2n mcLost, t.task.chan + t.task.ctx * 16, t.tcause.toNat, t.tpc.toNat, t.tval.toNat,
     t.tvec.toNat, t.stackbase.toNat, t.brkpc.toNat].flatMap (fun v => toBytes 8 v)

/-- The fields that the first 64 bytes of section RESID lay out. -/
def Resid.head (x : Resid) : List Byte :=
  toBytes 8 (x.w + x.h * 2 ^ 8 + x.origin * 2 ^ 16) ++ toBytes 8 x.image.toNat ++ toBytes 8 x.fgImage.toNat ++
  toBytes 8 x.rseed ++ toBytes 8 (x.echan + b2n x.emsg * 2 ^ 8 + x.tag * 2 ^ 16) ++ toBytes 8 x.iterva.toNat ++
  toBytes 8 x.census ++ toBytes 8 (b2n x.csat)

/-- The tiles of a residency in ascending Y and X. -/
def Resid.rowTiles (x : Resid) : List Nat := sortBy (fun a b => decide (a < b)) x.tiles

/-! ### Places (R421, R422)

The spec gives what a record holds and how large it is.  An encoding stands in its place from the first byte on, zeros behind it;
the bytes that have no room there go to the spill of section ENGINES, one entry for each place in turn (assumption 57). -/

/-- An encoding in a place of `n` bytes, and the bytes beyond. -/
def inPlace (n : Nat) (bs : List Byte) : List Byte × List Byte := (bs.take n ++ List.replicate (n - bs.length) 0#8, bs.drop n)

/-- Reads a place with the next entry of the spill. -/
def getAt {α : Type} (c : Codec α) (place : List Byte) : List (List Byte) → Option (α × List (List Byte))
  | [] => none
  | s :: ss => (c.get (place ++ s)).map (fun r => (r.1, ss))

/-- The token in receive entry `n` of a tile, 8 inputs by 4 channels by 2; in its output register `o`. -/
def Tile.entry (t : Tile) (n : Nat) : Option Token := ((t.lk.bufs.get (n / 2) [])[n % 2]?).map BufEnt.tok
def Tile.outReg (t : Tile) (o : Nat) : Option Token := (t.lk.out o).head?.map OutTok.tok

/-- The 72 bytes of a place for a token. -/
def rawOf (t : Option Token) : List Byte := match t with | none => List.replicate 72 0 | some t => t.raw

/-- The occupancy masks: the receive entries, then the output registers. -/
def Tile.occupancy (t : Tile) : Nat :=
  ((List.range 64).map (fun n => b2n (t.entry n).isSome * 2 ^ n)).sum +
  ((List.range 6).map (fun o => b2n (t.outReg o).isSome * 2 ^ (64 + o))).sum

/-- What of a token its 72 bytes do not hold; the token from both. -/
def Token.stub (t : Token) : Token := { lanes := [], last := t.last, prov := t.prov }
def Token.refill (t raw : Token) : Token := { raw with last := t.last, prov := t.prov }

/-- A tile's links without the tokens of its receive entries and output registers and without the remembered masks. -/
def Links.stubs (l : Links) : Links :=
  { l with
    kills := [],
    bufs := l.bufs.map (fun e => (e.1, (e.2.take 2).map (fun b => { b with tok := b.tok.stub }) ++ e.2.drop 2)),
    outs := l.outs.map (fun e => (e.1, (e.2.take 1).map (fun o => { o with tok := o.tok.stub }) ++ e.2.drop 1)) }

/-- The links with the tokens back in their places. -/
def Links.refilled (l : Links) (tok : Nat → Option Token) (kills : List KillRec) : Links :=
  { l with
    kills := kills,
    bufs := l.bufs.map (fun e => (e.1, (e.2.take 2).zipIdx.map (fun b => match tok (2 * e.1 + b.2) with
      | some t => { b.1 with tok := b.1.tok.refill t }
      | none => b.1) ++ e.2.drop 2)),
    outs := l.outs.map (fun e => (e.1, (e.2.take 1).map (fun o => match tok (64 + e.1) with
      | some t => { o with tok := o.tok.refill t }
      | none => o) ++ e.2.drop 1)) }

/-- What a tile holds beside its configuration slots, entries, flags, masks and contents. -/
def Tile.rest (t : Tile) : OpSt × Nat × Links × Tab MtQueue × List Nat × List Nat :=
  (t.op, t.fidx, t.lk.stubs, t.queues, t.swEos, t.inVc)

def restC : Codec (OpSt × Nat × Links × Tab MtQueue × List Nat × List Nat) :=
  pairC OpSt.codec <| pairC natC <| pairC Links.codec <| pairC (listC (pairC natC MtQueue.codec)) <| pairC (listC natC) (listC natC)

/-- Sticky flags and remembered kill masks. -/
def marksC : Codec (Nat × List KillRec) := pairC natC (listC KillRec.codec)

/-- What a cooperative record leaves out, for the spill: the number of the foreground configuration, and the rest. -/
def coopC : Codec (Option Nat × (OpSt × Nat × Links × Tab MtQueue × List Nat × List Nat) × List KillRec) :=
  pairC (optC natC) <| pairC restC (listC KillRec.codec)

/-- The record of tile `x`, with an MT's contents behind it (R422), and its part of the spill.  In the cooperative grade the
configuration is read again from FGIMAGE, so that only its number is kept. -/
def Tile.saved (t : Tile) (x : Nat) (coop : Bool) : List Byte × List (List Byte) :=
  let mt := if (x / 16 + x % 16) % 2 = 1 then (List.range 4096).flatMap (fun n => toBytes 4 (t.mt.get n 0)) else []
  let occ := toBytes 16 t.occupancy
  let toks := (List.range 64).map t.entry ++ (List.range 6).map t.outReg
  if coop then
    (occ ++ toks.flatMap (fun y => match y with | none => [] | some t => t.raw) ++
       toBytes 8 (t.flags % 2 ^ 32 + t.fidx * 2 ^ 32) ++ mt,
     [coopC.put (t.fg.map TileCfg.cfg, t.rest, t.lk.kills)])
  else
    let fg := inPlace 1024 ((optC TileCfg.codec).put t.fg)
    let bg := inPlace 1024 ((optC TileCfg.codec).put t.bg)
    let op := inPlace 960 (restC.put t.rest)
    let mk := inPlace 128 (marksC.put (t.flags, t.lk.kills))
    (fg.1 ++ bg.1 ++ toks.flatMap rawOf ++ occ ++ op.1 ++ mk.1 ++ mt, [fg.2, bg.2, op.2, mk.2])

/-- The payload of section RESID, and its part of the spill. -/
def Cluster.residSect (k : Cluster) (r : Nat) (coop : Bool) : List Byte × List (List Byte) :=
  let x := k.resident r
  let own := inPlace 64 (Resid.codec.put x)
  let ts := x.rowTiles.map (fun t => (k.tile t).saved t coop)
  let gs := x.ags.map (fun a => inPlace 1024 (Ag.codec.put (k.ag a)))
  let ms := x.islands.map (fun i => inPlace 24576 (Isle.codec.put (k.mat i)))
  (x.head ++ own.1 ++ ts.flatMap Prod.fst ++ (gs ++ ms).flatMap Prod.fst,
   own.2 :: (ts.flatMap Prod.snd ++ (gs ++ ms).map Prod.snd))

/-- The live residencies of a context, by ascending handle. -/
def Cluster.saved (k : Cluster) (x : Nat) : List Nat :=
  let live := k.resids.filter (fun e => e.2.live && e.2.ctx == x)
  (sortBy (fun (a b : Nat × Nat) => decide (a.2 < b.2)) (live.map (fun e => (e.1, e.2.handle e.1)))).map Prod.fst

/-- The units of a context's residencies. -/
def Cluster.unitsOf (k : Cluster) (x : Nat) : List Nat :=
  (k.saved x).flatMap (fun r =>
    let y := k.resident r
    y.pages.flatMap tilesOfPage ++ y.ags.map (fun a => 256 + a) ++ y.islands.map (fun i => 288 + i))

/-- What the package holds of a saved context beside its clusters: MCMODE.FRUN, the exchange commands and markers by queue and
place, the gangs. -/
structure SavedPkg where
  frun : Bool := false
  xcmds : List (Nat × Nat × XEnt) := []
  gangs : Tab Gang := []
  deriving DecidableEq, Repr, Inhabited

/-- The cluster whose sequencer issued an exchange command or placed a marker. -/
def XEnt.cl : XEnt → Nat
  | .cmd z => z.cl
  | .marker _ c => c

/-- The payload of section ENGINES of a cluster. -/
def SavedCl.engines (z : SavedCl) (x : Nat) (p : SavedPkg) (spill : List (List Byte)) : EngRec :=
  let k := z.body
  { cqs := k.cqs.map (fun e => (e.1, { e.2 with ents := e.2.ents.filter (fun y => match y with
      | .cmd c => c.ctx == x && !c.started
      | .marker _ => true) })),
    stamp := k.stamp, bars := k.bars, leases := k.leases.filter (fun e => e.2.ctx == x && e.2.st != SlotSt.free), notes := z.notes,
    xcmds := p.xcmds.filter (fun e => localOf e.2.2.cl == z.cl),
    chans := (k.boundIn x).map Prod.fst, launches := (k.msgsOf x).map (fun e => e.2.launch), held := k.held.filter (fun h => h.m.ctx == x),
    bankReq := k.bankReq, stages := k.stages, wires := k.wires.filter (fun w => (k.unitsOf x).contains w.unit),
    poison := k.sramPoison.filter (fun w => k.mode (w / 0x800) != mWays),
    task := (k.seq.suspended.find? (fun t => t.task.ctx == x)).map (fun t => (t.task, t.brkSkip)),
    frun := p.frun, gangs := p.gangs, spill := spill }

/-- The sections of one cluster. -/
def SavedCl.sects (z : SavedCl) (x : Nat) (p : SavedPkg) : List Sect :=
  let k := z.body
  let rs := (k.saved x).map (fun r => (r, k.residSect r z.coop))
  let eng := EngRec.codec.put (z.engines x p (rs.flatMap (fun e => e.2.2)))
  [{ ty := 1, cl := z.cl, coop := z.coop, body := clean (k.chanSect x) },
   { ty := 2, cl := z.cl, coop := z.coop, body := clean eng }, { ty := 3, cl := z.cl, coop := z.coop, body := k.localSect }] ++
  (k.seq.suspended.filter (fun t => t.task.ctx == x)).map (fun t =>
    { ty := 4, cl := z.cl, coop := z.coop, body := clean (t.sect k.seq.mcLost) }) ++
  rs.map (fun e =>
    let y := k.resident e.1
    { ty := 5, cl := z.cl, coop := z.coop, handle := y.handle e.1, gang := (y.gang.map Prod.fst).getD 0 % 65536, body := clean e.2.1 })

/-- The queued exchange commands of a context on a die and the markers that fences of the clusters `cls` placed, by queue, in
order (R72, R421). -/
def State.savedXcmds (s : State) (d x : Nat) (cls : List Nat) : List (Nat × Nat × XEnt) :=
  (s.die d).xqs.flatMap (fun e => ((e.2.ents.filter (fun y => match y with
    | .cmd z => z.ctx == x
    | .marker _ c => cls.contains (localOf c))).zipIdx.map (fun y => (e.1, y.2, y.1))))

/-- What the package holds of a context that is saved. -/
def State.savedPkg (s : State) (p : Preempt) : SavedPkg :=
  { frun := (s.ctx p.ctx).frun, xcmds := s.savedXcmds p.die p.ctx (p.snap.map SavedCl.cl),
    gangs := (s.die p.die).gangs.filter (fun e => e.2.launch.ctx == p.ctx && !e.2.done) }

/-- The whole image. -/
def State.saveImage (s : State) (p : Preempt) : List (Byte × Bool) × State :=
  let cls := sortBy (fun (a b : SavedCl) => decide (a.cl < b.cl)) p.snap
  let sects := cls.flatMap (fun z => z.sects p.ctx (s.savedPkg p))
  let body := sects.flatMap Sect.bytes
  let n := (s.ctx p.ctx).saves + 1
  let h := toBytes 4 0x535646 ++ toBytes 2 0x100 ++ toBytes 2 (p.ctx + p.die * 2 ^ 6) ++ toBytes 4 sects.length ++
    toBytes 4 p.late ++ toBytes 8 (64 + body.length) ++ toBytes 8 n ++ sha256 (plain body)
  (clean h ++ body, s.setCtx p.ctx { s.ctx p.ctx with saves := n % 2 ^ 64 })

/-! ### Reading an image (R420 to R423) -/

/-- Cuts an image's body into `n` sections; `none` where it holds fewer or more. -/
def cutSects : Nat → List (Byte × Bool) → Option (List Sect)
  | 0, bs => if bs.isEmpty then some [] else none
  | n + 1, bs =>
    let h := ofBytes (plain (bs.take 32))
    let len := fld h 127 64
    let whole := 32 + len + (64 - (32 + len) % 64) % 64
    if bs.length < whole then none
    else (cutSects n (bs.drop whole)).map (fun t =>
      { ty := fld h 7 0, cl := fld h 13 8, coop := bit h 16, handle := fld h 143 128, gang := fld h 159 144,
        body := (bs.drop 32).take len } :: t)

/-- The doubleword at an offset of a payload. -/
def dw (bs : List Byte) (o : Nat) : Nat := ofBytes ((bs.drop o).take 8)

/-- A ring descriptor from its doublewords (R81). -/
def Ring.ofDwords (d : Nat → Nat) : Ring :=
  { rbase := fld (d 0) 21 0, cmask := fld (d 0) 25 22, rsize := fld (d 0) 44 32, slot := fld (d 0) 60 48, err := bit (d 0) 62,
    en := bit (d 0) 63, head := fld (d 1) 21 0, tail := fld (d 1) 53 32, fill := fld (d 2) 22 0, ended := bit (d 2) 23,
    ahead := (List.range 4).map (fun i => fld (d 3) (16 * i + 15) (16 * i)) }

/-- A bank's queue registers from their doublewords, in the view of the bank's mode (R86, R87). -/
def BankQ.ofDwords (m : Nat) (d : Nat → Nat) : BankQ :=
  if m = mFifo then
    { port := fld (d 0) 4 0, en := bit (d 0) 63, frd := fld (d 1) 15 0, fwr := fld (d 1) 31 16, ffill := fld (d 1) 48 32,
      fend := bit (d 1) 49 }
  else if m = mWindow then
    { port := fld (d 0) 4 0, en := bit (d 0) 63, whead := BitVec.ofNat 64 (d 1), wtail := BitVec.ofNat 64 (d 2) }
  else {}

/-- The words of a bank's data that come back poisoned beyond those in `listed`.  A bank's words stand 16 bytes off the words of memory,
so that a saved mark poisons a neighbour's half: only a half that no listed word explains counts. -/
def strayPoison (listed : List Nat) (w0 : Nat) (bs : List (Byte × Bool)) : List Nat :=
  (List.range 2048).filterMap (fun i =>
    let w := w0 + i
    let half := fun h => anyPoison ((bs.drop (32 * i + 16 * h)).take 16)
    if !listed.contains w && ((half 0 && !listed.contains (w - 1)) || (half 1 && !listed.contains (w + 1))) then some w else none)

/-- The cluster with the contents of a section LOCAL (R93); `listed` are the poisoned words that were saved. -/
def Cluster.readLocal (k : Cluster) (listed : List Nat) (body : List (Byte × Bool)) : Cluster :=
  let bs := plain (body.take 2576)
  let mode := fun b => if b < 32 then fld (dw bs 0) (2 * b + 1) (2 * b) else fld (dw bs 8) (2 * (b - 32) + 1) (2 * (b - 32))
  let kept := (List.range 48).filter (fun b => mode b != mWays)
  let data := kept.zipIdx.map (fun e => (e.1 * 0x10000, (body.drop (2576 + e.2 * 0x10000)).take 0x10000))
  { k with
    bankMode := (List.range 48).foldl (fun t b => if mode b = 0 then t else t.put b (mode b)) [],
    rings := (List.range 16).map (fun r => (r, Ring.ofDwords (fun i => dw bs (16 + 64 * r + 8 * i)))),
    bankQs := (List.range 48).map (fun b => (b, BankQ.ofDwords (mode b) (fun i => dw bs (1040 + 32 * b + 8 * i)))),
    sram := data.foldl (fun m e => m.setBytes e.1 (plain e.2)) [],
    sramPoison := listed ++ data.flatMap (fun e => strayPoison listed (e.1 / 32) e.2) }

/-- The task of a section TASK with the binding, launch and ERET mark that section ENGINES keeps of it. -/
def readTask (bs : List Byte) (t : Task) (brkSkip : Bool) : Suspended :=
  let w := fun n => BitVec.ofNat 64 (dw bs (8 * n))
  { regs := Vector.ofFn (fun (i : Fin 64) => if i.val = 0 then 0 else w (i.val - 1)),
    pc := w 63, inTrap := bit (w 64).toNat 0,
    task := { t with chan := fld (w 65).toNat 3 0, ctx := fld (w 65).toNat 9 4 },
    tcause := w 66, tpc := w 67, tval := w 68, tvec := w 69, stackbase := w 70, brkpc := w 71, brkSkip := brkSkip }

/-- The channels of a section CHANNELS: the bindings of the channels `ns`, and the messages, whose launches are `ls`. -/
def readChans (x : Nat) (ns : List Nat) (ls : List (Option Nat)) (bs : List Byte) : Tab Channel :=
  let bound := ns.zipIdx.foldl (fun (t : Tab Channel) e =>
    t.put e.1 { entry := BitVec.ofNat 64 (dw bs (16 * e.2)), q := BitVec.ofNat 64 (dw bs (16 * e.2 + 8)) }) []
  ls.zipIdx.foldl (fun (t : Tab Channel) e =>
    let o := 16 * ns.length + 40 * e.2
    let n := dw bs o
    let w := fun i => BitVec.ofNat 64 (dw bs (o + 8 + 8 * i))
    let y := t.get n {}
    t.put n { y with queue := y.queue ++ [{ msg := { w0 := w 0, w1 := w 1, w2 := w 2, w3 := w 3 }, ctx := x, launch := e.1 }] }) bound

/-- The tokens of consecutive places of 72 bytes, of those that are occupied. -/
def tokensAt (occ : Nat → Bool) (coop : Bool) : List Nat → List Byte → Tab Token
  | [], _ => []
  | n :: ns, bs =>
    let t := (n, Token.ofRaw (bs.take 64) (dw bs 64))
    if occ n then t :: tokensAt occ coop ns (bs.drop 72) else tokensAt occ coop ns (if coop then bs else bs.drop 72)

/-- A tile from its rest, its tokens, its configurations, flags and masks. -/
def tileOf (r : OpSt × Nat × Links × Tab MtQueue × List Nat × List Nat) (tok : Nat → Option Token) (kills : List KillRec)
    (fg bg : Option TileCfg) (flags : Nat) (mt : Tab Nat) : Tile :=
  { fg := fg, bg := bg, lk := r.2.2.1.refilled tok kills, flags := flags, fidx := r.2.1, op := r.1, mt := mt, queues := r.2.2.2.1,
    swEos := r.2.2.2.2.1, inVc := r.2.2.2.2.2 }

/-- The words of an MT's contents that are not 0. -/
def readMt (bs : List Byte) : Tab Nat :=
  (List.range 4096).filterMap (fun i => match ofBytes ((bs.drop (4 * i)).take 4) with | 0 => none | v => some (i, v))

/-- Tile `x` of a record, with the bytes and the spill behind it; `none` where the record is short or contradicts itself. -/
def readTile (x : Nat) (coop : Bool) (bs : List Byte) (sp : List (List Byte)) : Option (Tile × List Byte × List (List Byte)) :=
  let occ := ofBytes ((bs.drop (if coop then 0 else 7088)).take 16)
  let toks := tokensAt (bit occ) coop (List.range 70) (bs.drop (if coop then 16 else 2048))
  let n := if coop then 24 + 72 * ((List.range 70).filter (bit occ)).length else 8192
  let isMt := (x / 16 + x % 16) % 2 == 1
  let mt := if isMt then readMt (bs.drop n) else []
  let whole := if isMt then n + 16384 else n
  let t := if coop then
      (getAt coopC [] sp).map (fun r =>
        let flags := ofBytes ((bs.drop (n - 8)).take 4)
        (tileOf r.1.2.1 toks.find r.1.2.2 (r.1.1.map (fun c => { cfg := c })) none flags mt, r.2))
    else do
      let fg ← getAt (optC TileCfg.codec) (bs.take 1024) sp
      let bg ← getAt (optC TileCfg.codec) ((bs.drop 1024).take 1024) fg.2
      let op ← getAt restC ((bs.drop 7104).take 960) bg.2
      let mk ← getAt marksC ((bs.drop 8064).take 128) op.2
      some (tileOf op.1 toks.find mk.1.2 fg.1 bg.1 mk.1.1 mt, mk.2)
  t.bind (fun t => if bs.length < whole || t.1.occupancy != occ then none else some (t.1, bs.drop whole, t.2))

/-- Reads one record for each name in a list. -/
def readEach {α : Type} (f : Nat → List Byte → List (List Byte) → Option (α × List Byte × List (List Byte))) :
    List Nat → List Byte → List (List Byte) → Option (Tab α × List Byte × List (List Byte))
  | [], bs, sp => some ([], bs, sp)
  | n :: ns, bs, sp => (f n bs sp).bind (fun r => (readEach f ns r.2.1 r.2.2).map (fun q => ((n, r.1) :: q.1, q.2)))

/-- A record that is one place of `n` bytes. -/
def readPlace {α : Type} (c : Codec α) (n : Nat) (bs : List Byte) (sp : List (List Byte)) : Option (α × List Byte × List (List Byte)) :=
  if bs.length < n then none else (getAt c (bs.take n) sp).map (fun r => (r.1, bs.drop n, r.2))

/-- The residency of a section RESID with its units, put into a cluster; and the rest of the spill. -/
def Cluster.readResid (k : Cluster) (x : Nat) (y : Sect) (sp : List (List Byte)) : Option (Cluster × List (List Byte)) := do
  let body := plain y.body
  let h := fun n => dw body (8 * n)
  let own ← getAt Resid.codec ((body.drop 64).take 64) sp
  let z : Resid := { own.1 with
    gen := y.handle / 16, live := true, ctx := x, w := fld (h 0) 7 0, h := fld (h 0) 15 8, origin := fld (h 0) 31 16,
    image := BitVec.ofNat 64 (h 1), fgImage := BitVec.ofNat 64 (h 2), rseed := h 3, echan := fld (h 4) 7 0, emsg := bit (h 4) 8,
    tag := fld (h 4) 63 16, iterva := BitVec.ofNat 64 (h 5), census := h 6, csat := bit (h 7) 0, frozen := true }
  let ts ← readEach (fun t => readTile t y.coop) z.rowTiles (body.drop 128) own.2
  let gs ← readEach (fun _ => readPlace Ag.codec 1024) z.ags ts.2.1 ts.2.2
  let ms ← readEach (fun _ => readPlace Isle.codec 24576) z.islands gs.2.1 gs.2.2
  let k := ts.1.foldl (fun (k : Cluster) e => k.setTile e.1 e.2) (k.setResident (y.handle % 16) z)
  let k := gs.1.foldl (fun (k : Cluster) e => k.setAg e.1 e.2) k
  some (ms.1.foldl (fun (k : Cluster) e => k.setMat e.1 e.2) k, ms.2.2)

/-- The residencies of a cluster's sections. -/
def Cluster.readResids (x : Nat) : List Sect → List (List Byte) → Cluster → Option Cluster
  | [], _, k => some k
  | y :: ys, sp, k => (k.readResid x y sp).bind (fun r => Cluster.readResids x ys r.2 r.1)

/-- What the sections `ss` of local cluster `i` say of it. -/
def readCluster (x i : Nat) (ss : List Sect) : Option (SavedCl × EngRec) := do
  let eng ← ss.find? (fun y => y.ty == 2)
  let e ← (EngRec.codec.get (plain eng.body)).map Prod.fst
  let chs ← ss.find? (fun y => y.ty == 1)
  let loc ← ss.find? (fun y => y.ty == 3)
  let k : Cluster := { chans := readChans x e.chans e.launches (plain chs.body), held := e.held, cqs := e.cqs, stamp := e.stamp,
                       bars := e.bars, leases := e.leases, bankReq := e.bankReq, stages := e.stages, wires := e.wires }
  let k := k.readLocal e.poison loc.body
  let k := match ss.find? (fun y => y.ty == 4), e.task with
    | some y, some t =>
      { k with seq := { k.seq with suspended := [readTask (plain y.body) t.1 t.2], mcLost := bit (dw (plain y.body) 512) 2 } }
    | _, _ => k
  let k ← Cluster.readResids x (ss.filter (fun y => y.ty == 5)) e.spill k
  some ({ cl := i, coop := eng.coop, body := k, notes := e.notes }, e)

/-- Reads every cluster of an image. -/
def readClusters (x : Nat) (ss : List Sect) : List Nat → Option (List (SavedCl × EngRec))
  | [] => some []
  | i :: is => (readCluster x i (ss.filter (fun y => y.cl == i))).bind (fun r => (readClusters x ss is).map (fun t => r :: t))

/-- The exchange commands of several clusters, by queue and in their order. -/
def mergeXcmds (xs : List (Nat × Nat × XEnt)) : List (Nat × XEnt) :=
  (sortBy (fun (a b : Nat × Nat × XEnt) => decide (a.1 < b.1) || (a.1 == b.1 && decide (a.2.1 < b.2.1))) xs).map (fun e => (e.1, e.2.2))

/-- What an image holds (R420 to R422); `none` where it does not read as a row of sections of these forms, or holds poison
elsewhere than in the banks' data (assumption 57). -/
def readImageBytes (head : Nat) (body : List (Byte × Bool)) : Option SaveRec := do
  let x := fld head 53 48
  let ss ← cutSects (fld head 95 64) body
  if ss.any (fun y => anyPoison (if y.ty = 3 then y.body.take 2560 else y.body)) then none
  else
    let cs ← readClusters x ss ((List.range 40).filter (fun i => ss.any (fun y => y.cl == i)))
    some { ctx := x, die := fld head 55 54, cls := cs.map Prod.fst, frun := cs.any (fun e => e.2.frun),
           xcmds := mergeXcmds (cs.flatMap (fun e => e.2.xcmds)), gangs := (cs.head?.map (fun e => e.2.gangs)).getD [] }

end Sys2Proof.Machine
end

