-- ==== Sys2Proof/Machine/Preempt.lean ====
section
/-! DEFINITION. Pre-emption (R413 to R419): requests, YIELD, decisions; the end of a context's work (R386, R434); save
saving and restore (R423). -/

namespace Sys2Proof.Machine

/-- The context save engine of a die as an agent. -/
def whoSave (d : Nat) : Who := whoDie d (agentDie d 91)

/-! ### What a context holds -/

/-- A copy command of a context is in a queue of the cluster. -/
def Cluster.hasCopy (k : Cluster) (x : Nat) (p : CopyCmd → Bool) : Bool := k.cmds.any (fun c => c.ctx == x && p c)

/-- An exchange command of a context that cluster `c` issued is in a queue of its die. -/
def State.hasXcmd (s : State) (c x : Nat) (p : XCmd → Bool) : Bool :=
  (s.die (dieOf c)).xqs.any (fun e => e.2.ents.any (fun y => match y with
    | .cmd z => z.cl == c && z.ctx == x && p z
    | .marker .. => false))

/-- The context has a live residency on the cluster. -/
def Cluster.hasResid (k : Cluster) (x : Nat) : Bool := k.resids.any (fun e => e.2.live && e.2.ctx == x)

/-- The running task is of the context. -/
def Seq.runs (q : Seq) (x : Nat) : Bool := match q.task with | some t => t.ctx == x | none => false

/-- The context has something on the cluster that a pre-emption concerns (R414). -/
def State.holdsWork (s : State) (c x : Nat) : Bool :=
  let k := s.cl c
  k.hasResid x || k.chans.any (fun e => (qBound e.2.q && qCtx e.2.q == x) || e.2.queue.any (fun m => m.ctx == x)) ||
  k.leases.any (fun e => e.2.st != SlotSt.free && e.2.ctx == x) || k.hasCopy x (fun _ => true) ||
  s.hasXcmd c x (fun _ => true) || k.seq.runs x || k.seq.suspended.any (fun t => t.task.ctx == x)

/-- The clusters of a die where a context holds work, ascending. -/
def State.workClusters (s : State) (d x : Nat) : List Nat := (List.range 40).filter (fun i => s.holdsWork (d * 40 + i) x)

/-! ### Quiescence (R415) -/

/-- A tile is not in a firing, holds no operation state and no background. -/
def Tile.still (t : Tile) : Bool := t.op == {} && t.lk.outs.all (fun e => decide (e.2.length ≤ 1)) && t.bg.isNone

/-- An AG is between rounds. -/
def Ag.still (g : Ag) : Bool :=
  g.cur.isNone && (match g.phase with | .walk => false | _ => true) && g.lk.outs.all (fun e => decide (e.2.length ≤ 1))

/-- An island is between words. -/
def Isle.still (m : Isle) : Bool :=
  m.cyc == 0 && !m.done && m.pushing.isEmpty && m.f0.got.isEmpty && m.f1.got.isEmpty && m.f0.cur == {} && m.f1.cur == {}

/-- A residency is quiescent. -/
def Cluster.quiescent (k : Cluster) (r : Nat) : Bool :=
  let x := k.resident r
  let ts := (x.pages.flatMap tilesOfPage).map k.tile
  ts.all Tile.still && x.ags.all (fun a => (k.ag a).still) && x.islands.all (fun i => (k.mat i).still) &&
  (let is := ts.filterMap (fun t => t.fg.map TileCfg.image) ++ x.ags.filterMap (fun a => (k.ag a).fg.map AgCfg.image) ++
     x.islands.filterMap (fun i => (k.mat i).fg.map (fun _ => (k.mat i).image))
   is.all (fun v => some v == is.head?))

/-- Every residency of a context on the cluster is quiescent. -/
def Cluster.allQuiescent (k : Cluster) (x : Nat) : Bool :=
  k.resids.all (fun e => !(e.2.live && e.2.ctx == x) || k.quiescent e.1)

/-! ### Decisions (R415 to R417) -/

/-- The running task is suspended where it stands. -/
def Seq.suspendRun (q : Seq) : Seq :=
  match q.task with
  | none => q
  | some t =>
    { q with task := none, inTrap := false, brkSkip := false,
             suspended := q.suspended ++ [{ regs := q.regs, pc := q.pc, task := t, inTrap := q.inTrap, tcause := q.tcause,
                                            tpc := q.tpc, tval := q.tval, tvec := q.tvec, stackbase := q.stackbase,
                                            brkpc := q.brkpc, brkSkip := q.brkSkip }] }

/-- A cluster's request is decided: no task of the context is dispatched from here on, a running one is suspended, and
its residencies are frozen. -/
def State.decideSave (s : State) (c x : Nat) (coop : Bool) : State :=
  let s := if (s.sq c).runs x then s.settleLoads c else s
  let k := s.cl c
  let q := k.seq
  let q := { q with yreqs := q.yreqs.map (fun (y : YReq) => if y.ctx = x ∧ y.coop.isNone then { y with coop := some coop } else y) }
  let q := if q.runs x then q.suspendRun else q
  s.setCl c { k with seq := q,
                     resids := k.resids.map (fun e => (e.1, if e.2.live ∧ e.2.ctx = x then { e.2 with frozen := true } else e.2)) }

/-- A request whose deadline has passed is decided as forced (R415). -/
def State.expireDeadline (s : State) (c x : Nat) : State :=
  match (s.sq c).yreqOf x with
  | none => s
  | some y => if y.deadline < (s.sq c).cycle then s.decideSave c x false else s

/-- DEADLINE_EXPIRY. -/
def execDeadlineExpiry (ctx : BitVec 6) (s : State) : Host.Outcome State Fault Refusal :=
  .next (s.expireDeadline s.here ctx.toNat)

/-- YIELD (R326, R415). -/
def execYield (s : State) : Host.Outcome State Fault Refusal :=
  let c := s.here
  let q := s.sq c
  let x := q.running.ctx
  .next (match q.yreqOf x with
    | none => s.endTask c
    | some y =>
      if y.deadline < q.cycle then s.decideSave c x false
      else
        let s := s.endTask c
        s.decideSave c x ((s.cl c).allQuiescent x))

/-! ### Requests (R413, R414) -/

/-- Makes a request of one cluster; a notice of 0 is forced at once; with a notice the yield channel is told, and a cluster
with no live residency and no running task is granted at once. -/
def State.requestOn (s : State) (c x notice : Nat) : State :=
  let k := s.cl c
  let f := (s.die (dieOf c)).spine 0
  let y : YReq := { ctx := x, deadline := k.seq.cycle + BitVec.ofNat 64 (notice * f) }
  let s := s.setSq c { k.seq with yreqs := k.seq.yreqs ++ [y] }
  if notice = 0 then s.decideSave c x false
  else
    let s := match (s.ctx x).ychan with
      | none => s
      | some n => s.post c (senderOut (whoSave (dieOf c)).agent) n
          { msg := { w0 := BitVec.ofNat 64 (0xB0 * 2 ^ 56), w1 := y.deadline }, ctx := x }
    if !k.hasResid x && !k.seq.runs x then s.decideSave c x true else s

/-- A pre-emption of a context on a die begins. -/
def State.requestSave (s : State) (p : Preempt) (notice : Nat) : State :=
  p.cls.foldl (fun s i => s.requestOn (p.die * 40 + i) p.ctx notice) (s.setPkg { s.pkg with preempts := s.pkg.preempts ++ [p] })

/-- Replaces a pre-emption. -/
def State.setPreempt (s : State) (p : Preempt) : State :=
  s.setPkg { s.pkg with preempts := s.pkg.preempts.map (fun (y : Preempt) => if y.ctx = p.ctx ∧ y.die = p.die then p else y) }

/-- Removes a pre-emption. -/
def State.dropPreempt (s : State) (x d : Nat) : State :=
  s.setPkg { s.pkg with preempts := s.pkg.preempts.filter (fun y => !(y.ctx == x && y.die == d)) }

/-- A suspended task runs again where it stood. -/
def Seq.resumeAs (q : Seq) (t : Suspended) (k : Task) : Seq :=
  { q with task := some k, regs := t.regs, pc := t.pc, inTrap := t.inTrap, tcause := t.tcause, tpc := t.tpc,
           tval := t.tval, tvec := t.tvec, stackbase := t.stackbase, brkpc := t.brkpc, brkSkip := t.brkSkip,
           taskid := BitVec.ofNat 64 (k.chan + k.ctx * 16) }

/-- A pre-emption is undone: what it froze goes on. -/
def State.thaw (s : State) (p : Preempt) : State :=
  p.cls.foldl (fun s i =>
    let c := p.die * 40 + i
    let k := s.cl c
    let q := { k.seq with yreqs := k.seq.yreqs.filter (fun y => y.ctx != p.ctx) }
    let q := match q.suspended.find? (fun t => t.task.ctx == p.ctx), q.task with
      | some t, none => { q.resumeAs t t.task with suspended := q.suspended.filter (fun t => t.task.ctx != p.ctx) }
      | _, _ => q
    s.setCl c { k with seq := q,
                       resids := k.resids.map (fun e => (e.1, if e.2.ctx = p.ctx then { e.2 with frozen := false } else e.2)) })
    (s.dropPreempt p.ctx p.die)

/-! ### Saving (R298, R416, R420) -/

/-- A cluster's sections may be written: its request is decided and the context's started commands have ended (R417). -/
def State.saveReady (s : State) (c x : Nat) : Bool :=
  let k := s.cl c
  k.seq.yreqs.any (fun y => y.ctx == x && y.coop.isSome) && !k.hasCopy x CopyCmd.started &&
  !k.leases.any (fun e => e.2.ctx == x && (pcmdsOf e.2.q).any PCmd.started) && !s.hasXcmd c x XCmd.started

/-- The units of a die that store for contexts, besides its sequencers: AGs, copy engines, pralines, exchange engines. -/
def State.storers (s : State) (d : Nat) : List Nat :=
  ((s.clusters.map Prod.fst).filter (fun c => dieOf c == d)).flatMap (fun c =>
    (List.range 32).map (agentAg c) ++ [(whoCe c 0).agent, (whoCe c 4).agent]) ++
  (List.range 64).map (fun p => (whoPraline d p).agent) ++ (s.die d).xqs.map (fun e => (whoX d e.1).agent)

/-- Every store made on a die so far is performed at SYS (R298): those in the store buffers of every cluster and those of its
AGs and engines, whatever scope they had and whatever has become of a lease since. -/
def State.storesAtSys (s : State) (d : Nat) : State :=
  let s := ((s.clusters.map Prod.fst).filter (fun c => dieOf c == d)).foldl (fun s c => s.releaseAt c .sys) s
  (s.storers d).foldl (fun s a => s.deliverKnown a d .sys) s

/-- The notices that the holder of a context's leases on a cluster has been given, by lease slot. -/
def State.noticesOf (s : State) (c x : Nat) : Tab Nat :=
  (s.cl c).leases.filterMap (fun e =>
    if e.2.ctx == x && e.2.st == SlotSt.lease then (((s.die (dieOf c)).praline e.2.praline).notice).map (fun t => (e.1, t)) else none)

/-- Writes the sections of a cluster, once every store is performed at SYS (R298). -/
def State.snapCluster (s : State) (p : Preempt) (i : Nat) : State :=
  let c := p.die * 40 + i
  let s := s.storesAtSys p.die
  let grade := (s.sq c).yreqs.any (fun y => y.ctx == p.ctx && y.coop == some true)
  match s.pkg.preempts.find? (fun y => y.ctx == p.ctx && y.die == p.die) with
  | none => s
  | some p => s.setPreempt { p with snap := p.snap ++ [{ cl := i, coop := grade, body := s.cl c, notes := s.noticesOf c p.ctx }] }

/-- Clusters whose sections can be written now are written. -/
def State.snapReady (s : State) (p : Preempt) : State :=
  (p.cls.filter (fun i => !p.snap.any (fun z => z.cl == i) && s.saveReady (p.die * 40 + i) p.ctx)).foldl
    (fun s i => s.snapCluster p i) s

/-- Writes the image of a pre-emption whose clusters are all written; `false` where there is no room or the area cannot
be written. -/
def State.writeImage (s : State) (p : Preempt) : Bool × State :=
  let (img, s1) := s.saveImage p
  if (match p.room with | some n => decide (n < img.length) | none => false) then (false, s)
  else match s1.engWrite (whoSave p.die) p.ctx p.va img with
    | (some _, s1) => (false, s1)
    | (none, s1) => (true, (s1.storesAtSys p.die).deliverKnown (agentDie p.die 91) p.die .sys)

/-! ### The end of a context's work (R386, R434) -/

/-- The leases, requests and commands of a context end without messages. -/
def State.quietLeases (s : State) (c x : Nat) : State :=
  (List.range 8).foldl (fun s i =>
    let y := (s.cl c).lslot i
    if y.st == SlotSt.free || y.ctx != x then s
    else
      let k := (s.die (dieOf c)).withdraw (localOf c) i
      let k := if y.st == SlotSt.request then k else k.unlease y.praline
      (s.setSlot c i y.emptied).setDie (dieOf c) k) s

/-- Everything of a context on one cluster ends, without messages: its copy commands too, queued and running
(assumption 65).  Its barrier slots stay armed (R70). -/
def State.clearCluster (s : State) (c x : Nat) : State :=
  let s := (s.settleLoads c).drainAll c
  let s := if (s.sq c).runs x then s.endTask c else s
  let s := (List.range 16).foldl (fun s r =>
    let y := (s.cl c).resident r
    if y.live && y.ctx == x then s.endResid c r true else s) s
  let s := s.quietLeases c x
  let k := s.cl c
  let q := k.seq
  let q := { q with suspended := q.suspended.filter (fun t => t.task.ctx != x), yreqs := q.yreqs.filter (fun y => y.ctx != x),
                    stopped := if q.stopped = some x then none else q.stopped }
  s.setCl c { k with
    seq := q,
    chans := k.chans.map (fun e =>
      let y := { e.2 with queue := e.2.queue.filter (fun m => m.ctx != x) }
      (e.1, if qBound y.q && qCtx y.q == x then { y with entry := 0, q := 0 } else y)),
    held := k.held.filter (fun h => h.m.ctx != x),
    cqs := k.cqs.map (fun e => (e.1, { e.2 with ents := e.2.ents.filter (fun y => match y with
      | .cmd z => z.ctx != x
      | .marker _ => true) })) }

/-- Everything of a context on one die ends. -/
def State.clearDie (s : State) (d x : Nat) : State :=
  let ls := ((s.die d).gangs.filter (fun e => e.2.launch.ctx == x)).map Prod.fst
  let s := ls.foldl (fun s l => (List.range 40).foldl (fun s i => s.releaseUnclaimed (d * 40 + i) l) s) s
  let s := (List.range 40).foldl (fun s i =>
    if (s.clusters.find (d * 40 + i)).isSome then s.clearCluster (d * 40 + i) x else s) s
  let k := s.die d
  let s := s.setDie d { k with
    launches := k.launches.filter (fun (l : Launch) => l.ctx != x),
    gangs := k.gangs.filter (fun e => e.2.launch.ctx != x),
    wanted := k.wanted.filter (fun (w : Nat × Nat) => w.1 != x),
    keys := k.keys.filter (fun e => e.2.ctx != x),
    xqs := k.xqs.map (fun e => (e.1, { e.2 with ents := e.2.ents.filter (fun y => match y with
      | .cmd z => z.ctx != x
      | .marker .. => true) })) }
  s.arbitrate d

/-- CTX_DESTROY's end of a context: only the number of its saves stays. -/
def State.destroyCtx (s : State) (x : Nat) : State :=
  let s := (List.range 4).foldl (fun s d => s.clearDie d x) s
  let s := (s.pkg.boosts.filter (fun b => b.ctx == x)).foldl (fun s b => s.dropBoost b) s
  let s := s.setPkg { s.pkg with preempts := s.pkg.preempts.filter (fun p => p.ctx != x) }
  { s with tlb := s.tlb.filter (fun t => t.ctx != x), ctxs := s.ctxs.put x { saves := (s.ctx x).saves } }

/-- Ends a context and tells the requester; one that asks for the end of its own context is told first, while its block
can still be reached. -/
def State.endAndTell (s : State) (x : Nat) (cmd : FwCmd) : State :=
  if cmd.virt && cmd.ctx == x then (s.fwDone cmd 0).destroyCtx x else (s.destroyCtx x).fwDone cmd 0

/-! ### Completion -/

/-- A save under CTX_DESTROY completes: the context ends, and the requester is told; where the image cannot be written
nothing is destroyed and the context goes on. -/
def State.finishDestroy (s : State) (p : Preempt) (cmd : FwCmd) : State :=
  match s.writeImage p with
  | (true, s) =>
    -- the gangs are saved whole, so their reports stand still; their reservations here are given back
    let k := s.die p.die
    let ls := k.gangs.filter (fun e => e.2.launch.ctx == p.ctx)
    let s := ((List.range 40).filter (fun i => (s.clusters.find (p.die * 40 + i)).isSome)).foldl (fun (s : State) i => s.setCl (p.die * 40 + i)
      (ls.foldl (fun (k : Cluster) e => (List.range e.2.members.length).foldl (fun k m => k.unreserve e.1 m) k)
        (s.cl (p.die * 40 + i)))) s
    let s := s.setDie p.die { k with gangs := k.gangs.filter (fun e => e.2.launch.ctx != p.ctx) }
    s.endAndTell p.ctx cmd
  | (false, s) => ((s.setCtx p.ctx { s.ctx p.ctx with dying := false }).thaw p).fwDone cmd 2

/-- The emergency message to the host (R402): the die and the saved contexts. -/
def State.emergMessage (s : State) (d : Nat) : State :=
  let e := (s.die d).emerg
  s.send { kind := 5, dest := 2000 + d, data := e.saved.flatMap (fun x => toBytes 1 x) }

/-- The report of a context that a thermal emergency lost. -/
def State.lostMessage (s : State) (d x : Nat) : State := s.send { kind := 5, dest := 3000 + d, addr := x }

/-- With no context left to save, the host is told (R402). -/
def State.thermalDone (s : State) (d : Nat) : State :=
  let k := s.die d
  if k.emerg.todo.isEmpty then
    (s.setDie d { k with emerg := { k.emerg with phase := .saved, last := k.clock } }).emergMessage d
  else s

/-- The thermal save of the context at the head of the list ends. -/
def State.thermalNext (s : State) (d x : Nat) (ok : Bool) : State :=
  let k := s.die d
  let e := k.emerg
  let e := { e with todo := e.todo.filter (fun y => y != x), saved := if ok then e.saved ++ [x] else e.saved,
                    lost := if ok then e.lost else e.lost ++ [x] }
  let s := s.setDie d { k with emerg := e }
  (if ok then s else s.lostMessage d x).thermalDone d

/-- The context's leases on the die end with reason 2 (R386, R402). -/
def State.thermalLeases (s : State) (d x : Nat) : State :=
  (List.range 40).foldl (fun s i => (List.range 8).foldl (fun s j =>
    let y := (s.cl (d * 40 + i)).lslot j
    if (y.st == SlotSt.lease || y.st == SlotSt.closing) && y.ctx == x then s.endLease (d * 40 + i) j 2 else s) s) s

/-- The thermal save of a context (R402) begins: forced, at once. -/
def State.thermalBegin (s : State) (d x : Nat) : State :=
  let y := s.ctx x
  let k := s.die d
  if !y.live || (s.workClusters d x).isEmpty then
    -- it has ended in the meantime
    (s.setDie d { k with emerg := { k.emerg with todo := k.emerg.todo.filter (fun z => z != x) } }).thermalDone d
  else if y.emergVa = 0 then s.thermalNext d x false
  else
    let s := s.thermalLeases d x
    s.requestSave { ctx := x, die := d, va := y.emergVa.toNat, room := some y.emergLen, cls := s.workClusters d x } 0

/-- CONTEXT_SAVE_COMPLETE (R420): the next step of a context's save on the actor's die.  Sections are written as clusters
become ready; with all of them written the image is performed at SYS and the requester is told. -/
def State.saveStep (s : State) (d x : Nat) : State :=
  -- the saves of an emergency begin 10 microseconds after T0 (R402)
  let e := (s.die d).emerg
  let hot := e.phase == EmergPhase.saving && e.todo.head? == some x && decide (e.t0 + 10 ≤ (s.die d).clock)
  match s.pkg.preempts.find? (fun p => p.ctx == x && p.die == d) with
  | none => if hot then s.thermalBegin d x else s
  | some p =>
    let s := s.snapReady p
    match s.pkg.preempts.find? (fun p => p.ctx == x && p.die == d) with
    | none => s
    | some p =>
      if p.cls.any (fun i => !p.snap.any (fun z => z.cl == i)) then s
      else match p.cmd with
        | some cmd => s.finishDestroy p cmd
        | none => if hot then let r := s.writeImage p; r.2.thermalNext d x r.1 else s

def execContextSaveComplete (ctx : BitVec 6) (s : State) : Host.Outcome State Fault Refusal :=
  .next (s.saveStep s.hereDie ctx.toNat)

/-! ### Restore (R423) -/

/-- A cluster is vacant for context `x`: it holds nothing but armed barrier slots of `x` or of contexts that have ended
(R70). -/
def State.vacant (s : State) (x c : Nat) : Bool :=
  let k := s.cl c
  k.resids.all (fun e => !e.2.live) && k.chans.all (fun e => !qBound e.2.q && e.2.queue.isEmpty) && k.held.isEmpty &&
  k.leases.all (fun e => e.2.st == SlotSt.free) && k.cmds.isEmpty && k.bars.all (fun e => e.2.ctx == x || !(s.ctx e.2.ctx).live) &&
  k.seq.task.isNone &&
  k.seq.suspended.isEmpty && k.pages.all (fun e => e.2 == .free) && k.isles.all (fun e => e.2 == .free) &&
  !(s.die (dieOf c)).xqs.any (fun e => e.2.ents.any (fun y => match y with | .cmd z => z.cl == c | .marker _ z => z == c))

/-- The pages that a saved residency takes with its origin at page `o`; `none` where it does not fit (R184, R345). -/
def Resid.pagesAt (x : Resid) (o : Nat) : Option (List Nat) :=
  if (rectPages o x.w x.h).isSome && (x.islands.isEmpty || o == x.origin) &&
      x.ags.all (fun a => if a < 16 then o % 4 == 0 else o % 4 + x.w == 4) then
    some (x.pages.map (fun p => p + o - x.origin))
  else none

/-- The AGs of a saved residency with its origin at page `o`. -/
def Resid.agsAt (x : Resid) (o : Nat) : List Nat := x.ags.map (fun a => a + 4 * (o / 4) - 4 * (x.origin / 4))

/-- Members that are only reserved find their places beside the pages and islands taken: each at its own page where that is free,
else at the lowest origin where its shape fits.  Members are given as shape and page. -/
def Cluster.reserveList : List (Nat × Nat) → Cluster → Bool
  | [], _ => true
  | (e, page) :: ms, k =>
    match (if k.shapeFits e page then some page else k.shapeAt e) with
    | none => false
    | some o => Cluster.reserveList ms (k.reserve e o 0 0)

/-- The members of the saved gangs that were only reserved on local cluster `i`, as shape and page, in the order in which they are
reserved again. -/
def SaveRec.reserved (r : SaveRec) (i : Nat) : List (Nat × Nat) :=
  r.gangs.flatMap (fun e => e.2.members.zipIdx.filterMap (fun m =>
    if m.1.mstate = 0 ∧ m.1.cl = i then some (e.2.launch.shape m.2, m.1.page) else none))

/-- Places residencies one after the other at the lowest origins at which all of them, and the reservations `ms`, fit. -/
def Cluster.placeSaved (k : Cluster) (ms : List (Nat × Nat)) : List Nat → List Nat → List Nat → List Nat → Option (List (Nat × Nat))
  | [], pages, _, isles => if Cluster.reserveList ms (({} : Cluster).setPages pages isles (.held 0)) then some [] else none
  | r :: rs, pages, ags, isles =>
    let x := k.resident r
    (List.range 16).findSome? (fun o =>
      match x.pagesAt o with
      | none => none
      | some ps =>
        let as := x.agsAt o
        if ps.any (fun p => pages.contains p) || as.any (fun a => ags.contains a) then none
        else (k.placeSaved ms rs (pages ++ ps) (ags ++ as) (isles ++ x.islands)).map (fun t => (r, o) :: t))

/-- Puts the residency of slot `r` of a saved cluster into a cluster at page `o`, for context `x`. -/
def Cluster.graft (k src : Cluster) (r o x : Nat) : Cluster :=
  let y := src.resident r
  let mine := y.pages.flatMap tilesOfPage ++ y.ags.map (fun a => 256 + a) ++ y.islands.map (fun i => 288 + i)
  let src1 := { src with wires := src.wires.filter (fun w => mine.contains w.unit) }
  let moved := if o = y.origin then src1 else src1.moveTo r o
  let z := moved.resident r
  let k := (z.pages.flatMap tilesOfPage).foldl (fun (k : Cluster) t => k.setTile t (moved.tile t)) k
  let k := z.ags.foldl (fun (k : Cluster) a => k.setAg a (moved.ag a)) k
  let k := z.islands.foldl (fun (k : Cluster) i => k.setMat i (src.mat i)) k
  let k := (y.binds.zip z.binds).foldl (fun (k : Cluster) e =>
    if e.1.path = 1 then { k with stages := k.stages.put e.2.ag (src.stage e.1.ag) }
    else if e.1.path = 2 then k.setBq e.1.bank { k.bq e.1.bank with port := e.2.ag } else k) k
  let k := { k with wires := k.wires ++ moved.wires }
  (k.setPages z.pages z.islands (.held r)).setResident r { z with ctx := x, frozen := false }

/-- A message under a context's new number. -/
def QMsg.moveTo (m : QMsg) (x : Nat) : QMsg := { m with ctx := x }

/-- CHQ under a context's new number. -/
def qMoveTo (q : Word) (x : Nat) : Word := BitVec.ofNat 64 (putFld q.toNat 47 42 x)

/-- The channels of a restored cluster: bindings, and saved messages ahead of new ones. -/
def Cluster.withChans (k src : Cluster) (x0 x : Nat) : Cluster :=
  src.chans.foldl (fun (k : Cluster) e =>
    let old := k.chans.get e.1 {}
    let old := if qBound e.2.q && qCtx e.2.q == x0 then { old with entry := e.2.entry, q := qMoveTo e.2.q x } else old
    let ms := (e.2.queue.filter (fun m => m.ctx == x0)).map (fun m => m.moveTo x)
    { k with chans := k.chans.put e.1 { old with queue := ms ++ old.queue } })
    { k with held := (src.held.filter (fun h => h.m.ctx == x0)).map (fun h => { h with m := h.m.moveTo x }) ++ k.held }

/-- The copy queues and barriers of a restored cluster; queued commands keep their order, and fences keep their markers. -/
def Cluster.withCopies (k src : Cluster) (x0 x : Nat) : Cluster :=
  { k with
    cqs := src.cqs.map (fun e => (e.1, { e.2 with ents := e.2.ents.filterMap (fun y => match y with
      | .cmd z => if z.ctx = x0 ∧ !z.started then some (.cmd { z with ctx := x }) else none
      | .marker n => some (.marker n)) })),
    stamp := max k.stamp src.stamp,
    bars := src.bars.map (fun e => (e.1, if e.2.ctx = x0 then { e.2 with ctx := x } else e.2)) }

/-- The task that the save suspended runs again. -/
def Seq.resumeSaved (q src : Seq) (x0 x : Nat) : Seq :=
  match src.suspended.find? (fun t => t.task.ctx == x0) with
  | none => q
  | some t => { q.resumeAs t { t.task with ctx := x, q := qMoveTo t.task.q x } with mcLost := q.mcLost || src.mcLost }

/-- A saved cluster written into a vacant one (R93, R423 step 4). -/
def Cluster.restored (k src : Cluster) (x0 x : Nat) (places : List (Nat × Nat)) : Cluster :=
  let ways := fun (b : Nat) => src.mode b == mWays
  let k := { k with
    sram := src.sram.filter (fun e => !ways (e.1 / 0x10000)), sramPoison := src.sramPoison.filter (fun w => !ways (w / 0x800)),
    bankMode := src.bankMode, bankReq := src.bankReq, rings := src.rings, bankQs := src.bankQs, stages := [],
    tiles := [], ags := k.ags.map (fun (e : Nat × Ag) => (e.1, e.2.cleared)), wires := [] }
  let k := ((k.withChans src x0 x).withCopies src x0 x)
  let k := places.foldl (fun (k : Cluster) e => k.graft src e.1 e.2 x) k
  { k with seq := k.seq.resumeSaved src.seq x0 x }

/-- In the cooperative grade the configuration slots are read again from FGIMAGE (R422, R423 step 3): `none` where the
image does not pass R170 and R171, or holds poison. -/
def State.rereadFg (s : State) (c r : Nat) : Option State :=
  let x := (s.cl c).resident r
  match s.readImageRaw c x.ctx x.fgImage.toNat with
  | ((.ok m, []), s) =>
    if m.judge none none != 0 then none
    else
      let (cx, cy) := pageTile x.origin
      some (s.setCl c ((x.pages.flatMap tilesOfPage).foldl (fun (k : Cluster) t =>
        let y := k.tile t
        match y.fg with
        | none => k
        | some g => k.setTile t { y with fg := some (m.tileCfg g.cfg (t % 16 - cx) (t / 16 - cy)) }) (s.cl c)))
  | _ => none

/-- Applies a step to each element, stopping at the first that fails. -/
def tryEach {α : Type} (f : α → State → Option State) : List α → State → Option State
  | [], s => some s
  | a :: t, s => match f a s with | none => none | some s => tryEach f t s

/-- One saved cluster is restored onto cluster `c`. -/
def State.restoreOne (r : SaveRec) (x : Nat) (e : SavedCl × Nat) (s : State) : Option State :=
  let (z, c) := e
  let k := z.body
  let x0 := r.ctx
  match k.placeSaved (r.reserved z.cl) (k.saved x0) [] [] [] with
  | none => none
  | some places =>
    let s := s.setCl c ((s.cl c).restored k x0 x places)
    if z.coop then tryEach (fun r s => s.rereadFg c r) (k.saved x0) s else some s

/-- The praline that a restored lease holds (R386): its own where that is free, else an unleased one of its kind; the handle stays. -/
def Die.praliner (k : Die) (y : LeaseSlot) : Option Nat :=
  if (k.praline y.praline).holder.isNone then some y.praline else k.pick y.kind

/-- The queued commands of a restored lease wake its praline (R371). -/
def State.wakeLease (s : State) (c i : Nat) : State :=
  let y := (s.cl c).lslot i
  if (pcmdsOf y.q).isEmpty then s
  else s.wakeFor (dieOf c) { wake := true, holder := .slot (localOf c) i, kind := y.kind, prio := y.prio } y.praline

/-- The lease slots of a restored cluster (R386): on the same die each lease is kept, with its pending notice (R419); it ends with
reason 3, and its commands complete with EVICTED, on another die, and where no praline of its kind is unleased (assumption 57). -/
def State.restoreLeases (s : State) (z : SavedCl) (c x0 x d0 : Nat) : State :=
  z.body.leases.foldl (fun (s : State) (e : Nat × LeaseSlot) =>
    let y := { e.2 with ctx := x, q := e.2.q.map (fun n => match n with
      | .cmd m => .cmd { m with ctx := x }
      | .marker n => .marker n) }
    if e.2.ctx != x0 || e.2.st == SlotSt.free then s
    else
      let d := dieOf c
      let k := s.die d
      if e.2.st == SlotSt.request then
        (s.setSlot c e.1 y).setDie d { k with leaseQ := k.leaseQ ++ [{ wake := false, holder := .slot (localOf c) e.1,
                                                                        kind := y.kind, prio := y.prio }] }
      else match (if d = d0 then k.praliner y else none) with
        | some p =>
          let k := k.setPraline p { k.praline p with holder := some (.slot (localOf c) e.1), idle := k.clock, notice := z.notes.find e.1 }
          ((s.setSlot c e.1 { y with praline := p }).setDie d k).wakeLease c e.1
        | none =>
          let s := s.setSlot c e.1 y
          let s := State.evictCmds d y.praline c e.1 y.q s
          let s := if y.st == SlotSt.lease then s.sayLease c e.1 0x43 0 3 else s
          s.setSlot c e.1 y.emptied) s

/-- A member that was only reserved is reserved again (R361): at its page where that is free, else at the lowest origin
where its shape fits, as the placement of the residencies has left room for; released where its cluster was not saved. -/
def State.reserveAgain (s : State) (d l m : Nat) (y : Member) (p : Option (SavedCl × Nat)) : State :=
  let gone := s.setMember d l m (fun y => { y with mstate := 3 })
  match p, s.gang d l with
  | some p, some g =>
    let k := s.cl p.2
    let e := g.launch.shape m
    match (if k.shapeFits e y.page then some y.page else k.shapeAt e) with
    | some o =>
      (s.setCl p.2 (k.reserve e o l m)).setMember d l m (fun z => { z with cl := localOf p.2, page := o })
    | none => gone
  | _, _ => gone

/-- The next launch number of a die that lies above the numbers `ls`. -/
def Die.launchAbove (k : Die) (ls : List Nat) : Nat := ls.foldl (fun n l => max n (l + 1)) k.nextLaunch

/-- The launch numbers that saved gangs take on a die, by saved number: their own where all are free there, else new ones. -/
def Die.renumber (k : Die) (ls : List Nat) : Tab Nat :=
  if ls.any (fun l => (k.gangs.find l).isSome || k.launches.any (fun (y : Launch) => y.num == l)) then
    ls.zipIdx.map (fun e => (e.1, (k.launchAbove ls + e.2) % 2 ^ 32))
  else ls.map (fun l => (l, l))

/-- A cluster's residencies, messages and task of context `x` name the launches by their new numbers. -/
def Cluster.relaunched (k : Cluster) (x : Nat) (f : Nat → Nat) : Cluster :=
  let msg := fun (m : QMsg) => if m.ctx = x then { m with launch := m.launch.map f } else m
  { k with
    resids := k.resids.map (fun y => (y.1, if y.2.ctx = x then { y.2 with gang := y.2.gang.map (fun g => (f g.1, g.2)) } else y.2)),
    chans := k.chans.map (fun e => (e.1, { e.2 with queue := e.2.queue.map msg })),
    held := k.held.map (fun h => { h with m := msg h.m }),
    seq := { k.seq with task := k.seq.task.map (fun t => if t.ctx = x then { t with launch := t.launch.map f } else t) } }

/-- The gangs of a restored context (R361): under their own numbers where these are free on the die, else under new ones, which its
residencies, start messages and task follow; members that were only reserved are reserved again. -/
def State.restoreGangs (s : State) (r : SaveRec) (x d : Nat) (pairs : List (SavedCl × Nat)) : State :=
  let k := s.die d
  let nums := k.renumber (r.gangs.map Prod.fst)
  let f := fun l => nums.get l l
  let place := fun (m : Member) =>
    match pairs.find? (fun p => p.1.cl == m.cl) with
    | none => m
    | some p => { m with cl := localOf p.2, page := ((s.cl p.2).resident (m.handle % 16)).origin }
  let gs := r.gangs.map (fun e => (f e.1, { e.2 with
    launch := { e.2.launch with num := f e.1, ctx := x },
    members := e.2.members.map (fun m => if m.mstate = 1 then place m else m),
    barriers := e.2.barriers.map (fun (b : GBarrier) => { b with arrivals := b.arrivals.map (fun (a : GArrival) =>
      match pairs.find? (fun p => p.1.cl == localOf a.cl) with | some p => { a with cl := p.2 } | none => a) }) }))
  let s := s.setDie d { k with nextLaunch := k.launchAbove (nums.map Prod.snd) % 2 ^ 32,
                               gangs := gs.foldl (fun t e => t.put e.1 e.2) k.gangs }
  let s := pairs.foldl (fun s p => s.setCl p.2 ((s.cl p.2).relaunched x f)) s
  gs.foldl (fun (s : State) (e : Nat × Gang) => (List.range e.2.members.length).foldl (fun s m =>
    match e.2.members[m]? with
    | some y => if y.mstate = 0 then s.reserveAgain d e.1 m y (pairs.find? (fun p => p.1.cl == y.cl)) else s.setMember d e.1 m (fun y => y)
    | none => s) s) s

/-- The saved exchange commands and markers go back to their queues. -/
def State.restoreXcmds (s : State) (r : SaveRec) (x d : Nat) (pairs : List (SavedCl × Nat)) : State :=
  r.xcmds.foldl (fun (s : State) (e : Nat × XEnt) =>
    let cl := match e.2 with | .cmd z => z.cl | .marker _ c => c
    match pairs.find? (fun p => p.1.cl == localOf cl) with
    | none => s
    | some p =>
      let q := (s.die d).xq e.1
      s.setXq d e.1 { q with ents := q.ents ++ [match e.2 with
        | .cmd z => .cmd { z with ctx := x, cl := p.2 }
        | .marker n _ => .marker n p.2] }) s

/-- The saved lease slots are free on a cluster. -/
def Cluster.slotsFree (k : Cluster) (z : SavedCl) (x0 : Nat) : Bool :=
  z.body.leases.all (fun e => e.2.ctx != x0 || e.2.st == SlotSt.free || (k.lslot e.1).st == SlotSt.free)

/-- The first die on which every saved cluster maps to a distinct vacant one, ascending to the lowest; with the map. -/
def State.chooseDie (s : State) (r : SaveRec) (x : Nat) (only : Option Nat) : Option (Nat × List (SavedCl × Nat)) :=
  let cls := sortBy (fun (a b : SavedCl) => decide (a.cl < b.cl)) r.cls
  (List.range 4).findSome? (fun d =>
    if (match only with | some e => d != e | none => false) || (s.die d).emerg.phase != EmergPhase.none then none
    else
      let free := (((List.range 40).map (fun i => d * 40 + i)).filter (fun c => s.vacant x c))
      let pairs := cls.foldl (fun (acc : Option (List (SavedCl × Nat))) z =>
        match acc with
        | none => none
        | some ps =>
          (free.find? (fun c => (match ps.getLast? with | some p => decide (p.2 < c) | none => true) &&
            (s.cl c).slotsFree z r.ctx)).map (fun c => ps ++ [(z, c)])) (some [])
      pairs.map (fun ps => (d, ps)))

/-- Restores a saved context as context `x` (R423 steps 2 to 5); the R433 status where it fails. -/
def State.restoreRec (s : State) (r : SaveRec) (x : Nat) (only : Option Nat) : Except Nat State :=
  match s.chooseDie r x only with
  | none => .error 9
  | some (d, pairs) =>
    match tryEach (fun p s => s.restoreOne r x p) pairs s with
    | none => .error 8
    | some s =>
      let s := s.setCtx x { s.ctx x with frun := r.frun }
      let s := s.restoreGangs r x d pairs
      let s := s.restoreXcmds r x d pairs
      let s := pairs.foldl (fun s p => s.restoreLeases p.1 p.2 r.ctx x r.die) s
      .ok ((s.freshen d).arbitrate d)

/-- The image at a VA of context `x`: its header and body, where MAGIC, VERSION, LEN and DIGEST hold (R423 step 1).
The firmware's walks go through D0, the model's choice (assumption 56). -/
def State.checkImage (s : State) (x va : Nat) : Option (List Byte × List (Byte × Bool)) × State :=
  match s.engRead (whoDie 0 agentFw) x va 64 with
  | (.error _, s) => (none, s)
  | (.ok h, s) =>
    let hd := ofBytes (plain h)
    let len := fld hd 191 128
    if anyPoison h || fld hd 31 0 != 0x535646 || fld hd 47 32 != 0x100 || len < 64 || decide (2 ^ 32 < len) then (none, s)
    else match s.engRead (whoDie 0 agentFw) x (va + 64) (len - 64) with
      | (.error _, s) => (none, s)
      | (.ok bs, s) =>
        (if sha256 (plain bs) = (plain h).drop 32 then some (plain h, bs) else none, s)

/-- Restores the image at a VA into context `x`; one that does not read gives RBADIMG. -/
def State.restore (s : State) (x va : Nat) (only : Option Nat) : Except Nat State :=
  match s.checkImage x va with
  | (none, _) => .error 8
  | (some (h, bs), s) =>
    match readImageBytes (ofBytes (h.take 32)) bs with
    | none => .error 8
    | some r => s.restoreRec r x only

end Sys2Proof.Machine
end

