-- ==== Sys2Proof/Machine/Thermal.lean ====
section
/-! DEFINITION. Thermal marks and emergencies (R400 to R403), and the reset of a die (R54, R72, R93, R386). -/

namespace Sys2Proof.Machine

/-! ### A die loses its state -/

/-- A cluster number, or a translation cache, of a die. -/
def ownerOn (d o : Nat) : Bool := if o < 1000 then dieOf o == d else o == 1000 + d

/-- The compute part of a die loses everything: its clusters, launches, leases, exchange queues and caches; a command
that waits for a save there ends without it.  Keys stay bound, and the reference clock runs on. -/
def State.wipeDie (s : State) (d : Nat) : State :=
  let k := s.die d
  let s := { s with
    clusters := s.clusters.filter (fun e => dieOf e.1 != d),
    copies := s.copies.filter (fun e => e.1 / 2 ^ 41 != d && homeDie (e.1 % 2 ^ 41 * 128) != d),
    invals := s.invals.filter (fun v => v.die != d && homeDie (v.line * 128) != d),
    tlb := s.tlb.filter (fun t => !ownerOn d t.owner),
    timeouts := s.timeouts.filter (fun (t : Actor × Nat) => t.1.die != d) }
  let s := s.setDie d { clock := k.clock, keys := k.keys, tj := k.tj, warning := k.warning, emerg := k.emerg, amber := k.amber }
  let s := (s.pkg.boosts.filter (fun b => b.die == d)).foldl (fun s b => s.dropBoost b) s
  let mine := s.pkg.preempts.filter (fun p => p.die == d)
  let s := s.setPkg { s.pkg with preempts := s.pkg.preempts.filter (fun p => p.die != d) }
  mine.foldl (fun s p => match p.cmd with
    | some cmd => (s.destroyCtx p.ctx).fwDone cmd 2
    | none => s) s

/-- The reset of a die: Amber forgets its continuations and its parameters, and TJ reads 0 until it is sampled (R394).
Tier H keeps its contents, so that the entries Amber had written stay as written (R54), and Amber's serial goes on, since
keys stay bound to their contexts (R40, R436).  MCMODE.FRUN of a live context stays: it is the context's on every die (R292); the
model's choice (assumption 59). -/
def State.resetDie (s : State) (d : Nat) : State :=
  let s := s.wipeDie d
  let s := { s with watches := s.watches.filter (fun w => w.die != d) }
  let k := s.die d
  s.setDie d { k with amber := { serial := k.amber.serial }, emerg := {}, warning := false, tj := 0 }

/-- The lifetime log is rewritten from the running counts (R440). -/
def State.rewriteLog (s : State) : State := s.setPkg { s.pkg with logNv := s.pkg.log }

/-! ### Marks (R400 to R402) -/

/-- Contexts that hold work on a die, in the order of their thermal saves (R402). -/
def State.saveOrder (s : State) (d : Nat) : List Nat :=
  let xs := (List.range 64).filter (fun x => (s.ctx x).live && !(s.workClusters d x).isEmpty)
  (List.range 8).reverse.flatMap (fun p => xs.filter (fun x => (s.ctx x).maxprio == p))

/-- The rails of a die fall (R402): contexts not yet saved are lost. -/
def State.railsFall (s : State) (d : Nat) : State :=
  let todo := (s.die d).emerg.todo
  let s := todo.foldl (fun s x => s.lostMessage d x) s
  let s := s.wipeDie d
  let k := s.die d
  s.setDie d { k with emerg := { k.emerg with phase := .down, last := k.clock, todo := [], lost := k.emerg.lost ++ todo } }

/-- The critical mark (R402): T0. -/
def State.critical (s : State) (d : Nat) : State :=
  let s := (s.count logHeat (2 * d + 1)).thermalBoosts
  let s := s.dropEngines d
  let k := s.die d
  let s := s.setDie d { k with emerg := { phase := .saving, t0 := k.clock, last := k.clock, todo := s.saveOrder d } }
  s.thermalDone d

/-- The trip mark (R400, R402): hardware alone, at any time. -/
def State.trip (s : State) (d : Nat) : State :=
  match (s.die d).emerg.phase with
  | .down => s
  | .none => (s.critical d).railsFall d
  | _ => s.railsFall d

/-- THERMAL_SAMPLE (R400, R401): TJ of the actor's die as its sensors read it. -/
def State.sample (s : State) (d tj : Nat) : State :=
  let k := s.die d
  let warn := decide (100 ≤ tj) || (k.warning && decide (95 < tj))
  let cool := if k.emerg.phase != EmergPhase.none && decide (tj ≤ 95) then some (k.emerg.cool.getD k.clock) else none
  let s := s.setDie d { k with tj := tj, warning := warn, emerg := { k.emerg with cool := cool } }
  let s := if warn && !k.warning then (s.count logHeat (2 * d)).revokeBoosts else s
  if 120 ≤ tj then s.trip d
  else if 110 ≤ tj && k.emerg.phase == EmergPhase.none then s.critical d else s

def execThermalSample (tj : BitVec 8) (s : State) : Host.Outcome State Fault Refusal := .next (s.sample s.hereDie tj.toNat)

/-- TRIP_MARK: TJ has reached 120 degrees. -/
def execTripMark (s : State) : Host.Outcome State Fault Refusal := .next (s.sample s.hereDie (max 120 (s.die s.hereDie).tj))

/-! ### The end of an emergency (R402, R403) -/

/-- EMERGENCY_SAVE_TIMEOUT: a save is incomplete at T0 + 50 ms. -/
def execEmergencySaveTimeout (s : State) : Host.Outcome State Fault Refusal :=
  let d := s.hereDie
  let k := s.die d
  .next (if k.emerg.phase == EmergPhase.saving && decide (k.emerg.t0 + 50000 ≤ k.clock) then s.railsFall d else s)

/-- HBM_SELF_REFRESH: 100 microseconds after the last save. -/
def execHbmSelfRefresh (s : State) : Host.Outcome State Fault Refusal :=
  let d := s.hereDie
  let k := s.die d
  .next (if k.emerg.phase == EmergPhase.saved && decide (k.emerg.last + 100 ≤ k.clock) then
    s.setDie d { k with emerg := { k.emerg with phase := .selfRefresh } }
  else s)

/-- RAIL_REMOVAL: 1 ms after the last save. -/
def execRailRemoval (s : State) : Host.Outcome State Fault Refusal :=
  let d := s.hereDie
  let k := s.die d
  .next (if k.emerg.phase == EmergPhase.selfRefresh && decide (k.emerg.last + 1000 ≤ k.clock) then s.railsFall d else s)

/-- A context saved by the emergency is restored on its die (R403, R423); one that cannot be is reported as lost, and one
that has been destroyed since is passed over. -/
def State.thermalRestore (s : State) (d x : Nat) : State :=
  if !(s.ctx x).live then s
  else match s.restore x (s.ctx x).emergVa.toNat (some d) with
  | .ok s => s
  | .error _ => s.lostMessage d x

/-- DIE_REPOWER (R403): once TJ has stayed at or below 95 degrees for 1 s, the die is initialised as by a die reset, but for
tier H and Amber, whatever was written to it while it was down. -/
def execDieRepower (s : State) : Host.Outcome State Fault Refusal :=
  let d := s.hereDie
  let k := s.die d
  .next (match k.emerg.phase, k.emerg.cool with
    | .down, some t =>
      if t + 1000000 ≤ k.clock then
        let s := s.wipeDie d
        let s := (s.setDie d { s.die d with emerg := {}, warning := false, tj := 0 }).rewriteLog
        k.emerg.saved.foldl (fun s x => s.thermalRestore d x) s
      else s
    | _, _ => s)

end Sys2Proof.Machine
end

