-- ==== Sys2Proof/Machine/Firmware.lean ====
section
/-! DEFINITION. The commands of the IOD firmware (R434 to R438, R449, R461), start-up and upkeep (R437 to R440). -/

namespace Sys2Proof.Machine

/-! ### Serving the mailboxes (R433, R434) -/

/-- The known commands, and the mailboxes that may send them: H is 0, D is 1 to 4, L is 5. -/
def fwAllowed (opc m : Nat) : Option Bool :=
  let h := m == 0
  let d := decide (1 ≤ m) && decide (m ≤ 4)
  let l := m == 5
  match opc with
  | 1 => some true
  | 2 => some true
  | 3 => some (h || l)
  | 4 => some (h || l || d)
  | 5 => some (h || d)
  | 6 => some (h || d)
  | 7 => some h
  | 8 => some h
  | 9 => some (h || l)
  | 10 => some (h || d)
  | 11 => some h
  | 12 => some h
  | _ => none

/-- Parameter `i`: the eight bytes from byte 16 + 8 * i. -/
def par (b : List Byte) (i : Nat) : Nat := ofBytes ((b.drop (16 + 8 * i)).take 8)

/-- Parameters from `i` on are zero. -/
def restZero (b : List Byte) (i : Nat) : Bool := (b.drop (16 + 8 * i)).all (fun x => x == 0#8)

/-- Performs the command at the head of the doorbells, if it is of the given opcode; one that no command answers is
disposed of.  Firmware performs one command at a time, and a MAP or UNMAP ends with MAP_COMPLETE. -/
def runFw (opc : Nat) (f : FwCmd → List Byte → State → State) (s : State) : Host.Outcome State Fault Refusal :=
  .next (match s.pkg.fwq with
    | [] => s
    | c :: rest =>
      if s.pkg.mapping.isSome then s
      else
        let pop := fun (s : State) => s.setPkg { s.pkg with fwq := rest }
        match s.fwRead c 0 256 with
        | (none, s) => (pop s).fwDone c 2
        | (some b, s1) =>
          let h := ofBytes (b.take 16)
          match fwAllowed (fwOpc h) c.mbx with
          | none => (pop s1).fwDone c 1
          | some ok =>
            if fwHeadBad h then (pop s1).fwDone c 2
            else if fwOpc h != opc then s
            else if !ok then (pop s1).fwDone c 5
            else f c b (pop s1))

/-! ### IDENTIFY and FEATURES (R434, R435) -/

/-- The features the package supports: bits 0 to 9. -/
def supported : Nat := 0x3FF

/-- IDENTIFY. -/
def execIdentify (s : State) : Host.Outcome State Fault Refusal :=
  runFw 1 (fun c b s =>
    if !restZero b 0 then s.fwDone c 2
    else
      (s.fwWrite c 16 (toBytes 8 Config.partNumber.toNat ++ toBytes 8 Config.stepping.toNat ++ toBytes 8 Config.serial.toNat ++
        toBytes 8 (Config.portBytes 0) ++ toBytes 8 (Config.portBytes 1) ++
        (List.range 4).flatMap (fun d => toBytes 8 (Config.namespaces d)) ++ toBytes 16 supported ++
        toBytes 16 Config.identityI.toNat)).fwDone c 0) s

/-- A pre-emption of the context runs: commands that name it return BUSY (R433). -/
def State.ending (s : State) (x : Nat) : Bool := (s.ctx x).dying || s.pkg.preempts.any (fun p => p.ctx == x)

/-- Some context exists. -/
def State.anyCtx (s : State) : Bool := s.ctxs.any (fun e => e.2.live)

/-- A set of the enable vector (R435); a set that meets a context and names an unsupported bit too returns BUSY, which the
rule names first (assumption 54). -/
def State.setFeatures (s : State) (v : Nat) : Nat × State :=
  if s.anyCtx then (3, s)
  else if v / 1024 != 0 || ((bit v 8 || bit v 9) && !bit v 3 && !bit v 4) then (6, s)
  else (0, s.setPkg { s.pkg with features := v })

/-- FEATURES: every command writes the confirmed vector into its block. -/
def execFeatures (s : State) : Host.Outcome State Fault Refusal :=
  runFw 2 (fun c b s =>
    let set := bit (par b 0) 0
    let (st, s) :=
      if par b 0 / 2 != 0 || !restZero b 3 then (2, s)
      else if !set then (0, s)
      else if c.mbx != 0 then (5, s)
      else s.setFeatures (par b 1 + par b 2 * 2 ^ 64)
    (s.fwWrite c 24 (toBytes 16 s.pkg.features)).fwDone c st) s

/-! ### CTX_CREATE and CTX_DESTROY (R434, R436) -/

/-- The parameters of CTX_CREATE: CTX, MAXPRIO, POWERW, RIGHTS, YCHAN and the number of KEYS in a byte each, then ROOT,
EMERGVA, EMERGLEN, PEERVA, RPTPEER and RESTOREVA, then the key slots and the wrapped keys. -/
structure CtxPar where
  ctx : Nat
  maxprio : Nat
  powerw : Nat
  rights : Nat
  ychan : Nat
  root : Nat
  emergVa : Nat
  emergLen : Nat
  peerVa : Nat
  rptPeer : Nat
  restoreVa : Nat
  keys : List (Nat × List Byte)

/-- Reads them; `none` for a field out of range. -/
def ctxPar (b : List Byte) : Option CtxPar :=
  let w := par b 0
  let n := fld w 47 40
  let x := fld w 7 0
  let y : CtxPar := { ctx := x, maxprio := fld w 15 8, powerw := fld w 23 16, rights := fld w 31 24, ychan := fld w 39 32,
                      root := par b 1, emergVa := par b 2, emergLen := par b 3, peerVa := par b 4, rptPeer := par b 5,
                      restoreVa := par b 6,
                      keys := (List.range n).map (fun i => (fld (par b 7) (8 * i + 7) (8 * i), (b.drop (80 + 40 * i)).take 40)) }
  if fld w 63 48 != 0 || 63 < x || 7 < y.maxprio || y.powerw == 0 || 15 < y.rights || 31 < y.ychan || 4 < n ||
      y.root % 0x10000 != 0 || !inTableRange y.root 3 || y.peerVa % 8 != 0 || fld (par b 7) 63 (8 * n) != 0 ||
      y.keys.any (fun e => decide (63 < e.1)) || !((b.drop (80 + 40 * n)).all (fun x => x == 0#8)) then none
  else some y

/-- A right that a disabled feature forbids. -/
def rightsUnsupported (rights features : Nat) : Bool :=
  (bit rights 0 && !bit features 5) || (bit rights 1 && !bit features 9) || (bit rights 2 && !bit features 7) ||
  (bit rights 3 && !bit features 6)

/-- A key slot is bound on some die. -/
def State.keyBound (s : State) (n : Nat) : Bool := (List.range 4).any (fun d => ((s.die d).keys.find n).isSome)

/-- Binds key slots to a context on every die. -/
def State.bindKeys (s : State) (x : Nat) (ks : List (Nat × List Byte)) : State :=
  (List.range 4).foldl (fun s d =>
    s.setDie d { s.die d with keys := ks.foldl (fun (t : Tab KeySlot) e => t.put e.1 { ctx := x, key := e.2 }) (s.die d).keys }) s

/-- CTX_CREATE (R436), with a restore where RESTOREVA asks for one; a restore that fails creates nothing. -/
def State.createCtx (s : State) (y : CtxPar) : Nat × State :=
  let keys := y.keys.map (fun e => (e.1, keyUnwrap (toBytes 32 Config.deviceKey.toNat) e.2))
  if (s.ctx y.ctx).live then (3, s)
  else if rightsUnsupported y.rights s.pkg.features then (6, s)
  else if y.keys.any (fun e => s.keyBound e.1) then (3, s)
  else if keys.any (fun e => e.2.isNone) then (2, s)
  else
    let s1 := (s.setCtx y.ctx { live := true, root := some y.root, maxprio := y.maxprio, powerw := y.powerw, rights := y.rights,
                                frun := bit y.rights 3, ychan := if bit y.ychan 4 then some (fld y.ychan 3 0) else none,
                                emergVa := BitVec.ofNat 64 y.emergVa, emergLen := y.emergLen,
                                peerVa := BitVec.ofNat 64 y.peerVa, rptPeer := BitVec.ofNat 64 y.rptPeer,
                                saves := (s.ctx y.ctx).saves }).bindKeys y.ctx
      (keys.map (fun e => (e.1, e.2.getD [])))
    if y.restoreVa = 0 then (0, s1)
    else match s1.restore y.ctx y.restoreVa none with
      | .ok s2 => (0, s2)
      | .error st => (st, s)

def execCtxCreate (s : State) : Host.Outcome State Fault Refusal :=
  runFw 3 (fun c b s =>
    match ctxPar b with
    | none => s.fwDone c 2
    | some y => let r := s.createCtx y; r.2.fwDone c r.1) s

/-- The die whose part of a context a save takes: the lowest on which it holds work. -/
def State.saveDie (s : State) (x : Nat) : Nat := ((List.range 4).find? (fun d => !(s.workClusters d x).isEmpty)).getD 0

/-- CTX_DESTROY (R434): with SAVEVA not 0 it is a pre-emption, which ends the context when the image is written. -/
def execCtxDestroy (s : State) : Host.Outcome State Fault Refusal :=
  runFw 4 (fun c b s =>
    let x := par b 0
    let va := par b 1
    let notice := par b 2
    if 63 < x || 100000 < notice || !restZero b 3 then s.fwDone c 2
    else if c.virt && x != c.ctx then s.fwDone c 5
    else if !(s.ctx x).live then s.fwDone c 4
    else if s.ending x then s.fwDone c 3
    else if va = 0 then s.endAndTell x c
    else
      let d := s.saveDie x
      (s.setCtx x { s.ctx x with dying := true }).requestSave
        { ctx := x, die := d, va := va, cls := s.workClusters d x, cmd := some c } notice) s

/-! ### MAP and UNMAP (R27, R434, R449, R461) -/

/-- The physical address of frame `i` of the firmware pool: whole frames of tier H. -/
def poolFrame (i : Nat) : Nat := (Config.poolBase + i) % 2 ^ 27 * 4096

/-- Takes a table page from the pool, cleared; `none` where it is dry. -/
def State.takeTable (s : State) : Option (Nat × State) :=
  match (List.range (Config.poolCount % 2 ^ 27)).find? (fun i => !s.pkg.poolUsed.contains i) with
  | none => none
  | some i =>
    let s := s.setPkg { s.pkg with poolUsed := insertNat i s.pkg.poolUsed }
    some (poolFrame i, s.storeHome 0 agentFw (poolFrame i) (List.replicate 4096 0#8) false)

/-- The level of a page size's leaf, and its bytes. -/
def pageLvl (psize : Nat) : Nat := if psize < 2 then 0 else psize - 1
def pageBytes (psize : Nat) : Nat := pageSize (pageLvl psize) (psize == 1)

/-- An entry of a table. -/
def State.pte (s : State) (a : Nat) : Nat := ofBytes (s.mem.bytes a 8)

/-- Firmware writes an entry. -/
def State.setPte (s : State) (a v : Nat) : State := s.storeHome 0 agentFw a (toBytes 8 v) false

/-- The tables below a non-leaf entry of a level, by their addresses. -/
def State.tablesBelow (s : State) : Nat → Nat → Nat → List Nat
  | 0, _, _ => []
  | fuel + 1, e, lvl =>
    let t := fld e 47 12 * 4096
    t :: (if lvl ≤ 1 then [] else (List.range 512).flatMap (fun i =>
      let y := s.pte (t + 8 * i)
      if bit y 0 && !bit y 1 then s.tablesBelow fuel y (lvl - 1) else []))

/-- What an entry of the range held that has to go: its old translation, and the tables below it. -/
structure Gone where
  old : Bool := false
  tables : List Nat := []

/-- Walks from a table of a level down to the table that holds the leaf's entry, making tables where `make`; `none` in
the first place where the pool is dry or a larger leaf or a malformed entry stands in the way, and in the second where the table is absent. -/
def State.toTable (make : Bool) (va target : Nat) : Nat → State → Nat → Nat → Except Nat (Option Nat × State)
  | 0, s, _, _ => .ok (none, s)
  | fuel + 1, s, t, lvl =>
    if !inTableRange t lvl then .error 2
    else if lvl = target then .ok (some t, s)
    else
      let a := t + levelIdx va lvl * 8
      let e := s.pte a
      if s.poisonedAt a then .error 2
      else if !bit e 0 then
        if make then
          match s.takeTable with
          | none => .error 7
          | some (n, s) => State.toTable make va target fuel (s.setPte a (n + 1)) n (lvl - 1)
        else .ok (none, s)
      else if bit e 1 || malformed e lvl then .error 2
      else State.toTable make va target fuel s (fld e 47 12 * 4096) (lvl - 1)

/-- Writes one leaf, or removes one (`leaf` none), at its level: sixteen entries for a 64 KiB page. -/
def State.putLeaf (s : State) (t va psize : Nat) (leaf : Option Nat) (g : Gone) : Except Nat (State × Gone) :=
  let lvl := pageLvl psize
  let a := t + levelIdx va lvl * 8
  let n := if psize = 1 then 16 else 1
  let es := (List.range n).map (fun i => (a + 8 * i, s.pte (a + 8 * i)))
  if psize = 0 && es.any (fun e => bit e.2 0 && bit e.2 1 && bit e.2 5) then .error 2
  else
    let old := g.old || es.any (fun e => bit e.2 0)
    let tables := es.flatMap (fun e => if bit e.2 0 && !bit e.2 1 && lvl != 0 then s.tablesBelow 3 e.2 lvl else [])
    let s := ((List.range n).zip es).foldl (fun (s : State) e =>
      match leaf with
      | some v => s.setPte e.2.1 (v + e.1 * 4096)
      | none => if bit e.2.2 0 then s.setPte e.2.1 0 else s) s
    .ok (s, { old := old, tables := g.tables ++ tables })

/-- Goes through the pages of a range. -/
def State.mapPages (ctx va psize frame flags : Nat) (put : Bool) : Nat → Nat → State → Gone → Except Nat (State × Gone)
  | 0, _, s, g => .ok (s, g)
  | n + 1, i, s, g =>
    let v := va + i * pageBytes psize
    match (s.ctx ctx).root with
    | none => .error 4
    | some r =>
      match State.toTable put v (pageLvl psize) 4 s r 3 with
      | .error e => .error e
      | .ok (none, s) => State.mapPages ctx va psize frame flags put n (i + 1) s g
      | .ok (some t, s) =>
        match s.putLeaf t v psize (if put then some (frame + i * pageBytes psize + flags) else none) g with
        | .error e => .error e
        | .ok (s, g) => State.mapPages ctx va psize frame flags put n (i + 1) s g

/-- Fields of a MAP block (R449). -/
structure MapPar where
  va : Nat
  frame : Nat
  count : Nat
  ctx : Nat
  psize : Nat
  flags : Nat

/-- Reads a MAP or UNMAP block; `none` for BADARG. -/
def mapPar (put : Bool) (b : List Byte) : Option MapPar :=
  let x := ofBytes b
  let r := b2n (bit x 304)
  let w := b2n (bit x 305)
  let ex := b2n (bit x 306)
  let psize := fld x 297 296
  let y : MapPar := { va := fld x 191 128, frame := fld x 255 192, count := fld x 287 256, ctx := fld x 293 288, psize := psize,
                      flags := 3 + r * 4 + w * 8 + ex * 16 + (if psize = 1 then 32 else 0) + fld x 308 307 * 64 }
  let size := pageBytes psize
  if fld x 295 294 != 0 || fld x 303 298 != 0 || x / 2 ^ 309 != 0 || outside y.count 1 (2 ^ 20) || y.va % size != 0 ||
      decide (2 ^ 52 < y.va + y.count * size) ||
      (if put then y.frame % size != 0 || decide (2 ^ 48 < y.frame + y.count * size) || (w == 1 && r == 0)
       else y.frame != 0 || fld x 308 304 != 0) then none
  else some y

/-- Translations of the range in a context that caches hold (R27). -/
def State.dropTlb (s : State) (ctx va len : Nat) : State :=
  { s with tlb := s.tlb.filter (fun t => !(t.ctx == ctx && decide (t.vbase < va + len) && decide (va < t.vbase + t.size))) }

/-- Table pages go back to the pool. -/
def State.giveTables (s : State) (ts : List Nat) : State :=
  s.setPkg { s.pkg with poolUsed := s.pkg.poolUsed.filter (fun i => !ts.contains (poolFrame i)) }

/-- MAP or UNMAP: all or nothing; one that meets an old translation waits for R27. -/
def State.mapCmd (s : State) (put : Bool) (c : FwCmd) (b : List Byte) : State :=
  match mapPar put b with
  | none => s.fwDone c 2
  | some y =>
    if c.virt && y.ctx != c.ctx then s.fwDone c 5
    else if !(s.ctx y.ctx).live then s.fwDone c 4
    else if s.ending y.ctx then s.fwDone c 3
    else match State.mapPages y.ctx y.va y.psize y.frame y.flags put y.count 0 s {} with
      | .error st => s.fwDone c st
      | .ok (s1, g) =>
        if put && !g.old then s1.fwDone c 0
        else s1.setPkg { s1.pkg with mapping := some { cmd := c, ctx := y.ctx, va := y.va, len := y.count * pageBytes y.psize,
                                                       freed := g.tables } }

def execMap (s : State) : Host.Outcome State Fault Refusal := runFw 5 (fun c b s => s.mapCmd true c b) s
def execUnmap (s : State) : Host.Outcome State Fault Refusal := runFw 6 (fun c b s => s.mapCmd false c b) s

/-- MAP_COMPLETE (R27): every cached translation of the range is gone, and every access translated through one has been
performed. -/
def execMapComplete (s : State) : Host.Outcome State Fault Refusal :=
  .next (match s.pkg.mapping with
    | none => s
    | some m =>
      let s := s.clusters.foldl (fun s e => (s.settleLoads e.1).drainAll e.1) s
      let s := (s.dropTlb m.ctx m.va m.len).giveTables m.freed
      (s.setPkg { s.pkg with mapping := none }).fwDone m.cmd 0)

/-! ### AMBER_CFG (R52) -/

/-- Parameters of AMBER_CFG: die, context, mask, then one value for each parameter of R52 in table order, FNS with three. -/
def amberArg (b : List Byte) (i : Nat) : Nat := par b (3 + (if i ≤ 5 then i else i + 2))

/-- A named parameter is out of range. -/
def amberBad (b : List Byte) : Bool :=
  let on := fun (i : Nat) => bit (par b 2) i
  let v := amberArg b
  decide (3 < par b 0) || decide (63 < par b 1) || par b 2 / 2 ^ 11 != 0 || !restZero b 16 ||
  (on 0 && (v 0 % 64 != 0 || !inH (v 0))) || (on 1 && decide (16384 < v 1)) || (on 2 && outside (v 2) 1 3600000) ||
  (on 3 && outside (v 3) 1 3600000) || (on 4 && outside (v 4) 1 65535) || (on 5 && decide (par b 10 < par b 9)) ||
  (on 6 && !inH (v 6)) || (on 7 && decide (1 < v 7)) || (on 8 && v 8 % 8 != 0) || (on 9 && v 9 % 8 != 0) ||
  (on 10 && decide (63 < v 10))

/-- The parameters take effect. -/
def Amber.configure (a : Amber) (b : List Byte) : Amber :=
  let on := fun (i : Nat) => bit (par b 2) i
  let v := amberArg b
  let pick := fun (i old : Nat) => if on i then v i else old
  let x := a.cfg (par b 1)
  { a with
    recBase := pick 0 a.recBase, recCount := pick 1 a.recCount, hcDef := pick 2 a.hcDef, cfDef := pick 3 a.cfDef,
    horizonDef := pick 4 a.horizonDef, fns := if on 5 then some (v 5, par b 9, par b 10) else a.fns, mapBase := pick 6 a.mapBase,
    ctxs := a.ctxs.put (par b 1) { en := if on 7 then v 7 == 1 else x.en, hstack := pick 8 x.hstack, cstack := pick 9 x.cstack,
                                   keyslot := pick 10 x.keyslot } }

/-- AMBER_CFG (R52, R434, R435). -/
def execAmberCfg (s : State) : Host.Outcome State Fault Refusal :=
  runFw 7 (fun c b s =>
    if !bit s.pkg.features 2 then s.fwDone c 5
    else if amberBad b then s.fwDone c 2
    else if s.ending (par b 1) then s.fwDone c 3
    else
      let d := par b 0
      let a := s.amber d
      if bit (par b 2) 7 && amberArg b 7 == 0 && a.recs.any (fun r => r.2.st != 0 && arCtx r.2.img == par b 1) then s.fwDone c 3
      else (s.setAmber d (a.configure b)).fwDone c 0) s

/-! ### POWER_CFG (R368, R392, R394, R434) -/

/-- Parameters of POWER_CFG: die, mask (0 AWAKE, 1 to 7 spines, 8 POWERW, 9 BOOST, 10 TSPIN), AWAKE, seven frequencies,
context, POWERW, BOOST, and up to 16 TSPIN writes: tile, local cluster, spine. -/
def tspinArg (b : List Byte) : List (Nat × Nat) :=
  (List.range (par b 13)).map (fun i =>
    let e := par b (14 + i)
    (256 * fld e 15 8 + fld e 7 0, fld e 18 16))

/-- A parameter of POWER_CFG is out of range. -/
def powerBad (b : List Byte) : Bool :=
  let on := fun (i : Nat) => bit (par b 1) i
  decide (3 < par b 0) || par b 1 / 2 ^ 11 != 0 || decide (16 < par b 13) ||
  (on 0 && outside (par b 2) 4 64) ||
  (List.range 7).any (fun i => on (1 + i) && (outside (par b (3 + i)) 400 2400 || par b (3 + i) % 100 != 0)) ||
  ((on 8 || on 9) && decide (63 < par b 10)) || (on 8 && outside (par b 11) 1 255) || (on 9 && decide (1 < par b 12)) ||
  (on 10 && (List.range (par b 13)).any (fun i => par b (14 + i) / 2 ^ 19 != 0 || decide (39 < fld (par b (14 + i)) 15 8)))

/-- POWER_CFG. -/
def execPowerCfg (s : State) : Host.Outcome State Fault Refusal :=
  runFw 8 (fun c b s =>
    let on := fun (i : Nat) => bit (par b 1) i
    let d := par b 0
    let x := par b 10
    if powerBad b then s.fwDone c 2
    else if (on 8 || on 9) && !(s.ctx x).live then s.fwDone c 4
    else if (on 8 || on 9) && s.ending x then s.fwDone c 3
    else if on 9 && par b 12 == 1 && !bit s.pkg.features 5 then s.fwDone c 6
    else
      let k := s.die d
      let k := { k with awakeMax := if on 0 then par b 2 else k.awakeMax,
                        spineReq := (List.range 7).foldl (fun (t : Tab Nat) i =>
                          if on (1 + i) then t.put (1 + i) (par b (3 + i)) else t) k.spineReq,
                        tspinNew := if on 10 then (tspinArg b).foldl (fun (t : Tab Nat) e => t.put e.1 e.2) k.tspinNew
                                    else k.tspinNew }
      let s := s.setDie d k
      let y := s.ctx x
      let s := if on 8 then s.setCtx x { y with powerw := par b 11 } else s
      let y := s.ctx x
      let s := if on 9 then s.setCtx x { y with rights := putFld y.rights 0 0 (par b 12) } else s
      ((s.setDie d (s.die d).awakeDown).arbitrate d).fwDone c 0) s

/-! ### ATTEST (R438) -/

/-- Writes bytes at an address that a command names: a PA for mailboxes 0 and 5, a VA for the others. -/
def State.fwPut (s : State) (c : FwCmd) (a : Nat) (bs : List Byte) : Bool × State :=
  if c.virt then
    match s.engPut (whoFw c.mbx) c.ctx a bs with
    | (none, s) => (true, s)
    | (some _, s) => (false, s)
  else if (inH a && inH (a + bs.length)) || (inC a && inC (a + bs.length)) then (true, s.storeHome 0 agentFw a bs false)
  else (false, s)

/-- The SHA-256 digest of the running firmware image (R438). -/
def State.fwDigest (s : State) : List Byte :=
  if s.pkg.fwRun.isEmpty then toBytes 32 Config.fwDigest.toNat else sha256 s.pkg.fwRun

/-- The report: nonce, firmware digest, serial, features, number and RIGHTS of each context, leaf; 256 bytes. -/
def State.attestReport (s : State) (nonce : List Byte) : List Byte :=
  nonce ++ s.fwDigest ++ toBytes 8 Config.serial.toNat ++ toBytes 16 s.pkg.features ++
  (List.range 64).flatMap (fun x => toBytes 1 x ++ toBytes 1 (s.ctx x).rights) ++ toBytes 8 s.pkg.leaf ++ List.replicate 32 0#8

/-- ATTEST: the nonce, and the address that receives the report and the signature; the counter advances first. -/
def execAttest (s : State) : Host.Outcome State Fault Refusal :=
  runFw 9 (fun c b s =>
    if !restZero b 5 then s.fwDone c 2
    else if 2 ^ 20 ≤ s.pkg.leaf then s.fwDone c 11
    else
      let rep := s.attestReport ((b.drop 16).take 32)
      let sig := lmsSignature s.pkg.leaf (sha256 rep)
      let s := s.setPkg { s.pkg with leaf := s.pkg.leaf + 1 }
      let r := s.fwPut c (par b 4) (rep ++ sig)
      r.2.fwDone c (if r.1 then 0 else 2)) s

/-! ### The lifetime log (R440) -/

/-- The bins of the log's histograms in the order of R440: histogram, number of bins. -/
def logShape : List (Nat × Nat) :=
  [(logTj, 100), (logDroop, 1512), (logHbm, 512), (logSram, 10304), (logRetrain, 31), (logBoost, 4), (logHeat, 8),
   (logMachineCheck, 9)]

/-- Every bin in order; the last histogram has one for each tier-F namespace, die by die. -/
def logBins : List (Nat × Nat) :=
  logShape.flatMap (fun e => (List.range e.2).map (fun k => (e.1, k))) ++
  (List.range 4).flatMap (fun d => (List.range (Config.namespaces d)).map (fun n => (logTierF, nsBin d (n + 1))))

/-- The log as bytes: one 64-bit counter for each bin; temperature counts are kept in samples of 100 ms and read in
minutes. -/
def logBytes (t : Tab Nat) : List Byte :=
  logBins.flatMap (fun e =>
    let n := t.get (e.1 * 2 ^ 32 + e.2) 0
    toBytes 8 (if e.1 = logTj then n / 600 else n))

/-- LIFELOG_READ: byte offset, length, destination. -/
def execLifelogRead (s : State) : Host.Outcome State Fault Refusal :=
  runFw 10 (fun c b s =>
    let log := logBytes s.pkg.logNv
    if !restZero b 3 || decide (log.length < par b 0 + par b 1) then s.fwDone c 2
    else
      let r := s.fwPut c (par b 2) ((log.drop (par b 0)).take (par b 1))
      r.2.fwDone c (if r.1 then 0 else 2)) s

/-- LIFELOG_REWRITE: every 10 minutes of the IOD's reference clock. -/
def execLifelogRewrite (s : State) : Host.Outcome State Fault Refusal :=
  .next (if s.pkg.logDue ≤ s.pkg.clock then
    s.rewriteLog.setPkg { s.rewriteLog.pkg with logDue := s.pkg.logDue + 600000000 }
  else s)

/-- TELEMETRY_SAMPLE (R439): the actor's die's junction temperature is counted. -/
def execTelemetrySample (s : State) : Host.Outcome State Fault Refusal :=
  let d := s.hereDie
  .next (s.count logTj (25 * d + min 24 ((s.die d).tj / 5)))

/-- VOLTAGE_DROOP: an event of one voltage island, by depth in millivolts. -/
def execVoltageDroop (vfi depth : BitVec 8) (s : State) : Host.Outcome State Fault Refusal :=
  .next (if vfi.toNat < 168 ∧ 10 ≤ depth.toNat then s.count logDroop (9 * vfi.toNat + min 8 (depth.toNat / 10 - 1)) else s)

/-- LANE_RETRAIN, counted per link: UALink 0 to 17, Ultra Ethernet 18 and 19, the host 20, tier C 21 and 22, tier F 23 to 26,
and the compute dies' UCIe 27 to 30. -/
def execLaneRetrain (link : BitVec 5) (s : State) : Host.Outcome State Fault Refusal :=
  .next (if link.toNat < 31 then s.count logRetrain link.toNat else s)

/-- RECALIBRATION (R439): without a retrain, on the reserve of R390; nothing that the state holds changes. -/
def execRecalibration (_ : BitVec 5) (s : State) : Host.Outcome State Fault Refusal := .next s

/-- WEAR_LEVELLING (R439): freed extents of the actor's die are deallocated. -/
def execWearLevelling (s : State) : Host.Outcome State Fault Refusal :=
  let d := s.hereDie
  .next (s.setAmber d { s.amber d with freed := [] })

/-! ### RESET_DIE and FW_UPDATE (R434) -/

/-- RESET_DIE: die, FORCE; the contexts that held work there are reported as abandoned (R406). -/
def execResetDie (s : State) : Host.Outcome State Fault Refusal :=
  runFw 11 (fun c b s =>
    let d := par b 0
    if 3 < d || 1 < par b 1 || !restZero b 2 then s.fwDone c 2
    else
      let xs := (List.range 64).flatMap (fun x => (s.workClusters d x).map (fun i => (x, d * 40 + i)))
      if par b 1 = 0 ∧ !xs.isEmpty then s.fwDone c 3
      else
        let s := xs.foldl (fun s e => s.send { kind := 5, dest := e.2, addr := e.1 }) s
        ((s.resetDie d).rewriteLog).fwDone c 0) s

/-- FW_UPDATE: physical address and length of an image, which is signed as in R187. -/
def execFwUpdate (s : State) : Host.Outcome State Fault Refusal :=
  runFw 12 (fun c b s =>
    let a := par b 0
    let n := par b 1
    if !restZero b 2 || n == 0 || !((inH a && inH (a + n)) || (inC a && inC (a + n))) then s.fwDone c 2
    else if (List.range n).any (fun i => s.poisonedAt (a + i)) then s.fwDone c 10
    else
      let img := s.mem.bytes a n
      if lmsVerified img then (s.setPkg { s.pkg with flash := img }).fwDone c 0 else s.fwDone c 10) s

/-! ### Start-up and power loss (R437, R440) -/

/-- A flash bank holds a valid image: the delivered one, written as no bytes, or one that LMS verifies (R437). -/
def bankValid (img : List Byte) : Bool := img.isEmpty || lmsVerified img

/-- The boot ROM verifies both banks and runs the valid image of the higher version (R437): the running and the inactive bank
afterwards, none where neither is valid.  Of equal versions the bank that ran before runs on (assumption 61). -/
def Package.boot (p : Package) : Option (List Byte × List Byte) :=
  match bankValid p.fwRun, bankValid p.flash with
  | false, false => none
  | true, false => some (p.fwRun, p.flash)
  | false, true => some (p.flash, p.fwRun)
  | true, true => if Config.fwVersion p.fwRun < Config.fwVersion p.flash then some (p.flash, p.fwRun) else some (p.fwRun, p.flash)

/-- Everything that does not outlive a package reset: contexts, dies, clusters, links, queues, tier H. -/
def State.packageReset (s : State) (keepC : Bool) (log : Tab Nat) : State :=
  { State.reset with
    mem := if keepC then s.mem.filter (fun e => !inH e.1) else [],
    poison := if keepC then s.poison.filter (fun w => !inH (w * 32)) else [],
    pkg := { log := log, logNv := s.pkg.logNv, leaf := s.pkg.leaf, fwRun := s.pkg.fwRun, flash := s.pkg.flash,
             outbox := s.pkg.outbox, startup := 0 },
    actor := s.actor, agenda := s.agenda, free := s.free }

/-- POWER_UP (R437): power-up or a package reset, and then the steps that follow, each once the one before it is complete.
With no valid firmware the IOD reports the failure and stops. -/
def execPowerUp (s : State) : Host.Outcome State Fault Refusal :=
  let n := s.pkg.startup
  .next (if 1 ≤ n ∧ n < 8 then s.setPkg { s.pkg with startup := n + 1 }
  else
    let u := s.packageReset true s.pkg.log
    match s.pkg.boot with
    | none => u.send { kind := 5, dest := 4000 }
    | some b => u.setPkg { u.pkg with fwRun := b.1, flash := b.2, startup := 1 })

/-- POWER_LOSS (R440): counts since the last rewrite are lost with everything volatile. -/
def execPowerLoss (s : State) : Host.Outcome State Fault Refusal := .next (s.packageReset false s.pkg.logNv)

end Sys2Proof.Machine
end

