-- ==== Sys2Proof/Machine/Online.lean ====
section
/-! DEFINITION. Online arithmetic (chapter 7): when a lane's header is decided and what it is, and the digits that the
recurrence of R140 emits.  Every digit is a function of the digits received so far, so nothing is kept between steps. -/

namespace Sys2Proof.Machine

/-- What has arrived of one operand's lane: its header and digits, and whether the number has ended. -/
structure Part where
  u : DNum := {}
  fin : Bool := false
  deriving DecidableEq, Repr, Inhabited

/-- Digits 1 to `k` are known (R147: an ended number's missing digits are 0; positions beyond L are 0). -/
def Part.known (p : Part) (L k : Nat) : Bool := p.u.spec || p.fin || decide (min k L ≤ p.u.digits.length)

/-- Its first DIGITS token has arrived, or the number has ended without one. -/
def Part.begun (p : Part) : Bool := p.fin || !p.u.digits.isEmpty

/-- The whole number has arrived. -/
def Part.whole (p : Part) (L : Nat) : Bool := p.known L L

/-- The digits of the operand cut at L. -/
def Part.ds (p : Part) (L : Nat) : List Int := p.u.digits.take L

/-- pre(u, k) as an integer over 4^k (R137). -/
def Part.pre (p : Part) (L k : Nat) : Int :=
  preInt ((List.range k).map (fun i => if i < L then p.u.digits.getD i 0 else 0))

/-- dsign (R150): the sign of the first digit that is not 0; 0 once the whole number is 0; `none` while undecided.
A sign is decided at the first non-zero digit because every later tail is smaller than that digit's unit. -/
def Part.sign (p : Part) (L : Nat) : Option Int :=
  if p.u.spec then some (if p.u.e = 1 then 1 else if p.u.e = 2 then -1 else 0)
  else match (p.ds L).find? (fun d => d != 0) with
    | some d => some (if d < 0 then -1 else 1)
    | none => if p.whole L then some 0 else none

/-- The number is zero: code 0, or all its digits are 0 (R145); `none` while undecided. -/
def Part.zero (p : Part) (L : Nat) : Option Bool :=
  if p.u.spec then some (p.u.e == 0) else (p.sign L).map (fun s => s == 0)

/-- Normalised (R138), tested on the first two digits; `none` until they have arrived. -/
def Part.normalised (p : Part) (L : Nat) : Option Bool :=
  if p.known L 2 then
    let d1 := (p.ds L).getD 0 0
    let d2 := (p.ds L).getD 1 0
    some (d1 != 0 && decide (0 ≤ d1 * d2))
  else none

/-- The exact order of two whole numbers that are not special. -/
def wholeOrder (L : Nat) (a b : Part) : Int :=
  let er := max a.u.e b.u.e
  let x := a.pre L L * 4 ^ (er - b.u.e)
  let y := b.pre L L * 4 ^ (er - a.u.e)
  -- both over 4^(L + (er - a.e) + (er - b.e))
  if x < y then -1 else if y < x then 1 else 0

/-- alg(u, Er, k) over 4^k, for the shift `d = Er - E_u` (R137). -/
def Part.aligned (p : Part) (L d k : Nat) : Int := if d ≤ k then p.pre L (k - d) else 0

/-- The order at aligned position `k`, once the two prefixes are more than both tails apart (R150). -/
def orderAt (L : Nat) (a b : Part) (k : Nat) : Option Int :=
  let er := max a.u.e b.u.e
  let t := a.aligned L (er - a.u.e) k - b.aligned L (er - b.u.e) k
  if 2 ≤ t then some 1 else if t ≤ -2 then some (-1) else none

/-- dcmp (R150): decided at the smallest aligned position below L at which both prefixes are known and far enough
apart, and exactly at L. -/
def dcmp (L : Nat) (a b : Part) : Option Int :=
  if a.u.isInf || b.u.isInf then
    let w := fun (p : Part) => if p.u.isPosInf then (1 : Int) else if p.u.isNegInf then -1 else 0
    some (if w a < w b then -1 else if w b < w a then 1 else 0)
  else if a.u.spec && b.u.spec then some 0
  else if a.u.spec then (b.sign L).map (fun s => -s)
  else if b.u.spec then a.sign L
  else
    let er := max a.u.e b.u.e
    let ok := fun k => a.known L (k - (er - a.u.e)) && b.known L (k - (er - b.u.e))
    match (List.range L).find? (fun k => ok k && (orderAt L a b k).isSome) with
    | some k => orderAt L a b k
    | none => if a.whole L && b.whole L then some (wholeOrder L a b) else none

/-! ### Exponents and special lanes (R139, R144, R145) -/

/-- The online operations. -/
inductive OnOp where
  | add | sub | mul | fma | div | sqrt | rsq | exp | log
  deriving DecidableEq, Repr, Inhabited

/-- The online delay δ (R139). -/
def OnOp.delta : OnOp → Nat
  | .add => 1
  | .sub => 1
  | .mul => 2
  | .fma => 3
  | .div => 3
  | .sqrt => 3
  | .rsq => 4
  | .exp => 4
  | .log => 4

/-- What is known of a lane's result: nothing yet, a special header with its flags, or a number of exponent `eout` whose
digits run with the extra delay `lam`. -/
inductive Dec where
  | wait
  | code (c fl : Nat)
  | run (eout lam : Nat)
  deriving DecidableEq, Repr, Inhabited

/-- An exponent, held to its range (R144). -/
def Dec.exponent (e : Int) (lam : Nat) : Dec :=
  if 511 < e then .code 3 fOf else if e < 0 then .code 0 fUf else .run e.toNat lam

/-- The code of an infinity. -/
def infCode (neg : Bool) : Nat := if neg then 2 else 1

/-- `floor(N/2)` and the like are integer divisions toward minus infinity. -/
def halfFloor (x : Int) : Int := x.fdiv 2

/-- DEXP's integer prefix N (R139), once its digits have arrived. -/
def expN (L : Nat) (x : Part) : Option Int :=
  let e : Int := (x.u.e : Int) - 256
  if x.u.spec || e ≤ 0 then some 0
  else if x.known L e.toNat then some (x.pre L e.toNat) else none

/-- DLOG's m (R139). -/
def logM (e : Int) : Nat :=
  let a := e.natAbs
  if a ≤ 2 then 2 else if a ≤ 14 then 3 else if a ≤ 62 then 4 else if a ≤ 254 then 5 else 6

/-- DADD and DSUB, where neither operand is NaN; `sb` negates B. -/
def decAdd (x y : Part) (sb : Bool) : Dec :=
  let negY := if sb then y.u.isPosInf else y.u.isNegInf
  if x.u.isInf && y.u.isInf then (if x.u.isNegInf = negY then .code (infCode negY) 0 else .code 3 fNv)
  else if x.u.isInf then .code x.u.e 0
  else if y.u.isInf then .code (infCode negY) 0
  else if x.u.spec && y.u.spec then .code 0 0
  else
    let er := if x.u.spec then y.u.e else if y.u.spec then x.u.e else max x.u.e y.u.e
    .exponent (er + 1) 0

/-- The product of DMUL and DFMA: a special code, or `none` for a product of two numbers. -/
def decProd (L : Nat) (x y : Part) : Option Dec :=
  if x.u.isInf || y.u.isInf then
    some (match x.zero L, y.zero L with
      | some true, _ => .code 3 fNv
      | _, some true => .code 3 fNv
      | some false, some false =>
        match x.sign L, y.sign L with
        | some a, some b => .code (infCode (decide (a * b < 0))) 0
        | _, _ => .wait
      | _, _ => .wait)
  else if x.u.spec || y.u.spec then some (.code 0 0)
  else none

/-- A lane's header, from what has arrived (R139, R144 to R146). -/
def decideHeader (op : OnOp) (L : Nat) (x y c : Part) : Dec :=
  let used := match op with
    | .add | .sub | .mul | .div => [x, y]
    | .fma => [x, y, c]
    | _ => [x]
  -- these wait for the first DIGITS token of the constrained input, in every lane (R146)
  let first := match op with
    | .div => y.begun
    | .sqrt | .rsq | .log => x.begun
    | _ => true
  if !first then .wait
  else if used.any (fun p => p.u.isNan) then .code 3 (if used.any (fun p => p.u.bad) then fNv else 0)
  else
    let e : Int := (x.u.e : Int) - 256
    match op with
    | .add => decAdd x y false
    | .sub => decAdd x y true
    | .mul =>
      match decProd L x y with
      | some d => d
      | none => .exponent ((x.u.e : Int) + y.u.e - 255) 0
    | .fma =>
      match decProd L x y with
      | some .wait => .wait
      | some (.code 3 f) => .code 3 f
      | some (.code 0 _) => if c.u.spec then .code c.u.e 0 else .exponent ((c.u.e : Int) + 1) 0
      | some (.code p _) => if c.u.isInf && c.u.e != p then .code 3 fNv else .code p 0
      | some (.run e' l) => .run e' l
      | none =>
        if c.u.isInf then .code c.u.e 0
        else
          let ep : Int := (x.u.e : Int) + y.u.e - 256
          .exponent ((if c.u.spec then ep else max ep c.u.e) + 1) 0
    | .div =>
      match (if y.u.spec then some true else y.normalised L) with
      | none => .wait
      | some false => .code 3 fNv
      | some true =>
        if y.u.isInf then (if x.u.isInf then .code 3 fNv else .code 0 0)
        else if y.u.spec then
          match x.sign L with
          | none => .wait
          | some 0 => .code 3 fNv
          | some s => .code (infCode (s < 0)) fDz
        else if x.u.isInf then .code (infCode (x.u.isNegInf != ((y.ds L).getD 0 0 < 0 : Bool))) 0
        else if x.u.spec then .code 0 0
        else .exponent ((x.u.e : Int) - y.u.e + 258) 0
    | .sqrt =>
      if x.u.spec then (if x.u.e = 2 then .code 3 fNv else .code x.u.e 0)
      else match x.normalised L with
        | none => .wait
        | some ok =>
          if ok && (0 < (x.ds L).getD 0 0 : Bool) then .exponent (256 + (halfFloor e + 1)) 0 else .code 3 fNv
    | .rsq =>
      if x.u.spec then (if x.u.e = 2 then .code 3 fNv else if x.u.e = 0 then .code 1 fDz else .code 0 0)
      else match x.normalised L with
        | none => .wait
        | some ok =>
          if ok && (0 < (x.ds L).getD 0 0 : Bool) then .exponent (256 + halfFloor (3 - e + 1)) 0 else .code 3 fNv
    | .exp =>
      if x.u.isPosInf then .code 1 0
      else if x.u.isNegInf then .code 0 0
      else match expN L x with
        | none => .wait
        | some n =>
          if n ≤ -127 then .code 0 fUf
          else if 508 ≤ n then .code 1 fOf
          else
            let go := Dec.exponent (256 + (halfFloor n + 2)) e.toNat
            if n = -126 then
              -- x + 126 has the sign of the digits after the integer prefix
              match (Part.sign { x with u := { x.u with digits := x.u.digits.drop e.toNat } } (L - e.toNat)) with
              | none => .wait
              | some s => if s < 0 then .code 0 fUf else go
            else go
    | .log =>
      if x.u.spec then (if x.u.e = 2 then .code 3 fNv else if x.u.e = 0 then .code 2 fDz else .code 1 0)
      else match x.normalised L with
        | none => .wait
        | some ok => if ok && (0 < (x.ds L).getD 0 0 : Bool) then .exponent (256 + logM e) 0 else .code 3 fNv

/-! ### The reference rounding (R142) -/

/-- The nearest integer to `n / d`, ties to even. -/
def nearest (n : Int) (d : Nat) : Int :=
  let q := n.fdiv d
  let r := n - q * d
  if (d : Int) < 2 * r || (2 * r == (d : Int) && q % 2 != 0) then q + 1 else q

/-- Integer square root, bit by bit. -/
def isqrtFrom (a : Nat) : Nat → Nat → Nat
  | 0, r => r
  | i + 1, r => isqrtFrom a i (if (r + 2 ^ i) * (r + 2 ^ i) ≤ a then r + 2 ^ i else r)

/-- The floor of the square root. -/
def isqrt (a : Nat) : Nat := isqrtFrom a (Nat.log2 a / 2 + 1) 0

/-- The nearest integer to the square root of `n / d`, ties to even. -/
def nearestSqrt (n d : Nat) : Int :=
  let a := 4 * n / d
  let r := isqrt a
  let half := (r + 1) / 2
  if r % 2 = 1 ∧ r * r = a ∧ 4 * n % d = 0 ∧ half % 2 = 1 then (half : Int) - 1 else half

/-- Bounds of `2^(a / 2^s)` for `a < 2^s`, as integers over `2^P`: a product of square roots of square roots of 2. -/
def pow2Bounds (P a s : Nat) : Nat × Nat :=
  let step := fun (st : (Nat × Nat) × (Nat × Nat)) (i : Nat) =>
    let ((rl, rh), (lo, hi)) := st
    let rl := isqrt (rl * 2 ^ P)
    let rh := isqrt (rh * 2 ^ P) + 1
    let b := decide (i + 1 ≤ s) && a.testBit (s - (i + 1))
    ((rl, rh), if b then ((lo * rl) >>> P, ((hi * rh) >>> P) + 1) else (lo, hi))
  let (_, (lo, hi)) := (List.range (min P s)).foldl step ((2 * 2 ^ P, 2 * 2 ^ P), (2 ^ P, 2 ^ P))
  (lo, if s ≤ P then hi else hi + (hi >>> P) + 2)

/-- Bounds of `log2 (n / d)` for `1 ≤ n / d < 2`, as integers over `2^P`, by repeated squaring; `fuel` bits at most. -/
def log2Bounds (Q : Nat) : Nat → Nat → Nat → Nat → Nat → Nat × Nat
  | 0, _, _, acc, w => (acc * w, (acc + 1) * w)
  | fuel + 1, lo, hi, acc, w =>
    let lo2 := (lo * lo) >>> Q
    let hi2 := ((hi * hi) >>> Q) + 1
    if 2 * 2 ^ Q ≤ lo2 then log2Bounds Q fuel (lo2 / 2) ((hi2 + 1) / 2) (2 * acc + 1) (w / 2)
    else if hi2 < 2 * 2 ^ Q then log2Bounds Q fuel lo2 hi2 (2 * acc) (w / 2)
    else (acc * w, (acc + 1) * w)

/-- Rounds a real that bounds at rising precision enclose: the first precision at which both ends round alike. -/
def settleAt (f : Nat → Int × Int) : List Nat → Int
  | [] => 0
  | [p] => (f p).1
  | p :: q :: t => if (f p).1 = (f p).2 then (f p).1 else settleAt f (q :: t)

/-- The working precisions. -/
def precisions : List Nat := [128, 256, 1024, 4096]

/-- The nearest integer to `2^(a / 2^s) * 2^t`, for an integer `a` of either sign. -/
def nearestPow2 (a : Int) (s : Nat) (t : Int) : Int :=
  let fl := a.fdiv (2 ^ s : Nat)
  let fr := (a - fl * (2 ^ s : Nat)).toNat
  settleAt (fun P =>
    let (lo, hi) := pow2Bounds P fr s
    let sh : Int := fl + t - P
    let r := fun (x : Nat) => if 0 ≤ sh then (x : Int) * 2 ^ sh.toNat else nearest x (2 ^ (-sh).toNat)
    (r lo, r hi)) precisions

/-- The nearest integer to `(c + log2 (n / d)) * 4^g`, for positive `n` and `d`, `g ≥ 0`. -/
def nearestLog2 (c : Int) (n d g : Nat) : Int :=
  -- n / d = 2^k * y with 1 ≤ y < 2
  let k0 : Int := (Nat.log2 n : Int) - Nat.log2 d
  let up := fun (k : Int) => if 0 ≤ k then n < d * 2 ^ k.toNat else n * 2 ^ (-k).toNat < d
  let k := if up k0 then k0 - 1 else k0
  settleAt (fun P =>
    let Q := 2 * P + 16
    let num := if 0 ≤ k then n * 2 ^ Q else n * 2 ^ (Q + (-k).toNat)
    let den := if 0 ≤ k then d * 2 ^ k.toNat else d
    let lo := num / den
    let hi := (num + den - 1) / den
    let (a, b) := if lo = 2 ^ Q ∧ hi = 2 ^ Q then (0, 0) else log2Bounds Q P lo hi 0 (2 ^ P)
    let r := fun (x : Nat) => nearest (((c + k) * 2 ^ P + x) * 4 ^ g) (2 ^ P)
    (r a, r b)) precisions

/-! ### Targets and digits (R139 to R142) -/

/-- G_k of R139 as a fraction: numerator and positive denominator.  For DSQRT, DRSQ, DEXP and DLOG it is rref, over
4^(L+12). -/
def target (op : OnOp) (L : Nat) (x y c : Part) (k : Nat) : Int × Nat :=
  let e : Int := (x.u.e : Int) - 256
  let X := x.pre L k
  let Y := y.pre L k
  let grid := 4 ^ (L + 12)
  match op with
  | .add | .sub =>
    let ex := if x.u.spec then y.u.e else x.u.e
    let ey := if y.u.spec then x.u.e else y.u.e
    let er := max ex ey
    let a := if x.u.spec then 0 else x.aligned L (er - ex) k
    let b := if y.u.spec then 0 else y.aligned L (er - ey) k
    (if op = .add then a + b else a - b, 4 ^ (k + 1))
  | .mul => (X * Y, 4 ^ (2 * k + 1))
  | .fma =>
    let prodZero := x.u.spec || y.u.spec
    let ep : Int := if prodZero then c.u.e else (x.u.e : Int) + y.u.e - 256
    let ec : Int := if c.u.spec then ep else c.u.e
    let er := max ep ec
    let sp := (er - ep).toNat
    let P := if prodZero then 0 else X * Y
    let C := if c.u.spec then 0 else c.aligned L (er - ec).toNat k
    -- P / 4^(2k + sp) + C / 4^k, all over 4
    (P + C * 4 ^ (k + sp), 4 ^ (2 * k + sp + 1))
  | .div => if Y < 0 then (-X, 16 * Y.natAbs) else (X, 16 * Y.natAbs)
  | .sqrt =>
    let m := halfFloor e + 1
    -- sqrt(X / 4^k) * 2^(e - 2m) * 4^(L+12): e - 2m is -2 or -1
    (nearestSqrt (X.toNat * 16 ^ (L + 12)) (4 ^ k * 4 ^ (2 * m - e).toNat), grid)
  | .rsq =>
    let m := halfFloor (3 - e + 1)
    -- 2^(-e - 2m) / sqrt(X / 4^k) * 4^(L+12): e + 2m is 3 or 4
    (nearestSqrt (4 ^ k * 16 ^ (L + 12)) (X.toNat * 4 ^ (e + 2 * m).toNat), grid)
  | .exp =>
    let N := (expN L x).getD 0
    let m := halfFloor N + 2
    -- 4^e * X / 4^k - 2m, over 2^s
    let e' := if x.u.spec then 0 else e
    let s : Int := 2 * k - 2 * e'
    let s' := s.toNat
    let X := if x.u.spec then 0 else X
    let a : Int := (if 0 ≤ s then X else X * 2 ^ (-s).toNat) - 2 * m * 2 ^ s'
    (nearestPow2 a s' (2 * (L + 12)), grid)
  | .log => (nearestLog2 (2 * e) X.toNat (4 ^ k) (L + 12 - logM e), grid)

/-- sel of R141 on `v = n / d`. -/
def selDigit (n : Int) (d : Nat) : Int :=
  let vh := (16 * n).fdiv d
  max (-3) (min 3 ((vh + 8).fdiv 16))

/-- Digits 1 to `n` of R140.  By R140 the residual is `w = 4^j * (G - S)`, S the sum of the digits emitted so far, so
that `v = 4^j * (G_k - S)` at step `j`; the state here is S over 4^(j-1). -/
def onlineDigits (op : OnOp) (L : Nat) (x y c : Part) (lam n : Nat) : List Int :=
  ((List.range n).foldl (fun (st : List Int × Int) i =>
    let j := i + 1
    let (g, d) := target op L x y c (j + op.delta + lam)
    -- v = 4^j * g / d - 4 * S
    let p := selDigit (4 ^ j * g - 4 * st.2 * d) d
    (st.1 ++ [p], 4 * st.2 + p)) (([] : List Int), (0 : Int))).1

/-- A whole lane: the result of an operation on whole numbers (R246). -/
def onlineLane (op : OnOp) (L : Nat) (x y c : DNum) : DNum × Nat :=
  let px : Part := { u := x, fin := true }
  let py : Part := { u := y, fin := true }
  let pc : Part := { u := c, fin := true }
  match decideHeader op L px py pc with
  | .wait => (.code 3, 0)
  | .code k f => (.code k, f)
  | .run e lam => ({ e := e, digits := onlineDigits op L px py pc lam L }, 0)

/-! ### Normalisation and scaling (R149, R249) -/

/-- dnorm of R149 on a whole number: the header and digits, and the flags. -/
def dnorm (L : Nat) (u : DNum) : DNum × Nat :=
  if u.isNan then (.code (if u.spec && !u.bad then u.e else 3), if u.bad then fNv else 0)
  else if u.spec then (.code u.e, 0)
  else
    let t := preInt (u.take L)
    let a := t.natAbs
    if a = 0 then (.code 0, 0)
    else
      -- 1/4 ≤ a * 4^s / 4^L < 1
      let s := L - 1 - Nat.log2 a / 2
      if u.e < s then (.code 0, fUf)
      else ({ e := u.e - s, digits := (base4 (a * 4 ^ s) L).map (fun d => if t < 0 then -d else d) }, 0)

end Sys2Proof.Machine
end

