-- ==== Sys2Proof/Machine/IsleNum.lean ====
section
/-! DEFINITION. Arithmetic of the matrix islands: operand formats (R118 to R120), unit sums and accumulation (R121, R122,
R266), output conversion (R132), the softmax exponential (R274), and the layout of ring slots (R261). -/

namespace Sys2Proof.Machine

/-- The sign of a NaN that comes of NaNs of both signs: R121 speaks of "the result's sign" alone (assumption 2). -/
opaque Config.mixedNanSign : Bool

/-! ### Formats (R118) -/

/-- The element format of an operand code: element width in bits, significand width b, block length of a block-scaled
format. -/
structure OpFmt where
  width : Nat
  b : Nat
  block : Option Nat
  deriving DecidableEq, Repr, Inhabited

def opFmt : Nat → OpFmt
  | 0x0 => ⟨4, 2, some 32⟩
  | 0x1 => ⟨6, 4, some 32⟩
  | 0x2 => ⟨6, 3, some 32⟩
  | 0x3 => ⟨8, 4, some 32⟩
  | 0x4 => ⟨8, 3, some 32⟩
  | 0x5 => ⟨8, 8, some 32⟩
  | 0x6 => ⟨4, 2, some 256⟩
  | 0x7 => ⟨8, 4, some 256⟩
  | 0x8 => ⟨8, 4, none⟩
  | 0x9 => ⟨8, 3, none⟩
  | 0xA => ⟨8, 8, none⟩
  | 0xB => ⟨4, 4, none⟩
  | 0xC => ⟨16, 8, none⟩
  | _ => ⟨16, 11, none⟩

/-- Planes of a format. -/
def planes (code : Nat) : Nat := ((opFmt code).b + 1) / 2

/-- The format gives an integer accumulator. -/
def isIntCode (code : Nat) : Bool := code == 0xA || code == 0xB

/-- The value of an element. -/
def opValue (code x : Nat) : Fp :=
  match code with
  | 0x0 => e2m1.decode x false
  | 0x1 => e2m3.decode x false
  | 0x2 => e3m2.decode x false
  | 0x3 => e4m3.decode x false
  | 0x4 => e5m2.decode x false
  | 0x5 => { Fp.ofInt (signed x 8) with e := -6 }
  | 0x6 => e2m1.decode x false
  | 0x7 => e4m3.decode x false
  | 0x8 => e4m3.decode x false
  | 0x9 => e5m2.decode x false
  | 0xA => Fp.ofInt (signed x 8)
  | 0xB => Fp.ofInt (signed x 4)
  | 0xC => bf16.decode x false
  | _ => fp16.decode x false

/-- A finite element with the digits of the planes after plane `j` set to 0 (R120, R273). -/
def cutPlanes (code j : Nat) (v : Fp) : Fp :=
  let d := 2 * (planes code - 1 - j)
  if v.isFin then { v with m := (v.m >>> d) <<< d } else v

/-- LB: the bytes of a line of `kt` elements (R261). -/
def lineBytes (code kt : Nat) : Nat := kt * (opFmt code).width / 8

/-- The bytes an operand needs (R261). -/
def operandBytes (code kt : Nat) : Nat :=
  32 * lineBytes code kt + (match (opFmt code).block with | some bl => 32 * (kt / bl) | none => 0)

/-- Bytes with their poison marks. -/
abbrev Marked := List (Byte × Bool)

/-- Elements packed by R119, in ascending K, each with the poison of the bytes it lies in. -/
def unpack16 : Marked → List (Nat × Bool)
  | (a, p) :: (b, q) :: t => (a.toNat + 256 * b.toNat, p || q) :: unpack16 t
  | _ => []
def unpack8 : Marked → List (Nat × Bool)
  | (a, p) :: t => (a.toNat, p) :: unpack8 t
  | [] => []
def unpack4 : Marked → List (Nat × Bool)
  | (a, p) :: t => (a.toNat % 16, p) :: (a.toNat / 16, p) :: unpack4 t
  | [] => []
def unpack6 : Marked → List (Nat × Bool)
  | (a, p) :: (b, q) :: (c, r) :: t =>
    let v := a.toNat + 256 * b.toNat + 65536 * c.toNat
    (v % 64, p) :: (v / 64 % 64, p || q) :: (v / 4096 % 64, q || r) :: (v / 262144, r) :: unpack6 t
  | _ => []
def unpackEls (width : Nat) (bs : Marked) : List (Nat × Bool) :=
  if width = 16 then unpack16 bs else if width = 8 then unpack8 bs else if width = 6 then unpack6 bs else unpack4 bs

/-- The canonical NaN of sign 0 that a marked element reads as (R462). -/
def poisonNan : Fp := .nanOf false

/-- A line's values. -/
def lineValues (code : Nat) (bs : Marked) : List Fp :=
  (unpackEls (opFmt code).width bs).map (fun e => if e.2 then poisonNan else opValue code e.1)

/-- An operand: its code, 32 lines of values, the block scales of each line (empty where the format has none), and the
lines with a marked element. -/
structure Operand where
  code : Nat
  lines : List (List Fp)
  scales : List (List Nat) := []
  hit : List Nat := []
  deriving Inhabited

/-- Line `i` of an operand. -/
def Operand.line (a : Operand) (i : Nat) : List Fp := a.lines.getD i []

/-- The scale of element `k` of line `i`; 127 (a factor of 1) for an unscaled format (R122). -/
def Operand.scale (a : Operand) (i k : Nat) : Nat :=
  match (opFmt a.code).block with
  | some bl => (a.scales.getD i []).getD (k / bl) 127
  | none => 127

/-- The operand in a ring slot (R261).  A marked scale reads as the NaN scale 0xFF. -/
def operandOf (code kt : Nat) (bs : Marked) : Operand :=
  let lb := lineBytes code kt
  let line := fun (i : Nat) => (bs.drop (i * lb)).take lb
  let sc := match (opFmt code).block with
    | some bl => (List.range 32).map (fun i =>
        ((bs.drop (32 * lb + i * (kt / bl))).take (kt / bl)).map (fun e => if e.2 then 0xFF else e.1.toNat))
    | none => []
  let scBad := fun (i : Nat) => match (opFmt code).block with
    | some bl => ((bs.drop (32 * lb + i * (kt / bl))).take (kt / bl)).any Prod.snd
    | none => false
  { code := code, lines := (List.range 32).map (fun i => lineValues code (line i)), scales := sc,
    hit := (List.range 32).filter (fun i => (line i).any Prod.snd || scBad i) }

/-! ### Sums with special values (R121) -/

/-- A value beside the flags of MSTAT raised on the way. -/
structure MRes (α : Type) where
  val : α
  flags : Nat := 0
  deriving Inhabited

/-- The sign of a NaN that comes of several (R121). -/
def nanOfMany (vs : List Fp) : Fp :=
  let ns := vs.filter Fp.isNan
  if ns.all (fun v => v.neg) then .nanOf true
  else if ns.all (fun v => !v.neg) then .nanOf false
  else .nanOf Config.mixedNanSign

/-- The exact sum of several values: NaN of a NaN input; NaN, created, of infinities of both signs; else an infinity; else
the exact finite sum, whose zero is +0. -/
def exactSum (vs : List Fp) : MRes Fp :=
  let made := vs.any (fun v => v.isNan && v.made)
  let old := vs.filter (fun v => v.isNan && !v.made)
  let infs := vs.filter Fp.isInf
  let clash := infs.any Fp.neg && infs.any (fun v => !v.neg)
  let fl := if made || clash then mInv else 0
  if !old.isEmpty then ⟨nanOfMany old, fl⟩
  else if made || clash then ⟨.nanMade, fl⟩
  else match infs with
    | v :: _ => ⟨.inf v.neg, fl⟩
    | [] => ⟨vs.foldl (fun a v => a.add v false) (.zero false), fl⟩

/-- The exact product of two values (R121). -/
def mulM (x y : Fp) : Fp :=
  if x.isNan || y.isNan then nanOfMany [x, y] else x.mul y

/-- A cell's bits from a value, rounded into ACCF. -/
def toAccf (v : Fp) : MRes Nat := let r := rndAccf v; ⟨r.1, r.2⟩

/-- rnd_accf as a value. -/
def rnd (v : Fp) : MRes Fp := let r := rndAccf v; ⟨accfVal r.1, r.2⟩

/-- rnd_accf of a sum and of a product; a zero sum of two zeros keeps a common sign. -/
def rndAdd (x y : Fp) : MRes Fp :=
  if x.isNan || y.isNan then ⟨nanOfMany [x, y], 0⟩ else rnd (x.add y false)
def rndMul (x y : Fp) : MRes Fp := rnd (mulM x y)

/-- Sequencing of steps that may raise flags. -/
def MRes.bind {α β : Type} (x : MRes α) (f : α → MRes β) : MRes β :=
  let y := f x.val
  ⟨y.val, x.flags ||| y.flags⟩

/-- A list of steps. -/
def collect {α : Type} : List (MRes α) → MRes (List α)
  | [] => ⟨[], 0⟩
  | x :: t => let r := collect t; ⟨x.val :: r.val, x.flags ||| r.flags⟩

/-- The value of a cell in ACCF. -/
def cellVal (x : Nat) : Fp := accfVal x

/-! ### Unit sums (R122, R266) -/

/-- The unit length of two formats. -/
def unitLen (a b : Nat) : Nat := min ((opFmt a).block.getD 32) ((opFmt b).block.getD 32)

/-- Products of two lists of values. -/
def products (xs ys : List Fp) : List Fp := (xs.zip ys).map (fun e => mulM e.1 e.2)

/-- unitsum of R266 in ACCF, for line `m` of A and line `n` of B over `len` elements from `k`. -/
def unitSum (a b : Operand) (m n k len : Nat) : MRes Fp :=
  let ps := (exactSum (products ((a.line m).drop k |>.take len) ((b.line n).drop k |>.take len))).bind rnd
  let ea := a.scale m k
  let eb := b.scale n k
  if ea = 0xFF ∨ eb = 0xFF then ⟨.nanOf false, ps.flags ||| mInv⟩
  else if ea = 127 ∧ eb = 127 then ps
  else ps.bind (fun v => rndMul v (.pow2 ((ea : Int) + eb - 254)))

/-- unitsum in ACCI. -/
def unitSumI (a b : Operand) (m n k len : Nat) : Int :=
  (((a.line m).drop k |>.take len).zip ((b.line n).drop k |>.take len)).foldl (fun t e => t + e.1.sm * e.2.sm) 0

/-- accumulate of R266, from a cell's bits, over `kt` elements. -/
def accumF (a b : Operand) (m n kt : Nat) (cell : Nat) : MRes Nat :=
  let u := unitLen a.code b.code
  ((List.range (kt / u)).foldl (fun (r : MRes Fp) i =>
    r.bind (fun acc => (unitSum a b m n (i * u) u).bind (fun s => rndAdd acc s))) ⟨cellVal cell, 0⟩).bind toAccf
def accumI (a b : Operand) (m n kt : Nat) (cell : Nat) : MRes Nat :=
  let r := (List.range (kt / 32)).foldl (fun (r : Int × Nat) i =>
    let y := sat48 (r.1 + unitSumI a b m n (i * 32) 32)
    (y.1, r.2 ||| y.2)) (signed cell 48, 0)
  ⟨wrapNat r.1 48, r.2⟩

/-! ### Output conversion (R132, R270) -/

/-- The output formats of R167 below RAW48: bytes per element. -/
def outBytes : Nat → Nat
  | 0 => 4
  | 1 => 2
  | 2 => 2
  | 3 => 1
  | 4 => 1
  | 5 => 1
  | _ => 4

/-- The floating-point output formats. -/
def outFmt : Nat → Option Fmt
  | 0 => some fp32
  | 1 => some bf16
  | 2 => some fp16
  | 3 => some e4m3
  | 4 => some e5m2
  | _ => none

/-- The output is INT8 or INT32. -/
def outIsInt (out : Nat) : Bool := out == 5 || out == 6

/-- An integer saturated to INT8 or INT32: an overflow that saturates (R132). -/
def outInt (out : Nat) (x : Int) : MRes (List Byte) :=
  let w := 8 * outBytes out
  let r := satBits w true x
  ⟨toBytes (outBytes out) r.1, if r.2 then mOvf ||| mSat else 0⟩

/-- A value as an integer, by RNE. -/
def Fp.nearInt (v : Fp) : Int :=
  let n : Nat := if 0 ≤ v.e then v.m <<< v.e.toNat else (rint rne v.neg v.m (-v.e).toNat 0).1
  if v.neg then -(n : Int) else n

/-- A value converted to an output format, with a zero point for integers. -/
def outConv (out : Nat) (zp : Int) (sat : Bool) (v : Fp) : MRes (List Byte) :=
  let nb := outBytes out
  let inv := if v.isNan && v.made then mInv else 0
  match outFmt out with
  | none =>
    if v.isNan then ⟨toBytes nb 0, mInv⟩
    else if v.isInf then
      ⟨toBytes nb (wrapNat (if v.neg then intMin (8 * nb) true else intMax (8 * nb) true) (8 * nb)), mSat⟩
    else outInt out (v.nearInt + zp)
  | some F =>
    if v.isNan then ⟨toBytes nb (F.nanBits (!v.made && v.neg)), inv⟩
    else if v.isInf then
      if F.hasInf then ⟨toBytes nb (F.infBits v.neg), 0⟩
      else if sat then ⟨toBytes nb (F.maxBits v.neg), mSat⟩
      else ⟨toBytes nb (F.nanBits v.neg), mInv⟩
    else
      let r := F.roundFin rne {} v.neg v.m v.e 0
      if r.2 &&& fOf = 0 then ⟨toBytes nb r.1, 0⟩
      else if sat then ⟨toBytes nb (F.maxBits v.neg), mOvf ||| mSat⟩
      else if F.hasInf then ⟨toBytes nb (F.infBits v.neg), mOvf⟩
      else ⟨toBytes nb (F.nanBits v.neg), mOvf ||| mInv⟩

/-- The quotient of two values (R277), with enough digits, and a sticky one, for any rounding to be that of the exact
quotient. -/
def quotient (x y : Fp) : Fp :=
  if x.isNan || y.isNan then nanOfMany [x, y]
  else
    let neg := x.neg != y.neg
    if (x.isInf && y.isInf) || (x.isZero && y.isZero) then .nanMade
    else if x.isInf || y.isZero then .inf neg
    else if y.isInf || x.isZero then .zero neg
    else
      let k := 256 + Nat.log2 y.m
      let n := x.m <<< k
      { neg := neg, m := 2 * (n / y.m) + b2n (n % y.m != 0), e := x.e - y.e - k - 1 }

/-! ### exp2d (R274) -/

/-- The magnitude of a finite value is below a power of two. -/
def Fp.magBelow (v : Fp) (e : Int) : Bool := v.m == 0 || decide (Nat.log2 v.m + v.e < e)

/-- The number that exp2d makes of its argument. -/
def exp2Arg (x : Fp) (L : Nat) : DNum :=
  if !x.isFin then x.toNum L
  else if x.magBelow (-512) then .code 0
  else if !x.magBelow 510 then .code (if x.neg then 2 else 1)
  else x.toNum L

/-- exp2d: the value before its rounding into F. -/
def exp2Raw (x : Fp) (L : Nat) : Fp :=
  if x.isNan then .nanOf x.neg
  else ((onlineLane .exp L (exp2Arg x L) (.code 0) (.code 0)).1).value L

/-- exp2d into ACCF, as a value; into a P format, as bits. -/
def exp2Accf (x : Fp) : Fp := (rnd (exp2Raw x 12)).val
def exp2Bits (F : Fmt) (x : Fp) : Nat :=
  let v := exp2Raw x 8
  if v.isNan then F.nanBits v.neg
  else if v.isInf then (if F.hasInf then F.infBits v.neg else F.nanBits v.neg)
  else (F.roundFin rne {} v.neg v.m v.e 0).1

/-- max with NaN operands giving NaN (R275, R278), -0 below +0 so that it is symmetric. -/
def maxM (vs : List Fp) : Fp :=
  if vs.any Fp.isNan then nanOfMany vs
  else vs.foldl (fun a v => if a.below v then v else a) (vs.headD (.inf true))

/-! ### The activation table (R271) -/

/-- The position of a value in the table: the entry's index, and the fraction within it. -/
def lutPos (v lo : Fp) (lg : Int) : Nat × Fp :=
  let one := Fp.ofInt 1
  if v.isInf then (if v.neg then (0, .zero false) else (254, one))
  else
    let d := v.add lo.negate false
    let p : Fp := { d with e := d.e - lg }
    let n : Int := if 0 ≤ p.e then p.sm * 2 ^ p.e.toNat else p.sm.fdiv (2 ^ (-p.e).toNat)
    let i := (max 0 (min 254 n)).toNat
    let f := p.add (Fp.ofInt (-(i : Int))) false
    (i, if f.neg then .zero false else if one.below f then one else f)

/-- lut of R271. -/
def lutM (t : Nat → Fp) (lo : Fp) (lg : Int) (v : Fp) : MRes Fp :=
  if v.isNan then ⟨.nanOf v.neg, 0⟩
  else
    let (i, f) := lutPos v lo lg
    (rndAdd (t (i + 1)) (t i).negate).bind (fun d =>
      (rnd f).bind (fun f => (rndMul f d).bind (fun x => rndAdd (t i) x)))

/-! ### Abandonment (R273) -/

/-- An element times its block scale. -/
def Operand.scaled (a : Operand) (i k : Nat) (v : Fp) : Fp := { v with e := v.e + (a.scale i k : Int) - 127 }

/-- A line holds only finite elements, scales included. -/
def Operand.finite (a : Operand) (i : Nat) : Bool :=
  (a.line i).all Fp.isFin && (a.scales.getD i []).all (fun x => x != 0xFF)

/-- Elements with their index. -/
def indexed {α : Type} (l : List α) : List (Nat × α) := (List.range l.length).zip l

/-- A finite value's magnitude. -/
def Fp.abs (v : Fp) : Fp := { v with neg := false }

/-- Rj: what the planes after `j` can still add, over row `r` of Q. -/
def restOf (q : Operand) (r j : Nat) : Fp :=
  (indexed (q.line r)).foldl (fun t e =>
    t.add (q.scaled r e.1 ((e.2.add (cutPlanes q.code j e.2).negate false).abs)) false) (.zero false)

/-- KM: the greatest magnitude of line `n` of K. -/
def lineMax (k : Operand) (n : Nat) : Fp :=
  (indexed (k.line n)).foldl (fun t e => let v := k.scaled n e.1 e.2.abs; if t.below v then v else t) (.zero false)

/-- Sj without the tensor factor. -/
def partialScore (q k : Operand) (r n j : Nat) : Fp :=
  ((indexed (q.line r)).zip (k.line n)).foldl (fun t e =>
    t.add ((q.scaled r e.1.1 (cutPlanes q.code j e.1.2)).mul (k.scaled n e.1.1 e.2)) false) (.zero false)

/-- dead_test(j) for one unmasked cell: `c` is CMUL, `p` the tensor factor, `m` the row's maximum. -/
def deadCell (q k : Operand) (c p m : Fp) (t : Nat) (r n j : Nat) : Bool :=
  q.finite r && k.finite n && !m.isNan && !(m.isInf && m.neg) &&
    (let bound := c.mul ((p.mul (partialScore q k r n j)).add (p.mul ((restOf q r j).mul (lineMax k n))) false)
     let lim := if m.isInf then m else m.add (Fp.ofInt (-(t : Int))) false
     decide (bound.order lim < 0))

end Sys2Proof.Machine
end

