-- ==== Sys2Proof/Machine/Island.lean ====
section
/-! DEFINITION. Matrix islands (R257 to R279): the run of a program, stops, ring slots and fabric blocks, and the ten
island words.  A word's operands are gathered over as many turns as its tokens need; its work is done in one turn; its
output leaves in pushes of at most 512 bytes, one in each turn. -/

namespace Sys2Proof.Machine

/-! ### Descriptor registers (R258) -/

/-- DREG numbers. -/
def rKtile : Nat := 0
def rSrcsel : Nat := 1
def rScaleA : Nat := 2
def rScaleB : Nat := 3
def rCmul : Nat := 4
def rKillt : Nat := 5
def rGqa : Nat := 6
def rQpos : Nat := 7
def rKpos0 : Nat := 8
def rKlen : Nat := 9
def rQhold : Nat := 10
def rBiasring : Nat := 11
def rActlo : Nat := 12
def rActlog2 : Nat := 13
def rRqscale : Nat := 14
def rRqzero : Nat := 15
def rRqsat : Nat := 16
def rLoopctl : Nat := 17

/-- Reset values. -/
def dregReset : Nat → Nat
  | 0 => 32
  | 2 => 0x3F800000
  | 3 => 0x3F800000
  | 4 => 0x3F800000
  | 5 => 24
  | 6 => 0x801
  | 9 => 0xFFFFFFFF
  | 14 => 0x3F800000
  | _ => 0

/-- Widths: the bits above are reserved. -/
def dregWidth : Nat → Nat
  | 0 => 14
  | 1 => 2
  | 5 => 8
  | 6 => 12
  | 7 => 33
  | 10 => 1
  | 11 => 4
  | 13 => 8
  | 16 => 1
  | 17 => 13
  | _ => 32

/-- A descriptor register's value. -/
def Isle.reg (m : Isle) (r : Nat) : Nat := m.dreg.get r (dregReset r)

/-- A register read as FP32. -/
def Isle.regF (m : Isle) (r : Nat) : Fp := fp32.decode (m.reg r) false

/-- ROWS, and t. -/
def Isle.tokens (m : Isle) : Nat := fld (m.reg rGqa) 11 6
def Isle.rows (m : Isle) : Nat := fld (m.reg rGqa) 5 0 * m.tokens

/-! ### The program (R264, R279) -/

/-- The words of a program that are instructions, with their indices: the two literals after an MSET are not. -/
def isleWords : Nat → Nat → List Word32 → List (Nat × Word32)
  | _, _, [] => []
  | skip + 1, i, _ :: t => isleWords skip (i + 1) t
  | 0, i, w :: t => (i, w) :: isleWords (if w.toNat / 2 ^ 26 = 9 then 2 else 0) (i + 1) t

/-- The program. -/
def Isle.prog (m : Isle) : List Word32 := m.fg.getD []

/-- Opcode and rings of a word. -/
def isOp (w : Word32) : Nat := w.toNat / 2 ^ 26
def isRa (w : Word32) : Nat := fld w.toNat 17 14
def isRb (w : Word32) : Nat := fld w.toNat 13 10
def isRo (w : Word32) : Nat := fld w.toNat 9 6

/-- The rings that a MOUT or MSMF of the program names as RO; the rings of its MMAs. -/
def Isle.outRings (m : Isle) : List Nat :=
  ((isleWords 0 0 m.prog).filter (fun e => isOp e.2 == 2 || isOp e.2 == 7)).map (fun e => isRo e.2)
def Isle.mmaRings (m : Isle) : List Nat :=
  ((isleWords 0 0 m.prog).filter (fun e => isOp e.2 == 0)).flatMap (fun e => [isRa e.2, isRb e.2])

/-- An index names an instruction of the program. -/
def Isle.isWord (m : Isle) (i : Nat) : Bool := (isleWords 0 0 m.prog).any (fun e => e.1 == i)

/-- The value that MSET may write (R258, R260 BADDREG). -/
def Isle.regOk (m : Isle) (r v : Nat) : Bool :=
  decide (r < 18) && decide (v < 2 ^ dregWidth r) &&
  (match r with
   | 0 => v % 32 == 0 && decide (32 ≤ v) && decide (v ≤ 8192)
   | 6 => let g := fld v 5 0
          let t := fld v 11 6
          decide (1 ≤ g) && decide (g ≤ 32) && decide (1 ≤ t) && decide (t ≤ 32) && decide (g * t ≤ 32)
   | 12 => (fp32.decode v false).isFin
   | 13 => decide (-64 ≤ signed v 8) && decide (signed v 8 ≤ 63)
   | 17 => decide (fld v 5 0 ≤ fld v 11 6) && m.isWord (fld v 5 0) && m.isWord (fld v 11 6)
   | _ => true)

/-! ### What a word reads -/

/-- An island about to act: its cluster, its number, and the context of its residency. -/
structure IsleEnv where
  c : Nat
  i : Nat
  ctx : Nat
  deriving Inhabited

/-- An input of a word (R264). -/
inductive IsleIn where
  | ring (r : Nat)
  | port (p : Nat)
  deriving DecidableEq, Repr

/-- Port `p` of an island. -/
def Isle.port (m : Isle) (p : Nat) : IslePort := if p = 0 then m.f0 else m.f1
def Isle.setPort (m : Isle) (p : Nat) (q : IslePort) : Isle := if p = 0 then { m with f0 := q } else { m with f1 := q }

/-- The next token of a port, of the running program's stream. -/
def Isle.portHead (m : Isle) (p : Nat) : Option Token :=
  match (m.port p).buf.head? with
  | some e => if e.cfg ≤ m.cfg then some e.tok.single else none
  | none => none

/-- Bytes of island `i`'s next slot of a ring, from the slot's start (R83). -/
def Cluster.slotBytes (k : Cluster) (i r n : Nat) : Marked :=
  let x := k.ring r
  let pos := x.head + x.ahead.getD i 0 * x.slotBytes
  (List.range n).map (fun j => let a := x.at (pos + j); (k.sram.byte a, k.sramPoison.contains (a / 32)))

/-- can_fire of R83. -/
def Ring.canFire (x : Ring) (i : Nat) : Bool := decide ((x.ahead.getD i 0 + 1) * x.slotBytes ≤ x.fill)

/-- retire of R83. -/
def Ring.retire (x : Ring) (i : Nat) : Ring :=
  let ahead := setIdx x.ahead i (x.ahead.getD i 0 + 1)
  let users := (List.range 4).filter (fun j => bit x.cmask j)
  if x.cmask != 0 && users.all (fun j => decide (1 ≤ ahead.getD j 0)) then
    { x with ahead := (indexed ahead).map (fun e => if users.contains e.1 then e.2 - 1 else e.2),
             head := (x.head + x.slotBytes) % x.size, fill := x.fill - x.slotBytes }
  else { x with ahead := ahead }

/-- Retires the slot that island `i` read of a ring. -/
def Cluster.retire (k : Cluster) (i r : Nat) : Cluster := k.setRing r ((k.ring r).retire i)

/-- The input has ended (R84, R264). -/
def Cluster.inEnded (k : Cluster) (i : Nat) (x : IsleIn) : Bool :=
  match x with
  | .ring r => (k.ring r).ended && !(k.ring r).canFire i
  | .port p => ((k.mat i).port p).ended && ((k.mat i).portHead p).isNone

/-- A word has begun: it has done a cycle of work or taken a token from a port. -/
def Isle.begun (m : Isle) : Bool := m.cyc != 0 || !m.f0.got.isEmpty || m.f0.cur.toks != 0 || !m.f1.got.isEmpty || m.f1.cur.toks != 0

/-! ### Turns of an island -/

/-- Where a word's turn leads: its work is done in the given state (with the output it is to push and the rings it is
yet to retire); it stops with an ERR; or it waits. -/
inductive IsleRes where
  | done (s : State) (cycles : Nat) (out : List Byte) (retire : List Nat)
  | stop (err : Nat) (s : State)
  | wait (s : State)

/-- The island that acts. -/
def State.isleEnv (s : State) : IsleEnv :=
  let c := s.here
  let i := (s.actor.unit - 288) % 4
  { c := c, i := i, ctx := match (s.cl c).isleOwner i with | some r => ((s.cl c).resident r).ctx | none => 0 }

def State.isle (s : State) (e : IsleEnv) : Isle := (s.cl e.c).mat e.i
def State.setIsle (s : State) (e : IsleEnv) (m : Isle) : State := s.setCl e.c ((s.cl e.c).setMat e.i m)

/-- Stops the island (R260). -/
def State.isleStop (s : State) (e : IsleEnv) (err : Nat) : State :=
  let m := s.isle e
  let s := s.setIsle e { m with err := err, f0 := { m.f0 with fall := 0 }, f1 := { m.f1 with fall := 0 } }
  let s := s.post e.c (34 + e.i) 0
    { msg := { w0 := BitVec.ofNat 64 (err + e.i * 2 ^ 8 + m.ipc % 64 * 2 ^ 10) }, ctx := e.ctx }
  let r := (s.cl e.c).isleOwner e.i
  let s := s.censusFall e.c r (m.f0.fall + m.f1.fall)
  match r with
  | some r => s.checkEnd e.c r
  | none => s

/-- A word of machine checks for marked lines (R462): INV and one message for each. -/
def State.isleChecks (s : State) (e : IsleEnv) (lines : List Nat) : State :=
  lines.foldl (fun s j =>
    let m := s.isle e
    (s.setIsle e { m with flags := m.flags ||| mInv }).machineCheck e.c e.ctx 5 e.i 0 0 j) s

/-- The program ends (R264): ENDED, and END on every output ring. -/
def State.isleEnd (s : State) (e : IsleEnv) : State :=
  let m := s.isle e
  m.outRings.foldl (fun s r =>
    let k := s.cl e.c
    s.setCl e.c (k.setRing r { k.ring r with ended := true })) (s.setIsle e { m with ended := true })

/-- Goes on to a word; past the last one the program ends. -/
def State.isleGoto (s : State) (e : IsleEnv) (ipc : Nat) : State :=
  let m := s.isle e
  if ipc < m.prog.length then s.setIsle e { m with ipc := ipc } else (s.setIsle e { m with ipc := ipc % 64 }).isleEnd e

/-- The word in hand is complete: slots are retired, tokens are counted out (R110), and the next word follows. -/
def State.isleDone (s : State) (e : IsleEnv) (size : Nat) (rings : List Nat) : State :=
  let s := rings.foldl (fun s r => s.setCl e.c ((s.cl e.c).retire e.i r)) s
  let m := s.isle e
  let lc := m.reg rLoopctl
  let next := if bit lc 12 && m.ipc == fld lc 11 6 then fld lc 5 0 else m.ipc + size
  let fall := m.f0.fall + m.f1.fall
  let s := s.setIsle e { m with done := false, cyc := 0, pushing := [], f0 := { m.f0 with fall := 0 }, f1 := { m.f1 with fall := 0 } }
  (s.isleGoto e next).censusFall e.c ((s.cl e.c).isleOwner e.i) fall

/-- Pieces of at most 512 bytes. -/
def pieces : Nat → List Byte → List (List Byte)
  | 0, _ => []
  | fuel + 1, bs => if bs.isEmpty then [] else bs.take 512 :: pieces fuel (bs.drop 512)

/-- Pushes the next piece of the output, once the ring has room (R83). -/
def State.islePush (s : State) (e : IsleEnv) (size : Nat) (rings : List Nat) : State :=
  let m := s.isle e
  match m.pushing with
  | [] => s.isleDone e size rings
  | bs :: rest =>
    let x := (s.cl e.c).ring m.pushRing
    if x.size < x.fill + bs.length then s
    else
      let s := s.setCl e.c ((s.cl e.c).ringPush m.pushRing (bs.map (fun b => (b, false))))
      let s := s.setIsle e { s.isle e with pushing := rest }
      if rest.isEmpty then s.isleDone e size rings else s

/-- The NSEQ of the next block of a port and whether the stream may hold it, as far as the waiting tokens tell: a lone marker
before it is no part of it (R262), and after the one that ends the stream no block follows. -/
def IslePort.nextBlock (q : IslePort) : Nat × Bool :=
  let rec go (u : Nat) : List BufEnt → Nat × Bool
    | [] => (u, !q.ended)
    | b :: bs => if !b.tok.isMarker then (u, true) else if b.tok.mark == Mk.eos then (u, false) else go (unitAfter u b.tok) bs
  go q.unit q.buf

/-- The island drives a kill of all lanes for the next block of a port, where the stream may hold one (R273). -/
def State.killBlock (s : State) (e : IsleEnv) (p : Nat) : State :=
  let m := s.isle e
  let (u, there) := (m.port p).nextBlock
  if there then
    s.setCl e.c ((s.cl e.c).wire { unit := portTile e.i p, port := if e.i < 2 then 0 else 2, kseq := u % 8, mask := 0xFFFF, cfg := m.cfg })
  else s

/-- Pops the next token of a port.  While blocks of it are to be killed, the end of a block or of a lone marker before one
lets the kill of the next block go out (R273). -/
def State.portTake (s : State) (e : IsleEnv) (p : Nat) (t : Token) : State :=
  let m := s.isle e
  let q := m.port p
  let buf := match q.buf with
    | [] => []
    | b :: rest => match b.tok.rest with | some t => { b with tok := t } :: rest | none => rest
  let eos := t.mark == Mk.eos
  let u := unitAfter q.unit t
  let q := { q with buf := buf, ended := eos, unit := if eos then 0 else u, fall := q.fall + b2n t.cns }
  let lone := t.isMarker && q.cur.toks == 0
  let left := if eos then 0 else if t.last && !lone then q.toKill - 1 else q.toKill
  let s := s.setIsle e (m.setPort p { q with toKill := left })
  if t.last && left != 0 then s.killBlock e p else s

/-- Adds a token to the block under way. -/
def PortBlk.add (b : PortBlk) (t : Token) : PortBlk :=
  { lines := (List.range 16).map (fun j => b.lines.getD j [] ++ toBytes 4 (t.lane j)),
    valid := if b.toks = 0 then t.valid else b.valid, pmask := b.pmask ||| t.pmask, toks := b.toks + 1 }

/-- What gathering the two blocks of a tile has come to (R262). -/
inductive Gathered where
  | blocks (b0 b1 : Option PortBlk) (s : State)
  | stop (s : State)
  | wait (s : State)

/-- One token of the two blocks that a word takes from a port, `n` tokens to a block. -/
def State.gather (s : State) (e : IsleEnv) (p n : Nat) : Gathered :=
  let m := s.isle e
  let q := m.port p
  let full := fun (s : State) (b : Option PortBlk) =>
    let m := s.isle e
    let q := m.port p
    let got := q.got ++ [b]
    match got with
    | [b0, b1] => Gathered.blocks b0 b1 (s.setIsle e (m.setPort p { q with got := [], cur := {} }))
    | _ => .wait (s.setIsle e (m.setPort p { q with got := got, cur := {} }))
  match m.portHead p with
  | none => if q.ended && q.cur.toks == 0 && !q.got.isEmpty then full s none else .wait s
  | some t =>
    let s := s.portTake e p t
    if q.cur.toks = n then
      -- the marker of a poisoned last token follows on a MARKER token (R104)
      if t.isMarker && t.mark.any then full s (some q.cur) else .stop s
    else if t.isMarker then
      if q.cur.toks = 0 then .wait s else .stop s
    else
      let b := q.cur.add t
      let keep := fun (s : State) =>
        let m := s.isle e
        s.setIsle e (m.setPort p { m.port p with cur := b })
      if b.toks < n then (if t.mark.any then .stop (keep s) else .wait (keep s))
      else if t.mark.any then full s (some b)
      else if t.mcode = 3 then .wait (keep s)
      else .stop (keep s)

/-- The lines of an absent or gathered block. -/
def blockLines (code kt : Nat) (b : Option PortBlk) : List (Option (List Fp)) :=
  (List.range 16).map (fun j =>
    match b with
    | none => none
    | some b =>
      if !b.valid.getLsbD j then none
      else if b.pmask.getLsbD j then some (List.replicate kt poisonNan)
      else some (lineValues code ((b.lines.getD j []).map (fun x => (x, false)))))

/-- The poisoned lines of two blocks. -/
def poisonedLines (b0 b1 : Option PortBlk) : List Nat :=
  let f := fun (o : Nat) (b : Option PortBlk) => match b with
    | none => []
    | some b => ((List.range 16).filter (fun j => b.valid.getLsbD j && b.pmask.getLsbD j)).map (· + o)
  f 0 b0 ++ f 16 b1

/-- The frame of every island word: nothing happens while the residency is frozen, or once the island has stopped or
ended; pushes go on; the loop rule of R264 comes before the word; then the word does what it can. -/
def State.isleTurn (s : State) (size : Nat) (ins : Isle → List IsleIn) (rings : Isle → List Nat) (ro : Nat)
    (f : IsleEnv → State → IsleRes) : State :=
  let e := s.isleEnv
  let m := s.isle e
  if m.fg.isNone || (s.cl e.c).isFrozen (288 + e.i) || m.err != 0 || m.ended then s
  else if m.done then s.islePush e size (rings m)
  else
    let noMore := !m.begun && (ins m).any (fun x => (s.cl e.c).inEnded e.i x)
    let lc := m.reg rLoopctl
    if noMore then
      if bit lc 12 && m.ipc == fld lc 5 0 then s.isleGoto e (fld lc 11 6 + 1) else s.isleEnd e
    else match f e s with
      | .wait s => s
      | .stop err s => s.isleStop e err
      | .done s' n out ret =>
        -- one cycle of work a turn, and the word's effect in the last one (R265, R267); a cycle without its power token
        -- leaves the word where it was
        let (ok, s1) := s.drawPower e.c (288 + e.i) 4 4
        if n != 0 && !ok then s1
        else if m.cyc + 1 < n then s1.setIsle e { m with cyc := m.cyc + 1 }
        else
          let s := if n = 0 then s' else (s'.drawPower e.c (288 + e.i) 4 4).2
          let m := s.isle e
          if out.isEmpty then s.isleDone e size ret
          else (s.setIsle e { m with done := true, pushing := pieces (out.length / 512 + 1) out, pushRing := ro })

/-! ### Checks (R260) -/

/-- BADRING or BADSLOT for a ring that the word reads `need` bytes of. -/
def State.ringErr (s : State) (e : IsleEnv) (r need : Nat) : Option Nat :=
  let x := (s.cl e.c).ring r
  if !x.en || !bit x.cmask e.i then some 2 else if x.slotBytes < need then some 3 else none

/-- BADRING for the output ring. -/
def State.outErr (s : State) (e : IsleEnv) (r : Nat) : Option Nat :=
  let x := (s.cl e.c).ring r
  if !x.en || bit x.cmask e.i then some 2 else none

/-- The first error of several, in the order of their codes. -/
def firstErr (es : List (Option Nat)) : Option Nat :=
  (es.filterMap id).foldl (fun a x => match a with | none => some x | some y => some (min x y)) none

/-- KTILE is no multiple of the block length of a code. -/
def badBlock (code kt : Nat) : Bool := match (opFmt code).block with | some bl => kt % bl != 0 | none => false

/-- Formats that a port may carry (R262). -/
def portFormat (code : Nat) : Bool := code == 8 || code == 9 || code == 0xC || code == 0xD

/-- A condition as an error. -/
def errIf (b : Bool) (n : Nat) : Option Nat := if b then some n else none

/-- CMUL is finite and positive. -/
def Isle.cmulOk (m : Isle) : Bool := let v := m.regF rCmul; v.isFin && !v.neg && v.m != 0

/-- A slot of a ring can be read now. -/
def State.ringReady (s : State) (e : IsleEnv) (r : Nat) : Bool := ((s.cl e.c).ring r).canFire e.i

/-- The operand in the next slot of a ring. -/
def State.ringOperand (s : State) (e : IsleEnv) (r code kt : Nat) : Operand :=
  operandOf code kt ((s.cl e.c).slotBytes e.i r (operandBytes code kt))

/-! ### The tile (R257) -/

/-- A cell of the tile; a fresh tile reads as +0. -/
def Isle.cell (m : Isle) (r n : Nat) : Nat := if m.atype = 0 then 0 else m.acc.get (32 * r + n) 0

/-- A table of 48-bit cells without those that are +0. -/
def cellTab (l : List (Nat × Nat)) : Tab Nat := l.filter (fun e => e.2 != 0)

/-- A row's maximum and denominator. -/
def negInf48 : Nat := accf.infBits true
def Isle.maxOf (m : Isle) (r : Nat) : Nat := m.m.get r negInf48
def Isle.denOf (m : Isle) (r : Nat) : Nat := m.l.get r 0

/-- Cell (r, n) is masked (R263). -/
def Isle.masked (m : Isle) (r n : Nat) : Bool := (m.mask.getD r 0xFFFFFFFF).testBit n

/-- The tensor factor of two codes (R122), where one applies; a code without a tensor scale takes 1.0. -/
def Isle.tensor (m : Isle) (a b : Nat) : Option (MRes Fp) :=
  let has := fun (x : Nat) => x == 8 || x == 9
  let one : Fp := .ofInt 1
  if has a || has b then some (rndMul (if has a then m.regF rScaleA else one) (if has b then m.regF rScaleB else one)) else none

/-- All cells of the tile. -/
def allCells : List (Nat × Nat) := (List.range 32).flatMap (fun r => (List.range 32).map (fun n => (r, n)))

/-- Cells of the first `rows` rows. -/
def rowCells (rows : Nat) : List (Nat × Nat) := (List.range rows).flatMap (fun r => (List.range 32).map (fun n => (r, n)))

/-- A table of cells, by a step for each of them that may raise flags. -/
def cellsBy (cs : List (Nat × Nat)) (f : Nat → Nat → MRes Nat) : MRes (List (Nat × Nat)) :=
  collect (cs.map (fun e => let x := f e.1 e.2; ⟨(32 * e.1 + e.2, x.val), x.flags⟩))

/-- Replaces cells of a table. -/
def putCells (t : Tab Nat) (l : List (Nat × Nat)) : Tab Nat :=
  l.foldl (fun t e => if e.2 = 0 then t.del e.1 else t.put e.1 e.2) t

/-! ### MZERO, MMA (R268, R269) -/

def execMzero (s : State) : Host.Outcome State Fault Refusal :=
  .next (s.isleTurn 1 (fun _ => []) (fun _ => []) 0 fun e s =>
    let m := s.isle e
    .done (s.setIsle e { m with acc := [], atype := 0, m := [], l := [], empty := 0, skip := false, qbuf := none,
                                kc := m.reg rKpos0 }) 1 [] [])

/-- MMA (R269). -/
def State.mmaWord (s : State) (e : IsleEnv) (af bf ra rb : Nat) (ovw : Bool) : IsleRes :=
  let m := s.isle e
  let kt := m.reg rKtile
  let ty := if isIntCode af && isIntCode bf then 2 else 1
  match firstErr [s.ringErr e ra (operandBytes af kt), s.ringErr e rb (operandBytes bf kt),
      errIf (badBlock af kt || badBlock bf kt) 4, errIf (!ovw && m.atype != 0 && m.atype != ty) 5] with
  | some err => .stop err s
  | none =>
    if !s.ringReady e ra || !s.ringReady e rb then .wait s
    else
      let a := s.ringOperand e ra af kt
      let b := s.ringOperand e rb bf kt
      if ty = 2 && !(a.hit.isEmpty && b.hit.isEmpty) then .stop 8 s
      else
        let s := s.isleChecks e (a.hit ++ b.hit)
        let m := s.isle e
        let r := cellsBy allCells (fun r n =>
          let x := if ovw then 0 else m.cell r n
          if ty = 2 then accumI a b r n kt x else accumF a b r n kt x)
        .done (s.setIsle e { m with acc := cellTab r.val, atype := ty, lastA := af, lastB := bf, flags := m.flags ||| r.flags })
          (kt / 32 * planes af) [] [ra, rb]

def execMma (af bf ra rb : BitVec 4) (ovw : Bool) (s : State) : Host.Outcome State Fault Refusal :=
  .next (s.isleTurn 1 (fun _ => [.ring ra.toNat, .ring rb.toNat]) (fun _ => []) 0
    fun e s => s.mmaWord e af.toNat bf.toNat ra.toNat rb.toNat ovw)

/-! ### MOUT, MLUT (R270, R271) -/

/-- FP32 values of a slot, marked ones as canonical NaN. -/
def fp32Slot : Nat → Marked → List Fp
  | 0, _ => []
  | n + 1, bs => (if (bs.take 4).any Prod.snd then poisonNan else fp32.decode (ofBytes ((bs.take 4).map Prod.fst)) false) ::
      fp32Slot n (bs.drop 4)

/-- The index of the first marked value of `size` bytes. -/
def markedOf (size n : Nat) (bs : Marked) : List Nat :=
  (List.range n).filter (fun i => ((bs.drop (size * i)).take size).any Prod.snd)

/-- The chain of R270 after the bias, for a value. -/
def Isle.chain (m : Isle) (out : Nat) (act rq : Bool) (v : Fp) : MRes (List Byte) :=
  let t := fun (i : Nat) => fp32.decode (m.table.get i 0) false
  let x : MRes Fp := if act then lutM t (m.regF rActlo) (signed (m.reg rActlog2) 8) v else ⟨v, 0⟩
  (x.bind (fun v => if rq then rndMul v (m.regF rRqscale) else ⟨v, 0⟩)).bind
    (outConv out (if rq then signed (m.reg rRqzero) 32 else 0) (bit (m.reg rRqsat) 0))

/-- One output element of MOUT (R270). -/
def Isle.outCell (m : Isle) (out : Nat) (bias : Option (Fp × Int)) (act rq : Bool) (x : Nat) : MRes (List Byte) :=
  if m.atype = 2 then
    let y := match bias with
      | some (_, b) => sat48 (signed x 48 + b)
      | none => (signed x 48, 0)
    let r := if !act && !rq && outIsInt out then outInt out y.1
      else (rnd (Fp.ofInt y.1)).bind (m.chain out act rq)
    ⟨r.val, r.flags ||| y.2⟩
  else
    let v : MRes Fp := ⟨accfVal x, 0⟩
    let v := match m.tensor m.lastA m.lastB with
      | none => v
      | some p => p.bind (fun p => v.bind (fun v => rndMul v p))
    let v := match bias with
      | none => v
      | some (b, _) => v.bind (fun v => rndAdd v b)
    v.bind (m.chain out act rq)

/-- A state record (R261). -/
def Isle.recordBytes (m : Isle) : List Byte :=
  (List.range m.rows).flatMap (fun r =>
    toBytes 8 (m.maxOf r) ++ toBytes 8 (m.denOf r) ++ (List.range 32).flatMap (fun n => toBytes 8 (m.cell r n)))

/-- MOUT (R270). -/
def State.moutWord (s : State) (e : IsleEnv) (out ro : Nat) (bias act rq : Bool) : IsleRes :=
  let m := s.isle e
  let br := m.reg rBiasring
  let biasErr := if !bias then none
    else if br == ro || m.mmaRings.contains br then some 2 else s.ringErr e br 128
  match firstErr [s.outErr e ro, biasErr] with
  | some err => .stop err s
  | none =>
    if bias && !s.ringReady e br then .wait s
    else if out = 7 then .done s m.rows m.recordBytes []
    else
      let bs := if bias then (s.cl e.c).slotBytes e.i br 128 else []
      let hit := if bias then markedOf 4 32 bs else []
      if m.atype = 2 && !hit.isEmpty then .stop 8 s
      else
        let s := s.isleChecks e (hit.take 1)
        let m := s.isle e
        let fs := fp32Slot 32 bs
        let bv := fun (n : Nat) => if bias then
            some (fs.getD n default, signed (ofBytes (((bs.drop (4 * n)).take 4).map Prod.fst)) 32) else none
        let r := collect ((rowCells m.rows).map (fun x => m.outCell out (bv x.2) act rq (m.cell x.1 x.2)))
        .done (s.setIsle e { m with flags := m.flags ||| r.flags }) m.rows r.val.flatten (if bias then [br] else [])

def execMout (out ro : BitVec 4) (bias act rq : Bool) (s : State) : Host.Outcome State Fault Refusal :=
  let br := fun (m : Isle) => if bias then [m.reg rBiasring] else []
  .next (s.isleTurn 1 (fun m => (br m).map .ring) br ro.toNat fun e s => s.moutWord e out.toNat ro.toNat bias act rq)

/-- MLUT (R271). -/
def State.mlutWord (s : State) (e : IsleEnv) (ra : Nat) : IsleRes :=
  match s.ringErr e ra 1024 with
  | some err => .stop err s
  | none =>
    if !s.ringReady e ra then .wait s
    else
      let bs := (s.cl e.c).slotBytes e.i ra 1024
      let s := s.isleChecks e ((markedOf 4 256 bs).take 1)
      let t := (List.range 256).map (fun i =>
        let v := (bs.drop (4 * i)).take 4
        (i, if v.any Prod.snd then fp32.nanBits false else ofBytes (v.map Prod.fst)))
      .done (s.setIsle e { s.isle e with table := cellTab t }) 1 [] [ra]

def execMlut (ra : BitVec 4) (s : State) : Host.Outcome State Fault Refusal :=
  .next (s.isleTurn 1 (fun _ => [.ring ra.toNat]) (fun _ => []) 0 fun e s => s.mlutWord e ra.toNat)

/-! ### MQK (R272, R273) -/

/-- KF and VF. -/
def Isle.kf (m : Isle) : Bool := bit (m.reg rSrcsel) 0
def Isle.vf (m : Isle) : Bool := bit (m.reg rSrcsel) 1

/-- The query buffer is held. -/
def Isle.held (m : Isle) : Bool := bit (m.reg rQhold) 0 && m.qbuf.isSome

/-- The mask of R263: rows of 32 bits. -/
def Isle.maskNow (m : Isle) (invalid : Nat → Bool) : List Nat :=
  (List.range 32).map (fun r => ((List.range 32).map (fun n =>
    let kpos := m.kc + n
    let q := m.reg rQpos
    b2n (decide (m.rows ≤ r) || invalid n || decide (m.reg rKlen ≤ kpos) ||
      (bit q 32 && decide (fld q 31 0 + r % m.tokens < kpos))) * 2 ^ n)).sum)

/-- The first plane at which the tile is dead, if there is one (R273). -/
def Isle.deadPlane (m : Isle) (q k : Operand) (p : Option Fp) : Option Nat :=
  let t := m.reg rKillt
  let p := p.getD (Fp.ofInt 1)
  if t = 255 || !p.isFin then none
  else (List.range (planes q.code)).find? (fun j =>
    allCells.all (fun x => m.masked x.1 x.2 ||
      deadCell q k (m.regF rCmul) p (accfVal (m.maxOf x.1)) t x.1 x.2 j))

/-- The island drives the kills of a dead tile's values (R273): the first now, the second at its block's turn. -/
def State.killValues (s : State) (e : IsleEnv) : State :=
  let m := s.isle e
  if !m.vf then s else (s.setIsle e { m with f1 := { m.f1 with toKill := 2 } }).killBlock e 1

/-- MQK once its operands are there: `k` is K, `invalid` its invalid lines, `rings` what is yet to be retired. -/
def State.score (s : State) (e : IsleEnv) (af bf : Nat) (q k : Operand) (invalid : Nat → Bool) (rings : List Nat) : IsleRes :=
  let m := s.isle e
  let kt := m.reg rKtile
  let m := { m with mask := m.maskNow invalid, skip := false }
  let p := m.tensor af bf
  let m := { m with flags := m.flags ||| (p.map MRes.flags).getD 0 }
  let kc := (m.kc + 32) % 2 ^ 32
  match m.deadPlane q k (p.map MRes.val) with
  | some j =>
    let s := s.setIsle e { m with skip := true, deadcnt := (m.deadcnt + 1) % 2 ^ 32, kc := kc }
    .done (s.killValues e) ((j + 1) * (kt / 32)) [] rings
  | none =>
    let r := cellsBy (rowCells m.rows) (fun r n =>
      let x := accumF q k r n kt 0
      match p with
      | none => x
      | some p => x.bind (fun x => (rndMul (accfVal x) p.val).bind toAccf))
    .done (s.setIsle e { m with score := putCells m.score r.val, flags := m.flags ||| r.flags, kc := kc })
      (planes af * (kt / 32)) [] rings

/-- The query operand held in the buffer: its bytes and the offsets / 32 of marked words. -/
def heldOperand (code kt : Nat) (b : List Byte × List Nat) : Operand :=
  operandOf code kt ((indexed b.1).map (fun e => (e.2, b.2.contains e.1)))

/-- MQK (R272). -/
def State.mqkWord (s : State) (e : IsleEnv) (af bf ra rb : Nat) : IsleRes :=
  let m := s.isle e
  let kt := m.reg rKtile
  match firstErr [if m.held then errIf ((m.qbuf.map (fun b => b.1.length)).getD 0 < operandBytes af kt) 3
      else s.ringErr e ra (operandBytes af kt),
      if m.kf then none else s.ringErr e rb (operandBytes bf kt),
      errIf ((m.kf && !portFormat bf) || badBlock af kt || badBlock bf kt) 4] with
  | some err => .stop err s
  | none =>
    if !m.cmulOk then .stop 7 s
    else if m.atype = 2 then .stop 5 s
    else if !m.held && !s.ringReady e ra then .wait s
    else
      -- the query slot is taken and retired with the word's work
      let take := fun (s : State) =>
        let m := s.isle e
        match (if m.held then m.qbuf else none) with
        | some b => (heldOperand af kt b, s)
        | none =>
          -- the buffer takes the whole slot (R257)
          let bs := (s.cl e.c).slotBytes e.i ra ((s.cl e.c).ring ra).slotBytes
          let a := operandOf af kt bs
          let s := s.setIsle e { m with qbuf := some (bs.map Prod.fst, ((indexed bs).filter (fun (x : Nat × Byte × Bool) => x.2.2)).map Prod.fst) }
          (a, (s.setCl e.c ((s.cl e.c).retire e.i ra)).isleChecks e a.hit)
      if m.kf then
        match s.gather e 0 (lineBytes bf kt / 4) with
        | .wait s => .wait s
        | .stop s => .stop 6 s
        | .blocks b0 b1 s =>
          let (a, s) := take s
          let ls := blockLines bf kt b0 ++ blockLines bf kt b1
          let s := s.isleChecks e (poisonedLines b0 b1)
          s.score e af bf a { code := bf, lines := ls.map (fun (l : Option (List Fp)) => l.getD (List.replicate kt (.zero false))) }
            (fun n => (ls.getD n none).isNone) []
      else if !s.ringReady e rb then .wait s
      else
        let (a, s) := take s
        let b := s.ringOperand e rb bf kt
        (s.isleChecks e b.hit).score e af bf a b (fun _ => false) [rb]

def execMqk (af bf ra rb : BitVec 4) (s : State) : Host.Outcome State Fault Refusal :=
  .next (s.isleTurn 1
    (fun m => (if m.held then [] else [.ring ra.toNat]) ++ [if m.kf then .port 0 else .ring rb.toNat])
    (fun _ => []) 0 fun e s => s.mqkWord e af.toNat bf.toNat ra.toNat rb.toNat)

/-! ### MSMU, MPVA (R275, R276) -/

/-- The format of P. -/
def probFmt (pf : Nat) : Fmt := if pf = 0xC then bf16 else e4m3

/-- One row of MSMU (R275). -/
def Isle.updateRow (m : Isle) (pf r : Nat) : Isle :=
  let c := m.regF rCmul
  let old := accfVal (m.maxOf r)
  let ts := collect ((List.range 32).map (fun n =>
    if m.masked r n then (⟨.inf true, 0⟩ : MRes Fp) else rndMul c (accfVal (m.score.get (32 * r + n) 0))))
  let mn := maxM (old :: ts.val)
  let fl := m.flags ||| ts.flags
  if mn.isInf && mn.neg then
    { m with prob := putCells m.prob ((List.range 32).map (fun n => (32 * r + n, 0))), flags := fl }
  else
    let minus := fun (x : Fp) => rndAdd x mn.negate
    let d := minus old
    let f := exp2Accf d.val
    let ps := collect ((List.range 32).map (fun n =>
      if m.masked r n then (⟨0, 0⟩ : MRes Nat)
      else let x := minus (ts.val.getD n default); ⟨exp2Bits (probFmt pf) x.val, x.flags⟩))
    let rs := (exactSum (ps.val.map (opValue pf))).bind rnd
    let l := (rndMul (accfVal (m.denOf r)) f).bind (fun x => (rndAdd x rs.val).bind toAccf)
    let o := cellsBy ((List.range 32).map (fun n => (r, n))) (fun r n =>
      (rndMul (accfVal (m.acc.get (32 * r + n) 0)) f).bind toAccf)
    { m with prob := putCells m.prob ((indexed ps.val).map (fun e => (32 * r + e.1, e.2))),
             l := m.l.put r l.val, acc := putCells m.acc o.val, m := m.m.put r (toAccf mn).val,
             flags := fl ||| d.flags ||| ps.flags ||| rs.flags ||| l.flags ||| o.flags }

/-- MSMU (R275). -/
def State.msmuWord (s : State) (e : IsleEnv) (pf : Nat) : IsleRes :=
  let m := s.isle e
  if m.skip then .done s 0 [] []
  else if !m.cmulOk then .stop 7 s
  else if m.atype = 2 then .stop 5 s
  else
    let m := { m with atype := 1, pfmt := pf }
    .done (s.setIsle e ((List.range m.rows).foldl (fun m r => m.updateRow pf r) m)) m.rows [] []

def execMsmu (pf : BitVec 4) (s : State) : Host.Outcome State Fault Refusal :=
  .next (s.isleTurn 1 (fun _ => []) (fun _ => []) 0 fun e s => s.msmuWord e pf.toNat)

/-- MPVA once V is there (R276): its lines are columns of V, each of 32 keys. -/
def Isle.addValues (m : Isle) (v : Operand) : Isle :=
  let p : Operand := { code := m.pfmt, lines := (List.range 32).map (fun r => (List.range 32).map (fun k =>
    if m.masked r k then Fp.zero false else opValue m.pfmt (m.prob.get (32 * r + k) 0))) }
  -- masked cells contribute nothing, whatever P and V hold there
  let vs : Nat → Operand := fun r => { v with lines := v.lines.map (fun l =>
    (indexed l).map (fun x => if m.masked r x.1 then Fp.zero false else x.2)) }
  let sb := if v.code = 8 ∨ v.code = 9 then some (m.regF rScaleB) else none
  let o := (List.range m.rows).flatMap (fun r =>
    let w := vs r
    (List.range 32).map (fun n =>
      let ps := unitSum p w r n 0 32
      let x := match sb with | some b => ps.bind (fun x => rndMul x b) | none => ps
      let y := x.bind (fun x => (rndAdd (accfVal (m.acc.get (32 * r + n) 0)) x).bind toAccf)
      (⟨(32 * r + n, y.val), y.flags⟩ : MRes (Nat × Nat))))
  let r := collect o
  { m with acc := putCells m.acc r.val, flags := m.flags ||| r.flags }

/-- MPVA (R276). -/
def State.mpvaWord (s : State) (e : IsleEnv) (bf rb : Nat) : IsleRes :=
  let m := s.isle e
  match firstErr [if m.vf then none else s.ringErr e rb (operandBytes bf 32), errIf (m.vf && !portFormat bf) 4,
      errIf (!m.skip && m.atype == 2) 5] with
  | some err => .stop err s
  | none =>
    let skip := fun (s : State) (ret : List Nat) => IsleRes.done (s.setIsle e { s.isle e with skip := false }) (planes m.pfmt) [] ret
    if m.vf then
      match s.gather e 1 (lineBytes bf 32 / 4) with
      | .wait s => .wait s
      | .stop s => .stop 6 s
      | .blocks b0 b1 s =>
        if m.skip then skip s []
        else
          let ls := (blockLines bf 32 b0 ++ blockLines bf 32 b1).map (fun (l : Option (List Fp)) => l.getD (List.replicate 32 (.zero false)))
          let s := s.isleChecks e (poisonedLines b0 b1)
          let v : Operand := { code := bf, lines := (List.range 32).map (fun n => ls.map (fun (l : List Fp) => l.getD n (.zero false))) }
          let m := s.isle e
          .done (s.setIsle e (m.addValues v)) (planes m.pfmt) [] []
    else if !s.ringReady e rb then .wait s
    else if m.skip then skip s [rb]
    else
      let v := s.ringOperand e rb bf 32
      let s := s.isleChecks e v.hit
      let m := s.isle e
      .done (s.setIsle e (m.addValues v)) (planes m.pfmt) [] [rb]

def execMpva (bf rb : BitVec 4) (s : State) : Host.Outcome State Fault Refusal :=
  .next (s.isleTurn 1 (fun m => [if m.vf then .port 1 else .ring rb.toNat]) (fun _ => []) 0
    fun e s => s.mpvaWord e bf.toNat rb.toNat)

/-! ### MSMF, MSMG, MSET (R277 to R279) -/

/-- The value of a cell of O. -/
def Isle.oVal (m : Isle) (r n : Nat) : Fp :=
  let x := m.acc.get (32 * r + n) 0
  if m.atype = 2 then Fp.ofInt (signed x 48) else accfVal x

/-- MSMF (R277). -/
def State.msmfWord (s : State) (e : IsleEnv) (out ro : Nat) : IsleRes :=
  match s.outErr e ro with
  | some err => .stop err s
  | none =>
    let m := s.isle e
    let rowOut := fun (r : Nat) =>
      if m.denOf r = 0 then (⟨List.replicate (32 * outBytes out) 0, 0⟩ : MRes (List Byte))
      else
        let x := collect ((List.range 32).map (fun n =>
          outConv out 0 (bit (m.reg rRqsat) 0) (quotient (m.oVal r n) (accfVal (m.denOf r)))))
        ⟨x.val.flatten, x.flags⟩
    let rs := collect ((List.range m.rows).map rowOut)
    let empty := (List.range m.rows).foldl (fun x r => putFld x r r (b2n (m.denOf r == 0))) m.empty
    .done (s.setIsle e { m with empty := empty, flags := m.flags ||| rs.flags }) m.rows rs.val.flatten []

def execMsmf (out ro : BitVec 4) (s : State) : Host.Outcome State Fault Refusal :=
  .next (s.isleTurn 1 (fun _ => []) (fun _ => []) ro.toNat fun e s => s.msmfWord e out.toNat ro.toNat)

/-- Merges row `r` of a state record, 34 cells (R278). -/
def Isle.mergeRow (m : Isle) (r : Nat) (cells : List Nat) : Isle :=
  let m2 := accfVal (cells.getD 0 0)
  let l2 := accfVal (cells.getD 1 0)
  let o2 := cells.drop 2
  if l2.isZero then m
  else if (accfVal (m.denOf r)).isZero then
    { m with m := m.m.put r (cells.getD 0 0), l := m.l.put r (cells.getD 1 0),
             acc := putCells m.acc ((indexed o2).map (fun e => (32 * r + e.1, e.2))) }
  else
    let m1 := accfVal (m.maxOf r)
    let mn := maxM [m1, m2]
    let d1 := rndAdd m1 mn.negate
    let d2 := rndAdd m2 mn.negate
    let f1 := exp2Accf d1.val
    let f2 := exp2Accf d2.val
    let join := fun (x y : Fp) => (rndMul x f1).bind (fun a => (rndMul y f2).bind (fun b => (rndAdd a b).bind toAccf))
    let l := join (accfVal (m.denOf r)) l2
    let o := collect ((indexed o2).map (fun e =>
      let y := join (accfVal (m.acc.get (32 * r + e.1) 0)) (accfVal e.2)
      (⟨(32 * r + e.1, y.val), y.flags⟩ : MRes (Nat × Nat))))
    { m with m := m.m.put r (toAccf mn).val, l := m.l.put r l.val, acc := putCells m.acc o.val,
             flags := m.flags ||| d1.flags ||| d2.flags ||| l.flags ||| o.flags }

/-- MSMG (R278). -/
def State.msmgWord (s : State) (e : IsleEnv) (ra : Nat) : IsleRes :=
  let m := s.isle e
  match firstErr [s.ringErr e ra (m.rows * 272), errIf (m.atype == 2) 5] with
  | some err => .stop err s
  | none =>
    if !s.ringReady e ra then .wait s
    else
      let bs := (s.cl e.c).slotBytes e.i ra (m.rows * 272)
      let s := s.isleChecks e (markedOf 272 m.rows bs)
      let m := { s.isle e with atype := 1 }
      let row := fun (r : Nat) => (List.range 34).map (fun j =>
        let v := (bs.drop (272 * r + 8 * j)).take 8
        if v.any Prod.snd then accf.nanBits false else ofBytes (v.map Prod.fst) % 2 ^ 48)
      .done (s.setIsle e ((List.range m.rows).foldl (fun m r => m.mergeRow r (row r)) m)) m.rows [] [ra]

def execMsmg (ra : BitVec 4) (s : State) : Host.Outcome State Fault Refusal :=
  .next (s.isleTurn 1 (fun _ => [.ring ra.toNat]) (fun _ => []) 0 fun e s => s.msmgWord e ra.toNat)

/-- MSET (R279). -/
def State.msetWord (s : State) (e : IsleEnv) (r v : Nat) : IsleRes :=
  let m := s.isle e
  if m.regOk r v then .done (s.setIsle e { m with dreg := m.dreg.put r v }) 1 [] [] else .stop 1 s

def execMset (dreg : BitVec 6) (value : BitVec 64) (s : State) : Host.Outcome State Fault Refusal :=
  .next (s.isleTurn 3 (fun _ => []) (fun _ => []) 0 fun e s => s.msetWord e dreg.toNat value.toNat)

/-! ### The status window (R259) -/

/-- A store to doubleword `i` of it. -/
def Isle.windowStore (m : Isle) (i v : Nat) : Isle :=
  match i with
  | 0 => { m with flags := (BitVec.ofNat 3 m.flags &&& ~~~BitVec.ofNat 3 v).toNat }
  | 2 => { m with deadcnt := v % 2 ^ 32 }
  | _ => m

/-- ISLAND_STATUS_WRITE (R259). -/
def execIslandStatusWrite (i : BitVec 2) (dw : BitVec 3) (v : BitVec 64) (s : State) : Host.Outcome State Fault Refusal :=
  let k := s.cl s.here
  .next (s.setCl s.here (k.setMat i.toNat ((k.mat i.toNat).windowStore dw.toNat v.toNat)))

end Sys2Proof.Machine
end

