-- ==== Sys2Proof/Machine/Device.lean ====
section
/-! DEFINITION. The device registers (R10, R14): reads and writes of 8 bytes by sequencers, the host and link peers, and
the host's accesses to device memory (R291). -/

namespace Sys2Proof.Machine

/-- Who accesses a device register. -/
inductive DevSrc where
  | seq (c ctx : Nat)
  | host
  | link (n : Nat)
  deriving DecidableEq, Repr

/-! ### Writes -/

/-- The mailbox serves the writer (R432). -/
def DevSrc.serves : DevSrc → Nat → Bool
  | .host, m => m == 0
  | .seq c _, m => m == 1 + dieOf c
  | .link _, m => m == 5

/-- A write of a mailbox's register. -/
def State.mbxWrite (s : State) (src : DevSrc) (m off v : Nat) : State :=
  match off with
  | 0x00 =>
    if src.serves m then
      match src with
      | .seq c ctx => s.doorbell { mbx := m, addr := v, ctx := ctx, cl := c }
      | .host => s.doorbell { mbx := m, addr := v }
      | .link n => s.doorbell { mbx := m, addr := v, cl := n }
    else s
  | 0x10 => if m = 0 then s.setMailbox 0 { s.mailbox 0 with vec := BitVec.ofNat 64 v &&& 0x800007FF#64 } else s
  | _ => s

/-- A write of a host queue's register (R364, R365). -/
def State.hqWrite (s : State) (d q off v : Nat) : State :=
  let x := (s.die d).hq q
  match off with
  | 0x00 => s.setHq d q (x.writeCtl v)
  | 0x08 => s.setHq d q { x with base := BitVec.ofNat 64 (v / 64 * 64) }
  | 0x10 => s.setHq d q { x with tailadr := BitVec.ofNat 64 (v / 8 * 8), tail := none }
  | 0x20 => s.hqDoorbell d q v
  | _ => s

/-- An 8-byte write of a device register: read-only fields and offsets that nothing is listed at ignore it; a link peer
reaches only the link window (R427). -/
def State.deviceWrite (s : State) (src : DevSrc) (pa : Nat) (v : Word) : State :=
  let x := v.toNat
  match src with
  | .link n =>
    if !inLinkWindow pa then s.send { kind := 6, dest := n, addr := pa }
    else if pa % 8 != 0 then s
    else if mbxBase ≤ pa ∧ pa < mbxBase + 0x600 then s.mbxWrite src ((pa - mbxBase) / 0x100) ((pa - mbxBase) % 0x100) x
    else match devAt amberBase pa with
      | some (d, off) => s.wakeStore d ((off - 0x80000) / 8) x
      | none => s
  | _ =>
    if pa % 8 != 0 then s
    else if mbxBase ≤ pa ∧ pa < mbxBase + 0x600 then s.mbxWrite src ((pa - mbxBase) / 0x100) ((pa - mbxBase) % 0x100) x
    else match devAt amberBase pa, devAt flagBase pa, devAt isleBase pa with
      | some (d, off), _, _ =>
        if off = 0 then s.amberPark d x
        else if 0x80000 ≤ off ∧ off < 0xA0000 then s.wakeStore d ((off - 0x80000) / 8) x
        else s
      | _, some (d, off), _ =>
        if 0x28000 ≤ off ∨ 0x800 ≤ off % 0x1000 then s
        else
          let c := d * 40 + off / 0x1000
          s.setCl c ((s.cl c).setTile (off % 0x1000 / 8) (((s.cl c).tile (off % 0x1000 / 8)).clearFlags x))
      | _, _, some (d, off) =>
        if 0x2800 ≤ off then s
        else
          let c := d * 40 + off / 0x100
          let i := off % 0x100 / 0x40
          s.setCl c ((s.cl c).setMat i (((s.cl c).mat i).windowStore (off % 0x40 / 8) x))
      | none, none, none =>
        match devAt hqBase pa, devAt powerBase pa with
        | some (d, off), _ => if 0x400 ≤ off then s else s.hqWrite d (off / 0x40) (off % 0x40) x
        | _, some (d, off) => if off = 0x10 then s.setDie d { s.die d with pstall := v } else s
        | none, none => s

/-- A write of another size takes no effect; Amber counts one in its window (R35). -/
def State.deviceOdd (s : State) (pa : Nat) : State :=
  match devAt amberBase pa with
  | some (d, _) => s.amberDrop d
  | none => s

/-- The device writes of the turn's engine take effect, in order (R14). -/
def State.flushDev (s : State) : State :=
  s.devq.foldl (fun s w =>
    if w.data.length = 8 then s.deviceWrite (.seq w.cl w.ctx) w.pa (BitVec.ofNat 64 (ofBytes w.data)) else s.deviceOdd w.pa)
    { s with devq := [] }

/-- REGISTER_WRITE (R8): a write by the actor: a sequencer, the host (unit 293), or the peer on a link (unit 294). -/
def execRegisterWrite (pa : BitVec 48) (v : BitVec 64) (s : State) : Host.Outcome State Fault Refusal :=
  let src : DevSrc := if s.actor.unit = 293 then .host else if s.actor.unit = 294 then .link s.actor.cl
    else .seq s.here (s.sq s.here).running.ctx
  .next (if inDev pa.toNat then s.posted.deviceWrite src pa.toNat v else s)

/-! ### The host's accesses to device memory (R10, R291) -/

/-- HOST_MEMORY_ACCESS: an address that R10 reserves is a fault. -/
def execHostMemoryAccess (write : Bool) (pa : BitVec 48) (len data : Nat) (s : State) : Host.Outcome State Fault Refusal :=
  let a := pa.toNat
  match (List.range len).find? (fun i => !populated (a + i)) with
  | some i => .fault (.noSuchAddress (a + i))
  | none =>
    if len = 0 then .next s
    else if inDev a then
      if len = 8 then
        .next (if write then (s.deliverKnown agentHost 0 .sys).deviceWrite .host a (BitVec.ofNat 64 data)
          else s.send { kind := 10, dest := 0, addr := a, data := toBytes 8 (s.deviceRead a).toNat })
      else .next (if write then s.deviceOdd a else s.send { kind := 10, dest := 0, addr := a, data := List.replicate len 0#8 })
    else if write then
      -- a posted write passes no earlier one (R291)
      .next (State.storeLines agentHost (len + 1) (s.deliverKnown agentHost 0 .sys) a (toBytes len data))
    else
      .next (s.send { kind := 10, dest := b2n ((List.range len).any (fun i => s.poisonedAt (a + i))), addr := a,
                      data := s.mem.bytes a len })

end Sys2Proof.Machine
end

