-- ==== Sys2Proof/Machine/MtUnit.lean ====
section
/-! DEFINITION. Memory tiles (R90 to R92, R203 to R210). -/

namespace Sys2Proof.Machine

/-- An MT word about to act: its fields, its tile and its foreground slot. -/
structure MtCtx where
  f : MtF
  t : Tile
  g : TileCfg

def State.mtOf (s : State) (c x : Nat) (f : MtF) : MtCtx :=
  { f := f, t := (s.cl c).tile x, g := ((s.cl c).tile x).cfgNow }

/-- The word's enabled slots, in operand order (R160). -/
def mtSlots (f : MtF) : List Nat := (List.range 4).filter f.en.getLsbD

/-- The region: its first word and its size (R160). -/
def mtFirst (f : MtF) : Nat := f.base.toNat
def mtSize (f : MtF) : Nat := 2 ^ f.span.toNat

/-- The tokens, or cycles, of a whole region. -/
def mtRows (f : MtF) : Nat := max 1 ((mtSize f) / 16)

/-- The output the word names. -/
def mtOutNo (f : MtF) : Nat := b2n f.osel

/-- A word of the MT. -/
def mtGet (mt : Tab Nat) (i : Nat) : Nat := mt.get i 0

/-- The region set to zero. -/
def mtCleared (f : MtF) (mt : Tab Nat) : Tab Nat := mt.filter (fun e => !((mtFirst f) ≤ e.1 && e.1 < (mtFirst f) + (mtSize f)))

/-- A firing that changes nothing. -/
def MtCtx.idleOut (p : MtCtx) : FireOut := { op := p.t.op, mt := p.t.mt, queues := p.t.queues }

/-- A firing's tokens on the word's output. -/
def MtCtx.outs (p : MtCtx) (o : FireOut) (ts : List Token) : FireOut :=
  if p.f.osel then { o with out1 := ts } else { o with out0 := ts }

/-- The strongest marker of the popped tokens, by MKB. -/
def MtCtx.mark (p : MtCtx) (toks : List Token) : Mk := (strongest (toks.map Token.mark)).kept p.f.mkb.toNat

/-- The lanes that act: valid in every slot; and the poisoned ones among them (R203). -/
def mtValid (toks : List Token) : BitVec 16 := maskOf (fun i => toks.all (fun t => t.has i))
def mtPoison (toks : List Token) : BitVec 16 := mtValid toks &&& maskOf (fun i => toks.any (fun t => t.bad i))

/-- Lane `i` of operand `k`. -/
def opLane (toks : List Token) (k i : Nat) : Nat := (toks.getD k {}).lane i

/-- Lanes by a test. -/
def lanesWhere (p : Nat → Bool) : List Nat := (List.range 16).filter p

/-- The tile still sends tokens of an earlier firing, behind the one in its output register; it fires nothing meanwhile
(R207). -/
def Tile.sending (t : Tile) : Bool := decide (1 < (t.lk.out 4).length) || decide (1 < (t.lk.out 5).length)

/-- One turn of an MT word that fires on one token of each of its slots (R91, R203, R463). -/
def State.runMt (s : State) (f : MtF) (body : MtCtx → List Token → FireOut) : Host.Outcome State Fault Refusal :=
  let c := s.here
  let x := s.actor.unit % 256
  .next (
    if !(s.cl c).mayFire x then s
    else
      let p := s.mtOf c x f
      let ss := (mtSlots f)
      let toks := ss.map (fun i => p.t.lk.peekSlot i p.g.cfg)
      if ss.isEmpty || ss.all p.t.ended || p.t.sending then s
      else if ss.any p.t.ended then s.discard c x (ss.filter (fun i => !p.t.ended i)) p.t.op
      else if toks.any Option.isNone then s
      else
        let out := body p (toks.map (fun t => t.getD {}))
        if !(out.out0.isEmpty || p.t.lk.outRoom 0) || !(out.out1.isEmpty || p.t.lk.outRoom 1) then s
        else s.applyFire c x 1 false { out with pops := ss })

/-- The lanes of a mask that lie outside the region set OOR (R203). -/
def oorFlag (idx : BitVec 16) (out : Nat → Bool) : Nat := if lanesWhere (fun i => idx.getLsbD i && out i) = [] then 0 else fOor

/-- The lanes whose reads a kill suppresses (R109, R203). -/
def MtCtx.killed (p : MtCtx) : BitVec 16 :=
  p.t.lk.killed (8 + mtOutNo p.f) (p.t.lk.units.get (8 + mtOutNo p.f) 0)

/-! ### Words (R205 to R209) -/

/-- A word whose lanes act on region words in lane order.  `step` takes a lane's index and its second operand and the
old word, and gives the new word, the output lane and flags; `idx` maps the index operand to a region word. -/
def MtCtx.lanesAct (p : MtCtx) (toks : List Token) (idx : Nat → Nat) (writes : Bool)
    (step : Nat → Nat → Nat → Nat × Nat × Nat) : Tab Nat × (Nat → Nat) × BitVec 16 × FireOut :=
  let v := mtValid toks
  let pz := mtPoison toks
  let act := v &&& ~~~pz
  -- an index lane that is itself poisoned names no word
  let idx0 := v &&& ~~~(toks.headD {}).pmask
  let far := fun i => idx0.getLsbD i && decide ((mtSize p.f) ≤ idx (opLane toks 0 i))
  let (mt, outs, fl) := (List.range 16).foldl (fun (st : Tab Nat × List Nat × Nat) i =>
    if act.getLsbD i && !far i then
      let u := opLane toks 0 i
      let w := (mtFirst p.f) + idx u
      let (new, out, fl) := step u (opLane toks 1 i) (mtGet st.1 w)
      (if writes then mtSet st.1 w new else st.1, st.2.1 ++ [out], st.2.2 ||| fl)
    else (st.1, st.2.1 ++ [0], st.2.2)) (p.t.mt, ([] : List Nat), 0)
  (mt, fun i => outs.getD i 0, (act &&& ~~~maskOf far) ||| pz,
   { p.idleOut with mt := mt, flags := fl ||| oorFlag idx0 far,
                    checks := if writes then lanesWhere (fun i => pz.getLsbD i && !far i) else [] })

/-- A word with an output lane for each acting lane. -/
def MtCtx.lanesOut (p : MtCtx) (toks : List Token) (tag : Nat) (idx : Nat → Nat) (writes : Bool)
    (step : Nat → Nat → Nat → Nat × Nat × Nat) : FireOut :=
  let (_, out, v, o) := p.lanesAct toks idx writes step
  p.outs o (tokensOf tag v (mtPoison toks) out (p.mark toks))

def execMtrd (f : MtF) (s : State) : Host.Outcome State Fault Refusal :=
  s.runMt f (fun p toks => p.lanesOut toks tagRaw id false (fun _ _ old => (old, old, 0)))

def execMtwr (f : MtF) (s : State) : Host.Outcome State Fault Refusal :=
  s.runMt f (fun p toks => (p.lanesAct toks id true (fun _ y _ => (y, 0, 0))).2.2.2)

/-- MTTAS (R206): bit u mod 32 of region word u div 32. -/
def execMttas (f : MtF) (s : State) : Host.Outcome State Fault Refusal :=
  s.runMt f (fun p toks => p.lanesOut toks tagUint32 (fun u => u / 32) true
    (fun u _ old => (old ||| 2 ^ (u % 32), b2n (bit old (u % 32)), 0)))

/-- The region as tokens of 16 words (R207). -/
def MtCtx.regionToks (p : MtCtx) (mt : Tab Nat) (m : Mk) : List Token :=
  (List.range (mtRows p.f)).flatMap (fun t =>
    tokensOf tagUint32 (maskOf (fun j => 16 * t + j < (mtSize p.f))) 0 (fun j => mtGet mt ((mtFirst p.f) + 16 * t + j))
      (if t + 1 = (mtRows p.f) then m else .none))

def MtCtx.histOut (p : MtCtx) (toks : List Token) : FireOut :=
  let step := fun (_ _ old : Nat) => ((old + 1) % 2 ^ 32, old, 0)
  if p.f.mkb.toNat != mkAct then p.lanesOut toks tagUint32 id true step
  else
    let (mt, _, _, o) := p.lanesAct toks id true step
    let m := strongest (toks.map Token.mark)
    if m.any then p.outs { o with mt := mtCleared p.f mt, cycles := (mtRows p.f) } (p.regionToks mt m)
    else { o with keep := true }

def execMthist (f : MtF) (s : State) : Host.Outcome State Fault Refusal := s.runMt f MtCtx.histOut

/-- FP32 arithmetic under policy entry value 0, of which an MT keeps NV, OF and NX (R203, R208). -/
def mtRound (v : Fp) : Nat × Nat :=
  let (b, fl) := fp32.round {} v 0
  (b, fl &&& (fNv ||| fOf ||| fNx))

/-- Rounded sum and difference of FP32 values. -/
def mtAdd (x y : Nat) : Nat × Nat := mtRound ((fp32.decode x false).add (fp32.decode y false) false)
def mtSub (x y : Nat) : Nat × Nat :=
  let b := fp32.decode y false
  mtRound ((fp32.decode x false).add (if b.isNan then b else b.negate) false)
def mtMul (x y : Nat) : Nat × Nat := mtRound ((fp32.decode x false).mul (fp32.decode y false))

/-- MTLUT's value at position u * 2^(SPAN - 32) (R208). -/
def MtCtx.lut (p : MtCtx) (u : Nat) : Nat × Nat :=
  let T := fun k => mtGet p.t.mt ((mtFirst p.f) + k)
  let n := u * (mtSize p.f)
  if p.f.mod = 0 then (T (min ((n + 2 ^ 31) / 2 ^ 32) ((mtSize p.f) - 1)), 0)
  else
    let i := n / 2 ^ 32
    let i1 := min (i + 1) ((mtSize p.f) - 1)
    let (f, f1) := mtRound { m := n % 2 ^ 32, e := -32 }
    let (d, f2) := mtSub (T i1) (T i)
    let (q, f3) := mtMul f d
    let (r, f4) := mtAdd (T i) q
    (r, f1 ||| f2 ||| f3 ||| f4)

def MtCtx.lutOut (p : MtCtx) (toks : List Token) : FireOut :=
  let v := mtValid toks
  let pz := mtPoison toks
  let rs := (List.range 16).map (fun i => if (v &&& ~~~pz &&& ~~~p.killed).getLsbD i then p.lut (opLane toks 0 i) else (0, 0))
  p.outs { p.idleOut with flags := rs.foldl (fun a r => a ||| r.2) 0 }
    (tokensOf (if p.f.mod = 0 then tagRaw else tagFp32) v pz (fun i => (rs.getD i (0, 0)).1) (p.mark toks))

def execMtlut (f : MtF) (s : State) : Host.Outcome State Fault Refusal := s.runMt f MtCtx.lutOut

/-- MTACC (R209): INT32 addition modulo 2^32, or FP32 addition. -/
def execMtacc (f : MtF) (s : State) : Host.Outcome State Fault Refusal :=
  s.runMt f (fun p toks => (p.lanesAct toks id true (fun _ y old =>
    if p.f.mod = 0 then ((old + y) % 2 ^ 32, 0, 0) else let (r, fl) := mtAdd old y; (r, 0, fl))).2.2.2)

/-- MTCLR (R209). -/
def execMtclr (f : MtF) (s : State) : Host.Outcome State Fault Refusal :=
  s.runMt f (fun p _ => { p.idleOut with mt := mtCleared p.f p.t.mt, cycles := (mtRows p.f) })

/-! ### Token queues (R210) -/

/-- The queue that a slot fills. -/
def MtCtx.queue (p : MtCtx) : MtQueue :=
  p.t.queues.get ((mtSlots p.f).headD 0) { base := (mtFirst p.f), depth := max 1 ((mtSize p.f) / 16) }

/-- The oldest token, with its lanes as the region holds them, the marker that MKB leaves, and its place in the output's
kill units (R106). -/
def MtCtx.oldest (p : MtCtx) (q : MtQueue) : Token :=
  let t := q.toks.headD {}
  let m := queueMark p.f.mkb.toNat t
  let ls := lanesOf (fun i => if t.has i && !t.bad i then mtGet p.t.mt (q.word 0 + i) else 0)
  let t := { t with lanes := ls, last := queueLast p.f.mkb.toNat t, nseq := p.t.lk.units.get (8 + mtOutNo p.f) 0 % 8,
                    prov := t.prov ||| p.t.lk.prov }
  if t.mcode = 3 then t else { t with mcode := m.code, lvl := m.level }

/-- A stored MARKER token whose marker STRIP takes away sends nothing: no MARKER token has MK = 0 (R95). -/
def MtCtx.drops (p : MtCtx) (q : MtQueue) : Bool :=
  let t := q.toks.headD {}
  t.isMarker && !(queueMark p.f.mkb.toNat t).any

/-- A dequeue: the token leaves as it came, still counted (R110); a marker that is dropped is counted out. -/
def State.queueSend (s : State) (c x : Nat) (p : MtCtx) (q : MtQueue) : State :=
  let (ok, s) := s.drawPower c x 1 1
  if !ok then s
  else
    let o := (mtOutNo p.f)
    let t := p.oldest q
    let u := p.t.lk.units.get (8 + o) 0
    let gone := p.drops q || !p.g.heard o
    let lk := { p.t.lk.setOut (4 + o) (if gone then p.t.lk.out (4 + o) else [{ tok := t.clear (p.t.lk.killed (8 + o) u) }]) with
                units := p.t.lk.units.put (8 + o) (u + b2n t.last) }
    let rest := q.toks.drop 1
    let q := { q with toks := rest, flush := q.flush && !rest.isEmpty }
    (s.setCl c ((s.cl c).setTile x { p.t with lk := lk, queues := p.t.queues.put ((mtSlots p.f).headD 0) q,
                                              fidx := (p.t.fidx + 1) % 2 ^ 32 })).censusFall
      c ((s.cl c).tileOwner x) (if gone && t.cns then t.logical else 0)

/-- An enqueue: no consumption under R110. -/
def State.queueStore (s : State) (c x : Nat) (p : MtCtx) (q : MtQueue) (t : Token) (flush : Bool) : State :=
  let (ok, s) := s.drawPower c x 1 1
  if !ok then s
  else
    let i := (mtSlots p.f).headD 0
    let lk := { p.t.lk.popSlots p.g.cfg [i] with kept := p.t.lk.kept }
    let w := q.base + 16 * (q.stored % q.depth)
    let mt := (List.range 16).foldl (fun mt j => mtSet mt (w + j) (t.lane j)) p.t.mt
    let q := { q with toks := q.toks ++ [t], stored := q.stored + 1, flush := q.flush || flush }
    s.setCl c ((s.cl c).setTile x { p.t with lk := lk, mt := mt, queues := p.t.queues.put i q, fidx := (p.t.fidx + 1) % 2 ^ 32 })

/-- When the oldest token of a queue may leave (R210): MTFIFO's once it is stored, but under ACT; MTRING's once the line
is full; every token while everything held is sent. -/
def queueMaySend (ring : Bool) (f : MtF) (q : MtQueue) : Bool :=
  !q.toks.isEmpty && (q.flush || (if ring then decide (q.depth ≤ q.toks.length) else f.mkb.toNat != mkAct))

/-- The queue sends now. -/
def MtCtx.sendsNow (p : MtCtx) (ring : Bool) (q : MtQueue) : Bool :=
  queueMaySend ring p.f q && (p.drops q || p.t.lk.outRoom (mtOutNo p.f))

/-- The token that the queue stores next, if it may store one. -/
def MtCtx.storesNext (p : MtCtx) (q : MtQueue) : Option Token :=
  if q.flush || q.depth ≤ q.toks.length then none else p.t.lk.peekSlot ((mtSlots p.f).headD 0) p.g.cfg

/-- A turn of a queue: it sends where it may, and otherwise stores.  `flushes` says which stored token sends everything
held. -/
def State.runQueue (s : State) (f : MtF) (ring : Bool) (flushes : MtCtx → MtQueue → Token → Bool) :
    Host.Outcome State Fault Refusal :=
  let c := s.here
  let x := s.actor.unit % 256
  .next (
    if !(s.cl c).mayFire x || ((s.cl c).tile x).sending then s
    else
      let p := s.mtOf c x f
      let q := p.queue
      if p.sendsNow ring q then s.queueSend c x p q
      else match p.storesNext q with
        | none => s
        | some t => s.queueStore c x p q t (flushes p q t))

/-- MTFIFO: in arrival order; under ACT, everything held once a token with a marker is stored or the queue is full. -/
def execMtfifo (f : MtF) (s : State) : Host.Outcome State Fault Refusal :=
  s.runQueue f false
    (fun p q t => p.f.mkb.toNat == mkAct && (t.mark.any || decide (q.depth ≤ q.toks.length + 1)))

/-- MTRING: a delay line of D tokens; EOS, and under ACT an EOD, sends everything held. -/
def execMtring (f : MtF) (s : State) : Host.Outcome State Fault Refusal :=
  s.runQueue f true
    (fun p _ t => t.mark == Mk.eos || (p.f.mkb.toNat == mkAct && t.mark.any))

/-! ### Which word fires (R91) -/

/-- The fields of an MT word. -/
def mtFields (w : Word32) : MtF :=
  { base := BitVec.ofNat 12 (fld w.toNat 27 16), span := BitVec.ofNat 4 (fld w.toNat 15 12), mod := BitVec.ofNat 4 (fld w.toNat 11 8),
    osel := bit w.toNat 7, mkb := BitVec.ofNat 2 (fld w.toNat 5 4), en := BitVec.ofNat 4 (fld w.toNat 3 0) }

/-- Word `w` could act (R91, R204): its slots hold tokens and its output has room; or it discards; or its queue sends or
stores. -/
def Tile.mtReady (t : Tile) (w : Word32) : Bool :=
  let f := mtFields w
  let op := fld w.toNat 31 28
  let cfg := t.cfgNow.cfg
  let has := fun i => (t.lk.peekSlot i cfg).isSome
  let room := t.lk.outRoom (mtOutNo f)
  let ss := (mtSlots f)
  if t.sending then false
  else if op = 2 ∨ op = 3 then
    let p : MtCtx := { f := f, t := t, g := t.cfgNow }
    p.sendsNow (op == 2) p.queue || (p.storesNext p.queue).isSome
  else if ss.any t.ended then ss.any (fun i => !t.ended i && has i)
  else !ss.isEmpty && ss.all has && (op == 1 || op == 7 || op == 8 || room)

/-- The word that fires: the lowest-numbered that is ready. -/
def Tile.mtNext (t : Tile) : Option Word32 :=
  ((List.range 4).map (fun w => t.cfgNow.mts.get w 0)).find? t.mtReady

end Sys2Proof.Machine
end

