-- ==== Sys2Proof/Machine/PeWord.lean ====
section
/-! DEFINITION. Word-mode processing elements (chapter 11): firing, port conversion and framing (R211 to R213, R243), and
the meaning of each word-mode operation. -/

namespace Sys2Proof.Machine

/-! ### What a firing sees -/

/-- A PE about to act: its word's fields, its tile, the foreground slot, and the firing's stochastic-rounding key. -/
structure Pe where
  f : PeF
  t : Tile
  g : TileCfg
  key : SrKey
  /-- Lanes that the firing computes nothing for, as every consumer of its output has killed them (R109). -/
  dead : BitVec 16 := 0
  /-- The firing at hand is known to push a token (digit mode). -/
  pushes : Bool := false

/-- Where a residency's tiles start: the north-west tile of its page set, as coordinates. -/
def originX (r : Resid) : Nat := 4 * (r.origin % 4)
def originY (r : Resid) : Nat := 4 * (r.origin / 4)

/-- The PE of tile `x` (R136: RSEED, FIDX and the coordinates relative to the page set). -/
def State.peOf (s : State) (c x : Nat) (f : PeF) : Pe :=
  let k := s.cl c
  let t := k.tile x
  let r := match k.tileOwner x with | some r => k.resident r | none => {}
  { f := f, t := t, g := t.cfgNow,
    key := { rseed := r.rseed, fidx := t.fidx, rx := x % 16 - originX r, ry := x / 16 - originY r } }

/-- Fields of the word (R153). -/
def Pe.en (p : Pe) (i : Nat) : Bool := p.f.en.getLsbD i
def Pe.ty (p : Pe) : Nat := p.f.ty.toNat
def Pe.mod (p : Pe) : Nat := p.f.mod.toNat
def Pe.imm (p : Pe) : Nat := p.f.imm.toNat
def Pe.mkb (p : Pe) : Nat := p.f.mkb.toNat
def Pe.act (p : Pe) : Bool := p.mkb == mkAct

/-- Lanes of the output at hand that every consumer has killed: the PE computes nothing for them (R109, R148). -/
def Pe.outKilled (p : Pe) : BitVec 16 := p.t.lk.killed 8 (p.t.lk.units.get 8 0)

/-- The enabled slots, A to P as 0 to 3. -/
def Pe.slots (p : Pe) : List Nat := (List.range 4).filter p.en

/-- The selected policy entry, and the entry with the rounding MOD (R159). -/
def Pe.pol (p : Pe) : Pol := polOf (p.g.pols.get p.f.pol.toNat 0)
def Pe.rnd (p : Pe) : Pol := p.pol.withMod p.mod

/-- Constant register `n` as a token (R152). -/
def TileCfg.constTok (g : TileCfg) (n : Nat) : Token :=
  let (ls, tag) := g.consts.get n (List.replicate 16 0, 0)
  { lanes := ls, valid := 0xFFFF, tag := tag }

/-- The operand of a starred slot that is disabled (R154). -/
def Pe.immTok (p : Pe) : Token :=
  if p.imm < 16 then
    { lanes := lanesOf (fun _ => wrapNat (signed p.imm 4) 32), valid := 0xFFFF, tag := tagInt32 }
  else p.g.constTok (p.imm % 8)

/-- How an operation uses its slots: those it pops, those it never converts, a starred slot, whether the port leaves
word tokens as they are (CVT), whether each lane of output 0 comes from the same lane of the inputs alone, and whether an immediate
operand is a count (R218). -/
structure PeForm where
  used : List Nat
  raw : List Nat := []
  star : Option Nat := none
  asIs : Bool := false
  perLane : Bool := false
  count : Bool := false

/-- Slot `i` converts what arrives on it. -/
def PeForm.converts (m : PeForm) (i : Nat) : Bool := i < 3 && !m.raw.contains i

/-! ### Port conversion (R212) -/

/-- A token of this tag reaches TYPE `dst` as it stands: RAW32 on either side, and a MARKER token.  So does a constant register
whose record gives a tag from 0xD to 0xF: R154 converts it by R131 or R134, which name no such tag, and CFG has no check of it; the
model's choice (assumption 67). -/
def passesRaw (src dst : Nat) : Bool := src == 0 || dst == 0 || decide (12 < src)

/-- One lane from a source tag to a target tag. -/
def convLane (src dst : Nat) (pol : Pol) (key : SrKey) (lane x : Nat) : Nat × Nat :=
  if passesRaw src dst then (x, 0)
  else
    let rs := (List.range (min (tagCount src) (tagCount dst))).map (fun j =>
      match (if src = dst then tagKind dst else .raw) with
      | .flt F => F.same pol (elem src x j)
      | _ => convElem (tagKind src) (tagKind dst) pol (elem src x j) (key.sr24 lane j))
    (laneOf dst (rs.map Prod.fst), rs.foldl (fun a r => a ||| r.2) 0)

/-- A token converted to TYPE under a policy, and the flags. -/
def Pe.convTok (p : Pe) (pol : Pol) (t : Token) : Token × Nat :=
  let rs := (List.range 16).map (fun i =>
    if t.has i && !t.bad i && !p.dead.getLsbD i then convLane t.tag p.ty pol p.key i (t.lane i) else (0, 0))
  ({ t with lanes := rs.map (fun r => BitVec.ofNat 32 r.1), tag := p.ty }, rs.foldl (fun a r => a ||| r.2) 0)

/-! ### Framing (R243) -/

/-- A number opened by a header, and the digits that a DIGITS token adds to it. -/
def NumBuf.start (t : Token) (unit : Nat) : NumBuf :=
  { valid := t.valid, pmask := t.pmask, lanes := (List.range 16).map (fun i => DNum.ofHeader (t.lane i)), unit := unit,
    cns := [b2n t.cns] }

/-- The four digits of a DIGITS lane (R95). -/
def laneDigits (x : Nat) : List (Option Int) :=
  [codeDigit (fld x 2 0), codeDigit (fld x 5 3), codeDigit (fld x 8 6), codeDigit (fld x 11 9)]

/-- A lane's number with up to `n` more digits; an invalid code marks the number, and passes on as it came (R133). -/
def DNum.more (u : DNum) (x n : Nat) : DNum :=
  let ds := (laneDigits x).take n
  { u with digits := u.digits ++ ds.map (fun d => d.getD 4), bad := u.bad || ds.any Option.isNone }

/-- A number with one more DIGITS token, of which positions beyond `L` are ignored (R96). -/
def NumBuf.add (n : NumBuf) (t : Token) (L : Nat) : NumBuf :=
  { n with lanes := (List.range 16).map (fun i => (n.lanes.getD i {}).more (if t.has i then t.lane i else 0) (L - 4 * n.toks)),
           pmask := n.pmask ||| t.pmask, toks := n.toks + 1, cns := n.cns ++ [b2n t.cns] }

/-- NV for a digit code 0b100 that a lane's number has just received (R133). -/
def NumBuf.nowBad (old new : NumBuf) : Nat :=
  if (List.range 16).any (fun k => new.valid.getLsbD k && (new.lanes.getD k {}).bad && !(old.lanes.getD k {}).bad) then fNv else 0

/-- The converted token of several numbers, element j being number j (R135, R243).  A number that poisons the lane takes part as the
zeros it carries, and each element has its own flags (R117, R464). -/
def Pe.numTok (p : Pe) (nums : List NumBuf) (m : Mk) : Token × Nat :=
  let first := nums.headD {}
  let bad := nums.foldl (fun a n => a ||| (n.pmask &&& n.valid)) (0 : BitVec 16) &&& first.valid
  let rs := (List.range 16).map (fun i =>
    if first.valid.getLsbD i && !p.dead.getLsbD i then
      let es := nums.map (fun n =>
        if n.valid.getLsbD i then (n.lanes.getD i {}).toElem 16 (tagKind p.ty) p.pol else (0, 0))
      (if bad.getLsbD i then 0 else laneOf p.ty (es.map Prod.fst), es.foldl (fun a r => a ||| r.2) 0)
    else (0, 0))
  ({ lanes := rs.map (fun r => BitVec.ofNat 32 r.1), valid := first.valid, pmask := bad, tag := p.ty, mcode := m.code,
     lvl := m.level }, rs.foldl (fun a r => a ||| r.2) 0)

/-- What framing does with the head of a slot: whether it pops it, and then discards it; the operation state, and flags. -/
structure FrameRes where
  pop : Bool
  op : OpSt
  flags : Nat := 0
  drop : Bool := false

/-- Completes numbers of slot `i`: a converted token once there are enough of them, or at once where it is closed, by a MARKER token
of `n` counted ones (R110) perhaps. -/
def Pe.gather (p : Pe) (o : OpSt) (i : Nat) (nums : List NumBuf) (open' : Option NumBuf) (close : Bool) (m : Mk)
    (pop : Bool) (n : Nat := 0) : FrameRes :=
  let o := { o with frames := match open' with | some n => o.frames.put i n | none => o.frames.del i }
  if !nums.isEmpty && (close || tagCount p.ty ≤ nums.length) then
    let (t, fl) := p.numTok nums m
    { pop := pop, flags := fl,
      op := { o with framed := o.framed.del i, ready := o.ready.put i (o.ready.get i [] ++ [t]),
                     readyCns := o.readyCns.put i ((nums.map (fun n => n.cns.sum)).sum + n) } }
  else { pop := pop, op := { o with framed := if nums.isEmpty then o.framed.del i else o.framed.put i nums } }

/-- One step of framing on slot `i`, if its head is framed. -/
def Pe.frame (p : Pe) (i : Nat) : Option FrameRes :=
  let o := p.t.op
  if !(o.ready.get i []).isEmpty then none
  else
    match p.t.lk.peekSlot i p.g.cfg with
    | none => none
    | some h =>
      let nums := o.framed.get i []
      let cur := o.frames.find i
      if h.isHdr then some (p.gather o i (nums ++ cur.toList) (some (NumBuf.start h 0)) false .none true)
      else if h.isDigits then
        match cur with
        | none => some { pop := true, op := o, drop := true }
        | some old =>
          let n := old.add h 16
          let r :=
            if h.mark.any then p.gather o i (nums ++ [n]) none true h.mark true
            else if n.toks = 4 then p.gather o i (nums ++ [n]) none false .none true
            else p.gather o i nums (some n) false .none true
          some { r with flags := r.flags ||| old.nowBad n }
      else if cur.isSome || !nums.isEmpty then
        some (p.gather o i (nums ++ cur.toList) none true (if h.isMarker then h.mark else .none) h.isMarker
          (b2n (h.isMarker && h.cns)))
      else none

/-- A framing turn: what it pops is buffered, not fired (R211). -/
def State.frameSlots (s : State) (c x : Nat) (p : Pe) (ss : List Nat) : State :=
  ss.foldl (fun s i =>
    let t := (s.cl c).tile x
    match ({ p with t := t } : Pe).frame i with
    | none => s
    | some r =>
      let lk := if r.pop then t.lk.popSlots p.g.cfg [i] else t.lk
      let fall := if r.drop then lk.kept - t.lk.kept else 0
      (s.setCl c ((s.cl c).setTile x { t with lk := { lk with kept := lk.kept - fall }, op := r.op, flags := t.flags ||| r.flags })).censusFall
        c ((s.cl c).tileOwner x) fall) s

/-! ### Firing (R211, R463) -/

/-- The token that slot `i` offers to a firing. -/
def Pe.head (p : Pe) (m : PeForm) (i : Nat) : Option Token :=
  match p.t.op.ready.get i [] with
  | t :: _ => some t
  | [] =>
    match p.t.lk.peekSlot i p.g.cfg with
    | none => none
    | some h =>
      if m.converts i && (h.isDigital || (p.t.op.frames.find i).isSome || (p.t.op.framed.find i).isSome) then none
      else some h

/-- An immediate shift count in TYPE: the count of element 0 modulo 2^w, so that a negative one is large and sets no flag (R218);
the other elements are zero, as R212 gives an INT32 token. -/
def Pe.countTok (p : Pe) : Token :=
  { p.immTok with lanes := lanesOf (fun _ => wrapNat (signed p.imm 4) (if p.ty = tagRaw then 32 else tagWidth p.ty)), tag := p.ty }

/-- What a firing has of slot `i`: the popped token, converted where the port converts it, or the operand of R154. -/
def Pe.input (p : Pe) (m : PeForm) (i : Nat) : Token × Nat :=
  if m.used.contains i then
    let h := (p.head m i).getD {}
    if m.converts i && !m.asIs && (p.t.op.ready.get i []).isEmpty then p.convTok p.pol h else (h, 0)
  else if m.star = some i then
    if m.raw.contains i then (p.immTok, 0)
    else if m.count && p.imm < 16 then (p.countTok, 0)
    else p.convTok p.pol p.immTok
  else ({}, 0)

/-- A firing that changes nothing but what every firing does. -/
def Pe.idleOut (p : Pe) : FireOut := { op := p.t.op, mt := p.t.mt, queues := p.t.queues }

/-- One turn of a word-mode PE.  `form` says which slots it uses, `body` what the firing does, `last` whether it clears
the operation state (R213), `stay` that an ended slot does not yet end the unit (R234). -/
def State.runPe (s : State) (f : PeF) (form : Pe → PeForm) (body : Pe → (Nat → Token) → FireOut)
    (last : Pe → (Nat → Token) → Bool) (stay : Pe → Bool) : State :=
  let c := s.here
  let x := s.actor.unit % 256
  if !(s.cl c).mayFire x then s
  else
    let p := s.peOf c x f
    let ended := p.slots.filter p.t.ended
    if p.slots.all p.t.ended then s
    else if !ended.isEmpty && !stay p then s.discard c x (p.slots.filter (fun i => !p.t.ended i)) p.t.op
    else
      let m := form p
      let p := { p with dead := if m.perLane then p.outKilled else 0 }
      if m.used.any (fun i => m.converts i && (p.frame i).isSome) then
        s.frameSlots c x p (m.used.filter m.converts)
      else if m.used.isEmpty || !m.used.all (fun i => (p.head m i).isSome) then s
      else
        let ins := (List.range 4).map (p.input m)
        let tok := fun i => (ins.getD i ({}, 0)).1
        let out := body p tok
        if !(out.out0.isEmpty || p.t.lk.outRoom 0) || !(out.out1.isEmpty || p.t.lk.outRoom 1) then s
        else
          let fromLink := m.used.filter (fun i => (p.t.op.ready.get i []).isEmpty)
          let ready := m.used.foldl (fun r i => let q := (r.get i []).drop 1; if q.isEmpty then Tab.del r i else r.put i q) out.op.ready
          let op := if last p tok then {}
            else { out.op with ready := ready, readyCns := out.op.readyCns.filter (fun e => !m.used.contains e.1) }
          s.applyFire c x 1 false
            { out with pops := fromLink, op := op, flags := ins.foldl (fun a r => a ||| r.2) out.flags }

/-- The usual form: the firing pops every enabled slot. -/
def formOf (raw : List Nat) (star : Option Nat) (p : Pe) : PeForm :=
  { used := p.slots, raw := raw, star := match star with | some i => if p.en i then none else some i | none => none }

/-- Some slot of the firing delivers EOS. -/
def anyEos (p : Pe) (tok : Nat → Token) : Bool := p.slots.any (fun i => (tok i).mark == Mk.eos)

/-- The usual firing. -/
def State.runWord (s : State) (f : PeF) (raw : List Nat) (star : Option Nat)
    (body : Pe → (Nat → Token) → FireOut) : Host.Outcome State Fault Refusal :=
  .next (s.runPe f (formOf raw star) body anyEos (fun _ => false))

/-- The usual firing of an operation whose every result lane comes from the same lane of its operands: the lanes that every
consumer has killed are not even converted (R109, R214). -/
def State.runLanes (s : State) (f : PeF) (raw : List Nat) (star : Option Nat)
    (body : Pe → (Nat → Token) → FireOut) : Host.Outcome State Fault Refusal :=
  .next (s.runPe f (fun p => { formOf raw star p with perLane := true }) body anyEos (fun _ => false))

/-! ### Results -/

/-- The predicate of lane `i` (R155). -/
def Pe.pred (p : Pe) (tok : Nat → Token) (i : Nat) : Bool :=
  match p.f.pred.toNat with
  | 1 => (tok 3).has i && (tok 3).lane i != 0
  | 2 => (tok 3).has i && (tok 3).lane i == 0
  | _ => true

/-- Lane `i` of the predicate token is poisoned: the lane's result is, too (R104, R464). -/
def Pe.predBad (p : Pe) (tok : Nat → Token) (i : Nat) : Bool := p.f.pred != 0 && (tok 3).bad i

/-- The lanes that take part: valid in every slot of `ss`, and true under the predicate (R105).  Marks play no part in
it: a poisoned lane takes part as the zero it carries (R464). -/
def Pe.valid (p : Pe) (tok : Nat → Token) (ss : List Nat) : BitVec 16 :=
  maskOf (fun i => ss.all (fun k => (tok k).has i) && p.pred tok i)

/-- The result lanes that leave poisoned: those that a poisoned lane of a slot enters, and those whose predicate is
poisoned, whatever it says (R464). -/
def Pe.poison (p : Pe) (tok : Nat → Token) (ss : List Nat) : BitVec 16 :=
  maskOf (fun i => ss.all (fun k => (tok k).has i) &&
    ((p.pred tok i && ss.any (fun k => (tok k).bad i)) || p.predBad tok i))

/-- The marker that R156 gives the firing. -/
def Pe.mark (p : Pe) (tok : Nat → Token) : Mk := (strongest (p.slots.map (fun i => (tok i).mark))).kept p.mkb

/-- The marker that an operation acts on under ACT: EOS of any slot, or A's own. -/
def Pe.actMark (p : Pe) (tok : Nat → Token) : Mk := if anyEos p tok then .eos else (tok 0).mark

/-- Under ACT the token keeps its own marker, otherwise R156. -/
def Pe.ownMark (p : Pe) (tok : Nat → Token) : Mk := if p.act then p.actMark tok else p.mark tok

/-- A result computed lane by lane: bits and flags. -/
def Pe.lanewise (p : Pe) (tok : Nat → Token) (ss : List Nat) (tag : Nat) (h : Nat → List Nat → Nat × Nat) : FireOut :=
  let v := p.valid tok ss
  let rs := (List.range 16).map (fun i =>
    if (v &&& ~~~p.outKilled).getLsbD i then h i (ss.map (fun k => (tok k).lane i)) else (0, 0))
  { p.idleOut with out0 := tokensOf tag v (p.poison tok ss) (fun i => (rs.getD i (0, 0)).1) (p.mark tok),
                   flags := rs.foldl (fun a r => a ||| r.2) 0 }

/-- A result computed element by element; `sr` is the element's sr24 value. -/
def Pe.elemwise (p : Pe) (tok : Nat → Token) (ss : List Nat) (tag : Nat) (h : Nat → List Nat → Nat × Nat) : FireOut :=
  p.lanewise tok ss tag (fun i xs =>
    let rs := (List.range (tagCount p.ty)).map (fun j => h (p.key.sr24 i j) (xs.map (fun x => elem p.ty x j)))
    (laneOf p.ty (rs.map Prod.fst), rs.foldl (fun a r => a ||| r.2) 0))

/-- A lane of float elements that an operation passes on without rounding them (R128). -/
def Pe.outLane (p : Pe) (x : Nat) : Nat × Nat :=
  match tagKind p.ty with
  | .flt F =>
    let rs := (List.range (tagCount p.ty)).map (fun j => F.result p.pol (elem p.ty x j))
    (laneOf p.ty (rs.map Prod.fst), rs.foldl (fun a r => a ||| r.2) 0)
  | _ => (x, 0)

/-- A token of such lanes, but for killed ones, and the flags. -/
def Pe.outTok (p : Pe) (killed : BitVec 16) (t : Token) : Token × Nat :=
  let rs := (List.range 16).map (fun i =>
    if t.has i && !t.bad i && !killed.getLsbD i then p.outLane (t.lane i) else (t.lane i, 0))
  ({ t with lanes := lanesOf (fun i => (rs.getD i (0, 0)).1) }, rs.foldl (fun a r => a ||| r.2) 0)

/-- A firing that moves elements without rounding them: SUBOUT acts on what it sends (R128). -/
def Pe.moved (p : Pe) (out : FireOut) : FireOut :=
  let a := out.out0.map (p.outTok p.outKilled)
  let b := out.out1.map (p.outTok 0)
  { out with out0 := a.map Prod.fst, out1 := b.map Prod.fst, flags := (a ++ b).foldl (fun z r => z ||| r.2) out.flags }

/-! ### Integer arithmetic (R215 to R217) -/

/-- TYPE's width and signedness. -/
def Pe.width (p : Pe) : Nat := tagWidth p.ty
def Pe.sgn (p : Pe) : Bool := match tagKind p.ty with | .int _ sg => sg | _ => false

/-- The integer of an element. -/
def Pe.int (p : Pe) (x : Nat) : Int := intVal p.width p.sgn x

/-- An exact result, wrapped under MOD 0 and clamped with ISAT under MOD 1. -/
def Pe.fit (p : Pe) (e : Int) : Nat × Nat :=
  if p.mod = 0 then (wrapNat e p.width, 0)
  else let (b, sat) := satBits p.width p.sgn e; (b, if sat then fIsat else 0)

/-- The operations of R215. -/
def State.runInt (s : State) (f : PeF) (h : Int → Int → Int) : Host.Outcome State Fault Refusal :=
  s.runLanes f [] (some 1) (fun p tok =>
    p.elemwise tok [0, 1] p.ty (fun _ xs => p.fit (h (p.int (xs.getD 0 0)) (p.int (xs.getD 1 0)))))

def execIadd (f : PeF) (s : State) : Host.Outcome State Fault Refusal := s.runInt f (fun x y => x + y)
def execIsub (f : PeF) (s : State) : Host.Outcome State Fault Refusal := s.runInt f (fun x y => x - y)
def execImul (f : PeF) (s : State) : Host.Outcome State Fault Refusal := s.runInt f (fun x y => x * y)
def execImin (f : PeF) (s : State) : Host.Outcome State Fault Refusal := s.runInt f (fun x y => if x ≤ y then x else y)
def execImax (f : PeF) (s : State) : Host.Outcome State Fault Refusal := s.runInt f (fun x y => if x ≤ y then y else x)

/-- IMULH (R216). -/
def execImulh (f : PeF) (s : State) : Host.Outcome State Fault Refusal :=
  s.runLanes f [] (some 1) (fun p tok => p.elemwise tok [0, 1] p.ty (fun _ xs =>
    (wrapNat ((p.int (xs.getD 0 0) * p.int (xs.getD 1 0)).fdiv (2 ^ 32)) 32, 0)))

/-- IABS (R217): |x| of the most negative element wraps to itself, or saturates. -/
def execIabs (f : PeF) (s : State) : Host.Outcome State Fault Refusal :=
  s.runLanes f [] none (fun p tok => p.elemwise tok [0] p.ty (fun _ xs => p.fit (p.int (xs.getD 0 0)).natAbs))

/-! ### Logic, shifts and bit counts (R218 to R220) -/

/-- Operations on all 32 bits of a lane. -/
def State.runLogic (s : State) (f : PeF) (h : Nat → Nat → Nat) : Host.Outcome State Fault Refusal :=
  s.runLanes f [] (some 1) (fun p tok => p.lanewise tok [0, 1] p.ty (fun _ xs => (h (xs.getD 0 0) (xs.getD 1 0), 0)))

def execPeAnd (f : PeF) (s : State) : Host.Outcome State Fault Refusal := s.runLogic f (fun x y => x &&& y)
def execPeOr (f : PeF) (s : State) : Host.Outcome State Fault Refusal := s.runLogic f (fun x y => x ||| y)
def execPeXor (f : PeF) (s : State) : Host.Outcome State Fault Refusal := s.runLogic f (fun x y => x ^^^ y)

/-- Shifts of elements of width `w` by a count read as unsigned. -/
def peShlVal (w x n : Nat) : Nat := if n < w then (x <<< n) % 2 ^ w else 0
def peShrVal (w x n : Nat) : Nat := if n < w then x >>> n else 0
def peShaVal (w x n : Nat) : Nat := wrapNat ((signed x w).fdiv (2 ^ (min n w) : Nat)) w

def State.runShift (s : State) (f : PeF) (h : Nat → Nat → Nat → Nat) : Host.Outcome State Fault Refusal :=
  .next (s.runPe f (fun p => { formOf [] (some 1) p with perLane := true, count := true }) (fun p tok =>
    p.elemwise tok [0, 1] p.ty (fun _ xs => (h p.width (xs.getD 0 0) (xs.getD 1 0), 0))) anyEos (fun _ => false))

def execPeShl (f : PeF) (s : State) : Host.Outcome State Fault Refusal := s.runShift f peShlVal
def execPeShr (f : PeF) (s : State) : Host.Outcome State Fault Refusal := s.runShift f peShrVal
def execPeSha (f : PeF) (s : State) : Host.Outcome State Fault Refusal := s.runShift f peShaVal

/-- Funnel shifts (R219). -/
def fshlVal (x y c : Nat) : Nat := (((x * 2 ^ 32 + y) <<< (c % 64)) >>> 32) % 2 ^ 32
def fshrVal (x y c : Nat) : Nat := ((x * 2 ^ 32 + y) >>> (c % 64)) % 2 ^ 32

def State.runFunnel (s : State) (f : PeF) (h : Nat → Nat → Nat → Nat) : Host.Outcome State Fault Refusal :=
  s.runLanes f [] (some 2) (fun p tok =>
    p.lanewise tok [0, 1, 2] p.ty (fun _ xs => (h (xs.getD 0 0) (xs.getD 1 0) (xs.getD 2 0), 0)))

def execFshl (f : PeF) (s : State) : Host.Outcome State Fault Refusal := s.runFunnel f fshlVal
def execFshr (f : PeF) (s : State) : Host.Outcome State Fault Refusal := s.runFunnel f fshrVal

/-- How many bits a number needs: 0 for 0. -/
def bitLen (x : Nat) : Nat := if x = 0 then 0 else Nat.log2 x + 1

/-- The number of one bits of a 32-bit lane. -/
def popc32 (x : Nat) : Nat := ((List.range 32).filter (fun i => bit x i)).length

/-- BWID: 32 - CLZ, or for INT32 the smallest signed width. -/
def bwidVal (isInt : Bool) (x : Nat) : Nat :=
  if isInt then
    let v := signed x 32
    bitLen (if 0 ≤ v then v.toNat else (-v - 1).toNat) + 1
  else bitLen x

def State.runCount (s : State) (f : PeF) (h : Pe → Nat → Nat) : Host.Outcome State Fault Refusal :=
  s.runLanes f [] none (fun p tok => p.lanewise tok [0] tagUint32 (fun _ xs => (h p (xs.getD 0 0), 0)))

def execPeClz (f : PeF) (s : State) : Host.Outcome State Fault Refusal := s.runCount f (fun _ x => 32 - bitLen x)
def execPePopc (f : PeF) (s : State) : Host.Outcome State Fault Refusal := s.runCount f (fun _ x => popc32 x)
def execBwid (f : PeF) (s : State) : Host.Outcome State Fault Refusal :=
  s.runCount f (fun p x => bwidVal (p.ty == tagInt32) x)

/-! ### Comparison and selection (R221 to R223) -/

/-- A mask of element width. -/
def Pe.maskEl (p : Pe) (b : Bool) : Nat := if b then 2 ^ p.width - 1 else 0

/-- The conditions of ICMP (R159, R221). -/
def icmpVal (w cond x y : Nat) : Bool :=
  let a := signed x w
  let b := signed y w
  match cond with
  | 0 => x == y
  | 1 => x != y
  | 2 => decide (a < b)
  | 3 => decide (a ≤ b)
  | 4 => decide (b < a)
  | 5 => decide (b ≤ a)
  | 6 => decide (x < y)
  | 7 => decide (x ≤ y)
  | 8 => decide (y < x)
  | _ => decide (y ≤ x)

def execIcmp (f : PeF) (s : State) : Host.Outcome State Fault Refusal :=
  s.runLanes f [] (some 1) (fun p tok => p.elemwise tok [0, 1] tagRaw (fun _ xs =>
    (p.maskEl (icmpVal p.width p.mod (xs.getD 0 0) (xs.getD 1 0)), 0)))

/-- The float format of TYPE. -/
def Pe.fmt (p : Pe) : Fmt := match tagKind p.ty with | .flt F => F | _ => fp32

/-- An element as a value, after SUBIN. -/
def Pe.val (p : Pe) (x : Nat) : Fp := p.fmt.decode x p.pol.subin

/-- FCMP (R222): the condition, and NV. -/
def fcmpVal (cond : Nat) (x y : Fp) : Bool × Nat :=
  let sig := (x.isNan && !x.quiet) || (y.isNan && !y.quiet)
  let r := x.cmp y
  let ord := fun (q : Int → Bool) => match r with | some d => q d | none => false
  let b := match cond with
    | 0 => ord (fun d => d == 0)
    | 1 => !ord (fun d => d == 0)
    | 2 => ord (fun d => decide (d < 0))
    | 3 => ord (fun d => decide (d ≤ 0))
    | 4 => ord (fun d => decide (0 < d))
    | 5 => ord (fun d => decide (0 ≤ d))
    | 6 => r.isNone
    | _ => r.isSome
  (b, if sig || (r.isNone && 2 ≤ cond && cond ≤ 5) then fNv else 0)

def execFcmp (f : PeF) (s : State) : Host.Outcome State Fault Refusal :=
  s.runLanes f [] (some 1) (fun p tok => p.elemwise tok [0, 1] tagRaw (fun _ xs =>
    let (b, fl) := fcmpVal p.mod (p.val (xs.getD 0 0)) (p.val (xs.getD 1 0))
    (p.maskEl b, fl)))

/-- SEL (R223): only the operands that a bit of C selects need be valid; a poisoned lane of any of them poisons the result
(R464). -/
def Pe.selOut (p : Pe) (tok : Nat → Token) : FireOut :=
  let needs := fun (i k : Nat) => k == 2 || (if k = 0 then (tok 2).lane i != 0 else (tok 2).lane i != 2 ^ 32 - 1)
  let has := fun i => [0, 1, 2].all (fun k => !needs i k || (tok k).has i)
  let v := maskOf (fun i => has i && p.pred tok i)
  let bad := maskOf (fun i => has i && ((p.pred tok i && [0, 1, 2].any (fun k => (tok k).bad i)) || p.predBad tok i))
  let h := fun i =>
    let m := (tok 2).lane i
    ((tok 0).lane i &&& m) ||| ((tok 1).lane i &&& (2 ^ 32 - 1 - m))
  p.moved { p.idleOut with out0 := tokensOf p.ty v bad h (p.mark tok) }

def execSel (f : PeF) (s : State) : Host.Outcome State Fault Refusal := s.runLanes f [2] none Pe.selOut

/-! ### Floating-point arithmetic (R224, R225) -/

/-- Results rounded once under the rounding MOD. -/
def State.runFlt (s : State) (f : PeF) (ss : List Nat) (star : Nat) (h : Bool → List Fp → Fp) :
    Host.Outcome State Fault Refusal :=
  s.runLanes f [] (some star) (fun p tok => p.elemwise tok ss p.ty (fun sr xs =>
    p.fmt.round p.rnd (h (p.rnd.rmode == rdn) (xs.map p.val)) sr))

/-- x - y, where a NaN keeps its sign. -/
def subVal (down : Bool) (x y : Fp) : Fp := x.add (if y.isNan then y else y.negate) down

/-- x * y + c.  A NaN created by 0 * inf gives way to a quiet NaN in c, with NV (R224). -/
def fmaVal (down : Bool) (x y z : Fp) : Fp :=
  let m := x.mul y
  if m.isNan && m.made && z.isNan then { z with quiet := false } else m.add z down

def execFadd (f : PeF) (s : State) : Host.Outcome State Fault Refusal :=
  s.runFlt f [0, 1] 1 (fun d xs => (xs.getD 0 {}).add (xs.getD 1 {}) d)
def execFsub (f : PeF) (s : State) : Host.Outcome State Fault Refusal :=
  s.runFlt f [0, 1] 1 (fun d xs => subVal d (xs.getD 0 {}) (xs.getD 1 {}))
def execFmul (f : PeF) (s : State) : Host.Outcome State Fault Refusal :=
  s.runFlt f [0, 1] 1 (fun _ xs => (xs.getD 0 {}).mul (xs.getD 1 {}))
def execFfma (f : PeF) (s : State) : Host.Outcome State Fault Refusal :=
  s.runFlt f [0, 1, 2] 2 (fun d xs => fmaVal d (xs.getD 0 {}) (xs.getD 1 {}) (xs.getD 2 {}))

/-- FMIN and FMAX (R225): the chosen input, with NV for a signalling NaN even where the number wins. -/
def Pe.minMax (p : Pe) (mx num : Bool) (x y : Nat) : Nat × Nat :=
  let a := p.val x
  let b := p.val y
  let (r, fl) := p.fmt.round { p.pol with rmode := rne } (Fp.pick mx num a b) 0
  (r, fl ||| (if (a.isNan && !a.quiet) || (b.isNan && !b.quiet) then fNv else 0))

def State.runMinMax (s : State) (f : PeF) (mx : Bool) : Host.Outcome State Fault Refusal :=
  s.runLanes f [] (some 1) (fun p tok => p.elemwise tok [0, 1] p.ty (fun _ xs =>
    p.minMax mx (p.mod == 1) (xs.getD 0 0) (xs.getD 1 0)))

def execFmin (f : PeF) (s : State) : Host.Outcome State Fault Refusal := s.runMinMax f false
def execFmax (f : PeF) (s : State) : Host.Outcome State Fault Refusal := s.runMinMax f true

/-! ### CVT (R226) -/

/-- Source elements per lane; a RAW32 token, a token already in TYPE, and a MARKER token count as TYPE's own. -/
def Pe.srcCount (p : Pe) (t : Token) : Nat := if t.tag = 0 ∨ 12 < t.tag then tagCount p.ty else tagCount t.tag

/-- Elements of lane `i` of the popped token from index `lo`, `n` of them, converted into TYPE; `sub` is the index of
the first in its result lane. -/
def Pe.cvtLane (p : Pe) (t : Token) (i lo n sub : Nat) : Nat × Nat :=
  let rs := (List.range n).map (fun j =>
    convElem (tagKind t.tag) (tagKind p.ty) p.rnd (elem t.tag (t.lane i) (lo + j)) (p.key.sr24 i (sub + j)))
  (laneOf p.ty (rs.map Prod.fst), rs.foldl (fun a r => a ||| r.2) 0)

/-- The group's token, once complete. -/
def Pe.groupOut (p : Pe) (o : OpSt) : List Token :=
  if o.grp.isEmpty then []
  else tokensOf p.ty o.grpValid o.grpPoison (fun i => o.grp.getD i 0) (o.grpMk.kept p.mkb)

/-- The operation state with no group. -/
def OpSt.noGroup (o : OpSt) : OpSt := { o with grpPos := 0, grp := [], grpValid := 0, grpPoison := 0, grpMk := .none }

def Pe.cvtOut (p : Pe) (tok : Nat → Token) : FireOut :=
  let a := tok 0
  let o := p.t.op
  let ns := p.srcCount a
  let nt := tagCount p.ty
  let v := p.valid tok [0]
  let bad := p.poison tok [0]
  let live := fun i => v.getLsbD i && !bad.getLsbD i
  let sent := fun i => live i && !p.outKilled.getLsbD i
  let popped := strongest (p.slots.map (fun i => (tok i).mark))
  -- a token framed from digits is already in TYPE (R135)
  let framed := !(o.ready.get 0 []).isEmpty
  -- a MARKER token that arrives while a group is open belongs to the group
  if ns < nt || (a.isMarker && !o.grp.isEmpty) then
    let rs := (List.range 16).map (fun i => if sent i && ns < nt then p.cvtLane a i 0 ns o.grpPos else (0, 0))
    let fl := rs.foldl (fun z r => z ||| r.2) 0
    let old := if o.grp.isEmpty then List.replicate 16 0 else o.grp
    let grp := (List.range 16).map (fun i => old.getD i 0 + (rs.getD i (0, 0)).1 <<< (tagWidth p.ty * o.grpPos))
    let o := { o with grp := grp, grpPos := o.grpPos + ns, grpValid := o.grpValid ||| v, grpPoison := o.grpPoison ||| bad,
                      grpMk := o.grpMk.stronger popped }
    if nt ≤ o.grpPos || popped.any then { p.idleOut with out0 := p.groupOut o, op := o.noGroup, flags := fl }
    else { p.idleOut with op := o, flags := fl, keep := true }
  else
    let before := p.groupOut o
    if ns = nt then
      let rs := (List.range 16).map (fun i =>
        if !sent i then (0, 0) else if framed || passesRaw a.tag p.ty then (a.lane i, 0) else p.cvtLane a i 0 nt 0)
      { p.idleOut with out0 := before ++ tokensOf p.ty v bad (fun i => (rs.getD i (0, 0)).1) (p.mark tok), op := o.noGroup,
                       flags := rs.foldl (fun z r => z ||| r.2) 0 }
    else
      let r := ns / nt
      let part := fun g => (List.range 16).map (fun i => if sent i then p.cvtLane a i (g * nt) nt 0 else (0, 0))
      let fl := (List.range r).foldl (fun z g => (part g).foldl (fun z r => z ||| r.2) z) 0
      let ts := (List.range r).flatMap (fun g =>
        tokensOf p.ty v bad (fun i => ((part g).getD i (0, 0)).1) (if g + 1 = r then p.mark tok else .none))
      { p.idleOut with out0 := before ++ ts, op := o.noGroup, flags := fl }

def execCvt (f : PeF) (s : State) : Host.Outcome State Fault Refusal :=
  .next (s.runPe f (fun p => { formOf [] none p with asIs := true, perLane := true }) Pe.cvtOut anyEos (fun _ => false))

/-! ### RED and SCAN (R227, R228) -/

/-- The operation of RED and SCAN on two elements. -/
def Pe.comb (p : Pe) (a b : Nat) : Nat × Nat :=
  match tagKind p.ty with
  | .flt F =>
    let x := F.decode a false
    let y := F.decode b false
    let pol := { p.pol with rmode := if p.pol.rmode = rsr then rne else p.pol.rmode }
    if p.mod = 0 then F.round pol (x.add y (pol.rmode == rdn)) 0
    else
      let (r, fl) := F.round { p.pol with rmode := rne } (Fp.pick (p.mod == 2) false x y) 0
      (r, fl)
  | _ =>
    (match p.mod with
      | 0 => (a + b) % 2 ^ p.width
      | 1 => if p.int a ≤ p.int b then a else b
      | 2 => if p.int a ≤ p.int b then b else a
      | 3 => a &&& b
      | 4 => a ||| b
      | _ => a ^^^ b, 0)

/-- Combination with partials that may be empty, gathering flags. -/
def Pe.comb2 (p : Pe) (a b : Option Nat) (fl : Nat) : Option Nat × Nat :=
  match a, b with
  | none, y => (y, fl)
  | x, none => (x, fl)
  | some x, some y => let (r, g) := p.comb x y; (some r, fl ||| g)

/-- An input element, after SUBIN. -/
def Pe.entry (p : Pe) (x : Nat) : Nat :=
  match tagKind p.ty with
  | .flt F => if p.pol.subin && (F.decode x false).isFin && (F.decode x true).isZero then F.signBit (bit x (F.width - 1)) else x
  | _ => x

/-- One level of a tree over neighbouring pairs. -/
def Pe.pairUp (p : Pe) : List (Option Nat) → Nat → List (Option Nat) × Nat
  | a :: b :: t, fl =>
    let (r, fl) := p.comb2 a b fl
    let (rs, fl) := p.pairUp t fl
    (r :: rs, fl)
  | l, fl => (l, fl)

/-- A tree of `n` levels. -/
def Pe.tree (p : Pe) : Nat → List (Option Nat) → Nat → List (Option Nat) × Nat
  | 0, l, fl => (l, fl)
  | n + 1, l, fl => let (l, fl) := p.pairUp l fl; p.tree n l fl

/-- The result of a group, from its partials keyed 128q + 8i + j. -/
def Pe.redResult (p : Pe) (parts : Tab Nat) (fl : Nat) : Option Nat × Nat :=
  let n := tagCount p.ty
  let (cols, fl) := (List.range n).foldl (fun (st : List (Option Nat) × Nat) j =>
    let (lanes, fl) := (List.range 16).foldl (fun (st : List (Option Nat) × Nat) i =>
      let q := fun k => parts.find (128 * k + 8 * i + j)
      let (a, fl) := p.comb2 (q 0) (q 1) st.2
      let (b, fl) := p.comb2 (q 2) (q 3) fl
      let (r, fl) := p.comb2 a b fl
      (st.1 ++ [r], fl)) (([] : List (Option Nat)), st.2)
    let (l, fl) := p.tree 4 lanes fl
    (st.1 ++ l, fl)) (([] : List (Option Nat)), fl)
  let (l, fl) := p.tree 3 cols fl
  (l.headD none, fl)

def Pe.redOut (p : Pe) (tok : Nat → Token) : FireOut :=
  let o := p.t.op
  let v := p.valid tok [0]
  let n := tagCount p.ty
  let (parts, fl) := (List.range 16).foldl (fun (st : Tab Nat × Nat) i =>
    if v.getLsbD i then
      (List.range n).foldl (fun (st : Tab Nat × Nat) j =>
        let key := 128 * (o.step % 4) + 8 * i + j
        let (r, fl) := p.comb2 (st.1.find key) (some (p.entry (elem p.ty ((tok 0).lane i) j))) st.2
        (st.1.put key (r.getD 0), fl)) st
    else st) (o.parts, 0)
  let bad := o.poisoned || anyLane (p.poison tok [0])
  let close := !p.act || (p.actMark tok).any
  if close then
    let (r, fl) := p.redResult parts fl
    let ts := match r with
      | none => [{ tag := p.ty, mcode := (p.ownMark tok).code, lvl := (p.ownMark tok).level }]
      | some r => tokensOf p.ty 0xFFFF (if bad then 0xFFFF else 0) (fun _ => laneOf p.ty (List.replicate n r)) (p.ownMark tok)
    p.moved { p.idleOut with out0 := ts, op := { o with parts := [], step := 0, poisoned := false }, flags := fl }
  else { p.idleOut with op := { o with parts := parts, step := o.step + 1, poisoned := bad }, flags := fl, keep := true }

def execRed (f : PeF) (s : State) : Host.Outcome State Fault Refusal := s.runWord f [] none Pe.redOut

def Pe.scanOut (p : Pe) (tok : Nat → Token) : FireOut :=
  let o := p.t.op
  let v := p.valid tok [0]
  let pz := p.poison tok [0]
  -- carry, poison of the carry, lanes so far, poison so far, flags
  let (carry, bad, ls, pm, fl) := (List.range 16).foldl
    (fun (st : Option Nat × Bool × List Nat × Nat × Nat) i =>
      let (carry, bad, ls, pm, fl) := st
      let bad := bad || pz.getLsbD i
      if v.getLsbD i then
        let (carry, es, fl) := (List.range (tagCount p.ty)).foldl (fun (st : Option Nat × List Nat × Nat) j =>
          let (r, fl) := p.comb2 st.1 (some (p.entry (elem p.ty ((tok 0).lane i) j))) st.2.2
          (r, st.2.1 ++ [r.getD 0], fl)) (carry, ([] : List Nat), fl)
        (carry, bad, ls ++ [laneOf p.ty es], pm + b2n bad * 2 ^ i, fl)
      else (carry, bad, ls ++ [0], pm + b2n (pz.getLsbD i) * 2 ^ i, fl)) (o.carry, o.poisoned, ([] : List Nat), 0, 0)
  let close := !p.act || (p.actMark tok).any
  let op := if close then { o with carry := none, poisoned := false } else { o with carry := carry, poisoned := bad }
  p.moved { p.idleOut with out0 := tokensOf p.ty v (BitVec.ofNat 16 pm) (fun i => ls.getD i 0) (p.ownMark tok), op := op, flags := fl }

def execScan (f : PeF) (s : State) : Host.Outcome State Fault Refusal := s.runWord f [] none Pe.scanOut

/-! ### DELTA and CNT (R229, R230) -/

def Pe.deltaOut (p : Pe) (tok : Nat → Token) : FireOut :=
  let o := p.t.op
  let v := p.valid tok [0]
  let pz := p.poison tok [0]
  let (prev, bad, ls, pm) := (List.range 16).foldl (fun (st : Nat × Bool × List Nat × Nat) i =>
    let (prev, bad, ls, pm) := st
    if v.getLsbD i then
      let x := (tok 0).lane i
      let b := pz.getLsbD i
      (x, b, ls ++ [(x + 2 ^ 32 - prev) % 2 ^ 32], pm + b2n (b || bad) * 2 ^ i)
    else (prev, bad || pz.getLsbD i, ls ++ [0], pm + b2n (pz.getLsbD i) * 2 ^ i)) (o.prev, o.poisoned, ([] : List Nat), 0)
  let close := p.act && (p.actMark tok).any
  { p.idleOut with out0 := tokensOf p.ty v (BitVec.ofNat 16 pm) (fun i => ls.getD i 0) (p.ownMark tok),
                   op := { o with prev := if close then 0 else prev, poisoned := !close && bad } }

def execDelta (f : PeF) (s : State) : Host.Outcome State Fault Refusal := s.runWord f [] none Pe.deltaOut

/-- How many lanes a mask names. -/
def lanesIn (v : BitVec 16) : Nat := ((List.range 16).filter (fun i => v.getLsbD i)).length

def Pe.cntOut (p : Pe) (tok : Nat → Token) : FireOut :=
  let n := lanesIn (p.valid tok [0])
  let out := fun (n : Nat) => tokensOf p.ty 1 0 (fun _ => n) (p.ownMark tok)
  if !p.act then { p.idleOut with out0 := out n }
  else
    let total := (p.t.op.count + n) % 2 ^ 32
    if (p.actMark tok).any then { p.idleOut with out0 := out total, op := { p.t.op with count := 0 } }
    else { p.idleOut with op := { p.t.op with count := total }, keep := true }

def execCnt (f : PeF) (s : State) : Host.Outcome State Fault Refusal := s.runWord f [] none Pe.cntOut

/-! ### PASS, CONST, SHUF (R231, R232) -/

def execPass (f : PeF) (s : State) : Host.Outcome State Fault Refusal :=
  s.runLanes f [] none (fun p tok => p.lanewise tok [0] p.ty (fun _ xs => p.outLane (xs.getD 0 0)))

/-- CONST: the trigger's lanes say where the constant appears. -/
def Pe.constOut (p : Pe) (tok : Nat → Token) : FireOut :=
  let v := p.valid tok [0]
  let (t, fl) := p.convTok p.pol { p.g.constTok (p.imm % 8) with valid := v &&& ~~~p.outKilled }
  p.moved { p.idleOut with out0 := tokensOf p.ty v (p.poison tok [0]) t.lane (p.mark tok), flags := fl }

def execConst (f : PeF) (s : State) : Host.Outcome State Fault Refusal := s.runLanes f [0] none Pe.constOut

def Pe.shufOut (p : Pe) (tok : Nat → Token) : FireOut :=
  let src := fun i => (tok 1).lane i % 16
  let has := fun i => (tok 1).has i && (tok 0).has (src i)
  let v := maskOf (fun i => has i && p.pred tok i)
  let bad := maskOf (fun i => has i && ((p.pred tok i && ((tok 1).bad i || (tok 0).bad (src i))) || p.predBad tok i))
  p.moved { p.idleOut with out0 := tokensOf p.ty v bad (fun i => (tok 0).lane (src i)) (p.mark tok) }

def execShuf (f : PeF) (s : State) : Host.Outcome State Fault Refusal := s.runWord f [1] (some 1) Pe.shufOut

/-! ### PACKB and UNPKB (R233) -/

/-- The low `n` bits of a value, lowest first, with a poison mark. -/
def bitsOf (x n : Nat) (bad : Bool) : List (Bool × Bool) := (List.range n).map (fun i => (bit x i, bad))

/-- The value of bits, lowest first. -/
def ofBits (bs : List (Bool × Bool)) : Nat := bs.foldr (fun b a => b2n b.1 + 2 * a) 0

/-- Bits cut into lanes of `w` bits. -/
def cutLanes (bs : List (Bool × Bool)) (w : Nat) (n : Nat) : List (List (Bool × Bool)) :=
  (List.range n).map (fun i => (bs.drop (w * i)).take w)

/-- A token of the first `n` lanes of `w` bits each; a lane with a poisoned bit is poisoned (R464). -/
def Pe.bitTok (p : Pe) (bs : List (Bool × Bool)) (w n : Nat) (sext : Bool) (m : Mk) : List Token :=
  let ls := cutLanes bs w n
  tokensOf p.ty (maskOf (fun i => i < n)) (maskOf (fun i => (ls.getD i []).any (fun b => b.2)))
    (fun i => let x := ofBits (ls.getD i []); if sext then wrapNat (signed x w) 32 else x) m

/-- Whole tokens of `16 w` bits: how many there are in the buffer. -/
def wholeToks (len w : Nat) : Nat := if w = 0 then 0 else len / (16 * w)

def Pe.packOut (p : Pe) (tok : Nat → Token) (unpack : Bool) : FireOut :=
  let o := p.t.op
  let w := if (tok 1).has 0 then min ((tok 1).lane 0) 32 else 0
  let v := p.valid tok [0]
  let pz := p.poison tok [0]
  let take := if unpack then (if w = 0 then 0 else 32) else w
  let bits := o.bits ++ (List.range 16).flatMap (fun i =>
    if v.getLsbD i then bitsOf ((tok 0).lane i) take (pz.getLsbD i) else [])
  -- the width of an output lane
  let lw := if unpack then w else 32
  let sext := unpack && p.ty == tagInt32
  let k := wholeToks bits.length lw
  let rest := bits.drop (16 * lw * k)
  let flush := p.act && (p.actMark tok).any
  let tail := if !flush || lw = 0 then 0 else if unpack then rest.length / lw else (rest.length + 31) / 32
  let m := p.ownMark tok
  let n := k + b2n (tail != 0)
  let ts := (List.range n).flatMap (fun j =>
    p.bitTok (bits.drop (16 * lw * j)) lw (if j < k then 16 else tail) sext (if j + 1 = n then m else .none))
  let left := if flush then [] else rest
  { p.idleOut with out0 := if n = 0 then (if m.any then [markerToken m] else []) else ts, op := { o with bits := left },
                   keep := !left.isEmpty }

def execPackb (f : PeF) (s : State) : Host.Outcome State Fault Refusal :=
  s.runWord f [1] (some 1) (fun p tok => p.packOut tok false)
def execUnpkb (f : PeF) (s : State) : Host.Outcome State Fault Refusal :=
  s.runWord f [1] (some 1) (fun p tok => p.packOut tok true)

/-! ### GATE and STEER (R234) -/

/-- Under ACT, B is popped only at the first firing of a segment. -/
def gateForm (p : Pe) : PeForm :=
  { used := p.slots.filter (fun i => i != 1 || !(p.act && p.t.op.decision.isSome)), raw := [1] }

/-- The decision in force. -/
def Pe.gate (p : Pe) (tok : Nat → Token) : Bool :=
  match (if p.act then p.t.op.decision else none) with
  | some g => g
  | none => (tok 1).has 0 && (tok 1).lane 0 != 0

/-- B's EOS does not cut short the A segment that its decision governs. -/
def gateStay (p : Pe) : Bool := p.act && p.t.op.decision.isSome && !p.t.ended 0 && !p.t.ended 3

/-- The poisoned result lanes: lane 0 also where this firing reads its decision from a poisoned lane (R464). -/
def Pe.gatePoison (p : Pe) (tok : Nat → Token) : BitVec 16 :=
  p.poison tok [0] ||| (if (tok 1).bad 0 then p.valid tok [0] &&& 1 else 0)

/-- The operation state after the firing. -/
def Pe.gateNext (p : Pe) (tok : Nat → Token) : OpSt :=
  { p.t.op with decision := if p.act && !(tok 0).mark.any then some (p.gate tok) else none }

/-- EOS of A or P clears the state. -/
def gateLast (_ : Pe) (tok : Nat → Token) : Bool := (tok 0).mark == Mk.eos || (tok 3).mark == Mk.eos

def Pe.gateOut (p : Pe) (tok : Nat → Token) : FireOut :=
  let m := (tok 0).mark.kept p.mkb
  let o := p.gateNext tok
  if p.gate tok then
    p.moved { p.idleOut with out0 := tokensOf p.ty (p.valid tok [0]) (p.gatePoison tok) (tok 0).lane m, op := o }
  else { p.idleOut with out0 := if m.any then [markerToken m] else [], op := o, keep := o.decision.isSome }

def execGate (f : PeF) (s : State) : Host.Outcome State Fault Refusal :=
  .next (s.runPe f (fun p => { gateForm p with perLane := true }) Pe.gateOut gateLast gateStay)

def Pe.steerOut (p : Pe) (tok : Nat → Token) : FireOut :=
  let m := (tok 0).mark.kept p.mkb
  let ts := tokensOf p.ty (p.valid tok [0]) (p.gatePoison tok) (tok 0).lane m
  let other := if m = .eos then [markerToken .eos] else []
  p.moved (if p.gate tok then { p.idleOut with out0 := ts, out1 := other, op := p.gateNext tok }
    else { p.idleOut with out0 := other, out1 := ts, op := p.gateNext tok })

def execSteer (f : PeF) (s : State) : Host.Outcome State Fault Refusal :=
  .next (s.runPe f gateForm Pe.steerOut gateLast gateStay)

/-! ### MARK, MERGE, OJOIN (R235 to R237) -/

/-- The marker that MARK pushes. -/
def Pe.raised (p : Pe) (tok : Nat → Token) : Mk :=
  let k := p.imm % 8
  if anyEos p tok then .eos
  else match p.mkb, (tok 0).mark with
    | 0, .eod l => .eod (max k l)
    | 1, .none => .none
    | _, _ => .eod k

def Pe.markOut (p : Pe) (tok : Nat → Token) : FireOut :=
  p.moved { p.idleOut with out0 := tokensOf p.ty (p.valid tok [0]) (p.poison tok [0]) (tok 0).lane (p.raised tok) }

def execMark (f : PeF) (s : State) : Host.Outcome State Fault Refusal := s.runLanes f [] none Pe.markOut

/-- The slot that MERGE turns to: the one it keeps to under ACT, else the favoured one where that has a token or digits to be
framed into one (R243), else the other. -/
def Pe.mergeSlot (p : Pe) : Option Nat :=
  let has := fun i => (p.head { used := [i] } i).isSome || (p.frame i).isSome
  let fav := if p.mod = 0 then 0 else 1
  (match (if p.act then p.t.op.chosen else none) with | some i => [i] | none => [fav, 1 - fav]).find? has

def mergeForm (p : Pe) : PeForm := { used := p.mergeSlot.toList, perLane := true }

/-- The slot that this firing took from. -/
def Pe.merged (p : Pe) : Nat := p.mergeSlot.getD 0

def Pe.mergeOut (p : Pe) (tok : Nat → Token) : FireOut :=
  let i := p.merged
  let t := tok i
  let first := t.mark == Mk.eos && p.t.op.closed.isNone
  let m := if first then .eod 7 else t.mark
  let m := if p.mkb = mkStrip && m != .eos then .none else m
  let o := { p.t.op with chosen := if p.act && !t.mark.any then some i else none,
                         closed := if t.mark = .eos then some i else p.t.op.closed }
  p.moved { p.idleOut with out0 := tokensOf p.ty t.valid (t.pmask &&& t.valid) t.lane m, op := o }

def execMerge (f : PeF) (s : State) : Host.Outcome State Fault Refusal :=
  .next (s.runPe f mergeForm Pe.mergeOut
    (fun p tok => (tok p.merged).mark == Mk.eos && p.t.op.closed.isSome) (fun _ => true))

/-- OJOIN: one order token for one token of each slot. -/
def Pe.ojoinOut (p : Pe) (tok : Nat → Token) : FireOut := { p.idleOut with out0 := [orderToken (p.mark tok)] }

def execOjoin (f : PeF) (s : State) : Host.Outcome State Fault Refusal := s.runWord f [0, 1, 2] none Pe.ojoinOut

end Sys2Proof.Machine
end

