-- ==== Sys2Proof/Machine/PeDigit.lean ====
section
/-! DEFINITION. Digit-mode processing elements (chapter 12): items and firing (R240 to R244), the online operations, the
comparators, DRACE and DACC, and the propagation of kills (R106 to R109). -/

namespace Sys2Proof.Machine

/-! ### Numbers and items (R241, R242, R244) -/

/-- The precision L, and the DIGITS tokens of a number (R96). -/
def Pe.prec (p : Pe) : Nat := p.ty + 1
def Pe.count (p : Pe) : Nat := (p.prec + 3) / 4

/-- The numbers that a word token makes, element 0 first (R242). -/
def Pe.wordNums (p : Pe) (t : Token) : List NumBuf :=
  let n := tagCount t.tag
  (List.range n).map (fun j =>
    { valid := t.valid, pmask := t.pmask, fin := true, wordFed := true, mark := if j + 1 = n then t.mark else .none,
      cnsW := if j + 1 = n then b2n t.cns else 0,
      lanes := (List.range 16).map (fun i =>
        ((tagKind t.tag).value (elem t.tag (t.lane i) j) p.pol.subin).toNum p.prec) })

/-- The items of a slot. -/
def Pe.items (p : Pe) (i : Nat) : List DItem := p.t.op.items.get i []

/-- The number at the head of a slot. -/
def Pe.num (p : Pe) (i : Nat) : Option NumBuf := match (p.items i).head? with | some (.num n) => some n | _ => none

/-- The token at the head of a slot's link; a firing that pushes counts out what it pops itself (R110). -/
def Pe.peek (p : Pe) (i : Nat) : Option Token :=
  (p.t.lk.peekSlot i p.g.cfg).map (fun t => { t with cns := t.cns && !p.pushes })

/-- The slot's head is a lone marker: an item already taken, or a MARKER token where no number is open. -/
def Pe.loneMark (p : Pe) (i : Nat) : Option Mk :=
  match (p.items i).head? with
  | some (.mark m) => some m
  | some (.num _) => none
  | none => match p.peek i with | some t => if t.isMarker then some t.mark else none | none => none

/-- What a slot brings to a firing: whether it pops a token, its items after that, and NV for an invalid digit.  `none`:
it owes a token and holds none. -/
def Pe.intake (p : Pe) (i : Nat) : Option (Bool × List DItem × Nat) :=
  match p.items i with
  | .num n :: rest =>
    if n.fin then some (false, p.items i, 0)
    else
      match p.peek i with
      | none => none
      | some t =>
        if t.isDigits then
          let m := n.add t p.prec
          some (true, .num { m with fin := t.mark.any || p.count ≤ m.toks, mark := t.mark } :: rest, n.nowBad m)
        else some (false, .num { n with fin := true } :: rest, 0)
  | .mark m :: rest => some (false, .mark m :: rest, 0)
  | [] =>
    match p.peek i with
    | none => none
    | some t =>
      if t.isHdr then some (true, [.num (NumBuf.start t (unitAt (p.t.lk.units.get (16 + i) 0) t.nseq))], 0)
      else if t.isMarker || t.isDigits then none
      else some (true, (p.wordNums t).map DItem.num, 0)

/-! ### Results of lanes -/

/-- A lane's result once it is decided: a special code, a number of its own with exponent `e` whose digits run with the
extra delay `lam`, an operand unchanged, or no lane at all (DCMPK). -/
inductive LaneRes where
  | code (c : Nat)
  | num (e lam : Nat)
  | pick (slot : Nat)
  | off
  deriving DecidableEq, Repr

/-- A decision: the result, the slots whose lane it kills, and the flags. -/
structure LaneDec where
  res : LaneRes
  kills : List Nat := []
  flags : Nat := 0

/-- A digit operation of one output number per number of each slot: its data slots, the starred one, when a lane is
decided, and the first `n` digits of a number of its own with extra delay `lam`, once they are available. -/
structure DigOp where
  data : List Nat
  star : Option Nat := none
  /-- The delay δ with which DIGITS tokens follow the inputs' (R146, R249); none for the comparators and DNORM. -/
  delay : Option Nat := none
  /-- DCMPK: output 1 carries the conditions. -/
  conds : Bool := false
  dec : Pe → (Nat → Part) → Option LaneDec
  dig : Pe → (Nat → Part) → Nat → Nat → Option (List Int) := fun _ _ _ _ => none

/-- The number of a starred slot (R244): element 0 of the operand of R154. -/
def Pe.starNum (p : Pe) : NumBuf := (p.wordNums p.immTok).headD {}

/-- What is known of lane `k` of slot `i`. -/
def Pe.part (p : Pe) (d : DigOp) (k i : Nat) : Part :=
  let n := if p.en i then (p.num i).getD {} else if d.star = some i then p.starNum else {}
  { u := n.lanes.getD k {}, fin := n.fin }

/-- The enabled data slots. -/
def Pe.dataSlots (p : Pe) (d : DigOp) : List Nat := d.data.filter p.en

/-- The predicate of the number at hand, lane `i`. -/
def Pe.numPred (p : Pe) (i : Nat) : Bool := p.pred (fun _ => p.t.op.pred.getD {}) i

/-- Lanes of the output number (R105), and those that leave poisoned (R104, R464). -/
def Pe.numValid (p : Pe) (ss : List Nat) : BitVec 16 :=
  maskOf (fun i => ss.all (fun k => ((p.num k).getD {}).valid.getLsbD i) && p.numPred i)
def Pe.numPoison (p : Pe) (ss : List Nat) : BitVec 16 :=
  maskOf (fun i => ss.all (fun k => ((p.num k).getD {}).valid.getLsbD i) &&
    ((p.numPred i && ss.any (fun k => ((p.num k).getD {}).pmask.getLsbD i)) ||
      p.predBad (fun _ => p.t.op.pred.getD {}) i))

/-- A kept decision as it stands in the state; of a code, the nine bits that its header carries. -/
def LaneRes.pickCode : LaneRes → Nat
  | .pick i => i
  | .off => 8
  | .code c => 16 + c % 512
  | .num e lam => 1024 * (e + 1) + lam
def LaneRes.ofPick (n : Nat) : LaneRes :=
  if n < 8 then .pick n else if n < 16 then .off else if n < 1024 then .code (n - 16) else .num (n / 1024 - 1) (n % 1024)

/-- A lane's decision, kept or made now. -/
def Pe.laneDec (p : Pe) (d : DigOp) (k : Nat) : Option LaneDec :=
  match p.t.op.picks.find k with
  | some n => some { res := LaneRes.ofPick n }
  | none => d.dec p (p.part d k)

/-- The header bits of a result (R95). -/
def Pe.headBits (p : Pe) (d : DigOp) (k : Nat) : LaneRes → Nat
  | .code c => (DNum.code c).header
  | .num e _ => e
  | .pick i => (p.part d k i).u.header
  | .off => 0

/-- The first `n` digits of a result, once they are available. -/
def Pe.laneDigs (p : Pe) (d : DigOp) (k n : Nat) : LaneRes → Option (List Int)
  | .code _ => some []
  | .off => some []
  | .num _ lam => d.dig p (p.part d k) lam n
  | .pick i =>
    let q := p.part d k i
    if q.u.spec then some [] else if q.known p.prec n then some (q.u.take n) else none

/-- DIGITS token `j` of a lane: digits 4j + 1 to 4j + 4, those beyond L as 000. -/
def digitBits (ds : List Int) (L j : Nat) : Nat :=
  ((List.range 4).map (fun i => if 4 * j + i < L then digitCode (ds.getD (4 * j + i) 0) <<< (3 * i) else 0)).sum

/-! ### One output number -/

/-- The marker of the number at hand: the strongest of its numbers' and P's, by MKB. -/
def Pe.numMark (p : Pe) (ss : List Nat) : Mk :=
  (strongest (ss.map (fun i => ((p.num i).getD {}).mark) ++ [(p.t.op.pred.getD {}).mark])).kept p.mkb

/-- The state once the number at hand is done with: every slot's head is consumed; all of it is cleared after EOS. -/
def Pe.numDone (p : Pe) (ss : List Nat) : OpSt :=
  let eos := ss.any (fun i => ((p.num i).getD {}).mark == Mk.eos) || (p.t.op.pred.getD {}).mark == Mk.eos
  if eos then {}
  else
    { p.t.op with items := ss.foldl (fun t i =>
                    let r := (t.get i []).drop 1; if r.isEmpty then Tab.del t i else t.put i r) p.t.op.items,
                  hdrSent := false, sent := 0, pred := none, idTok := none, picks := [], marked := false, decided := 0 }

/-- Decisions made by this firing, which stand from then on (R146, R250): the state that keeps them, their flags, and the
kills on slots that carry digits (R250, R252). -/
def Pe.decideNow (p : Pe) (d : DigOp) (live : BitVec 16) : OpSt × Nat × List (Nat × Nat × BitVec 16) :=
  let new := (List.range 16).filterMap (fun k =>
    if live.getLsbD k && (p.t.op.picks.find k).isNone then (p.laneDec d k).map (fun r => (k, r)) else none)
  let killed := p.outKilled
  let lanes := fun i => maskOf (fun k => new.any (fun e => e.1 == k &&
    (e.2.kills.contains i || (d.conds && i == 0 && killed.getLsbD k))))
  ({ p.t.op with picks := new.foldl (fun t e => t.put e.1 e.2.res.pickCode) p.t.op.picks },
   new.foldl (fun a e => a ||| e.2.flags) 0,
   (p.dataSlots d).filterMap (fun i => (p.t.op.headUnit i).bind (fun u => if lanes i = 0 then none else some (i, u, lanes i))))

/-- What the firing pushes of the number at hand: its header once every live lane is decided, then DIGITS tokens one at
a time; the last waits for the ends of the input numbers, whose marker it carries (R146, R241). -/
def Pe.numPush (p : Pe) (d : DigOp) : FireOut :=
  let ss := p.dataSlots d
  let v := p.numValid ss
  let pz := p.numPoison ss
  let live := v &&& (if d.conds then 0xFFFF else ~~~p.outKilled)
  let (op, fl, kills) := p.decideNow d live
  let p : Pe := { p with t := { p.t with op := op } }
  let res := (List.range 16).map (fun k => if live.getLsbD k then p.laneDec d k else none)
  let lane := fun k => res.getD k none
  let base : FireOut := { p.idleOut with op := op, kills := kills, flags := fl, keep := true }
  let fin := ss.all (fun i => ((p.num i).getD {}).fin)
  let here := v &&& ~~~(maskOf (fun k => match lane k with | some r => r.res == .off | none => false))
  if !op.hdrSent then
    if (List.range 16).all (fun k => !live.getLsbD k || (lane k).isSome) then
      let hdr := tokensOf tagDhdr here pz (fun k => match lane k with | some r => p.headBits d k r.res | none => 0) .none
      let m := if fin then p.numMark ss else .none
      { base with out0 := hdr, op := { op with hdrSent := true, marked := m.any, decided := here ||| pz },
                  out1 := if d.conds then
                      tokensOf tagRaw v pz (fun k => match lane k with
                        | some r => if r.res == .off then 0 else 2 ^ 32 - 1
                        | none => 0) m
                    else [] }
    else base
  else
    let j := op.sent
    let last := j + 1 = p.count
    let ds := (List.range 16).map (fun k => match lane k with | some r => p.laneDigs d k (min (4 * j + 4) p.prec) r.res | none => some [])
    -- the inputs have come far enough, or have ended (R146)
    let lam := (List.range 16).foldl (fun a k => match lane k with | some ⟨.num _ l, _, _⟩ => max a l | _ => a) 0
    let due := match d.delay with
      | none => true
      | some w => ss.all (fun i => let n := (p.num i).getD {}; n.fin || decide (4 * j + 4 + w + lam ≤ 4 * n.toks))
    if ds.all Option.isSome && due && (!last || fin) then
      let m := if last then p.numMark ss else .none
      let toks := tokensOf tagDigits (here &&& op.decided) (pz &&& op.decided) (fun k => digitBits ((ds.getD k none).getD []) p.prec j) m
      if last then
        { base with out0 := toks, unitUp := true, op := p.numDone ss,
                    -- the marker of a number whose end came after its header follows on output 1 (R103)
                    out1 := if d.conds && m.any && !op.marked then [markerToken m] else [] }
      else { base with out0 := toks, op := { op with sent := j + 1 } }
    else base

/-! ### Firing (R241, R463) -/

/-- The slots that supply one token for each number: P, and DRACE's B. -/
def Pe.extras (p : Pe) (race : Bool) : List Nat := (if race && p.en 1 then [1] else []) ++ (if p.en 3 then [3] else [])

/-- The number at hand has begun: every data slot's head is a number, and the extra tokens have been popped. -/
def Pe.begun (p : Pe) (ss : List Nat) (race : Bool) : Bool :=
  ss.all (fun i => (p.num i).isSome) && (!p.en 3 || p.t.op.pred.isSome) && (!race || p.t.op.idTok.isSome)

/-- A firing takes what its slots bring, and the extra tokens `ex` of a number that begins: the slots popped, and what `work` does. -/
def Pe.take (p : Pe) (ss ex : List Nat) (work : Pe → FireOut) : List Nat × FireOut :=
  let ins := ss.map (fun i => (i, p.intake i))
  let pops := (ins.filter (fun e => match e.2 with | some (b, _, _) => b | none => false)).map Prod.fst ++ ex
  let items := ins.foldl (fun t e => match e.2 with | some (_, l, _) => Tab.put t e.1 l | none => t) p.t.op.items
  let fl := ins.foldl (fun a e => match e.2 with | some (_, _, g) => a ||| g | none => a) 0
  let op := { p.t.op with items := items,
                          pred := if ex.contains 3 then p.peek 3 else p.t.op.pred,
                          idTok := if ex.contains 1 then p.peek 1 else p.t.op.idTok }
  let out := work { p with t := { p.t with op := op } }
  (pops, { out with flags := out.flags ||| fl })

/-- One turn of a digit-mode PE with data slots `ss`.  `work` is what a firing does once its tokens are popped, `lone`
what it does with a lone marker. -/
def State.runDigit (s : State) (f : PeF) (data : List Nat) (race : Bool) (work : Pe → FireOut) (lone : Pe → Mk → FireOut) :
    State :=
  let c := s.here
  let x := s.actor.unit % 256
  if !(s.cl c).mayFire x then s
  else
    let p := s.peOf c x f
    let ss := data.filter p.en
    let extras := p.extras race
    let begun := p.begun ss race
    let fire := fun (pops : List Nat) (out : FireOut) =>
      if (pops.isEmpty && out.out0.isEmpty && out.out1.isEmpty && out.op == p.t.op) ||
         !(out.out0.isEmpty || p.t.lk.outRoom 0) || !(out.out1.isEmpty || p.t.lk.outRoom 1) then s
      else s.applyFire c x 2 true { out with pops := pops }
    if p.t.op.closing.isSome then fire [] (work p)
    else if !begun && p.slots.any p.t.ended then
      -- what is left of other streams is discarded
      s.discard c x (p.slots.filter (fun i => !p.t.ended i)) {}
    else
      match ss.filter (fun i => (p.items i).isEmpty && (match p.peek i with | some t => t.isDigits | none => false)) with
      | i :: _ => s.discard c x [i] p.t.op
      | [] =>
        let heads := ss.map (fun i => (i, p.loneMark i))
        let marks := heads.filter (fun e => e.2.isSome)
        if !begun && !marks.isEmpty then
          if ss.all (fun i => !(p.items i).isEmpty || (p.peek i).isSome) then
            let pops := (marks.map Prod.fst).filter (fun i => (p.items i).isEmpty)
            let items := marks.foldl (fun t e =>
              let r := (Tab.get t e.1 []).drop 1; if r.isEmpty then Tab.del t e.1 else Tab.put t e.1 r) p.t.op.items
            let m := strongest (marks.map (fun e => e.2.getD .none))
            fire pops (lone { p with t := { p.t with op := { p.t.op with items := items } } } m)
          else s
        else
          let ex := if begun then [] else extras
          if ss.any (fun i => (p.intake i).isNone) || ex.any (fun i => (p.peek i).isNone) then s
          else
            let (pops, out) := p.take ss ex work
            if out.out0.isEmpty && out.out1.isEmpty then fire pops out
            else let (pops, out) := { p with pushes := true }.take ss ex work; fire pops out

/-- A lone marker passes as a MARKER token on every output; EOS clears the state. -/
def Pe.passMark (p : Pe) (both : Bool) (m : Mk) : FireOut :=
  let k := m.kept p.mkb
  let ts := if k.any then [markerToken k] else []
  { p.idleOut with out0 := ts, out1 := if both then ts else [], op := if m = .eos then {} else p.t.op }

/-- An operation of one output number for each number of every slot. -/
def State.runNum (s : State) (f : PeF) (d : DigOp) : Host.Outcome State Fault Refusal :=
  .next (s.runDigit f d.data false (fun p => p.numPush d) (fun p m => p.passMark d.conds m))

/-! ### Online operations (R246) -/

/-- An invalid digit lies among the first `n` of an operand (R133). -/
def Part.badIn (p : Part) (n : Nat) : Bool := (p.u.digits.take n).contains 4

/-- The digits of an online result, once digits up to position n + δ + λ have arrived (R146).  From a token on that an
invalid digit of an operand reaches, they are 0: the lane is NaN, and its header has left (R133, R151). -/
def Pe.onlineDig (op : OnOp) (p : Pe) (q : Nat → Part) (lam n : Nat) : Option (List Int) :=
  let need := (n + 3) / 4 * 4 + op.delta + lam
  let used := match op with
    | .add | .sub | .mul | .div => [q 0, q 1]
    | .fma => [q 0, q 1, q 2]
    | _ => [q 0]
  if used.any (fun u => u.badIn need) then some []
  else if used.all (fun u => u.known p.prec need) then some (onlineDigits op p.prec (q 0) (q 1) (q 2) lam n)
  else none

def onlineOp (op : OnOp) (data : List Nat) (star : Option Nat) : DigOp :=
  { data := data, star := star, delay := some op.delta,
    dec := fun p q => match decideHeader op p.prec (q 0) (q 1) (q 2) with
      | .wait => none
      | .code c fl => some { res := .code c, flags := fl }
      | .run e lam => some { res := .num e lam },
    dig := Pe.onlineDig op }

/-- The star of slot B or C, where EN disables it. -/
def starOf (f : PeF) (i : Nat) : Option Nat := if f.en.getLsbD i then none else some i

def execDadd (f : PeF) (s : State) : Host.Outcome State Fault Refusal := s.runNum f (onlineOp .add [0, 1] (starOf f 1))
def execDsub (f : PeF) (s : State) : Host.Outcome State Fault Refusal := s.runNum f (onlineOp .sub [0, 1] (starOf f 1))
def execDmul (f : PeF) (s : State) : Host.Outcome State Fault Refusal := s.runNum f (onlineOp .mul [0, 1] (starOf f 1))
def execDfma (f : PeF) (s : State) : Host.Outcome State Fault Refusal := s.runNum f (onlineOp .fma [0, 1, 2] (starOf f 2))
def execDdiv (f : PeF) (s : State) : Host.Outcome State Fault Refusal := s.runNum f (onlineOp .div [0, 1] (starOf f 1))
def execDsqrt (f : PeF) (s : State) : Host.Outcome State Fault Refusal := s.runNum f (onlineOp .sqrt [0] none)
def execDrsq (f : PeF) (s : State) : Host.Outcome State Fault Refusal := s.runNum f (onlineOp .rsq [0] none)
def execDexp (f : PeF) (s : State) : Host.Outcome State Fault Refusal := s.runNum f (onlineOp .exp [0] none)
def execDlog (f : PeF) (s : State) : Host.Outcome State Fault Refusal := s.runNum f (onlineOp .log [0] none)

/-! ### DNORM and DSCL (R248, R249) -/

/-- The result of a whole number. -/
def numRes (r : DNum × Nat) : LaneDec := { res := if r.1.spec then .code r.1.e else .num r.1.e 0, flags := r.2 }

def dnormOp : DigOp :=
  { data := [0],
    dec := fun p q => if (q 0).fin then some (numRes (dnorm p.prec (q 0).u)) else none,
    dig := fun p q _ n => some ((dnorm p.prec (q 0).u).1.digits.take n) }

def execDnorm (f : PeF) (s : State) : Host.Outcome State Fault Refusal := s.runNum f dnormOp

/-- DSCL's header. -/
def dsclRes (imm : Nat) (u : DNum) : LaneDec :=
  if u.spec then { res := .code u.e }
  else
    let e : Int := (u.e : Int) + signed imm 5
    if 511 < e then { res := .code 3, flags := fOf }
    else if e < 0 then { res := .code 0, flags := fUf }
    else { res := .num e.toNat 0 }

def dsclOp : DigOp :=
  { data := [0], delay := some 0,
    dec := fun p q => some (dsclRes p.imm (q 0).u),
    dig := fun p q _ n => if (q 0).known p.prec n then some ((q 0).u.take n) else none }

def execDscl (f : PeF) (s : State) : Host.Outcome State Fault Refusal := s.runNum f dsclOp

/-! ### Comparators (R250 to R254) -/

def dmaxOp (star : Option Nat) : DigOp :=
  { data := [0, 1], star := star,
    dec := fun p q =>
      if (q 0).u.isNan || (q 1).u.isNan then some { res := .code 3, kills := [0, 1] }
      else (dcmp p.prec (q 0) (q 1)).map (fun (r : Int) =>
        let w : Nat := if p.mod = 0 then (if r = -1 then 1 else 0) else (if r = 1 then 1 else 0)
        { res := .pick w, kills := if r = 0 then [] else [1 - w] }) }

def execDmax (f : PeF) (s : State) : Host.Outcome State Fault Refusal := s.runNum f (dmaxOp (starOf f 1))

/-- DCMPK's condition on an order (R159, R252). -/
def dcond (mod : Nat) (r : Int) : Bool :=
  match mod with
  | 0 => r == 0
  | 1 => r != 0
  | 2 => decide (r < 0)
  | 3 => decide (r ≤ 0)
  | 4 => decide (0 < r)
  | _ => decide (0 ≤ r)

def dcmpkOp (star : Option Nat) : DigOp :=
  { data := [0, 1], star := star, conds := true,
    dec := fun p q =>
      let ans := fun (b : Bool) => if b then { res := .pick 0, kills := [1] } else { res := LaneRes.off, kills := [0, 1] : LaneDec }
      if (q 0).u.isNan || (q 1).u.isNan then some (ans (p.mod == 1))
      else (dcmp p.prec (q 0) (q 1)).map (fun r => ans (dcond p.mod r)) }

def execDcmpk (f : PeF) (s : State) : Host.Outcome State Fault Refusal := s.runNum f (dcmpkOp (starOf f 1))

def dreluOp : DigOp :=
  { data := [0],
    dec := fun p q =>
      let u := (q 0).u
      if u.isNan then some { res := .code 3 }
      else if u.spec then some { res := .code (if u.e = 1 then 1 else 0) }
      else ((q 0).sign p.prec).map (fun r =>
        if r = 1 then { res := .pick 0 } else if r = -1 then { res := .code 0, kills := [0] } else { res := .code 0 }) }

def execDrelu (f : PeF) (s : State) : Host.Outcome State Fault Refusal := s.runNum f dreluOp

def dselOp : DigOp :=
  { data := [0, 1, 2],
    dec := fun p q =>
      if (q 2).u.isNan then some { res := .code 3, kills := [0, 1, 2] }
      else ((q 2).sign p.prec).map (fun r =>
        if r = 1 then { res := .pick 0, kills := [2, 1] } else { res := .pick 1, kills := [2, 0] }) }

def execDsel (f : PeF) (s : State) : Host.Outcome State Fault Refusal := s.runNum f dselOp

/-! ### Results of segments and groups (R255, R256) -/

/-- What a segment or group sends once it has ended: a header, then DIGITS tokens with the marker on the last; a second
token on output 1 with the header, if it has one. -/
def Pe.sendResult (p : Pe) (valid pz : BitVec 16) (num : Nat → DNum) (ids : Option (Nat → Nat)) (m : Mk) (after : OpSt) :
    FireOut :=
  let op := p.t.op
  if !op.hdrSent then
    { p.idleOut with out0 := tokensOf tagDhdr valid pz (fun k => (num k).header) .none,
                     out1 := match ids with | some g => tokensOf tagRaw valid pz g m | none => [],
                     op := { op with hdrSent := true } }
  else
    let j := op.sent
    let last := j + 1 = p.count
    let toks := tokensOf tagDigits valid pz (fun k => if (num k).spec then 0 else digitBits (num k).digits p.prec j)
      (if last then m else .none)
    if last then { p.idleOut with out0 := toks, unitUp := true, op := after }
    else { p.idleOut with out0 := toks, op := { op with sent := j + 1 } }

/-- The marker with which A's number ends a segment or group: its own or P's EOS under ACT, R156 otherwise. -/
def Pe.segMark (p : Pe) : Mk :=
  let a := ((p.num 0).getD {}).mark
  let q := (p.t.op.pred.getD {}).mark
  if p.act then (if q = .eos then .eos else a) else (a.stronger q).kept p.mkb

/-- The number at hand ends its segment: always under FOLLOW and STRIP, with its marker under ACT.  So does the number
with which another slot delivers EOS (R463). -/
def Pe.segEnds (p : Pe) : Bool := !p.act || p.segMark.any || (p.t.op.idTok.getD {}).mark == Mk.eos

/-- A number that brings EOS, from any slot. -/
def Pe.segEos (p : Pe) : Bool :=
  ((p.num 0).getD {}).mark == Mk.eos || (p.t.op.pred.getD {}).mark == Mk.eos || (p.t.op.idTok.getD {}).mark == Mk.eos

/-- The operation state with slot A's number consumed. -/
def Pe.dropNum (p : Pe) : OpSt :=
  let r := (p.items 0).drop 1
  { p.t.op with items := if r.isEmpty then p.t.op.items.del 0 else p.t.op.items.put 0 r, pred := none, idTok := none, decided := 0 }

/-! ### DRACE (R255) -/

/-- The counted tokens of the number at hand and of the tokens that came with it. -/
def Pe.headCns (p : Pe) : Nat :=
  ((p.num 0).getD {}).holds 0 + b2n (p.t.op.pred.getD {}).cns + b2n (p.t.op.idTok.getD {}).cns

/-- The lanes in which the candidate takes part: valid in A and B, and true under the predicate. -/
def Pe.raceValid (p : Pe) : BitVec 16 := p.numValid [0] &&& (p.t.op.idTok.getD {}).valid

/-- Candidate against champion in a lane: `some true` the candidate wins. -/
def Pe.raceLane (p : Pe) (k : Nat) : Option Bool :=
  let n := (p.num 0).getD {}
  let a : Part := { u := n.lanes.getD k {}, fin := n.fin }
  match p.t.op.champ.find k with
  | none => some true
  | some c =>
    if c.isNan then some false
    else if a.u.isNan then some true
    else (dcmp p.prec a { u := c, fin := true }).map (fun r => if p.mod = 0 then r == 1 else r == -1)

/-- A firing of DRACE: lanes that lose are killed at once, and a whole number's winners become champions. -/
def Pe.raceOut (p : Pe) : FireOut :=
  let o := p.t.op
  match o.closing with
  | some m =>
    let valid := maskOf (fun k => (o.champ.find k).isSome)
    p.sendResult valid (o.racePoison &&& valid) (fun k => (o.champ.get k {})) (some (fun k => o.ident.get k 0)) m
      (if o.marked then {} else { items := o.items })
  | none =>
    let n := (p.num 0).getD {}
    let v := p.raceValid
    let lost := maskOf (fun k => v.getLsbD k && (o.decided.getLsbD k || p.raceLane k == some false))
    let new := lost &&& ~~~o.decided
    let kills := match o.headUnit 0 with | some u => if new = 0 then [] else [(0, u, new)] | none => []
    let pz := o.racePoison ||| (p.numPoison [0] &&& (o.idTok.getD {}).valid) ||| (v &&& (o.idTok.getD {}).pmask)
    if n.fin then
      let wins := (List.range 16).filter (fun k => v.getLsbD k && !lost.getLsbD k)
      -- what a number without a champion brought is discarded with it (R110)
      let from' := wins.foldl (fun t k => t.put k o.races) o.champFrom
      let cns := if wins.isEmpty then o.champCns else o.champCns.put o.races p.headCns
      let op := { p.dropNum with opened := true, racePoison := pz, races := o.races + 1, champFrom := from',
                                 champCns := cns.filter (fun e => from'.any (fun x => x.2 == e.1)),
                                 champ := wins.foldl (fun t k => t.put k (n.lanes.getD k {})) o.champ,
                                 ident := wins.foldl (fun t k => t.put k ((o.idTok.getD {}).lane k)) o.ident }
      { p.idleOut with kills := kills, keep := true,
                       op := if p.segEnds then { op with closing := some p.segMark, marked := p.segEos, hdrSent := false, sent := 0 }
                             else op }
    else { p.idleOut with kills := kills, keep := true, op := { o with decided := lost, racePoison := pz } }

/-- A lone marker ends an open segment, and otherwise passes. -/
def Pe.segLone (p : Pe) (both : Bool) (m : Mk) : FireOut :=
  if p.t.op.opened then
    { p.idleOut with keep := true, op := { p.t.op with closing := some m, marked := m == Mk.eos, hdrSent := false, sent := 0,
                                                       stash := p.t.op.stash + b2n ((p.peek 0).getD {}).cns } }
  else p.passMark both m

def execDrace (f : PeF) (s : State) : Host.Outcome State Fault Refusal :=
  .next (s.runDigit f [0] true Pe.raceOut (fun p m => p.segLone true m))

/-! ### DACC (R256) -/

/-- One lane takes a number: the accumulator over 4^(-272), the special code (0 for none), and the flag. -/
def accLane (L : Nat) (acc : Int) (sp : Nat) (u : DNum) : Int × Nat × Nat :=
  if u.isNan then (acc, 3, 0)
  else if u.isInf then
    if sp = 3 then (acc, 3, 0) else if sp != 0 && sp != u.e then (acc, 3, fNv) else (acc, u.e, 0)
  else if u.spec then (acc, sp, 0)
  else (acc + preInt (u.take L) * 4 ^ (u.e + 16 - L), sp, 0)

/-- The result of a lane's group: the number and the flag. -/
def accResult (L : Nat) (acc : Int) (sp : Nat) : DNum × Nat :=
  if sp != 0 then (.code sp, 0)
  else if acc = 0 then (.code 0, 0)
  else
    let a := acc.natAbs
    -- the smallest E with a * 4^(-272) < 4^(E - 256), held to 0
    let e := Nat.log2 a / 2 + 1 - 16
    let n := (rint rne false (a * 4 ^ L) (2 * (e + 16)) 0).1
    let (n, e) := if n = 4 ^ L then (4 ^ (L - 1), e + 1) else (n, e)
    if 511 < e then (.code (if acc < 0 then 2 else 1), fOf)
    else if n = 0 then (.code 0, fUf)
    else ({ e := e, digits := (base4 n L).map (fun d => if acc < 0 then -d else d) }, 0)

def Pe.accOut (p : Pe) : FireOut :=
  let o := p.t.op
  let res := fun k => accResult p.prec (o.acc.get k 0) (o.accSpec.get k 0)
  match o.closing with
  | some m =>
    let out := p.sendResult o.accAny o.accPoison (fun k => (res k).1) none m
      (if o.marked then {} else { items := o.items })
    if o.hdrSent then out
    else { out with flags := (List.range 16).foldl (fun a k =>
             if (o.accAny &&& ~~~p.outKilled).getLsbD k then a ||| (res k).2 else a) 0 }
  | none =>
    let n := (p.num 0).getD {}
    if n.fin then
      let v := p.numValid [0]
      let pz := p.numPoison [0]
      let (acc, spec, fl) := (List.range 16).foldl (fun (st : Tab Int × Tab Nat × Nat) k =>
        if (v &&& ~~~p.outKilled).getLsbD k then
          let (a, sp, g) := accLane p.prec (st.1.get k 0) (st.2.1.get k 0) (n.lanes.getD k {})
          (st.1.put k a, st.2.1.put k sp, st.2.2 ||| g)
        else st) (o.acc, o.accSpec, 0)
      let op := { p.dropNum with opened := true, stash := o.stash + p.headCns, acc := acc, accSpec := spec, accAny := o.accAny ||| v, accPoison := o.accPoison ||| pz }
      { p.idleOut with flags := fl, keep := true,
                       op := if p.segEnds then { op with closing := some p.segMark, marked := p.segEos, hdrSent := false, sent := 0 }
                             else op }
    else { p.idleOut with keep := true }

def execDacc (f : PeF) (s : State) : Host.Outcome State Fault Refusal :=
  .next (s.runDigit f [0] false Pe.accOut (fun p m => p.segLone false m))

/-! ### The propagation of kills (R106 to R109, R251, R252, R254) -/

/-- KILL_PROPAGATE: the kill numbered `k` of those under way acts at the holder of its link's sending end.
One for a stream that the holder has yet to adopt waits. -/
def execKillPropagate (k : Nat) (s : State) : Host.Outcome State Fault Refusal :=
  let c := s.here
  let cl := s.cl c
  .next (match cl.wires[k]? with
    | none => s
    | some m =>
      if cl.holderCfg m.unit < m.cfg then s
      else s.setCl c ({ cl with wires := dropIdx cl.wires k }.deliverKill m))

end Sys2Proof.Machine
end

