-- ==== Sys2Proof/Machine/SeqMem.lean ====
section
/-! DEFINITION. The memory instructions of a sequencer: LD, ST and the atomics (R322, R323), with their order and scope
(R286 to R288). -/

namespace Sys2Proof.Machine

/-- Where an access goes once its checks have passed. -/
inductive Target where
  | bank (off : Nat)
  | mem (pa : Nat) (cached : Bool)
  | device (pa : Nat)
  deriving DecidableEq, Repr

/-- The checks of R322 on an address (R404 orders 6 and 7): alignment, the local window, translation.  Traps leave the
state as it was before the instruction, but for what a walk did. -/
def State.target (s : State) (c ctx va n : Nat) (k : AccKind) : Except Trap Target × State :=
  if va % n != 0 then (.error { cause := tMisalign, val := BitVec.ofNat 64 va }, s)
  else if isLocal va then
    match (s.cl c).localRefusal (localOff va) n k with
    | some code => (.error (accessTrap code (Config.freeNat s.free % 4) (BitVec.ofNat 64 va)), s)
    | none => (.ok (.bank (localOff va)), s)
  else
    match s.xlatCl c ctx k va with
    | (.bad code lvl, s) => (.error (accessTrap code lvl (BitVec.ofNat 64 va)), s)
    | (.ok pa mt, s) => (.ok (if mt == 2 then .device pa else .mem pa (mt == 0)), s)

/-- The access must wait: an older copy overlaps it (R69), or its bank is changing its mode (R79). -/
def State.mustWait (s : State) (c ctx va n : Nat) (t : Target) : Bool :=
  let k := s.cl c
  match t with
  | .bank off => k.stalls none 1 ctx off n || k.cutting off n
  | _ => k.stalls none 0 ctx va n

/-- The scope that an annotation has on an access (R281): CL on a local address. -/
def Target.scope (t : Target) (sc : Scope) : Scope :=
  match t with
  | .bank _ => .cl
  | _ => sc

/-- Performs a load: the value, zero-extended. -/
def State.performLoad (s : State) (c ctx va n : Nat) (t : Target) : Nat × State :=
  match t with
  | .bank off =>
    let v := (s.cl c).localLoad off n
    if v.2 then (0, s.seqPoison c ctx 0 va) else (v.1, s)
  | .device pa => let s := s.drainAll c; (if n = 8 then (s.deviceRead pa).toNat else 0, s)
  | .mem pa cached => s.loadMem c ctx va n pa cached

/-- What precedes an access with an SC annotation, and a release (R287). -/
def State.before (s : State) (c : Nat) (o : Order) (sc : Scope) : State :=
  match o with
  | .sc => (s.releaseAt c sc).freshAt c sc
  | _ => s

/-- What follows an access with ACQ or SC. -/
def State.after (s : State) (c : Nat) (o : Order) : State :=
  match o with
  | .acq => s.acquire (agentSeq c)
  | .sc => s.acquire (agentSeq c)
  | _ => s

/-- An access that passed its checks, or the reason it stops: a wait, or a ring overflow. -/
def State.ready (s s1 : State) (c ctx va n : Nat) (t : Target) (d : Option Reg) : Except Stop Unit :=
  if s1.mustWait c ctx va n t then .error .wait
  else match d with
    | some d => if s.dstOk c d then .ok () else .error (.trap (s.ringOf c) s1)
    | none => .ok ()

/-- LD (R322). -/
def execLd (d a : Reg) (off : BitVec 8) (z : Size) (o : Order) (sc : Scope) (s : State) : Host.Outcome State Fault Refusal :=
  let c := s.here
  let ctx := (s.sq c).running.ctx
  let n := sizeBytes z
  .next (s.settle c (do
    let (vs, s') ← s.readSrcs c (Instr.ld d a off z o sc).word [a] (some d)
    let va := (mAddr (vs.getD 0 0) off z).toNat
    match s.target c ctx va n .read with
    | (.error t, s1) => .error (.trap t s1)
    | (.ok t, s1) =>
      s.ready s1 c ctx va n t (some d)
      let s2 := (s'.target c ctx va n .read).2
      let r := (s2.before c o (t.scope sc)).performLoad c ctx va n t
      .ok (((r.2.after c o).writeDst c d (BitVec.ofNat 64 r.1)).advance c)))

/-- Performs a store, or puts it into the store buffer (R286, R287). -/
def State.performSt (s : State) (c ctx n v : Nat) (t : Target) (o : Order) (sc : Scope) : State :=
  match t with
  | .bank off =>
    let s := if o = .rel then s.releaseAt c sc else s.drainRel c
    s.setCl c ((s.cl c).localStore off n v)
  | .device pa =>
    let s := if o = .rel then s.releaseAt c sc else s.drainAll c
    if n = 8 then s.deviceWrite (.seq c ctx) pa (BitVec.ofNat 64 v) else s.deviceOdd pa
  | .mem pa _ =>
    let e : StoreEnt := { pa := pa, size := n, data := v % 2 ^ (8 * n),
                          rel := match o with | .rel => some sc | .sc => some sc | _ => none }
    let s := s.setSq c { s.sq c with sbuf := (s.sq c).sbuf ++ [e] }
    if o = .sc then (s.drainAll c).markSc (agentSeq c) (pa / 128) else s

/-- ST (R322): ACQ on a store acts as RLX. -/
def execSt (d a : Reg) (off : BitVec 8) (z : Size) (o : Order) (sc : Scope) (s : State) : Host.Outcome State Fault Refusal :=
  let c := s.here
  let ctx := (s.sq c).running.ctx
  let n := sizeBytes z
  .next (s.settle c (do
    let (vs, s') ← s.readSrcs c (Instr.st d a off z o sc).word [a, d] none
    let va := (mAddr (vs.getD 0 0) off z).toNat
    match s.target c ctx va n .write with
    | (.error t, s1) => .error (.trap t s1)
    | (.ok t, s1) =>
      s.ready s1 c ctx va n t none
      let s2 := (s'.target c ctx va n .write).2
      let s3 := (s2.before c o (t.scope sc)).performSt c ctx n (vs.getD 1 0).toNat t o (t.scope sc)
      .ok ((if o = .sc then s3.after c o else s3).advance c)))

/-! ### Atomics (R323) -/

/-- What precedes the store part of an atomic (R287): for REL and SC every earlier access at the scope, else the releases
in the store buffer. -/
def State.beforeAmo (s : State) (c : Nat) (o : Order) (sc : Scope) : State :=
  match o with
  | .rel => s.releaseAt c sc
  | .sc => s.releaseAt c sc
  | _ => s.drainRel c

/-- Performs an atomic at the word's home, or at its bank: the old value.  One that writes nothing is a load with the same
annotation, so its release orders nothing but earlier SC accesses (R287). -/
def State.performAmo (s : State) (c ctx va n : Nat) (f : AmoFn) (op cmp : Nat) (t : Target) (o : Order) (sc : Scope) :
    Nat × State :=
  match t with
  | .bank off =>
    let v := (s.cl c).localLoad off n
    if v.2 then (0, s.seqPoison c ctx 0 va)
    else match f n v.1 op cmp with
      | none => (v.1, s)
      | some w =>
        let s := s.beforeAmo c o sc
        (v.1, s.setCl c ((s.cl c).localStore off n w))
  | .device _ => (0, s)
  | .mem pa _ =>
    let r := s.amoHome c ctx va pa n f op cmp (fun s => s.beforeAmo c o sc)
    if o = .sc then (r.1, r.2.markSc (agentSeq c) (pa / 128)) else r

/-- An atomic: sources a and b, and for AMOCAS also d, in field order. -/
def runAmo (i : Instr) (d a : Reg) (srcs : List Reg) (wide : Bool) (o : Order) (sc : Scope) (f : AmoFn) (s : State) :
    Host.Outcome State Fault Refusal :=
  let c := s.here
  let ctx := (s.sq c).running.ctx
  let n := amoBytes wide
  .next (s.settle c (do
    let (vs, s') ← s.readSrcs c i.word (a :: srcs) (some d)
    let va := (vs.getD 0 0).toNat
    match s.target c ctx va n .atomic with
    | (.error t, s1) => .error (.trap t s1)
    | (.ok t, s1) =>
      s.ready s1 c ctx va n t (some d)
      let s2 := (s'.target c ctx va n .atomic).2
      let s3 := if o = .sc then (s2.deliverSc (agentSeq c) (dieOf c) (t.scope sc)).freshAt c (t.scope sc) else s2
      let r := s3.performAmo c ctx va n f ((vs.getD 1 0).toNat % 2 ^ (8 * n)) ((vs.getD 2 0).toNat % 2 ^ (8 * n))
        t o (t.scope sc)
      .ok (((r.2.after c o).writeDst c d (BitVec.ofNat 64 r.1)).advance c)))

def execAmoswp (d a b : Reg) (wide : Bool) (o : Order) (sc : Scope) (s : State) : Host.Outcome State Fault Refusal :=
  runAmo (.amoswp d a b wide o sc) d a [b] wide o sc amoSwpFn s
def execAmoadd (d a b : Reg) (wide : Bool) (o : Order) (sc : Scope) (s : State) : Host.Outcome State Fault Refusal :=
  runAmo (.amoadd d a b wide o sc) d a [b] wide o sc amoAddFn s
def execAmocas (d a b : Reg) (wide : Bool) (o : Order) (sc : Scope) (s : State) : Host.Outcome State Fault Refusal :=
  runAmo (.amocas d a b wide o sc) d a [b, d] wide o sc amoCasFn s
def execAmomin (d a b : Reg) (wide : Bool) (o : Order) (sc : Scope) (s : State) : Host.Outcome State Fault Refusal :=
  runAmo (.amomin d a b wide o sc) d a [b] wide o sc amoMinFn s
def execAmomax (d a b : Reg) (wide : Bool) (o : Order) (sc : Scope) (s : State) : Host.Outcome State Fault Refusal :=
  runAmo (.amomax d a b wide o sc) d a [b] wide o sc amoMaxFn s
def execAmoand (d a b : Reg) (wide : Bool) (o : Order) (sc : Scope) (s : State) : Host.Outcome State Fault Refusal :=
  runAmo (.amoand d a b wide o sc) d a [b] wide o sc amoAndFn s
def execAmoor (d a b : Reg) (wide : Bool) (o : Order) (sc : Scope) (s : State) : Host.Outcome State Fault Refusal :=
  runAmo (.amoor d a b wide o sc) d a [b] wide o sc amoOrFn s
def execAmoxor (d a b : Reg) (wide : Bool) (o : Order) (sc : Scope) (s : State) : Host.Outcome State Fault Refusal :=
  runAmo (.amoxor d a b wide o sc) d a [b] wide o sc amoXorFn s

/-! ### Loads and atomics that are performed later (R286) -/

/-- A sequencer issues the access at its pc without performing it: one of memory by registers that name no ring, none of
them awaited by a pending access, to bytes that none of those has. -/
def State.issue (s : State) (c : Nat) (k : AccKind) (d : Reg) (srcs : List Reg) (va n : Nat)
    (amo : Option (AmoKind × Nat × Nat)) : Option State :=
  let q := s.sq c
  if (d :: srcs).any (fun r => r == 60 || r == 61 || q.loads.any (fun e => e.d == r)) then none
  else
    match s.target c q.running.ctx va n k with
    | (.ok (.mem pa cached), s1) =>
      if s1.mustWait c q.running.ctx va n (.mem pa cached) ||
          q.loads.any (fun e => decide (e.pa < pa + n) && decide (pa < e.pa + e.size)) then none
      else
        let e : LoadEnt := { d := d, pa := pa, size := n, cached := cached, ctx := q.running.ctx, va := va, amo := amo }
        some ((s1.setSq c { s1.sq c with loads := (s1.sq c).loads ++ [e] }).advance c)
    | _ => none

/-- An RLX atomic is issued so once every earlier load has returned: later loads may pass it (R286). -/
def State.issueAmo (s : State) (c : Nat) (k : AmoKind) (d a : Reg) (srcs : List Reg) (wide : Bool) (o : Order) : Option State :=
  let s := s.settleLoads c
  let q := s.sq c
  let vs := srcs.map (fun r => (q.reg r).toNat % 2 ^ (8 * amoBytes wide))
  if o == .rlx then s.issue c .atomic d (a :: srcs) (q.reg a).toNat (amoBytes wide) (some (k, vs.getD 0 0, vs.getD 1 0)) else none

/-- What a sequencer may issue without performing it: loads that order nothing, and RLX atomics.  Anything else waits for
its turn. -/
def State.issueLoad (s : State) (c : Nat) (i : Instr) : Option State :=
  match i with
  | .ld d a off z o _ =>
    if o == .acq || o == .sc || d == 0 then none
    else s.issue c .read d [a] (mAddr ((s.sq c).reg a) off z).toNat (sizeBytes z) none
  | .amoswp d a b wide o _ => s.issueAmo c .swp d a [b] wide o
  | .amoadd d a b wide o _ => s.issueAmo c .add d a [b] wide o
  | .amocas d a b wide o _ => s.issueAmo c .cas d a [b, d] wide o
  | .amomin d a b wide o _ => s.issueAmo c .min d a [b] wide o
  | .amomax d a b wide o _ => s.issueAmo c .max d a [b] wide o
  | .amoand d a b wide o _ => s.issueAmo c .and d a [b] wide o
  | .amoor d a b wide o _ => s.issueAmo c .or d a [b] wide o
  | .amoxor d a b wide o _ => s.issueAmo c .xor d a [b] wide o
  | _ => none

end Sys2Proof.Machine
end

