-- ==== Sys2Proof/Machine/Dispatch.lean ====
section
/-! DEFINITION. The dispatcher: one arm per constructor, each a direct call of the instruction's meaning. -/

namespace Sys2Proof.Machine

def exec (i : Instr) (s : State) : Host.Outcome State Fault Refusal :=
  match i with
  | .add d a b => Sys2Proof.Machine.execAdd d a b s
  | .sub d a b => Sys2Proof.Machine.execSub d a b s
  | .and d a b => Sys2Proof.Machine.execAnd d a b s
  | .or d a b => Sys2Proof.Machine.execOr d a b s
  | .xor d a b => Sys2Proof.Machine.execXor d a b s
  | .shl d a b => Sys2Proof.Machine.execShl d a b s
  | .shr d a b => Sys2Proof.Machine.execShr d a b s
  | .sha d a b => Sys2Proof.Machine.execSha d a b s
  | .mul d a b => Sys2Proof.Machine.execMul d a b s
  | .mulh d a b => Sys2Proof.Machine.execMulh d a b s
  | .div d a b => Sys2Proof.Machine.execDiv d a b s
  | .divu d a b => Sys2Proof.Machine.execDivu d a b s
  | .rem d a b => Sys2Proof.Machine.execRem d a b s
  | .min d a b => Sys2Proof.Machine.execMin d a b s
  | .max d a b => Sys2Proof.Machine.execMax d a b s
  | .minu d a b => Sys2Proof.Machine.execMinu d a b s
  | .maxu d a b => Sys2Proof.Machine.execMaxu d a b s
  | .slt d a b => Sys2Proof.Machine.execSlt d a b s
  | .sltu d a b => Sys2Proof.Machine.execSltu d a b s
  | .ceq d a b => Sys2Proof.Machine.execCeq d a b s
  | .clz d a => Sys2Proof.Machine.execClz d a s
  | .popc d a => Sys2Proof.Machine.execPopc d a s
  | .addi d a imm => Sys2Proof.Machine.execAddi d a imm s
  | .andi d a imm => Sys2Proof.Machine.execAndi d a imm s
  | .ori d a imm => Sys2Proof.Machine.execOri d a imm s
  | .xori d a imm => Sys2Proof.Machine.execXori d a imm s
  | .shli d a n => Sys2Proof.Machine.execShli d a n s
  | .shri d a n => Sys2Proof.Machine.execShri d a n s
  | .shai d a n => Sys2Proof.Machine.execShai d a n s
  | .slti d a imm => Sys2Proof.Machine.execSlti d a imm s
  | .lui d imm => Sys2Proof.Machine.execLui d imm s
  | .addpc d imm => Sys2Proof.Machine.execAddpc d imm s
  | .beq a b off => Sys2Proof.Machine.execBeq a b off s
  | .bne a b off => Sys2Proof.Machine.execBne a b off s
  | .blt a b off => Sys2Proof.Machine.execBlt a b off s
  | .bge a b off => Sys2Proof.Machine.execBge a b off s
  | .bltu a b off => Sys2Proof.Machine.execBltu a b off s
  | .bgeu a b off => Sys2Proof.Machine.execBgeu a b off s
  | .jal off => Sys2Proof.Machine.execJal off s
  | .jalr d a imm => Sys2Proof.Machine.execJalr d a imm s
  | .ld d a off z o c => Sys2Proof.Machine.execLd d a off z o c s
  | .st d a off z o c => Sys2Proof.Machine.execSt d a off z o c s
  | .amoswp d a b wide o c => Sys2Proof.Machine.execAmoswp d a b wide o c s
  | .amoadd d a b wide o c => Sys2Proof.Machine.execAmoadd d a b wide o c s
  | .amocas d a b wide o c => Sys2Proof.Machine.execAmocas d a b wide o c s
  | .amomin d a b wide o c => Sys2Proof.Machine.execAmomin d a b wide o c s
  | .amomax d a b wide o c => Sys2Proof.Machine.execAmomax d a b wide o c s
  | .amoand d a b wide o c => Sys2Proof.Machine.execAmoand d a b wide o c s
  | .amoor d a b wide o c => Sys2Proof.Machine.execAmoor d a b wide o c s
  | .amoxor d a b wide o c => Sys2Proof.Machine.execAmoxor d a b wide o c s
  | .fence o c => Sys2Proof.Machine.execFence o c s
  | .cflush a => Sys2Proof.Machine.execCflush a s
  | .cinval a => Sys2Proof.Machine.execCinval a s
  | .qfence d a => Sys2Proof.Machine.execQfence d a s
  | .tend => Sys2Proof.Machine.execTend s
  | .yield => Sys2Proof.Machine.execYield s
  | .eret => Sys2Proof.Machine.execEret s
  | .trap imm => Sys2Proof.Machine.execTrap imm s
  | .mfs d n => Sys2Proof.Machine.execMfs d n s
  | .mts a n => Sys2Proof.Machine.execMts a n s
  | .bankmode v => Sys2Proof.Machine.execBankmode v s
  | .bankModeCut => Sys2Proof.Machine.execBankModeCut s
  | .mcmode v => Sys2Proof.Machine.execMcmode v s
  | .cpy d a b => Sys2Proof.Machine.execCpy d a b s
  | .strm d a b => Sys2Proof.Machine.execStrm d a b s
  | .wtest d a b => Sys2Proof.Machine.execWtest d a b s
  | .cfg d a b => Sys2Proof.Machine.execCfg d a b s
  | .resid d a => Sys2Proof.Machine.execResid d a s
  | .param d a b => Sys2Proof.Machine.execParam d a b s
  | .gbar d a b => Sys2Proof.Machine.execGbar d a b s
  | .resume d a => Sys2Proof.Machine.execResume d a s
  | .lease d a b => Sys2Proof.Machine.execLease d a b s
  | .lfree d a => Sys2Proof.Machine.execLfree d a s
  | .pcmd d a b => Sys2Proof.Machine.execPcmd d a b s
  | .boost d a b => Sys2Proof.Machine.execBoost d a b s
  | .lnch d a => Sys2Proof.Machine.execLnch d a s
  | .xcmd d a b => Sys2Proof.Machine.execXcmd d a b s
  | .tbind d a b => Sys2Proof.Machine.execTbind d a b s
  | .tpost d a b => Sys2Proof.Machine.execTpost d a b s
  | .taskDispatch => Sys2Proof.Machine.execTaskDispatch s
  | .messageArrival k chan w0 w1 w2 w3 => Sys2Proof.Machine.execMessageArrival k chan w0 w1 w2 w3 s
  | .messageRetry => Sys2Proof.Machine.execMessageRetry s
  | .pageWalk ctx k va => Sys2Proof.Machine.execPageWalk ctx k va s
  | .invalidationArrival line => Sys2Proof.Machine.execInvalidationArrival line s
  | .tierCTimeout pa va => Sys2Proof.Machine.execTierCTimeout pa va s
  | .eccError sram addr bad => Sys2Proof.Machine.execEccError sram addr bad s
  | .patrolScrub pa => Sys2Proof.Machine.execPatrolScrub pa s
  | .ambPark v => Sys2Proof.Machine.execAmbPark v s
  | .wake ix token arg => Sys2Proof.Machine.execWake ix token arg s
  | .promoteAll ix token arg => Sys2Proof.Machine.execPromoteAll ix token arg s
  | .promoteOne ix token arg => Sys2Proof.Machine.execPromoteOne ix token arg s
  | .drop ix token arg => Sys2Proof.Machine.execDrop ix token arg s
  | .hcTimerExpiry ix => Sys2Proof.Machine.execHcTimerExpiry ix s
  | .cfTimerExpiry ix => Sys2Proof.Machine.execCfTimerExpiry ix s
  | .amberExamination ix => Sys2Proof.Machine.execAmberExamination ix s
  | .demoteHc ix b => Sys2Proof.Machine.execDemoteHc ix b s
  | .demoteCf ix b => Sys2Proof.Machine.execDemoteCf ix b s
  | .blockPromotion ix b => Sys2Proof.Machine.execBlockPromotion ix b s
  | .promotionResume ix => Sys2Proof.Machine.execPromotionResume ix s
  | .resumeLaunchRetry ix => Sys2Proof.Machine.execResumeLaunchRetry ix s
  | .amberPushRetry ix => Sys2Proof.Machine.execAmberPushRetry ix s
  | .amberCfg => Sys2Proof.Machine.execAmberCfg s
  | .copy q => Sys2Proof.Machine.execCopy q s
  | .maskrows q => Sys2Proof.Machine.execMaskrows q s
  | .streamin q => Sys2Proof.Machine.execStreamin q s
  | .streamout q => Sys2Proof.Machine.execStreamout q s
  | .arrive q => Sys2Proof.Machine.execArrive q s
  | .barset q => Sys2Proof.Machine.execBarset q s
  | .streamPortPush q => Sys2Proof.Machine.execStreamPortPush q s
  | .streamPortPop q => Sys2Proof.Machine.execStreamPortPop q s
  | .chunkComplete q => Sys2Proof.Machine.execChunkComplete q s
  | .ceCommandComplete q => Sys2Proof.Machine.execCeCommandComplete q s
  | .qfenceRetire k => Sys2Proof.Machine.execQfenceRetire k s
  | .ringDescriptorStore k dw v => Sys2Proof.Machine.execRingDescriptorStore k dw v s
  | .fifoQueueStore bank dw v => Sys2Proof.Machine.execFifoQueueStore bank dw v s
  | .windowQueueStore bank dw v => Sys2Proof.Machine.execWindowQueueStore bank dw v s
  | .switchForward w => Sys2Proof.Machine.execSwitchForward w s
  | .killPropagate k => Sys2Proof.Machine.execKillPropagate k s
  | .iadd f => Sys2Proof.Machine.execIadd f s
  | .isub f => Sys2Proof.Machine.execIsub f s
  | .imul f => Sys2Proof.Machine.execImul f s
  | .imulh f => Sys2Proof.Machine.execImulh f s
  | .imin f => Sys2Proof.Machine.execImin f s
  | .imax f => Sys2Proof.Machine.execImax f s
  | .iabs f => Sys2Proof.Machine.execIabs f s
  | .peAnd f => Sys2Proof.Machine.execPeAnd f s
  | .peOr f => Sys2Proof.Machine.execPeOr f s
  | .peXor f => Sys2Proof.Machine.execPeXor f s
  | .peShl f => Sys2Proof.Machine.execPeShl f s
  | .peShr f => Sys2Proof.Machine.execPeShr f s
  | .peSha f => Sys2Proof.Machine.execPeSha f s
  | .fshl f => Sys2Proof.Machine.execFshl f s
  | .fshr f => Sys2Proof.Machine.execFshr f s
  | .peClz f => Sys2Proof.Machine.execPeClz f s
  | .pePopc f => Sys2Proof.Machine.execPePopc f s
  | .bwid f => Sys2Proof.Machine.execBwid f s
  | .icmp f => Sys2Proof.Machine.execIcmp f s
  | .sel f => Sys2Proof.Machine.execSel f s
  | .fadd f => Sys2Proof.Machine.execFadd f s
  | .fsub f => Sys2Proof.Machine.execFsub f s
  | .fmul f => Sys2Proof.Machine.execFmul f s
  | .ffma f => Sys2Proof.Machine.execFfma f s
  | .fmin f => Sys2Proof.Machine.execFmin f s
  | .fmax f => Sys2Proof.Machine.execFmax f s
  | .fcmp f => Sys2Proof.Machine.execFcmp f s
  | .cvt f => Sys2Proof.Machine.execCvt f s
  | .red f => Sys2Proof.Machine.execRed f s
  | .scan f => Sys2Proof.Machine.execScan f s
  | .pass f => Sys2Proof.Machine.execPass f s
  | .shuf f => Sys2Proof.Machine.execShuf f s
  | .packb f => Sys2Proof.Machine.execPackb f s
  | .unpkb f => Sys2Proof.Machine.execUnpkb f s
  | .delta f => Sys2Proof.Machine.execDelta f s
  | .gate f => Sys2Proof.Machine.execGate f s
  | .steer f => Sys2Proof.Machine.execSteer f s
  | .cnt f => Sys2Proof.Machine.execCnt f s
  | .mark f => Sys2Proof.Machine.execMark f s
  | .const f => Sys2Proof.Machine.execConst f s
  | .merge f => Sys2Proof.Machine.execMerge f s
  | .ojoin f => Sys2Proof.Machine.execOjoin f s
  | .dadd f => Sys2Proof.Machine.execDadd f s
  | .dsub f => Sys2Proof.Machine.execDsub f s
  | .dmul f => Sys2Proof.Machine.execDmul f s
  | .dfma f => Sys2Proof.Machine.execDfma f s
  | .ddiv f => Sys2Proof.Machine.execDdiv f s
  | .dsqrt f => Sys2Proof.Machine.execDsqrt f s
  | .drsq f => Sys2Proof.Machine.execDrsq f s
  | .dexp f => Sys2Proof.Machine.execDexp f s
  | .dlog f => Sys2Proof.Machine.execDlog f s
  | .dnorm f => Sys2Proof.Machine.execDnorm f s
  | .dscl f => Sys2Proof.Machine.execDscl f s
  | .dmax f => Sys2Proof.Machine.execDmax f s
  | .dcmpk f => Sys2Proof.Machine.execDcmpk f s
  | .drelu f => Sys2Proof.Machine.execDrelu f s
  | .drace f => Sys2Proof.Machine.execDrace f s
  | .dsel f => Sys2Proof.Machine.execDsel f s
  | .dacc f => Sys2Proof.Machine.execDacc f s
  | .mtrd f => Sys2Proof.Machine.execMtrd f s
  | .mtwr f => Sys2Proof.Machine.execMtwr f s
  | .mtring f => Sys2Proof.Machine.execMtring f s
  | .mtfifo f => Sys2Proof.Machine.execMtfifo f s
  | .mttas f => Sys2Proof.Machine.execMttas f s
  | .mthist f => Sys2Proof.Machine.execMthist f s
  | .mtlut f => Sys2Proof.Machine.execMtlut f s
  | .mtacc f => Sys2Proof.Machine.execMtacc f s
  | .mtclr f => Sys2Proof.Machine.execMtclr f s
  | .agld f => Sys2Proof.Machine.execAgld f s
  | .agst f => Sys2Proof.Machine.execAgst f s
  | .agga f => Sys2Proof.Machine.execAgga f s
  | .agsc f => Sys2Proof.Machine.execAgsc f s
  | .agsel f => Sys2Proof.Machine.execAgsel f s
  | .agbt f => Sys2Proof.Machine.execAgbt f s
  | .agamo f => Sys2Proof.Machine.execAgamo f s
  | .agpf f => Sys2Proof.Machine.execAgpf f s
  | .orderTokenEmit => Sys2Proof.Machine.execOrderTokenEmit s
  | .iterationClaim slot => Sys2Proof.Machine.execIterationClaim slot s
  | .mzero => Sys2Proof.Machine.execMzero s
  | .mma af bf ra rb ovw => Sys2Proof.Machine.execMma af bf ra rb ovw s
  | .mout out ro bias act rq => Sys2Proof.Machine.execMout out ro bias act rq s
  | .mlut ra => Sys2Proof.Machine.execMlut ra s
  | .mqk af bf ra rb => Sys2Proof.Machine.execMqk af bf ra rb s
  | .msmu pf => Sys2Proof.Machine.execMsmu pf s
  | .mpva bf rb => Sys2Proof.Machine.execMpva bf rb s
  | .msmf out ro => Sys2Proof.Machine.execMsmf out ro s
  | .msmg ra => Sys2Proof.Machine.execMsmg ra s
  | .mset dreg value => Sys2Proof.Machine.execMset dreg value s
  | .tileTeardown => Sys2Proof.Machine.execTileTeardown s
  | .residencyMove slot page => Sys2Proof.Machine.execResidencyMove slot page s
  | .launchEligible n => Sys2Proof.Machine.execLaunchEligible n s
  | .launchAgeing n => Sys2Proof.Machine.execLaunchAgeing n s
  | .launchBlocking n => Sys2Proof.Machine.execLaunchBlocking n s
  | .launchAdmission => Sys2Proof.Machine.execLaunchAdmission s
  | .hqctl q v => Sys2Proof.Machine.execHqctl q v s
  | .hqmirror q v => Sys2Proof.Machine.execHqmirror q v s
  | .hostQueueTail q => Sys2Proof.Machine.execHostQueueTail q s
  | .linkLaunchSlot origin packet => Sys2Proof.Machine.execLinkLaunchSlot origin packet s
  | .linkAccessRefused link acc => Sys2Proof.Machine.execLinkAccessRefused link acc s
  | .leaseArbitration => Sys2Proof.Machine.execLeaseArbitration s
  | .leaseEviction p => Sys2Proof.Machine.execLeaseEviction p s
  | .pralineReady p => Sys2Proof.Machine.execPralineReady p s
  | .pralineIdleSleep p => Sys2Proof.Machine.execPralineIdleSleep p s
  | .lingerExpiry p => Sys2Proof.Machine.execLingerExpiry p s
  | .czip p => Sys2Proof.Machine.execCzip p s
  | .cunz p => Sys2Proof.Machine.execCunz p s
  | .topk p => Sys2Proof.Machine.execTopk p s
  | .ksort p => Sys2Proof.Machine.execKsort p s
  | .genc p => Sys2Proof.Machine.execGenc p s
  | .gdec p => Sys2Proof.Machine.execGdec p s
  | .hsha p => Sys2Proof.Machine.execHsha p s
  | .hchain p => Sys2Proof.Machine.execHchain p s
  | .pralineComplete p => Sys2Proof.Machine.execPralineComplete p s
  | .powerInterval region => Sys2Proof.Machine.execPowerInterval region s
  | .spineChange spine mhz => Sys2Proof.Machine.execSpineChange spine mhz s
  | .boostSpineSwitch => Sys2Proof.Machine.execBoostSpineSwitch s
  | .supplyLimit watts => Sys2Proof.Machine.execSupplyLimit watts s
  | .boostNoticeEnd ctx => Sys2Proof.Machine.execBoostNoticeEnd ctx s
  | .boostExpiry ctx => Sys2Proof.Machine.execBoostExpiry ctx s
  | .pstall v => Sys2Proof.Machine.execPstall v s
  | .thermalSample tj => Sys2Proof.Machine.execThermalSample tj s
  | .tripMark => Sys2Proof.Machine.execTripMark s
  | .emergencySaveTimeout => Sys2Proof.Machine.execEmergencySaveTimeout s
  | .hbmSelfRefresh => Sys2Proof.Machine.execHbmSelfRefresh s
  | .railRemoval => Sys2Proof.Machine.execRailRemoval s
  | .dieRepower => Sys2Proof.Machine.execDieRepower s
  | .deadlineExpiry ctx => Sys2Proof.Machine.execDeadlineExpiry ctx s
  | .contextSaveComplete ctx => Sys2Proof.Machine.execContextSaveComplete ctx s
  | .tileFlagWrite tile v => Sys2Proof.Machine.execTileFlagWrite tile v s
  | .islandStatusWrite ix dw v => Sys2Proof.Machine.execIslandStatusWrite ix dw v s
  | .registerWrite pa v => Sys2Proof.Machine.execRegisterWrite pa v s
  | .identify => Sys2Proof.Machine.execIdentify s
  | .features => Sys2Proof.Machine.execFeatures s
  | .ctxCreate => Sys2Proof.Machine.execCtxCreate s
  | .ctxDestroy => Sys2Proof.Machine.execCtxDestroy s
  | .map => Sys2Proof.Machine.execMap s
  | .unmap => Sys2Proof.Machine.execUnmap s
  | .mapComplete => Sys2Proof.Machine.execMapComplete s
  | .powerCfg => Sys2Proof.Machine.execPowerCfg s
  | .attest => Sys2Proof.Machine.execAttest s
  | .lifelogRead => Sys2Proof.Machine.execLifelogRead s
  | .resetDie => Sys2Proof.Machine.execResetDie s
  | .fwUpdate => Sys2Proof.Machine.execFwUpdate s
  | .a2a e q => Sys2Proof.Machine.execA2a e q s
  | .put e q => Sys2Proof.Machine.execPut e q s
  | .get e q => Sys2Proof.Machine.execGet e q s
  | .sig e q => Sys2Proof.Machine.execSig e q s
  | .exchangeComplete e q => Sys2Proof.Machine.execExchangeComplete e q s
  | .keepaliveLoss link => Sys2Proof.Machine.execKeepaliveLoss link s
  | .powerUp => Sys2Proof.Machine.execPowerUp s
  | .sramScrub cl off => Sys2Proof.Machine.execSramScrub cl off s
  | .recalibration link => Sys2Proof.Machine.execRecalibration link s
  | .wearLevelling => Sys2Proof.Machine.execWearLevelling s
  | .telemetrySample => Sys2Proof.Machine.execTelemetrySample s
  | .lifelogRewrite => Sys2Proof.Machine.execLifelogRewrite s
  | .hostMemoryAccess write pa len data => Sys2Proof.Machine.execHostMemoryAccess write pa len data s
  | .remoteExchangeRequest ctx kind va len data => Sys2Proof.Machine.execRemoteExchangeRequest ctx kind va len data s
  | .powerLoss => Sys2Proof.Machine.execPowerLoss s
  | .voltageDroop vfi depth => Sys2Proof.Machine.execVoltageDroop vfi depth s
  | .laneRetrain link => Sys2Proof.Machine.execLaneRetrain link s

end Sys2Proof.Machine
end

