-- ==== Sys2Proof/Machine/Fetch.lean ====
section
/-! DEFINITION. Fetching a sequencer's instruction (R314, R317, R404 orders 1 to 4), and placing one for a test. -/

namespace Sys2Proof.Machine

/-- What a fetch gives: an instruction to execute, or the state after the trap that was taken. -/
inductive Fetched where
  | run (i : Instr) (s : State)
  | trapped (s : State)

/-- The enabled breakpoint stands at the pc and is not skipped (R314, R316). -/
def Seq.atBreak (q : Seq) : Bool :=
  bit q.brkpc.toNat 0 && !q.brkSkip && (q.pc == q.brkpc &&& ~~~3#64)

/-- Fetches the instruction at the pc with kind FETCH in the running task's context, and decodes it. -/
def State.fetchInstr (s : State) (c : Nat) : Fetched :=
  let q := s.sq c
  let pc := q.pc.toNat
  if q.atBreak then .trapped (s.fetchTrap c { cause := tBreak, val := q.pc })
  else if isLocal pc then
    .trapped (s.fetchTrap c { cause := tPermission, xcode := cPermX, xlvl := Config.freeNat s.free % 4, val := q.pc })
  else
    match s.xlatCl c q.running.ctx .fetch pc with
    | (.bad code lvl, s) =>
      .trapped (s.fetchTrap c { cause := if isPerm code then tPermission else tTranslation, xcode := code, xlvl := lvl, val := q.pc })
    | (.ok pa mt, s) =>
      let v := s.readView (dieOf c) (mt == 0) pa 4
      if v.2.1 then .trapped (v.2.2.fetchTrap c { cause := tMcheck, val := q.pc })
      else
        let w : Word32 := BitVec.ofNat 32 (ofBytes v.1)
        match decodeSeq w with
        | .ok i => .run i v.2.2
        | .error _ => .trapped (v.2.2.fetchTrap c (illegal w))

end Sys2Proof.Machine
end

