-- ==== Sys2Proof/Machine/Place.lean ====
section
/-! DEFINITION. What the step function calls beside the meanings: whose turn it is, the clocks, the words that
unanswered accesses find, the word a fabric unit obeys, and the placing of an instruction for the next step. -/

namespace Sys2Proof.Machine

/-! ### Turns -/

/-- The actor of a sequencer's turn. -/
def State.atSeq (s : State) (c : Nat) : State := { s with actor := { die := dieOf c, cl := c, unit := 292 } }

/-- The actor of a fabric unit's turn. -/
def State.atUnit (s : State) (c u : Nat) : State := { s with actor := { die := dieOf c, cl := c, unit := u } }

/-- Steps that do not need the compute part of the actor's die: its heat and its return to power, and what the IOD, the
firmware, the links and the host do (R402, R403). -/
def offDie : Instr → Bool
  | .thermalSample .. | .tripMark | .dieRepower | .identify | .features | .ctxCreate | .ctxDestroy | .map | .unmap
  | .mapComplete | .powerCfg | .amberCfg | .attest | .lifelogRead | .resetDie | .fwUpdate | .powerUp | .powerLoss
  | .telemetrySample | .lifelogRewrite | .wearLevelling | .recalibration .. | .laneRetrain .. | .keepaliveLoss ..
  | .hostMemoryAccess .. | .supplyLimit .. | .boostExpiry .. | .boostNoticeEnd .. | .linkAccessRefused .. => true
  | _ => false

/-- A die whose rails are down, or that start-up has not yet brought to step 6 (R402, R437). -/
def State.isDown (s : State) (d : Nat) : Bool := (s.die d).emerg.phase == EmergPhase.down || decide (s.pkg.startup < 6)

/-- The step of R437 from which an event can come: mailbox 0 and the host's accesses from 7 on, the link window and what peers
send from 8 on, the rest from 6 on. -/
def opensAt (a : Actor) : Instr → Nat
  | .powerUp | .powerLoss => 0
  | .linkLaunchSlot .. | .linkAccessRefused .. | .remoteExchangeRequest .. | .keepaliveLoss .. => 8
  | .hostMemoryAccess .. | .hqctl .. | .hqmirror .. | .hostQueueTail .. => 7
  | .registerWrite .. => if a.unit = 294 then 8 else if a.unit = 293 then 7 else 6
  | _ => 6

/-- A turn is taken: not by a unit of a die whose rails are down (R402); and what a word encodes is run only where the
word stands. -/
def State.runs (s : State) : Turn → Bool
  | .seq c => !s.isDown (dieOf c)
  | .drain c _ => !s.isDown (dieOf c)
  | .issue c => !s.isDown (dieOf c)
  | .perform c _ => !s.isDown (dieOf c)
  | .fire c _ => !s.isDown (dieOf c)
  | .event a i => (encode i).isEmpty && decide (opensAt a i ≤ s.pkg.startup) && (offDie i || !s.isDown a.die)
  | .tick .. => true

/-- CYCLE has advanced since the sequencer's last turn, by at least one (R305); how far is free (timing). -/
def State.tickCycle (s : State) (c : Nat) : State :=
  let r := s.drawNat
  let q := r.2.sq c
  r.2.setSq c { q with cycle := q.cycle + 1 + BitVec.ofNat 64 r.1 }

/-- A die's reference clock advances, and Amber's with it unless the die is down (R403); the IOD's is number 4. -/
def State.advanceClock (s : State) (d us : Nat) : State :=
  if 4 ≤ d then s.setPkg { s.pkg with clock := s.pkg.clock + us }
  else
    let k := s.die d
    s.setDie d { k with clock := k.clock + us,
                        amber := if s.isDown d then k.amber else { k.amber with clock := k.amber.clock + us } }

/-! ### Tier-C accesses that time out (R15) -/

/-- The words that the actor's accesses find uncorrectable in this turn. -/
def State.unanswered (s : State) (a : Actor) : List Nat :=
  (s.timeouts.filter (fun (t : Actor × Nat) => t.1 == a)).map Prod.snd

/-- The words read as uncorrectable for the turn. -/
def State.arm (s : State) (a : Actor) : State :=
  { s with armed := s.unanswered a, timeouts := s.timeouts.filter (fun (t : Actor × Nat) => t.1 != a) }

/-- The turn is an access of its actor's: the report of a timeout is not. -/
def accesses : Instr → Bool
  | .tierCTimeout .. => false
  | _ => true

/-- After the turn the words read again as the memory holds them. -/
def State.disarm (s : State) : State := { s with armed := [] }

/-! ### The sequencer's turn -/

/-- The requests of the cluster whose deadlines have passed undecided are forced (R415). -/
def State.passDeadlines (s : State) (c : Nat) : State :=
  ((s.sq c).yreqs.filter (fun (y : YReq) => y.coop.isNone)).foldl (fun s (y : YReq) => s.expireDeadline c y.ctx) s

/-- The sequencer's turn up to the fetch: its cycle count, and deadlines. -/
def State.beginSeq (s : State) (c : Nat) : State := (((s.atSeq c).arm (s.atSeq c).actor).tickCycle c).passDeadlines c

/-! ### The word that a fabric unit obeys -/

/-- A result of a decoder, or nothing. -/
def okInstr : Except DecodeErr Instr → Option Instr
  | .ok i => some i
  | .error _ => none

/-- A tile is a processing element where x + y is even (R4). -/
def isPe (x : Nat) : Bool := (x % 16 + x / 16) % 2 == 0

/-- The word of a tile: a PE's own, the ready one of an MT (R91), or, where none is ready, its first, which then waits. -/
def Tile.instr (t : Tile) (x : Nat) : Option Instr :=
  match t.fg with
  | none => none
  | some g =>
    if isPe x then (if g.pe = 0 then none else okInstr (decodePe g.pe))
    else
      match t.mtNext with
      | some w => okInstr (decodeMt w)
      | none => (g.mts.head?).bind (fun e => okInstr (decodeMt e.2))

/-- The word that a fabric unit is to fire: tiles 0 to 255, AGs 256 to 287, islands 288 to 291. -/
def State.unitInstr (s : State) (c u : Nat) : Option Instr :=
  let k := s.cl c
  if u < 256 then (k.tile u).instr u
  else if u < 288 then ((k.ag (u - 256)).fg).bind (fun g => okInstr (decodeAg g.word))
  else
    let m := k.mat (u - 288)
    match decodeIsland (m.prog.drop m.ipc) with
    | .ok (i, _) => some i
    | .error _ => none

/-! ### Placing an instruction (assumption 5) -/

/-- Where `place` puts a sequencer's words. -/
def placePc : Nat := 0x20000

/-- Context 0 lives, with a root at address 0 whose one 1 GiB leaf maps the first gibibyte to itself, and cluster 0 is
the only one whose turn comes. -/
def State.placeCtx (s : State) : State :=
  let m := (s.mem.setBytes 0 (toBytes 8 0x10001)).setBytes 0x10000 (toBytes 8 0x31F)
  let s := { s with mem := m, actor := {} }
  s.setCtx 0 { s.ctx 0 with live := true, root := some 0 }

/-- A sequencer instruction: its words in memory, and a running task of cluster 0 that stands there. -/
def State.placeSeq (s : State) (ws : List Word32) : State :=
  let s := s.placeCtx
  let s := { s with mem := s.mem.setBytes placePc (ws.flatMap (fun (w : Word32) => toBytes 4 w.toNat)), agenda := [.seq 0] }
  s.setSq 0 { s.sq 0 with pc := BitVec.ofNat 64 placePc, task := some { chan := 1 }, brkpc := 0, taskid := 1 }

/-- A residency of context 0 in slot 1 of cluster 0 that holds page 0, AG 0 and island 0, with power to spend. -/
def State.placeResid (s : State) : State :=
  let s := s.placeCtx
  let k := s.cl 0
  let k := { k with resids := k.resids.put 1 { live := true, gen := 1, w := 1, h := 1, pages := [0], ags := [0], islands := [0] },
                    pages := k.pages.put 0 (.held 1), isles := k.isles.put 0 (.held 1), power := k.power.put 0 4096 }
  s.setCl 0 k

/-- A PE word in tile 0. -/
def State.placePe (s : State) (w : Word32) : State :=
  let s := s.placeResid
  let k := s.cl 0
  { s.setCl 0 (k.setTile 0 { k.tile 0 with fg := some { pe := w } }) with agenda := [.fire 0 0] }

/-- An MT word in tile 1. -/
def State.placeMt (s : State) (w : Word32) : State :=
  let s := s.placeResid
  let k := s.cl 0
  { s.setCl 0 (k.setTile 1 { k.tile 1 with fg := some { mts := [(0, w)] } }) with agenda := [.fire 0 1] }

/-- An AG word in AG 0. -/
def State.placeAg (s : State) (w : Word32) : State :=
  let s := s.placeResid
  let k := s.cl 0
  { s.setCl 0 (k.setAg 0 ({ k.ag 0 with fg := some { word := w } } : Ag).start) with agenda := [.fire 0 256] }

/-- An island's program. -/
def State.placeIsle (s : State) (ws : List Word32) : State :=
  let s := s.placeResid
  let k := s.cl 0
  { s.setCl 0 (k.setMat 0 { k.mat 0 with fg := some ws, ipc := 0 }) with agenda := [.fire 0 288] }

/-- Places an instruction where the next step takes it: by the encoding space that the words are read in. -/
def State.place (s : State) (ws : List Word32) : State :=
  match decodeAny ws with
  | some (.pe, _) => s.placePe (ws.headD 0)
  | some (.mt, _) => s.placeMt (ws.headD 0)
  | some (.ag, _) => s.placeAg (ws.headD 0)
  | some (.island, _) => s.placeIsle ws
  | _ => s.placeSeq ws

end Sys2Proof.Machine
end

