-- ==== Sys2Proof/Machine/Turns.lean ====
section
/-! DEFINITION. One turn: of a sequencer, a store buffer, a fabric unit, a step that no word encodes, or a clock. -/

namespace Sys2Proof.Machine

/-- The state a turn leaves: the agenda and the actor are the step's own, whatever the turn did, and the words of
unanswered accesses are as they were (R15); writes of its engine to device registers have taken effect (R14). -/
def State.finish (s : State) (rest : List Turn) :
    Host.Outcome State Fault Refusal → Host.Outcome State Fault Refusal
  | .next s' => .next { s'.flushDev.disarm with agenda := rest, actor := s.actor }
  | .fault r => .fault r
  | .refused r => .refused r

/-- The turn of a sequencer: one instruction of the running task, if there is one. -/
def runSeq (c : Nat) (s : State) : Host.Outcome State Fault Refusal :=
  let s := s.beginSeq c
  if (s.sq c).task.isNone then .next s
  else match s.fetchInstr c with
    | .trapped s' => .next s'
    | .run i s' => exec i (s'.settleFor c i.word)

/-- The turn of a sequencer that issues a load and goes on before it is performed (R286). -/
def issueSeq (c : Nat) (s : State) : State :=
  let s1 := s.atSeq c
  if (s1.sq c).task.isNone then s
  else match s1.fetchInstr c with
    | .trapped _ => s
    | .run i s' => (s'.issueLoad c i).getD s

/-- The turn of a fabric unit: its word, if it has one. -/
def runUnit (c u : Nat) (s : State) : Host.Outcome State Fault Refusal :=
  let s := (s.atUnit c u).arm (s.atUnit c u).actor
  match s.unitInstr c u with
  | none => .next s
  | some i => exec i s

/-- The turn of a step that no word encodes. -/
def runEvent (a : Actor) (i : Instr) (s : State) : Host.Outcome State Fault Refusal :=
  let s := { s with actor := a }
  exec i (if accesses i then s.arm a else s)

/-- Takes one turn. -/
def runTurn (t : Turn) (rest : List Turn) (s : State) : Host.Outcome State Fault Refusal :=
  if !s.runs t then .next { s with agenda := rest }
  else
    match t with
    | .seq c => s.finish rest (runSeq c s)
    | .drain c k => .next { s.drain c k with agenda := rest }
    | .issue c => s.finish rest (.next (issueSeq c s))
    | .perform c k => .next { s.performNth c k with agenda := rest }
    | .fire c u => s.finish rest (runUnit c u s)
    | .event a i => s.finish rest (runEvent a i s)
    | .tick d us => .next { s.advanceClock d us with agenda := rest }

end Sys2Proof.Machine
end

