-- ==== Sys2Proof/Machine/Step.lean ====
section
/-! DEFINITION. The step function: the turn at the head of the agenda is taken.  Everything it calls is in Turns.lean and
Place.lean. -/

namespace Sys2Proof.Machine

/-- One step: the turn at the head of the agenda, or a free turn where the agenda is empty. -/
def step (s : State) : Host.Outcome State Fault Refusal :=
  match s.agenda with
  | t :: rest => runTurn t rest s
  | [] => runTurn (Config.freeTurn s.free) [] { s with free := s.free + 1 }

/-- `s` with the table's instruction placed where the next step takes it (Place.lean). -/
def State.withFetchWord (s : State) (nbits w : Nat) : State := s.place (tableWords nbits w)

end Sys2Proof.Machine
end

