-- ==== Sys2Proof/Safety.lean ====
section
/-! DEFINITION. What counts as a safe state and a safe run, and the words that the statements use. -/

namespace Sys2Proof

open Machine

/-- The global memory keeps its canonical form. -/
def MemInv (s : State) : Prop := s.mem.wf = true

/-- The banks of every cluster keep the form too, and so do those that a save has copied (R416, R420). -/
def BankInv (s : State) : Prop :=
  (∀ e ∈ s.clusters, e.2.sram.wf = true) ∧ (∀ p ∈ s.pkg.preempts, ∀ z ∈ p.snap, z.body.sram.wf = true)

/-- A run of `k` steps that stops at no fault and no refusal. -/
def SafeRun (k : Nat) (s : State) : Prop := ∃ t, Host.Core.run { State := State, Fault := Fault, Refusal := Refusal, step := step, reset := State.reset } k s = .next t

/-! ### A sequencer's instruction -/

/-- The acting sequencer. -/
def seqHere (s : State) : Seq := s.sq s.here

/-- The value of a source register that is not a ring register. -/
def srcVal (s : State) (r : Reg) : Word := (seqHere s).reg r

/-- A register without ring behaviour (R302). -/
def plainReg (r : Reg) : Prop := r ≠ 60 ∧ r ≠ 61

/-- What an instruction that writes `v` to the register `d` and goes on leaves: the register, the pc, nothing else. -/
def wroteReg (s : State) (d : Reg) (v : Word) : State :=
  s.setSq s.here { (seqHere s).setReg d v with pc := (seqHere s).pc + 4, brkSkip := false }

/-- What an instruction that only goes to `pc` leaves. -/
def wentTo (s : State) (pc : Word) : State := s.setSq s.here { seqHere s with pc := pc, brkSkip := false }

/-- A trap is taken by a handler, not by abandoning the task (R314). -/
def hasHandler (s : State) : Prop := (seqHere s).inTrap = false ∧ (seqHere s).tvec ≠ 0

/-- What trap entry leaves (R314): the trap registers, INTRAP and the pc. -/
def trapped (s : State) (cause val ret : Word) : State :=
  s.setSq s.here { seqHere s with tcause := cause, tval := val, tpc := ret, inTrap := true, pc := (seqHere s).tvec, brkSkip := false }

/-- Destination and sources of the words that compute a register from registers (R318 to R320). -/
def regForm : Instr → Option (Reg × List Reg)
  | .add d a b => some (d, [a, b])
  | .sub d a b => some (d, [a, b])
  | .and d a b => some (d, [a, b])
  | .or d a b => some (d, [a, b])
  | .xor d a b => some (d, [a, b])
  | .shl d a b => some (d, [a, b])
  | .shr d a b => some (d, [a, b])
  | .sha d a b => some (d, [a, b])
  | .mul d a b => some (d, [a, b])
  | .mulh d a b => some (d, [a, b])
  | .div d a b => some (d, [a, b])
  | .divu d a b => some (d, [a, b])
  | .rem d a b => some (d, [a, b])
  | .min d a b => some (d, [a, b])
  | .max d a b => some (d, [a, b])
  | .minu d a b => some (d, [a, b])
  | .maxu d a b => some (d, [a, b])
  | .slt d a b => some (d, [a, b])
  | .sltu d a b => some (d, [a, b])
  | .ceq d a b => some (d, [a, b])
  | .clz d a => some (d, [a])
  | .popc d a => some (d, [a])
  | .addi d a _ => some (d, [a])
  | .andi d a _ => some (d, [a])
  | .ori d a _ => some (d, [a])
  | .xori d a _ => some (d, [a])
  | .slti d a _ => some (d, [a])
  | .shli d a _ => some (d, [a])
  | .shri d a _ => some (d, [a])
  | .shai d a _ => some (d, [a])
  | .lui d _ => some (d, [])
  | .addpc d _ => some (d, [])
  | _ => none

/-- The words that compute a register from two registers (R318), from one (R318, R319), and from none (R320). -/
def opWords : List (Reg → Reg → Reg → Instr) :=
  [.add, .sub, .and, .or, .xor, .shl, .shr, .sha, .mul, .mulh, .div, .divu, .rem, .min, .max, .minu, .maxu, .slt, .sltu, .ceq]
def opWords1 (imm : BitVec 14) (n : BitVec 6) : List (Reg → Reg → Instr) :=
  [.clz, .popc, fun d a => .addi d a imm, fun d a => .andi d a imm, fun d a => .ori d a imm, fun d a => .xori d a imm,
   fun d a => .slti d a imm, fun d a => .shli d a n, fun d a => .shri d a n, fun d a => .shai d a n]
def opWords0 (imm : BitVec 20) : List (Reg → Instr) := [fun d => .lui d imm, fun d => .addpc d imm]

/-- The running task's binding (R307), and the rings it names. -/
def bindingHere (s : State) : Word := (seqHere s).running.q
def inRing (s : State) : Ring := (s.cl s.here).ring (qInRing (bindingHere s))
def outRing (s : State) : Ring := (s.cl s.here).ring (qOutRing (bindingHere s))

/-- The virtual address of an LD or ST (R322). -/
def memAddr (s : State) (a : Reg) (off : BitVec 8) (z : Size) : Nat :=
  (srcVal s a + off.signExtend 64 * BitVec.ofNat 64 (sizeBytes z)).toNat

/-- An access of the running task passes its checks at a target and need not wait; `s1` is the state after translation. -/
def passes (s : State) (va n : Nat) (k : AccKind) (t : Target) (s1 : State) : Prop :=
  s.target s.here (seqHere s).running.ctx va n k = (.ok t, s1) ∧ s1.mustWait s.here (seqHere s).running.ctx va n t = false

/-- The sequencer has gone to the next instruction, and its registers are as they were but for `d`. -/
def nextInstr (s u : State) (d : Option Reg) : Prop :=
  (seqHere u).pc = (seqHere s).pc + 4 ∧ u.here = s.here ∧ (∀ r, some r ≠ d → srcVal u r = srcVal s r) ∧
  (seqHere u).tcause = (seqHere s).tcause ∧ (seqHere u).tpc = (seqHere s).tpc ∧ (seqHere u).tval = (seqHere s).tval ∧
  (seqHere u).inTrap = (seqHere s).inTrap ∧ (seqHere u).task = (seqHere s).task

/-- The command goes on, with `w` in its destination, and leaves a state that `p` describes (R327). -/
def answers (i : Instr) (s : State) (d : Reg) (w : Word) (p : State → Prop) : Prop :=
  ∃ u, exec i s = .next u ∧ nextInstr s u (some d) ∧ srcVal u d = (if d = 0 then 0 else w) ∧ p u

/-- The step completes and leaves a state that `p` describes. -/
def leaves (i : Instr) (s : State) (p : State → Prop) : Prop := ∃ u, exec i s = .next u ∧ p u

/-- A table lists no key twice. -/
def distinctKeys {V : Type} (t : Tab V) : Prop := (t.map Prod.fst).Nodup

/-- Memory once the stores of a buffer have been performed, oldest first (R286). -/
def memAfterStores (m : Mem) (b : List StoreEnt) : Mem := b.foldl (fun m e => m.setBytes e.pa (toBytes e.size e.data)) m

/-- Everything but the clusters is the same. -/
def sameBesideClusters (s t : State) : Prop :=
  t.mem = s.mem ∧ t.poison = s.poison ∧ t.copies = s.copies ∧ t.invals = s.invals ∧ t.tlb = s.tlb ∧
  t.timeouts = s.timeouts ∧ t.watches = s.watches ∧ t.dies = s.dies ∧ t.ctxs = s.ctxs ∧ t.pkg = s.pkg

/-- The sequencer of cluster `c` fetches the word `w` at its pc, leaving `u` (R314, R317): no breakpoint stands there, the pc is not
local, its translation with kind FETCH succeeds, and the bytes are not poisoned. -/
def fetches (s : State) (c : Nat) (w : Word32) (u : State) : Prop :=
  ∃ (pa mt : Nat) (bs : List Byte) (s1 : State), (s.sq c).atBreak = false ∧ isLocal (s.sq c).pc.toNat = false ∧
    s.xlatCl c (s.sq c).running.ctx .fetch (s.sq c).pc.toNat = (.ok pa mt, s1) ∧
    s1.readView (dieOf c) (mt == 0) pa 4 = (bs, false, u) ∧ w = BitVec.ofNat 32 (ofBytes bs)

/-- The next turn is that of cluster `c`'s sequencer, its die has power, it runs a task, and it fetches `w`. -/
def seqTurn (s : State) (c : Nat) (rest : List Turn) (w : Word32) (u : State) : Prop :=
  s.agenda = .seq c :: rest ∧ s.runs (.seq c) = true ∧ ((s.beginSeq c).sq c).task.isSome = true ∧ fetches (s.beginSeq c) c w u

/-! ### A tile's unit -/

/-- The acting tile. -/
def tileHere (s : State) : Tile := (s.cl s.here).tile (s.actor.unit % 256)

/-- The acting tile's PE, running a word with fields `f`. -/
def peHere (s : State) (f : PeF) : Pe := s.peOf s.here (s.actor.unit % 256) f

/-- The operand of slot `i` of the PE's next firing, converted by its port (R154, R212). -/
def peTok (s : State) (f : PeF) (m : PeForm) (i : Nat) : Token := ((peHere s f).input m i).1

/-- The unit may send: nothing holds its tile, there is power, the outputs have room, output 0 is taken by some switch word, and
no kill waits at them. -/
def unitFree (s : State) : Prop :=
  (s.cl s.here).mayFire (s.actor.unit % 256) = true ∧ (tileHere s).lk.outRoom 0 = true ∧ (tileHere s).lk.outRoom 1 = true ∧
  (tileHere s).lk.kills = [] ∧ (tileHere s).cfgNow.heard 0 = true ∧
  1 ≤ (s.cl s.here).power.get (s.spineOf s.here (s.actor.unit % 256)) 0

/-- The unit may act: it may send, and none of its slots has ended. -/
def unitReady (s : State) (f : PeF) : Prop :=
  unitFree s ∧ ∀ i ∈ (peHere s f).slots, (tileHere s).ended i = false

/-- A word-mode PE fires in this turn (R211): the unit may act, every slot that the firing uses holds its next token, and
none of them is still being framed. -/
def peFires (s : State) (f : PeF) (m : PeForm) : Prop :=
  unitReady s f ∧ m.used ≠ [] ∧
  ∀ i ∈ m.used, ((peHere s f).head m i).isSome = true ∧ (m.converts i = true → (peHere s f).frame i = none)

/-- A token as its receiver computes with it: without its place in a kill unit (R106) and the accesses it descends from (R293). -/
def plainTok (t : Token) : Token := { t with nseq := 0, last := false, prov := 0 }

/-- The tokens in an output register of the acting tile. -/
def outToks (s : State) (o : Nat) : List Token := ((tileHere s).lk.out (4 + o)).map (fun e => plainTok e.tok)

/-- The step fires the acting unit, which sends `ts` on output 0 and keeps its MT contents. -/
def firesTo (i : Instr) (s : State) (ts : List Token) : Prop :=
  leaves i s (fun u => u.here = s.here ∧ outToks u 0 = ts ∧ (tileHere u).fidx = ((tileHere s).fidx + 1) % 2 ^ 32 ∧
    (tileHere u).mt = (tileHere s).mt ∧ (tileHere u).fg = (tileHere s).fg ∧ u.mem = s.mem)

/-- An exact integer result as TYPE holds it: wrapped, or clamped where MOD is not 0 (R215). -/
def fitted (p : Pe) (e : Int) : Nat :=
  if p.mod = 0 then wrapNat e p.width
  else wrapNat (max (if p.sgn then -(2 ^ (p.width - 1) : Int) else 0)
    (min e (if p.sgn then (2 ^ (p.width - 1) : Int) - 1 else (2 ^ p.width : Int) - 1))) p.width

/-- A lane of results, one for each element of TYPE. -/
def perElem (p : Pe) (h : Nat → Nat) : Nat := laneOf p.ty ((List.range (tagCount p.ty)).map h)

/-- A lane as an operation that does not round sends it: under SUBOUT a subnormal element is the zero of its sign (R128). -/
def flushed (p : Pe) (x : Nat) : Nat :=
  match tagKind p.ty with
  | .flt F => perElem p (fun j =>
      let v := F.decode (elem p.ty x j) false
      if p.pol.subout && v.isFin && !v.isZero && (F.decode (elem p.ty x j) true).isZero then F.signBit v.neg else elem p.ty x j)
  | _ => x

/-- Element `j` of lane `i` of a token, as bits. -/
def el (p : Pe) (t : Token) (i j : Nat) : Nat := elem p.ty (t.lane i) j

/-! ### A memory tile's word -/

/-- The tokens at the heads of the word's slots. -/
def mtToks (s : State) (f : MtF) : List Token :=
  (mtSlots f).map (fun i => ((tileHere s).lk.peekSlot i (tileHere s).cfgNow.cfg).getD {})

/-- The word may act (R91, R203): nothing holds its tile, every slot holds a token and none has ended, there is power, the
outputs have room and the word's output is taken by some switch word, and no kill waits at them. -/
def mtFires (s : State) (f : MtF) : Prop :=
  (s.cl s.here).mayFire (s.actor.unit % 256) = true ∧ mtSlots f ≠ [] ∧
  (∀ i ∈ mtSlots f, (tileHere s).ended i = false ∧ ((tileHere s).lk.peekSlot i (tileHere s).cfgNow.cfg).isSome = true) ∧
  (tileHere s).lk.outRoom 0 = true ∧ (tileHere s).lk.outRoom 1 = true ∧ (tileHere s).lk.kills = [] ∧
  (tileHere s).cfgNow.heard (mtOutNo f) = true ∧ 1 ≤ (s.cl s.here).power.get (s.spineOf s.here (s.actor.unit % 256)) 0

/-- The firing's consumption of counted tokens does not end the residency (R110, R111). -/
def staysResident (s : State) (toks : List Token) : Prop :=
  ∀ r, (s.cl s.here).tileOwner (s.actor.unit % 256) = some r →
    let x := (s.cl s.here).resident r
    let n := (tileHere s).lk.kept + (toks.map (fun t => b2n t.cns)).sum
    n = 0 ∨ x.census = 0 ∨ n < x.census ∨ x.csat = true

/-- Word `n` of the acting MT. -/
def mtWord (s : State) (n : Nat) : Nat := mtGet (tileHere s).mt n

/-- Lane `l` acts: valid in every slot, not poisoned, and its index maps into the region (R203). -/
def mtLane (s : State) (f : MtF) (idx : Nat → Nat) (l : Nat) : Bool :=
  (mtValid (mtToks s f)).getLsbD l && !(mtPoison (mtToks s f)).getLsbD l && decide (idx (opLane (mtToks s f) 0 l) < mtSize f)

/-- The acting lanes below lane `n` whose index maps to region word `w`. -/
def mtLanesAt (s : State) (f : MtF) (idx : Nat → Nat) (n w : Nat) : List Nat :=
  (List.range n).filter (fun l => mtLane s f idx l && idx (opLane (mtToks s f) 0 l) == w)

/-- The word's output lanes: those that act, and the poisoned ones. -/
def mtOutLanes (s : State) (f : MtF) (idx : Nat → Nat) : BitVec 16 := maskOf (mtLane s f idx) ||| mtPoison (mtToks s f)

/-- The marker of R156 for the tokens of the firing. -/
def mtMark (s : State) (f : MtF) : Mk := (strongest ((mtToks s f).map Token.mark)).kept f.mkb.toNat

/-! ### A digit-mode PE -/

/-- A digit PE may act on the numbers at hand (R241): every data slot's head is a number that has ended, the predicate token has
been popped where P is enabled, no segment's result is being sent, and the output may take a token. -/
def digReady (s : State) (f : PeF) (data : List Nat) : Prop :=
  let p := peHere s f
  unitReady s f ∧ 2 ≤ (s.cl s.here).power.get (s.spineOf s.here (s.actor.unit % 256)) 0 ∧ p.t.op.closing = none ∧
  (∀ i ∈ data.filter p.en, ∃ n, p.num i = some n ∧ n.fin = true) ∧ (p.en 3 = true → p.t.op.pred.isSome = true)

/-- What a digit operation's slot `i` brings in lane `l`. -/
def digPart (s : State) (f : PeF) (d : DigOp) (l i : Nat) : Part := (peHere s f).part d l i

/-- The lanes of the number at hand: poisoned lanes take part as the zeros they carry (R464). -/
def digLive (s : State) (f : PeF) (d : DigOp) : BitVec 16 := (peHere s f).numValid ((peHere s f).dataSlots d)

/-- What has been decided of lane `l` of the number at hand (R146, R250). -/
def digKept (s : State) (l : Nat) : Option LaneRes := ((tileHere s).op.picks.find l).map LaneRes.ofPick

/-- The step sends the number's header on output 0. -/
def digHeads (i : Instr) (s : State) (f : PeF) (d : DigOp) (bits : Nat → Nat) : Prop :=
  firesTo i s (tokensOf tagDhdr (digLive s f d) ((peHere s f).numPoison ((peHere s f).dataSlots d)) bits .none)

/-- The step sends a DIGITS token of the number on output 0, in the lanes of its header. -/
def digSends (i : Instr) (s : State) (f : PeF) (d : DigOp) (bits : Nat → Nat) (m : Mk) : Prop :=
  firesTo i s (tokensOf tagDigits (digLive s f d &&& (tileHere s).op.decided)
    ((peHere s f).numPoison ((peHere s f).dataSlots d) &&& (tileHere s).op.decided) bits m)

/-- The marker on the last DIGITS token (R241), and on no other. -/
def digMark (s : State) (f : PeF) (d : DigOp) : Mk :=
  if (tileHere s).op.sent + 1 = (peHere s f).count then (peHere s f).numMark ((peHere s f).dataSlots d) else .none

/-! ### An address generator -/

/-- The acting AG. -/
def agNo (s : State) : Nat := (s.actor.unit - 256) % 32
def agHere (s : State) : Ag := (s.cl s.here).ag (agNo s)
def agEnvHere (s : State) (op : Nat) (f : AgF) : AgEnv := s.agEnv s.here (agNo s) op f

/-- The AG may act on a round (R190): it is configured and not held, has nothing to hand over, and there is power. -/
def agReady (s : State) (op : Nat) (f : AgF) : Prop :=
  (agHere s).fg.isSome = true ∧ (s.cl s.here).isFrozen (256 + agNo s) = false ∧ (agHere s).stopped = false ∧
  (agHere s).lk.out 4 = [] ∧ (agHere s).lk.out 5 = [] ∧ (agHere s).lk.kills = [] ∧ (agHere s).phase = .walk ∧
  (agHere s).empty = false ∧ (agEnvHere s op f).noElems (agHere s) = false ∧ (agHere s).cur = none ∧
  1 ≤ (s.cl s.here).power.get (s.spineOf s.here (256 + agNo s)) 0

/-- The bytes of lane `j`'s element (R188). -/
def agElem (s : State) (op : Nat) (f : AgF) (j : Nat) : List Nat :=
  let e := agEnvHere s op f
  e.elemBytes (agHere s).base (e.nestOff (agHere s).cnt j) (shEsize e.shape)

/-- A lane's bytes are bytes of SCRATCH banks, which no change of mode cuts off and no older copy command is to write (R69, R76,
R79). -/
def agBanks (s : State) (e : AgEnv) (addrs : List Nat) : Prop :=
  addrs ≠ [] ∧ (∀ a ∈ addrs, isLocal a = true ∧ (s.cl s.here).stalls none 1 e.ctx (localOff a) 1 = false ∧
    (s.cl s.here).cutting (localOff a) 1 = false) ∧
  ∀ p, (s.cl s.here).agLocalRefusal (addrs.map localOff) p = none

/-- A byte of the acting AG's cluster's banks. -/
def bankByte (s : State) (va : Nat) : Byte := (s.cl s.here).sram.byte (localOff va)

/-- The value that the banks hold at a lane's bytes, and whether one of them is poisoned. -/
def bankVal (s : State) (addrs : List Nat) : Nat := ofBytes (addrs.map (bankByte s))
def bankBad (s : State) (addrs : List Nat) : Bool := addrs.any (fun a => (s.cl s.here).poisoned (localOff a) 1)

/-- The tokens that wait at output 0 of the acting AG. -/
def agToks (s : State) : List Token := ((agHere s).lk.out 4).map (fun e => plainTok e.tok)

/-- The marker that the nest gives the position at hand (R189). -/
def agMark (s : State) (last : Bool) : Mk :=
  match (nestNext (agHere s).ext (agHere s).cnt 16 5).1 with
  | none => .none
  | some 5 => if last then .eos else .eod 5
  | some k => .eod k

/-- A token's mark of its poisoned lanes among some. -/
def lanesBad (v : BitVec 16) (h : Nat → Bool) : BitVec 16 := v &&& maskOf h

/-! ### A matrix island -/

/-- The acting island. -/
def isleNo (s : State) : Nat := (s.actor.unit - 288) % 4
def isleHere (s : State) : Isle := (s.cl s.here).mat (isleNo s)

/-- The island may act on its word: it runs a program, is not held, has not stopped or ended, has no output under way and has
counted out what it popped, and there is power for a cycle. -/
def isleReady (s : State) : Prop :=
  let m := isleHere s
  m.fg.isSome = true ∧ (s.cl s.here).isFrozen (288 + isleNo s) = false ∧ m.err = 0 ∧ m.ended = false ∧ m.done = false ∧
  m.f0.fall = 0 ∧ m.f1.fall = 0 ∧ 4 ≤ (s.cl s.here).power.get (s.spineOf s.here (288 + isleNo s)) 0

/-- The word completes (R264): the next word follows, or LOOPCTL's first word after its last; past the end of the program the
island has ended and so have its output rings.  `p` says what else the word did. -/
def isleGoes (i : Instr) (s : State) (size : Nat) (p : State → Prop) : Prop :=
  leaves i s (fun u =>
    let m := isleHere s
    let w := isleHere u
    let lc := w.reg rLoopctl
    let next := if bit lc 12 = true ∧ m.ipc = fld lc 11 6 then fld lc 5 0 else m.ipc + size
    u.here = s.here ∧ u.mem = s.mem ∧ w.err = 0 ∧ w.done = false ∧ w.cyc = 0 ∧ w.fg = m.fg ∧
    (next < m.prog.length → w.ipc = next ∧ w.ended = false) ∧
    (m.prog.length ≤ next → w.ended = true ∧ ∀ r ∈ m.outRings, ((u.cl u.here).ring r).ended = true) ∧ p u)

/-- The word's last cycle of `n` is due: the one that has its effect (R265, R267). -/
def isleLast (s : State) (n : Nat) : Prop := n ≤ (isleHere s).cyc + 1

/-- A cycle of work before the last one: it is counted and paid for, and nothing else of the island or memory changes. -/
def isleWorks (i : Instr) (s : State) : Prop :=
  leaves i s (fun u => u.here = s.here ∧ u.mem = s.mem ∧ isleHere u = { isleHere s with cyc := (isleHere s).cyc + 1 } ∧
    (u.cl u.here).sram = (s.cl s.here).sram ∧
    (u.cl u.here).power.get (u.spineOf u.here (288 + isleNo u)) 0 + 4 =
      (s.cl s.here).power.get (s.spineOf s.here (288 + isleNo s)) 0)

/-- The island stops with an error (R260); where that ends a gang's member (R412), its report changes memory (R363). -/
def isleStops (i : Instr) (s : State) (err : Nat) : Prop :=
  leaves i s (fun u => (isleHere u).err = err ∧ (isleHere u).acc = (isleHere s).acc ∧ (isleHere u).ipc = (isleHere s).ipc ∧
    ((∀ r, (s.cl s.here).isleOwner (isleNo s) = some r → ((s.cl s.here).resident r).gang = none) → u.mem = s.mem))

/-- A ring that the word reads `need` bytes of: enabled, the island's, with slots wide enough and one of them full (R83, R260). -/
def ringFull (s : State) (r need : Nat) : Prop :=
  let x := (s.cl s.here).ring r
  x.en = true ∧ bit x.cmask (isleNo s) = true ∧ need ≤ x.slotBytes ∧ x.canFire (isleNo s) = true

/-- A ring that the word may push into: enabled, and not read by the island. -/
def ringOpen (s : State) (r : Nat) : Prop :=
  ((s.cl s.here).ring r).en = true ∧ bit ((s.cl s.here).ring r).cmask (isleNo s) = false

/-- The island has read one more slot of the ring (R83). -/
def ringRead (s u : State) (r : Nat) : Prop :=
  let x := ((s.cl s.here).ring r).retire (isleNo s)
  let y := (u.cl u.here).ring r
  y.ahead = x.ahead ∧ y.head = x.head ∧ y.fill = x.fill

/-- The operand in the next slot of a ring. -/
def operandHere (s : State) (r code kt : Nat) : Operand :=
  operandOf code kt ((s.cl s.here).slotBytes (isleNo s) r (operandBytes code kt))

/-- What MQK leaves of a tile with the query rows `q` and the keys `k` (R263, R272, R273). -/
def scored (s u : State) (af bf : Nat) (q k : Operand) (absent : Nat → Bool) : Prop :=
  let m := isleHere s
  let w := isleHere u
  let p := m.tensor af bf
  w.kc = (m.kc + 32) % 2 ^ 32 ∧ w.acc = m.acc ∧ w.l = m.l ∧ w.m = m.m ∧
  (∀ r n, r < 32 → n < 32 → w.masked r n = (decide (m.rows ≤ r) || absent n || decide (m.reg rKlen ≤ m.kc + n) ||
    (bit (m.reg rQpos) 32 && decide (fld (m.reg rQpos) 31 0 + r % m.tokens < m.kc + n)))) ∧
  (w.skip = true → w.deadcnt = (m.deadcnt + 1) % 2 ^ 32 ∧ w.score = m.score) ∧
  (w.skip = (w.deadPlane q k (p.map MRes.val)).isSome) ∧
  (w.skip = false → w.deadcnt = m.deadcnt ∧ ∀ r n, r < m.rows → n < 32 →
    let x := (accumF q k r n (m.reg rKtile) 0).val
    w.score.get (32 * r + n) 0 = match p with
      | none => x
      | some p => (toAccf (rndMul (accfVal x) p.val).val).val)

/-- The cells of row `r` of a table of 32 columns. -/
def rowOf (t : Tab Nat) (r : Nat) : List Nat := (List.range 32).map (fun n => t.get (32 * r + n) 0)

/-- A tile's row is as it was. -/
def sameRow (m w : Isle) (r : Nat) : Prop :=
  w.maxOf r = m.maxOf r ∧ w.denOf r = m.denOf r ∧ rowOf w.acc r = rowOf m.acc r ∧ rowOf w.prob r = rowOf m.prob r

/-- A word's output is under way: these bytes, in pieces of at most 512 (R83, R270). -/
def isleSends (i : Instr) (s : State) (ring : Nat) (bs : List Byte) (p : State → Prop) : Prop :=
  leaves i s (fun u =>
    let w := isleHere u
    u.here = s.here ∧ u.mem = s.mem ∧ w.err = 0 ∧ w.done = true ∧ w.ipc = (isleHere s).ipc ∧ w.pushRing = ring ∧
    w.pushing.flatten = bs ∧ (∀ x ∈ w.pushing, x ≠ [] ∧ x.length ≤ 512) ∧ p u)

/-! ### A praline's command -/

/-- Praline `p` of the acting die, awake and ready, has the command `y` at the head of slot `i`'s queue in cluster `c`. -/
def pralineHas (s : State) (p c i : Nat) (y : PCmd) (rest : List PEnt) : Prop :=
  s.slotOf s.hereDie p = some (c, i) ∧ ((s.cl c).lslot i).q = .cmd y :: rest ∧ ((s.die s.hereDie).praline p).ready = true

/-- The command at the head is now `y`. -/
def pralineLeaves (i : Instr) (s : State) (c slot : Nat) (rest : List PEnt) (p : State → PCmd → Prop) : Prop :=
  leaves i s (fun u => ∃ y, ((u.cl c).lslot slot).q = .cmd y :: rest ∧ p u y)

/-- The command stops with a status and writes nothing more. -/
def pralineStops (i : Instr) (s : State) (c slot : Nat) (rest : List PEnt) (y : PCmd) (m : Mem) (status : Nat) : Prop :=
  pralineLeaves i s c slot rest (fun u z => u.mem = m ∧ z.finished = true ∧ z.status = status ∧ z.units = y.units ∧ z.dpos = y.dpos)

/-- The command's next unit writes `out` at `va`, where its destination translates, and is counted. -/
def pralineUnit (i : Instr) (s s1 : State) (p c slot : Nat) (rest : List PEnt) (y : PCmd) (va : Nat) (out : List Byte) (bad : Bool)
    (spos : Nat) : Prop :=
  (∀ s2, s1.unitWrite (whoPraline s.hereDie p) y.ctx va out bad = (none, s2) →
    pralineLeaves i s c slot rest (fun u z => u.mem = s2.mem ∧ u.poison = s2.poison ∧ z.desc = y.desc ∧ z.units = y.units + 1 ∧
      z.dpos = y.dpos + out.length ∧ z.spos = spos ∧ z.poisoned = (y.poisoned || bad) ∧
      z.finished = z.allDone ∧ (z.finished = true → z.status = if z.poisoned then 0x20 else 0))) ∧
  (∀ s2 f, s1.unitWrite (whoPraline s.hereDie p) y.ctx va out bad = (some f, s2) →
    pralineStops i s c slot rest y s2.mem f.code)

/-! ### A firmware command -/

/-- The management instructions with their opcodes (R434). -/
def fwOps : List (Instr × Nat) :=
  [(.identify, 1), (.features, 2), (.ctxCreate, 3), (.ctxDestroy, 4), (.map, 5), (.unmap, 6), (.amberCfg, 7), (.powerCfg, 8),
   (.attest, 9), (.lifelogRead, 10), (.resetDie, 11), (.fwUpdate, 12)]

/-- The command `c` is at the head of the doorbells, no MAP is under way, and its block holds `b`; `s1` is the state once the block
is read and the doorbell served. -/
def fwHead (s s1 : State) (c : FwCmd) (b : List Byte) : Prop :=
  ∃ rest s2, s.pkg.fwq = c :: rest ∧ s.pkg.mapping = none ∧ s.fwRead c 0 256 = (some b, s2) ∧
    s1 = s2.setPkg { s2.pkg with fwq := rest }

/-- It is a well-formed command of opcode `opc` that its mailbox may send (R433, R434). -/
def fwAsks (s s1 : State) (c : FwCmd) (b : List Byte) (opc : Nat) : Prop :=
  fwHead s s1 c b ∧ fwOpc (ofBytes (b.take 16)) = opc ∧ fwAllowed opc c.mbx = some true ∧ fwHeadBad (ofBytes (b.take 16)) = false

/-- The command ends with a status (R433): its mailbox is free again and shows it, and its count has risen. -/
def fwEnds (i : Instr) (s : State) (c : FwCmd) (status : Nat) (p : State → Prop) : Prop :=
  leaves i s (fun u => (u.mailbox c.mbx).busy = false ∧ (u.mailbox c.mbx).status = status ∧
    (u.mailbox c.mbx).done = ((s.mailbox c.mbx).done + 1) % 2 ^ 32 ∧ p u)

/-- The block of a command that names physical addresses lies in plain memory (R432). -/
def fwPlain (c : FwCmd) : Prop :=
  c.virt = false ∧ c.addr % 256 = 0 ∧ ((inH c.addr = true ∧ inH (c.addr + 256) = true) ∨ (inC c.addr = true ∧ inC (c.addr + 256) = true))

/-- What is well formed in CTX_CREATE without keys or a restore. -/
def freshCtx (s : State) (y : CtxPar) : Prop :=
  y.keys = [] ∧ y.restoreVa = 0 ∧ (s.ctx y.ctx).live = false ∧ rightsUnsupported y.rights s.pkg.features = false

end Sys2Proof
end

