-- ==== Sys2Proof/Certificates/Slice0/Obligations.lean ====
section
/-! DEFINITION. The statements: one per rule or group of rules of the spec. -/

open Sys2Proof Sys2Proof.Machine

/-! ### The whole machine -/

/-- R310 to R312, R153, R160, R162, R165, R166: in every encoding space, the decoder reads back the words that the
encoder writes for a well-formed instruction, whatever its operands, and leaves the words after them. -/
def Obligations.EncodingRoundTrip : Prop :=
  ∀ (i : Instr) (rest : List Word32), i.wellFormed = true → encode i ≠ [] →
    ∃ sp : Space, decode sp (encode i ++ rest) = .ok (i, rest)

/-- R310 to R313, R154, R157, R158: no bit of a word is ignored: what a decoder accepts is the encoding of a well-
formed instruction, and that instruction is the one it answers. -/
def Obligations.DecodingExact : Prop :=
  ∀ (sp : Space) (ws rest : List Word32) (i : Instr), decode sp ws = .ok (i, rest) → i.wellFormed = true ∧ ws = encode i ++ rest

/-- R313, R396, R428 and the encodings that the instruction chapters write out: words of every space and the
instructions they are. -/
def Obligations.DecodeWords : Prop :=
  decodeSeq 0x00310501#32 = .ok (.add 3 4 5) ∧
  decodeSeq 0x606140A6#32 = .ok (.ld 6 5 2 .w .acq .dev) ∧
  decodeSeq 0x6C00000E#32 = .ok (.fence .sc .dev) ∧
  decodeSeq 0x8C700001#32 = .ok (.mfs 7 1) ∧
  decodeSeq 0x84000000#32 = .ok .tend ∧
  decodeSeq 0x8051870B#32 = .ok (.boost 5 6 7) ∧
  decodeSeq 0x8041460D#32 = .ok (.xcmd 4 5 6) ∧
  decodeSeq 0x00310500#32 = .error .unallocated ∧
  decodeSeq 0x2C000000#32 = .error .unallocated ∧
  decodeSeq 0x00000000#32 = .error .unallocated ∧
  decodePe 0x28001003#32 = .ok (.fadd ⟨0, 0, 1, 0, 0, 0, 3⟩) ∧
  decodePe 0x38003011#32 = .ok (.red ⟨0, 0, 3, 0, 0, 1, 1⟩) ∧
  decodePe 0x40052011#32 = .ok (.packb ⟨0, 5, 2, 0, 0, 1, 1⟩) ∧
  decodePe 0x8000B303#32 = .ok (.dadd ⟨0, 0, 11, 3, 0, 0, 3⟩) ∧
  decodePe 0x98A07001#32 = .ok (.dcmpk ⟨5, 0, 7, 0, 0, 0, 1⟩) ∧
  decodeMt 0x40007001#32 = .ok (.mttas ⟨0, 7, 0, false, 0, 1⟩) ∧
  decodeAg 0x20000003#32 = .ok (.agst ⟨.cl, 0, false, false, 0, 0, 0, 0, 0, 3⟩) ∧
  decodeIsland [0x000C8C00#32] = .ok (.mma 0 3 2 3 false, []) ∧
  decodeIsland [0x04000000#32] = .ok (.mzero, [])

/-- R313, R314, R317: a sequencer that fetches a word executes the instruction that the decoder reads from it, in the
state that the fetch leaves, once the pending loads whose registers it may name have been performed (R286), or all of
them where it does more than compute, links through s62 or can trap; a word without a meaning takes the ILLEGAL trap
with TRAPVAL the word, once every pending load has completed (R314), before it changes anything. The end of a turn
leaves what the instruction left: only the agenda and the actor are the step's own, the words of unanswered accesses
(R15) read as before, and writes that the turn's engine has made to device registers (R14) take effect.  R91, R150,
R160, R162, R165, R168: a fabric unit whose turn it is executes the word that stands in it, and a step that no word
encodes is executed as it stands; the turn is then over. R286: a store buffer and a pending load have turns of their
own.  What the rules leave open here is the model's choice: log entries 6, 7 and 24. -/
def Obligations.StepRuns : Prop :=
  (∀ (s u : State) (c : Nat) (rest : List Turn) (w : Word32), seqTurn s c rest w u →
    (∀ i, decodeSeq w = .ok i → step s = s.finish rest (exec i (u.settleFor c i.word))) ∧
    (∀ i, decodeSeq w = .ok i → (u.sq c).loads = [] → step s = s.finish rest (exec i u)) ∧
    (∀ e v, decodeSeq w = .error e → v = u.settleLoads c → hasHandler v →
      step s = s.finish rest (.next (trapped v 1 (w.setWidth 64) (seqHere v).pc))) ∧
    (∀ t : State, t.devq = [] → s.finish rest (.next t) = .next { t with armed := [], agenda := rest, actor := s.actor })) ∧
  (∀ (s : State) (rest : List Turn),
    (∀ (c u : Nat) (i : Instr), s.agenda = .fire c u :: rest → s.isDown (dieOf c) = false →
      State.unitInstr ((s.atUnit c u).arm (s.atUnit c u).actor) c u = some i →
      step s = s.finish rest (exec i ((s.atUnit c u).arm (s.atUnit c u).actor))) ∧
    (∀ (a : Actor) (i : Instr), s.agenda = .event a i :: rest → encode i = [] → opensAt a i ≤ s.pkg.startup → s.isDown a.die = false →
      accesses i = true →
      step s = s.finish rest (exec i ({ s with actor := a }.arm a))) ∧
    (∀ (c k : Nat), s.agenda = .drain c k :: rest → s.isDown (dieOf c) = false →
      step s = .next { s.drain c k with agenda := rest }) ∧
    (∀ (c k : Nat), s.agenda = .perform c k :: rest → s.isDown (dieOf c) = false →
      step s = .next { s.performNth c k with agenda := rest }) ∧
    (∀ c : Nat, s.agenda = .issue c :: rest → s.isDown (dieOf c) = false → step s = s.finish rest (.next (issueSeq c s))))

/-- R75 (the banks), R18 (no context has a root), R353, R369, R437 and the reset columns of the register tables: the
machine after reset.  What the rules leave open here is the model's choice: log entries 1 and 8. -/
def Obligations.ResetState : Prop :=
  let s := State.reset
  MemInv s ∧ (∀ a, s.mem.byte a = 0) ∧ s.poison = [] ∧
  (∀ x, (s.ctx x).live = false ∧ (s.ctx x).root = none) ∧
  (∀ c, (s.sq c).task = none ∧ (s.sq c).inTrap = false ∧ (s.sq c).tvec = 0 ∧ (s.sq c).brkpc = 0 ∧ (s.sq c).sbuf = []) ∧
  (∀ c b, (s.cl c).mode b = 0 ∧ (∀ o, (s.cl c).sram.byte o = 0) ∧ (s.cl c).sramPoison = []) ∧
  (∀ c x, ((s.cl c).resids.get x {}).live = false) ∧ (∀ c q, ((s.cl c).cq q).ents = []) ∧
  (∀ d, (s.die d).launches = [] ∧ (s.die d).gangs = [] ∧ (s.die d).leaseQ = [] ∧ (s.die d).keys = []) ∧
  s.pkg.boosts = [] ∧ s.agenda = []

/-- R10: every step keeps the memory's canonical form: addresses rising, and no entry equal to what an unlisted
address reads.  What the rules leave open here is the model's choice: log entry 1. -/
def Obligations.MemoryCanonical : Prop :=
  ∀ s t : State, MemInv s → step s = .next t → MemInv t

/-- R75, R462: every step keeps the canonical form of every cluster's banks, and that of the banks that a save has
copied; and the form holds at reset. -/
def Obligations.BanksCanonical : Prop :=
  BankInv State.reset ∧ ∀ s t : State, BankInv s → step s = .next t → BankInv t

/-- R10, R291: no step is refused, and a step stops only at a host access to an address that no memory or device
populates.  R10, R322, R255, R256, R346, R350 to R352, and the rules of chapters 17 to 21: forms that complete, each
under the conditions of its own rule alone: a load whose address, alignment and translation pass its checks; DRACE and
DACC on a number that has ended; an iteration claim of a residency whose item AG has room, at a readable record; the
teardown of an ended tile; a residency move that an eligible launch needs; a firmware command whose mailbox may send
it; and, in every state, the steps of the launch unit, host queues, leases, pralines, power, heat, pre-emption,
exchange engines and the package; what each of them leaves is stated with its rule. -/
def Obligations.StepsGoOn : Prop :=
  ((∀ (i : Instr) (s : State) (f : Fault), exec i s = .fault f →
    ∃ (write : Bool) (pa : BitVec 48) (len data n : Nat), i = .hostMemoryAccess write pa len data ∧ n < len ∧
      f = .noSuchAddress (pa.toNat + n) ∧ populated (pa.toNat + n) = false) ∧
  (∀ (i : Instr) (s : State) (r : Refusal), exec i s ≠ .refused r) ∧
  (∀ (s : State) (r : Refusal), step s ≠ .refused r)) ∧
  (∀ (s s1 : State),
    let c := s.here
    let k := s.cl c
    (∀ d a off z o sc t, plainReg d → plainReg a → passes s (memAddr s a off z) (sizeBytes z) .read t s1 →
      ∃ u, exec (.ld d a off z o sc) s = .next u) ∧
    (∀ f : PeF, digReady s f [0] → (peHere s f).en 0 = true →
      (∃ u, exec (.dacc f) s = .next u) ∧ ((tileHere s).op.idTok.isSome = true → ∃ u, exec (.drace f) s = .next u)) ∧
    (∀ (slot : BitVec 4) (a pa mt : Nat),
      let x := k.resident slot.toNat
      let g := k.ag a
      x.itemAg = some a → x.live = true → x.frozen = false → x.iterva ≠ 0 → x.claimsDone = false → g.fg.isSome = true →
      g.stopped = false → 3 ∉ g.lk.slotEos → (∀ p ∈ g.params, p.2 = false) → g.params.length < 4 →
      s.translate c (dieOf c) c x.ctx .atomic x.iterva.toNat = (.ok pa mt, s1) → s1.poisonedAt pa = false →
      ∃ u, exec (.iterationClaim slot) s = .next u) ∧
    (∀ r, s.actor.unit < 256 → k.tileOwner s.actor.unit = some r → k.isFrozen s.actor.unit = false →
      ((k.tile s.actor.unit).unitEnded = true ∧ (k.tile s.actor.unit).switchesEnded = true) →
      ∃ u, exec .tileTeardown s = .next u) ∧
    (∀ slot page : BitVec 4, s.nextMove c = some (slot.toNat, page.toNat) → ∃ u, exec (.residencyMove slot page) s = .next u) ∧
    (∀ (m : FwCmd) (b : List Byte), ∀ e ∈ [(1, Instr.identify), (2, .features), (3, .ctxCreate), (4, .ctxDestroy), (5, .map), (6, .unmap),
        (7, .amberCfg), (8, .powerCfg), (9, .attest), (10, .lifelogRead), (11, .resetDie), (12, .fwUpdate)],
      fwAsks s s1 m b e.1 → ∃ u, exec e.2 s = .next u) ∧
    (∀ (n : BitVec 32) (q : BitVec 4) (v origin : BitVec 64) (link : BitVec 5) (acc : PeerAccess) (pk : BitVec 512) (pa : BitVec 48), ∀ i ∈ [Instr.launchEligible n,
        .launchAgeing n, .launchBlocking n, .launchAdmission, .hqctl q v, .hqmirror q v, .hostQueueTail q, .linkLaunchSlot origin pk,
        .linkAccessRefused link acc, .registerWrite pa v, .keepaliveLoss link, .recalibration link, .laneRetrain link],
      ∃ u, exec i s = .next u) ∧
    (∀ p : BitVec 6, ∀ i ∈ [Instr.leaseArbitration, .leaseEviction p, .pralineReady p, .pralineIdleSleep p, .lingerExpiry p, .czip p, .cunz p,
        .topk p, .ksort p, .genc p, .gdec p, .hsha p, .hchain p, .pralineComplete p, .powerInterval p, .boostSpineSwitch, .boostNoticeEnd p,
        .boostExpiry p, .deadlineExpiry p, .contextSaveComplete p, .tripMark, .emergencySaveTimeout, .hbmSelfRefresh, .railRemoval,
        .dieRepower, .mapComplete, .powerUp, .powerLoss, .wearLevelling, .telemetrySample, .lifelogRewrite],
      ∃ u, exec i s = .next u) ∧
    (∀ (sp : BitVec 3) (f : BitVec 12) (w : BitVec 16) (v : BitVec 64) (tj vfi depth cl y : BitVec 8) (off : BitVec 24) (e : BitVec 1) (q n : BitVec 2)
        (x : BitVec 6) (len data : Nat), ∀ i ∈ [Instr.spineChange sp f, .supplyLimit w, .pstall v, .thermalSample tj, .voltageDroop vfi depth,
        .sramScrub cl off, .tileFlagWrite y v, .islandStatusWrite n sp v, .a2a e q, .put e q, .get e q, .sig e q, .exchangeComplete e q,
        .remoteExchangeRequest x n v len data],
      ∃ u, exec i s = .next u) ∧
    (∀ (w : Bool) (pa : BitVec 48) (len data : Nat), (∀ j, j < len → populated (pa.toNat + j) = true) →
      ∃ u, exec (.hostMemoryAccess w pa len data) s = .next u))

/-! ### The sequencer -/

/-- R318: the operations of two registers that add, multiply, combine or shift, on plain registers: the destination
receives the value, the pc advances, nothing else changes.  R318: MULH is the upper half of the exact 128-bit signed
product.  R318: division and remainder, with their results for a zero divisor and for −2^63 divided by −1.  R318:
comparisons, minima and maxima, signed and unsigned.  R318: CLZ counts the leading zero bits, POPC the one bits.
Forms said to complete, under the conditions shown: add, sub, mul, and, or, xor, shl, shr, sha, mulh, div, divu, rem,
min, max, minu, maxu, slt, sltu, ceq, clz, popc. -/
def Obligations.IntegerOperations : Prop :=
  (∀ (s : State) (d a b : Reg), plainReg d → plainReg a → plainReg b →
    exec (.add d a b) s = .next (wroteReg s d (srcVal s a + srcVal s b)) ∧
    exec (.sub d a b) s = .next (wroteReg s d (srcVal s a - srcVal s b)) ∧
    exec (.mul d a b) s = .next (wroteReg s d (srcVal s a * srcVal s b)) ∧
    exec (.and d a b) s = .next (wroteReg s d (srcVal s a &&& srcVal s b)) ∧
    exec (.or d a b) s = .next (wroteReg s d (srcVal s a ||| srcVal s b)) ∧
    exec (.xor d a b) s = .next (wroteReg s d (srcVal s a ^^^ srcVal s b)) ∧
    exec (.shl d a b) s = .next (wroteReg s d (srcVal s a <<< ((srcVal s b).toNat % 64))) ∧
    exec (.shr d a b) s = .next (wroteReg s d (srcVal s a >>> ((srcVal s b).toNat % 64))) ∧
    exec (.sha d a b) s = .next (wroteReg s d ((srcVal s a).sshiftRight ((srcVal s b).toNat % 64)))) ∧
  (∀ (s : State) (d a b : Reg), plainReg d → plainReg a → plainReg b →
    exec (.mulh d a b) s =
      .next (wroteReg s d (((srcVal s a).signExtend 128 * (srcVal s b).signExtend 128).extractLsb' 64 64))) ∧
  (∀ (s : State) (d a b : Reg), plainReg d → plainReg a → plainReg b →
    let x := srcVal s a
    let y := srcVal s b
    (y = 0 →
      exec (.div d a b) s = .next (wroteReg s d 0xFFFFFFFFFFFFFFFF) ∧
      exec (.divu d a b) s = .next (wroteReg s d 0xFFFFFFFFFFFFFFFF) ∧
      exec (.rem d a b) s = .next (wroteReg s d x)) ∧
    (x = 0x8000000000000000 → y = 0xFFFFFFFFFFFFFFFF →
      exec (.div d a b) s = .next (wroteReg s d x) ∧
      exec (.rem d a b) s = .next (wroteReg s d 0)) ∧
    (y ≠ 0 → ¬ (x = 0x8000000000000000 ∧ y = 0xFFFFFFFFFFFFFFFF) →
      exec (.div d a b) s = .next (wroteReg s d (BitVec.ofInt 64 (x.toInt.tdiv y.toInt))) ∧
      exec (.rem d a b) s = .next (wroteReg s d (BitVec.ofInt 64 (x.toInt.tmod y.toInt)))) ∧
    (y ≠ 0 → exec (.divu d a b) s = .next (wroteReg s d (BitVec.ofNat 64 (x.toNat / y.toNat))))) ∧
  (∀ (s : State) (d a b : Reg), plainReg d → plainReg a → plainReg b →
    let x := srcVal s a
    let y := srcVal s b
    exec (.min d a b) s = .next (wroteReg s d (if x.toInt ≤ y.toInt then x else y)) ∧
    exec (.max d a b) s = .next (wroteReg s d (if x.toInt ≤ y.toInt then y else x)) ∧
    exec (.minu d a b) s = .next (wroteReg s d (if x.toNat ≤ y.toNat then x else y)) ∧
    exec (.maxu d a b) s = .next (wroteReg s d (if x.toNat ≤ y.toNat then y else x)) ∧
    exec (.slt d a b) s = .next (wroteReg s d (if x.toInt < y.toInt then 1 else 0)) ∧
    exec (.sltu d a b) s = .next (wroteReg s d (if x.toNat < y.toNat then 1 else 0)) ∧
    exec (.ceq d a b) s = .next (wroteReg s d (if x = y then 1 else 0))) ∧
  (∀ (s : State) (d a : Reg), plainReg d → plainReg a →
    (∃ n : Nat, exec (.clz d a) s = .next (wroteReg s d (BitVec.ofNat 64 n)) ∧ n ≤ 64 ∧
      (∀ i, i < n → (srcVal s a).getLsbD (63 - i) = false) ∧ (n < 64 → (srcVal s a).getLsbD (63 - n) = true)) ∧
    exec (.popc d a) s =
      .next (wroteReg s d (BitVec.ofNat 64 ((Finset.range 64).filter (fun i => (srcVal s a).getLsbD i = true)).card)))

/-- R319 (and R320): immediate operations and upper immediates; a shift immediate with imm14[13:6] not zero, which the
fetched word holds at bits 13 to 6, raises ILLEGAL.  Forms said to complete, under the conditions shown: addi, andi,
ori, xori, slti, shli, shri, shai, lui, addpc. -/
def Obligations.ImmediateOperations : Prop :=
  (∀ (s : State) (d a : Reg) (imm : BitVec 14) (n : BitVec 6) (up : BitVec 20), plainReg d → plainReg a →
    let x := srcVal s a
    let y : Word := imm.signExtend 64
    exec (.addi d a imm) s = .next (wroteReg s d (x + y)) ∧
    exec (.andi d a imm) s = .next (wroteReg s d (x &&& y)) ∧
    exec (.ori d a imm) s = .next (wroteReg s d (x ||| y)) ∧
    exec (.xori d a imm) s = .next (wroteReg s d (x ^^^ y)) ∧
    exec (.slti d a imm) s = .next (wroteReg s d (if x.toInt < y.toInt then 1 else 0)) ∧
    exec (.shli d a n) s = .next (wroteReg s d (x <<< n.toNat)) ∧
    exec (.shri d a n) s = .next (wroteReg s d (x >>> n.toNat)) ∧
    exec (.shai d a n) s = .next (wroteReg s d (x.sshiftRight n.toNat)) ∧
    exec (.lui d up) s = .next (wroteReg s d (up.signExtend 64 * 4096)) ∧
    exec (.addpc d up) s = .next (wroteReg s d ((seqHere s).pc + up.signExtend 64 * 4096))) ∧
  (∀ (s u v : State) (c : Nat) (rest : List Turn) (w : Word32), seqTurn s c rest w u → v = u.settleLoads c → hasHandler v →
    w.extractLsb' 26 6 ∈ [5, 6, 7] → w.extractLsb' 6 8 ≠ 0 →
    step s = s.finish rest (.next (trapped v 1 (w.setWidth 64) (seqHere v).pc)))

/-- R321: a branch goes to its target where its condition holds, and to the next instruction where it does not.  R321:
JAL links in s62 and jumps; JALR jumps to an aligned target and links in `d`, and traps at any other target, writing
nothing.  Forms said to complete, under the conditions shown: beq, bne, blt, bge, bltu, bgeu, jal, jalr. -/
def Obligations.BranchesAndJumps : Prop :=
  (∀ (s : State) (a b : Reg) (off : BitVec 14), plainReg a → plainReg b →
    let x := srcVal s a
    let y := srcVal s b
    let pick := fun (p : Prop) [Decidable p] =>
      wentTo s ((seqHere s).pc + (if p then off.signExtend 64 * 4 else 4))
    exec (.beq a b off) s = .next (pick (x = y)) ∧
    exec (.bne a b off) s = .next (pick (x ≠ y)) ∧
    exec (.blt a b off) s = .next (pick (x.toInt < y.toInt)) ∧
    exec (.bge a b off) s = .next (pick (y.toInt ≤ x.toInt)) ∧
    exec (.bltu a b off) s = .next (pick (x.toNat < y.toNat)) ∧
    exec (.bgeu a b off) s = .next (pick (y.toNat ≤ x.toNat))) ∧
  (∀ (s : State) (d a : Reg) (off : BitVec 26) (imm : BitVec 14), plainReg d → plainReg a →
    let pc := (seqHere s).pc
    let t := srcVal s a + imm.signExtend 64
    exec (.jal off) s = .next (wentTo (wroteReg s 62 (pc + 4)) (pc + off.signExtend 64 * 4)) ∧
    (t.toNat % 4 = 0 → exec (.jalr d a imm) s = .next (wentTo (wroteReg s d (pc + 4)) t)) ∧
    (t.toNat % 4 ≠ 0 → hasHandler s → exec (.jalr d a imm) s = .next (trapped s 2 t pc)))

/-- R302, R313, R404: a word that names s61 as a source or s60 as its destination traps as ILLEGAL, with the word in
TRAPVAL and the pc of the word in TRAPPC.  R303: a word that needs more bytes of s60 than the inbound ring can give
traps as RINGUF and pops nothing; a word that writes s61 to a ring without room traps as RINGOF and pushes nothing.
TRAPVAL names the ring, or 0xFF without one.  What the rules leave open here is the model's choice: log entry 22. -/
def Obligations.RingTraps : Prop :=
  (∀ (i : Instr) (d : Reg) (srcs : List Reg) (s : State), regForm i = some (d, srcs) → (61 ∈ srcs ∨ d = 60) → hasHandler s →
    exec i s = .next (trapped s 1 (i.word.setWidth 64) (seqHere s).pc)) ∧
  (∀ (i : Instr) (d : Reg) (srcs : List Reg) (s : State), regForm i = some (d, srcs) → 61 ∉ srcs → d ≠ 60 → hasHandler s →
    (60 ∈ srcs → (qInEn (bindingHere s) = false ∨ (inRing s).en = false ∨ (inRing s).fill < 8 * srcs.count 60) →
      exec i s = .next (trapped s 5 (if qInEn (bindingHere s) then BitVec.ofNat 64 (qInRing (bindingHere s)) else 0xFF)
        (seqHere s).pc)) ∧
    (60 ∉ srcs → d = 61 →
      (qOutEn (bindingHere s) = false ∨ (outRing s).en = false ∨ (outRing s).size < (outRing s).fill + 8) →
      exec i s = .next (trapped s 6 (if qOutEn (bindingHere s) then BitVec.ofNat 64 (qOutRing (bindingHere s)) else 0xFF)
        (seqHere s).pc)))

/-- R302, R303, R318 to R320, R322: reading s60 takes the eight oldest bytes of the inbound ring, little-endian, and
moves its head; a word that names s60 twice takes sixteen, field a first; writing s61 puts eight bytes at the tail of
the outbound ring and moves its tail. A computing word computes from what it takes as from registers, a load may push
its value, and a store may store what it takes.  Forms said to complete, under the conditions shown: ld, st.  What the
rules leave open here is the model's choice: log entry 22. -/
def Obligations.RingPopPush : Prop :=
  ∀ (s s1 : State) (d a b : Reg) (imm : BitVec 14) (k : BitVec 6) (up : BitVec 20) (off : BitVec 8) (z : Size) (o : Order) (sc : Scope)
    (tg : Target),
    let h := s.cl s.here
    let x := inRing s
    let y := outRing s
    let n := sizeBytes z
    let va := memAddr s a off z
    let same := qInRing (bindingHere s) = qOutRing (bindingHere s)
    let word := fun (j : Nat) => BitVec.ofNat 64 (ofBytes (h.ringBytes x (x.head + 8 * j) 8))
    let holds := fun (m : Nat) => qInEn (bindingHere s) = true ∧ x.en = true ∧ x.cmask = 0 ∧ 8 * m ≤ x.fill
    let pops := fun (m : Nat) => holds m ∧ h.ringPoison x x.head (8 * m) = false
    let room := qOutEn (bindingHere s) = true ∧ y.en = true ∧ y.fill + 8 ≤ y.size ∧ h.sram.wf = true
    let moved := fun (t : State) (m : Nat) => inRing t = { x with head := (x.head + 8 * m) % x.size, fill := x.fill - 8 * m }
    let took := fun (t : State) (m : Nat) => moved t m ∧ (t.cl t.here).sram = h.sram ∧ sameBesideClusters s t
    let put := fun (t : State) (y : Ring) (w : Nat) => outRing t = { y with tail := (y.tail + 8) % y.size, fill := y.fill + 8 } ∧
      (t.cl t.here).ringBytes y y.tail 8 = toBytes 8 w
    let holding := fun (v w : Word) => s.setSq s.here (((seqHere s).setReg 1 v).setReg 2 w)
    let gets := fun (i j : Instr) (v w : Word) (p : State → Prop) => ∃ t u, exec i s = .next t ∧ exec j (holding v w) = .next u ∧
      nextInstr s t (some d) ∧ srcVal t d = srcVal u d ∧ p t
    let puts := fun (i j : Instr) (v w : Word) (p : State → Nat → Prop) => ∃ t u, exec i s = .next t ∧
      exec j (holding v w) = .next u ∧ nextInstr s t none ∧ sameBesideClusters s t ∧ p t (srcVal u 3).toNat
    (∀ f ∈ opWords,
      (pops 1 → plainReg d → plainReg a → gets (f d 60 a) (f d 1 2) (word 0) (srcVal s a) (fun t => took t 1) ∧
        gets (f d a 60) (f d 1 2) (srcVal s a) (word 0) (fun t => took t 1)) ∧
      (pops 2 → plainReg d → gets (f d 60 60) (f d 1 2) (word 0) (word 1) (fun t => took t 2)) ∧
      (room → plainReg a → plainReg b → puts (f 61 a b) (f 3 1 2) (srcVal s a) (srcVal s b) (fun t w => put t y w)) ∧
      (pops 1 → room → plainReg a → puts (f 61 60 a) (f 3 1 2) (word 0) (srcVal s a) (fun t w =>
        (¬same → moved t 1 ∧ put t y w) ∧
        (same → outRing t = { y with head := (y.head + 8) % y.size, tail := (y.tail + 8) % y.size } ∧
          (t.cl t.here).ringBytes y y.tail 8 = toBytes 8 w)))) ∧
    (∀ f ∈ opWords1 imm k,
      (pops 1 → plainReg d → gets (f d 60) (f d 1) (word 0) 0 (fun t => took t 1)) ∧
      (holds 1 → h.ringPoison x x.head 8 = true → plainReg d → gets (f d 60) (f d 1) 0 0 (fun t => moved t 1)) ∧
      (room → plainReg a → puts (f 61 a) (f 3 1) (srcVal s a) 0 (fun t w => put t y w))) ∧
    (∀ f ∈ opWords0 up, room → puts (f 61) (f 3) 0 0 (fun t w => put t y w)) ∧
    (room → plainReg a → passes s va n .read tg s1 → (s1.cl s.here).sram.wf = true →
      (∀ q, tg = .bank q → localAt q n = .bank → ∃ u, exec (.ld 61 a off z o sc) s = .next u ∧ nextInstr s u none ∧
        put u y (if h.poisoned q n then 0 else ofBytes (h.sram.bytes q n))) ∧
      (∀ pa cached, tg = .mem pa cached → o ≠ .sc → ∃ u, exec (.ld 61 a off z o sc) s = .next u ∧ nextInstr s u none ∧
        let bs := (List.range n).map (fun j => s1.loadByte s.here cached (pa + j))
        put u (outRing s1) (if bs.any Prod.snd then 0 else ofBytes (bs.map Prod.fst)))) ∧
    (pops 1 → plainReg a → passes s va n .write tg s1 →
      (∀ q, tg = .bank q → localAt q n = .bank → ∃ u, exec (.st 60 a off z o sc) s = .next u ∧ nextInstr s u none ∧ moved u 1 ∧
        (u.cl u.here).sram = h.sram.setBytes q (toBytes n (word 0).toNat)) ∧
      (∀ pa cached, tg = .mem pa cached → o ≠ .sc → ∃ u, exec (.st 60 a off z o sc) s = .next u ∧ nextInstr s u none ∧ moved u 1 ∧
        (seqHere u).sbuf = (seqHere s).sbuf ++ [{ pa := pa, size := n, data := (word 0).toNat % 2 ^ (8 * n),
                                                  rel := if o = .rel then some sc else none }]))

/-- R302, R314: whatever a register word does, traps included, the registers other than its destination keep their
values, other sequencers keep theirs, and every byte of memory is as before. -/
def Obligations.RegisterFrame : Prop :=
  ∀ (i : Instr) (d : Reg) (srcs : List Reg) (s t : State), regForm i = some (d, srcs) → hasHandler s → exec i s = .next t →
    t.here = s.here ∧ (∀ r, r ≠ d → r ≠ 60 → srcVal t r = srcVal s r) ∧ srcVal t 0 = 0 ∧
    (∀ c, c ≠ s.here → t.cl c = s.cl c) ∧ (∀ a, t.mem.byte a = s.mem.byte a) ∧ t.dies = s.dies ∧ t.ctxs = s.ctxs ∧
    (seqHere t).chanmask = (seqHere s).chanmask ∧ (seqHere t).stackbase = (seqHere s).stackbase ∧
    (seqHere t).brkpc = (seqHere s).brkpc ∧ (seqHere t).tvec = (seqHere s).tvec

/-- R322: a load that passes its checks writes the value, zero-extended, to its destination: bank bytes and memory
bytes little-endian; a descriptor word as R73 lays it out; a device register where 8 bytes are read, once earlier
stores have been performed (R14), and zero where fewer are; a poisoned word reads as zero (R17, R462).  Forms said to
complete, under the conditions shown: ld.  What the rules leave open here is the model's choice: log entries 10, 13
and 17. -/
def Obligations.Loads : Prop :=
  ∀ (s s1 : State) (d a : Reg) (off : BitVec 8) (z : Size) (o : Order) (sc : Scope) (t : Target),
    plainReg d → plainReg a → passes s (memAddr s a off z) (sizeBytes z) .read t s1 →
    ∃ u v, exec (.ld d a off z o sc) s = .next u ∧ nextInstr s u (some d) ∧
      srcVal u d = (if d = 0 then 0 else BitVec.ofNat 64 v) ∧ (u.cl u.here).sram = (s1.cl s.here).sram ∧
      (∀ b, t = .bank b → localAt b (sizeBytes z) = .bank →
        v = if (s1.cl s.here).poisoned b (sizeBytes z) then 0 else ofBytes ((s1.cl s.here).sram.bytes b (sizeBytes z))) ∧
      (∀ b, t = .bank b → localAt b (sizeBytes z) ≠ .bank → v = ((s1.cl s.here).localLoad b (sizeBytes z)).1) ∧
      (∀ pa, t = .device pa → o ≠ .sc → v = if sizeBytes z = 8 then ((s1.drainAll s.here).deviceRead pa).toNat else 0) ∧
      (∀ pa cached, t = .mem pa cached → o ≠ .sc →
        u.mem = s1.mem ∧
        (let bs := (List.range (sizeBytes z)).map (fun j => s1.loadByte s.here cached (pa + j))
         v = if bs.any Prod.snd then 0 else ofBytes (bs.map Prod.fst)))

/-- R284, R286, R287, R322, for stores to banks and memory: a store to a bank is done at once; a store to memory that
is not SC waits in the sequencer's store buffer with its bytes, and memory is as before; an SC store and everything
before it stand in memory, in order.  R286: a turn of a store buffer performs one entry that no earlier entry must
precede: its bytes stand in memory, little-endian, and every other byte is as before.  Forms said to complete, under
the conditions shown: st.  What the rules leave open here is the model's choice: log entry 17. -/
def Obligations.Stores : Prop :=
  (∀ (s s1 : State) (d a : Reg) (off : BitVec 8) (z : Size) (o : Order) (sc : Scope) (t : Target),
    plainReg d → plainReg a → passes s (memAddr s a off z) (sizeBytes z) .write t s1 → (∀ pa, t ≠ .device pa) →
    ∃ u, exec (.st d a off z o sc) s = .next u ∧ nextInstr s u none ∧
      (∀ b, t = .bank b → localAt b (sizeBytes z) = .bank →
        (u.cl u.here).sram = (s1.cl s.here).sram.setBytes b (toBytes (sizeBytes z) (srcVal s d).toNat) ∧
        (o = .rlx ∨ o = .acq → (∀ e ∈ (seqHere s).sbuf, e.rel = none) → u.mem = s1.mem ∧ (seqHere u).sbuf = (seqHere s).sbuf)) ∧
      (∀ pa cached, t = .mem pa cached →
        let e : StoreEnt := { pa := pa, size := sizeBytes z, data := (srcVal s d).toNat % 2 ^ (8 * sizeBytes z),
                              rel := if o = .rel ∨ o = .sc then some sc else none }
        (u.cl u.here).sram = (s1.cl s.here).sram ∧
        (o ≠ .sc → u.mem = s1.mem ∧ (seqHere u).sbuf = (seqHere s).sbuf ++ [e]) ∧
        (o = .sc → u.mem = memAfterStores s1.mem ((seqHere s).sbuf ++ [e]) ∧ (seqHere u).sbuf = []))) ∧
  (∀ (s : State) (c k : Nat) (e : StoreEnt) (rest : List Turn), s.agenda = .drain c k :: rest → s.isDown (dieOf c) = false →
    (s.sq c).sbuf[k]? = some e → mayDrain (s.sq c).sbuf k = true → s.mem.wf = true →
    ∃ u, step s = .next u ∧ u.mem.wf = true ∧ (u.sq c).sbuf = dropIdx (s.sq c).sbuf k ∧ (u.sq c).regs = (s.sq c).regs ∧
      (∀ j, j < e.size → u.mem.byte (e.pa + j) = BitVec.ofNat 8 (e.data / 256 ^ j)) ∧
      (∀ x, (x < e.pa ∨ e.pa + e.size ≤ x) → u.mem.byte x = s.mem.byte x))

/-- R17, R76, R283, R287, R323: an atomic on memory answers the old value and writes the new one at the word's home;
every other byte is as the stores that must precede it leave it: those of its own sequencer up to the last that
touches the word or is a release, and all of them where it is itself a release. AMOCAS writes only where the old value
is the destination's. A poisoned word answers 0 and nothing is written. On a SCRATCH bank the atomic is done at the
bank.  Forms said to complete, under the conditions shown: amoswp, amoadd, amomin, amomax, amoand, amoor, amoxor,
amocas.  What the rules leave open here is the model's choice: log entry 17. -/
def Obligations.Atomics : Prop :=
  ∀ (s s1 : State) (d a b : Reg) (wide : Bool) (o : Order) (sc : Scope) (tg : Target),
    plainReg d → plainReg a → plainReg b → passes s (srcVal s a).toNat (amoBytes wide) .atomic tg s1 →
    let n := amoBytes wide
    let x := (srcVal s b).toNat % 2 ^ (8 * n)
    let all := fun (old : Nat) (gives : Instr → Nat → Prop) (keeps : Instr → Prop) =>
      gives (.amoswp d a b wide o sc) x ∧
      gives (.amoadd d a b wide o sc) ((old + x) % 2 ^ (8 * n)) ∧
      gives (.amomin d a b wide o sc) (if signed x (8 * n) < signed old (8 * n) then x else old) ∧
      gives (.amomax d a b wide o sc) (if signed old (8 * n) < signed x (8 * n) then x else old) ∧
      gives (.amoand d a b wide o sc) (old &&& x) ∧
      gives (.amoor d a b wide o sc) (old ||| x) ∧
      gives (.amoxor d a b wide o sc) (old ^^^ x) ∧
      (old = (srcVal s d).toNat % 2 ^ (8 * n) → gives (.amocas d a b wide o sc) x) ∧
      (old ≠ (srcVal s d).toNat % 2 ^ (8 * n) → keeps (.amocas d a b wide o sc))
    let none_ := fun (keeps : Instr → Prop) =>
      keeps (.amoswp d a b wide o sc) ∧ keeps (.amoadd d a b wide o sc) ∧ keeps (.amomin d a b wide o sc) ∧
      keeps (.amomax d a b wide o sc) ∧ keeps (.amoand d a b wide o sc) ∧ keeps (.amoor d a b wide o sc) ∧
      keeps (.amoxor d a b wide o sc) ∧ keeps (.amocas d a b wide o sc)
    let ends := fun (i : Instr) (old : Nat) (p : State → Prop) => ∃ u, exec i s = .next u ∧ nextInstr s u (some d) ∧
      srcVal u d = (if d = 0 then 0 else BitVec.ofNat 64 old) ∧ p u
    (∀ pa cached, tg = .mem pa cached →
      let sb := (seqHere s).sbuf
      let own := upTo sb (fun e => decide (e.pa < pa + n) && decide (pa < e.pa + e.size))
      let left := sb.drop own.length
      let first := if o = .rel ∨ o = .sc then left else upTo left (fun e => e.rel.isSome)
      let m := memAfterStores s1.mem own
      let old := ofBytes (m.bytes pa n)
      ((s1.settleOwn s.here pa n).poisonedAt pa = false → all old
        (fun i w => ends i old (fun u => u.mem = (memAfterStores m first).setBytes pa (toBytes n w) ∧ (seqHere u).sbuf = left.drop first.length))
        (fun i => ends i old (fun u => u.mem = m ∧ (seqHere u).sbuf = left))) ∧
      ((s1.settleOwn s.here pa n).poisonedAt pa = true → none_ (fun i => ends i 0 (fun u => u.mem = m ∧ (seqHere u).sbuf = left)))) ∧
    (∀ q, tg = .bank q → localAt q n = .bank →
      let h := s.cl s.here
      let old := ofBytes (h.sram.bytes q n)
      (h.poisoned q n = false → all old
        (fun i w => ends i old (fun u => (u.cl u.here).sram = h.sram.setBytes q (toBytes n w) ∧ ((seqHere s).sbuf = [] → u.mem = s.mem)))
        (fun i => ends i old (fun u => (u.cl u.here).sram = h.sram ∧ u.mem = s.mem ∧ (seqHere u).sbuf = (seqHere s).sbuf))) ∧
      (h.poisoned q n = true → none_ (fun i => ends i 0 (fun u => (u.cl u.here).sram = h.sram ∧ u.mem = s.mem ∧
        (seqHere u).sbuf = (seqHere s).sbuf))))

/-- R287, R289, R290: FENCE with REL or SC performs every earlier store, in order; with SC at DEV or SYS no
invalidation is left on its way to the die; with RLX it only goes on.  R300, R324: CFLUSH leaves no die with a copy of
the line; CINVAL changes no byte, and takes at most the copy of its own die; on a local address both only go on.
Forms said to complete, under the conditions shown: fence, cflush, cinval.  What the rules leave open here is the
model's choice: log entries 14, 16 and 17. -/
def Obligations.Fences : Prop :=
  (∀ (s : State) (o : Order) (sc : Scope),
    ∃ u, exec (.fence o sc) s = .next u ∧ nextInstr s u none ∧
      (o = .rlx → u = wentTo s ((seqHere s).pc + 4)) ∧
      (o = .acq → u.mem = s.mem ∧ (seqHere u).sbuf = (seqHere s).sbuf) ∧
      (o = .rel ∨ o = .sc → u.mem = memAfterStores s.mem (seqHere s).sbuf ∧ (seqHere u).sbuf = []) ∧
      (o = .sc → (sc = .dev ∨ sc = .sys) → ∀ v ∈ u.invals, v.die ≠ dieOf s.here)) ∧
  (∀ (s : State) (a : Reg), plainReg a →
    (isLocal (srcVal s a).toNat = true →
      exec (.cflush a) s = .next (wentTo s ((seqHere s).pc + 4)) ∧ exec (.cinval a) s = .next (wentTo s ((seqHere s).pc + 4))) ∧
    (∀ pa mt s1, isLocal (srcVal s a).toNat = false → mt ≠ 2 → (seqHere s).sbuf = [] →
      s.xlatFlush s.here (seqHere s).running.ctx (srcVal s a).toNat = (.ok pa mt, s1) →
      (∃ u, exec (.cflush a) s = .next u ∧ nextInstr s u none ∧ u.mem = s1.mem ∧ ∀ d, d < 4 → u.copyOf d (pa / 128) = none) ∧
      (∃ u, exec (.cinval a) s = .next u ∧ nextInstr s u none ∧ u.mem = s1.mem ∧
        (∀ d, d ≠ dieOf s.here → u.copyOf d (pa / 128) = s1.copyOf d (pa / 128)) ∧
        (u.copyOf (dieOf s.here) (pa / 128) = none ∨ u.copyOf (dieOf s.here) (pa / 128) = s1.copyOf (dieOf s.here) (pa / 128)))))

/-- R314, R341: TRAP with a handler saves the cause, the immediate and the address of the next instruction, and goes
to the handler.  R316, R406: a trap without a handler, or inside one, abandons the task: it ends, the trap registers
keep their values, and a task that channel 0 did not start is reported to channel 0.  Forms said to complete, under
the conditions shown: trap.  What the rules leave open here is the model's choice: log entry 25. -/
def Obligations.Traps : Prop :=
  (∀ (s : State) (imm : BitVec 14), hasHandler s →
    ∃ u, exec (.trap imm) s = .next u ∧ (seqHere u).tcause = 7 ∧ (seqHere u).tval = imm.setWidth 64 ∧
      (seqHere u).tpc = (seqHere s).pc + 4 ∧ (seqHere u).inTrap = true ∧ (seqHere u).pc = (seqHere s).tvec ∧
      (∀ r, srcVal u r = srcVal s r) ∧ (seqHere u).task = (seqHere s).task ∧ sameBesideClusters s u ∧
      (u.cl u.here).rings = (s.cl s.here).rings ∧ (u.cl u.here).chans = (s.cl s.here).chans) ∧
  (∀ (s : State) (imm : BitVec 14) (k : Task),
    ((seqHere s).inTrap = true ∨ (seqHere s).tvec = 0) → (seqHere s).task = some k → k.launch = none → k.chan ≠ 0 →
    (s.cl s.here).held = [] → s.chanRoom s.here 0 = true → s.savedCtx s.here 0 = none →
    ∃ u, exec (.trap imm) s = .next u ∧ (seqHere u).task = none ∧ (seqHere u).tcause = (seqHere s).tcause ∧
      (seqHere u).tpc = (seqHere s).tpc ∧ (seqHere u).tval = (seqHere s).tval ∧
      (u.chan s.here 0).queue = (s.chan s.here 0).queue ++
        [{ msg := { w0 := 7 ||| (1#64 <<< 62), w1 := (seqHere s).pc + 4, w2 := imm.setWidth 64, w3 := (seqHere s).taskid },
           ctx := k.ctx }])

/-- R316, R326: ERET returns from a trap to TRAPPC and traps as ILLEGAL outside one with a handler; TEND ends the
task, and so does YIELD where no yield is asked of its context.  Forms said to complete, under the conditions shown:
eret, tend, yield.  What the rules leave open here is the model's choice: log entry 58. -/
def Obligations.TaskControl : Prop :=
  ∀ (s : State),
    ((seqHere s).inTrap = true →
      exec .eret s = .next (s.setSq s.here { seqHere s with pc := (seqHere s).tpc, inTrap := false, brkSkip := true })) ∧
    (hasHandler s → exec .eret s = .next (trapped s 1 (Instr.eret.word.setWidth 64) (seqHere s).pc)) ∧
    (∀ k, (seqHere s).task = some k → k.launch = none →
      exec .tend s = .next (s.setSq s.here { seqHere s with task := none, brkSkip := false }) ∧
      ((∀ y ∈ (seqHere s).yreqs, y.ctx ≠ k.ctx ∨ y.coop.isSome) →
        exec .yield s = .next (s.setSq s.here { seqHere s with task := none, brkSkip := false })))

/-- R78, R304, R305: MFS reads the sequencer's registers, the status of the last BANKMODE request, the modes of the
banks and the channels' bindings under their numbers, and traps as ILLEGAL on every other number.  R78, R292, R304,
R305, R341: MTS writes the registers that software may write, and raises PERMISSION with the index in TRAPVAL for a
reserved bit, a read-only register or a number that is not allocated, writing nothing; a write of BANKMODE is always
performed.  Forms said to complete, under the conditions shown: mfs, mts. -/
def Obligations.SystemRegisters : Prop :=
  (∀ (s : State) (d : Reg), plainReg d →
    exec (.mfs d 0) s = .next (wroteReg s d (seqHere s).taskid) ∧
    exec (.mfs d 1) s = .next (wroteReg s d (BitVec.ofNat 64 (s.here % 40))) ∧
    exec (.mfs d 2) s = .next (wroteReg s d (BitVec.ofNat 64 (s.here / 40))) ∧
    exec (.mfs d 3) s = .next (wroteReg s d (seqHere s).cycle) ∧
    (∃ v : Word, exec (.mfs d 4) s = .next (wroteReg s d v) ∧ v.toNat < 8 ∧ v.getLsbD 0 = (seqHere s).inTrap ∧
      v.getLsbD 2 = (seqHere s).mcLost ∧
      (v.getLsbD 1 = true ↔ ∃ y ∈ (seqHere s).yreqs, y.ctx = (seqHere s).running.ctx ∧ y.coop = none)) ∧
    (∀ y, (seqHere s).yreqs.find? (fun y => y.ctx == (seqHere s).running.ctx && y.coop.isNone) = some y →
      exec (.mfs d 10) s = .next (wroteReg s d y.deadline)) ∧
    ((∀ y ∈ (seqHere s).yreqs, y.ctx = (seqHere s).running.ctx → y.coop ≠ none) → exec (.mfs d 10) s = .next (wroteReg s d 0)) ∧
    exec (.mfs d 0x010) s = .next (wroteReg s d (if (s.ctx (seqHere s).running.ctx).frun then 1 else 0)) ∧
    exec (.mfs d 5) s = .next (wroteReg s d (seqHere s).tcause) ∧
    exec (.mfs d 6) s = .next (wroteReg s d (seqHere s).tpc) ∧
    exec (.mfs d 7) s = .next (wroteReg s d (seqHere s).tval) ∧
    exec (.mfs d 8) s = .next (wroteReg s d (seqHere s).tvec) ∧
    exec (.mfs d 9) s = .next (wroteReg s d (seqHere s).chanmask) ∧
    exec (.mfs d 11) s = .next (wroteReg s d (seqHere s).stackbase) ∧
    exec (.mfs d 12) s = .next (wroteReg s d (seqHere s).brkpc) ∧
    (∀ n : BitVec 4,
      exec (.mfs d (0x040 + n.setWidth 12)) s = .next (wroteReg s d (s.chan s.here n.toNat).entry) ∧
      exec (.mfs d (0x050 + n.setWidth 12)) s = .next (wroteReg s d (s.chan s.here n.toNat).q) ∧
      exec (.mfs d (0x060 + n.setWidth 12)) s = .next (wroteReg s d (BitVec.ofNat 64 (s.chan s.here n.toNat).queue.length))) ∧
    (let h := s.cl s.here
     (h.bankReq.bank < 64 → h.bankReq.mode < 4 → h.bankReq.bstat < 16 → ∃ v : Word, exec (.mfs d 0x020) s = .next (wroteReg s d v) ∧
       fld v.toNat 5 0 = h.bankReq.bank ∧ fld v.toNat 7 6 = 0 ∧ fld v.toNat 9 8 = h.bankReq.mode ∧ fld v.toNat 11 10 = 0 ∧
       fld v.toNat 15 12 = h.bankReq.bstat ∧ (v.getLsbD 16 = true ↔ h.bankReq.pend = none) ∧ v.toNat < 2 ^ 17) ∧
     ((∀ b, h.mode b < 4) → ∃ v w : Word, exec (.mfs d 0x021) s = .next (wroteReg s d v) ∧ exec (.mfs d 0x022) s = .next (wroteReg s d w) ∧
       (∀ b, b < 32 → fld v.toNat (2 * b + 1) (2 * b) = h.mode b) ∧ (∀ b, b < 16 → fld w.toNat (2 * b + 1) (2 * b) = h.mode (32 + b)) ∧
       w.toNat < 2 ^ 32)) ∧
    (∀ n : BitVec 12, ¬(n.toNat < 0x00D ∨ n = 0x010 ∨ (0x020 ≤ n.toNat ∧ n.toNat < 0x023) ∨ (0x040 ≤ n.toNat ∧ n.toNat < 0x070)) →
      hasHandler s →
      exec (.mfs d n) s = .next (trapped s 1 ((Instr.mfs d n).word.setWidth 64) (seqHere s).pc))) ∧
  (∀ (s : State) (a : Reg), plainReg a → hasHandler s →
    let v := srcVal s a
    let puts := fun (n : BitVec 12) (ok : Prop) (q : Seq) =>
      (ok → exec (.mts a n) s = .next (s.setSq s.here { q with pc := (seqHere s).pc + 4, brkSkip := false })) ∧
      (¬ok → exec (.mts a n) s = .next (trapped s 4 (n.setWidth 64) (seqHere s).pc))
    puts 8 (v.toNat % 4 = 0) { seqHere s with tvec := v } ∧
    puts 9 (v.toNat < 0x10000) { seqHere s with chanmask := v ||| 1 } ∧
    puts 11 (v.toNat % 8 = 0) { seqHere s with stackbase := v } ∧
    puts 12 (v.getLsbD 1 = false) { seqHere s with brkpc := v } ∧
    puts 4 (v.toNat < 8) { seqHere s with mcLost := (seqHere s).mcLost && !v.getLsbD 2 } ∧
    (v.toNat < 2 → exec (.mts a 0x010) s = .next ((s.setCtx (seqHere s).running.ctx
      { s.ctx (seqHere s).running.ctx with frun := v.getLsbD 0 }).setSq s.here { seqHere s with pc := (seqHere s).pc + 4, brkSkip := false })) ∧
    (2 ≤ v.toNat → exec (.mts a 0x010) s = .next (trapped s 4 0x010 (seqHere s).pc)) ∧
    (∃ u, exec (.mts a 0x020) s = .next u ∧ nextInstr s u none ∧ (u.cl u.here).bankReq.bank = fld v.toNat 5 0 ∧
      (u.cl u.here).bankReq.mode = fld v.toNat 9 8 ∧ (u.cl u.here).bankMode = (s.cl s.here).bankMode ∧
      (u.cl u.here).sram = (s.cl s.here).sram ∧ sameBesideClusters s u ∧
      ((s.cl s.here).bankReq.pend.isSome = true → (u.cl u.here).bankReq.bstat = 4 ∧
        (u.cl u.here).bankReq.pend = (s.cl s.here).bankReq.pend) ∧
      ((s.cl s.here).bankReq.pend = none → (fld v.toNat 7 6 ≠ 0 ∨ fld v.toNat 63 10 ≠ 0) →
        (u.cl u.here).bankReq.bstat = 5 ∧ (u.cl u.here).bankReq.pend = none) ∧
      ((s.cl s.here).bankReq.pend = none → fld v.toNat 7 6 = 0 → fld v.toNat 63 10 = 0 → 47 < fld v.toNat 5 0 →
        (u.cl u.here).bankReq.bstat = 3 ∧ (u.cl u.here).bankReq.pend = none)) ∧
    (∀ n : BitVec 12, n.toNat ∉ [4, 8, 9, 11, 12, 0x010, 0x020] →
      exec (.mts a n) s = .next (trapped s 4 (n.setWidth 64) (seqHere s).pc)))

/-- R78, R79, R292: an accepted BANKMODE request waits for its cut and then sets the bank's mode; MCMODE sets FRUN of
the running task's context, and a write with a reserved bit changes nothing.  Forms said to complete, under the
conditions shown: bankmode, bankModeCut, mcmode.  What the rules leave open here is the model's choice: log entry 18.
-/
def Obligations.ModeRegisters : Prop :=
  ∀ (s : State) (v : BitVec 64),
    let k := s.cl s.here
    let b := fld v.toNat 5 0
    let m := fld v.toNat 9 8
    (k.bankReq.pend = none → fld v.toNat 7 6 = 0 → fld v.toNat 63 10 = 0 → b ≤ 47 → k.mode b ≠ m →
      (m = 1 → (k.bankMode.filter (fun e => e.2 == 1)).length < 24) → k.inUse b = false →
      exec (.bankmode v) s =
        .next (s.setCl s.here { k with bankReq := { bank := b, mode := m, bstat := 0, pend := some (b, m) } })) ∧
    (∀ b m, k.bankReq.pend = some (b, m) →
      ∃ t, exec .bankModeCut s = .next t ∧ (t.cl s.here).mode b = m ∧ (t.cl s.here).bankReq.pend = none ∧
        (∀ e, e ≠ b → (t.cl s.here).mode e = k.mode e) ∧
        (m = 1 ∨ k.mode b = 1 → ∀ x, x / 0x10000 = b → (t.cl s.here).sram.byte x = 0) ∧
        (∀ x, x / 0x10000 ≠ b ∨ ¬(m = 1 ∨ k.mode b = 1) → (t.cl s.here).sram.byte x = k.sram.byte x)) ∧
    (v.toNat < 2 →
      exec (.mcmode v) s = .next (s.setCtx (seqHere s).running.ctx { s.ctx (seqHere s).running.ctx with frun := v.getLsbD 0 })) ∧
    (2 ≤ v.toNat → exec (.mcmode v) s = .next s)

/-- R306, R308, R309: dispatch takes the oldest message of the lowest ready channel and starts its task: the message
in s56 to s59, STACKBASE in s63, every other register zero, the pc at the entry.  R306: a message that meets room is
queued last; one that meets a full channel is refused, dropped with MCLOST, or held, by its sender; a held message is
queued once there is room.  Forms said to complete, under the conditions shown: taskDispatch, messageArrival, tpost,
messageRetry.  What the rules leave open here is the model's choice: log entry 25. -/
def Obligations.TasksAndMessages : Prop :=
  (∀ (s : State) (n : Nat) (m : QMsg) (rest : List QMsg),
    (seqHere s).task = none → (seqHere s).stopped = none → s.pickChan s.here = some n →
    (s.chan s.here n).queue = m :: rest →
    ∃ t, exec .taskDispatch s = .next t ∧ (t.chan s.here n).queue = rest ∧ (seqHere t).pc = (s.chan s.here n).entry ∧
      (seqHere t).task = some { chan := n, ctx := qCtx (s.chan s.here n).q, q := (s.chan s.here n).q, launch := m.launch } ∧
      srcVal t 56 = m.msg.w0 ∧ srcVal t 57 = m.msg.w1 ∧ srcVal t 58 = m.msg.w2 ∧ srcVal t 59 = m.msg.w3 ∧
      srcVal t 63 = (seqHere s).stackbase ∧ (∀ r : Reg, r < 56 ∨ r = 62 → srcVal t r = 0) ∧
      (seqHere t).inTrap = false ∧ t.mem = s.mem) ∧
  (∀ (s : State) (chan : BitVec 4) (w0 w1 w2 w3 : BitVec 64),
    let c := s.here
    let n := chan.toNat
    let m : QMsg := { msg := { w0 := w0, w1 := w1, w2 := w2, w3 := w3 }, ctx := qCtx (s.chan c n).q }
    let queued := fun (n : Nat) => s.setChan c n { s.chan c n with queue := (s.chan c n).queue ++ [m] }
    (s.chanRoom c n = true → s.savedCtx c n = none →
      exec (.messageArrival .tpost chan w0 w1 w2 w3) s = .next (queued n) ∧
      ((s.cl c).held = [] → exec (.messageArrival .hardware chan w0 w1 w2 w3) s = .next (queued n))) ∧
    (s.chanRoom c n = false →
      exec (.messageArrival .tpost chan w0 w1 w2 w3) s = .next s ∧
      exec (.messageArrival .hardware chan w0 w1 w2 w3) s =
        .next (s.setCl c { s.cl c with held := (s.cl c).held ++ [{ sender := senderPort, chan := n, m := m }] })) ∧
    (s.chanRoom c 0 = true → s.savedCtx c 0 = none →
      exec (.messageArrival .machineCheck chan w0 w1 w2 w3) s = .next (queued 0)) ∧
    (s.chanRoom c 0 = false →
      exec (.messageArrival .machineCheck chan w0 w1 w2 w3) s = .next (s.setSq c { s.sq c with mcLost := true })) ∧
    (∀ h : Held, (s.cl c).held = [h] → s.chanRoom c h.chan = true → s.savedCtx c h.chan = none →
      ∃ t, exec .messageRetry s = .next t ∧ (t.cl c).held = [] ∧
        (t.chan c h.chan).queue = (s.chan c h.chan).queue ++ [h.m]))

/-- R339: TBIND binds a channel with the fields of its binding word, or unbinds it; BADARG and FOREIGN change nothing.
R297, R306, R340: TPOST queues the 32 bytes last at the destination, after every earlier store, or refuses them with
the status of the first check that fails; a full channel refuses them also where its cluster's port holds a message
for it; R416, R420: one for a context whose save has written the cluster is FOREIGN and counted; R79: it waits while
the bank of the message changes its mode.  Forms said to complete, under the conditions shown: tbind, tpost.  What the
rules leave open here is the model's choice: log entries 23 and 68. -/
def Obligations.ChannelCommands : Prop :=
  (∀ (s : State) (d a b : Reg), plainReg d → plainReg a → plainReg b →
    let v := (srcVal s b).toNat
    let n := fld v 45 42
    let q := (s.chan s.here n).q
    let ctx := (seqHere s).running.ctx
    let bad := fld v 47 46 ≠ 0 ∨ fld v 63 49 ≠ 0 ∨ (bit v 48 = true ∧ (srcVal s a).toNat % 4 ≠ 0)
    let foreign := qBound q = true ∧ qCtx q ≠ ctx
    (bad → answers (.tbind d a b) s d 26 (fun u => (u.cl s.here).chans = (s.cl s.here).chans)) ∧
    (¬bad → foreign → answers (.tbind d a b) s d 32 (fun u => (u.cl s.here).chans = (s.cl s.here).chans)) ∧
    (¬bad → ¬foreign → ctx < 64 → answers (.tbind d a b) s d 0 (fun u =>
      (u.chan s.here n).queue = (s.chan s.here n).queue ∧ (∀ m, m ≠ n → u.chan s.here m = s.chan s.here m) ∧
      (bit v 48 = true → (u.chan s.here n).entry = srcVal s a ∧
        fld (u.chan s.here n).q.toNat 41 0 = fld v 41 0 ∧ qCtx (u.chan s.here n).q = ctx ∧ qBound (u.chan s.here n).q = true) ∧
      (bit v 48 = false → (u.chan s.here n).entry = 0 ∧ (u.chan s.here n).q = 0)))) ∧
  (∀ (s : State) (d a b : Reg), plainReg d → plainReg a → plainReg b →
    let v := (srcVal s b).toNat
    let n := fld v 3 0
    let t := fld v 11 10 * 40 + fld v 9 4
    let ctx := (seqHere s).running.ctx
    let bad := fld v 63 12 ≠ 0 ∨ 39 < fld v 9 4
    let foreign := qBound (s.chan t n).q = true ∧ qCtx (s.chan t n).q ≠ ctx
    let late := s.saveWritten t ctx = true
    let same := fun (u : State) => sameBesideClusters s u ∧ (u.chan t n).queue = (s.chan t n).queue
    let free := (s.cl t).held = [] ∨ (t = s.here ∧ ∀ h ∈ (s.cl t).held, h.sender ≠ senderSeq)
    let cut := s.descCut (srcVal s a).toNat 32
    (cut = true → exec (.tpost d a b) s = .next s) ∧
    (cut = false →
    (bad → answers (.tpost d a b) s d 26 same) ∧
    (¬bad → (s.cl s.here).localDesc (srcVal s a).toNat 8 32 = none → answers (.tpost d a b) s d 20 same) ∧
    (∀ bs, ¬bad → (s.cl s.here).localDesc (srcVal s a).toNat 8 32 = some bs →
      (foreign → answers (.tpost d a b) s d 32 same) ∧
      (¬foreign → late → answers (.tpost d a b) s d 32 (fun u => (u.chan t n).queue = (s.chan t n).queue ∧ u.mem = s.mem ∧
        u.dies = s.dies ∧ u.pkg = { s.pkg with preempts := s.pkg.preempts.map (fun p =>
          if p.ctx = ctx ∧ p.die = dieOf t then { p with late := p.late + 1 } else p) })) ∧
      (¬foreign → ¬late → s.chanRoom t n = false → free → answers (.tpost d a b) s d 31 same) ∧
      (∀ h : Held, ¬foreign → ¬late → t ≠ s.here → (s.cl t).held = [h] → h.chan = n → s.chanRoom t n = false →
        answers (.tpost d a b) s d 31 same) ∧
      (∀ h : Held, ¬foreign → ¬late → t = s.here → (s.cl t).held = [h] → h.sender = senderSeq → s.chanRoom t h.chan = false →
        answers (.tpost d a b) s d 31 same) ∧
      (¬foreign → ¬late → s.chanRoom t n = true → s.savedCtx t n = none → free → answers (.tpost d a b) s d 0 (fun u =>
        u.mem = memAfterStores s.mem (seqHere s).sbuf ∧ (seqHere u).sbuf = [] ∧
        (u.chan t n).queue = (s.chan t n).queue ++
          [{ msg := { w0 := BitVec.ofNat 64 (ofBytes (bs.take 8)), w1 := BitVec.ofNat 64 (ofBytes ((bs.drop 8).take 8)),
                      w2 := BitVec.ofNat 64 (ofBytes ((bs.drop 16).take 8)), w3 := BitVec.ofNat 64 (ofBytes ((bs.drop 24).take 8)) },
             ctx := ctx }])))))

/-- R65, R325: QFENCE places one marker in every copy queue and exchange queue it names, or none at all; and the
markers leave together once no command stands ahead of any of them.  Forms said to complete, under the conditions
shown: qfence, qfenceRetire.  What the rules leave open here is the model's choice: log entry 48. -/
def Obligations.QueueFences : Prop :=
  ∀ (s : State) (d a : Reg), plainReg d → plainReg a →
    let m := (srcVal s a).toNat
    let c := s.here
    let named := fun (b : Nat) => b < 24 ∧ m.testBit b = true
    let full := ∃ b, named b ∧ s.fenceFull c b = true
    (2 ^ 24 ≤ m → answers (.qfence d a) s d 2 (fun u => u.clusters.get c {} = { s.cl c with seq := seqHere u } ∧ u.dies = s.dies)) ∧
    (m < 2 ^ 24 → full → answers (.qfence d a) s d 1 (fun u => u.clusters.get c {} = { s.cl c with seq := seqHere u } ∧ u.dies = s.dies)) ∧
    (m < 2 ^ 24 → ¬full → answers (.qfence d a) s d 0 (fun u =>
      (∀ b, b < 8 → ((u.cl c).cq b).ents = ((s.cl c).cq b).ents ++ (if m.testBit b then [.marker s.pkg.fences] else [])) ∧
      (∀ b, b < 8 → ((u.die (dieOf c)).xq b).ents =
        ((s.die (dieOf c)).xq b).ents ++ (if m.testBit (16 + b) then [.marker s.pkg.fences c] else [])))) ∧
    (∀ n : Nat, distinctKeys (s.cl c).cqs → distinctKeys (s.cl c).leases → distinctKeys (s.die (dieOf c)).xqs →
      (∀ e ∈ (s.cl c).cqs, passMarker (QEnt.isMarker n) QEnt.isCmd e.2.ents ≠ none) →
      (∀ e ∈ (s.cl c).leases, passMarker (PEnt.isMarker n) PEnt.isCmd e.2.q ≠ none) →
      (∀ e ∈ (s.die (dieOf c)).xqs, passMarker (XEnt.isMarker n) XEnt.isCmd e.2.ents ≠ none) →
      leaves (.qfenceRetire n) s (fun u =>
        (∀ q, some ((u.cl c).cq q).ents = passMarker (QEnt.isMarker n) QEnt.isCmd ((s.cl c).cq q).ents) ∧
        (∀ q, some ((u.die (dieOf c)).xq q).ents = passMarker (XEnt.isMarker n) XEnt.isCmd ((s.die (dieOf c)).xq q).ents))) ∧
    (∀ (n q : Nat) (e : CopyCmd) (t : List QEnt), ((s.cl c).cq q).ents = .cmd e :: t → .marker n ∈ t →
      exec (.qfenceRetire n) s = .next s)

/-! ### Memory -/

/-- R22, R24, R25: a walk that finds a usable leaf sets A in the entry, and D for an access that writes, and may be
kept by the cluster's translation cache; a failed walk is never kept.  R15, R16, R17, R282: an invalidation removes
the die's copies of one line and nothing else; an uncorrectable error poisons exactly the word it is found in, and a
correctable one changes no data; a scrub changes nothing beyond the word it reads; R439: a correctable error in an MT
word changes nothing but the log, an uncorrectable one changes at most that word; R410: a tier-C access without an
answer posts the machine check of source 4 with the port and the addresses, or sets MCLOST where channel 0 is full.
Forms said to complete, under the conditions shown: pageWalk, invalidationArrival, eccError, patrolScrub, sramScrub,
tierCTimeout.  What the rules leave open here is the model's choice: log entries 15, 24 and 66. -/
def Obligations.Translation : Prop :=
  (∀ (s s1 : State) (ctx : BitVec 6) (k : AccKind) (va : BitVec 64), s.mem.wf = true →
    (∀ pa mt l, s.freshWalk (dieOf s.here) s.here ctx.toNat va.toNat k = (.ok pa mt, some l, s1) →
      leaves (.pageWalk ctx k va) s (fun u => u.mem = s1.mem ∧ bit (ofBytes (u.mem.bytes l.addr 8)) 8 = true ∧
        (isWrite k = true → bit (ofBytes (u.mem.bytes l.addr 8)) 9 = true) ∧
        (∀ x, x ≠ l.addr + 1 → u.mem.byte x = s.mem.byte x) ∧
        ∃ t, u.cachedLeaf s.here ctx.toNat va.toNat = some t ∧ t.leaf = ofBytes (u.mem.bytes l.addr 8) ∧ t.lvl = l.lvl)) ∧
    (∀ code lvl, s.freshWalk (dieOf s.here) s.here ctx.toNat va.toNat k = (.bad code lvl, none, s1) →
      leaves (.pageWalk ctx k va) s (fun u => u.mem = s.mem ∧ u.cachedLeaf s.here ctx.toNat va.toNat = none))) ∧
  (∀ (s : State),
    (∀ line : BitVec 41, leaves (.invalidationArrival line) s (fun u =>
      u.copyOf s.actor.die line.toNat = none ∧ u.mem = s.mem ∧
      ∀ d l, l < 2 ^ 41 → ¬(d = s.actor.die ∧ l = line.toNat) → u.copyOf d l = s.copyOf d l)) ∧
    (∀ a : BitVec 48, inH a.toNat = true →
      leaves (.eccError false a true) s (fun u => u.mem = s.mem ∧ ∀ w, w ∈ u.poison ↔ (w ∈ s.poison ∨ w = a.toNat / 32)) ∧
      leaves (.eccError false a false) s (fun u => u.mem = s.mem ∧ u.poison = s.poison) ∧
      leaves (.patrolScrub a) s (fun u => u.mem = s.mem ∧ ∀ w, w ≠ a.toNat / 32 → (w ∈ u.poison ↔ w ∈ s.poison))) ∧
    (∀ a : BitVec 48, a.toNat < sramEnd →
      leaves (.eccError true a true) s (fun u => (u.cl s.here).sram = (s.cl s.here).sram ∧
        ∀ w, w ∈ (u.cl s.here).sramPoison ↔ (w ∈ (s.cl s.here).sramPoison ∨ w = a.toNat / 32))) ∧
    (∀ (cl : BitVec 8) (off : BitVec 24), off.toNat < sramEnd →
      leaves (.sramScrub cl off) s (fun u => u.mem = s.mem ∧ u.here = s.here ∧ ∀ c, (u.cl c).sram = (s.cl c).sram ∧
        ∀ w, (c ≠ cl.toNat ∨ w ≠ off.toNat / 32) → (w ∈ (u.cl c).sramPoison ↔ w ∈ (s.cl c).sramPoison))) ∧
    (∀ (pa : BitVec 48) (va : BitVec 64), leaves (.tierCTimeout pa va) s (fun u => u.mem = s.mem ∧
      u.timeouts = s.timeouts ++ (if inC pa.toNat then [(s.actor, pa.toNat / 32)] else []) ∧
      (inC pa.toNat = false → u = s) ∧
      (inC pa.toNat = true → s.chanRoom s.here 0 = true → s.savedCtx s.here 0 = none →
        (u.chan s.here 0).queue = (s.chan s.here 0).queue ++
          [{ msg := { w0 := BitVec.ofNat 64 (4 + portOf pa.toNat * 2 ^ 8 + s.actorCtx * 2 ^ 16 + 0x90 * 2 ^ 56),
                      w1 := BitVec.ofNat 64 pa.toNat, w2 := va, w3 := 0 }, ctx := s.actorCtx }]) ∧
      (inC pa.toNat = true → s.chanRoom s.here 0 = false →
        (u.chan s.here 0).queue = (s.chan s.here 0).queue ∧ (u.sq s.here).mcLost = true))) ∧
    (∀ (a : BitVec 48) (bad : Bool) (x w : Nat), x < 256 → w < 4096 → (x % 16 + x / 16) % 2 = 1 → a.toNat = 0xC00000 + 0x4000 * x + 4 * w →
      leaves (.eccError true a bad) s (fun u => u.mem = s.mem ∧ (u.cl s.here).sram = (s.cl s.here).sram ∧
        (∀ y, y ≠ x → (u.cl s.here).tile y = (s.cl s.here).tile y) ∧
        ∀ i, (i ≠ w ∨ bad = false) → ((u.cl s.here).tile x).mt.get i 0 = ((s.cl s.here).tile x).mt.get i 0)))

/-! ### Copy engines -/

/-- R56, R57, R79, R329: the issue word of CPY and STRM in every case, and the wait while the descriptor's bank
changes its mode; an accepted command stands last in its queue with the descriptor read at issue, after the release of
R57, and a refused one changes nothing.  R68, R79, R329: WTEST answers whether every bit of the mask is set, and traps
on a misaligned or unsuitable address; it waits while the bank changes its mode.  Forms said to complete, under the
conditions shown: strm, cpy, wtest.  What the rules leave open here is the model's choice: log entry 19. -/
def Obligations.CopySubmission : Prop :=
  (∀ (s : State) (d a b : Reg) (strm : Bool), plainReg d → plainReg a → plainReg b →
    let i : Instr := if strm then .strm d a b else .cpy d a b
    let k := s.cl s.here
    let q := (srcVal s b).toNat
    let kind := fun (bs : List Byte) => ofBytes bs % 16
    let issued := fun (bs : List Byte) =>
      ({ desc := ofBytes bs, seq := (k.cq q).next, ctx := (seqHere s).running.ctx, stamp := k.stamp } : CopyCmd)
    let same := fun (u : State) => sameBesideClusters s u ∧ (u.cl s.here).cqs = k.cqs ∧ (u.cl s.here).sram = k.sram
    let cut := s.descCut (srcVal s a).toNat 64
    (cut = true → exec i s = .next s) ∧
    (cut = false → q ≤ 7 → 8 ≤ (k.cq q).ents.length → answers i s d 1 same) ∧
    (cut = false → (7 < q ∨ (k.cq q).ents.length < 8) → k.localDesc (srcVal s a).toNat 64 64 = none → answers i s d 3 same) ∧
    (∀ bs, cut = false → k.localDesc (srcVal s a).toNat 64 64 = some bs →
      (7 < q → answers i s d 4 same) ∧
      (q ≤ 7 → (k.cq q).ents.length < 8 → (strm = true ↔ (kind bs = 2 ∨ kind bs = 3)) → kind bs ≤ 5 →
        answers i s d (BitVec.ofNat 64 ((k.cq q).next * 65536)) (fun u =>
          u.mem = memAfterStores s.mem (seqHere s).sbuf ∧ (seqHere u).sbuf = [] ∧ (u.cl s.here).sram = k.sram ∧
          (u.cl s.here).cq q = { ents := (k.cq q).ents ++ [.cmd (issued bs)], next := ((k.cq q).next + 1) % 65536 } ∧
          ∀ j, j ≠ q → (u.cl s.here).cq j = k.cq j)) ∧
      (q ≤ 7 → (k.cq q).ents.length < 8 → ¬((strm = true ↔ (kind bs = 2 ∨ kind bs = 3)) ∧ kind bs ≤ 5) →
        answers i s d 5 same))) ∧
  (∀ (s : State) (d a b : Reg), plainReg d → plainReg a → plainReg b →
    let va := (srcVal s a).toNat
    let usable := isLocal va = true ∧ localOff va < sramEnd ∧ (s.cl s.here).scratch (localOff va) 8 = true
    let w := ofBytes ((s.cl s.here).sram.bytes (localOff va) 8)
    let same := fun (u : State) => u.mem = s.mem ∧ (u.cl s.here).sram = (s.cl s.here).sram
    (va % 8 = 0 → s.descCut va 8 = true → exec (.wtest d a b) s = .next s) ∧
    (va % 8 = 0 → s.descCut va 8 = false → usable →
      ((∀ i, i < 64 → (srcVal s b).getLsbD i = true → w.testBit i = true) → answers (.wtest d a b) s d 1 same) ∧
      ((∃ i, i < 64 ∧ (srcVal s b).getLsbD i = true ∧ w.testBit i = false) → answers (.wtest d a b) s d 0 same)) ∧
    (va % 8 ≠ 0 → hasHandler s → exec (.wtest d a b) s = .next (trapped s 2 (srcVal s a) (seqHere s).pc)) ∧
    (va % 8 = 0 → s.descCut va 8 = false → ¬usable → hasHandler s →
      ∃ lvl : Nat, exec (.wtest d a b) s =
        .next (trapped s (BitVec.ofNat 64 (4 + 7 * 2 ^ 8 + lvl * 2 ^ 12)) (srcVal s a) (seqHere s).pc)))

/-- R59, R64, R69, R72: a command at the head of its queue is validated as it starts, once its engine picks its queue;
one that fails takes the status of R59 and moves no byte; a stream waits for its port, and its start clears the port's
END; a command waits for older ones that write what it reads as it starts, and is dispatched no more once its
context's save has written the cluster.  R60, R61, R66: a started COPY or MASKROWS moves its next row: between banks,
the row's bytes appear at the destination and every other byte is as before; a failed read or write ends the command
with its status and address, and what a failed write had written before counts.  Forms said to complete, under the
conditions shown: copy, maskrows, streamin, streamout.  What the rules leave open here is the model's choice: log
entries 19, 20, 21 and 65. -/
def Obligations.CopyRows : Prop :=
  (∀ (s : State) (q : BitVec 3) (cmd : CopyCmd), (s.cl s.here).headCmd q.toNat = some cmd → cmd.started = false →
    cmd.finished = false →
    let k := s.cl s.here
    let kd := dKind cmd.desc
    let step := fun (p : State → Prop) =>
      (kd = 0 → leaves (.copy q) s p) ∧ (kd = 1 → leaves (.maskrows q) s p) ∧
      (kd = 2 → leaves (.streamin q) s p) ∧ (kd = 3 → leaves (.streamout q) s p)
    let picked := s.mayDispatch s.here q.toNat = true
    (picked → k.validate cmd ≠ 0 → step (fun u => u.mem = s.mem ∧ (u.cl s.here).sram = k.sram ∧
      (u.cl s.here).headCmd q.toNat = some { cmd with started := true, finished := true, status := k.validate cmd })) ∧
    (k.validate cmd = 0 → (kd = 2 ∨ kd = 3) → k.portBusy (dPort cmd.desc) = true → step (fun u => u = s)) ∧
    (k.validate cmd = 0 → k.startStalls cmd = true → step (fun u => u = s)) ∧
    (s.saveWritten s.here cmd.ctx = true → step (fun u => u = s)) ∧
    (¬picked → step (fun u => u = s)) ∧
    (picked → k.validate cmd = 0 → step (fun u =>
      u.mem = s.mem ∧ ∃ c2, (u.cl s.here).headCmd q.toNat = some c2 ∧ c2.started = true ∧ c2.desc = cmd.desc ∧
        c2.written = cmd.written ∧ c2.status = cmd.status ∧
        (kd = 1 → c2.packed = ((Finset.range (dN1 cmd.desc)).filter (fun j =>
          (ofBytes (k.sram.bytes (dAux cmd.desc) ((dN1 cmd.desc + 7) / 8))).testBit j = true)).card) ∧
        ((kd = 2 ∨ kd = 3) → (u.cl s.here).portEnded (dPort cmd.desc) = false)))) ∧
  (∀ (s : State) (q : BitVec 3) (cmd : CopyCmd), (s.cl s.here).headCmd q.toNat = some cmd → cmd.started = true →
    cmd.finished = false → (dKind cmd.desc = 0 ∨ dKind cmd.desc = 1) →
    let k := s.cl s.here
    let i : Instr := if dKind cmd.desc = 0 then .copy q else .maskrows q
    let n := dRowBytes cmd.desc
    (dSspace cmd.desc = 1 → dDspace cmd.desc = 1 →
      k.stalls (some cmd.stamp) 1 cmd.ctx (cmd.src cmd.row) n = false → k.cutting (cmd.src cmd.row) n = false →
      k.stalls (some cmd.stamp) 1 cmd.ctx (cmd.dst cmd.row) n = false → k.cutting (cmd.dst cmd.row) n = false →
      leaves i s (fun u => u.mem = s.mem ∧ (u.cl s.here).sram = k.sram.setBytes (cmd.dst cmd.row) (k.sram.bytes (cmd.src cmd.row) n) ∧
        ∃ c2, (u.cl s.here).headCmd q.toNat = some c2 ∧ c2.row = cmd.row + 1 ∧ c2.written = cmd.written + n ∧
          c2.status = cmd.status ∧ (c2.finished = true ↔ cmd.row + 1 = cmd.rows))) ∧
    (∀ f s1, s.copyRead s.here q.toNat cmd (cmd.src cmd.row) n = some (.error f, s1) →
      leaves i s (fun u => (u.cl s.here).headCmd q.toNat = some { cmd with finished := true, status := f.code, lvl := f.lvl, fva := BitVec.ofNat 64 f.va })) ∧
    (∀ bs s1 f s2, s.copyRead s.here q.toNat cmd (cmd.src cmd.row) n = some (.ok bs, s1) →
      s1.copyWrite s.here q.toNat cmd (cmd.dst cmd.row) bs = some (some f, s2) →
      let done := (f.va + 2 ^ 64 - cmd.dst cmd.row) % 2 ^ 64
      leaves i s (fun u => (u.cl s.here).headCmd q.toNat =
        some { cmd with finished := true, status := f.code, lvl := f.lvl, fva := BitVec.ofNat 64 f.va,
                        written := cmd.written + done, part := done })) ∧
    (s.copyRead s.here q.toNat cmd (cmd.src cmd.row) n = none → exec i s = .next s))

/-- R62, R66, R86: a stream moves at most 512 bytes of its present row between its banks and its port, as many as the
port has room for or holds, in order; an input stream's last byte is followed by END, and it stalls only while its
port is full; an output stream whose port has ended completes with SHORT, and one whose write fails has popped what it
wrote.  R64, R70, R71: once its engine picks its queue, BARSET arms a slot with ARRIVED 0; an arrival adds one; when
EXPECT has arrived and every bit of MASK is set the phase advances in the record, the bits of MASK are cleared, EXPECT
is taken from ARRIVED and one message is posted; an arrival at a slot that is not armed gives NOBAR.  R66, R67: a
chunk whose bytes are all written gets its bit, and no other bit of the banks changes; a finished command with all its
bits set leaves its queue and posts its message, with the status, kind, queue, tag and counts.  Forms said to
complete, under the conditions shown: streamPortPush, streamPortPop, barset, arrive, chunkComplete, ceCommandComplete.
What the rules leave open here is the model's choice: log entries 20 and 65. -/
def Obligations.CopyStreams : Prop :=
  (∀ (s : State) (q : BitVec 3) (cmd : CopyCmd), (s.cl s.here).headCmd q.toNat = some cmd → cmd.started = true →
    cmd.finished = false → dPort cmd.desc < 32 → (s.cl s.here).fifoOf (dPort cmd.desc) = none →
    let k := s.cl s.here
    let x := k.stage (dPort cmd.desc)
    let d := cmd.desc
    let total := dRows d * dRowBytes d
    let left := dRowBytes d - cmd.pos % dRowBytes d
    let after := fun (u : State) (n : Nat) => ∃ c2, (u.cl s.here).headCmd q.toNat = some c2 ∧ c2.pos = cmd.pos + n ∧
      c2.written = cmd.written + n ∧ (c2.finished = true ↔ cmd.pos + n = total)
    (dKind d = 2 → dSspace d = 1 →
      let n := min (min 512 left) (512 - x.data.length)
      let a := (srcRow d (cmd.pos / dRowBytes d) + cmd.pos % dRowBytes d) % 2 ^ 64
      k.stalls (some cmd.stamp) 1 cmd.ctx a n = false → k.cutting a n = false →
      (n ≠ 0 → leaves (.streamPortPush q) s (fun u => after u n ∧ (u.cl s.here).sram = k.sram ∧
        ((u.cl s.here).stage (dPort d)).data.map Prod.fst = x.data.map Prod.fst ++ k.sram.bytes a n ∧
        ((u.cl s.here).stage (dPort d)).ended = (x.ended || decide (cmd.pos + n = total)))) ∧
      (512 ≤ x.data.length → exec (.streamPortPush q) s = .next s)) ∧
    (dKind d = 3 → dDspace d = 1 → x.data ≠ [] →
      let n := min (min 512 x.data.length) left
      let a := (dstRow d (cmd.pos / dRowBytes d) + cmd.pos % dRowBytes d) % 2 ^ 64
      k.stalls (some cmd.stamp) 1 cmd.ctx a n = false → k.cutting a n = false →
      leaves (.streamPortPop q) s (fun u => after u n ∧ (u.cl s.here).sram = k.sram.setBytes a ((x.data.take n).map Prod.fst) ∧
        ((u.cl s.here).stage (dPort d)).data = x.data.drop n)) ∧
    (∀ f s1, dKind d = 3 → x.data ≠ [] →
      let a := (dstRow d (cmd.pos / dRowBytes d) + cmd.pos % dRowBytes d) % 2 ^ 64
      s.copyWrite s.here q.toNat cmd a (x.data.take (min (min 512 x.data.length) left)) = some (some f, s1) →
      let done := (f.va + 2 ^ 64 - a) % 2 ^ 64
      leaves (.streamPortPop q) s (fun u => ((u.cl s.here).stage (dPort d)).data = x.data.drop done ∧
        (u.cl s.here).headCmd q.toNat = some { cmd with finished := true, status := f.code, lvl := f.lvl, fva := BitVec.ofNat 64 f.va,
                                                        written := cmd.written + done, part := done })) ∧
    (dKind d = 3 → x.data = [] → x.ended = true →
      leaves (.streamPortPop q) s (fun u => (u.cl s.here).headCmd q.toNat = some { cmd with finished := true, status := 0x27 })) ∧
    (dKind d = 3 → x.data = [] → x.ended = false → exec (.streamPortPop q) s = .next s)) ∧
  (∀ (s : State) (q : BitVec 3) (cmd : CopyCmd), (s.cl s.here).headCmd q.toNat = some cmd → cmd.started = false →
    (s.cl s.here).validate cmd = 0 → s.mayDispatch s.here q.toNat = true →
    let k := s.cl s.here
    let b := dBar cmd.desc
    let alone := cmd.arrived = false ∧ ∀ p y, p ≠ q.toNat → k.headCmd p = some y → y.arrived = true ∨ dBar y.desc ≠ b
    let r := ofBytes (k.sram.bytes (dAux cmd.desc) 32)
    let advance := fun (x : Barrier) => ({ w0 := BitVec.ofNat 64 (0xF * 2 ^ 8 + b * 2 ^ 12 + x.tag * 2 ^ 16),
                                            w1 := BitVec.ofNat 64 ((x.phase + 1) % 2 ^ 32) } : Msg)
    let armed : Barrier :=
      { expect := fld r 15 0, mapword := fld r 53 32, mask := fld r 127 64, phase := fld r 159 128, chan := fld r 163 160,
        tag := fld r 191 176, recAddr := dAux cmd.desc, arrived := 0, ctx := cmd.ctx }
    let done := fun (u : State) (st : Nat) => (u.cl s.here).headCmd q.toNat = some { cmd with started := true, finished := true, status := st }
    (dKind cmd.desc = 5 → fld r 15 0 ≠ 0 → fld r 53 32 % 8 = 0 →
      leaves (.barset q) s (fun u => done u 0 ∧ (u.cl s.here).bars.find b = some armed)) ∧
    (dKind cmd.desc = 5 → (fld r 15 0 = 0 ∨ fld r 53 32 % 8 ≠ 0) →
      leaves (.barset q) s (fun u => done u 0x29 ∧ (u.cl s.here).bars = k.bars)) ∧
    (dKind cmd.desc = 4 → cmd.arrived = false → k.bars.find b = none → leaves (.arrive q) s (fun u => done u 0x28 ∧ u.mem = s.mem)) ∧
    (dKind cmd.desc = 4 → cmd.arrived = true → leaves (.arrive q) s (fun u => (u.cl s.here).bars = k.bars ∧
      (u.cl s.here).headCmd q.toNat = some { cmd with started := true, finished := true, arrived := false, status := 0 })) ∧
    (∀ x, dKind cmd.desc = 4 → k.bars.find b = some x → alone →
      let w := ofBytes (k.sram.bytes x.mapword 8)
      let go := x.expect ≤ x.arrived + 1 ∧ w &&& x.mask = x.mask
      (¬go → leaves (.arrive q) s (fun u => done u 0 ∧ (u.cl s.here).sram = k.sram ∧
        (u.cl s.here).bars.find b = some { x with arrived := x.arrived + 1 })) ∧
      (go → k.sram.wf = true → (x.recAddr + 20 ≤ x.mapword ∨ x.mapword + 8 ≤ x.recAddr + 16) →
        leaves (.arrive q) s (fun u => done u 0 ∧
          ofBytes ((u.cl s.here).sram.bytes (x.recAddr + 16) 4) = (x.phase + 1) % 2 ^ 32 ∧
          ofBytes ((u.cl s.here).sram.bytes x.mapword 8) = w - x.mask ∧
          (u.cl s.here).bars.find b = some { x with phase := (x.phase + 1) % 2 ^ 32, arrived := x.arrived + 1 - x.expect } ∧
          (k.held = [] → s.chanRoom s.here x.chan = true → s.savedCtx s.here x.chan = none →
            (u.chan s.here x.chan).queue = (s.chan s.here x.chan).queue ++
              [{ msg := advance x, ctx := x.ctx }]))))) ∧
  (∀ (s : State) (q : BitVec 3) (cmd : CopyCmd), (s.cl s.here).headCmd q.toNat = some cmd →
    let k := s.cl s.here
    let d := cmd.desc
    let bad := 0x21 ≤ cmd.status ∧ cmd.status ≤ 0x25
    let alone := cmd.arrived = false ∧ ∀ p y, p ≠ q.toNat → k.headCmd p = some y → y.arrived = true ∨ dBar y.desc ≠ dBar d
    (∀ j, cmd.started = true → dCmen d = true → ¬bad → cmd.nextDue = some j → k.bars = [] → k.sram.wf = true →
      k.ctlStalls cmd (dCmap d + (dCfirst d + j) / 8) 1 = false → leaves (.chunkComplete q) s (fun u =>
        let at_ := dCmap d + (dCfirst d + j) / 8
        let n := (dCfirst d + j) % 8
        (u.cl s.here).sram.byte at_ = (k.sram.byte at_ ||| (1#8 <<< n)) ∧
        (∀ x, x ≠ at_ → (u.cl s.here).sram.byte x = k.sram.byte x) ∧
        (u.cl s.here).headCmd q.toNat = some { cmd with bits := insertNat j cmd.bits })) ∧
    (cmd.finished = true → (dCmen d = true → ¬bad → cmd.nextDue = none) → dBaren d = false →
      leaves (.ceCommandComplete q) s (fun u => ((u.cl s.here).cq q.toNat).ents = (k.cq q.toNat).ents.drop 1 ∧
        (u.cl s.here).sram = k.sram ∧ u.mem = s.mem ∧
        (dMsg d = true → k.held = [] → s.chanRoom s.here (dMchan d) = true → s.savedCtx s.here (dMchan d) = none →
          (u.chan s.here (dMchan d)).queue = (s.chan s.here (dMchan d)).queue ++
            [{ msg := { w0 := BitVec.ofNat 64 ((if cmd.status ≠ 0 then cmd.status else if cmd.poisoned then 0x20 else 0) +
                          dKind d * 2 ^ 8 + q.toNat * 2 ^ 12 + dTag d * 2 ^ 16 + cmd.lvl * 2 ^ 32),
                        w1 := BitVec.ofNat 64 cmd.written, w2 := BitVec.ofNat 64 (if dKind d = 1 then cmd.packed else 0),
                        w3 := cmd.fva }, ctx := cmd.ctx }]))) ∧
    (∀ x, cmd.finished = true → (dCmen d = true → ¬bad → cmd.nextDue = none) → dBaren d = true →
      alone → k.bars.find (dBar d) = some x → ¬(x.expect ≤ x.arrived + 1 ∧ ofBytes (k.sram.bytes x.mapword 8) &&& x.mask = x.mask) →
      leaves (.ceCommandComplete q) s (fun u => ((u.cl s.here).cq q.toNat).ents = (k.cq q.toNat).ents.drop 1 ∧
        (u.cl s.here).bars.find (dBar d) = some { x with arrived := x.arrived + 1 } ∧ (u.cl s.here).sram = k.sram)) ∧
    ((cmd.finished = false ∨ (dCmen d = true ∧ ¬bad ∧ cmd.nextDue ≠ none)) → exec (.ceCommandComplete q) s = .next s))

/-- R82, R86, R87: stores to ring descriptors and to the queue registers of FIFO and WINDOW banks: what they write
while EN is 0, what enabling requires, and what is ignored while EN is 1.  Forms said to complete, under the
conditions shown: ringDescriptorStore, fifoQueueStore, windowQueueStore.  What the rules leave open here is the
model's choice: log entry 18. -/
def Obligations.ControlStores : Prop :=
  ∀ (s : State) (r : BitVec 4) (b : BitVec 6) (v : BitVec 64),
    let k := s.cl s.here
    let x := k.ring r.toNat
    let y : Ring := { x with rbase := fld v.toNat 21 0, cmask := fld v.toNat 25 22, rsize := fld v.toNat 44 32, slot := fld v.toNat 60 48 }
    let ring := fun (dw : BitVec 3) (z : Ring) =>
      leaves (.ringDescriptorStore r dw v) s (fun u => (u.cl s.here).ring r.toNat = z ∧ (u.cl s.here).sram = k.sram ∧
        ∀ j, j ≠ r.toNat → (u.cl s.here).ring j = k.ring j)
    let bank := fun (i : Instr) (z : BankQ) => leaves i s (fun u => (u.cl s.here).bq b.toNat = z ∧ (u.cl s.here).sram = k.sram ∧
        ∀ j, j ≠ b.toNat → (u.cl s.here).bq j = k.bq j)
    let f := k.bq b.toNat
    (x.en = false →
      (bit v.toNat 63 = true → k.ringValid r.toNat y v.toNat = true → ring 0 { y with en := true, err := false }) ∧
      (bit v.toNat 63 = true → k.ringValid r.toNat y v.toNat = false → ring 0 { y with err := true }) ∧
      (bit v.toNat 63 = false → ring 0 y) ∧
      ring 1 { x with head := fld v.toNat 21 0, tail := fld v.toNat 53 32 } ∧
      ring 2 { x with fill := fld v.toNat 22 0, ended := bit v.toNat 23 } ∧
      ring 3 { x with ahead := [fld v.toNat 15 0, fld v.toNat 31 16, fld v.toNat 47 32, fld v.toNat 63 48] }) ∧
    (x.en = true →
      ring 0 (if bit v.toNat 63 = false ∧ x.fill = 0 then { x with en := false } else x) ∧ ring 1 x ∧
      ring 2 (if bit v.toNat 23 = false then { x with ended := false } else x) ∧ ring 3 x) ∧
    (k.mode b.toNat = mFifo →
      (f.en = true → bit v.toNat 63 = false → f.ffill ≠ 0 → bank (.fifoQueueStore b 0 v) f) ∧
      (f.en = true → bit v.toNat 63 = false → f.ffill = 0 → bank (.fifoQueueStore b 0 v) { f with en := false, port := fld v.toNat 4 0 }) ∧
      (f.en = false → bit v.toNat 63 = true → k.portBusy (fld v.toNat 4 0) = false → (k.stage (fld v.toNat 4 0)).data = [] →
        (∀ e ∈ k.bankQs, ¬(e.1 ≠ b.toNat ∧ k.mode e.1 = mFifo ∧ e.2.en = true ∧ e.2.port = fld v.toNat 4 0)) →
        bank (.fifoQueueStore b 0 v) { f with port := fld v.toNat 4 0, en := true }) ∧
      (f.en = false → (k.portBusy (fld v.toNat 4 0) = true ∨ (k.stage (fld v.toNat 4 0)).data ≠ []) →
        bank (.fifoQueueStore b 0 v) { f with port := fld v.toNat 4 0, en := false })) ∧
    (k.mode b.toNat = mWindow →
      (f.en = false → bank (.windowQueueStore b 1 v) { f with whead := v } ∧ bank (.windowQueueStore b 2 v) { f with wtail := v }) ∧
      (f.en = false → bit v.toNat 63 = true → f.whead.toNat ≤ f.wtail.toNat → f.wtail.toNat - f.whead.toNat ≤ 65536 →
        (∀ e ∈ k.bankQs, ¬(e.1 ≠ b.toNat ∧ k.mode e.1 = mWindow ∧ e.2.en = true ∧ e.2.port = fld v.toNat 4 0)) →
        bank (.windowQueueStore b 0 v) { f with port := fld v.toNat 4 0, en := true }) ∧
      (f.en = true → bank (.windowQueueStore b 1 v) f ∧ bank (.windowQueueStore b 2 v) f) ∧
      (f.en = true → bit v.toNat 63 = true →
        (∀ e ∈ k.bankQs, ¬(e.1 ≠ b.toNat ∧ k.mode e.1 = mWindow ∧ e.2.en = true ∧ e.2.port = fld v.toNat 4 0)) →
        bank (.windowQueueStore b 0 v) { f with port := fld v.toNat 4 0 }) ∧
      (f.en = false → bit v.toNat 63 = true → (f.wtail.toNat < f.whead.toNat ∨ 65536 < f.wtail.toNat - f.whead.toNat) →
        bank (.windowQueueStore b 0 v) { f with port := fld v.toNat 4 0, en := false }) ∧
      (bit v.toNat 63 = false → bank (.windowQueueStore b 0 v) { f with port := fld v.toNat 4 0, en := false }))

/-! ### Residencies, launches, leases and power -/

/-- R331, R344, R345: a RESID that finds room places its image at the page the allocator chooses, after the moves that
make room (R351): the residency is live in the lowest free slot with the next generation, its pages are held, and
every tile runs its configuration. R352: with ITERVA it has an item AG, and an image without one is malformed. R360:
with GV = 1 it claims a reservation of its task's launch, whose member runs with its handle, or answers NOGANG; with
GV = 0 the reservations of its task's launch that it covers are released. Without a free slot or a place, with a
binding that cannot be made, or with a malformed descriptor, nothing is placed; R79: it waits while its descriptor's
bank changes its mode.  R330, R348: CFG puts an image that passes into every background slot of the page set and
leaves what runs; a handle that is not live, a draining residency and a background not yet adopted are refused.  Forms
said to complete, under the conditions shown: resid, cfg.  What the rules leave open here is the model's choice: log
entries 31 and 43. -/
def Obligations.ResidencyLoading : Prop :=
  (∀ (s s1 : State) (d a : Reg) (bs : List Byte) (m : Image), plainReg d → plainReg a →
    (s.cl s.here).localDesc (srcVal s a).toNat 64 64 = some bs →
    (s.descCut (srcVal s a).toNat 64 = true → exec (.resid d a) s = .next s) ∧
    (s.descCut (srcVal s a).toNat 64 = false →
    let c := s.here
    let ctx := (seqHere s).running.ctx
    let x := ofBytes bs
    (rdBad x = true → answers (.resid d a) s d 20 (fun u => (u.cl c).resids = (s.cl c).resids)) ∧
    (rdBad x = false → (s.drainAll c).readImage c ctx (rdImage x) = (.ok m, s1) →
      (m.judge none none ≠ 0 →
        answers (.resid d a) s d (BitVec.ofNat 64 (m.judge none none)) (fun u => (u.cl c).resids = (s1.cl c).resids)) ∧
      (let l := (seqHere s1).running.launch
      let claim := if rdGang x = 0 then s1.claimOf c l m else none
      let refused := fun (st : Word) => answers (.resid d a) s d st (fun u => (u.cl c).resids = (s1.cl c).resids)
      let iter := rdIter x ≠ 0 → (m.itemAg 0).isSome = true
      let claims := rdGv x = true → claim.isSome = true
      s1.here = c → m.judge none none = 0 →
      (¬iter → refused 20) ∧ (iter → ¬claims → refused 21) ∧
      (iter → claims → ((s1.cl c).freeSlot = none ∨ s1.choosePlace c m (rdGv x) claim l = none) → refused 18) ∧
      (∀ r o mv, iter → claims → (s1.cl c).freeSlot = some r → s1.choosePlace c m (rdGv x) claim l = some (o, mv) →
        (∃ b ∈ m.binds, (s1.cl c).bindOk m o b = false) → refused 19) ∧
      (∀ r o mv, iter → claims → (s1.cl c).freeSlot = some r → s1.choosePlace c m (rdGv x) claim l = some (o, mv) →
        (∀ b ∈ m.binds, (s1.cl c).bindOk m o b = true) →
        let h := r + (((s1.cl c).resident r).gen + 1) % 4096 * 16
        answers (.resid d a) s d (BitVec.ofNat 64 (h * 2 ^ 32)) (fun u =>
          let y := (u.cl c).resident r
          y.live = true ∧ y.handle r = h ∧ y.ctx = ctx ∧ y.census = 0 ∧ y.csat = false ∧ y.origin = o ∧ y.rseed = rdSeed x ∧
          y.echan = rdEchan x ∧ y.emsg = rdEmsg x ∧ y.tag = rdTag x ∧ (seqHere u).sbuf = [] ∧
          y.iterva = BitVec.ofNat 64 (rdIter x) ∧ y.itemAg = (if rdIter x = 0 then none else m.itemAg o) ∧
          (rdGv x = false → y.gang = none) ∧
          (∀ n z k0, rdGv x = true → claim = some (n, z) → l = some k0 → y.gang = some (k0, n) ∧
            ∃ g z2, u.gang (dieOf c) k0 = some g ∧ g.members[n]? = some z2 ∧ z2.mstate = 1 ∧ z2.handle = h) ∧
          (∀ n k0 g, rdGv x = false → mv = [] → l = some k0 → s1.gang (dieOf c) k0 = some g → n < g.members.length →
            n ∈ (s1.cl c).touched k0 ((rectPages o m.w m.h).getD []) m.islands →
            ∃ g2 z2, u.gang (dieOf c) k0 = some g2 ∧ g2.members[n]? = some z2 ∧ z2.mstate = 3) ∧
          (∀ p ∈ (rectPages o m.w m.h).getD [], (u.cl c).page p = .held r) ∧
          (∀ i j, i < 4 * m.w → j < 4 * m.h →
            let t := (u.cl c).tile (16 * ((pageTile o).2 + j) + (pageTile o).1 + i)
            t.fg = some (m.tileCfg 0 i j) ∧ t.bg = none ∧ t.flags = 0 ∧ t.fidx = 0))))))) ∧
  (∀ (s s1 : State) (d a b : Reg), plainReg d → plainReg a → plainReg b →
    let c := s.here
    let ctx := (seqHere s).running.ctx
    let live := s.liveResid c ctx (srcVal s b).toNat
    (live = none → answers (.cfg d a b) s d 16 (fun u => (u.cl c).tiles = (s.cl c).tiles)) ∧
    (∀ r, live = some r →
      let x := (s.cl c).resident r
      (x.draining = true → answers (.cfg d a b) s d 16 (fun u => (u.cl c).tiles = (s.cl c).tiles)) ∧
      (x.draining = false → (∃ t ∈ x.tiles, ((s.cl c).tile t).bg ≠ none) →
        answers (.cfg d a b) s d 17 (fun u => (u.cl c).tiles = (s.cl c).tiles)) ∧
      (∀ m, x.draining = false → (∀ t ∈ x.tiles, ((s.cl c).tile t).bg = none) →
        (s.drainAll c).readImage c ctx (srcVal s a).toNat = (.ok m, s1) →
        m.judge (some (x.w, x.h)) (some (pageTile x.origin)) = 0 → (s1.cl c).cfgClash m r x = 0 →
        x.origin % 4 + m.w ≤ 4 →
        answers (.cfg d a b) s d 0 (fun u => ∀ i j, i < 4 * m.w → j < 4 * m.h →
          let n := 16 * ((pageTile x.origin).2 + j) + (pageTile x.origin).1 + i
          ((u.cl c).tile n).bg = some (m.tileCfg ((s1.cl c).nextCfg ((s1.cl c).resident r)) i j) ∧
          ((u.cl c).tile n).fg = ((s1.cl c).tile n).fg ∧ ((u.cl c).tile n).mt = ((s1.cl c).tile n).mt))))

/-- R332, R333: PARAM appends one token with the value of its register to a queue of four; RESUME restarts a stopped
AG; GBAR records an arrival, and the last arrival of a phase advances it; each with its refusals in the order of the
rules.  Forms said to complete, under the conditions shown: param, resume, gbar.  What the rules leave open here is
the model's choice: log entries 23 and 44. -/
def Obligations.ResidencyCommands : Prop :=
  ∀ (s : State) (d a b : Reg), plainReg d → plainReg a → plainReg b →
    let c := s.here
    let t := srcVal s a
    let v := srcVal s b
    let live := s.liveResid c (seqHere s).running.ctx (tgHandle t)
    let g := (s.cl c).ag (tgUnit t)
    let keeps := fun (u : State) => (u.cl c).ags = (s.cl c).ags ∧ u.dies = s.dies
    let lo := v.setWidth 32
    let hi := (v >>> 32).setWidth 32
    ((2 ^ 23 ≤ t.toNat ∨ tgMk t % 2 = 1) → answers (.param d a b) s d 26 keeps) ∧
    (t.toNat < 2 ^ 23 → tgMk t % 2 = 0 → live = none → answers (.param d a b) s d 16 keeps) ∧
    (∀ r, t.toNat < 2 ^ 23 → tgMk t % 2 = 0 → live = some r →
      (tgUnit t ∉ ((s.cl c).resident r).ags ∨ g.ended = true ∨ ∃ x, g.fg = some x ∧ x.word.getLsbD 3 = false) →
      answers (.param d a b) s d 26 keeps) ∧
    (∀ r x, t.toNat < 2 ^ 23 → tgMk t % 2 = 0 → live = some r → tgUnit t ∈ ((s.cl c).resident r).ags → g.fg = some x →
      x.word.getLsbD 3 = true → g.ended = false →
      ((s.cl c).paramLinked (tgUnit t) = true → answers (.param d a b) s d 24 keeps) ∧
      ((s.cl c).paramLinked (tgUnit t) = false → 4 ≤ g.params.length → answers (.param d a b) s d 23 keeps) ∧
      ((s.cl c).paramLinked (tgUnit t) = false → g.params.length < 4 → answers (.param d a b) s d 0 (fun u =>
        ∃ tok : Token, ((u.cl c).ag (tgUnit t)).params = g.params ++ [(tok, false)] ∧ tok.valid = 3 ∧ tok.lane 0 = lo.toNat ∧
          tok.lane 1 = hi.toNat ∧ tok.mcode = tgMk t ∧ tok.cns = false))) ∧
    (2 ^ 21 ≤ t.toNat → answers (.resume d a) s d 26 keeps) ∧
    (t.toNat < 2 ^ 21 → live = none → answers (.resume d a) s d 16 keeps) ∧
    (∀ r, t.toNat < 2 ^ 21 → live = some r →
      (¬(tgUnit t ∈ ((s.cl c).resident r).ags ∧ g.stopped = true) → answers (.resume d a) s d 22 keeps) ∧
      (tgUnit t ∈ ((s.cl c).resident r).ags → g.stopped = true →
        answers (.resume d a) s d 0 (fun u => ((u.cl c).ag (tgUnit t)).stopped = false))) ∧
    ((2 ^ 18 ≤ t.toNat ∨ 2 ^ 20 ≤ v.toNat) → answers (.gbar d a b) s d 26 keeps) ∧
    (t.toNat < 2 ^ 18 → v.toNat < 2 ^ 20 → live = none → answers (.gbar d a b) s d 16 keeps) ∧
    (∀ r, t.toNat < 2 ^ 18 → v.toNat < 2 ^ 20 → live = some r → ((s.cl c).resident r).gang = none →
      answers (.gbar d a b) s d 21 keeps) ∧
    (∀ r l n gg x, t.toNat < 2 ^ 18 → v.toNat < 2 ^ 20 → live = some r → ((s.cl c).resident r).gang = some (l, n) →
      s.gang (dieOf c) l = some gg → gg.barriers[fld t.toNat 17 16]? = some x →
      let y : GArrival := { member := n, cl := c, chan := mwChan v, tag := mwTag v }
      let all := ∀ (j : Nat) (z : Member), gg.members[j]? = some z → (z.mstate = 0 ∨ z.mstate = 1) → ∃ e ∈ x.arrivals ++ [y], e.member = j
      ((∃ e ∈ x.arrivals, e.member = n) → answers (.gbar d a b) s d 25 keeps) ∧
      ((∀ e ∈ x.arrivals, e.member ≠ n) → ¬all → answers (.gbar d a b) s d 0 (fun u => ∃ g2, u.gang (dieOf c) l = some g2 ∧
        g2.barriers[fld t.toNat 17 16]? = some { x with arrivals := x.arrivals ++ [y] })) ∧
      ((∀ e ∈ x.arrivals, e.member ≠ n) → all → answers (.gbar d a b) s d 0 (fun u => ∃ g2, u.gang (dieOf c) l = some g2 ∧
        g2.barriers[fld t.toNat 17 16]? = some { phase := (x.phase + 1) % 2 ^ 32, arrivals := [] })))

/-- R346 to R349, R238: a tile whose unit and switches have ended adopts its background with its flags kept, or goes
idle with its flags, FIDX and MT contents kept, and gives its page back with the last, of which only the flags stay;
one that has not ended stays. A store to a tile's flags clears the flags it names.  R111, R331, R349: the last tile of
a residency that goes idle ends it, and so does the firing that takes its census to zero: it is live no more, it holds
nothing, and its end message gives the handle, the tag, the census and CSAT; at the census-zero event every unit of it
is idle, with every token discarded.  R69, R352: a claim adds one to NEXT at its home and hands the item's value, or
EOS once the items have run out, to the item AG as a PARAM token; while an older copy has still to write NEXT it
waits.  R350, R351: a movable residency makes the next move that an eligible launch needs, to a page set that is free,
with its tiles as they were; no other residency moves, and without such a launch none does.  Forms said to complete,
under the conditions shown: tileTeardown, tileFlagWrite, mtclr, iterationClaim, residencyMove.  What the rules leave
open here is the model's choice: log entries 32, 43 and 44. -/
def Obligations.ResidencyLifetime : Prop :=
  (∀ (s : State),
    let c := s.here
    let k := s.cl c
    let x := s.actor.unit
    let t := k.tile x
    let gone := t.fg.isNone = true ∨ (t.unitEnded = true ∧ t.switchesEnded = true)
    (∀ r, x < 256 → k.tileOwner x = some r → k.isFrozen x = false →
      (∀ g, gone → t.bg = some g → leaves .tileTeardown s (fun u =>
        let v := (u.cl c).tile x
        v.fg = some g ∧ v.bg = none ∧ v.op = {} ∧ v.flags = t.flags ∧ v.fidx = t.fidx ∧ v.lk.outs = [] ∧ v.lk.bufs = t.lk.bufs ∧
          (u.cl c).page (pageOfTile x) = .held r)) ∧
      (gone → t.bg = none → t.fg.isSome = true → leaves .tileTeardown s (fun u =>
        let last := (∀ y ∈ tilesOfPage (pageOfTile x), y ≠ x → (k.tile y).idle = true) ∧ pageOfTile x ∈ (k.resident r).pages
        (last → (u.cl c).tile x = { flags := t.flags } ∧ (u.cl c).page (pageOfTile x) = .free) ∧
        (¬last → (u.cl c).tile x = { flags := t.flags, fidx := t.fidx, mt := t.mt } ∧
          (u.cl c).page (pageOfTile x) = k.page (pageOfTile x)))) ∧
      (¬gone → exec .tileTeardown s = .next s)) ∧
    (∀ (y : BitVec 8) (v : BitVec 64), leaves (.tileFlagWrite y v) s (fun u =>
      (∀ i, i < 7 → ((u.cl c).tile y.toNat).flags.testBit i = ((k.tile y.toNat).flags.testBit i && !v.getLsbD i)) ∧
      ∀ z, z ≠ y.toNat → (u.cl c).tile z = k.tile z))) ∧
  (∀ (s : State) (r : Nat) (f : MtF),
    let c := s.here
    let k := s.cl c
    let x := k.resident r
    let y := s.actor.unit
    let t := k.tile y
    let tells := x.emsg = true → s.chanRoom c x.echan = true ∧ k.held = [] ∧ s.savedCtx c x.echan = none
    let endMsg := fun (census : Nat) => ({ w0 := BitVec.ofNat 64 (x.handle r + x.tag * 2 ^ 16), w1 := BitVec.ofNat 64 census,
                                           w2 := if x.csat then 1 else 0 } : Msg)
    let ended := fun (u : State) (census : Nat) =>
      let z := (u.cl c).resident r
      z.live = false ∧ z.pages = [] ∧ z.ags = [] ∧ z.islands = [] ∧ z.handle r = x.handle r ∧ u.mem = s.mem ∧
      (u.chan c x.echan).queue = (s.chan c x.echan).queue ++ (if x.emsg then [{ msg := endMsg census, ctx := x.ctx }] else [])
    (y < 256 → k.tileOwner y = some r → k.isFrozen y = false → x.live = true → t.fg.isSome = true → t.bg = none →
      t.unitEnded = true → t.switchesEnded = true → (∀ z ∈ tilesOfPage (pageOfTile y), z ≠ y → (k.tile z).idle = true) →
      x.pages = [pageOfTile y] → x.ags = [] → x.islands = [] → x.gang = none → tells →
      leaves .tileTeardown s (fun u => ended u x.census)) ∧
    (let n := (tileHere s).lk.kept + ((mtToks s f).map (fun t => b2n t.cns)).sum
     mtFires s f → k.tileOwner (y % 256) = some r → (tileHere s).op = {} → x.live = true → x.gang = none → n ≠ 0 → x.census ≠ 0 →
      x.census ≤ n → x.csat = false → tells →
      leaves (.mtclr f) s (fun u => ended u 0 ∧
        (∀ p ∈ x.pages, (u.cl c).page p = .free ∧ ∀ z ∈ tilesOfPage p, ((u.cl c).tile z).idle = true ∧ ((u.cl c).tile z).lk = {}) ∧
        (∀ a ∈ x.ags, ((u.cl c).ag a).fg = none ∧ ((u.cl c).ag a).lk = {}) ∧ (∀ i ∈ x.islands, ((u.cl c).mat i).fg = none)))) ∧
  (∀ (s s1 : State) (slot : BitVec 4) (a pa mt : Nat),
    let c := s.here
    let x := (s.cl c).resident slot.toNat
    let g := (s.cl c).ag a
    let ready := x.itemAg = some a ∧ x.live = true ∧ x.frozen = false ∧ x.iterva ≠ 0 ∧ x.claimsDone = false ∧ g.fg.isSome = true ∧
      g.stopped = false ∧ 3 ∉ g.lk.slotEos ∧ (∀ p ∈ g.params, p.2 = false) ∧ g.params.length < 4 ∧
      (s.cl c).stalls none 0 x.ctx x.iterva.toNat 8 = false
    (x.itemAg = none → exec (.iterationClaim slot) s = .next s) ∧
    ((s.cl c).stalls none 0 x.ctx x.iterva.toNat 8 = true → exec (.iterationClaim slot) s = .next s) ∧
    (ready → s.translate c (dieOf c) c x.ctx .atomic x.iterva.toNat = (.ok pa mt, s1) → s1.poisonedAt pa = false → MemInv s →
      let old := ofBytes (s1.mem.bytes pa 8)
      let count := ofBytes (s1.mem.bytes (pa + 8) 8)
      let base := ofBytes (s1.mem.bytes (pa + 16) 8)
      let step := ofBytes (s1.mem.bytes (pa + 24) 8)
      leaves (.iterationClaim slot) s (fun u =>
        u.mem.bytes pa 8 = toBytes 8 (old + 1) ∧
        ∃ tok : Token, ((u.cl c).ag a).params = g.params ++ [(tok, true)] ∧
          (old < count → tok.valid = 3 ∧ tok.lane 0 = (base + old * step) % 2 ^ 32 ∧
            tok.lane 1 = (base + old * step) % 2 ^ 64 / 2 ^ 32 ∧ ((u.cl c).resident slot.toNat).claimsDone = false) ∧
          (count ≤ old → tok.mark = .eos ∧ tok.valid = 0 ∧ ((u.cl c).resident slot.toNat).claimsDone = true)))) ∧
  (∀ (s : State) (slot page : BitVec 4),
    let c := s.here
    let k := s.cl c
    let r := slot.toNat
    let x := k.resident r
    (s.nextMove c ≠ some (r, page.toNat) → exec (.residencyMove slot page) s = .next s) ∧
    (s.nextMove c = some (r, page.toNat) → ∃ u, exec (.residencyMove slot page) s = .next u ∧
      (k.canMove r = true → k.moveFits r page.toNat = true →
      let y := (u.cl c).resident r
      y.live = true ∧ y.origin = page.toNat ∧ y.w = x.w ∧ y.h = x.h ∧ y.handle r = x.handle r ∧ y.census = x.census ∧
      y.pages = x.pages.map (fun p => p + page.toNat - x.origin) ∧ (∀ p ∈ y.pages, (u.cl c).page p = .held r) ∧
      (∀ q, q ≠ r → (u.cl c).resident q = k.resident q) ∧ (x.gang = none → u.mem = s.mem))))

/-- R337, R355: LNCH queues a packet that passes every check, with the next launch number; a misaligned packet and one
out of range are malformed.  R356, R357, R358, R402: a launch becomes eligible once its waits hold; its ageing steps
are the 2 ms periods it has waited; one that does not fit blocks 16 ms after it reached priority 7; admission takes a
launch that fits off the queue and makes its members a gang; a die in an emergency admits nothing.  Forms said to
complete, under the conditions shown: lnch, launchEligible, launchAgeing, launchBlocking, launchAdmission.  What the
rules leave open here is the model's choice: log entries 19 and 46. -/
def Obligations.Launches : Prop :=
  (∀ (s s1 s2 : State) (d a : Reg) (bs : List Byte), plainReg d → plainReg a →
    let c := s.here
    let n := dieOf c
    let ctx := (seqHere s).running.ctx
    ((srcVal s a).toNat % 64 ≠ 0 → answers (.lnch d a) s d 20 (fun u => u.dies = s.dies)) ∧
    ((srcVal s a).toNat % 64 = 0 → (s.drainAll c).cmdRead c ctx (srcVal s a).toNat 64 = (.ok bs, s1) →
      let p := ofBytes bs
      let r := s1.releaseAt c .die
      ((lpBad p = true ∨ lpCtx p ≠ ctx ∨ (r.ctx ctx).live = false) → answers (.lnch d a) s d 20 (fun u => u.dies = s1.dies)) ∧
      (∀ es l, lpBad p = false → lpCtx p = ctx → (r.ctx ctx).live = true →
        r.engRead (whoLaunch n) ctx (lpShapeva p) ((4 * (if lpElastic p then 1 else lpNmemb p) + 7) / 8 * 8 + 16 * lpNwait p) =
          (.ok es, s2) →
        launchOf p (plain es) (s2.die n).nextLaunch (msgOf (toBytes 32 (p / 2 ^ 256))) none = some l → anyPoison es = false →
        placeTest ((List.range (if l.elastic then l.minmemb else l.nmemb)).map l.shape) (List.replicate 40 {}) = true →
        ((s2.ctx ctx).maxprio < lpPrio p → answers (.lnch d a) s d 33 (fun u => (u.die n).launches = (s2.die n).launches)) ∧
        (lpPrio p ≤ (s2.ctx ctx).maxprio → 256 ≤ ((s2.die n).launches.filter (fun y => y.prio == lpPrio p)).length →
          answers (.lnch d a) s d 31 (fun u => (u.die n).launches = (s2.die n).launches)) ∧
        (lpPrio p ≤ (s2.ctx ctx).maxprio → ((s2.die n).launches.filter (fun y => y.prio == lpPrio p)).length < 256 →
          answers (.lnch d a) s d (BitVec.ofNat 64 ((s2.die n).nextLaunch * 2 ^ 32)) (fun u =>
            (u.die n).nextLaunch = ((s2.die n).nextLaunch + 1) % 2 ^ 32 ∧
            ∃ l2, (u.die n).launches = (s2.die n).launches ++ [l2] ∧ l2.num = (s2.die n).nextLaunch ∧ l2.ctx = ctx ∧
              l2.prio = lpPrio p ∧ l2.entry = BitVec.ofNat 64 (lpEntry p) ∧ (lpNwait p = 0 → l2.eligible = true)))))) ∧
  (∀ (s s1 : State) (n : BitVec 32) (l : Launch),
    let d := s.actor.die
    let k := s.die d
    let find := fun (u : State) => (u.die d).launches.find? (fun y => y.num == n.toNat)
    (find s = some l → State.readWaits d l.ctx l.waits s = ([], s1) →
      leaves (.launchEligible n) s (fun u => find u =
        some { l with waits := [], eligible := true, since := if l.eligible then l.since else k.clock })) ∧
    (k.launches.find? (fun y => y.num == n.toNat && y.eligible) = some l →
      (leaves (.launchAgeing n) s (fun u => ∃ l2, find u = some l2 ∧ l2.aged = (k.clock - l.since) / 2000 ∧
        (l2.since7 = none ↔ l.prio + (k.clock - l.since) / 2000 < 7) ∧ l2.since = l.since ∧ l2.prio = l.prio)) ∧
      (l.since + (7 - l.prio) * 2000 + 16000 ≤ k.clock → s.tryPlace d l = none →
        leaves (.launchBlocking n) s (fun u => ∃ l2, find u = some l2 ∧ l2.blocking = true)) ∧
      (k.clock < l.since + (7 - l.prio) * 2000 + 16000 → exec (.launchBlocking n) s = .next s)) ∧
    (∀ ms, k.emerg.phase = .none → k.hqs = [] → k.launches = [l] → l.eligible = true → s.tryPlace d l = some (ms, s1) →
      leaves .launchAdmission s (fun u => (u.die d).launches = [] ∧
        ∃ g, u.gang d l.num = some g ∧ g.members = ms ∧ g.launch = { l with blocking := false } ∧ g.done = false)) ∧
    (k.emerg.phase ≠ .none → exec .launchAdmission s = .next s))

/-- R364, R365, R366, R427: the control word of a host queue, which while EN is 1 takes only a write that clears EN;
its doorbell, whose value stays also while EN is 0 or in MODE 0, and its tail; packets that arrive over a link, of
which a malformed one is BADDESC before its origin is judged (R355); a link's accesses other than writes of its
window.  Forms said to complete, under the conditions shown: hqctl, hqmirror, hostQueueTail, linkLaunchSlot,
linkAccessRefused.  What the rules leave open here is the model's choice: log entry 47. -/
def Obligations.HostQueues : Prop :=
  ∀ (s : State) (q : BitVec 4) (v : BitVec 64),
    let d := s.actor.die
    let x := (s.die d).hq q.toNat
    let hq := fun (u : State) => (u.die d).hq q.toNat
    (x.en = false → v.getLsbD 0 = true → 4 ≤ fld v.toNat 12 8 → fld v.toNat 12 8 ≤ 16 →
      leaves (.hqctl q v) s (fun u => hq u = { x with ctl := v &&& 0x1FFF#64, head := 0, tail := none })) ∧
    (x.en = false → v.getLsbD 0 = false → leaves (.hqctl q v) s (fun u => hq u = { x with ctl := v &&& 0x1FFF#64, tail := none })) ∧
    (x.en = true → v.getLsbD 0 = true → leaves (.hqctl q v) s (fun u => hq u = x)) ∧
    (x.en = true → v.getLsbD 0 = false → leaves (.hqctl q v) s (fun u => hq u = { x with ctl := v &&& 0x1FFF#64 })) ∧
    ((x.en = false ∨ x.inTierH = false) → leaves (.hqmirror q v) s (fun u => hq u = { x with mirror := v.toNat % 2 ^ 32 })) ∧
    (x.en = true → x.inTierH = true → v.toNat % 2 ^ 32 = x.head → leaves (.hqmirror q v) s (fun u => hq u = { x with mirror := x.head })) ∧
    (x.en = true → x.inTierH = true → x.head < 2 ^ 32 → 2 ^ x.logN < (v.toNat % 2 ^ 32 + 2 ^ 32 - x.head) % 2 ^ 32 →
      leaves (.hqmirror q v) s (fun u => hq u = { x with mirror := v.toNat % 2 ^ 32, ctl := x.ctl &&& ~~~1#64, overrun := true })) ∧
    (∀ st n s1 p, x.en = true → x.inTierH = true → x.head < 2 ^ 32 → v.toNat % 2 ^ 32 = (x.head + 1) % 2 ^ 32 →
      (s.posted.setHq d q.toNat { x with mirror := v.toNat % 2 ^ 32 }).hqPacket { x with mirror := v.toNat % 2 ^ 32 } = (some p, s.posted.setHq d q.toNat { x with mirror := v.toNat % 2 ^ 32 }) →
      (s.posted.setHq d q.toNat { x with mirror := v.toNat % 2 ^ 32 }).accept d p (fun c => c == x.ctx) none none = (st, n, s1) →
      leaves (.hqmirror q v) s (fun u => (hq u).head = (if st = 31 then x.head else (x.head + 1) % 2 ^ 32) ∧
        (hq u).refused = (if st = 0 ∨ st = 31 then x.refused else (x.refused + 1) % 2 ^ 32))) ∧
    (x.en = true → x.inTierH = false → ∃ t : Nat, leaves (.hostQueueTail q) s (fun u => (hq u).tail = some (t % 2 ^ 32))) ∧
    (x.en = false → exec (.hostQueueTail q) s = .next s) ∧
    (∀ (origin : BitVec 64) (p : BitVec 512),
      let ctx := lpCtx p.toNat
      let told := fun (u : State) (st : Nat) => u.pkg.outbox = s.pkg.outbox ++ [{ kind := 0, dest := origin.toNat, data := toBytes 8 st }]
      let tells := fun (st : Nat) => leaves (.linkLaunchSlot origin p) s (fun u => u.dies = s.dies ∧ told u st)
      (bit s.pkg.features 9 = false → tells 5) ∧
      (bit s.pkg.features 9 = true → (lpBad p.toNat = true ∨ (s.ctx ctx).live = false) → tells 20) ∧
      (∀ es s2 l, bit s.pkg.features 9 = true → lpBad p.toNat = false → (s.ctx ctx).live = true →
        s.engRead (whoLaunch d) ctx (lpShapeva p.toNat)
          ((4 * (if lpElastic p.toNat then 1 else lpNmemb p.toNat) + 7) / 8 * 8 + 16 * lpNwait p.toNat) = (.ok es, s2) →
        launchOf p.toNat (plain es) (s2.die d).nextLaunch (msgOf (toBytes 32 (p.toNat / 2 ^ 256))) (some origin.toNat) = some l →
        anyPoison es = false →
        placeTest ((List.range (if l.elastic then l.minmemb else l.nmemb)).map l.shape) (List.replicate 40 {}) = true →
        ¬(bit (s2.ctx ctx).rights 1 = true ∧ s2.peerNamed d ctx origin.toNat = true) →
        leaves (.linkLaunchSlot origin p) s (fun u => u.dies = s2.dies ∧ told u 33)) ∧
      (∀ n s1, bit s.pkg.features 9 = true → s.accept d p.toNat (fun _ => true) none (some origin.toNat) = (0, n, s1) →
        exec (.linkLaunchSlot origin p) s = .next s1)) ∧
    (∀ (link : BitVec 5) (acc : PeerAccess), (acc.write = false ∨ inLinkWindow acc.pa.toNat = false) →
      leaves (.linkAccessRefused link acc) s (fun u => u.mem = s.mem ∧ u.dies = s.dies ∧ u.clusters = s.clusters ∧
        u.pkg.outbox = s.pkg.outbox ++ [{ kind := 6, dest := link.toNat, addr := acc.pa.toNat }]))

/-- R334, R335, R369, R370: LEASE grants a free praline at once with its handle, queues the request with its number,
or refuses; LFREE withdraws a request; PCMD queues a command on a lease it holds, and waits while the descriptor's
bank changes its mode (R79).  R368, R370, R371, R372, R374: the arbiter grants a queued request that has become
grantable and posts GRANT, with the tag, the handle and the request number; a praline is ready after its wake latency,
sleeps after 1 ms without work, and lingers 100 microseconds without a lease; a lease under notice ends no sooner than
200 microseconds after it.  Forms said to complete, under the conditions shown: lease, lfree, pcmd, leaseArbitration,
pralineReady, pralineIdleSleep, lingerExpiry, leaseEviction.  What the rules leave open here is the model's choice:
log entries 19 and 48. -/
def Obligations.Leases : Prop :=
  (∀ (s : State) (d a b : Reg), plainReg d → plainReg a → plainReg b →
    let c := s.here
    let k := s.die (dieOf c)
    let ctx := (seqHere s).running.ctx
    let v := (srcVal s a).toNat
    let w := (srcVal s b).toNat
    let kind := v % 4
    let good := v < 8 ∧ w < 2 ^ 20 ∧ bit s.pkg.features 5 = true
    let free := (List.range 8).find? (fun i => ((s.cl c).lslot i).st == SlotSt.free)
    let keeps := fun (u : State) => u.dies = s.dies ∧ (u.cl c).leases = (s.cl c).leases
    ((8 ≤ v ∨ 2 ^ 20 ≤ w) → answers (.lease d a b) s d 26 keeps) ∧
    (v < 8 → w < 2 ^ 20 → bit s.pkg.features 5 = false → answers (.lease d a b) s d 33 keeps) ∧
    (good → free = none → answers (.lease d a b) s d 29 keeps) ∧
    (∀ i, good → free = some i →
      let gen := (((s.cl c).lslot i).gen + 1) % 2 ^ 14
      (∀ p k2, k.grant kind (.slot (localOf c) i) = some (p, k2) →
        answers (.lease d a b) s d (BitVec.ofNat 64 ((i + kind * 2 ^ 3 + p % 16 * 2 ^ 5 + gen * 2 ^ 16) * 2 ^ 32)) (fun u =>
          p / 16 = kind ∧ ((u.cl c).lslot i).st = .lease ∧ ((u.cl c).lslot i).praline = p ∧ ((u.cl c).lslot i).ctx = ctx ∧
          ((u.die (dieOf c)).praline p).holder = some (.slot (localOf c) i) ∧ (k.praline p).holder = none)) ∧
      (k.grant kind (.slot (localOf c) i) = none → (bit v 2 = true ∨ 128 ≤ (k.leaseQ.filter (fun e => !e.wake)).length) →
        answers (.lease d a b) s d 29 keeps) ∧
      (k.grant kind (.slot (localOf c) i) = none → bit v 2 = false → (k.leaseQ.filter (fun e => !e.wake)).length < 128 →
        answers (.lease d a b) s d (BitVec.ofNat 64 (28 + (i + gen * 2 ^ 16 + 2 ^ 30) * 2 ^ 32)) (fun u =>
          ((u.cl c).lslot i).st = .request ∧ (u.die (dieOf c)).leaseQ = k.leaseQ ++
            [{ wake := false, holder := .slot (localOf c) i, kind := kind, prio := (s.ctx ctx).maxprio }]))) ∧
    (let x := (s.cl c).lslot (v % 8);
      (x.st = .request → x.ctx = ctx → x.number (v % 8) = v →
        answers (.lfree d a) s d 0 (fun u => ((u.cl c).lslot (v % 8)).st = .free ∧
          (u.die (dieOf c)).leaseQ = k.leaseQ.filter (fun e => e.holder != .slot (localOf c) (v % 8)))) ∧
      (x.ctx ≠ ctx → (∀ y ∈ s.pkg.boosts, y.ctx ≠ ctx) → answers (.lfree d a) s d 27 keeps) ∧
      (x.st = .lease → x.ctx = ctx → x.handle (v % 8) = v → pcmdsOf x.q = [] → k.leaseQ = [] →
        answers (.lfree d a) s d 0 (fun u => ((u.cl c).lslot (v % 8)).st = .free ∧
          ((u.die (dieOf c)).praline x.praline).holder = none))) ∧
    (let x := (s.cl c).lslot (w % 8);
     let held := x.st = .lease ∧ x.ctx = ctx ∧ x.handle (w % 8) = w;
     let cut := s.descCut v 64;
      (cut = true → exec (.pcmd d a b) s = .next s) ∧
      (cut = false → held → 8 ≤ x.q.length → answers (.pcmd d a b) s d 1 keeps) ∧
      (cut = false → ¬(held ∧ 8 ≤ x.q.length) → (s.cl c).localDesc v 64 64 = none → answers (.pcmd d a b) s d 3 keeps) ∧
      (∀ bs, cut = false → (s.cl c).localDesc v 64 64 = some bs →
        (¬held → answers (.pcmd d a b) s d 6 keeps) ∧
        (held → x.q.length < 8 → ofBytes bs % 16 / 2 ≠ x.kind → answers (.pcmd d a b) s d 5 keeps) ∧
        (held → x.q.length < 8 → ofBytes bs % 16 / 2 = x.kind → answers (.pcmd d a b) s d (BitVec.ofNat 64 (x.next * 2 ^ 16)) (fun u =>
          u.mem = memAfterStores s.mem (seqHere s).sbuf ∧
          ((u.cl c).lslot (w % 8)).q = x.q ++ [.cmd { desc := ofBytes bs, seq := x.next, ctx := ctx }]))))) ∧
  (∀ (s : State) (p : BitVec 6),
    let d := s.actor.die
    let k := s.die d
    let x := k.praline p.toNat
    let px := fun (u : State) => (u.die d).praline p.toNat
    let wake := if p.toNat / 16 = 0 then 8 else if p.toNat / 16 = 1 then 4 else if p.toNat / 16 = 2 then 6 else 3
    (k.leaseQ = [] → exec .leaseArbitration s = .next s) ∧
    (∀ cl i kind prio n k2, k.leaseQ = [{ wake := false, holder := .slot cl i, kind := kind, prio := prio }] → cl < 40 →
      prio < 8 → k.grant kind (.slot cl i) = some (n, k2) →
      leaves .leaseArbitration s (fun u => (u.die d).leaseQ = [] ∧ ((u.cl (d * 40 + cl)).lslot i).st = .lease ∧
        ((u.cl (d * 40 + cl)).lslot i).praline = n ∧ ((u.die d).praline n).holder = some (.slot cl i) ∧
        let y := (s.cl (d * 40 + cl)).lslot i
        ((s.cl (d * 40 + cl)).held = [] → s.chanRoom (d * 40 + cl) y.chan = true → s.savedCtx (d * 40 + cl) y.chan = none →
          (u.chan (d * 40 + cl) y.chan).queue = (s.chan (d * 40 + cl) y.chan).queue ++
            [{ msg := { w0 := BitVec.ofNat 64 (0x40 + y.tag * 2 ^ 16 + (i + y.kind * 2 ^ 3 + n % 16 * 2 ^ 5 + y.gen * 2 ^ 16) * 2 ^ 32),
                        w1 := BitVec.ofNat 64 (i + y.gen * 2 ^ 16 + 2 ^ 30), w2 := 0, w3 := 0 }, ctx := y.ctx }]))) ∧
    (x.awake = true → x.ready = false → x.since + wake ≤ k.clock →
      leaves (.pralineReady p) s (fun u => px u = { x with ready := true })) ∧
    ((x.awake = false ∨ k.clock < x.since + wake) → exec (.pralineReady p) s = .next s) ∧
    (x.awake = true → s.workless d p.toNat = true → x.idle + 1000 ≤ k.clock →
      leaves (.pralineIdleSleep p) s (fun u => px u = { x with awake := false, ready := false })) ∧
    ((s.workless d p.toNat = false ∨ k.clock < x.idle + 1000) → exec (.pralineIdleSleep p) s = .next s) ∧
    (x.awake = true → x.holder = none → x.idle + 100 ≤ k.clock →
      leaves (.lingerExpiry p) s (fun u => px u = { x with awake := false, ready := false })) ∧
    ((x.holder ≠ none ∨ k.clock < x.idle + 100) → exec (.lingerExpiry p) s = .next s) ∧
    (∀ t cl i, x.notice = some t → t + 200 ≤ k.clock → x.holder = some (.slot cl i) → cl < 40 → k.leaseQ = [] →
      ((s.cl (d * 40 + cl)).lslot i).praline = p.toNat → ((s.cl (d * 40 + cl)).lslot i).q = [] →
      leaves (.leaseEviction p) s (fun u => ((u.cl (d * 40 + cl)).lslot i).st = .free ∧ (px u).holder = none ∧ (px u).notice = none)) ∧
    ((x.notice = none ∨ ∃ t, x.notice = some t ∧ k.clock < t + 200) → exec (.leaseEviction p) s = .next s))

/-- R336, R396, R397, R398: BOOST judges its request in the order of R336 and grants within 800 W and 80 J; an expired
lease ends; every lease is given notice when the input is limited, but one that has run its time, which ends (R399); a
notice ends no sooner than 100 microseconds after; spine 0 runs at 2,800 MHz exactly while the die holds a lease.
R389, R392, R394, R402: an interval sets a region's bucket, to at least 64 tokens for a region in use and to exactly
that floor in an emergency; a spine takes the frequency that was asked for; PSTALL takes what is written.  Forms said
to complete, under the conditions shown: boost, boostExpiry, boostNoticeEnd, supplyLimit, boostSpineSwitch,
powerInterval, spineChange, pstall.  What the rules leave open here is the model's choice: log entries 28 and 49. -/
def Obligations.Power : Prop :=
  (∀ (s : State) (d a b : Reg), plainReg d → plainReg a → plainReg b →
    let c := s.here
    let ctx := (seqHere s).running.ctx
    let v := (srcVal s a).toNat
    let w := (srcVal s b).toNat
    let watts := v % 2 ^ 16
    let bad := watts = 0 ∨ 800 < watts ∨ 2 ^ 20 ≤ v ∨ w = 0 ∨ 100000 < w
    let rights := bit (s.ctx ctx).rights 0 = true ∧ bit s.pkg.features 5 = true
    let recent := s.pkg.boostLog.filter (fun e => decide (s.pkg.clock < e.1 + 1000000))
    let tooMuch := 800 < (s.pkg.boosts.map Boost.watts).sum + watts ∨ 80000000 < (recent.map Prod.snd).sum + watts * w ∨
      ∃ n, n < 4 ∧ ((s.die n).warning = true ∨ (s.die n).emerg.phase ≠ .none)
    let keeps := fun (u : State) => u.pkg.boosts = s.pkg.boosts
    (bad → answers (.boost d a b) s d 26 keeps) ∧
    (¬bad → ¬rights → answers (.boost d a b) s d 33 keeps) ∧
    (¬bad → rights → (∃ x ∈ s.pkg.boosts, x.ctx = ctx) → answers (.boost d a b) s d 30 keeps) ∧
    (¬bad → rights → (∀ x ∈ s.pkg.boosts, x.ctx ≠ ctx) → tooMuch → answers (.boost d a b) s d 29 keeps) ∧
    (¬bad → rights → (∀ x ∈ s.pkg.boosts, x.ctx ≠ ctx) → ¬tooMuch →
      answers (.boost d a b) s d (BitVec.ofNat 64 ((ctx + dieOf c * 2 ^ 6 + s.pkg.boostGen * 2 ^ 16 + 2 * 2 ^ 30) * 2 ^ 32)) (fun u =>
        ∃ x : Boost, u.pkg.boosts = s.pkg.boosts ++ [x] ∧ x.ctx = ctx ∧ x.watts = watts ∧ x.dur = w ∧ x.die = dieOf c ∧
          x.start = (s.die (dieOf c)).clock ∧ x.notice = none)) ∧
    (∀ (n : BitVec 6) (x : Boost), s.pkg.boosts.find? (fun y => y.ctx == n.toNat) = some x →
      let now := (s.die x.die).clock
      (x.start + x.dur ≤ now → leaves (.boostExpiry n) s (fun u => u.pkg.boosts = s.pkg.boosts.filter (fun y => y.ctx != n.toNat))) ∧
      (now < x.start + x.dur → exec (.boostExpiry n) s = .next s) ∧
      (∀ t, x.notice = some t → (t + 100 ≤ now ∨ x.start + x.dur ≤ now) →
        leaves (.boostNoticeEnd n) s (fun u => u.pkg.boosts = s.pkg.boosts.filter (fun y => y.ctx != n.toNat))) ∧
      (∀ t, x.notice = some t → now < t + 100 → now < x.start + x.dur → exec (.boostNoticeEnd n) s = .next s)) ∧
    (∀ n : BitVec 16, leaves (.supplyLimit n) s (fun u => (∀ x ∈ u.pkg.boosts, x.notice ≠ none) ∧
      ((s.pkg.boosts.map Boost.ctx).Nodup → ∀ x ∈ s.pkg.boosts,
        let now := (s.die x.die).clock
        (x.notice ≠ none → x ∈ u.pkg.boosts) ∧
        (x.notice = none → now < x.start + x.dur → { x with notice := some now } ∈ u.pkg.boosts) ∧
        (x.notice = none → x.start + x.dur ≤ now → ∀ y ∈ u.pkg.boosts, y.ctx ≠ x.ctx)))) ∧
    leaves .boostSpineSwitch s (fun u =>
      ((∃ x ∈ s.pkg.boosts, x.die = s.actor.die) → (u.die s.actor.die).spine 0 = 2800) ∧
      ((∀ x ∈ s.pkg.boosts, x.die ≠ s.actor.die) → (u.die s.actor.die).spine 0 = 2400))) ∧
  (∀ (s : State),
    (∀ r : BitVec 6, r.toNat < 8 →
      leaves (.powerInterval r) s (fun u =>
        (s.regionUsed s.here r.toNat = true → 64 ≤ (u.cl s.here).power.get r.toNat 0) ∧
        ((s.die (dieOf s.here)).emerg.phase ≠ .none →
          (u.cl s.here).power.get r.toNat 0 = if s.regionUsed s.here r.toNat then 64 else 0) ∧
        (∀ j, j ≠ r.toNat → (u.cl s.here).power.get j 0 = (s.cl s.here).power.get j 0) ∧ u.mem = s.mem)) ∧
    (∀ (n : BitVec 3) (f : BitVec 12), (s.die s.actor.die).spineReq.find n.toNat = some f.toNat →
      leaves (.spineChange n f) s (fun u => (u.die s.actor.die).spine n.toNat = f.toNat ∧
        ∀ j, j ≠ n.toNat → (u.die s.actor.die).spine j = (s.die s.actor.die).spine j)) ∧
    (∀ (n : BitVec 3) (f : BitVec 12), (s.die s.actor.die).spineReq.find n.toNat ≠ some f.toNat →
      exec (.spineChange n f) s = .next s) ∧
    (∀ v : BitVec 64, leaves (.pstall v) s (fun u => (u.die s.actor.die).pstall = v ∧ u.clusters = s.clusters)))

/-! ### The fabric -/

/-- R97, R99, R100: once the kills that have reached its tile have acted, a switch word N, E, S or W takes the head of
its source into its output register and hands the register's token to the receiver's buffer, where that has room and
no earlier stream uses the channel; a slot word moves the head of its input straight into the slot's buffer, and the
last word to take a token pops it.  R106, R107, R109: a kill that reaches the sending end of a word's link is
remembered there, joined to the lanes already killed of its unit, and the lanes that every word taking the same source
has killed are cleared in that unit's tokens in the word's output register; one at an AG's output 0 is remembered
there too, one for a unit that has wholly left, or for a stream that the holder has replaced, does nothing, and one
for a stream that the holder has yet to adopt waits.  Forms said to complete, under the conditions shown:
switchForward, killPropagate.  What the rules leave open here is the model's choice: log entries 26, 30 and 72. -/
def Obligations.FabricSwitching : Prop :=
  (∀ (s : State) (w : BitVec 3),
    let c := s.here
    let x := s.actor.unit % 256
    let k := (s.cl c).takeKills x
    let t := k.tile x
    let n := w.toNat
    let sw := t.cfgNow.switch n
    let tile := fun (u : State) => (u.cl c).tile x
    let key := fun (i : Nat) => 4 * i + swVc sw
    ((s.cl c).isFrozen x = true ∨ ((s.cl c).tile x).fg = none → exec (.switchForward w) s = .next s) ∧
    ((s.cl c).isFrozen x = false → ((s.cl c).tile x).fg.isSome = true → swCns sw = false →
      (∀ tok fids, n < 4 → t.lk.out n = [] → swSrc sw ≠ 6 → k.wordHead x n = some (tok, fids) → tok.cns = false →
        leaves (.switchForward w) s (fun u => (tile u).lk.out n = [{ tok := tok, fids := fids }] ∧ u.mem = s.mem)) ∧
      (∀ e r y i, n < 4 → t.lk.out n = e :: r → e.fids = [] → k.wordHead x n = none → recvOf x n = .input y i →
        runAllowed (swCmp sw) (swCeil sw) e.tok = true → (k.tile y).lk.room (key i) = true →
        (t.cfgNow.cfg ≤ (k.tile y).cfgNow.cfg ∨ (k.tile y).inVc.contains (key i) = false) →
        leaves (.switchForward w) s (fun u => (tile u).lk.out n = [] ∧
          ((u.cl c).tile y).lk.buf (key i) = (k.tile y).lk.buf (key i) ++ [{ tok := e.tok, cfg := t.cfgNow.cfg }])) ∧
      (∀ tok, 4 ≤ n → swSrc sw < 4 → k.wordHead x n = some (tok, []) → tok.cns = false → t.lk.room (key n) = true →
        leaves (.switchForward w) s (fun u =>
          (tile u).lk.buf (key n) = t.lk.buf (key n) ++ [{ tok := tok, cfg := t.cfgNow.cfg }] ∧
          ∀ v e r, k.sharers x n = [n] → t.lk.nextVc (swSrc sw) t.cfgNow.cfg (k.streamVc x (swSrc sw) (swVc sw)) = some v →
            t.lk.buf (4 * swSrc sw + v) = e :: r → e.tok.logical = 1 → (tile u).lk.buf (4 * swSrc sw + v) = r)))) ∧
  (∀ (s : State) (n : Nat),
    let c := s.here
    let k := s.cl c
    let t := fun (u : State) (x : Nat) => (u.cl c).tile x
    let a := fun (u : State) (x : Nat) => (u.cl c).ag x
    (k.wires[n]? = none → exec (.killPropagate n) s = .next s) ∧
    (∀ m, k.wires[n]? = some m → k.holderCfg m.unit < m.cfg → exec (.killPropagate n) s = .next s) ∧
    (∀ m, k.wires[n]? = some m → m.cfg < k.holderCfg m.unit →
      leaves (.killPropagate n) s (fun u => (u.cl c).tiles = k.tiles ∧ (u.cl c).ags = k.ags ∧ (u.cl c).wires.length + 1 = k.wires.length)) ∧
    (∀ m, k.wires[n]? = some m → m.cfg = k.holderCfg m.unit →
      (∀ v, m.unit < 256 → killUnit ((t s m.unit).lk.units.get m.port 0) m.kseq = some v → m.port < 8 →
        leaves (.killPropagate n) s (fun u =>
          (t u m.unit).lk.killed m.port v = (t s m.unit).lk.killed m.port v ||| m.mask ∧
          (∀ l, l < 16 → swSrc ((t s m.unit).cfgNow.switch m.port) < 6 →
            (((u.cl c).killMask m.unit m.port v).getLsbD l = true ↔
              ∀ w ∈ k.sharers m.unit m.port, ((t u m.unit).lk.killed w v).getLsbD l = true)) ∧
          (m.port < 4 → (t u m.unit).lk.out m.port = ((t s m.unit).lk.out m.port).map (fun e =>
            { e with tok := if unitAt ((t s m.unit).lk.units.get m.port 0) e.tok.nseq = v
                then e.tok.clear ((u.cl c).killMask m.unit m.port v) else e.tok })) ∧
          u.mem = s.mem)) ∧
      (∀ v, 256 ≤ m.unit → m.port = 0 → killUnit ((a s (m.unit - 256)).lk.outUnit 0) m.kseq = some v →
        leaves (.killPropagate n) s (fun u =>
          (a u (m.unit - 256)).lk.killed 8 v = (a s (m.unit - 256)).lk.killed 8 v ||| m.mask ∧ u.mem = s.mem)) ∧
      (m.unit < 256 → killUnit ((t s m.unit).lk.units.get m.port 0) m.kseq = none →
        leaves (.killPropagate n) s (fun u => (u.cl c).tiles = k.tiles ∧ (u.cl c).wires.length + 1 = k.wires.length))))

/-- R215, R216, R217: the integer operations on every element of every lane that takes part: exact, then wrapped or
clamped; IMULH is the upper half of the exact product; the most negative element's absolute value is itself or, under
MOD 1, the greatest.  Forms said to complete, under the conditions shown: iadd, isub, imul, imin, imax, imulh, iabs.
-/
def Obligations.PeIntegers : Prop :=
  ∀ (s : State) (f : PeF),
    let p := peHere s f
    let x := peTok s f (formOf [] (some 1) p) 0
    let y := peTok s f (formOf [] (some 1) p) 1
    let tok := peTok s f (formOf [] (some 1) p)
    let sends := fun (i : Instr) (h : Int → Int → Int) => firesTo i s
      (tokensOf p.ty (p.valid tok [0, 1]) (p.poison tok [0, 1])
        (fun l => perElem p (fun j => fitted p (h (p.int (el p x l j)) (p.int (el p y l j))))) (p.mark tok))
    (peFires s f (formOf [] (some 1) p) →
      sends (.iadd f) (fun a b => a + b) ∧ sends (.isub f) (fun a b => a - b) ∧ sends (.imul f) (fun a b => a * b) ∧
      sends (.imin f) (fun a b => min a b) ∧ sends (.imax f) (fun a b => max a b) ∧
      firesTo (.imulh f) s (tokensOf p.ty (p.valid tok [0, 1]) (p.poison tok [0, 1])
        (fun l => perElem p (fun j => wrapNat ((p.int (el p x l j) * p.int (el p y l j)) / 2 ^ 32) 32)) (p.mark tok))) ∧
    (peFires s f (formOf [] none p) →
      let t := peTok s f (formOf [] none p)
      firesTo (.iabs f) s (tokensOf p.ty (p.valid t [0]) (p.poison t [0])
        (fun l => perElem p (fun j => fitted p |p.int (el p (t 0) l j)|)) (p.mark t)))

/-- R218, R219, R220: logic on whole lanes, shifts of elements by unsigned counts (an immediate count is that of
element 0, taken modulo 2^w, so that a negative one is large), funnel shifts of two lanes, and the bit counts.  R221,
R222, R223: comparison masks of whole elements, and selection bit by bit, which needs only the operands that the mask
selects.  Forms said to complete, under the conditions shown: peAnd, peOr, peXor, peShl, peShr, peSha, fshl, fshr,
peClz, pePopc, bwid, icmp, fcmp, sel. -/
def Obligations.PeBits : Prop :=
  (∀ (s : State) (f : PeF),
    let p := peHere s f
    let m2 := formOf [] (some 1) p
    let mc := { m2 with count := true }
    let m3 := formOf [] (some 2) p
    let m1 := formOf [] none p
    let lanes := fun (m : PeForm) (ss : List Nat) (tag : Nat) (i : Instr) (h : Nat → Nat) =>
      firesTo i s (tokensOf tag (p.valid (peTok s f m) ss) (p.poison (peTok s f m) ss) h (p.mark (peTok s f m)))
    (peFires s f m2 →
      let a := fun l => (peTok s f m2 0).lane l
      let b := fun l => (peTok s f m2 1).lane l
      lanes m2 [0, 1] p.ty (.peAnd f) (fun l => a l &&& b l) ∧
      lanes m2 [0, 1] p.ty (.peOr f) (fun l => a l ||| b l) ∧
      lanes m2 [0, 1] p.ty (.peXor f) (fun l => a l ^^^ b l)) ∧
    (peFires s f mc →
      let count := fun (l j : Nat) => if m2.star = some 1 ∧ p.imm < 16
        then (if j = 0 then wrapNat (signed p.imm 4) (if p.ty = tagRaw then 32 else tagWidth p.ty) else 0)
        else elem p.ty ((peTok s f mc 1).lane l) j
      let shift := fun (i : Instr) (h : Nat → Nat → Nat) => lanes mc [0, 1] p.ty i (fun l =>
        perElem p (fun j => h (elem p.ty ((peTok s f mc 0).lane l) j) (count l j)))
      shift (.peShl f) (fun x n => if n < p.width then x * 2 ^ n % 2 ^ p.width else 0) ∧
      shift (.peShr f) (fun x n => if n < p.width then x / 2 ^ n else 0) ∧
      shift (.peSha f) (fun x n => wrapNat (signed x p.width / 2 ^ (min n p.width)) p.width)) ∧
    (peFires s f m3 →
      let xy := fun l => (peTok s f m3 0).lane l * 2 ^ 32 + (peTok s f m3 1).lane l
      let n := fun l => (peTok s f m3 2).lane l % 64
      lanes m3 [0, 1, 2] p.ty (.fshl f) (fun l => xy l * 2 ^ n l / 2 ^ 32 % 2 ^ 32) ∧
      lanes m3 [0, 1, 2] p.ty (.fshr f) (fun l => xy l / 2 ^ n l % 2 ^ 32)) ∧
    (peFires s f m1 →
      let a := fun l => (peTok s f m1 0).lane l
      lanes m1 [0] tagUint32 (.peClz f) (fun l => 32 - Nat.size (a l)) ∧
      lanes m1 [0] tagUint32 (.pePopc f) (fun l => ((Finset.range 32).filter (fun k => (a l).testBit k = true)).card) ∧
      lanes m1 [0] tagUint32 (.bwid f) (fun l =>
        if p.ty = tagInt32 then Nat.size (if 0 ≤ signed (a l) 32 then (signed (a l) 32).toNat else (-signed (a l) 32 - 1).toNat) + 1
        else Nat.size (a l)))) ∧
  (∀ (s : State) (f : PeF),
    let p := peHere s f
    let m := formOf [] (some 1) p
    let tok := peTok s f m
    let ones := 2 ^ p.width - 1
    (peFires s f m →
      let masks := fun (i : Instr) (h : Nat → Nat → Prop) (_ : ∀ x y, Decidable (h x y)) =>
        firesTo i s (tokensOf tagRaw (p.valid tok [0, 1]) (p.poison tok [0, 1])
          (fun l => perElem p (fun j => if h (el p (tok 0) l j) (el p (tok 1) l j) then ones else 0)) (p.mark tok))
      let sv := fun (x : Nat) => signed x p.width
      (p.mod = 0 → masks (.icmp f) (fun x y => x = y) inferInstance) ∧
      (p.mod = 1 → masks (.icmp f) (fun x y => x ≠ y) inferInstance) ∧
      (p.mod = 2 → masks (.icmp f) (fun x y => sv x < sv y) inferInstance) ∧
      (p.mod = 3 → masks (.icmp f) (fun x y => sv x ≤ sv y) inferInstance) ∧
      (p.mod = 4 → masks (.icmp f) (fun x y => sv x > sv y) inferInstance) ∧
      (p.mod = 5 → masks (.icmp f) (fun x y => sv x ≥ sv y) inferInstance) ∧
      (p.mod = 6 → masks (.icmp f) (fun x y => x < y) inferInstance) ∧
      (p.mod = 7 → masks (.icmp f) (fun x y => x ≤ y) inferInstance) ∧
      (p.mod = 8 → masks (.icmp f) (fun x y => x > y) inferInstance) ∧
      (p.mod = 9 → masks (.icmp f) (fun x y => x ≥ y) inferInstance) ∧
      firesTo (.fcmp f) s (tokensOf tagRaw (p.valid tok [0, 1]) (p.poison tok [0, 1])
        (fun l => perElem p (fun j =>
          if (fcmpVal p.mod (p.val (el p (tok 0) l j)) (p.val (el p (tok 1) l j))).1 then ones else 0)) (p.mark tok))) ∧
    (peFires s f (formOf [2] none p) →
      let t := peTok s f (formOf [2] none p)
      let c := fun l => (t 2).lane l
      ∃ v bad : BitVec 16, firesTo (.sel f) s
          (tokensOf p.ty v bad (fun l => flushed p (((t 0).lane l &&& c l) ||| ((t 1).lane l &&& (2 ^ 32 - 1 - c l)))) (p.mark t)) ∧
        ∀ l, l < 16 →
          let has := (t 2).has l = true ∧ (c l ≠ 0 → (t 0).has l = true) ∧ (c l ≠ 2 ^ 32 - 1 → (t 1).has l = true)
          (v.getLsbD l = true ↔ has ∧ p.pred t l = true) ∧
          (bad.getLsbD l = true ↔ has ∧ ((p.pred t l = true ∧
            ((t 0).bad l = true ∨ (t 1).bad l = true ∨ (t 2).bad l = true)) ∨ p.predBad t l = true))))

/-- R224, R225: floating-point results are computed exactly and rounded once, element by element; minimum and maximum
choose an operand.  Forms said to complete, under the conditions shown: fadd, fsub, fmul, fmin, fmax, ffma.  What the
rules leave open here is the model's choice: log entries 33 and 70. -/
def Obligations.PeFloats : Prop :=
  ∀ (s : State) (f : PeF),
    let p := peHere s f
    let flt := fun (m : PeForm) (ss : List Nat) (i : Instr) (h : Nat → Nat → Nat) =>
      firesTo i s (tokensOf p.ty (p.valid (peTok s f m) ss) (p.poison (peTok s f m) ss)
        (fun l => perElem p (fun j => h l j)) (p.mark (peTok s f m)))
    let rounded := fun (l j : Nat) (v : Fp) => (p.fmt.round p.rnd v (p.key.sr24 l j)).1
    let down := p.rnd.rmode == rdn
    (peFires s f (formOf [] (some 1) p) →
      let m := formOf [] (some 1) p
      let x := fun l j => p.val (el p (peTok s f m 0) l j)
      let y := fun l j => p.val (el p (peTok s f m 1) l j)
      flt m [0, 1] (.fadd f) (fun l j => rounded l j ((x l j).add (y l j) down)) ∧
      flt m [0, 1] (.fsub f) (fun l j => rounded l j ((x l j).add (if (y l j).isNan then y l j else (y l j).negate) down)) ∧
      flt m [0, 1] (.fmul f) (fun l j => rounded l j ((x l j).mul (y l j))) ∧
      flt m [0, 1] (.fmin f) (fun l j => (p.fmt.round { p.pol with rmode := rne } (Fp.pick false (p.mod == 1) (x l j) (y l j)) 0).1) ∧
      flt m [0, 1] (.fmax f) (fun l j => (p.fmt.round { p.pol with rmode := rne } (Fp.pick true (p.mod == 1) (x l j) (y l j)) 0).1)) ∧
    (peFires s f (formOf [] (some 2) p) →
      let m := formOf [] (some 2) p
      flt m [0, 1, 2] (.ffma f) (fun l j => rounded l j (fmaVal down (p.val (el p (peTok s f m 0) l j))
        (p.val (el p (peTok s f m 1) l j)) (p.val (el p (peTok s f m 2) l j)))))

/-- R128, R226, R231, R232, R234, R235, R236, R237: the operations that move tokens: PASS, CONST, SHUF, MARK, OJOIN,
GATE, STEER, MERGE, and CVT between types of equal element counts. A float result that SUBOUT flushes leaves as zero.
Forms said to complete, under the conditions shown: pass, mark, const, shuf, ojoin, cvt, gate, steer, merge.  What the
rules leave open here is the model's choice: log entry 34. -/
def Obligations.PeMovement : Prop :=
  ∀ (s : State) (f : PeF),
    let p := peHere s f
    let m1 := formOf [] none p
    let t := peTok s f m1
    let lane := fun (x : Token) (l : Nat) => flushed p (x.lane l)
    (peFires s f m1 →
      firesTo (.pass f) s (tokensOf p.ty (p.valid t [0]) (p.poison t [0]) (lane (t 0)) (p.mark t)) ∧
      firesTo (.mark f) s (tokensOf p.ty (p.valid t [0]) (p.poison t [0]) (lane (t 0))
        (if anyEos p t then .eos
         else if p.mkb = mkAct then (if (t 0).mark = .none then .none else .eod (p.imm % 8))
         else if p.mkb = mkFollow then (match (t 0).mark with | .eod l => .eod (max (p.imm % 8) l) | _ => .eod (p.imm % 8))
         else .eod (p.imm % 8)))) ∧
    (peFires s f (formOf [0] none p) →
      let t := peTok s f (formOf [0] none p)
      firesTo (.const f) s (tokensOf p.ty (p.valid t [0]) (p.poison t [0]) (lane (p.convTok p.pol (p.g.constTok (p.imm % 8))).1)
        (p.mark t))) ∧
    (peFires s f (formOf [1] (some 1) p) →
      let t := peTok s f (formOf [1] (some 1) p)
      let k := fun l => (t 1).lane l % 16
      ∃ v bad : BitVec 16, firesTo (.shuf f) s (tokensOf p.ty v bad (fun l => lane (t 0) (k l)) (p.mark t)) ∧
        ∀ l, l < 16 →
          let has := (t 1).has l = true ∧ (t 0).has (k l) = true
          (v.getLsbD l = true ↔ has ∧ p.pred t l = true) ∧
          (bad.getLsbD l = true ↔ has ∧ ((p.pred t l = true ∧ ((t 1).bad l = true ∨ (t 0).bad (k l) = true)) ∨
            p.predBad t l = true))) ∧
    (peFires s f (formOf [0, 1, 2] none p) →
      let t := peTok s f (formOf [0, 1, 2] none p)
      firesTo (.ojoin f) s [{ mcode := (p.mark t).code, lvl := (p.mark t).level }]) ∧
    (peFires s f { m1 with asIs := true } → (tileHere s).op = {} →
      let t := peTok s f { m1 with asIs := true }
      p.srcCount (t 0) = tagCount p.ty →
      firesTo (.cvt f) s (tokensOf p.ty (p.valid t [0]) (p.poison t [0])
        (fun l => if passesRaw (t 0).tag p.ty = true then (t 0).lane l else perElem p (fun j =>
          (convElem (tagKind (t 0).tag) (tagKind p.ty) p.rnd (elem (t 0).tag ((t 0).lane l) j) (p.key.sr24 l j)).1)) (p.mark t))) ∧
    (peFires s f (gateForm p) →
      let t := peTok s f (gateForm p)
      let m := (t 0).mark.kept p.mkb
      let g := match (if p.act then p.t.op.decision else none) with
        | some g => g
        | none => (t 1).has 0 && (t 1).lane 0 != 0
      let bad := p.poison t [0] ||| (if (t 1).bad 0 = true then p.valid t [0] &&& 1 else 0)
      let data := tokensOf p.ty (p.valid t [0]) bad (lane (t 0)) m
      let eos : List Token := if m = .eos then [markerToken .eos] else []
      (g = true → firesTo (.gate f) s data) ∧
      (g = false → leaves (.gate f) s (fun u => outToks u 0 = if m = .none then [] else [markerToken m])) ∧
      (g = true → (tileHere s).cfgNow.heard 1 = true → leaves (.steer f) s (fun u => outToks u 0 = data ∧ outToks u 1 = eos)) ∧
      (g = false → (tileHere s).cfgNow.heard 1 = true → leaves (.steer f) s (fun u => outToks u 0 = eos ∧ outToks u 1 = data))) ∧
    (∀ i, i < 2 → p.slots ≠ [] → p.mergeSlot = some i → peFires s f { used := [i] } →
      let t := peTok s f { used := [i] } i
      let m := if t.mark = .eos ∧ p.t.op.closed = none then .eod 7 else t.mark
      let kept := if p.mkb = mkStrip ∧ m ≠ .eos then .none else m
      firesTo (.merge f) s (tokensOf p.ty t.valid (t.pmask &&& t.valid) (lane t) kept))

/-- R227, R228, R229, R230, R233: reductions, prefix sums, differences, counts and bit packing. For SUM on 32-bit
integers without grouping, RED gives every lane the sum of the lanes that take part, and SCAN the running sums.  Forms
said to complete, under the conditions shown: red, scan, cnt, delta, packb, unpkb.  What the rules leave open here is
the model's choice: log entry 34. -/
def Obligations.PeStreams : Prop :=
  ∀ (s : State) (f : PeF),
    let p := peHere s f
    let m1 := formOf [] none p
    let t := peTok s f m1
    let v := p.valid t [0]
    let a := fun l => (t 0).lane l
    let sumTo := fun (n : Nat) => (((List.range n).filter (fun l => v.getLsbD l)).map a).sum % 2 ^ 32
    (peFires s f m1 → (tileHere s).op = {} → p.poison t [0] = 0 →
      (p.act = false → (p.ty = tagInt32 ∨ p.ty = tagUint32) →
        (v = 0 → firesTo (.red f) s [{ tag := p.ty, mcode := (p.mark t).code, lvl := (p.mark t).level }]) ∧
        (p.mod = 0 → v ≠ 0 → firesTo (.red f) s (tokensOf p.ty 0xFFFF 0 (fun _ => sumTo 16) (p.mark t))) ∧
        (p.mod = 0 → firesTo (.scan f) s (tokensOf p.ty v 0 (fun l => sumTo (l + 1)) (p.mark t))) ∧
        firesTo (.cnt f) s (tokensOf p.ty 1 0 (fun _ => ((List.range 16).filter (fun l => v.getLsbD l)).length) (p.mark t))) ∧
      firesTo (.delta f) s (tokensOf p.ty v 0 (fun l =>
        (a l + 2 ^ 32 - ((((List.range l).filter (fun k => v.getLsbD k)).map a).getLast?.getD 0)) % 2 ^ 32) (p.ownMark t))) ∧
    (peFires s f (formOf [1] (some 1) p) → (tileHere s).op = {} →
      let t := peTok s f (formOf [1] (some 1) p)
      let w := (t 1).lane 0
      let a := fun l => (t 0).lane l
      let stream := fun (n : Nat) => ((List.range 16).map (fun l => a l % 2 ^ n * 2 ^ (n * l))).sum
      (t 1).has 0 = true → p.valid t [0] = 0xFFFF → p.poison t [0] = 0 → p.ownMark t = .none → (p.actMark t = .none) →
      (w = 32 → firesTo (.packb f) s (tokensOf p.ty 0xFFFF 0 (fun l => stream 32 / 2 ^ (32 * l) % 2 ^ 32) .none)) ∧
      (w < 32 → leaves (.packb f) s (fun u => outToks u 0 = [] ∧
        ofBits (tileHere u).op.bits = stream w ∧ (tileHere u).op.bits.length = 16 * w)) ∧
      (1 ≤ w → w ≤ 32 → p.ty ≠ tagInt32 → firesTo (.unpkb f) s ((List.range (32 / w)).flatMap (fun n =>
        tokensOf p.ty 0xFFFF 0 (fun l => stream 32 / 2 ^ (w * (16 * n + l)) % 2 ^ w) .none))))

/-- R203, R205, R208: MTRD reads the region word of every lane whose index lies in the region; MTLUT reads the nearest
table word, or interpolates between two with each operation rounded to FP32.  R203, R205, R206, R207, R209: the words
that change the region: lanes act in order, a lane outside the region or poisoned does nothing, MTTAS and MTHIST send
what each lane found, and MTCLR clears the region and nothing else.  R210: a token queue stores the arriving token
while it has room and nothing may leave yet, and sends its oldest token, with the lanes that its region holds, as soon
as one may: MTFIFO at once, MTRING once the region is full; of a MARKER token whose marker MKB takes away nothing is
sent.  Forms said to complete, under the conditions shown: mtrd, mtlut, mtwr, mttas, mthist, mtacc, mtclr, mtring,
mtfifo.  What the rules leave open here is the model's choice: log entries 37 and 69. -/
def Obligations.MemoryTiles : Prop :=
  (∀ (s : State) (f : MtF), mtFires s f →
    let ts := mtToks s f
    let T := fun n => mtWord s (mtFirst f + n)
    let sends := fun (i : Instr) (tag : Nat) (v : BitVec 16) (h : Nat → Nat) =>
      leaves i s (fun u => outToks u (mtOutNo f) = tokensOf tag v (mtPoison ts) h (mtMark s f) ∧
        (tileHere u).fidx = ((tileHere s).fidx + 1) % 2 ^ 32 ∧ (tileHere u).mt = (tileHere s).mt ∧ u.mem = s.mem)
    sends (.mtrd f) tagRaw (mtOutLanes s f id) (fun l => T (opLane ts 0 l)) ∧
    (f.mod = 0 → sends (.mtlut f) tagRaw (mtValid ts)
      (fun l => T (min ((opLane ts 0 l * mtSize f + 2 ^ 31) / 2 ^ 32) (mtSize f - 1)))) ∧
    (f.mod ≠ 0 → sends (.mtlut f) tagFp32 (mtValid ts) (fun l =>
      let n := opLane ts 0 l * mtSize f
      let i := n / 2 ^ 32
      let frac := (mtRound { m := n % 2 ^ 32, e := -32 }).1
      (mtAdd (T i) (mtMul frac (mtSub (T (min (i + 1) (mtSize f - 1))) (T i)).1).1).1))) ∧
  (∀ (s : State) (f : MtF), mtFires s f → staysResident s (mtToks s f) →
    let ts := mtToks s f
    let inside := fun n => mtFirst f ≤ n ∧ n < mtFirst f + mtSize f
    let at16 := fun (n : Nat) => mtLanesAt s f id 16 (n - mtFirst f)
    let frame := fun (u : State) => u.mem = s.mem ∧ ∀ n, ¬inside n → mtWord u n = mtWord s n
    leaves (.mtwr f) s (fun u => frame u ∧ ∀ n, inside n →
      mtWord u n = (match (at16 n).getLast? with | some l => opLane ts 1 l | none => mtWord s n)) ∧
    leaves (.mttas f) s (fun u => frame u ∧
      outToks u (mtOutNo f) = tokensOf tagUint32 (mtOutLanes s f (fun x => x / 32)) (mtPoison ts) (fun l =>
        let x := opLane ts 0 l
        b2n (bit (mtWord s (mtFirst f + x / 32)) (x % 32) ||
          (mtLanesAt s f (fun x => x / 32) l (x / 32)).any (fun k => opLane ts 0 k == x))) (mtMark s f) ∧
      ∀ n b, inside n → b < 32 → (bit (mtWord u n) b = true ↔ (bit (mtWord s n) b = true ∨
        ∃ k ∈ mtLanesAt s f (fun x => x / 32) 16 (n - mtFirst f), opLane ts 0 k % 32 = b))) ∧
    (f.mkb.toNat ≠ mkAct → leaves (.mthist f) s (fun u => frame u ∧
      outToks u (mtOutNo f) = tokensOf tagUint32 (mtOutLanes s f id) (mtPoison ts) (fun l =>
        (mtWord s (mtFirst f + opLane ts 0 l) + (mtLanesAt s f id l (opLane ts 0 l)).length) % 2 ^ 32) (mtMark s f) ∧
      ∀ n, inside n → mtWord u n % 2 ^ 32 = (mtWord s n + (at16 n).length) % 2 ^ 32)) ∧
    (f.mkb.toNat = mkAct → strongest (ts.map Token.mark) = .none → leaves (.mthist f) s (fun u => frame u ∧
      outToks u (mtOutNo f) = [] ∧ ∀ n, inside n → mtWord u n % 2 ^ 32 = (mtWord s n + (at16 n).length) % 2 ^ 32)) ∧
    (f.mkb.toNat = mkAct → strongest (ts.map Token.mark) ≠ .none → leaves (.mthist f) s (fun u => frame u ∧
      (∀ n, inside n → mtWord u n = 0) ∧
      outToks u (mtOutNo f) = (List.range (mtRows f)).flatMap (fun t =>
        tokensOf tagUint32 (maskOf (fun j => 16 * t + j < mtSize f)) 0 (fun j =>
          let n := mtFirst f + 16 * t + j
          (mtWord s n + (at16 n).length) % 2 ^ 32)
          (if t + 1 = mtRows f then strongest (ts.map Token.mark) else .none)))) ∧
    (f.mod = 0 → leaves (.mtacc f) s (fun u => frame u ∧ ∀ n, inside n →
      mtWord u n % 2 ^ 32 = (mtWord s n + ((at16 n).map (opLane ts 1)).sum) % 2 ^ 32)) ∧
    (f.mod ≠ 0 → leaves (.mtacc f) s (fun u => frame u ∧ ∀ n, inside n →
      mtWord u n % 2 ^ 32 = (at16 n).foldl (fun x l => (mtAdd x (opLane ts 1 l)).1) (mtWord s n) % 2 ^ 32)) ∧
    leaves (.mtclr f) s (fun u => frame u ∧ ∀ n, inside n → mtWord u n = 0)) ∧
  (∀ (s : State) (f : MtF) (ring : Bool),
    let i : Instr := if ring then .mtring f else .mtfifo f
    let p := s.mtOf s.here (s.actor.unit % 256) f
    let q := p.queue
    let k := (mtSlots f).headD 0
    let queue := fun (u : State) => (u.mtOf s.here (s.actor.unit % 256) f).queue
    let mayLeave := if ring then q.depth ≤ q.toks.length else f.mkb.toNat ≠ mkAct
    (s.cl s.here).mayFire (s.actor.unit % 256) = true → (tileHere s).sending = false → (tileHere s).lk.kills = [] →
    (tileHere s).cfgNow.heard (mtOutNo f) = true → 1 ≤ (s.cl s.here).power.get (s.spineOf s.here (s.actor.unit % 256)) 0 →
    (∀ t rest, q.toks = t :: rest → (q.flush = true ∨ mayLeave) → (tileHere s).lk.outRoom (mtOutNo f) = true →
      (p.drops q = true → (p.oldest q).cns = false) →
      leaves i s (fun u => u.here = s.here ∧ (queue u).toks = rest ∧ (tileHere u).mt = (tileHere s).mt ∧ u.mem = s.mem ∧
        outToks u (mtOutNo f) = if p.drops q = true then [] else [plainTok (p.oldest q)])) ∧
    (∀ t, (q.toks = [] ∨ ¬mayLeave ∨ ((tileHere s).lk.outRoom (mtOutNo f) = false ∧ p.drops q = false)) → q.flush = false →
      q.toks.length < q.depth →
      (tileHere s).lk.peekSlot k (tileHere s).cfgNow.cfg = some t →
      leaves i s (fun u => u.here = s.here ∧ (queue u).toks = q.toks ++ [t] ∧ (tileHere u).lk.outs = (tileHere s).lk.outs ∧
        (∀ l, l < 16 → mtWord u (q.base + 16 * (q.stored % q.depth) + l) = t.lane l) ∧
        (∀ n, (n < q.base + 16 * (q.stored % q.depth) ∨ q.base + 16 * (q.stored % q.depth) + 16 ≤ n) → mtWord u n = mtWord s n) ∧
        (queue u).flush = (if ring then t.mark == .eos || (f.mkb.toNat == mkAct && t.mark.any)
          else f.mkb.toNat == mkAct && (t.mark.any || decide (q.depth ≤ q.toks.length + 1))))))

/-- R139, R144 to R146, R246 and R249: on whole numbers, an online operation, DNORM or DSCL first sends its header,
the special code or the exponent as its lanes are decided, and then their digits, four to a token, those beyond the
precision as 000, with the marker on the last; a poisoned lane takes part as the zero it carries.  R150, R251 to R254:
a comparator sends the number it chooses unchanged: DMAX the greater or lesser operand, DCMPK operand A in the lanes
where the condition holds and the mask of those lanes beside it, DRELU its operand where it is above zero, DSEL
operand A or B by the sign of C; a NaN gives NaN.  Forms said to complete, under the conditions shown: dadd, dsub,
dmul, dfma, ddiv, dsqrt, drsq, dexp, dlog, dnorm, dscl, dmax, drelu, dsel, dcmpk.  What the rules leave open here is
the model's choice: log entries 35 and 36. -/
def Obligations.DigitNumbers : Prop :=
  (∀ (s : State) (f : PeF),
    let L := (peHere s f).prec
    let j := (tileHere s).op.sent
    let n := min (4 * j + 4) L
    let given := fun (d : DigOp) => ∀ i ∈ d.data, (peHere s f).en i = true ∨ d.star = some i
    let decidedAll := fun (d : DigOp) => ∀ l, l < 16 → (digLive s f d).getLsbD l = true →
      ∃ c e lam, digKept s l = some (.code c) ∨ digKept s l = some (.num e lam)
    let online := fun (i : Instr) (op : OnOp) (d : DigOp) =>
      digReady s f d.data → given d →
      let dec := fun l => decideHeader op L (digPart s f d l 0) (digPart s f d l 1) (digPart s f d l 2)
      let bad := fun (l lam : Nat) => d.data.any (fun i => (digPart s f d l i).badIn ((n + 3) / 4 * 4 + op.delta + lam))
      ((tileHere s).op.hdrSent = false → (tileHere s).op.picks = [] → (∀ l, l < 16 → (digLive s f d).getLsbD l = true → dec l ≠ .wait) →
        digHeads i s f d (fun l => match dec l with
          | .code c _ => (DNum.code c).header | .run e _ => e | .wait => 0)) ∧
      ((tileHere s).op.hdrSent = true → decidedAll d → digSends i s f d (fun l => match digKept s l with
          | some (.num _ lam) => if bad l lam = true then 0
            else digitBits (onlineDigits op L (digPart s f d l 0) (digPart s f d l 1) (digPart s f d l 2) lam n) L j
          | _ => 0) (digMark s f d))
    let whole := fun (i : Instr) (d : DigOp) (h : DNum → DNum) =>
      digReady s f d.data → given d →
      let x := fun l => h (digPart s f d l 0).u
      ((tileHere s).op.hdrSent = false → (tileHere s).op.picks = [] →
        digHeads i s f d (fun l => if (x l).spec then (DNum.code (x l).e).header else (x l).e)) ∧
      ((tileHere s).op.hdrSent = true → decidedAll d → digSends i s f d (fun l => match digKept s l with
        | some (.num _ _) => digitBits ((x l).take n) L j
        | _ => 0) (digMark s f d))
    online (.dadd f) .add (onlineOp .add [0, 1] (starOf f 1)) ∧ online (.dsub f) .sub (onlineOp .sub [0, 1] (starOf f 1)) ∧
    online (.dmul f) .mul (onlineOp .mul [0, 1] (starOf f 1)) ∧ online (.dfma f) .fma (onlineOp .fma [0, 1, 2] (starOf f 2)) ∧
    online (.ddiv f) .div (onlineOp .div [0, 1] (starOf f 1)) ∧ online (.dsqrt f) .sqrt (onlineOp .sqrt [0] none) ∧
    online (.drsq f) .rsq (onlineOp .rsq [0] none) ∧ online (.dexp f) .exp (onlineOp .exp [0] none) ∧
    online (.dlog f) .log (onlineOp .log [0] none) ∧
    whole (.dnorm f) dnormOp (fun u => (dnorm L u).1) ∧
    whole (.dscl f) dsclOp (fun u =>
      let e : Int := (u.e : Int) + signed (peHere s f).imm 5
      if u.spec then { spec := true, e := u.e }
      else if 511 < e then { spec := true, e := 3 } else if e < 0 then { spec := true, e := 0 }
      else { e := e.toNat, digits := u.digits })) ∧
  (∀ (s : State) (f : PeF),
    let L := (peHere s f).prec
    let j := (tileHere s).op.sent
    let n := min (4 * j + 4) L
    let bits := fun (d : DigOp) (l : Nat) (r : LaneRes) => match r with
      | .code c => (DNum.code c).header
      | .pick i => (digPart s f d l i).u.header
      | _ => 0
    let tail := fun (d : DigOp) (l : Nat) => match digKept s l with
      | some (.pick i) => if (digPart s f d l i).u.spec then 0 else digitBits ((digPart s f d l i).u.take n) L j
      | _ => 0
    let given := fun (d : DigOp) => ∀ i ∈ d.data, (peHere s f).en i = true ∨ d.star = some i
    let chooses := fun (i : Instr) (d : DigOp) (h : Nat → LaneRes) => digReady s f d.data → given d →
      ((tileHere s).op.hdrSent = false → (tileHere s).op.picks = [] → digHeads i s f d (fun l => bits d l (h l))) ∧
      ((tileHere s).op.hdrSent = true → (∀ l, l < 16 → (digLive s f d).getLsbD l = true →
          ∃ c i, digKept s l = some (.code c) ∨ (digKept s l = some (.pick i) ∧ i ∈ d.data)) →
        digSends i s f d (tail d) (digMark s f d))
    let ord := fun (d : DigOp) l => (dcmp L (digPart s f d l 0) (digPart s f d l 1)).getD 0
    let nan := fun (d : DigOp) l i => (digPart s f d l i).u.isNan
    (let d := dmaxOp (starOf f 1)
     chooses (.dmax f) d (fun l => if nan d l 0 || nan d l 1 then .code 3
      else if (peHere s f).mod = 0 then (if ord d l = -1 then .pick 1 else .pick 0) else (if ord d l = 1 then .pick 1 else .pick 0))) ∧
    (let d := dreluOp
     chooses (.drelu f) d (fun l =>
      let x := digPart s f d l 0
      if x.u.isNan then .code 3 else if x.u.spec then .code (if x.u.e = 1 then 1 else 0)
      else if x.sign L = some 1 then .pick 0 else .code 0)) ∧
    (let d := dselOp
     chooses (.dsel f) d (fun l => if nan d l 2 then .code 3
      else if (digPart s f d l 2).sign L = some 1 then .pick 0 else .pick 1)) ∧
    (let d := dcmpkOp (starOf f 1)
     let p := peHere s f
     let v := p.numValid (p.dataSlots d)
     let pz := p.numPoison (p.dataSlots d)
     let yes := fun l => if nan d l 0 || nan d l 1 then p.mod == 1 else dcond p.mod (ord d l)
     let here := v &&& maskOf yes
     digReady s f d.data → given d → (tileHere s).op.hdrSent = false → (tileHere s).op.picks = [] → (tileHere s).cfgNow.heard 1 = true →
      leaves (.dcmpk f) s (fun u =>
        outToks u 0 = tokensOf tagDhdr here pz (fun l => (digPart s f d l 0).u.header) .none ∧
        outToks u 1 = tokensOf tagRaw v pz (fun l => if yes l then 2 ^ 32 - 1 else 0) (p.numMark (p.dataSlots d)))))

/-- R255, R256: DRACE keeps in each lane the champion of a segment with its identity, DACC the exact sum of a group;
both send the result when the segment ends.  Forms said to complete, under the conditions shown: drace, dacc.  What
the rules leave open here is the model's choice: log entry 35. -/
def Obligations.DigitSegments : Prop :=
  ∀ (s : State) (f : PeF),
    let p := peHere s f
    let o := p.t.op
    let num := (p.num 0).getD {}
    let result := fun (i : Instr) (v pz : BitVec 16) (x : Nat → DNum) (m : Mk) =>
      (o.hdrSent = false → leaves i s (fun u => outToks u 0 = tokensOf tagDhdr v pz (fun l => (x l).header) .none)) ∧
      (o.hdrSent = true → leaves i s (fun u => outToks u 0 = tokensOf tagDigits v pz
        (fun l => if (x l).spec then 0 else digitBits (x l).digits p.prec o.sent) (if o.sent + 1 = p.count then m else .none)))
    let here := fun (u : State) => (tileHere u).op
    let closes := fun (u : State) => (p.segEnds = true → (here u).closing = some p.segMark ∧ (here u).hdrSent = false ∧ (here u).sent = 0) ∧
      (p.segEnds = false → (here u).closing = none)
    let ready := digReady s f [0] ∧ p.en 0 = true
    (ready → o.idTok.isSome = true →
      let wins := fun l => p.raceValid.getLsbD l = true ∧ o.decided.getLsbD l = false ∧ p.raceLane l ≠ some false
      ∃ u, exec (.drace f) s = .next u ∧ (closes u ∧ outToks u 0 = [] ∧ outToks u 1 = [] ∧ ∀ l, l < 16 →
        (wins l → (here u).champ.find l = some (num.lanes.getD l {}) ∧ (here u).ident.find l = some ((o.idTok.getD {}).lane l)) ∧
        (¬wins l → (here u).champ.find l = o.champ.find l ∧ (here u).ident.find l = o.ident.find l))) ∧
    (ready →
      let act := p.numValid [0]
      ∃ u, exec (.dacc f) s = .next u ∧ ( closes u ∧ outToks u 0 = [] ∧ ∀ l, l < 16 →
        let r := accLane p.prec (o.acc.get l 0) (o.accSpec.get l 0) (num.lanes.getD l {})
        (act.getLsbD l = true → (here u).acc.get l 0 = r.1 ∧ (here u).accSpec.get l 0 = r.2.1) ∧
        (act.getLsbD l = false → (here u).acc.get l 0 = o.acc.get l 0 ∧ (here u).accSpec.get l 0 = o.accSpec.get l 0))) ∧
    (∀ m, unitFree s → 2 ≤ (s.cl s.here).power.get (s.spineOf s.here (s.actor.unit % 256)) 0 → o.closing = some m →
      (let v := maskOf (fun l => (o.champ.find l).isSome)
       (tileHere s).cfgNow.heard 1 = true → result (.drace f) v (o.racePoison &&& v) (fun l => o.champ.get l {}) m ∧
         (o.hdrSent = false → leaves (.drace f) s (fun u =>
           outToks u 1 = tokensOf tagRaw v (o.racePoison &&& v) (fun l => o.ident.get l 0) m))) ∧
      result (.dacc f) o.accAny o.accPoison (fun l => (accResult p.prec (o.acc.get l 0) (o.accSpec.get l 0)).1) m)

/-- R188, R189, R194, R198, R201: a turn of AGLD loads the elements of up to 16 iterations of the innermost loop, one
to a lane, and sends them with the marker of the loop that ends; AGSEL does so for a selected row and skips the
others; AGPF loads nothing.  Forms said to complete, under the conditions shown: agld, agsel, agpf.  What the rules
leave open here is the model's choice: log entries 12 and 38. -/
def Obligations.AddressLoads : Prop :=
  ∀ (s : State) (f : AgF),
    let g := agHere s
    let lanes := rowLanes g.ext g.cnt
    let loaded := fun (e : AgEnv) (op : Nat) (m : Mk) => tokensOf (shTag e.shape) lanes (lanesBad lanes (fun l => bankBad s (agElem s op f l)))
      (fun l => bankVal s (agElem s op f l)) (m.kept e.mkb)
    let banks := fun (e : AgEnv) (op : Nat) => ∀ l, l < 16 → lanes.getLsbD l = true → agBanks s e (agElem s op f l)
    (let e := agEnvHere s agLd f
     agReady s agLd f → e.port = none →
      (banks e agLd → leaves (.agld f) s (fun u => agToks u = loaded e agLd (agMark s g.final) ∧ u.mem = s.mem ∧
        (u.cl s.here).sram = (s.cl s.here).sram)) ∧
      (∀ v bad s1, lanes = 1 → s.agHeld e (e.loadPlan g) 0 = false → (s.agPower e).2.agRead e (agElem s agLd f 0) = (.ok (v, bad), s1) →
        leaves (.agld f) s (fun u => u.mem = s1.mem ∧
          agToks u = tokensOf (shTag e.shape) 1 (if bad then 1 else 0) (fun _ => v) ((agMark s g.final).kept e.mkb)))) ∧
    (let e := agEnvHere s agSel f
     let needs := g.row % 512 == 0 && g.cnt.getD 0 0 == 0 && (g.maskTok.isNone || g.row != 0)
     let head := g.lk.peekSlot 0 (g.fg.getD {}).cfg
     let t := if needs then head.getD {} else g.maskTok.getD {}
     let last := needs && t.mark == .eos
     agReady s agSel f → e.port = none → (needs = true → head.isSome = true) →
      (e.selected t g.row = true → banks e agSel → leaves (.agsel f) s (fun u =>
        agToks u = loaded e agSel (if last then .eos else agMark s g.final))) ∧
      (e.selected t g.row = false → leaves (.agsel f) s (fun u => agToks u =
        e.markOnly (if last then .eos else match (nestNext g.ext (setIdx g.cnt 0 (g.ext.getD 0 0)) 0 5).1 with
          | none => .none | some 0 => .none | some 5 => (if g.final then .eos else .eod 5) | some k => .eod k)))) ∧
    (agReady s agPf f → g.lk.kept = 0 →
      let r := nestNext g.ext g.cnt 16 5
      leaves (.agpf f) s (fun u => agToks u = [] ∧
        (r.1 ≠ some 5 → (agHere u).cnt = r.2 ∧ (agHere u).rounds = g.rounds) ∧
        (r.1 = some 5 → (agHere u).rounds = (g.rounds + 1) % 2 ^ 32 ∧ (agHere u).cnt = [0, 0, 0, 0, 0])))

/-- R76, R194, R199, R200: AGST stores the enabled bytes of each lane of its data token, AGGA and AGSC reach the
elements that an index token names, and AGAMO performs one atomic for each lane, in lane order, and sends the words it
found, in banks and, shown for one lane, in global memory, where a store takes the translated addresses, an atomic its
word's home, and a fault stops the AG.  R28, R30, R193, R202: AGBT reads its descriptor, resolves the entry of its
next block and sends the block's elements; an order token leaves on output 1 for the oldest round that is owed one.
Forms said to complete, under the conditions shown: agst, agga, agsc, agamo, agbt, orderTokenEmit.  What the rules
leave open here is the model's choice: log entries 12 and 38. -/
def Obligations.AddressStores : Prop :=
  (∀ (s : State) (f : AgF), (s.cl s.here).sram.wf = true →
    let g := agHere s
    let cfg := (g.fg.getD {}).cfg
    let tok := fun i => (g.lk.peekSlot i cfg).getD {}
    let has := fun i => (g.lk.peekSlot i cfg).isSome = true
    -- stores of bytes in lane order: the last to an address stays
    let after := fun (ws : List (Nat × Byte)) (o : Nat) =>
      (((ws.filter (fun w => localOff w.1 == o)).getLast?).map Prod.snd).getD ((s.cl s.here).sram.byte o)
    let bytesOf := fun (adrs : List Nat) (x : Nat) => adrs.mapIdx (fun k a => ((a, BitVec.ofNat 8 (x >>> (8 * k))) : Nat × Byte))
    -- the state in which the lanes act: the tokens popped, the power drawn, and for stores and atomics the release made
    let popped := fun (e : AgEnv) => s.setCl s.here ((s.cl s.here).setAg (agNo s) { g with lk := g.lk.popSlots cfg e.data })
    let drawn := fun (e : AgEnv) => ((popped e).agPower e).2
    let global := fun (e : AgEnv) (adrs : List Nat) => adrs ≠ [] ∧ ∀ x ∈ adrs, isLocal x = false ∧ (s.cl s.here).stalls none 0 e.ctx x 1 = false
    let clean := fun (t : Token) => ∀ l, l < 16 → t.has l = true → t.bad l = false
    let stores := fun (i : Instr) (r : Option AFail × State) =>
      (r.1 = none → leaves i s (fun u => u.mem = r.2.mem)) ∧
      (r.1 ≠ none → leaves i s (fun u => u.mem = r.2.mem ∧ (agHere u).stopped = true))
    (let e := agEnvHere s agSt f
     let a := tok 0
     let b := tok 1
     let masked := f.en.getLsbD 0 = true
     let acts := maskOf (fun l => (rowLanes g.ext g.cnt).getLsbD l && b.has l && (!f.en.getLsbD 0 || (a.has l && !a.bad l)))
     let on := fun l => (bytesOf (agElem s agSt f l) (b.lane l)).zipIdx.filterMap (fun w => if !f.en.getLsbD 0 || (decide (w.2 < 4) && bit (a.lane l) w.2) then some w.1 else none)
     agReady s agSt f → e.port = none → f.en.getLsbD 1 = true → has 1 → (masked → has 0) → shEsize e.shape ≤ 4 →
      ((∀ l, l < 16 → acts.getLsbD l = true → (on l) ≠ [] → agBanks s e ((on l).map Prod.fst)) →
        leaves (.agst f) s (fun u => ∀ o,
          (u.cl s.here).sram.byte o = after (((List.range 16).filter acts.getLsbD).flatMap on) o)) ∧
      (acts = 1 → (masked → clean a) → global e ((on 0).map Prod.fst) → stores (.agst f)
        (((drawn e).agRelease e).agWrite e 0 ((agElem s agSt f 0).headD 0) ((on 0).map Prod.fst) ((on 0).map Prod.snd) (b.bad 0)))) ∧
    (let e := agEnvHere s agGa f
     let a := tok 0
     let addr := fun l => e.elemBytes g.base (signed (a.lane l) 32 * shEsize e.shape) (shEsize e.shape)
     let m := if a.mark = .eos ∨ (a.mark = .eod 7 ∧ g.final = true) then Mk.eos else a.mark
     agReady s agGa f → e.port = none → e.data = [0] → has 0 →
      ((∀ l, l < 16 → a.has l = true → a.bad l = false → agBanks s e (addr l)) →
        leaves (.agga f) s (fun u => agToks u = tokensOf (shTag e.shape) a.valid
          (lanesBad a.valid (fun l => a.bad l || bankBad s (addr l))) (fun l => bankVal s (addr l)) (m.kept e.mkb))) ∧
      (∀ v bad s1, a.valid = 1 → clean a → global e (addr 0) → (drawn e).agRead e (addr 0) = (.ok (v, bad), s1) →
        leaves (.agga f) s (fun u => u.mem = s1.mem ∧
          agToks u = tokensOf (shTag e.shape) 1 (if bad then 1 else 0) (fun _ => v) (m.kept e.mkb)))) ∧
    (let e := agEnvHere s agSc f
     let a := tok 0
     let b := tok 1
     let addr := fun l => e.elemBytes g.base (signed (a.lane l) 32 * shEsize e.shape) (shEsize e.shape)
     let acts := maskOf (fun l => a.has l && b.has l && !a.bad l)
     agReady s agSc f → e.port = none → e.data = [0, 1] → has 0 → has 1 → shEsize e.shape ≤ 4 →
      ((∀ l, l < 16 → acts.getLsbD l = true → agBanks s e (addr l)) →
        leaves (.agsc f) s (fun u => ∀ o,
          (u.cl s.here).sram.byte o = after (((List.range 16).filter acts.getLsbD).flatMap (fun l => bytesOf (addr l) (b.lane l))) o)) ∧
      (acts = 1 → clean a → global e (addr 0) → stores (.agsc f) (((drawn e).agRelease e).agWrite e 0 ((addr 0).headD 0) (addr 0)
        ((bytesOf (addr 0) (b.lane 0)).map Prod.snd) (b.bad 0)))) ∧
    (let e := agEnvHere s agAmo f
     let a := tok 0
     let b := tok 1
     let word := fun l => let w := e.eaddr g.base (signed (a.lane l) 32 * shEsize e.shape) 0; w - w % 4
     let quad := fun w => [w, w + 1, w + 2, w + 3]
     let acts := maskOf (fun l => a.has l && b.has l && !a.bad l && !b.bad l)
     -- what the lanes below `n` leave in the word at `w`
     let val := fun (n w : Nat) => ((List.range n).filter (fun k => acts.getLsbD k && word k == w)).foldl
       (fun x k => agAmoVal f.mod.toNat x (b.lane k)) (bankVal s (quad w))
     let m := if a.mark = .eos ∨ b.mark = .eos ∨ (a.mark = .eod 7 ∧ g.final = true) then Mk.eos else a.mark
     agReady s agAmo f → e.data = [0, 1] → has 0 → has 1 → g.base < 2 ^ 64 →
      ((∀ l, l < 16 → acts.getLsbD l = true → agBanks s e (quad (word l)) ∧ bankBad s (quad (word l)) = false) →
        leaves (.agamo f) s (fun u =>
          agToks u = tokensOf (shTag e.shape) (a.valid &&& b.valid) (lanesBad (a.valid &&& b.valid) (fun l => a.bad l || b.bad l))
            (fun l => val l (word l)) (m.kept e.mkb) ∧
          ∀ l, l < 16 → acts.getLsbD l = true → bankVal u (quad (word l)) = val 16 (word l))) ∧
      (∀ v bad s1, acts = 1 → clean a → clean b → global e (quad (word 0)) →
        ((drawn e).agRelease e).agAtomic e (word 0) (b.lane 0) = (.ok (v, bad), s1) →
        leaves (.agamo f) s (fun u => u.mem = s1.mem ∧
          agToks u = tokensOf (shTag e.shape) 1 (if bad then 1 else 0) (fun _ => v) (m.kept e.mkb)))) ∧
    (∀ (z z1 : State) (e : AgEnv) (lane first a pa mt : Nat) (r : List Nat) (bs : List Byte), isLocal a = false →
      (∀ x ∈ r, x / 4096 = a / 4096) → bs.length = r.length + 1 → MemInv z1 → mt ≠ 2 →
      z.translate e.who.owner e.who.die e.who.mcl e.ctx .write a = (.ok pa mt, z1) →
      (z.agWrite e lane first (a :: r) bs false).1 = none ∧
      ∀ m, (z.agWrite e lane first (a :: r) bs false).2.mem.byte m =
        (((((a :: r).zip bs).filter (fun w => pa - a % 4096 + w.1 % 4096 == m)).getLast?).map Prod.snd).getD (z1.mem.byte m)) ∧
    (∀ (z z1 : State) (e : AgEnv) (a x pa mt : Nat), isLocal a = false → a % 4 = 0 →
      z.translate e.who.owner e.who.die e.who.mcl e.ctx .atomic a = (.ok pa mt, z1) → z1.poisonedAt pa = false →
      let old := ofBytes (z1.mem.bytes pa 4)
      (z.agAtomic e a x).1 = .ok (old, false) ∧
      (z.agAtomic e a x).2.mem = z1.mem.setBytes pa (toBytes 4 (agAmoVal e.f.mod.toNat old x)))) ∧
  (∀ (s : State) (f : AgF),
    let g := agHere s
    let e := agEnvHere s agBt f
    let b := g.cnt.getD 4 0
    (agReady s agBt f → g.desc = none → (s.cl s.here).stalls none 0 e.ctx g.base 32 = false → ∀ bs s1 d, s.engRead e.who e.ctx g.base 32 = (.ok bs, s1) → anyPoison bs = false →
      blockTab g.base (ofBytes (plain bs)) = some d → leaves (.agbt f) s (fun u => (agHere u).desc = some d ∧ u.mem = s1.mem)) ∧
    (∀ d, agReady s agBt f → g.desc = some d → 16 * b < d.len → g.block = none →
      (s.cl s.here).stalls none 0 e.ctx ((d.entries + 4 * b) % 2 ^ 64) 4 = false → ∀ bs s1 va,
      s.engRead e.who e.ctx ((d.entries + 4 * b) % 2 ^ 64) 4 = (.ok bs, s1) → anyPoison bs = false →
      d.resolve (ofBytes (plain bs)) (f.mod.toNat == 1) = .at va → leaves (.agbt f) s (fun u => (agHere u).block = some va ∧ u.mem = s1.mem)) ∧
    (∀ d va, agReady s agBt f → e.port = none → f.mod.toNat ≠ 1 → g.desc = some d → 0 < d.len → g.block = some va →
      let r := nestNext g.ext (g.cnt.take 4) 1 4
      let off := ((List.range 4).map (fun k => shStr e.shape k * ((g.cnt.getD k 0 : Nat) : Int))).sum
      let elem := fun (l : Nat) => (List.range (shEsize e.shape)).map (fun (i : Nat) => wrapNat ((va : Int) + (l * 2 ^ d.tshift : Nat) + off + i) 64)
      let m := match r.1 with
        | none => Mk.none
        | some 5 => if (d.len + 15) / 16 ≤ b + 1 then (if g.final then .eos else .eod 5) else .eod 4
        | some k => .eod k
      (∀ l, l < 16 → 16 * b + l < d.len → agBanks s e (elem l)) →
      leaves (.agbt f) s (fun u => agToks u = tokensOf (shTag e.shape) (d.lanes b)
        (lanesBad (d.lanes b) (fun l => bankBad s (elem l))) (fun l => bankVal s (elem l)) (m.kept e.mkb))) ∧
    (∀ fin rest, g.owed = fin :: rest → g.fg.isSome = true → (s.cl s.here).isFrozen (256 + agNo s) = false → g.stopped = false →
      g.lk.out 5 = [] → g.lk.kills = [] → 1 ≤ (s.cl s.here).power.get (s.spineOf s.here (256 + agNo s)) 0 →
      leaves .orderTokenEmit s (fun u => (agHere u).owed = rest ∧
        ((agHere u).lk.out 5).map (fun x => plainTok x.tok) = [orderToken (if fin then .eos else .none)])))

/-! ### Matrix islands -/

/-- R258 to R260, R264, R268, R271, R279: MZERO clears the tile, the row state and the query buffer and restarts KC;
MSET writes a value that its register accepts and stops with BADDREG on any other; MLUT loads the table from a slot; a
word whose input has ended ends the program; a store to the status window clears flags, or sets the dead-tile count.
R260, R265, R266, R267, R269: MMA accumulates every cell of the tile over the operands of two ring slots, from +0
under OVW or on a fresh tile, in ACCI for integer operands and in ACCF for others, in the last of its KTILE/32 times
planes cycles; and stops on a ring, a slot, a block, an accumulator or a poisoned integer operand that it may not use,
the lowest code first.  Forms said to complete, under the conditions shown: mzero, mset, mlut, islandStatusWrite, mma.
What the rules leave open here is the model's choice: log entries 39 and 40. -/
def Obligations.IslandMatrix : Prop :=
  (∀ (s : State) (ra : BitVec 4) (dreg : BitVec 6) (v : BitVec 64) (i : BitVec 2) (dw : BitVec 3),
    let m := isleHere s
    let mat := fun (u : State) => (u.cl s.here).mat i.toNat
    let bs := (s.cl s.here).slotBytes (isleNo s) ra.toNat 1024
    (isleReady s →
      isleGoes .mzero s 1 (fun u =>
        let w := isleHere u
        (∀ r n, w.cell r n = 0) ∧ w.atype = 0 ∧ (∀ r, w.maxOf r = negInf48 ∧ w.denOf r = 0) ∧ w.empty = 0 ∧ w.skip = false ∧
        w.qbuf = none ∧ w.kc = m.reg rKpos0 ∧ w.flags = m.flags ∧ w.dreg = m.dreg ∧ w.score = m.score ∧ w.table = m.table) ∧
      (m.regOk dreg.toNat v.toNat = true → isleGoes (.mset dreg v) s 3 (fun u =>
        (isleHere u).reg dreg.toNat = v.toNat ∧ (∀ r, r ≠ dreg.toNat → (isleHere u).reg r = m.reg r) ∧
        (isleHere u).acc = m.acc ∧ (isleHere u).mask = m.mask ∧ (isleHere u).flags = m.flags)) ∧
      (m.regOk dreg.toNat v.toNat = false → isleStops (.mset dreg v) s 1) ∧
      (ringFull s ra.toNat 1024 → isleGoes (.mlut ra) s 1 (fun u => ringRead s u ra.toNat ∧ (isleHere u).acc = m.acc ∧
        ∀ n, n < 256 → (isleHere u).table.get n 0 =
          if ((bs.drop (4 * n)).take 4).any Prod.snd then fp32.nanBits false else ofBytes (((bs.drop (4 * n)).take 4).map Prod.fst))) ∧
      (((s.cl s.here).ring ra.toNat).ended = true → ((s.cl s.here).ring ra.toNat).canFire (isleNo s) = false → m.begun = false →
        bit (m.reg rLoopctl) 12 = false →
        leaves (.mlut ra) s (fun u => (isleHere u).ended = true ∧ (isleHere u).acc = m.acc ∧ (isleHere u).table = m.table ∧
          ∀ r ∈ m.outRings, ((u.cl s.here).ring r).ended = true)) ∧
      (((s.cl s.here).ring ra.toNat).ended = false → ((s.cl s.here).ring ra.toNat).en = false → isleStops (.mlut ra) s 2)) ∧
    leaves (.islandStatusWrite i dw v) s (fun u => u.mem = s.mem ∧
      (dw = 0 → (∀ b, b < 3 → (mat u).flags.testBit b = ((mat s).flags.testBit b && !v.getLsbD b)) ∧ (mat u).deadcnt = (mat s).deadcnt) ∧
      (dw = 2 → (mat u).deadcnt = v.toNat % 2 ^ 32 ∧ (mat u).flags = (mat s).flags) ∧
      (dw ≠ 0 → dw ≠ 2 → mat u = mat s) ∧ (mat u).acc = (mat s).acc ∧ (mat u).dreg = (mat s).dreg ∧ (mat u).err = (mat s).err)) ∧
  (∀ (s : State) (af bf ra rb : BitVec 4) (ovw : Bool), isleReady s →
    let m := isleHere s
    let kt := m.reg rKtile
    let ring := fun (r : BitVec 4) => (s.cl s.here).ring r.toNat
    let mine := fun (r : BitVec 4) => (ring r).en = true ∧ bit (ring r).cmask (isleNo s) = true
    let wide := operandBytes af.toNat kt ≤ (ring ra).slotBytes ∧ operandBytes bf.toNat kt ≤ (ring rb).slotBytes
    let int := isIntCode af.toNat && isIntCode bf.toNat
    let ty := if int then 2 else 1
    let blocks := badBlock af.toNat kt = false ∧ badBlock bf.toNat kt = false
    let same := ovw = true ∨ m.atype = 0 ∨ m.atype = ty
    let a := operandHere s ra.toNat af.toNat kt
    let b := operandHere s rb.toNat bf.toNat kt
    let go := .mma af bf ra rb ovw
    let cycles := kt / 32 * planes af.toNat
    let full := ringFull s ra.toNat (operandBytes af.toNat kt) ∧ ringFull s rb.toNat (operandBytes bf.toNat kt)
    (full → blocks → same → ¬(int = true ∧ (a.hit ≠ [] ∨ b.hit ≠ [])) → ¬isleLast s cycles → isleWorks go s) ∧
    (full → blocks → same → ¬(int = true ∧ (a.hit ≠ [] ∨ b.hit ≠ [])) → ra ≠ rb → isleLast s cycles →
      isleGoes go s 1 (fun u =>
        let w := isleHere u
        (∀ r n, r < 32 → n < 32 → w.cell r n =
          let x := if ovw then 0 else m.cell r n
          if int then (accumI a b r n kt x).val else (accumF a b r n kt x).val) ∧
        w.atype = ty ∧ w.lastA = af.toNat ∧ w.lastB = bf.toNat ∧ w.m = m.m ∧ w.l = m.l ∧ w.score = m.score ∧ w.dreg = m.dreg ∧
        ringRead s u ra.toNat ∧ ringRead s u rb.toNat)) ∧
    ((ring ra).ended = false → (ring rb).ended = false →
      (¬(mine ra ∧ mine rb) → isleStops go s 2) ∧
      (mine ra → mine rb → ¬wide → isleStops go s 3) ∧
      (mine ra → mine rb → wide → ¬blocks → isleStops go s 4) ∧
      (mine ra → mine rb → wide → blocks → ¬same → isleStops go s 5)) ∧
    (full → blocks → same → int = true → (a.hit ≠ [] ∨ b.hit ≠ []) → isleStops go s 8) ∧
    (mine ra → mine rb → wide → blocks → same → (ring ra).ended = false → (ring rb).ended = false →
      ((ring ra).canFire (isleNo s) = false ∨ (ring rb).canFire (isleNo s) = false) → exec go s = .next s))

/-- R263, R265, R272, R273: MQK scores every unmasked row against 32 keys and advances KC, or finds the tile dead and
leaves the scores; its query buffer takes a whole slot, and one that is held but too short for the query stops it;
with KF its keys come from port F0, one token at each turn. All of that in the last of its cycles: every plane's, or
those up to the plane at which the tile is dead.  R263, R265, R274, R275, R277, R278: MSMU turns the scores of a live
tile into P and rescales the row state and O, row by row, and does nothing for a dead one; MSMG joins another island's
rows into its own, taking a row as it stands where one side has seen nothing; a row for each cycle, with the effect in
the last.  R263, R265, R276: MPVA adds P times the values to O, masked cells adding nothing, and passes over the
values of a dead tile; with VF its values come from port F1, one token at each turn.  Forms said to complete, under
the conditions shown: mqk, msmu, msmg, mpva.  What the rules leave open here is the model's choice: log entries 39, 40
and 42. -/
def Obligations.IslandAttention : Prop :=
  (∀ (s : State) (af bf ra rb : BitVec 4), isleReady s →
    let m := isleHere s
    let kt := m.reg rKtile
    let go := .mqk af bf ra rb
    let wide := operandBytes af.toNat kt ≤ (m.qbuf.map (fun b => b.1.length)).getD 0
    let slot := (s.cl s.here).slotBytes (isleNo s) ra.toNat ((s.cl s.here).ring ra.toNat).slotBytes
    let queries := (m.held = true ∧ wide) ∨ (m.held = false ∧ ringFull s ra.toNat (operandBytes af.toNat kt))
    let q := match (if m.held then m.qbuf else none) with
      | some b => heldOperand af.toNat kt b
      | none => operandOf af.toNat kt slot
    let blocks := badBlock af.toNat kt = false ∧ badBlock bf.toNat kt = false
    let n := lineBytes bf.toNat kt / 4
    let cycles := planes af.toNat * (kt / 32)
    let goesDead := fun (k : Operand) (absent : Nat → Bool) =>
      ({ m with mask := m.maskNow absent } : Isle).deadPlane q k ((m.tensor af.toNat bf.toNat).map MRes.val)
    (m.kf = false → queries → ringFull s rb.toNat (operandBytes bf.toNat kt) → ra ≠ rb → blocks →
      (m.cmulOk = true → m.atype ≠ 2 → isleLast s cycles → isleGoes go s 1 (fun u =>
        scored s u af.toNat bf.toNat q (operandHere s rb.toNat bf.toNat kt) (fun _ => false) ∧
        ringRead s u rb.toNat ∧ (m.held = true → (isleHere u).qbuf = m.qbuf) ∧
        (m.held = false → ringRead s u ra.toNat ∧ (isleHere u).qbuf.map Prod.fst = some (slot.map Prod.fst)))) ∧
      (m.cmulOk = true → m.atype ≠ 2 →
        (∀ j, goesDead (operandHere s rb.toNat bf.toNat kt) (fun _ => false) = some j → isleLast s ((j + 1) * (kt / 32)) →
          isleGoes go s 1 (fun u => (isleHere u).skip = true ∧ (isleHere u).score = m.score ∧ (isleHere u).kc = (m.kc + 32) % 2 ^ 32)) ∧
        (∀ j, goesDead (operandHere s rb.toNat bf.toNat kt) (fun _ => false) = some j → ¬isleLast s ((j + 1) * (kt / 32)) → isleWorks go s) ∧
        (goesDead (operandHere s rb.toNat bf.toNat kt) (fun _ => false) = none → ¬isleLast s cycles → isleWorks go s)) ∧
      (m.cmulOk = false → isleStops go s 7) ∧
      (m.cmulOk = true → m.atype = 2 → isleStops go s 5)) ∧
    (m.kf = false → m.held = true → ¬wide → ringFull s rb.toNat (operandBytes bf.toNat kt) → isleStops go s 3) ∧
    (∀ t b0, m.kf = true → queries → blocks → portFormat bf.toNat = true → m.cmulOk = true → m.atype ≠ 2 →
      m.portHead 0 = some t → t.cns = false → t.isMarker = false → m.f0.toKill = 0 →
      (m.f0.cur.toks + 1 < n → t.mark = .none → leaves go s (fun u =>
        (isleHere u).f0.cur = m.f0.cur.add t ∧ (isleHere u).f0.got = m.f0.got ∧ (isleHere u).kc = m.kc ∧
        (isleHere u).score = m.score ∧ (isleHere u).ipc = m.ipc)) ∧
      (m.f0.cur.toks + 1 = n → m.f0.got = [] → t.mark.any = true → leaves go s (fun u =>
        (isleHere u).f0.got = [some (m.f0.cur.add t)] ∧ (isleHere u).f0.cur = {} ∧ (isleHere u).kc = m.kc ∧
        (isleHere u).score = m.score ∧ (isleHere u).ipc = m.ipc)) ∧
      (m.f0.cur.toks + 1 = n → m.f0.got = [some b0] → t.mark.any = true → isleLast s cycles →
        let ls := blockLines bf.toNat kt (some b0) ++ blockLines bf.toNat kt (some (m.f0.cur.add t))
        isleGoes go s 1 (fun u => (isleHere u).f0.got = [] ∧
          scored s u af.toNat bf.toNat q
            { code := bf.toNat, lines := ls.map (fun (l : Option (List Fp)) => l.getD (List.replicate kt (.zero false))) }
            (fun n => (ls.getD n none).isNone))))) ∧
  (∀ (s : State) (pf ra : BitVec 4), isleReady s →
    let m := isleHere s
    let c := m.regF rCmul
    let bs := (s.cl s.here).slotBytes (isleNo s) ra.toNat (m.rows * 272)
    let word := fun (r j : Nat) =>
      let v := (bs.drop (272 * r + 8 * j)).take 8
      if v.any Prod.snd then accf.nanBits false else ofBytes (v.map Prod.fst) % 2 ^ 48
    (m.skip = true → isleGoes (.msmu pf) s 1 (fun u => (isleHere u).skip = true ∧ (∀ r, sameRow m (isleHere u) r) ∧
      (isleHere u).flags = m.flags)) ∧
    (m.skip = false → m.cmulOk = true → m.atype ≠ 2 → ¬isleLast s m.rows → isleWorks (.msmu pf) s) ∧
    (m.skip = false → m.cmulOk = true → m.atype ≠ 2 → isleLast s m.rows → isleGoes (.msmu pf) s 1 (fun u =>
      let w := isleHere u
      w.atype = 1 ∧ w.pfmt = pf.toNat ∧ w.score = m.score ∧ (∀ r, m.rows ≤ r → sameRow m w r) ∧
      ∀ r, r < m.rows →
        let old := accfVal (m.maxOf r)
        let t := fun n => if m.masked r n then Fp.inf true else (rndMul c (accfVal (m.score.get (32 * r + n) 0))).val
        let top := maxM (old :: (List.range 32).map t)
        let f := exp2Accf (rndAdd old top.negate).val
        let p := fun n => if m.masked r n then 0 else exp2Bits (probFmt pf.toNat) (rndAdd (t n) top.negate).val
        let sum := (rnd (exactSum ((List.range 32).map (fun n => opValue pf.toNat (p n)))).val).val
        (top = .inf true → w.maxOf r = m.maxOf r ∧ w.denOf r = m.denOf r ∧ rowOf w.acc r = rowOf m.acc r ∧
          rowOf w.prob r = List.replicate 32 0) ∧
        (¬(top.isInf = true ∧ top.neg = true) →
          w.maxOf r = (toAccf top).val ∧
          w.denOf r = (toAccf (rndAdd (rndMul (accfVal (m.denOf r)) f).val sum).val).val ∧
          rowOf w.acc r = (rowOf m.acc r).map (fun x => (toAccf (rndMul (accfVal x) f).val).val) ∧
          rowOf w.prob r = (List.range 32).map p))) ∧
    (m.skip = false → m.cmulOk = false → isleStops (.msmu pf) s 7) ∧
    (m.skip = false → m.cmulOk = true → m.atype = 2 → isleStops (.msmu pf) s 5) ∧
    (ringFull s ra.toNat (m.rows * 272) → m.atype ≠ 2 → ¬isleLast s m.rows → isleWorks (.msmg ra) s) ∧
    (ringFull s ra.toNat (m.rows * 272) → m.atype ≠ 2 → isleLast s m.rows → isleGoes (.msmg ra) s 1 (fun u =>
      let w := isleHere u
      w.atype = 1 ∧ ringRead s u ra.toNat ∧ (∀ r, m.rows ≤ r → sameRow m w r) ∧
      ∀ r, r < m.rows →
        let l2 := accfVal (word r 1)
        let l1 := accfVal (m.denOf r)
        let m1 := accfVal (m.maxOf r)
        let m2 := accfVal (word r 0)
        let top := maxM [m1, m2]
        let f1 := exp2Accf (rndAdd m1 top.negate).val
        let f2 := exp2Accf (rndAdd m2 top.negate).val
        let join := fun (x y : Nat) =>
          (toAccf (rndAdd (rndMul (accfVal x) f1).val (rndMul (accfVal y) f2).val).val).val
        (l2.isZero = true → sameRow m w r) ∧
        (l2.isZero = false → l1.isZero = true → w.maxOf r = word r 0 ∧ w.denOf r = word r 1 ∧
          rowOf w.acc r = (List.range 32).map (fun n => word r (n + 2))) ∧
        (l2.isZero = false → l1.isZero = false → w.maxOf r = (toAccf top).val ∧ w.denOf r = join (m.denOf r) (word r 1) ∧
          rowOf w.acc r = (List.range 32).map (fun n => join (m.acc.get (32 * r + n) 0) (word r (n + 2)))))) ∧
    (ringFull s ra.toNat (m.rows * 272) → m.atype = 2 → isleStops (.msmg ra) s 5)) ∧
  (∀ (s : State) (bf rb : BitVec 4), isleReady s →
    let m := isleHere s
    let go := .mpva bf rb
    let n := lineBytes bf.toNat 32 / 4
    let p : Operand := { code := m.pfmt, lines := (List.range 32).map (fun r => (List.range 32).map (fun k =>
      if m.masked r k then Fp.zero false else opValue m.pfmt (m.prob.get (32 * r + k) 0))) }
    let last := isleLast s (planes m.pfmt)
    let shown := fun (v : Operand) (r : Nat) => { v with lines := v.lines.map (fun l =>
      (indexed l).map (fun x => if m.masked r x.1 then Fp.zero false else x.2)) }
    let added := fun (u : State) (v : Operand) =>
      (isleHere u).skip = m.skip ∧ (∀ r, m.rows ≤ r → rowOf (isleHere u).acc r = rowOf m.acc r) ∧
      ∀ r, r < m.rows → rowOf (isleHere u).acc r = (List.range 32).map (fun n =>
        let x := (unitSum p (shown v r) r n 0 32).val
        let y := if bf.toNat = 8 ∨ bf.toNat = 9 then (rndMul x (m.regF rScaleB)).val else x
        (toAccf (rndAdd (accfVal (m.acc.get (32 * r + n) 0)) y).val).val)
    (m.vf = false → ringFull s rb.toNat (operandBytes bf.toNat 32) →
      ((m.skip = true ∨ m.atype ≠ 2) → ¬last → isleWorks go s) ∧
      (m.skip = true → last → isleGoes go s 1 (fun u => (isleHere u).skip = false ∧ (isleHere u).acc = m.acc ∧ ringRead s u rb.toNat)) ∧
      (m.skip = false → m.atype ≠ 2 → last → isleGoes go s 1 (fun u => ringRead s u rb.toNat ∧ added u (operandHere s rb.toNat bf.toNat 32))) ∧
      (m.skip = false → m.atype = 2 → isleStops go s 5)) ∧
    (∀ t b0, m.vf = true → portFormat bf.toNat = true → (m.skip = true ∨ m.atype ≠ 2) → m.portHead 1 = some t → t.cns = false →
      t.isMarker = false → m.f1.toKill = 0 →
      (m.f1.cur.toks + 1 < n → t.mark = .none → leaves go s (fun u =>
        (isleHere u).f1.cur = m.f1.cur.add t ∧ (isleHere u).f1.got = m.f1.got ∧ (isleHere u).acc = m.acc ∧
        (isleHere u).ipc = m.ipc)) ∧
      (m.f1.cur.toks + 1 = n → m.f1.got = [some b0] → t.mark.any = true → last →
        let ls := (blockLines bf.toNat 32 (some b0) ++ blockLines bf.toNat 32 (some (m.f1.cur.add t))).map
          (fun (l : Option (List Fp)) => l.getD (List.replicate 32 (.zero false)))
        (m.skip = true → isleGoes go s 1 (fun u => (isleHere u).skip = false ∧ (isleHere u).acc = m.acc ∧ (isleHere u).f1.got = [])) ∧
        (m.skip = false → isleGoes go s 1 (fun u => (isleHere u).f1.got = [] ∧
          added u { code := bf.toNat, lines := (List.range 32).map (fun n => ls.map (fun (l : List Fp) => l.getD n (.zero false))) })))))

/-- R83, R265, R270, R277: MOUT sends its rows converted, with bias, activation and requantisation as named, or whole
state records; MSMF sends each row of O divided by its denominator, zeros and EMPTY where that is zero; and the output
goes out in pieces, each once its ring has room, before the next word.  Forms said to complete, under the conditions
shown: mout, msmf.  What the rules leave open here is the model's choice: log entries 39 and 40. -/
def Obligations.IslandOutput : Prop :=
  ∀ (s : State) (out ro : BitVec 4) (bias act rq : Bool),
    let c := s.here
    let m := isleHere s
    let go := .mout out ro bias act rq
    let br := m.reg rBiasring
    let slot := (s.cl c).slotBytes (isleNo s) br 128
    let raw := fun (n : Nat) => (slot.drop (4 * n)).take 4
    let bad := ∃ n, n < 32 ∧ (raw n).any Prod.snd = true
    let b := fun (n : Nat) => if bias then
      some (if (raw n).any Prod.snd then poisonNan else fp32.decode (ofBytes ((raw n).map Prod.fst)) false,
        signed (ofBytes ((raw n).map Prod.fst)) 32) else none
    let record := (List.range m.rows).flatMap (fun r => toBytes 8 (m.maxOf r) ++ toBytes 8 (m.denOf r) ++
      (List.range 32).flatMap (fun n => toBytes 8 (m.cell r n)))
    let cells := (List.range m.rows).flatMap (fun r => (List.range 32).flatMap (fun n =>
      (m.outCell out.toNat (b n) act rq (m.cell r n)).val))
    let rows := (List.range m.rows).flatMap (fun r =>
      if m.denOf r = 0 then List.replicate (32 * outBytes out.toNat) 0
      else (List.range 32).flatMap (fun n =>
        (outConv out.toNat 0 (bit (m.reg rRqsat) 0) (quotient (m.oVal r n) (accfVal (m.denOf r)))).val))
    let last := isleLast s m.rows
    let feeds := bias = false ∨ (br ≠ ro.toNat ∧ br ∉ m.mmaRings ∧ ringFull s br 128)
    (isleReady s → ringOpen s ro.toNat → 0 < m.rows →
      (out = 7 → feeds → last → isleSends go s ro.toNat record (fun u => (isleHere u).acc = m.acc)) ∧
      (out ≠ 7 → feeds → ¬(bias = true ∧ m.atype = 2 ∧ bad) → last →
        isleSends go s ro.toNat cells (fun u => (isleHere u).acc = m.acc)) ∧
      (out ≠ 7 → bias = true → feeds → m.atype = 2 → bad → isleStops go s 8) ∧
      (out = 7 → feeds → ¬last → isleWorks go s) ∧
      (out ≠ 7 → feeds → ¬(bias = true ∧ m.atype = 2 ∧ bad) → ¬last → isleWorks go s) ∧
      (¬last → isleWorks (.msmf out ro) s) ∧
      (last → isleSends (.msmf out ro) s ro.toNat rows (fun u => (isleHere u).acc = m.acc ∧
        ∀ r, r < m.rows → r < 32 → (isleHere u).empty.testBit r = decide (m.denOf r = 0)))) ∧
    (isleReady s → ((s.cl c).ring ro.toNat).en = false → isleStops (.msmf out ro) s 2) ∧
    (∀ (x : List Byte) (rest : List (List Byte)) (i : Instr), ((i = .mout out ro bias act rq ∧ (bias = false ∨ br ≠ m.pushRing)) ∨ i = .msmf out ro) →
      m.fg.isSome = true → (s.cl c).isFrozen (288 + isleNo s) = false → m.err = 0 → m.ended = false → m.done = true →
      m.f0.fall = 0 → m.f1.fall = 0 → m.pushing = x :: rest → (s.cl c).sram.wf = true →
      let r := (s.cl c).ring m.pushRing
      let pushed := fun (u : State) => ((u.cl c).ring m.pushRing).fill = r.fill + x.length ∧
        ((u.cl c).ring m.pushRing).tail = (r.tail + x.length) % r.size ∧
        ∀ j, j < x.length → (u.cl c).sram.byte (r.at (r.tail + j)) = x.getD j 0
      (r.size < r.fill + x.length → exec i s = .next s) ∧
      (r.fill + x.length ≤ r.size → rest ≠ [] → leaves i s (fun u => pushed u ∧ (isleHere u).pushing = rest ∧
        (isleHere u).done = true ∧ (isleHere u).ipc = m.ipc)) ∧
      (r.fill + x.length ≤ r.size → rest = [] → isleGoes i s 1 (fun u => pushed u ∧
        (i = .mout out ro bias act rq → bias = true → ringRead s u br))))

/-! ### The praline engines -/

/-- R377 to R384: a praline judges the command at the head of its queue before it starts, and then works unit by unit:
CZIP frames a page, CUNZ restores one, TOPK and KSORT write a row's best entries and a sorted segment, GENC and GDEC
seal and open a record, HSHA and HCHAIN write a digest; a frame that does not fit stops with OVERRUN, a malformed one
with CORRUPT, a record that does not verify with AUTHFAIL, and a source or destination that does not translate with
its fault; a command that has not started when its context's save writes the cluster starts no more (R386).  R378: a
command that has finished leaves its queue, and posts its status, its command, its lease slot, its tag, the bytes and
units it completed and its fault where its descriptor asks for a message.  Forms said to complete, under the
conditions shown: czip, cunz, topk, ksort, genc, gdec, hsha, hchain, pralineComplete.  What the rules leave open here
is the model's choice: log entry 50. -/
def Obligations.PralineUnits : Prop :=
  (∀ (s s1 : State) (p : BitVec 6) (c slot : Nat) (y : PCmd) (rest : List PEnt) (bs : List (Byte × Bool)),
    pralineHas s p.toNat c slot y rest → y.finished = false →
    let d := s.hereDie
    let x := y.desc
    let n := y.units
    let key := ((s1.die d).keyOf y.ctx (fld (pdP x 0) 5 0)).getD []
    let bad := anyPoison bs
    let src := plain bs
    let at_ := fun (k : Nat) => vaAdd (pdDst x) (k * n)
    let iv := toBytes 4 (fld (pdP x 0) 63 32) ++ toBytes 8 (pdP x 1 + n)
    let aad := toBytes 8 (pdP x 2) ++ toBytes 8 n
    let unit := fun (i : Instr) (k : Nat) (out : List Byte) => pdCmd x = k →
      pralineUnit i s s1 p.toNat c slot rest y (at_ out.length) out bad y.spos
    let instr := fun (k : Nat) => match k with
      | 0 => Instr.czip p | 1 => .cunz p | 2 => .topk p | 3 => .ksort p | 4 => .genc p | 5 => .gdec p | 6 => .hsha p | _ => .hchain p
    (y.started = true → s.unitSource (whoPraline d p.toNat) y = (.ok bs, s1) →
      (pdCmd x = 0 → y.dpos + (zipPage src).length ≤ pdP x 1 →
        pralineUnit (.czip p) s s1 p.toNat c slot rest y (vaAdd (pdDst x) y.dpos) (zipPage src) bad y.spos) ∧
      (pdCmd x = 0 → pdP x 1 < y.dpos + (zipPage src).length → pralineStops (.czip p) s c slot rest y s1.mem 0x34) ∧
      (∀ m page, pdCmd x = 1 → unzipPage src = some (m, page) → n < fld (pdP x 1) 31 0 → page.length = 4096 →
        pralineUnit (.cunz p) s s1 p.toNat c slot rest y (at_ 4096) page bad (y.spos + m)) ∧
      (pdCmd x = 1 → unzipPage src = none → pralineStops (.cunz p) s c slot rest y s1.mem 0x32) ∧
      (∀ m page, pdCmd x = 1 → unzipPage src = some (m, page) → fld (pdP x 1) 31 0 ≤ n →
        pralineStops (.cunz p) s c slot rest y s1.mem 0x34) ∧
      unit (.topk p) 2 (topkRow (pdP x 0) src) ∧ unit (.ksort p) 3 (ksortSeg (pdP x 0) src) ∧
      unit (.genc p) 4 (gcmSeal key iv aad src) ∧
      (∀ out, gcmOpen key iv aad src = some out → unit (.gdec p) 5 out) ∧
      (pdCmd x = 5 → gcmOpen key iv aad src = none → pralineStops (.gdec p) s c slot rest y s1.mem 0x31) ∧
      unit (.hsha p) 6 (sha256 src) ∧
      (pdCmd x = 7 →
        let out := sha256 (y.chain ++ src)
        (∀ s2, s1.unitWrite (whoPraline d p.toNat) y.ctx (vaAdd (pdDst x) (32 * n)) out (bad || y.chainBad) = (none, s2) →
          pralineLeaves (.hchain p) s c slot rest (fun u z => u.mem = s2.mem ∧ z.units = n + 1 ∧ z.dpos = y.dpos + 32 ∧
            z.chain = out ∧ z.chainBad = (bad || y.chainBad) ∧ z.finished = z.allDone)))) ∧
    (∀ f, y.started = true → s.unitSource (whoPraline d p.toNat) y = (.error f, s1) → pdCmd x < 8 →
      pralineStops (instr (pdCmd x)) s c slot rest y s1.mem f.code) ∧
    (y.started = false → s.saveWritten c y.ctx = true → pdCmd x < 8 → exec (instr (pdCmd x)) s = .next s) ∧
    (y.started = false → s.saveWritten c y.ctx = false → pdCmd x < 8 →
      let go := instr (pdCmd x)
      (pdBadCmd x = true → pralineStops go s c slot rest y s.mem 0x21) ∧
      (pdBadCmd x = false → pdBadShape x = true → pralineStops go s c slot rest y s.mem 0x22) ∧
      (pdBadCmd x = false → pdBadShape x = false → (pdCmd x = 4 ∨ pdCmd x = 5) → (s.die d).keyOf y.ctx (fld (pdP x 0) 5 0) = none →
        pralineStops go s c slot rest y s.mem 0x33) ∧
      (pdBadCmd x = false → pdBadShape x = false →
        ¬((pdCmd x = 4 ∨ pdCmd x = 5) ∧ (s.die d).keyOf y.ctx (fld (pdP x 0) 5 0) = none) → (pdCmd x = 7 → pdP x 2 = 0) →
        pralineLeaves go s c slot rest (fun u z => u.mem = s.mem ∧ z.started = true ∧ z.units = n ∧
          (pdCmd x = 7 → z.chain = List.replicate 32 0))))) ∧
  (∀ (s : State) (p : BitVec 6) (c i : Nat) (y : PCmd) (rest : List PEnt),
    s.slotOf s.hereDie p.toNat = some (c, i) → ((s.cl c).lslot i).q = .cmd y :: rest →
    let x := (s.cl c).lslot i
    let posted := s.post c (senderOut (whoPraline (dieOf c) x.praline).agent) (pdChan y.desc)
      { msg := { w0 := BitVec.ofNat 64 (y.status + pdCmd y.desc * 2 ^ 8 + i * 2 ^ 12 + pdTag y.desc * 2 ^ 16 + y.lvl * 2 ^ 32),
                 w1 := BitVec.ofNat 64 y.dpos, w2 := BitVec.ofNat 64 y.units, w3 := BitVec.ofNat 64 y.fva }, ctx := y.ctx }
    (y.finished = false → exec (.pralineComplete p) s = .next s) ∧
    (y.finished = true → x.st = .lease → leaves (.pralineComplete p) s (fun u =>
      ((u.cl c).lslot i).q = rest ∧ ((u.cl c).lslot i).st = .lease ∧ u.mem = s.mem ∧
      (pdMsg y.desc = true → (u.cl c).chans = (posted.cl c).chans ∧ (u.cl c).held = (posted.cl c).held) ∧
      (pdMsg y.desc = false → (u.cl c).chans = (s.cl c).chans ∧ (u.cl c).held = (s.cl c).held))) ∧
    (y.finished = true → x.st = .closing → pcmdsOf rest = [] → leaves (.pralineComplete p) s (fun u =>
      ((u.cl c).lslot i).st = .free ∧ u.mem = s.mem)))

/-- R379 to R383: a page survives its frame; a sealed record opens under its own key, IV and additional data; a frame
of a page of zeros is its 20 bytes of header; KSORT's segment holds the entries it read, in the order of their keys,
equal keys as they stood; TOPK's row names each entry once, the better first, and none it leaves out is better. -/
def Obligations.PralineTransforms : Prop :=
  (∀ (page rest : List Byte), page.length = 4096 →
    unzipPage (zipPage page ++ rest) = some ((zipPage page).length, page)) ∧
  (zipPage (List.replicate 4096 0)).length = 20 ∧
  (∀ (key iv aad msg : List Byte), key.length = 32 → gcmOpen key iv aad (gcmSeal key iv aad msg) = some msg) ∧
  (∀ (key iv aad msg : List Byte), key.length = 32 → (gcmSeal key iv aad msg).length = msg.length + 16) ∧
  (∀ (bs : List Byte), (sha256 bs).length = 32) ∧
  (∀ (p0 : Nat) (bs : List Byte),
    let e := fun (j : Nat) => ofBytes ((bs.drop (8 * j)).take 8)
    let key := fun (j : Nat) => ksortKey (fld p0 33 32) (e j % 2 ^ 32)
    ∃ idx : List Nat, idx.Perm (List.range (fld p0 31 0)) ∧ ksortSeg p0 bs = idx.flatMap (fun j => toBytes 8 (e j)) ∧
      idx.Pairwise (fun i j => (if bit p0 34 then key j < key i else key i < key j) ∨ (key i = key j ∧ i < j))) ∧
  (∀ (p0 : Nat) (bs : List Byte),
    let n := fld p0 31 0
    let z := topkSize p0
    let e := fun (j : Nat) => ofBytes ((bs.drop (z * j)).take z)
    let better := fun (i j : Nat) =>
      topkBefore (bit p0 43) (topkRank (fld p0 42 41) (e i), i) (topkRank (fld p0 42 41) (e j), j) = true
    ∃ idx : List Nat, idx.length = min (fld p0 40 32) n ∧ idx.Nodup ∧ (∀ j ∈ idx, j < n) ∧
      topkRow p0 bs = idx.flatMap (fun j => toBytes 4 j ++ toBytes 4 (e j)) ∧ idx.Pairwise better ∧
      ∀ j, j < n → j ∉ idx → ∀ i ∈ idx, better i j)

/-! ### Heat, pre-emption and firmware -/

/-- R400 to R403: a sample sets TJ and the warning mark with its hysteresis; 110 degrees starts the saves of the
contexts that hold work, the highest priority first; 120 degrees takes the rails down at once, and so does a save that
outlasts 50 ms; self-refresh follows 100 microseconds after the last save and the rails' removal 1 ms after it; and a
die powers up again, everything on it wiped once more, once it has been cool for 1 s.  R414 to R417, R420: a request
whose deadline has passed is decided as forced: the context's task is suspended where it stands and its residencies
are held; the save waits for every cluster, writes those that are ready with all their stores performed, and tells the
requester once the image is written, ending the context, or once it cannot be, letting it go on; the image's header
holds its magic number, version, context, die, messages discarded, length, serial and digest.  Forms said to complete,
under the conditions shown: thermalSample, tripMark, emergencySaveTimeout, hbmSelfRefresh, railRemoval, dieRepower,
deadlineExpiry, contextSaveComplete.  What the rules leave open here is the model's choice: log entries 57, 58 and 59.
-/
def Obligations.Emergencies : Prop :=
  (∀ (s : State) (tj : BitVec 8),
    let d := s.actor.die
    let k := s.die d
    let e := fun (u : State) => (u.die d).emerg
    let warm := 100 ≤ tj.toNat ∨ (k.warning = true ∧ 95 < tj.toNat)
    let down := fun (i : Instr) => leaves i s (fun u => (e u).phase = .down ∧ (e u).last = k.clock ∧ (e u).todo = [] ∧
      (u.die d).clock = k.clock ∧
      ((∀ p ∈ s.pkg.preempts, p.die ≠ d) → u.mem = s.mem ∧ ∀ c, dieOf c = d → (u.cl c).tiles = [] ∧ (u.cl c).sram = []))
    (tj.toNat < 110 → leaves (.thermalSample tj) s (fun u =>
      (u.die d).tj = tj.toNat ∧ ((u.die d).warning = true ↔ warm) ∧ (e u).phase = k.emerg.phase ∧ u.mem = s.mem ∧
      (k.emerg.phase = .none → (e u).cool = none) ∧
      (k.warning = false → warm → ∀ b ∈ u.pkg.boosts, b.notice ≠ none))) ∧
    (110 ≤ tj.toNat → tj.toNat < 120 → k.emerg.phase = .none → leaves (.thermalSample tj) s (fun u =>
      (u.die d).tj = tj.toNat ∧ (u.die d).warning = true ∧ (e u).t0 = k.clock ∧ u.pkg.boosts = [] ∧
      (e u).phase = (if (e u).todo = [] then .saved else .saving) ∧
      (s.pkg.boosts = [] →
        (∀ x ∈ (e u).todo, x < 64 ∧ (s.ctx x).live = true ∧ s.workClusters d x ≠ []) ∧
        (e u).todo.Pairwise (fun x y => (s.ctx y).maxprio ≤ (s.ctx x).maxprio) ∧
        (∀ x, x < 64 → (s.ctx x).live = true → (s.ctx x).maxprio < 8 → s.workClusters d x ≠ [] → x ∈ (e u).todo)))) ∧
    (120 ≤ tj.toNat → k.emerg.phase ≠ .down → down (.thermalSample tj)) ∧
    (k.emerg.phase ≠ .down → down .tripMark) ∧
    (k.emerg.phase = .saving → k.emerg.t0 + 50000 ≤ k.clock → down .emergencySaveTimeout) ∧
    (¬(k.emerg.phase = .saving ∧ k.emerg.t0 + 50000 ≤ k.clock) → exec .emergencySaveTimeout s = .next s) ∧
    (k.emerg.phase = .saved → k.emerg.last + 100 ≤ k.clock →
      leaves .hbmSelfRefresh s (fun u => e u = { k.emerg with phase := .selfRefresh } ∧ u.clusters = s.clusters ∧ u.mem = s.mem)) ∧
    (¬(k.emerg.phase = .saved ∧ k.emerg.last + 100 ≤ k.clock) → exec .hbmSelfRefresh s = .next s) ∧
    (k.emerg.phase = .selfRefresh → k.emerg.last + 1000 ≤ k.clock → down .railRemoval) ∧
    (¬(k.emerg.phase = .selfRefresh ∧ k.emerg.last + 1000 ≤ k.clock) → exec .railRemoval s = .next s) ∧
    (∀ t, k.emerg.phase = .down → k.emerg.cool = some t → t + 1000000 ≤ k.clock →
      exec .dieRepower s = .next (k.emerg.saved.foldl (fun u x => u.thermalRestore d x)
        (((s.wipeDie d).setDie d { (s.wipeDie d).die d with emerg := {}, warning := false, tj := 0 }).setPkg
          { (s.wipeDie d).pkg with logNv := (s.wipeDie d).pkg.log }))) ∧
    ((k.emerg.phase ≠ .down ∨ k.emerg.cool = none ∨ ∃ t, k.emerg.cool = some t ∧ k.clock < t + 1000000) →
      exec .dieRepower s = .next s)) ∧
  (∀ (s s1 : State) (n : BitVec 6),
    let c := s.here
    let d := s.actor.die
    let x := n.toNat
    let q := s.sq c
    let open_ := s.pkg.preempts.find? (fun p => p.ctx == x && p.die == d)
    (q.yreqOf x = none → exec (.deadlineExpiry n) s = .next s) ∧
    (∀ y, q.yreqOf x = some y → q.cycle ≤ y.deadline → exec (.deadlineExpiry n) s = .next s) ∧
    (∀ y, q.yreqOf x = some y → y.deadline < q.cycle → q.loads = [] → leaves (.deadlineExpiry n) s (fun u =>
      (∀ z ∈ (u.sq c).yreqs, z.ctx = x → z.coop ≠ none) ∧ u.mem = s.mem ∧
      (∀ r, ((s.cl c).resident r).live = true → ((s.cl c).resident r).ctx = x → ((u.cl c).resident r).frozen = true) ∧
      (∀ r, ((s.cl c).resident r).ctx ≠ x → (u.cl c).resident r = (s.cl c).resident r) ∧
      (∀ t, q.task = some t → t.ctx = x → (u.sq c).task = none ∧ ∃ w, (u.sq c).suspended = q.suspended ++ [w] ∧ w.task = t ∧
        w.regs = q.regs ∧ w.pc = q.pc ∧ w.inTrap = q.inTrap ∧ w.tcause = q.tcause ∧ w.tpc = q.tpc ∧ w.tval = q.tval ∧ w.tvec = q.tvec) ∧
      (∀ t, q.task = some t → t.ctx ≠ x → (u.sq c).task = some t ∧ (u.sq c).regs = q.regs ∧ (u.sq c).pc = q.pc))) ∧
    (open_ = none → ¬((s.die d).emerg.phase = .saving ∧ (s.die d).emerg.todo.head? = some x ∧ (s.die d).emerg.t0 + 10 ≤ (s.die d).clock) →
      exec (.contextSaveComplete n) s = .next s) ∧
    (∀ p, open_ = some p → (∃ i ∈ p.cls, ∀ z ∈ p.snap, z.cl ≠ i) →
      (∀ i ∈ p.cls, (∀ z ∈ p.snap, z.cl ≠ i) → s.saveReady (d * 40 + i) x = false) →
      exec (.contextSaveComplete n) s = .next s) ∧
    (∀ p i j, open_ = some p → s.pkg.preempts.filter (fun p => p.ctx == x && p.die == d) = [p] → p.cls.Nodup → i ∈ p.cls → j ∈ p.cls → i ≠ j → (∀ z ∈ p.snap, z.cl ≠ i ∧ z.cl ≠ j) →
      s.saveReady (d * 40 + i) x = true → (∀ i2 ∈ p.cls, i2 ≠ i → (∀ z ∈ p.snap, z.cl ≠ i2) → s.saveReady (d * 40 + i2) x = false) →
      leaves (.contextSaveComplete n) s (fun u => ∃ p2 z, p2 ∈ u.pkg.preempts ∧ p2.ctx = x ∧ p2.die = d ∧ p2.snap = p.snap ++ [z] ∧
        z.cl = i ∧ z.body.seq.sbuf = [] ∧ z.body.tiles = (s.cl (d * 40 + i)).tiles ∧
        (z.coop = true ↔ ∃ y ∈ (s.sq (d * 40 + i)).yreqs, y.ctx = x ∧ y.coop = some true))) ∧
    (∀ p cmd, open_ = some p → p.cmd = some cmd → (∀ i ∈ p.cls, ∃ z ∈ p.snap, z.cl = i) →
      (s.writeImage p = (true, s1) → leaves (.contextSaveComplete n) s (fun u =>
        u.ctx x = { saves := ((s.ctx x).saves + 1) % 2 ^ 64 } ∧ (u.mailbox cmd.mbx).busy = false ∧ (u.mailbox cmd.mbx).status = 0 ∧
        (∀ p ∈ u.pkg.preempts, p.ctx ≠ x))) ∧
      (s.writeImage p = (false, s1) → leaves (.contextSaveComplete n) s (fun u =>
        (u.ctx x).dying = false ∧ (u.ctx x).live = (s.ctx x).live ∧ (u.mailbox cmd.mbx).busy = false ∧
        (u.mailbox cmd.mbx).status = 2))) ∧
    (∀ p, p.ctx < 64 → p.die < 4 →
      let img := (s.saveImage p).1
      let head := ofBytes (plain (img.take 64))
      64 ≤ img.length ∧ (img.length < 2 ^ 64 →
        fld head 31 0 = 0x535646 ∧ fld head 47 32 = 0x100 ∧ fld head 53 48 = p.ctx ∧ fld head 55 54 = p.die ∧
        fld head 127 96 = p.late % 2 ^ 32 ∧ fld head 191 128 = img.length ∧ fld head 255 192 = ((s.ctx p.ctx).saves + 1) % 2 ^ 64 ∧
        plain ((img.take 64).drop 32) = sha256 (plain (img.drop 64)))))

/-- R433, R434: a command that no row names ends with BADOPC, one with reserved bits or whose block cannot be read
with BADARG, and one that its mailbox may not send with DENIED; nothing is done while no doorbell waits or a MAP is
under way.  R187, R434, R435, R438, R440: IDENTIFY writes the part number, the stepping, the serial number, the bytes
of each tier-C port, the tier-F namespaces of each die, the supported features and the identifier of the identity key;
FEATURES reads the vector, and sets it for the host alone while no context exists; ATTEST uses up one leaf of the
identity key and refuses once none is left; LIFELOG_READ judges its range; FW_UPDATE keeps an image that verifies;
each refuses reserved parameters.  Forms said to complete, under the conditions shown: identify, features, attest,
lifelogRead, fwUpdate.  What the rules leave open here is the model's choice: log entries 54, 55, 61 and 73. -/
def Obligations.FirmwareCommands : Prop :=
  (∀ (s s1 : State) (c : FwCmd) (b : List Byte) (rest : List FwCmd) (i : Instr) (opc : Nat), (i, opc) ∈ fwOps →
    let h := ofBytes (b.take 16)
    let keeps := fun (u : State) => u.pkg.features = s.pkg.features ∧ u.ctxs = s.ctxs ∧ u.pkg.fwq = rest ∧ u.pkg.leaf = s.pkg.leaf
    (s.pkg.fwq = [] → exec i s = .next s) ∧
    (s.pkg.fwq = c :: rest → s.pkg.mapping ≠ none → exec i s = .next s) ∧
    (s.pkg.fwq = c :: rest → s.pkg.mapping = none →
      (s.fwRead c 0 256 = (none, s1) → fwEnds i s c 2 keeps) ∧
      (s.fwRead c 0 256 = (some b, s1) →
        (fwAllowed (fwOpc h) c.mbx = none → fwEnds i s c 1 keeps) ∧
        (fwAllowed (fwOpc h) c.mbx ≠ none → fwHeadBad h = true → fwEnds i s c 2 keeps) ∧
        (fwHeadBad h = false → fwOpc h = opc → fwAllowed opc c.mbx = some false → fwEnds i s c 5 keeps) ∧
        (fwHeadBad h = false → fwAllowed (fwOpc h) c.mbx ≠ none → fwOpc h ≠ opc → exec i s = .next s)))) ∧
  (∀ (s s1 : State) (c : FwCmd) (b : List Byte), MemInv s →
    let want := par b 1 + par b 2 * 2 ^ 64
    let bad := want / 1024 ≠ 0 ∨ ((bit want 8 = true ∨ bit want 9 = true) ∧ bit want 3 = false ∧ bit want 4 = false)
    let keeps := fun (u : State) => u.pkg.features = s.pkg.features ∧ u.ctxs = s.ctxs
    let img := s1.mem.bytes (par b 0) (par b 1)
    let inside := (inH (par b 0) = true ∧ inH (par b 0 + par b 1) = true) ∨ (inC (par b 0) = true ∧ inC (par b 0 + par b 1) = true)
    (fwAsks s s1 c b 1 →
      (restZero b 0 = false → fwEnds .identify s c 2 keeps) ∧
      (restZero b 0 = true → fwEnds .identify s c 0 (fun u => keeps u ∧ (fwPlain c →
        u.mem.bytes (c.addr + 16) 104 = toBytes 8 Config.partNumber.toNat ++ toBytes 8 Config.stepping.toNat ++ toBytes 8 Config.serial.toNat ++
          toBytes 8 (Config.portBytes 0) ++ toBytes 8 (Config.portBytes 1) ++ (List.range 4).flatMap (fun d => toBytes 8 (Config.namespaces d)) ++
          toBytes 16 supported ++ toBytes 16 Config.identityI.toNat)))) ∧
    (fwAsks s s1 c b 2 →
      ((par b 0 / 2 ≠ 0 ∨ restZero b 3 = false) → fwEnds .features s c 2 keeps) ∧
      (par b 0 = 0 → restZero b 3 = true → fwEnds .features s c 0 (fun u => keeps u ∧
        (fwPlain c → u.mem.bytes (c.addr + 24) 16 = toBytes 16 s.pkg.features))) ∧
      (par b 0 = 1 → restZero b 3 = true →
        (c.mbx ≠ 0 → fwEnds .features s c 5 keeps) ∧
        (c.mbx = 0 → (∃ e ∈ s.ctxs, e.2.live = true) → fwEnds .features s c 3 keeps) ∧
        (c.mbx = 0 → bad → (∀ e ∈ s.ctxs, e.2.live = false) → fwEnds .features s c 6 keeps) ∧
        (c.mbx = 0 → ¬bad → (∀ e ∈ s.ctxs, e.2.live = false) → fwEnds .features s c 0 (fun u => u.pkg.features = want ∧
          (fwPlain c → u.mem.bytes (c.addr + 24) 16 = toBytes 16 want))))) ∧
    (fwAsks s s1 c b 9 →
      (restZero b 5 = false → fwEnds .attest s c 2 (fun u => u.pkg.leaf = s.pkg.leaf)) ∧
      (restZero b 5 = true → 2 ^ 20 ≤ s.pkg.leaf → fwEnds .attest s c 11 (fun u => u.pkg.leaf = s.pkg.leaf)) ∧
      (restZero b 5 = true → s.pkg.leaf < 2 ^ 20 → leaves .attest s (fun u => u.pkg.leaf = s.pkg.leaf + 1 ∧
        (u.mailbox c.mbx).busy = false))) ∧
    (fwAsks s s1 c b 10 →
      ((restZero b 3 = false ∨ (logBytes s.pkg.logNv).length < par b 0 + par b 1) → fwEnds .lifelogRead s c 2 keeps) ∧
      (restZero b 3 = true → par b 0 + par b 1 ≤ (logBytes s.pkg.logNv).length → leaves .lifelogRead s (fun u => keeps u ∧
        (u.mailbox c.mbx).busy = false ∧ u.pkg.logNv = s.pkg.logNv))) ∧
    (fwAsks s s1 c b 12 →
      ((restZero b 2 = false ∨ par b 1 = 0 ∨ ¬inside) → fwEnds .fwUpdate s c 2 (fun u => u.pkg.flash = s.pkg.flash)) ∧
      (restZero b 2 = true → par b 1 ≠ 0 → inside → (∃ j, j < par b 1 ∧ s1.poisonedAt (par b 0 + j) = true) →
        fwEnds .fwUpdate s c 10 (fun u => u.pkg.flash = s.pkg.flash)) ∧
      (restZero b 2 = true → par b 1 ≠ 0 → inside → (∀ j, j < par b 1 → s1.poisonedAt (par b 0 + j) = false) →
        fwEnds .fwUpdate s c (if lmsVerified img then 0 else 10)
          (fun u => u.pkg.flash = if lmsVerified img then img else s.pkg.flash))))

/-- R52, R368, R386, R392, R394, R433, R434, R436: CTX_CREATE makes a context as its block says; CTX_DESTROY ends one,
or begins its save; AMBER_CFG and POWER_CFG set what their masks name, and return BUSY for a context whose pre-emption
runs; RESET_DIE asks for FORCE while contexts hold work there.  R27, R434, R449, R461: MAP and UNMAP refuse a
malformed range and a context that is not theirs; a command that ends with an error leaves every byte of memory
outside its block as it was, so no entry is written; one that goes through writes every leaf of the range, and waits
for MAP_COMPLETE where an old translation may still be cached; MAP_COMPLETE leaves no cached translation of the range.
R27: MAP_COMPLETE ends the command that waits, once every access under way is performed and no cached translation of
its range is left.  Forms said to complete, under the conditions shown: ctxCreate, ctxDestroy, amberCfg, powerCfg,
resetDie, map, unmap, mapComplete.  What the rules leave open here is the model's choice: log entries 55, 56 and 60.
-/
def Obligations.FirmwareContexts : Prop :=
  (∀ (s s1 : State) (c : FwCmd) (b : List Byte),
    let x := par b 0
    let d := par b 0
    let on := fun (i : Nat) => bit (par b 2) i
    let v := amberArg b
    let pon := fun (i : Nat) => bit (par b 1) i
    let ends := fun (x : Nat) => (s.ctx x).dying = true ∨ ∃ p ∈ s.pkg.preempts, p.ctx = x
    let busy := ends x
    let keeps := fun (u : State) => u.ctxs = s.ctxs ∧ u.dies = s.dies
    (fwAsks s s1 c b 3 →
      (ctxPar b = none → fwEnds .ctxCreate s c 2 keeps) ∧
      (∀ y, ctxPar b = some y →
        ((s.ctx y.ctx).live = true → fwEnds .ctxCreate s c 3 keeps) ∧
        ((s.ctx y.ctx).live = false → rightsUnsupported y.rights s.pkg.features = true → fwEnds .ctxCreate s c 6 keeps) ∧
        (freshCtx s y → fwEnds .ctxCreate s c 0 (fun u =>
          let z := u.ctx y.ctx
          z.live = true ∧ z.dying = false ∧ z.root = some y.root ∧ z.maxprio = y.maxprio ∧ z.powerw = y.powerw ∧ z.rights = y.rights ∧
          z.emergVa = BitVec.ofNat 64 y.emergVa ∧ z.emergLen = y.emergLen ∧ z.saves = (s.ctx y.ctx).saves ∧
          ∀ w, w ≠ y.ctx → u.ctx w = s.ctx w)))) ∧
    (fwAsks s s1 c b 4 →
      ((63 < x ∨ 100000 < par b 2 ∨ restZero b 3 = false) → fwEnds .ctxDestroy s c 2 keeps) ∧
      (x < 64 → par b 2 ≤ 100000 → restZero b 3 = true →
        (c.virt = true → x ≠ c.ctx → fwEnds .ctxDestroy s c 5 keeps) ∧
        ((c.virt = true → x = c.ctx) →
          ((s.ctx x).live = false → fwEnds .ctxDestroy s c 4 keeps) ∧
          ((s.ctx x).live = true → busy → fwEnds .ctxDestroy s c 3 keeps) ∧
          ((s.ctx x).live = true → ¬busy → par b 1 = 0 → fwEnds .ctxDestroy s c 0 (fun u =>
            u.ctx x = { saves := (s.ctx x).saves } ∧ (∀ w, w ≠ x → (u.ctx w).live = (s.ctx w).live) ∧
            (∀ t ∈ u.tlb, t.ctx ≠ x) ∧ ∀ e ∈ u.pkg.boosts, e.ctx ≠ x)) ∧
          ((s.ctx x).live = true → ¬busy → par b 1 ≠ 0 → leaves .ctxDestroy s (fun u =>
            (u.ctx x).dying = true ∧ (u.ctx x).live = true ∧ ∃ p ∈ u.pkg.preempts, p.ctx = x ∧ p.va = par b 1 ∧ p.cmd = some c ∧
              p.die = s1.saveDie x ∧ p.cls = s1.workClusters p.die x))))) ∧
    (fwAsks s s1 c b 7 →
      (bit s.pkg.features 2 = false → fwEnds .amberCfg s c 5 keeps) ∧
      (bit s.pkg.features 2 = true → amberBad b = true → fwEnds .amberCfg s c 2 keeps) ∧
      (bit s.pkg.features 2 = true → amberBad b = false →
        let a := s.amber d
        let parked := on 7 = true ∧ v 7 = 0 ∧ ∃ r ∈ a.recs, r.2.st ≠ 0 ∧ arCtx r.2.img = par b 1
        ((ends (par b 1) ∨ parked) → fwEnds .amberCfg s c 3 keeps) ∧
        (¬ends (par b 1) → ¬parked → fwEnds .amberCfg s c 0 (fun u =>
          let w := u.amber d
          w.recBase = (if on 0 then v 0 else a.recBase) ∧ w.recCount = (if on 1 then v 1 else a.recCount) ∧
          w.hcDef = (if on 2 then v 2 else a.hcDef) ∧ w.cfDef = (if on 3 then v 3 else a.cfDef) ∧
          w.horizonDef = (if on 4 then v 4 else a.horizonDef) ∧ w.mapBase = (if on 6 then v 6 else a.mapBase) ∧
          (w.cfg (par b 1)).en = (if on 7 then decide (v 7 = 1) else (a.cfg (par b 1)).en) ∧
          (w.cfg (par b 1)).keyslot = (if on 10 then v 10 else (a.cfg (par b 1)).keyslot) ∧ w.recs = a.recs)))) ∧
    (fwAsks s s1 c b 8 →
      (powerBad b = true → fwEnds .powerCfg s c 2 keeps) ∧
      (powerBad b = false →
        ((pon 8 = true ∨ pon 9 = true) → (s.ctx (par b 10)).live = false → fwEnds .powerCfg s c 4 keeps) ∧
        ((pon 8 = true ∨ pon 9 = true) → (s.ctx (par b 10)).live = true → ends (par b 10) → fwEnds .powerCfg s c 3 keeps) ∧
        (((pon 8 = true ∨ pon 9 = true) → (s.ctx (par b 10)).live = true ∧ ¬ends (par b 10)) →
          (pon 9 = true → par b 12 = 1 → bit s.pkg.features 5 = false → fwEnds .powerCfg s c 6 keeps) ∧
          (¬(pon 9 = true ∧ par b 12 = 1 ∧ bit s.pkg.features 5 = false) → fwEnds .powerCfg s c 0 (fun u =>
            (u.die d).awakeMax = (if pon 0 then par b 2 else (s.die d).awakeMax) ∧
            (∀ i, i < 7 → (u.die d).spineReq.find (1 + i) = if pon (1 + i) then some (par b (3 + i)) else (s.die d).spineReq.find (1 + i)) ∧
            (pon 8 = true → (u.ctx (par b 10)).powerw = par b 11) ∧
            (pon 9 = true → bit (u.ctx (par b 10)).rights 0 = decide (par b 12 = 1)) ∧
            ∀ w, w ≠ par b 10 → u.ctx w = s.ctx w))))) ∧
    (fwAsks s s1 c b 11 →
      ((3 < d ∨ 1 < par b 1 ∨ restZero b 2 = false) → fwEnds .resetDie s c 2 keeps) ∧
      (d ≤ 3 → par b 1 = 0 → restZero b 2 = true → (∃ y, y < 64 ∧ s1.workClusters d y ≠ []) → fwEnds .resetDie s c 3 keeps) ∧
      (d ≤ 3 → restZero b 2 = true → par b 1 ≤ 1 → (par b 1 = 1 ∨ ∀ y, y < 64 → s1.workClusters d y = []) →
        (∀ p ∈ s.pkg.preempts, p.die ≠ d) → leaves .resetDie s (fun u =>
          (u.mailbox c.mbx).busy = false ∧ (u.die d).amber = { serial := (s.die d).amber.serial } ∧ (u.die d).emerg = {} ∧ (u.die d).tj = 0 ∧ (u.die d).clock = (s.die d).clock ∧
          (u.die d).keys = (s.die d).keys ∧ (u.die d).launches = [] ∧ ∀ n, n ≠ d → (u.die n).clock = (s.die n).clock)))) ∧
  (∀ (s s1 : State) (c : FwCmd) (b : List Byte) (put : Bool), fwAsks s s1 c b (if put then 5 else 6) →
    let i : Instr := if put then .map else .unmap
    let keeps := fun (u : State) => u.ctxs = s.ctxs ∧ u.tlb = s1.tlb ∧ u.pkg.poolUsed = s.pkg.poolUsed ∧
      (s.mem.wf = true → fwPlain c → ∀ x, (x < c.addr ∨ c.addr + 256 ≤ x) → u.mem.byte x = s.mem.byte x)
    let ends := fun (x : Nat) => (s.ctx x).dying = true ∨ ∃ p ∈ s.pkg.preempts, p.ctx = x
    (mapPar put b = none → fwEnds i s c 2 keeps) ∧
    (∀ y, mapPar put b = some y →
      (c.virt = true → y.ctx ≠ c.ctx → fwEnds i s c 5 keeps) ∧
      ((c.virt = true → y.ctx = c.ctx) →
        ((s.ctx y.ctx).live = false → fwEnds i s c 4 keeps) ∧
        ((s.ctx y.ctx).live = true → ends y.ctx → fwEnds i s c 3 keeps) ∧
        ((s.ctx y.ctx).live = true → ¬ends y.ctx →
          (∀ st, State.mapPages y.ctx y.va y.psize y.frame y.flags put y.count 0 s1 {} = .error st → fwEnds i s c st keeps) ∧
          (∀ s2 g, State.mapPages y.ctx y.va y.psize y.frame y.flags put y.count 0 s1 {} = .ok (s2, g) →
            (put = true → g.old = false → exec i s = .next (s2.fwDone c 0)) ∧
            ((put = false ∨ g.old = true) → leaves i s (fun u => u.mem = s2.mem ∧
              u.pkg.mapping = some { cmd := c, ctx := y.ctx, va := y.va, len := y.count * pageBytes y.psize, freed := g.tables }))) ∧
          (∀ s2 t r, MemInv s → y.count = 1 → y.psize = 0 → put = true → (s1.ctx y.ctx).root = some r →
            State.toTable true y.va 0 4 s1 r 3 = .ok (some t, s2) →
            let a := t + fld y.va 20 12 * 8
            bit (s2.pte a) 0 = false →
            ∃ w : State, exec i s = .next (w.fwDone c 0) ∧ w.pte a = y.frame + y.flags ∧
              ∀ z, (z + 8 ≤ a ∨ a + 8 ≤ z) → w.pte z = s2.pte z))))) ∧
  (∀ (s : State),
    (s.pkg.mapping = none → exec .mapComplete s = .next s) ∧
    (∀ m, s.pkg.mapping = some m → fwEnds .mapComplete s m.cmd 0 (fun u => u.pkg.mapping = none ∧
      (∀ c, (u.sq c).loads = [] ∧ (u.sq c).sbuf = []) ∧ ∀ t ∈ u.tlb, t.ctx = m.ctx → t.vbase < m.va + m.len → t.vbase + t.size ≤ m.va)))

/-! ### Exchange, host and Amber -/

/-- R338: XCMD issues the descriptor on the engine and queue that its operand names, with its sequence number; R327:
its acceptance is a release at DEV, which performs the stores of the buffer, and changes nothing else in memory, in
the other queues, on the other dies or in the package. Where it may not, it changes nothing but its register, and its
issue word holds a status whose condition holds: a full queue (R428: 16 entries), a descriptor that is misaligned or
outside a SCRATCH bank (R327), a queue number with bits [63:3] set, a kind that is not A2A, PUT, GET or SIG, or
exchange engines that are disabled (R435). R79: it waits while the descriptor's bank changes its mode.  Forms said to
complete, under the conditions shown: xcmd. -/
def Obligations.ExchangeSubmission : Prop :=
  ∀ (s : State) (d a b : Reg), plainReg d → plainReg a → plainReg b →
    let c := s.here
    let w := (srcVal s b).toNat
    let n := dieOf c
    let q := w % 2 * 4 + w / 2 % 4
    let desc := (s.cl c).localDesc (srcVal s a).toNat 64 64
    let x := (s.die n).xq q
    let full := w < 8 ∧ 16 ≤ x.ents.length
    let wrong := ∃ bs, desc = some bs ∧ (3 < xdKind (ofBytes bs) ∨ bit s.pkg.features 8 = false)
    ((srcVal s a).toNat % 64 ≠ 0 ∨ isLocal (srcVal s a).toNat = false → desc = none) ∧
    let cut := s.descCut (srcVal s a).toNat 64
    (cut = true → exec (.xcmd d a b) s = .next s) ∧
    (cut = false → (full ∨ desc = none ∨ 8 ≤ w ∨ wrong) → ∃ st : Nat,
      ((st = 1 ∧ full) ∨ (st = 3 ∧ desc = none) ∨ (st = 4 ∧ 8 ≤ w) ∨ (st = 5 ∧ wrong)) ∧
      answers (.xcmd d a b) s d (BitVec.ofNat 64 st) (fun u => sameBesideClusters s u ∧ ∀ e, e ≠ c → u.cl e = s.cl e)) ∧
    (∀ bs, cut = false → desc = some bs → w < 8 → ¬full → xdKind (ofBytes bs) ≤ 3 → bit s.pkg.features 8 = true →
      answers (.xcmd d a b) s d (BitVec.ofNat 64 (x.next * 2 ^ 16)) (fun u =>
        ((u.die n).xq q).ents = x.ents ++ [.cmd { desc := ofBytes bs, seq := x.next, ctx := (seqHere s).running.ctx, cl := c }] ∧
        ((u.die n).xq q).next = (x.next + 1) % 65536 ∧ (∀ p, p ≠ q → (u.die n).xq p = (s.die n).xq p) ∧
        (∀ m, m ≠ n → u.die m = s.die m) ∧ u.mem = memAfterStores s.mem (seqHere s).sbuf ∧ (seqHere u).sbuf = [] ∧
        u.ctxs = s.ctxs ∧ u.pkg = s.pkg ∧ (u.cl c).sram = (s.cl c).sram ∧ ∀ e, e ≠ c → u.cl e = s.cl e))

/-- R429, R430, R431: an engine judges the command at the head of its queue before it starts; PUT sends the next piece
of its bytes, at most to the end of a page, poisoned lanes marked, to the context of the same number over the link of
a valid peer-map entry; GET asks for one and writes what comes back; SIG sends its signal; A2A works down its routing
list, remembers each package once, and after the last entry sends one signal to each where SIGRVA is not 0; a peer
that cannot be reached or that faults stops the command; one that has not started when its context's save writes the
cluster starts no more (R421).  R425, R430, R431: a command that has finished leaves its queue and posts its message;
a peer's write, with its poisoned lanes, its read and its signal act through the context that they name and are
answered, one that names no context or does not translate as a remote fault; a lost link fails its routes.  Forms said
to complete, under the conditions shown: a2a, put, get, sig, remoteExchangeRequest, exchangeComplete, keepaliveLoss.
What the rules leave open here is the model's choice: log entry 53. -/
def Obligations.Exchange : Prop :=
  (∀ (s : State) (e : BitVec 1) (qn : BitVec 2) (y : XCmd),
    let d := s.actor.die
    let q := e.toNat * 4 + qn.toNat
    let x := y.desc
    let head := fun (u : State) => (u.die d).headX q
    let becomes := fun (i : Instr) (p : State → XCmd → Prop) => leaves i s (fun u => ∃ z, head u = some z ∧ p u z)
    let stops := fun (i : Instr) (st : Nat) => becomes i (fun _ z => z.finished = true ∧ z.status = st ∧ z.written = y.written)
    let engine := fun (k : Nat) => match k with
      | 0 => Instr.a2a e qn | 1 => .put e qn | 2 => .get e qn | _ => .sig e qn
    let src := vaAdd (xdSrc x) y.written
    let dst := vaAdd (xdDst x) y.written
    let went := fun (z : XCmd) (n : Nat) (bad : Bool) => z.written = y.written + n ∧ z.poisoned = (y.poisoned || bad) ∧
      z.finished = decide (xdLen x ≤ y.written + n) ∧ (z.finished = true → z.status = if z.poisoned then 0x20 else 0)
    let reached := fun (e : Nat) => bit e 0 = true ∧ Config.routeLink e ∉ s.pkg.lost
    (head s = none → ∀ k, k < 4 → exec (engine k) s = .next s) ∧
    (head s = some y → xdKind x < 4 → y.finished = false →
      (y.started = false → s.saveWritten y.cl y.ctx = true → exec (engine (xdKind x)) s = .next s) ∧
      (y.started = false → s.saveWritten y.cl y.ctx = false →
        (xdReserved x = true → stops (engine (xdKind x)) 0x21) ∧
        (xdReserved x = false → xdShape x = true → stops (engine (xdKind x)) 0x22) ∧
        (xdReserved x = false → xdShape x = false → becomes (engine (xdKind x)) (fun u z => z = { y with started := true } ∧ u.mem = s.mem))) ∧
      (y.started = true →
        (xdKind x = 1 →
          let n := min (xdLen x - y.written) (4096 - src % 4096)
          (∀ f bad s1, s.sendPiece d q y src dst (xdPkg x) n = (some f, bad, s1) → stops (.put e qn) f.code) ∧
          (∀ bad s1, s.sendPiece d q y src dst (xdPkg x) n = (none, bad, s1) → becomes (.put e qn) (fun u z => went z n bad ∧
            ∃ bs s0 e, s.engRead (whoX d q) y.ctx src n = (.ok bs, s0) ∧ bad = anyPoison bs ∧ reached e ∧
              u.pkg.outbox = s.pkg.outbox ++ [{ kind := 1, dest := xdPkg x, addr := dst, data := plain bs, ctx := y.ctx, link := e,
                                                 bad := poisonedAts bs }]))) ∧
        (xdKind x = 2 →
          let n := min (xdLen x - y.written) (4096 - dst % 4096)
          let ask : OutMsg := { kind := 3, dest := xdPkg x, addr := src, data := toBytes 8 n }
          (∀ f s1, s.toPeer d q y.ctx (xdPkg x) ask = (some f, s1) → stops (.get e qn) f.code) ∧
          (∀ s1, s.toPeer d q y.ctx (xdPkg x) ask = (none, s1) →
            ∃ (bs : List (Byte × Bool)) (s2 : State), bs.length = n ∧ s2.mem = s1.mem ∧
              (∀ f s3, s2.engWrite (whoX d q) y.ctx dst bs = (some f, s3) → stops (.get e qn) f.code) ∧
              (∀ s3, s2.engWrite (whoX d q) y.ctx dst bs = (none, s3) → becomes (.get e qn) (fun u z =>
                u.mem = s3.mem ∧ went z n (anyPoison bs) ∧
                ∃ e, reached e ∧ u.pkg.outbox = s.pkg.outbox ++ [{ ask with ctx := y.ctx, link := e }])))) ∧
        (xdKind x = 3 →
          (∀ f s1, s.signal d q y (xdPkg x) (xdDst x) = (some f, s1) → stops (.sig e qn) f.code) ∧
          (∀ s1, s.signal d q y (xdPkg x) (xdDst x) = (none, s1) → becomes (.sig e qn) (fun u z => z.finished = true ∧ z.status = 0 ∧
            ∃ e, reached e ∧ u.pkg.outbox = s.pkg.outbox ++ [{ kind := 2, dest := xdPkg x, addr := xdDst x,
                                                               data := toBytes 8 (xdSigVal x), ctx := y.ctx, link := e }]))) ∧
        (xdKind x = 0 →
          (xdLen x ≤ y.entry → xdSigRva x = 0 →
            becomes (.a2a e qn) (fun u z => z.finished = true ∧ z.status = (if y.poisoned then 0x20 else 0) ∧ u.pkg.outbox = s.pkg.outbox)) ∧
          (∀ f s1, xdLen x ≤ y.entry → xdSigRva x ≠ 0 → State.signals d q y y.pkgs s = (some f, s1) → stops (.a2a e qn) f.code) ∧
          (∀ s1, xdLen x ≤ y.entry → xdSigRva x ≠ 0 → State.signals d q y y.pkgs s = (none, s1) →
            becomes (.a2a e qn) (fun u z => z.finished = true ∧ z.status = (if y.poisoned then 0x20 else 0) ∧
              ∃ ls : List Nat, ls.length = y.pkgs.length ∧ (∀ e ∈ ls, reached e) ∧
                u.pkg.outbox = s.pkg.outbox ++ (y.pkgs.zip ls).map (fun p => { kind := 2, dest := p.1, addr := xdSigRva x,
                                                                                  data := toBytes 8 (xdSigVal x), ctx := y.ctx, link := p.2 }))) ∧
          (∀ bs s1, y.entry < xdLen x → s.engRead (whoX d q) y.ctx (vaAdd (xdSrc x) (32 * y.entry)) 32 = (.ok bs, s1) →
            let t := ofBytes (plain bs)
            (routeEntry t = none → stops (.a2a e qn) 0x22) ∧
            (routeEntry t ≠ none → anyPoison bs = true → stops (.a2a e qn) 0x20) ∧
            (∀ f n bad s2, routeEntry t ≠ none → anyPoison bs = false →
              State.sendEntry d q y (fld t 159 128 / 64 + 2) s1 (fld t 63 0) (fld t 127 64) (fld t 171 160) (fld t 159 128) = (f, n, bad, s2) →
              becomes (.a2a e qn) (fun u z => u.mem = s2.mem ∧ z.written = y.written + n ∧ z.poisoned = (y.poisoned || bad) ∧
                (f = none → z.entry = y.entry + 1 ∧ z.finished = false ∧
                  z.pkgs = (if fld t 171 160 ∈ y.pkgs then y.pkgs else y.pkgs ++ [fld t 171 160])) ∧ ∀ g, f = some g → z.finished = true ∧ z.status = g.code))))))) ∧
  (∀ (s : State) (e : BitVec 1) (qn : BitVec 2) (ctx : BitVec 6) (kind : BitVec 2) (va : BitVec 64) (len data : Nat) (link : BitVec 5),
    let d := s.actor.die
    let q := e.toNat * 4 + qn.toNat
    let w := whoPeer d
    let go := .remoteExchangeRequest ctx kind va len data
    let given := (toBytes len data).zipIdx.map (fun b => (b.1, kind == 3 && data.testBit (8 * len + b.2)))
    let told := fun (u : State) (st : Nat) (bs : List Byte) => u.pkg.outbox = s.pkg.outbox ++ [{ kind := 9, dest := ctx.toNat, addr := st, data := bs }]
    (((s.die d).headX q = none ∨ ∃ y, (s.die d).headX q = some y ∧ y.finished = false) → exec (.exchangeComplete e qn) s = .next s) ∧
    (∀ y, (s.die d).headX q = some y → y.finished = true → leaves (.exchangeComplete e qn) s (fun u =>
      ((u.die d).xq q).ents = ((s.die d).xq q).ents.drop 1 ∧ u.mem = s.mem ∧
      (xdMsg y.desc = false → u.clusters = s.clusters) ∧
      (xdMsg y.desc = true → (u.cl y.cl).chans = ((s.post y.cl (senderOut (whoX (dieOf y.cl) q).agent) (xdChan y.desc)
        { msg := { w0 := BitVec.ofNat 64 (y.status + xdKind y.desc * 2 ^ 8 + q * 2 ^ 12 + xdTag y.desc * 2 ^ 16 + y.lvl * 2 ^ 32),
                   w1 := BitVec.ofNat 64 y.written, w3 := BitVec.ofNat 64 y.fva }, ctx := y.ctx }).cl y.cl).chans))) ∧
    ((s.ctx ctx.toNat).live = false → leaves go s (fun u => told u 0x42 [] ∧ u.mem = s.mem)) ∧
    ((s.ctx ctx.toNat).live = true →
      (∀ s1, (kind = 0 ∨ kind = 3) → s.engWrite w ctx.toNat va.toNat given = (none, s1) →
        leaves go s (fun u => told u 0 [] ∧ u.mem = s1.mem ∧ u.poison = s1.poison)) ∧
      (∀ f s1, (kind = 0 ∨ kind = 3) → s.engWrite w ctx.toNat va.toNat given = (some f, s1) →
        leaves go s (fun u => told u 0x42 [])) ∧
      (∀ bs s1, kind = 1 → s.engRead w ctx.toNat va.toNat len = (.ok bs, s1) →
        leaves go s (fun u => u.pkg.outbox = s.pkg.outbox ++ [{ kind := 9, dest := ctx.toNat, addr := if anyPoison bs then 0x20 else 0,
                                                                   data := plain bs, bad := poisonedAts bs }])) ∧
      (∀ f s1, kind = 1 → s.engRead w ctx.toNat va.toNat len = (.error f, s1) → leaves go s (fun u => told u 0x42 [])) ∧
      (∀ pa mt s1, kind = 2 → (s.deliverKnown w.agent d .sys).translate w.owner d w.mcl ctx.toNat .atomic va.toNat = (.ok pa mt, s1) →
        va.toNat % 8 = 0 → s1.poisonedAt pa = false → MemInv s → leaves go s (fun u => told u 0 [] ∧
          u.mem.bytes pa 8 = toBytes 8 (ofBytes (s1.mem.bytes pa 8) + data)))) ∧
    (20 ≤ link.toNat → exec (.keepaliveLoss link) s = .next s) ∧
    (link.toNat < 20 → leaves (.keepaliveLoss link) s (fun u => (∀ n, n ∈ u.pkg.lost ↔ n ∈ s.pkg.lost ∨ n = link.toNat) ∧ u.mem = s.mem ∧
      u.pkg.outbox = s.pkg.outbox ++ [{ kind := 5, dest := 1000 + link.toNat, addr := 0x41 }])))

/-- R8, R10, R35, R238, R259, R364, R394, R432: a store to a device register reaches the register that stands there,
and nothing where none does: a doorbell is queued once, tile and island flags clear, PSTALL takes its value.  R10,
R291: the host reads and writes memory and registers over the link; an address that the map reserves is a fault, and
the only one there is.  R437, R439, R440: telemetry counts what it sees in the lifetime log, whose bins saturate; a
rewrite, every 10 minutes, keeps the counts; levelling deallocates what was freed; recalibration changes nothing; a
package reset keeps tier C, the log and the used leaves and runs the valid firmware image of the higher version, its
later steps following one by one, and reports and stops where neither bank is valid; a loss of power keeps only what
was last rewritten.  Forms said to complete, under the conditions shown: registerWrite, hostMemoryAccess, powerUp,
powerLoss, telemetrySample, voltageDroop, laneRetrain, lifelogRewrite, recalibration, wearLevelling.  What the rules
leave open here is the model's choice: log entries 1, 54, 61 and 63. -/
def Obligations.HostAndRegisters : Prop :=
  (∀ (s : State) (pa : BitVec 48) (v : BitVec 64),
    let a := pa.toNat
    let go := .registerWrite pa v
    let seqs := s.actor.unit ≠ 293 ∧ s.actor.unit ≠ 294
    let m := 1 + dieOf s.here
    (inDev a = false → exec go s = .next s) ∧
    (s.actor.unit ≠ 294 → inDev a = true → a % 8 ≠ 0 → exec go s = .next s.posted) ∧
    (s.actor.unit = 293 → a = 0xF0000000000 → (s.mailbox 0).busy = false → leaves go s (fun u =>
      u.pkg.fwq = s.pkg.fwq ++ [{ mbx := 0, addr := v.toNat }] ∧ (u.mailbox 0).busy = true ∧ u.mem = s.mem)) ∧
    (s.actor.unit = 293 → a = 0xF0000000000 → (s.mailbox 0).busy = true → exec go s = .next s.posted) ∧
    (seqs → m < 5 → a = 0xF0000000000 + 0x100 * m → (s.mailbox m).busy = false → leaves go s (fun u =>
      u.pkg.fwq = s.pkg.fwq ++ [{ mbx := m, addr := v.toNat, ctx := (seqHere s).running.ctx, cl := s.here }])) ∧
    (∀ n, seqs → n < 6 → n ≠ m → a = 0xF0000000000 + 0x100 * n → exec go s = .next s) ∧
    (s.actor.unit = 294 → inDev a = true → inLinkWindow a = false → leaves go s (fun u => u.mem = s.mem ∧ u.dies = s.dies ∧ u.clusters = s.clusters ∧
      u.pkg.outbox = s.pkg.outbox ++ [{ kind := 6, dest := s.actor.cl, addr := a }])) ∧
    (∀ d c t, seqs → d < 4 → c < 40 → t < 256 → a = 0xF0008000000 + 0x100000 * d + 0x1000 * c + 8 * t → leaves go s (fun u =>
      ∀ i, i < 7 → ((u.cl (d * 40 + c)).tile t).flags.testBit i = (((s.cl (d * 40 + c)).tile t).flags.testBit i && !v.getLsbD i))) ∧
    (∀ d c i, seqs → d < 4 → c < 40 → i < 4 → a = 0xF000C000000 + 0x100000 * d + 0x100 * c + 0x40 * i + 0x10 → leaves go s (fun u =>
      ((u.cl (d * 40 + c)).mat i).deadcnt = v.toNat % 2 ^ 32)) ∧
    (∀ d, seqs → d < 4 → a = 0xF0014000000 + 0x100000 * d + 0x10 → leaves go s (fun u =>
      (u.die d).pstall = v ∧ u.clusters = s.clusters ∧ u.mem = s.mem)) ∧
    (∀ d, seqs → d < 4 → a = 0xF0014000000 + 0x100000 * d + 8 → exec go s = .next s) ∧
    (∀ d q, seqs → d < 4 → q < 16 → a = 0xF0010000000 + 0x100000 * d + 0x40 * q + 8 → leaves go s (fun u =>
      ((u.die d).hq q).base.toNat = v.toNat / 64 * 64 ∧ ((u.die d).hq q).ctl = ((s.die d).hq q).ctl)) ∧
    (∀ d i, seqs → d < 4 → i < 2 ^ 14 → a = 0xF0004000000 + 0x100000 * d + 0x80000 + 8 * i → 4 ≤ v.toNat / 2 ^ 32 % 16 →
      leaves go s (fun u => (u.amber d).drops = min ((s.amber d).drops + 1) (2 ^ 64 - 1) ∧ (u.amber d).recs = (s.amber d).recs ∧ u.mem = s.mem))) ∧
  (∀ (s : State) (write : Bool) (pa : BitVec 48) (len data : Nat),
    let a := pa.toNat
    let go := .hostMemoryAccess write pa len data
    let exists_ := ∀ i, i < len → populated (a + i) = true
    let sent := fun (u : State) (dest : Nat) (bs : List Byte) => u.mem = s.mem ∧
      u.pkg.outbox = s.pkg.outbox ++ [{ kind := 10, dest := dest, addr := a, data := bs }]
    (¬exists_ → ∃ n, a ≤ n ∧ n < a + len ∧ populated n = false ∧ exec go s = .fault (.noSuchAddress n)) ∧
    (exists_ → len ≠ 0 → inDev a = false →
      (write = false → leaves go s (fun u => sent u (if ∃ i, i < len ∧ s.poisonedAt (a + i) = true then 1 else 0) (s.mem.bytes a len))) ∧
      (write = true → MemInv s → leaves go s (fun u => u.mem.bytes a len = toBytes len data ∧
        ∀ n, (n < a ∨ a + len ≤ n) → u.mem.byte n = s.mem.byte n))) ∧
    (exists_ → len = 8 → inDev a = true → write = false → leaves go s (fun u => sent u 0 (toBytes 8 (s.deviceRead a).toNat))) ∧
    (exists_ → len ≠ 0 → len ≠ 8 → inDev a = true → write = false → leaves go s (fun u => sent u 0 (List.replicate len 0))) ∧
    (len = 0 → exec go s = .next s)) ∧
  (∀ (s : State) (vfi depth : BitVec 8) (link : BitVec 5),
    let d := s.actor.die
    let log := fun (u : State) (h n : Nat) => u.pkg.log.get (h * 2 ^ 32 + n) 0
    let counts := fun (i : Instr) (h n : Nat) => leaves i s (fun u => log u h n = min (log s h n + 1) (2 ^ 64 - 1) ∧ u.mem = s.mem ∧
      u.dies = s.dies ∧ u.clusters = s.clusters ∧ ∀ k, k ≠ h * 2 ^ 32 + n → u.pkg.log.get k 0 = s.pkg.log.get k 0)
    let between := 1 ≤ s.pkg.startup ∧ s.pkg.startup < 8
    let valid := fun (img : List Byte) => img = [] ∨ lmsVerified img = true
    let run := s.pkg.fwRun
    let other := s.pkg.flash
    let fresh := fun (i : Instr) => leaves i s (fun u => u.clusters = [] ∧ u.dies = [] ∧ u.ctxs = [] ∧ u.tlb = [] ∧ u.pkg.fwq = [] ∧
      u.pkg.leaf = s.pkg.leaf ∧ u.pkg.features = State.reset.pkg.features ∧ u.pkg.logNv = s.pkg.logNv ∧
      (i = .powerUp → (∀ n, inH n = false → u.mem.byte n = s.mem.byte n) ∧ (∀ n, inH n = true → u.mem.byte n = 0) ∧ u.pkg.log = s.pkg.log ∧
        (valid other → (¬valid run ∨ Config.fwVersion run < Config.fwVersion other) →
          u.pkg.fwRun = other ∧ u.pkg.flash = run ∧ u.pkg.startup = 1) ∧
        (valid run → (¬valid other ∨ Config.fwVersion other ≤ Config.fwVersion run) →
          u.pkg.fwRun = run ∧ u.pkg.flash = other ∧ u.pkg.startup = 1) ∧
        (¬valid run → ¬valid other → u.pkg.startup = 0 ∧ u.pkg.outbox = s.pkg.outbox ++ [{ kind := 5, dest := 4000 }])) ∧
      (i = .powerLoss → u.mem = [] ∧ u.pkg.fwRun = run ∧ u.pkg.flash = other ∧ u.pkg.log = s.pkg.logNv ∧ u.pkg.startup = 0))
    counts .telemetrySample 0 (25 * d + min 24 ((s.die d).tj / 5)) ∧
    (vfi.toNat < 168 → 10 ≤ depth.toNat → counts (.voltageDroop vfi depth) 1 (9 * vfi.toNat + min 8 (depth.toNat / 10 - 1))) ∧
    ((168 ≤ vfi.toNat ∨ depth.toNat < 10) → exec (.voltageDroop vfi depth) s = .next s) ∧
    (link.toNat < 31 → counts (.laneRetrain link) 4 link.toNat) ∧
    (31 ≤ link.toNat → exec (.laneRetrain link) s = .next s) ∧
    (s.pkg.logDue ≤ s.pkg.clock → leaves .lifelogRewrite s (fun u => u.pkg.logNv = s.pkg.log ∧ u.pkg.log = s.pkg.log ∧
      u.pkg.logDue = s.pkg.logDue + 600000000 ∧ u.dies = s.dies ∧ u.mem = s.mem)) ∧
    (s.pkg.clock < s.pkg.logDue → exec .lifelogRewrite s = .next s) ∧
    exec (.recalibration link) s = .next s ∧
    leaves .wearLevelling s (fun u => (u.amber d).freed = [] ∧ (u.amber d).exts = (s.amber d).exts ∧ (u.amber d).recs = (s.amber d).recs ∧ u.mem = s.mem) ∧
    (¬between → fresh .powerUp) ∧ fresh .powerLoss ∧
    (between → exec .powerUp s = .next (s.setPkg { s.pkg with startup := s.pkg.startup + 1 })))

/-- R34 to R37: a park request outside AMB_PARK's range is counted and ignored; one for a record in use, a bad record,
a bad block table or a context that may not park leaves the record FREE, or as it was, with its PERR; an accepted one
reads the record and its table and leaves it PARKED.  R36, R37, R41, R47, R48: an operation whose token or state does
not match, or whose argument is not the operation's, is counted and ignored; WAKE takes its argument as the payload
and abandons demotions under way; PROMOTE_ALL's range is every block; PROMOTE_ONE puts its block ahead of every other;
DROP leaves the record FREE with nothing under way, every entry of the table not valid, its INDEX 0 and its state
kept, and a resume launch that met FULL still to be tried again.  R38, R45, R53, R465: the H-to-C timer starts a pass
over the aging range of a PARKED record, and the C-to-F timer one into tier F, each once and not before its time; a
record is examined each millisecond; a resume launch that met FULL and failed pushes are tried again after a
millisecond, a push that met a locked stack after a microsecond; a RESUMED record whose blocks are all in H is FREE
once its last push is made.  R39 to R43, R49: a transfer in flight moves its block's bytes and then its entry, if that
is unchanged; a block that was written meanwhile is left for the next examination; no demotion of a timer ends in the
millisecond of its expiry; a transfer to or from tier F waits until both pralines of the standing lease are ready, one
from it whose extent does not match leaves poison and a machine check; a promotion with no transfer in flight takes
its block from the H stack.  Forms said to complete, under the conditions shown: ambPark, wake, promoteAll,
promoteOne, drop, hcTimerExpiry, cfTimerExpiry, amberExamination, resumeLaunchRetry, amberPushRetry, demoteHc,
demoteCf, blockPromotion, promotionResume.  What the rules leave open here is the model's choice: log entries 51, 52
and 64. -/
def Obligations.Amber : Prop :=
  (∀ (s0 s1 : State) (v : BitVec 64) (t : BlockTab), MemInv s0 →
    let s := s0.posted
    let d := s0.actor.die
    let a := s.amber d
    let i := v.toNat
    let r := s.arec d i
    let pa := a.recBase + 64 * i
    let x := ofBytes (s.mem.bytes pa 64)
    let go := .ambPark v
    let bad := arBad x = true ∨ s.poisonedAt pa = true ∨ s.poisonedAt (pa + 32) = true
    let fresh : AmbRec := { img := x, payload := fld x 347 320, hcMs := if arHc x = 0 then a.hcDef else arHc x,
                            cfMs := if arCf x = 0 then a.cfDef else arCf x,
                            horizon := if arHorizon x = 0 then a.horizonDef else arHorizon x, depth := arDepth x,
                            parkAt := a.clock, lastExam := a.clock, lastPush := r.lastPush, lastHeld := r.lastHeld, pushes := r.pushes, undone := r.undone }
    let perr := fun (u : State) (n : Nat) => fld (ofBytes (u.mem.bytes (pa + 40) 8)) 34 31 = n
    ((2 ^ 14 ≤ i ∨ a.recCount ≤ i) → leaves go s0 (fun u => (u.amber d).drops = min (a.drops + 1) (2 ^ 64 - 1) ∧ u.mem = s.mem ∧
      (u.amber d).recs = a.recs)) ∧
    (i < 2 ^ 14 → i < a.recCount →
      (r.st ≠ 0 → r.st < 8 → r.payload < 2 ^ 28 → leaves go s0 (fun u => perr u 1 ∧ (u.arec d i).st = r.st ∧ (u.arec d i).img = r.img ∧
        (∀ n, (n < pa + 40 ∨ pa + 48 ≤ n) → u.mem.byte n = s.mem.byte n))) ∧
      (r.st = 0 → bad → leaves go s0 (fun u => perr u 2 ∧ (u.arec d i).st = 0 ∧
        (∀ n, (n < pa + 40 ∨ pa + 48 ≤ n) → u.mem.byte n = s.mem.byte n))) ∧
      (r.st = 0 → ¬bad →
        (∀ y, (s.setArec d i fresh).amberDesc d i = (y, s1) → (∀ z, y ≠ .ok (some z)) →
          leaves go s0 (fun u => perr u 3 ∧ (u.arec d i).st = 0)) ∧
        ((s.setArec d i fresh).amberDesc d i = (.ok (some t), s1) → (a.cfg (arCtx x)).en = false →
          leaves go s0 (fun u => perr u 4 ∧ (u.arec d i).st = 0)) ∧
        ((s.setArec d i fresh).amberDesc d i = (.ok (some t), s1) → (a.cfg (arCtx x)).en = true →
          leaves go s0 (fun u => (u.arec d i) = { fresh with st := 1, tab := some t, len := t.len, lenMax := t.len, told := (u.arec d i).told } ∧
            u.mem.bytes (pa + 40) 8 = toBytes 8 (fresh.payload + 2 ^ 28) ∧ u.mem.bytes (pa + 60) 4 = toBytes 4 0))))) ∧
  (∀ (s0 s1 : State) (i : BitVec 14) (token : BitVec 32) (arg : BitVec 28), MemInv s0 →
    let s := s0.posted
    let d := s0.actor.die
    let n := i.toNat
    let a := s.amber d
    let r := s.arec d n
    let rec_ := fun (u : State) => u.arec d n
    let named := arToken r.img = token.toNat
    let ignored := fun (op : Instr) => leaves op s0 (fun u => (u.amber d).drops = min (a.drops + 1) (2 ^ 64 - 1) ∧ u.mem = s.mem ∧
      (u.amber d).recs = a.recs)
    ((¬named ∨ r.st ≠ 1) → ignored (.wake i token arg)) ∧
    ((¬named ∨ (r.st ≠ 2 ∧ r.st ≠ 3) ∨ arg ≠ 0) → ignored (.promoteAll i token arg)) ∧
    ((¬named ∨ (r.st ≠ 1 ∧ r.st ≠ 2 ∧ r.st ≠ 3)) → ignored (.promoteOne i token arg)) ∧
    ((¬named ∨ (r.st ≠ 1 ∧ r.st ≠ 3) ∨ arg ≠ 0) → ignored (.drop i token arg)) ∧
    (named → r.st = 1 → leaves (.wake i token arg) s0 (fun u => (rec_ u).payload = arg.toNat ∧ (rec_ u).age = s.ageMs d n ∧
      (rec_ u).demHC = none ∧ (rec_ u).demCF = none ∧ (rec_ u).pass = [] ∧ (rec_ u).img = r.img ∧
      ((rec_ u).st = 0 ∨ (rec_ u).st = 2 ∨ (rec_ u).st = 3))) ∧
    (named → (r.st = 2 ∨ r.st = 3) → arg = 0 → leaves (.promoteAll i token arg) s0 (fun u => (rec_ u).depth = 0 ∧
      (rec_ u).payload = r.payload ∧ (rec_ u).img = r.img ∧
      (r.n = 0 → r.nMax = 0 → r.pushes = [] → r.undone = [] → (rec_ u).st = 0))) ∧
    (named → (r.st = 1 ∨ r.st = 2 ∨ r.st = 3) → r.n ≤ arg.toNat →
      leaves (.promoteOne i token arg) s0 (fun u => rec_ u = { r with told := (rec_ u).told })) ∧
    (named → (r.st = 1 ∨ r.st = 2 ∨ r.st = 3) → arg.toNat < r.n → s.markPending d n arg.toNat = (.put, s1) →
      (s1.arec d n).proC ≠ none → (s1.arec d n).proF ≠ none →
      leaves (.promoteOne i token arg) s0 (fun u =>
        (rec_ u).pend = arg.toNat :: ((s1.arec d n).pend.filter (fun b => b != arg.toNat)) ∧ arg.toNat ∉ (rec_ u).skipP ∧
        (rec_ u).st = r.st)) ∧
    (named → (r.st = 1 ∨ r.st = 2 ∨ r.st = 3) → arg.toNat < r.n → s.markPending d n arg.toNat = (.failed, s1) →
      leaves (.promoteOne i token arg) s0 (fun u => arg.toNat ∈ (rec_ u).skipP ∧ (rec_ u).ahead.head? = some arg.toNat ∧
        (rec_ u).st = r.st)) ∧
    (named → (r.st = 1 ∨ r.st = 3) → arg = 0 →
      let z := (s.abandonDemotions d n).abandonPromotions d n (fun _ => true)
      let q := z.arec d n
      let given := (List.range q.n).foldl (fun u b => (u.freeExtent d n b).dropEntry d n
          { ctx := arCtx q.img, cl := arCluster q.img, cstack := ((u.amber d).cfg (arCtx q.img)).cstack, block := b, va := (z.table d n).entryVa b })
        (z.setArec d n { q with pend := [], ahead := [], skipP := [], pushes := q.pushes.filter (fun p => !p.failed) })
      leaves (.drop i token arg) s0 (fun u => (rec_ u).st = 0 ∧ (rec_ u).pend = [] ∧ (rec_ u).ahead = [] ∧
        (rec_ u).skipP = [] ∧ (rec_ u).demHC = none ∧ (rec_ u).demCF = none ∧ (rec_ u).proC = none ∧ (rec_ u).proF = none ∧
        (u.amber d).retries = a.retries ∧
        (r.nMax ≤ r.n → ∀ m, (m < a.recBase + 64 * n ∨ a.recBase + 64 * n + 64 ≤ m) → u.mem.byte m = given.mem.byte m))) ∧
    (∀ (u : State) (x : Undone) (bs : List Byte) (u1 u2 : State), x.beyond = false →
      u.accGet x.acc d x.va 4 = (.ok bs, u1) → enValid (ofBytes bs) = true → 1 ≤ enState (ofBytes bs) → enState (ofBytes bs) ≤ 4 →
      u1.accCas x.acc d n x.block x.va (ofBytes bs) (enState (ofBytes bs) * 2 ^ 28) = (.done, u2) →
      (3 ≤ enState (ofBytes bs) → u.dropEntry d n x = u2) ∧
      (enState (ofBytes bs) ≤ 2 → u.dropEntry d n x = u2.givePush d n
        { ctx := x.ctx, cl := x.cl, top := x.cstack, block := enIndex (ofBytes bs), entry := some x.va }) ∧
      ∃ pa mt u3, u1.translate (1000 + d) d (d * 40 + x.cl) x.ctx .atomic x.va = (.ok pa mt, u3) ∧
        u2.mem = u3.mem.setBytes pa (toBytes 4 (enState (ofBytes bs) * 2 ^ 28)))) ∧
  (∀ (s s1 : State) (i : BitVec 14),
    let d := s.actor.die
    let n := i.toNat
    let a := s.amber d
    let r := s.arec d n
    let rec_ := fun (u : State) => u.arec d n
    let c := a.cfg (arCtx r.img)
    let hc := r.st = 1 ∧ r.hcDue = false ∧ c.cstack ≠ 0 ∧ r.hcMs ≤ s.ageMs d n
    let cf := r.st = 1 ∧ r.cfDue = false ∧ a.fns.isSome = true ∧
      (if c.cstack = 0 then r.hcMs + r.cfMs ≤ s.ageMs d n else ∃ t, r.hcEnd = some t ∧ t + 1000 * r.cfMs ≤ a.clock)
    let busy := r.demHC ≠ none ∨ r.demCF ≠ none
    let slow := r.lastPush + 1000 ≤ a.clock
    let due := fun (p : Push) => if p.failed then slow else r.lastHeld < a.clock
    (¬hc → exec (.hcTimerExpiry i) s = .next s) ∧
    (hc → leaves (.hcTimerExpiry i) s (fun u => (rec_ u).hcDue = true ∧ (rec_ u).dueMs = s.ageMs d n ∧ (rec_ u).st = 1 ∧
      (rec_ u).cfDue = r.cfDue ∧ (busy → (rec_ u).pass = r.aging ∧ u.mem = s.mem) ∧
      (¬busy → r.aging = [] → r.cfDue = false → r.hcEnd = none → r.skip = [] → (rec_ u).hcEnd = some a.clock))) ∧
    (¬cf → exec (.cfTimerExpiry i) s = .next s) ∧
    (cf → leaves (.cfTimerExpiry i) s (fun u => (rec_ u).hcDue = true ∧ (rec_ u).cfDue = true ∧ (rec_ u).st = 1 ∧
      (busy → (rec_ u).pass = r.aging ∧ (rec_ u).skip = []))) ∧
    ((r.st = 0 ∨ a.clock < r.lastExam + 1000) → exec (.amberExamination i) s = .next s) ∧
    (r.st ≠ 0 → r.lastExam + 1000 ≤ a.clock → leaves (.amberExamination i) s (fun u => (rec_ u).lastExam = a.clock ∧
      (rec_ u).age = (if r.st = 1 then s.ageMs d n else r.age) ∧ (rec_ u).img = r.img)) ∧
    (a.retries.find? (fun y => y.rix == n) = none → exec (.resumeLaunchRetry i) s = .next s) ∧
    (∀ y, a.retries.find? (fun y => y.rix == n) = some y →
      (a.clock < y.last + 1000 → exec (.resumeLaunchRetry i) s = .next s) ∧
      (∀ st m, y.last + 1000 ≤ a.clock → (s.setAmber d { a with retries := a.retries.erase y }).accept d y.packet
          (fun z => z == y.ctx) (some y.msg) none = (st, m, s1) →
        leaves (.resumeLaunchRetry i) s (fun u => (u.amber d).retries =
          (if st = 31 then a.retries.erase y ++ [{ y with last := a.clock }] else a.retries.erase y) ∧
          (u.die d).launches = (s1.die d).launches))) ∧
    ((∀ p ∈ r.pushes, ¬due p) → (r.undone = [] ∨ ¬slow) → exec (.amberPushRetry i) s = .next s) ∧
    (∀ p, r.pushes = [p] → r.undone = [] → p.entry = none → due p →
      let s0 := s.setArec d n { r with pushes := [], lastPush := if p.failed then a.clock else r.lastPush,
                                       lastHeld := if r.lastHeld < a.clock then a.clock else r.lastHeld,
                                       told := r.told && !(p.failed && r.st == 0) }
      let put := s0.tryPush d n { p with failed := false }
      (r.st ≠ 3 → leaves (.amberPushRetry i) s (fun u => u.mem = put.2.mem ∧ (rec_ u).pushes =
        (match put.1 with | .done => [] | .held => [{ p with failed := false }] | .failed => [{ p with failed := true }]))) ∧
      (∀ s2, r.st = 3 → r.nMax ≤ r.n → put = (.done, s1) → s1.allHome d n 0 r.n = (true, s2) →
        leaves (.amberPushRetry i) s (fun u => (rec_ u).st = 0 ∧ (rec_ u).pushes = [])))) ∧
  (∀ (s s1 s2 s3 : State) (i : BitVec 14) (b : BitVec 28) (x : Transfer) (bs : List Byte),
    let d := s.actor.die
    let n := i.toNat
    let r := s.arec d n
    let t := s.table d n
    let size := 2 ^ t.bshift
    let rec_ := fun (u : State) => u.arec d n
    let ready := (s.die d).amberReady 0 = true ∧ (s.die d).amberReady 2 = true
    let plainBytes := bs.map (fun y => (y, false))
    let due := s.pastDue d n = true
    let hit := s.watches.any (fun w => w.die == d && w.rix == n && w.hit) = true
    let goes := fun (op : Instr) (u : State) => exec op s = .next (u.goDemote d n)
    (r.demHC = none → goes (.demoteHc i b) s) ∧ (r.demCF = none → goes (.demoteCf i b) s) ∧
    (r.demHC = some x → x.block ≠ b.toNat → exec (.demoteHc i b) s = .next s) ∧
    (r.demCF = some x → x.block ≠ b.toNat → exec (.demoteCf i b) s = .next s) ∧
    (r.demHC = some x → x.block = b.toNat → ¬due → exec (.demoteHc i b) s = .next s) ∧
    (r.demHC = some x → x.block = b.toNat → due → hit → r.pass = [] → r.cfDue = true →
      leaves (.demoteHc i b) s (fun u => (rec_ u).demHC = none ∧ x.block ∈ (rec_ u).skip)) ∧
    (r.demHC = some x → x.block = b.toNat → due → ¬hit →
      let s0 := (s.unwatch d n).setArec d n { r with demHC := none }
      let c := x.popped.getD 0
      s0.amberGet d n (t.hva (enIndex x.entry)) size = (.ok bs, s1) → s1.amberPut d n (t.cva c) plainBytes = (none, s2) →
      (s2.amberRelease d).cas d n t x.block x.entry (2 ^ 31 + 2 ^ 28 + c) = (.done, s3) →
      goes (.demoteHc i b) ((s3.giveBack d n true (enIndex x.entry) (some (t.entryVa x.block))).recount d n)) ∧
    (r.demCF = some x → x.block = b.toNat → ¬ready →
      leaves (.demoteCf i b) s (fun u => (rec_ u).demCF = some x ∧ u.mem = s.mem)) ∧
    (r.demCF = some x → x.block = b.toNat → ready → ¬due → exec (.demoteCf i b) s = .next s) ∧
    (r.demCF = some x → x.block = b.toNat → ready → due → ¬hit →
      let s0 := ((s.unwatch d n).setArec d n { r with demCF := none }).restEngines d
      let src := if enState x.entry = 1 then t.cva (enIndex x.entry) else t.hva (enIndex x.entry)
      s0.amberGet d n src size = (.ok bs, s1) → s1.writeExtent d n x.block bs = some s2 →
      s2.cas d n t x.block x.entry (2 ^ 31 + 3 * 2 ^ 28) = (.done, s3) →
      goes (.demoteCf i b) ((s3.giveBack d n (enState x.entry != 1) (enIndex x.entry) (some (t.entryVa x.block))).recount d n)) ∧
    (r.proC = some x → x.block = b.toNat →
      let s0 := s.setArec d n { r with proC := none }
      let h := x.popped.getD 0
      s0.amberGet d n (t.cva (enIndex x.entry)) size = (.ok bs, s1) → s1.amberPut d n (t.hva h) plainBytes = (none, s2) →
      (s2.amberRelease d).cas d n t x.block x.entry (2 ^ 31 + h) = (.done, s3) →
      exec (.blockPromotion i b) s = .next (((((s3.giveBack d n false (enIndex x.entry)
        (some (t.entryVa x.block))).settledUp d n x.block).recount d n).checkRecord d n).pump d n)) ∧
    (r.proC = none → r.proF = some x → x.block = b.toNat → ¬ready →
      leaves (.blockPromotion i b) s (fun u => (rec_ u).proF = some x ∧ u.mem = s.mem)) ∧
    (r.proC = none → r.proF = some x → x.block = b.toNat → ready →
      let s0 := (s.setArec d n { r with proF := none }).restEngines d
      let h := x.popped.getD 0
      let ends := fun (u : State) => exec (.blockPromotion i b) s = .next (((((u.freeExtent d n x.block).settledUp d n
        x.block).recount d n).checkRecord d n).pump d n)
      (s0.readExtent d n x.block size = .block bs → s0.amberPut d n (t.hva h) plainBytes = (none, s2) →
        (s2.amberRelease d).cas d n t x.block x.entry (2 ^ 31 + h) = (.done, s3) → ends s3) ∧
      (s0.readExtent d n x.block size = .mismatch → s0.amberPut d n (t.hva h) (List.replicate size (0, true)) = (none, s2) →
        (s2.amberRelease d).cas d n t x.block x.entry (2 ^ 31 + h) = (.done, s3) →
        ends (s3.machineCheck (d * 40 + arCluster r.img) (arCtx r.img) 6 0 0 0 (n + x.block * 2 ^ 32))) ∧
      (s0.readExtent d n x.block size = .absent → exec (.blockPromotion i b) s =
        .next (((s0.giveBack d n true h).laterUp d n x.block).pump d n))) ∧
    (r.st = 0 → exec (.promotionResume i) s = .next s) ∧
    (∀ e h, r.st ≠ 0 → r.proC = none → r.pend = [b.toNat] → s.entry d n t b.toNat = (some e, s1) → enValid e = true → enState e = 2 →
      s1.popBlock d n ((s.amber d).cfg (arCtx r.img)).hstack b.toNat = (.block h, s2) →
      leaves (.promotionResume i) s (fun u => (rec_ u).proC = some { block := b.toNat, popped := some h, entry := e } ∧
        (rec_ u).pend = [] ∧ (rec_ u).dry = false ∧ u.mem = s2.mem)) ∧
    (∀ old new, s.cas d n t b.toNat old new = (.done, s1) → ∃ pa mt s0,
      s.translate (1000 + d) d (d * 40 + arCluster r.img) (arCtx r.img) .atomic (t.entryVa b.toNat) = (.ok pa mt, s0) ∧
      ofBytes (s0.mem.bytes pa 4) = old ∧ s1.mem = s0.mem.setBytes pa (toBytes 4 new)))
end

