-- ==== Sys2Proof/Laws/Codec.lean ====
section
/-! SUPPORT. What is put into a save image is got back from it: one lemma for each codec. -/

namespace Sys2Proof.Machine

/-- Reading behind writing gives the value and the bytes that follow it. -/
def Codec.Faithful {α : Type} (c : Codec α) : Prop := ∀ a bs, c.get (c.put a ++ bs) = some (a, bs)

theorem getNat_putNat (f n : Nat) (h : n < 2 ^ (f + 7)) (bs : List Byte) : getNat (putNat f n ++ bs) = some (n, bs) := by
  induction f generalizing n with
  | zero =>
    have h : n < 128 := by simpa using h
    have e : n % 256 = n := by omega
    simp [putNat, getNat, e, h]
  | succ f ih =>
    unfold putNat
    split
    · next h =>
      have e : n % 256 = n := by omega
      simp [getNat, e, h]
    · next hn =>
      have e : (128 + n % 128) % 256 = 128 + n % 128 := by omega
      have hq : n / 128 < 2 ^ (f + 7) := by
        have : 2 ^ (f + 1 + 7) = 2 * 2 ^ (f + 7) := by ring
        omega
      simp [getNat, e, ih _ hq]
      omega

theorem natC_faithful : natC.Faithful := fun n bs => by
  refine getNat_putNat _ _ ?_ bs
  have h := Nat.lt_log2_self (n := n)
  exact lt_of_lt_of_le h (Nat.pow_le_pow_right (by decide) (by omega))

theorem getNat_put (n : Nat) (bs : List Byte) : getNat (natC.put n ++ bs) = some (n, bs) := natC_faithful n bs

theorem isoC_faithful {α β : Type} {f : α → β} {g : β → α} {c : Codec β} (h : ∀ a, g (f a) = a) (hc : c.Faithful) :
    (isoC f g c).Faithful := fun a bs => by simp [isoC, hc (f a) bs, h a]

theorem pairC_faithful {α β : Type} {c : Codec α} {e : Codec β} (hc : c.Faithful) (he : e.Faithful) : (pairC c e).Faithful :=
  fun a bs => by simp [pairC, List.append_assoc, hc a.1, he a.2 bs]

theorem sumC_faithful {α β : Type} {c : Codec α} {e : Codec β} (hc : c.Faithful) (he : e.Faithful) : (sumC c e).Faithful := by
  rintro (a | b) bs
  · simp [sumC, List.append_assoc, getNat_put, hc a bs]
  · simp [sumC, List.append_assoc, getNat_put, he b bs]

theorem optC_faithful {α : Type} {c : Codec α} (hc : c.Faithful) : (optC c).Faithful := by
  rintro (_ | a) bs
  · simp [optC, getNat_put]
  · simp [optC, List.append_assoc, getNat_put, hc a bs]

theorem getMany_put {α : Type} {c : Codec α} (hc : c.Faithful) (xs : List α) (bs : List Byte) :
    getMany c xs.length (xs.flatMap c.put ++ bs) = some (xs, bs) := by
  induction xs with
  | nil => rfl
  | cons x xs ih => simp [getMany, List.append_assoc, hc x, ih]

theorem listC_faithful {α : Type} {c : Codec α} (hc : c.Faithful) : (listC c).Faithful := fun xs bs => by
  simp [listC, List.append_assoc, getNat_put, getMany_put hc]

theorem bytesC_faithful : bytesC.Faithful := fun xs bs => by
  simp [bytesC, List.append_assoc, getNat_put]

theorem boolC_faithful : boolC.Faithful := isoC_faithful (by decide) natC_faithful

theorem bitsC_faithful (w : Nat) : (bitsC w).Faithful := isoC_faithful (by simp) natC_faithful

theorem intC_faithful : intC.Faithful := isoC_faithful (fun z => by split <;> split <;> omega) natC_faithful

theorem Msg.codec_faithful : Msg.codec.Faithful := isoC_faithful (fun _ => rfl) <| pairC_faithful (bitsC_faithful 64) <|
    pairC_faithful (bitsC_faithful 64) <| pairC_faithful (bitsC_faithful 64) <| (bitsC_faithful 64)

theorem QMsg.codec_faithful : QMsg.codec.Faithful := isoC_faithful (fun _ => rfl) <| pairC_faithful Msg.codec_faithful <|
    pairC_faithful natC_faithful <| (optC_faithful natC_faithful)

theorem Held.codec_faithful : Held.codec.Faithful := isoC_faithful (fun _ => rfl) <| pairC_faithful natC_faithful <|
    pairC_faithful natC_faithful <| QMsg.codec_faithful

theorem Task.codec_faithful : Task.codec.Faithful := isoC_faithful (fun _ => rfl) <| pairC_faithful natC_faithful <|
    pairC_faithful natC_faithful <| pairC_faithful (bitsC_faithful 64) <| (optC_faithful natC_faithful)

theorem Stage.codec_faithful : Stage.codec.Faithful := isoC_faithful (fun _ => rfl) <| pairC_faithful (listC_faithful
    (pairC_faithful (bitsC_faithful 8) boolC_faithful)) <| boolC_faithful

theorem BankReq.codec_faithful : BankReq.codec.Faithful := isoC_faithful (fun _ => rfl) <| pairC_faithful natC_faithful <|
    pairC_faithful natC_faithful <| pairC_faithful natC_faithful <| (optC_faithful (pairC_faithful natC_faithful natC_faithful))

theorem CopyCmd.codec_faithful : CopyCmd.codec.Faithful := isoC_faithful (fun _ => rfl) <| pairC_faithful natC_faithful <|
    pairC_faithful natC_faithful <| pairC_faithful natC_faithful <| pairC_faithful natC_faithful <| pairC_faithful
    boolC_faithful <| pairC_faithful natC_faithful <| pairC_faithful natC_faithful <| pairC_faithful natC_faithful <|
    pairC_faithful natC_faithful <| pairC_faithful natC_faithful <| pairC_faithful natC_faithful <| pairC_faithful
    (listC_faithful natC_faithful) <| pairC_faithful boolC_faithful <| pairC_faithful natC_faithful <| pairC_faithful
    natC_faithful <| pairC_faithful (bitsC_faithful 64) <| pairC_faithful boolC_faithful <| boolC_faithful

theorem QEnt.codec_faithful : QEnt.codec.Faithful := isoC_faithful (by rintro (_ | _) <;> rfl) (sumC_faithful CopyCmd.codec_faithful natC_faithful)

theorem CopyQueue.codec_faithful : CopyQueue.codec.Faithful := isoC_faithful (fun _ => rfl) <| pairC_faithful (listC_faithful
    QEnt.codec_faithful) <| natC_faithful

theorem Barrier.codec_faithful : Barrier.codec.Faithful := isoC_faithful (fun _ => rfl) <| pairC_faithful natC_faithful <|
    pairC_faithful natC_faithful <| pairC_faithful natC_faithful <| pairC_faithful natC_faithful <| pairC_faithful natC_faithful
    <| pairC_faithful natC_faithful <| pairC_faithful natC_faithful <| pairC_faithful natC_faithful <| natC_faithful

theorem Bind.codec_faithful : Bind.codec.Faithful := isoC_faithful (fun _ => rfl) <| pairC_faithful natC_faithful <|
    pairC_faithful boolC_faithful <| pairC_faithful natC_faithful <| natC_faithful

theorem Resid.codec_faithful : Resid.codec.Faithful := isoC_faithful (fun _ => rfl) <| pairC_faithful natC_faithful <|
    pairC_faithful boolC_faithful <| pairC_faithful natC_faithful <| pairC_faithful natC_faithful <| pairC_faithful
    natC_faithful <| pairC_faithful natC_faithful <| pairC_faithful (bitsC_faithful 64) <| pairC_faithful (bitsC_faithful 64) <|
    pairC_faithful (bitsC_faithful 64) <| pairC_faithful natC_faithful <| pairC_faithful natC_faithful <| pairC_faithful
    boolC_faithful <| pairC_faithful natC_faithful <| pairC_faithful (optC_faithful (pairC_faithful natC_faithful
    natC_faithful)) <| pairC_faithful boolC_faithful <| pairC_faithful boolC_faithful <| pairC_faithful boolC_faithful <|
    pairC_faithful (bitsC_faithful 64) <| pairC_faithful (optC_faithful natC_faithful) <| pairC_faithful boolC_faithful <|
    pairC_faithful natC_faithful <| pairC_faithful boolC_faithful <| pairC_faithful boolC_faithful <| pairC_faithful
    boolC_faithful <| pairC_faithful (listC_faithful Bind.codec_faithful) <| pairC_faithful (listC_faithful natC_faithful) <|
    pairC_faithful (listC_faithful natC_faithful) <| pairC_faithful (listC_faithful natC_faithful) <| boolC_faithful

theorem Launch.codec_faithful : Launch.codec.Faithful := isoC_faithful (fun _ => rfl) <| pairC_faithful natC_faithful <|
    pairC_faithful (bitsC_faithful 64) <| pairC_faithful natC_faithful <| pairC_faithful natC_faithful <| pairC_faithful
    boolC_faithful <| pairC_faithful natC_faithful <| pairC_faithful boolC_faithful <| pairC_faithful natC_faithful <|
    pairC_faithful natC_faithful <| pairC_faithful (bitsC_faithful 64) <| pairC_faithful Msg.codec_faithful <| pairC_faithful
    (listC_faithful natC_faithful) <| pairC_faithful (listC_faithful (pairC_faithful natC_faithful (pairC_faithful natC_faithful
    natC_faithful))) <| pairC_faithful boolC_faithful <| pairC_faithful natC_faithful <| pairC_faithful natC_faithful <|
    pairC_faithful (optC_faithful natC_faithful) <| pairC_faithful boolC_faithful <| (optC_faithful natC_faithful)

theorem Member.codec_faithful : Member.codec.Faithful := isoC_faithful (fun _ => rfl) <| pairC_faithful natC_faithful <|
    pairC_faithful natC_faithful <| pairC_faithful natC_faithful <| pairC_faithful natC_faithful <| pairC_faithful natC_faithful
    <| pairC_faithful natC_faithful <| natC_faithful

theorem GArrival.codec_faithful : GArrival.codec.Faithful := isoC_faithful (fun _ => rfl) <| pairC_faithful natC_faithful <|
    pairC_faithful natC_faithful <| pairC_faithful natC_faithful <| natC_faithful

theorem GBarrier.codec_faithful : GBarrier.codec.Faithful := isoC_faithful (fun _ => rfl) <| pairC_faithful natC_faithful <|
    (listC_faithful GArrival.codec_faithful)

theorem Gang.codec_faithful : Gang.codec.Faithful := isoC_faithful (fun _ => rfl) <| pairC_faithful Launch.codec_faithful <|
    pairC_faithful (listC_faithful Member.codec_faithful) <| pairC_faithful (listC_faithful GBarrier.codec_faithful) <|
    boolC_faithful

theorem Mk.codec_faithful : Mk.codec.Faithful := isoC_faithful (by intro x; cases x <;> rfl) (optC_faithful (optC_faithful natC_faithful))

theorem Token.codec_faithful : Token.codec.Faithful := isoC_faithful (fun _ => rfl) <| pairC_faithful (listC_faithful
    (bitsC_faithful 32)) <| pairC_faithful (bitsC_faithful 16) <| pairC_faithful (bitsC_faithful 16) <| pairC_faithful
    natC_faithful <| pairC_faithful natC_faithful <| pairC_faithful natC_faithful <| pairC_faithful boolC_faithful <|
    pairC_faithful natC_faithful <| pairC_faithful natC_faithful <| pairC_faithful boolC_faithful <| pairC_faithful
    boolC_faithful <| natC_faithful

theorem BufEnt.codec_faithful : BufEnt.codec.Faithful := isoC_faithful (fun _ => rfl) <| pairC_faithful Token.codec_faithful <|
    pairC_faithful natC_faithful <| (listC_faithful (pairC_faithful natC_faithful natC_faithful))

theorem OutTok.codec_faithful : OutTok.codec.Faithful := isoC_faithful (fun _ => rfl) <| pairC_faithful Token.codec_faithful <|
    pairC_faithful (listC_faithful natC_faithful) <| (listC_faithful natC_faithful)

theorem Firing.codec_faithful : Firing.codec.Faithful := isoC_faithful (fun _ => rfl) <| pairC_faithful (listC_faithful
    natC_faithful) <| natC_faithful

theorem KillRec.codec_faithful : KillRec.codec.Faithful := isoC_faithful (fun _ => rfl) <| pairC_faithful natC_faithful <|
    pairC_faithful natC_faithful <| (bitsC_faithful 16)

theorem Links.codec_faithful : Links.codec.Faithful := isoC_faithful (fun _ => rfl) <| pairC_faithful (listC_faithful
    (pairC_faithful natC_faithful (listC_faithful BufEnt.codec_faithful))) <| pairC_faithful (listC_faithful (pairC_faithful
    natC_faithful (listC_faithful OutTok.codec_faithful))) <| pairC_faithful (listC_faithful Firing.codec_faithful) <|
    pairC_faithful natC_faithful <| pairC_faithful natC_faithful <| pairC_faithful (listC_faithful (pairC_faithful natC_faithful
    natC_faithful)) <| pairC_faithful (listC_faithful KillRec.codec_faithful) <| pairC_faithful (listC_faithful natC_faithful)
    <| pairC_faithful (listC_faithful natC_faithful) <| pairC_faithful (optC_faithful natC_faithful) <| natC_faithful

theorem KillMsg.codec_faithful : KillMsg.codec.Faithful := isoC_faithful (fun _ => rfl) <| pairC_faithful natC_faithful <|
    pairC_faithful natC_faithful <| pairC_faithful natC_faithful <| pairC_faithful (bitsC_faithful 16) <| natC_faithful

theorem TileCfg.codec_faithful : TileCfg.codec.Faithful := isoC_faithful (fun _ => rfl) <| pairC_faithful (bitsC_faithful 32) <|
    pairC_faithful (listC_faithful (pairC_faithful natC_faithful (bitsC_faithful 32))) <| pairC_faithful (listC_faithful
    (pairC_faithful natC_faithful (pairC_faithful (listC_faithful (bitsC_faithful 32)) natC_faithful))) <| pairC_faithful
    (listC_faithful (pairC_faithful natC_faithful natC_faithful)) <| pairC_faithful (optC_faithful Token.codec_faithful) <|
    pairC_faithful (listC_faithful (pairC_faithful natC_faithful natC_faithful)) <| pairC_faithful (listC_faithful
    (pairC_faithful natC_faithful natC_faithful)) <| pairC_faithful natC_faithful <| (bitsC_faithful 64)

theorem DNum.codec_faithful : DNum.codec.Faithful := isoC_faithful (fun _ => rfl) <| pairC_faithful boolC_faithful <|
    pairC_faithful natC_faithful <| pairC_faithful (listC_faithful intC_faithful) <| boolC_faithful

theorem NumBuf.codec_faithful : NumBuf.codec.Faithful := isoC_faithful (fun _ => rfl) <| pairC_faithful (bitsC_faithful 16) <|
    pairC_faithful (bitsC_faithful 16) <| pairC_faithful (listC_faithful DNum.codec_faithful) <| pairC_faithful natC_faithful <|
    pairC_faithful boolC_faithful <| pairC_faithful Mk.codec_faithful <| pairC_faithful natC_faithful <| pairC_faithful
    boolC_faithful <| pairC_faithful (listC_faithful natC_faithful) <| natC_faithful

theorem DItem.codec_faithful : DItem.codec.Faithful := isoC_faithful (by rintro (_ | _) <;> rfl) (sumC_faithful NumBuf.codec_faithful Mk.codec_faithful)

theorem OpSt.codec_faithful : OpSt.codec.Faithful := isoC_faithful (fun _ => rfl) <| pairC_faithful natC_faithful <|
    pairC_faithful (listC_faithful natC_faithful) <| pairC_faithful (bitsC_faithful 16) <| pairC_faithful (bitsC_faithful 16) <|
    pairC_faithful Mk.codec_faithful <| pairC_faithful (listC_faithful (pairC_faithful natC_faithful natC_faithful)) <|
    pairC_faithful natC_faithful <| pairC_faithful boolC_faithful <| pairC_faithful (optC_faithful natC_faithful) <|
    pairC_faithful natC_faithful <| pairC_faithful natC_faithful <| pairC_faithful (optC_faithful boolC_faithful) <|
    pairC_faithful (optC_faithful natC_faithful) <| pairC_faithful (optC_faithful natC_faithful) <| pairC_faithful
    (listC_faithful (pairC_faithful boolC_faithful boolC_faithful)) <| pairC_faithful (listC_faithful (pairC_faithful
    natC_faithful NumBuf.codec_faithful)) <| pairC_faithful (listC_faithful (pairC_faithful natC_faithful (listC_faithful
    NumBuf.codec_faithful))) <| pairC_faithful (listC_faithful (pairC_faithful natC_faithful (listC_faithful
    Token.codec_faithful))) <| pairC_faithful (listC_faithful (pairC_faithful natC_faithful (listC_faithful
    DItem.codec_faithful))) <| pairC_faithful boolC_faithful <| pairC_faithful natC_faithful <| pairC_faithful (optC_faithful
    Token.codec_faithful) <| pairC_faithful (optC_faithful Token.codec_faithful) <| pairC_faithful (listC_faithful
    (pairC_faithful natC_faithful natC_faithful)) <| pairC_faithful boolC_faithful <| pairC_faithful (bitsC_faithful 16) <|
    pairC_faithful boolC_faithful <| pairC_faithful (optC_faithful Mk.codec_faithful) <| pairC_faithful (listC_faithful
    (pairC_faithful natC_faithful DNum.codec_faithful)) <| pairC_faithful (listC_faithful (pairC_faithful natC_faithful
    natC_faithful)) <| pairC_faithful (bitsC_faithful 16) <| pairC_faithful (listC_faithful (pairC_faithful natC_faithful
    intC_faithful)) <| pairC_faithful (listC_faithful (pairC_faithful natC_faithful natC_faithful)) <| pairC_faithful
    (bitsC_faithful 16) <| pairC_faithful (bitsC_faithful 16) <| pairC_faithful (listC_faithful (pairC_faithful natC_faithful
    natC_faithful)) <| pairC_faithful natC_faithful <| pairC_faithful (listC_faithful (pairC_faithful natC_faithful
    natC_faithful)) <| pairC_faithful (listC_faithful (pairC_faithful natC_faithful natC_faithful)) <| natC_faithful

theorem MtQueue.codec_faithful : MtQueue.codec.Faithful := isoC_faithful (fun _ => rfl) <| pairC_faithful (listC_faithful
    Token.codec_faithful) <| pairC_faithful natC_faithful <| pairC_faithful boolC_faithful <| pairC_faithful natC_faithful <|
    natC_faithful

theorem AgCfg.codec_faithful : AgCfg.codec.Faithful := isoC_faithful (fun _ => rfl) <| pairC_faithful (bitsC_faithful 32) <|
    pairC_faithful natC_faithful <| pairC_faithful (optC_faithful Bind.codec_faithful) <| pairC_faithful natC_faithful <|
    (bitsC_faithful 64)

theorem AgPos.codec_faithful : AgPos.codec.Faithful := isoC_faithful (fun _ => rfl) <| pairC_faithful (optC_faithful
    Token.codec_faithful) <| pairC_faithful (optC_faithful Token.codec_faithful) <| pairC_faithful natC_faithful <|
    pairC_faithful (listC_faithful natC_faithful) <| pairC_faithful (bitsC_faithful 16) <| pairC_faithful (bitsC_faithful 16) <|
    Mk.codec_faithful

theorem AgPhase.codec_faithful : AgPhase.codec.Faithful := isoC_faithful (by intro x; cases x <;> rfl) (optC_faithful (optC_faithful boolC_faithful))

theorem BlockTab.codec_faithful : BlockTab.codec.Faithful := isoC_faithful (fun _ => rfl) <| pairC_faithful natC_faithful <|
    pairC_faithful natC_faithful <| pairC_faithful natC_faithful <| pairC_faithful natC_faithful <| pairC_faithful natC_faithful
    <| natC_faithful

theorem Ag.codec_faithful : Ag.codec.Faithful := isoC_faithful (fun _ => rfl) <| pairC_faithful (optC_faithful
    AgCfg.codec_faithful) <| pairC_faithful (optC_faithful AgCfg.codec_faithful) <| pairC_faithful (optC_faithful
    AgCfg.codec_faithful) <| pairC_faithful Links.codec_faithful <| pairC_faithful (listC_faithful (pairC_faithful
    Token.codec_faithful boolC_faithful)) <| pairC_faithful natC_faithful <| pairC_faithful (listC_faithful natC_faithful) <|
    pairC_faithful AgPhase.codec_faithful <| pairC_faithful boolC_faithful <| pairC_faithful boolC_faithful <| pairC_faithful
    boolC_faithful <| pairC_faithful (listC_faithful natC_faithful) <| pairC_faithful natC_faithful <| pairC_faithful
    boolC_faithful <| pairC_faithful (optC_faithful Token.codec_faithful) <| pairC_faithful natC_faithful <| pairC_faithful
    (optC_faithful BlockTab.codec_faithful) <| pairC_faithful (optC_faithful natC_faithful) <| pairC_faithful (optC_faithful
    AgPos.codec_faithful) <| pairC_faithful (listC_faithful boolC_faithful) <| pairC_faithful boolC_faithful <| pairC_faithful
    natC_faithful <| pairC_faithful natC_faithful <| (listC_faithful natC_faithful)

theorem PortBlk.codec_faithful : PortBlk.codec.Faithful := isoC_faithful (fun _ => rfl) <| pairC_faithful (listC_faithful
    bytesC_faithful) <| pairC_faithful (bitsC_faithful 16) <| pairC_faithful (bitsC_faithful 16) <| natC_faithful

theorem IslePort.codec_faithful : IslePort.codec.Faithful := isoC_faithful (fun _ => rfl) <| pairC_faithful (listC_faithful
    BufEnt.codec_faithful) <| pairC_faithful boolC_faithful <| pairC_faithful (listC_faithful (optC_faithful
    PortBlk.codec_faithful)) <| pairC_faithful PortBlk.codec_faithful <| pairC_faithful boolC_faithful <| pairC_faithful
    natC_faithful <| pairC_faithful natC_faithful <| natC_faithful

theorem Isle.codec_faithful : Isle.codec.Faithful := isoC_faithful (fun _ => rfl) <| pairC_faithful (optC_faithful
    (listC_faithful (bitsC_faithful 32))) <| pairC_faithful (optC_faithful (listC_faithful (bitsC_faithful 32))) <|
    pairC_faithful natC_faithful <| pairC_faithful natC_faithful <| pairC_faithful (bitsC_faithful 64) <| pairC_faithful
    (bitsC_faithful 64) <| pairC_faithful natC_faithful <| pairC_faithful (listC_faithful (pairC_faithful natC_faithful
    natC_faithful)) <| pairC_faithful natC_faithful <| pairC_faithful (listC_faithful (pairC_faithful natC_faithful
    natC_faithful)) <| pairC_faithful (listC_faithful natC_faithful) <| pairC_faithful (listC_faithful (pairC_faithful
    natC_faithful natC_faithful)) <| pairC_faithful natC_faithful <| pairC_faithful (listC_faithful (pairC_faithful
    natC_faithful natC_faithful)) <| pairC_faithful (listC_faithful (pairC_faithful natC_faithful natC_faithful)) <|
    pairC_faithful (optC_faithful (pairC_faithful bytesC_faithful (listC_faithful natC_faithful))) <| pairC_faithful
    natC_faithful <| pairC_faithful boolC_faithful <| pairC_faithful (listC_faithful (pairC_faithful natC_faithful
    natC_faithful)) <| pairC_faithful (listC_faithful (pairC_faithful natC_faithful natC_faithful)) <| pairC_faithful
    natC_faithful <| pairC_faithful natC_faithful <| pairC_faithful boolC_faithful <| pairC_faithful natC_faithful <|
    pairC_faithful natC_faithful <| pairC_faithful natC_faithful <| pairC_faithful natC_faithful <| pairC_faithful
    IslePort.codec_faithful <| pairC_faithful IslePort.codec_faithful <| pairC_faithful (listC_faithful bytesC_faithful) <|
    pairC_faithful natC_faithful <| pairC_faithful boolC_faithful <| natC_faithful

theorem PCmd.codec_faithful : PCmd.codec.Faithful := isoC_faithful (fun _ => rfl) <| pairC_faithful natC_faithful <|
    pairC_faithful natC_faithful <| pairC_faithful natC_faithful <| pairC_faithful boolC_faithful <| pairC_faithful
    natC_faithful <| pairC_faithful natC_faithful <| pairC_faithful natC_faithful <| pairC_faithful bytesC_faithful <|
    pairC_faithful boolC_faithful <| pairC_faithful boolC_faithful <| pairC_faithful boolC_faithful <| pairC_faithful
    natC_faithful <| pairC_faithful natC_faithful <| natC_faithful

theorem PEnt.codec_faithful : PEnt.codec.Faithful := isoC_faithful (by rintro (_ | _) <;> rfl) (sumC_faithful PCmd.codec_faithful natC_faithful)

theorem SlotSt.codec_faithful : SlotSt.codec.Faithful := isoC_faithful (by intro x; cases x <;> rfl) (optC_faithful (optC_faithful boolC_faithful))

theorem LeaseSlot.codec_faithful : LeaseSlot.codec.Faithful := isoC_faithful (fun _ => rfl) <| pairC_faithful natC_faithful <|
    pairC_faithful SlotSt.codec_faithful <| pairC_faithful natC_faithful <| pairC_faithful natC_faithful <| pairC_faithful
    natC_faithful <| pairC_faithful natC_faithful <| pairC_faithful natC_faithful <| pairC_faithful natC_faithful <|
    pairC_faithful natC_faithful <| pairC_faithful natC_faithful <| pairC_faithful boolC_faithful <| pairC_faithful
    (listC_faithful PEnt.codec_faithful) <| natC_faithful

theorem XCmd.codec_faithful : XCmd.codec.Faithful := isoC_faithful (fun _ => rfl) <| pairC_faithful natC_faithful <|
    pairC_faithful natC_faithful <| pairC_faithful natC_faithful <| pairC_faithful natC_faithful <| pairC_faithful
    boolC_faithful <| pairC_faithful natC_faithful <| pairC_faithful (listC_faithful natC_faithful) <| pairC_faithful
    natC_faithful <| pairC_faithful boolC_faithful <| pairC_faithful boolC_faithful <| pairC_faithful natC_faithful <|
    pairC_faithful natC_faithful <| natC_faithful

theorem XEnt.codec_faithful : XEnt.codec.Faithful := isoC_faithful (by rintro (_ | _) <;> rfl) (sumC_faithful XCmd.codec_faithful (pairC_faithful natC_faithful natC_faithful))

theorem EngRec.codec_faithful : EngRec.codec.Faithful := isoC_faithful (fun _ => rfl) <| pairC_faithful (listC_faithful
    (pairC_faithful natC_faithful CopyQueue.codec_faithful)) <| pairC_faithful natC_faithful <| pairC_faithful (listC_faithful
    (pairC_faithful natC_faithful Barrier.codec_faithful)) <| pairC_faithful (listC_faithful (pairC_faithful natC_faithful
    LeaseSlot.codec_faithful)) <| pairC_faithful (listC_faithful (pairC_faithful natC_faithful natC_faithful)) <| pairC_faithful
    (listC_faithful (pairC_faithful natC_faithful (pairC_faithful natC_faithful XEnt.codec_faithful))) <| pairC_faithful
    (listC_faithful natC_faithful) <| pairC_faithful (listC_faithful (optC_faithful natC_faithful)) <| pairC_faithful
    (listC_faithful Held.codec_faithful) <| pairC_faithful BankReq.codec_faithful <| pairC_faithful (listC_faithful
    (pairC_faithful natC_faithful Stage.codec_faithful)) <| pairC_faithful (listC_faithful KillMsg.codec_faithful) <|
    pairC_faithful (listC_faithful natC_faithful) <| pairC_faithful (optC_faithful (pairC_faithful Task.codec_faithful
    boolC_faithful)) <| pairC_faithful boolC_faithful <| pairC_faithful (listC_faithful (pairC_faithful natC_faithful
    Gang.codec_faithful)) <| (listC_faithful bytesC_faithful)

end Sys2Proof.Machine
end

