-- ==== Sys2Proof/Laws/Tab.lean ====
section
/-! SUPPORT. Laws of tables and of memory: read after write, and the canonical form. -/

namespace Sys2Proof.Machine

@[simp] theorem Tab.find_put_same {V : Type} (t : Tab V) (k : Nat) (v : V) : (t.put k v).find k = some v := by
  induction t with
  | nil => simp [Tab.put, Tab.find]
  | cons e t ih =>
    obtain ⟨k', v'⟩ := e
    simp only [Tab.put]
    split
    · simp [Tab.find]
    · split
      · simp [Tab.find]
      · rename_i h1 h2; simp [Tab.find, ih, Ne.symm h2]

theorem Tab.find_put_other {V : Type} (t : Tab V) {k j : Nat} (v : V) (h : j ≠ k) : (t.put k v).find j = t.find j := by
  induction t with
  | nil => simp [Tab.put, Tab.find, Ne.symm h]
  | cons e t ih =>
    obtain ⟨k', v'⟩ := e
    simp only [Tab.put]
    split
    · simp [Tab.find, Ne.symm h]
    · split
      · rename_i h1 h2; subst h2; simp [Tab.find, Ne.symm h]
      · simp only [Tab.find, ih]

@[simp] theorem Tab.get_put_same {V : Type} (t : Tab V) (k : Nat) (v d : V) : (t.put k v).get k d = v := by
  simp [Tab.get]

theorem Tab.get_put_other {V : Type} (t : Tab V) {k j : Nat} (v d : V) (h : j ≠ k) :
    (t.put k v).get j d = t.get j d := by
  simp [Tab.get, Tab.find_put_other t v h]

/-- Listing a key twice keeps the last value. -/
@[simp] theorem Tab.put_put {V : Type} (t : Tab V) (k : Nat) (v w : V) : (t.put k v).put k w = t.put k w := by
  induction t with
  | nil => simp [Tab.put]
  | cons e t ih =>
    obtain ⟨k', v'⟩ := e
    simp only [Tab.put]
    split
    · simp [Tab.put]
    · split
      · simp [Tab.put]
      · rename_i h1 h2; simp [Tab.put, h1, h2, ih]

theorem Mem.byte_lt_of_wfFrom {m : Mem} {lo a : Nat} (h : Mem.wfFrom lo m = true) (ha : a < lo) : m.byte a = Mem.empty := by
  induction m generalizing lo with
  | nil => rfl
  | cons e m ih =>
    obtain ⟨k, b⟩ := e
    simp only [Mem.wfFrom, Bool.and_eq_true, decide_eq_true_eq] at h
    have : k ≠ a := by omega
    simp only [Mem.byte, this, if_false]
    exact ih h.2 (by omega)

/-- A byte just written is read back. -/
theorem Mem.byte_setByte_same {m : Mem} {lo : Nat} (h : Mem.wfFrom lo m = true) (a : Nat) (b : Byte) :
    (m.setByte a b).byte a = b := by
  induction m generalizing lo with
  | nil => simp only [Mem.setByte]; split <;> simp_all [Mem.byte]
  | cons e m ih =>
    obtain ⟨k, x⟩ := e
    simp only [Mem.wfFrom, Bool.and_eq_true, decide_eq_true_eq] at h
    simp only [Mem.setByte]
    split
    · split
      · rename_i h1 h2
        have hk : k ≠ a := by omega
        simp only [Mem.byte, hk, if_false, h2]
        exact Mem.byte_lt_of_wfFrom h.2 (by omega)
      · simp [Mem.byte]
    · split
      · rename_i h1 h2
        subst h2
        split
        · rename_i h3; rw [h3]; exact Mem.byte_lt_of_wfFrom h.2 (by omega)
        · simp [Mem.byte]
      · rename_i h1 h2
        simp only [Mem.byte, Ne.symm h2, if_false]
        exact ih h.2

/-- Writing a byte leaves every other byte alone. -/
theorem Mem.byte_setByte_other (m : Mem) {a c : Nat} (b : Byte) (hne : c ≠ a) : (m.setByte a b).byte c = m.byte c := by
  induction m with
  | nil => simp only [Mem.setByte]; split <;> simp [Mem.byte, Ne.symm hne]
  | cons e m ih =>
    obtain ⟨k, x⟩ := e
    simp only [Mem.setByte]
    split
    · split
      · rfl
      · simp [Mem.byte, Ne.symm hne]
    · split
      · rename_i h1 h2
        subst h2
        split <;> simp [Mem.byte, Ne.symm hne]
      · simp only [Mem.byte, ih]

theorem Mem.wfFrom_mono {m : Mem} {lo lo' : Nat} (h : Mem.wfFrom lo m = true) (hl : lo' ≤ lo) : Mem.wfFrom lo' m = true := by
  cases m with
  | nil => rfl
  | cons e m =>
    obtain ⟨k, b⟩ := e
    simp only [Mem.wfFrom, Bool.and_eq_true, decide_eq_true_eq] at *
    exact ⟨⟨by omega, h.1.2⟩, h.2⟩

theorem Mem.wfFrom_setByte {m : Mem} {lo a : Nat} (b : Byte) (h : Mem.wfFrom lo m = true) (ha : lo ≤ a) :
    Mem.wfFrom lo (m.setByte a b) = true := by
  induction m generalizing lo with
  | nil => simp only [Mem.setByte]; split <;> simp_all [Mem.wfFrom]
  | cons e m ih =>
    obtain ⟨k, x⟩ := e
    have h' := h
    simp only [Mem.wfFrom, Bool.and_eq_true, decide_eq_true_eq] at h'
    simp only [Mem.setByte]
    split
    · split
      · exact h
      · simp only [Mem.wfFrom, Bool.and_eq_true, decide_eq_true_eq]
        refine ⟨⟨ha, by simpa using ‹¬b = Mem.empty›⟩, ⟨by omega, h'.1.2⟩, h'.2⟩
    · split
      · rename_i h1 h2
        subst h2
        split
        · exact Mem.wfFrom_mono h'.2 (by omega)
        · simp only [Mem.wfFrom, Bool.and_eq_true, decide_eq_true_eq]
          exact ⟨⟨ha, by simpa using ‹¬b = Mem.empty›⟩, h'.2⟩
      · simp only [Mem.wfFrom, Bool.and_eq_true, decide_eq_true_eq]
        exact ⟨h'.1, ih h'.2 (by omega)⟩

/-- Writing a byte keeps memory in canonical form. -/
theorem Mem.wf_setByte {m : Mem} (a : Nat) (b : Byte) (h : m.wf = true) : (m.setByte a b).wf = true :=
  Mem.wfFrom_setByte b h (Nat.zero_le a)

/-- Writing bytes keeps memory in canonical form. -/
theorem Mem.wf_setBytes (bs : List Byte) : ∀ {m : Mem} (a : Nat), m.wf = true → (m.setBytes a bs).wf = true := by
  induction bs with
  | nil => intro m a h; exact h
  | cons b bs ih => intro m a h; exact ih (a + 1) (Mem.wf_setByte a b h)

/-- Writing bytes leaves every byte outside them alone. -/
theorem Mem.byte_setBytes_other (bs : List Byte) : ∀ (m : Mem) (a : Nat) {c : Nat},
    (c < a ∨ a + bs.length ≤ c) → (m.setBytes a bs).byte c = m.byte c := by
  induction bs with
  | nil => intros; rfl
  | cons b bs ih =>
    intro m a c h
    simp only [Mem.setBytes, List.length_cons] at *
    rw [ih _ _ (by omega), Mem.byte_setByte_other _ _ (by omega)]

@[simp] theorem toBytes_length (n v : Nat) : (toBytes n v).length = n := by
  induction n generalizing v with
  | zero => rfl
  | succ n ih => simp [toBytes, ih]

/-- Reading back little-endian bytes gives the value modulo its width. -/
theorem ofBytes_toBytes (n v : Nat) : ofBytes (toBytes n v) = v % 256 ^ n := by
  induction n generalizing v with
  | zero => simp [toBytes, ofBytes, Nat.mod_one]
  | succ n ih =>
    simp only [toBytes, ofBytes, ih, BitVec.toNat_ofNat]
    have h : (256 : Nat) ^ (n + 1) = 256 * 256 ^ n := by ring
    rw [h, Nat.mod_mul]

end Sys2Proof.Machine
end

