-- ==== Sys2Proof/Laws/State.lean ====
section
/-! SUPPORT. One law per field per update of the state, and reads after the updates of clusters, dies and contexts. -/

namespace Sys2Proof.Machine

/-! ### `setCl` -/

@[simp] theorem State.setCl_mem (s : State) (c : Nat) (k : Cluster) : (s.setCl c k).mem = s.mem := rfl
@[simp] theorem State.setCl_poison (s : State) (c : Nat) (k : Cluster) : (s.setCl c k).poison = s.poison := rfl
@[simp] theorem State.setCl_copies (s : State) (c : Nat) (k : Cluster) : (s.setCl c k).copies = s.copies := rfl
@[simp] theorem State.setCl_invals (s : State) (c : Nat) (k : Cluster) : (s.setCl c k).invals = s.invals := rfl
@[simp] theorem State.setCl_tlb (s : State) (c : Nat) (k : Cluster) : (s.setCl c k).tlb = s.tlb := rfl
@[simp] theorem State.setCl_timeouts (s : State) (c : Nat) (k : Cluster) : (s.setCl c k).timeouts = s.timeouts := rfl
@[simp] theorem State.setCl_armed (s : State) (c : Nat) (k : Cluster) : (s.setCl c k).armed = s.armed := rfl
@[simp] theorem State.setCl_devq (s : State) (c : Nat) (k : Cluster) : (s.setCl c k).devq = s.devq := rfl
@[simp] theorem State.setCl_watches (s : State) (c : Nat) (k : Cluster) : (s.setCl c k).watches = s.watches := rfl
@[simp] theorem State.setCl_clusters (s : State) (c : Nat) (k : Cluster) : (s.setCl c k).clusters = s.clusters.put c k := rfl
@[simp] theorem State.setCl_dies (s : State) (c : Nat) (k : Cluster) : (s.setCl c k).dies = s.dies := rfl
@[simp] theorem State.setCl_ctxs (s : State) (c : Nat) (k : Cluster) : (s.setCl c k).ctxs = s.ctxs := rfl
@[simp] theorem State.setCl_pkg (s : State) (c : Nat) (k : Cluster) : (s.setCl c k).pkg = s.pkg := rfl
@[simp] theorem State.setCl_actor (s : State) (c : Nat) (k : Cluster) : (s.setCl c k).actor = s.actor := rfl
@[simp] theorem State.setCl_agenda (s : State) (c : Nat) (k : Cluster) : (s.setCl c k).agenda = s.agenda := rfl
@[simp] theorem State.setCl_free (s : State) (c : Nat) (k : Cluster) : (s.setCl c k).free = s.free := rfl

/-! ### `setSq` -/

@[simp] theorem State.setSq_mem (s : State) (c : Nat) (q : Seq) : (s.setSq c q).mem = s.mem := rfl
@[simp] theorem State.setSq_poison (s : State) (c : Nat) (q : Seq) : (s.setSq c q).poison = s.poison := rfl
@[simp] theorem State.setSq_copies (s : State) (c : Nat) (q : Seq) : (s.setSq c q).copies = s.copies := rfl
@[simp] theorem State.setSq_invals (s : State) (c : Nat) (q : Seq) : (s.setSq c q).invals = s.invals := rfl
@[simp] theorem State.setSq_tlb (s : State) (c : Nat) (q : Seq) : (s.setSq c q).tlb = s.tlb := rfl
@[simp] theorem State.setSq_timeouts (s : State) (c : Nat) (q : Seq) : (s.setSq c q).timeouts = s.timeouts := rfl
@[simp] theorem State.setSq_armed (s : State) (c : Nat) (q : Seq) : (s.setSq c q).armed = s.armed := rfl
@[simp] theorem State.setSq_devq (s : State) (c : Nat) (q : Seq) : (s.setSq c q).devq = s.devq := rfl
@[simp] theorem State.setSq_watches (s : State) (c : Nat) (q : Seq) : (s.setSq c q).watches = s.watches := rfl
@[simp] theorem State.setSq_clusters (s : State) (c : Nat) (q : Seq) : (s.setSq c q).clusters = s.clusters.put c { s.cl c with seq := q } := rfl
@[simp] theorem State.setSq_dies (s : State) (c : Nat) (q : Seq) : (s.setSq c q).dies = s.dies := rfl
@[simp] theorem State.setSq_ctxs (s : State) (c : Nat) (q : Seq) : (s.setSq c q).ctxs = s.ctxs := rfl
@[simp] theorem State.setSq_pkg (s : State) (c : Nat) (q : Seq) : (s.setSq c q).pkg = s.pkg := rfl
@[simp] theorem State.setSq_actor (s : State) (c : Nat) (q : Seq) : (s.setSq c q).actor = s.actor := rfl
@[simp] theorem State.setSq_agenda (s : State) (c : Nat) (q : Seq) : (s.setSq c q).agenda = s.agenda := rfl
@[simp] theorem State.setSq_free (s : State) (c : Nat) (q : Seq) : (s.setSq c q).free = s.free := rfl

/-! ### `setChan` -/

@[simp] theorem State.setChan_mem (s : State) (c n : Nat) (x : Channel) : (s.setChan c n x).mem = s.mem := rfl
@[simp] theorem State.setChan_poison (s : State) (c n : Nat) (x : Channel) : (s.setChan c n x).poison = s.poison := rfl
@[simp] theorem State.setChan_copies (s : State) (c n : Nat) (x : Channel) : (s.setChan c n x).copies = s.copies := rfl
@[simp] theorem State.setChan_invals (s : State) (c n : Nat) (x : Channel) : (s.setChan c n x).invals = s.invals := rfl
@[simp] theorem State.setChan_tlb (s : State) (c n : Nat) (x : Channel) : (s.setChan c n x).tlb = s.tlb := rfl
@[simp] theorem State.setChan_timeouts (s : State) (c n : Nat) (x : Channel) : (s.setChan c n x).timeouts = s.timeouts := rfl
@[simp] theorem State.setChan_armed (s : State) (c n : Nat) (x : Channel) : (s.setChan c n x).armed = s.armed := rfl
@[simp] theorem State.setChan_devq (s : State) (c n : Nat) (x : Channel) : (s.setChan c n x).devq = s.devq := rfl
@[simp] theorem State.setChan_watches (s : State) (c n : Nat) (x : Channel) : (s.setChan c n x).watches = s.watches := rfl
@[simp] theorem State.setChan_clusters (s : State) (c n : Nat) (x : Channel) : (s.setChan c n x).clusters = s.clusters.put c { s.cl c with chans := (s.cl c).chans.put n x } := rfl
@[simp] theorem State.setChan_dies (s : State) (c n : Nat) (x : Channel) : (s.setChan c n x).dies = s.dies := rfl
@[simp] theorem State.setChan_ctxs (s : State) (c n : Nat) (x : Channel) : (s.setChan c n x).ctxs = s.ctxs := rfl
@[simp] theorem State.setChan_pkg (s : State) (c n : Nat) (x : Channel) : (s.setChan c n x).pkg = s.pkg := rfl
@[simp] theorem State.setChan_actor (s : State) (c n : Nat) (x : Channel) : (s.setChan c n x).actor = s.actor := rfl
@[simp] theorem State.setChan_agenda (s : State) (c n : Nat) (x : Channel) : (s.setChan c n x).agenda = s.agenda := rfl
@[simp] theorem State.setChan_free (s : State) (c n : Nat) (x : Channel) : (s.setChan c n x).free = s.free := rfl

/-! ### `setDie` -/

@[simp] theorem State.setDie_mem (s : State) (d : Nat) (k : Die) : (s.setDie d k).mem = s.mem := rfl
@[simp] theorem State.setDie_poison (s : State) (d : Nat) (k : Die) : (s.setDie d k).poison = s.poison := rfl
@[simp] theorem State.setDie_copies (s : State) (d : Nat) (k : Die) : (s.setDie d k).copies = s.copies := rfl
@[simp] theorem State.setDie_invals (s : State) (d : Nat) (k : Die) : (s.setDie d k).invals = s.invals := rfl
@[simp] theorem State.setDie_tlb (s : State) (d : Nat) (k : Die) : (s.setDie d k).tlb = s.tlb := rfl
@[simp] theorem State.setDie_timeouts (s : State) (d : Nat) (k : Die) : (s.setDie d k).timeouts = s.timeouts := rfl
@[simp] theorem State.setDie_armed (s : State) (d : Nat) (k : Die) : (s.setDie d k).armed = s.armed := rfl
@[simp] theorem State.setDie_devq (s : State) (d : Nat) (k : Die) : (s.setDie d k).devq = s.devq := rfl
@[simp] theorem State.setDie_watches (s : State) (d : Nat) (k : Die) : (s.setDie d k).watches = s.watches := rfl
@[simp] theorem State.setDie_clusters (s : State) (d : Nat) (k : Die) : (s.setDie d k).clusters = s.clusters := rfl
@[simp] theorem State.setDie_dies (s : State) (d : Nat) (k : Die) : (s.setDie d k).dies = s.dies.put d k := rfl
@[simp] theorem State.setDie_ctxs (s : State) (d : Nat) (k : Die) : (s.setDie d k).ctxs = s.ctxs := rfl
@[simp] theorem State.setDie_pkg (s : State) (d : Nat) (k : Die) : (s.setDie d k).pkg = s.pkg := rfl
@[simp] theorem State.setDie_actor (s : State) (d : Nat) (k : Die) : (s.setDie d k).actor = s.actor := rfl
@[simp] theorem State.setDie_agenda (s : State) (d : Nat) (k : Die) : (s.setDie d k).agenda = s.agenda := rfl
@[simp] theorem State.setDie_free (s : State) (d : Nat) (k : Die) : (s.setDie d k).free = s.free := rfl

/-! ### `setCtx` -/

@[simp] theorem State.setCtx_mem (s : State) (x : Nat) (k : Ctx) : (s.setCtx x k).mem = s.mem := rfl
@[simp] theorem State.setCtx_poison (s : State) (x : Nat) (k : Ctx) : (s.setCtx x k).poison = s.poison := rfl
@[simp] theorem State.setCtx_copies (s : State) (x : Nat) (k : Ctx) : (s.setCtx x k).copies = s.copies := rfl
@[simp] theorem State.setCtx_invals (s : State) (x : Nat) (k : Ctx) : (s.setCtx x k).invals = s.invals := rfl
@[simp] theorem State.setCtx_tlb (s : State) (x : Nat) (k : Ctx) : (s.setCtx x k).tlb = s.tlb := rfl
@[simp] theorem State.setCtx_timeouts (s : State) (x : Nat) (k : Ctx) : (s.setCtx x k).timeouts = s.timeouts := rfl
@[simp] theorem State.setCtx_armed (s : State) (x : Nat) (k : Ctx) : (s.setCtx x k).armed = s.armed := rfl
@[simp] theorem State.setCtx_devq (s : State) (x : Nat) (k : Ctx) : (s.setCtx x k).devq = s.devq := rfl
@[simp] theorem State.setCtx_watches (s : State) (x : Nat) (k : Ctx) : (s.setCtx x k).watches = s.watches := rfl
@[simp] theorem State.setCtx_clusters (s : State) (x : Nat) (k : Ctx) : (s.setCtx x k).clusters = s.clusters := rfl
@[simp] theorem State.setCtx_dies (s : State) (x : Nat) (k : Ctx) : (s.setCtx x k).dies = s.dies := rfl
@[simp] theorem State.setCtx_ctxs (s : State) (x : Nat) (k : Ctx) : (s.setCtx x k).ctxs = s.ctxs.put x k := rfl
@[simp] theorem State.setCtx_pkg (s : State) (x : Nat) (k : Ctx) : (s.setCtx x k).pkg = s.pkg := rfl
@[simp] theorem State.setCtx_actor (s : State) (x : Nat) (k : Ctx) : (s.setCtx x k).actor = s.actor := rfl
@[simp] theorem State.setCtx_agenda (s : State) (x : Nat) (k : Ctx) : (s.setCtx x k).agenda = s.agenda := rfl
@[simp] theorem State.setCtx_free (s : State) (x : Nat) (k : Ctx) : (s.setCtx x k).free = s.free := rfl

/-! ### `setPkg` -/

@[simp] theorem State.setPkg_mem (s : State) (p : Package) : (s.setPkg p).mem = s.mem := rfl
@[simp] theorem State.setPkg_poison (s : State) (p : Package) : (s.setPkg p).poison = s.poison := rfl
@[simp] theorem State.setPkg_copies (s : State) (p : Package) : (s.setPkg p).copies = s.copies := rfl
@[simp] theorem State.setPkg_invals (s : State) (p : Package) : (s.setPkg p).invals = s.invals := rfl
@[simp] theorem State.setPkg_tlb (s : State) (p : Package) : (s.setPkg p).tlb = s.tlb := rfl
@[simp] theorem State.setPkg_timeouts (s : State) (p : Package) : (s.setPkg p).timeouts = s.timeouts := rfl
@[simp] theorem State.setPkg_armed (s : State) (p : Package) : (s.setPkg p).armed = s.armed := rfl
@[simp] theorem State.setPkg_devq (s : State) (p : Package) : (s.setPkg p).devq = s.devq := rfl
@[simp] theorem State.setPkg_watches (s : State) (p : Package) : (s.setPkg p).watches = s.watches := rfl
@[simp] theorem State.setPkg_clusters (s : State) (p : Package) : (s.setPkg p).clusters = s.clusters := rfl
@[simp] theorem State.setPkg_dies (s : State) (p : Package) : (s.setPkg p).dies = s.dies := rfl
@[simp] theorem State.setPkg_ctxs (s : State) (p : Package) : (s.setPkg p).ctxs = s.ctxs := rfl
@[simp] theorem State.setPkg_pkg (s : State) (p : Package) : (s.setPkg p).pkg = p := rfl
@[simp] theorem State.setPkg_actor (s : State) (p : Package) : (s.setPkg p).actor = s.actor := rfl
@[simp] theorem State.setPkg_agenda (s : State) (p : Package) : (s.setPkg p).agenda = s.agenda := rfl
@[simp] theorem State.setPkg_free (s : State) (p : Package) : (s.setPkg p).free = s.free := rfl

/-! ### Free values -/

@[simp] theorem State.drawNat_mem (s : State) : s.drawNat.2.mem = s.mem := rfl
@[simp] theorem State.drawNat_poison (s : State) : s.drawNat.2.poison = s.poison := rfl
@[simp] theorem State.drawNat_copies (s : State) : s.drawNat.2.copies = s.copies := rfl
@[simp] theorem State.drawNat_invals (s : State) : s.drawNat.2.invals = s.invals := rfl
@[simp] theorem State.drawNat_tlb (s : State) : s.drawNat.2.tlb = s.tlb := rfl
@[simp] theorem State.drawNat_timeouts (s : State) : s.drawNat.2.timeouts = s.timeouts := rfl
@[simp] theorem State.drawNat_armed (s : State) : s.drawNat.2.armed = s.armed := rfl
@[simp] theorem State.drawNat_devq (s : State) : s.drawNat.2.devq = s.devq := rfl
@[simp] theorem State.drawNat_watches (s : State) : s.drawNat.2.watches = s.watches := rfl
@[simp] theorem State.drawNat_clusters (s : State) : s.drawNat.2.clusters = s.clusters := rfl
@[simp] theorem State.drawNat_dies (s : State) : s.drawNat.2.dies = s.dies := rfl
@[simp] theorem State.drawNat_ctxs (s : State) : s.drawNat.2.ctxs = s.ctxs := rfl
@[simp] theorem State.drawNat_pkg (s : State) : s.drawNat.2.pkg = s.pkg := rfl
@[simp] theorem State.drawNat_actor (s : State) : s.drawNat.2.actor = s.actor := rfl
@[simp] theorem State.drawNat_agenda (s : State) : s.drawNat.2.agenda = s.agenda := rfl
@[simp] theorem State.drawNat_free (s : State) : s.drawNat.2.free = s.free + 1 := rfl
@[simp] theorem State.drawWord_mem (s : State) : s.drawWord.2.mem = s.mem := rfl
@[simp] theorem State.drawWord_poison (s : State) : s.drawWord.2.poison = s.poison := rfl
@[simp] theorem State.drawWord_copies (s : State) : s.drawWord.2.copies = s.copies := rfl
@[simp] theorem State.drawWord_invals (s : State) : s.drawWord.2.invals = s.invals := rfl
@[simp] theorem State.drawWord_tlb (s : State) : s.drawWord.2.tlb = s.tlb := rfl
@[simp] theorem State.drawWord_timeouts (s : State) : s.drawWord.2.timeouts = s.timeouts := rfl
@[simp] theorem State.drawWord_armed (s : State) : s.drawWord.2.armed = s.armed := rfl
@[simp] theorem State.drawWord_devq (s : State) : s.drawWord.2.devq = s.devq := rfl
@[simp] theorem State.drawWord_watches (s : State) : s.drawWord.2.watches = s.watches := rfl
@[simp] theorem State.drawWord_clusters (s : State) : s.drawWord.2.clusters = s.clusters := rfl
@[simp] theorem State.drawWord_dies (s : State) : s.drawWord.2.dies = s.dies := rfl
@[simp] theorem State.drawWord_ctxs (s : State) : s.drawWord.2.ctxs = s.ctxs := rfl
@[simp] theorem State.drawWord_pkg (s : State) : s.drawWord.2.pkg = s.pkg := rfl
@[simp] theorem State.drawWord_actor (s : State) : s.drawWord.2.actor = s.actor := rfl
@[simp] theorem State.drawWord_agenda (s : State) : s.drawWord.2.agenda = s.agenda := rfl
@[simp] theorem State.drawWord_free (s : State) : s.drawWord.2.free = s.free + 1 := rfl

/-! ### Clusters, sequencers, channels -/

@[simp] theorem State.cl_setCl_same (s : State) (c : Nat) (k : Cluster) : (s.setCl c k).cl c = k := by
  simp [State.cl]

theorem State.cl_setCl_other (s : State) {c e : Nat} (k : Cluster) (h : e ≠ c) : (s.setCl c k).cl e = s.cl e := by
  simp [State.cl, Tab.get_put_other _ _ _ h]

@[simp] theorem State.cl_setSq_same (s : State) (c : Nat) (q : Seq) : (s.setSq c q).cl c = { s.cl c with seq := q } := by
  simp [State.setSq]

theorem State.cl_setSq_other (s : State) {c e : Nat} (q : Seq) (h : e ≠ c) : (s.setSq c q).cl e = s.cl e :=
  State.cl_setCl_other s _ h

@[simp] theorem State.sq_setSq_same (s : State) (c : Nat) (q : Seq) : (s.setSq c q).sq c = q := by
  simp [State.sq]

theorem State.sq_setSq_other (s : State) {c e : Nat} (q : Seq) (h : e ≠ c) : (s.setSq c q).sq e = s.sq e := by
  simp [State.sq, State.cl_setSq_other s q h]

@[simp] theorem State.sq_setCl_same (s : State) (c : Nat) (k : Cluster) : (s.setCl c k).sq c = k.seq := by
  simp [State.sq]

@[simp] theorem State.chan_setChan_same (s : State) (c n : Nat) (x : Channel) : (s.setChan c n x).chan c n = x := by
  simp [State.chan, State.setChan]

theorem State.chan_setChan_other (s : State) (c : Nat) {n m : Nat} (x : Channel) (h : m ≠ n) :
    (s.setChan c n x).chan c m = s.chan c m := by
  simp [State.chan, State.setChan, Tab.get_put_other _ _ _ h]

@[simp] theorem State.chan_setSq (s : State) (c n : Nat) (q : Seq) : (s.setSq c q).chan c n = s.chan c n := by
  simp [State.chan]

@[simp] theorem State.cl_setDie (s : State) (d c : Nat) (k : Die) : (s.setDie d k).cl c = s.cl c := rfl
@[simp] theorem State.cl_setCtx (s : State) (x c : Nat) (k : Ctx) : (s.setCtx x k).cl c = s.cl c := rfl
@[simp] theorem State.cl_setPkg (s : State) (c : Nat) (p : Package) : (s.setPkg p).cl c = s.cl c := rfl
@[simp] theorem State.sq_setDie (s : State) (d c : Nat) (k : Die) : (s.setDie d k).sq c = s.sq c := rfl
@[simp] theorem State.sq_setCtx (s : State) (x c : Nat) (k : Ctx) : (s.setCtx x k).sq c = s.sq c := rfl
@[simp] theorem State.sq_setPkg (s : State) (c : Nat) (p : Package) : (s.setPkg p).sq c = s.sq c := rfl

/-! ### Dies and contexts -/

@[simp] theorem State.die_setDie_same (s : State) (d : Nat) (k : Die) : (s.setDie d k).die d = k := by
  simp [State.die]

theorem State.die_setDie_other (s : State) {d e : Nat} (k : Die) (h : e ≠ d) : (s.setDie d k).die e = s.die e := by
  simp [State.die, Tab.get_put_other _ _ _ h]

@[simp] theorem State.ctx_setCtx_same (s : State) (x : Nat) (k : Ctx) : (s.setCtx x k).ctx x = k := by
  simp [State.ctx]

theorem State.ctx_setCtx_other (s : State) {x y : Nat} (k : Ctx) (h : y ≠ x) : (s.setCtx x k).ctx y = s.ctx y := by
  simp [State.ctx, Tab.get_put_other _ _ _ h]

@[simp] theorem State.die_setCl (s : State) (c d : Nat) (k : Cluster) : (s.setCl c k).die d = s.die d := rfl
@[simp] theorem State.die_setCtx (s : State) (x d : Nat) (k : Ctx) : (s.setCtx x k).die d = s.die d := rfl
@[simp] theorem State.die_setPkg (s : State) (d : Nat) (p : Package) : (s.setPkg p).die d = s.die d := rfl
@[simp] theorem State.ctx_setCl (s : State) (c x : Nat) (k : Cluster) : (s.setCl c k).ctx x = s.ctx x := rfl
@[simp] theorem State.ctx_setDie (s : State) (d x : Nat) (k : Die) : (s.setDie d k).ctx x = s.ctx x := rfl
@[simp] theorem State.ctx_setPkg (s : State) (x : Nat) (p : Package) : (s.setPkg p).ctx x = s.ctx x := rfl

/-- A replaced cluster may be replaced again. -/
@[simp] theorem State.setCl_setCl (s : State) (c : Nat) (k k' : Cluster) : (s.setCl c k).setCl c k' = s.setCl c k' := by
  simp [State.setCl]

@[simp] theorem State.setSq_setSq (s : State) (c : Nat) (q q' : Seq) : (s.setSq c q).setSq c q' = s.setSq c q' := by
  simp [State.setSq]

end Sys2Proof.Machine
end

