-- ==== Sys2Proof/Laws/Mem.lean ====
section
/-! SUPPORT. Laws of physical memory, its copies and the sequencers' store buffers: what each shared operation changes,
and that memory keeps its canonical form. -/

namespace Sys2Proof.Machine

/-- Two states agree but for memory, its marks, its copies, invalidations and watches. -/
structure SameButMem (s t : State) : Prop where
  tlb : t.tlb = s.tlb
  timeouts : t.timeouts = s.timeouts
  armed : t.armed = s.armed
  devq : t.devq = s.devq
  clusters : t.clusters = s.clusters
  dies : t.dies = s.dies
  ctxs : t.ctxs = s.ctxs
  pkg : t.pkg = s.pkg
  actor : t.actor = s.actor
  agenda : t.agenda = s.agenda
  free : t.free = s.free

/-- Two states agree but for copies and invalidations. -/
structure SameButCopies (s t : State) : Prop extends SameButMem s t where
  mem : t.mem = s.mem
  poison : t.poison = s.poison
  watches : t.watches = s.watches

theorem SameButMem.refl (s : State) : SameButMem s s := ⟨rfl, rfl, rfl, rfl, rfl, rfl, rfl, rfl, rfl, rfl, rfl⟩
theorem SameButMem.trans {s t u : State} (a : SameButMem s t) (b : SameButMem t u) : SameButMem s u :=
  ⟨b.tlb.trans a.tlb, b.timeouts.trans a.timeouts, b.armed.trans a.armed, b.devq.trans a.devq,
    b.clusters.trans a.clusters, b.dies.trans a.dies, b.ctxs.trans a.ctxs, b.pkg.trans a.pkg, b.actor.trans a.actor, b.agenda.trans a.agenda, b.free.trans a.free⟩
theorem SameButCopies.refl (s : State) : SameButCopies s s := ⟨SameButMem.refl s, rfl, rfl, rfl⟩
theorem SameButCopies.trans {s t u : State} (a : SameButCopies s t) (b : SameButCopies t u) : SameButCopies s u :=
  ⟨a.toSameButMem.trans b.toSameButMem, b.mem.trans a.mem, b.poison.trans a.poison, b.watches.trans a.watches⟩

theorem SameButMem.cl {s t : State} (h : SameButMem s t) (c : Nat) : t.cl c = s.cl c := by simp [State.cl, h.clusters]
theorem SameButMem.sq {s t : State} (h : SameButMem s t) (c : Nat) : t.sq c = s.sq c := by simp [State.sq, h.cl]
theorem SameButMem.die {s t : State} (h : SameButMem s t) (d : Nat) : t.die d = s.die d := by simp [State.die, h.dies]
theorem SameButMem.ctx {s t : State} (h : SameButMem s t) (x : Nat) : t.ctx x = s.ctx x := by simp [State.ctx, h.ctxs]

/-- A fold of steps that each leave a relation's frame leaves it as a whole. -/
theorem foldl_frame {α : Type} {R : State → State → Prop} (hr : ∀ s, R s s) (ht : ∀ s t u, R s t → R t u → R s u)
    (f : State → α → State) (hf : ∀ s a, R s (f s a)) : ∀ (l : List α) (s : State), R s (l.foldl f s) := by
  intro l
  induction l with
  | nil => intro s; exact hr s
  | cons a l ih => intro s; exact ht _ _ _ (hf s a) (ih (f s a))

theorem dropCopy_frame (s : State) (d l : Nat) : SameButCopies s (s.dropCopy d l) := ⟨⟨rfl, rfl, rfl, rfl, rfl, rfl, rfl, rfl, rfl, rfl, rfl⟩, rfl, rfl, rfl⟩

theorem invalidate_frame (s : State) (die agent line : Nat) : SameButCopies s (s.invalidate die agent line) := by
  unfold State.invalidate
  refine foldl_frame SameButCopies.refl (fun _ _ _ => SameButCopies.trans) _ ?_ _ _
  intro s d
  split
  · split
    · exact dropCopy_frame s d line
    · exact ⟨⟨rfl, rfl, rfl, rfl, rfl, rfl, rfl, rfl, rfl, rfl, rfl⟩, rfl, rfl, rfl⟩
  · exact SameButCopies.refl s

/-- A store at home writes its bytes and their marks; beside them only copies, invalidations and watches change. -/
theorem storeHome_frame (s : State) (die agent pa : Nat) (bs : List Byte) (bad : Bool) :
    SameButMem s (s.storeHome die agent pa bs bad) ∧ (s.storeHome die agent pa bs bad).mem = s.mem.setBytes pa bs ∧
    (s.storeHome die agent pa bs bad).poison = poisonAfter s.poison pa bs.length bad := by
  unfold State.storeHome
  have h := foldl_frame SameButCopies.refl (fun _ _ _ => SameButCopies.trans)
    (fun (s : State) (i : Nat) => s.invalidate die agent (pa / 128 + i)) (fun s i => invalidate_frame s die agent _)
    (List.range ((pa + bs.length + 127) / 128 - pa / 128))
    { s with mem := s.mem.setBytes pa bs, poison := poisonAfter s.poison pa bs.length bad,
             watches := s.watches.map (fun w => if pa < w.hi ∧ w.lo < pa + bs.length then { w with hit := true } else w) }
  exact ⟨⟨h.tlb, h.timeouts, h.armed, h.devq, h.clusters, h.dies, h.ctxs, h.pkg, h.actor, h.agenda, h.free⟩, h.mem, h.poison⟩

theorem deliverKnown_frame (s : State) (agent die : Nat) (c : Scope) : SameButCopies s (s.deliverKnown agent die c) := by
  unfold State.deliverKnown
  exact foldl_frame SameButCopies.refl (fun _ _ _ => SameButCopies.trans)
    (fun (s : State) (v : Inval) => s.dropCopy v.die v.line) (fun s v => dropCopy_frame s v.die v.line) _ s

theorem freshen_frame (s : State) (die : Nat) : SameButCopies s (s.freshen die) := by
  unfold State.freshen
  exact foldl_frame SameButCopies.refl (fun _ _ _ => SameButCopies.trans)
    (fun (s : State) (v : Inval) => s.dropCopy v.die v.line) (fun s v => dropCopy_frame s v.die v.line) _ s

theorem freshAt_frame (s : State) (c : Nat) (sc : Scope) : SameButCopies s (s.freshAt c sc) := by
  unfold State.freshAt
  split
  · exact freshen_frame s _
  · exact SameButCopies.refl s

theorem acquire_frame (s : State) (agent : Nat) : SameButCopies s (s.acquire agent) :=
  ⟨⟨rfl, rfl, rfl, rfl, rfl, rfl, rfl, rfl, rfl, rfl, rfl⟩, rfl, rfl, rfl⟩

theorem keepCopy_frame (s : State) (die : Nat) (cached : Bool) (pa : Nat) : SameButCopies s (s.keepCopy die cached pa) := by
  unfold State.keepCopy
  split
  · exact ⟨⟨rfl, rfl, rfl, rfl, rfl, rfl, rfl, rfl, rfl, rfl, rfl⟩, rfl, rfl, rfl⟩
  · exact SameButCopies.refl s

/-- A store-buffer entry is performed: its bytes stand in memory. -/
theorem performStore_frame (s : State) (c : Nat) (e : StoreEnt) :
    SameButMem s (s.performStore c e) ∧ (s.performStore c e).mem = s.mem.setBytes e.pa (toBytes e.size e.data) := by
  unfold State.performStore
  cases e.rel with
  | none => exact ⟨(storeHome_frame s _ _ _ _ _).1, (storeHome_frame s _ _ _ _ _).2.1⟩
  | some r =>
    have h := deliverKnown_frame s (agentSeq c) (dieOf c) r
    have h2 := storeHome_frame (s.deliverKnown (agentSeq c) (dieOf c) r) (dieOf c) (agentSeq c) e.pa (toBytes e.size e.data) false
    exact ⟨h.toSameButMem.trans h2.1, by rw [h2.2.1, h.mem]⟩

/-- Memory after the stores of a list are performed in order. -/
def memAfter (m : Mem) (b : List StoreEnt) : Mem := b.foldl (fun m e => m.setBytes e.pa (toBytes e.size e.data)) m

theorem foldl_performStore (c : Nat) : ∀ (b : List StoreEnt) (s : State),
    SameButMem s (b.foldl (fun s e => s.performStore c e) s) ∧ (b.foldl (fun s e => s.performStore c e) s).mem = memAfter s.mem b := by
  intro b
  induction b with
  | nil => intro s; exact ⟨SameButMem.refl s, rfl⟩
  | cons e b ih =>
    intro s
    have h1 := performStore_frame s c e
    have h2 := ih (s.performStore c e)
    refine ⟨h1.1.trans h2.1, ?_⟩
    simp only [List.foldl_cons, memAfter] at *
    rw [h2.2, h1.2]

/-- The store buffer empties itself into memory, in order; nothing else of the cluster changes. -/
theorem drainAll_frame (s : State) (c : Nat) :
    SameButMem (s.setSq c { s.sq c with sbuf := [] }) (s.drainAll c) ∧ (s.drainAll c).mem = memAfter s.mem (s.sq c).sbuf := by
  unfold State.drainAll
  exact foldl_performStore c _ _

theorem releaseAt_frame (s : State) (c : Nat) (sc : Scope) :
    SameButMem (s.setSq c { s.sq c with sbuf := [] }) (s.releaseAt c sc) ∧ (s.releaseAt c sc).mem = memAfter s.mem (s.sq c).sbuf := by
  unfold State.releaseAt
  have h1 := drainAll_frame s c
  have h2 := deliverKnown_frame (s.drainAll c) (agentSeq c) (dieOf c) sc
  exact ⟨h1.1.trans h2.toSameButMem, by rw [h2.mem, h1.2]⟩

/-! ### The canonical form of memory -/

theorem storeHome_wf (s : State) (die agent pa : Nat) (bs : List Byte) (bad : Bool) (h : s.mem.wf = true) :
    (s.storeHome die agent pa bs bad).mem.wf = true := by
  rw [(storeHome_frame s die agent pa bs bad).2.1]; exact Mem.wf_setBytes bs pa h

theorem memAfter_wf : ∀ (b : List StoreEnt) (m : Mem), m.wf = true → (memAfter m b).wf = true := by
  intro b
  induction b with
  | nil => intro m h; exact h
  | cons e b ih => intro m h; exact ih _ (Mem.wf_setBytes _ _ h)

theorem drainAll_wf (s : State) (c : Nat) (h : s.mem.wf = true) : (s.drainAll c).mem.wf = true := by
  rw [(drainAll_frame s c).2]; exact memAfter_wf _ _ h

/-- A byte written is read back as it was written. -/
theorem Mem.byte_setBytes_same : ∀ (bs : List Byte) (m : Mem) (a i : Nat), m.wf = true → i < bs.length →
    (m.setBytes a bs).byte (a + i) = bs.getD i 0 := by
  intro bs
  induction bs with
  | nil => intro m a i _ h; simp at h
  | cons b bs ih =>
    intro m a i hm h
    simp only [Mem.setBytes]
    cases i with
    | zero =>
      rw [Mem.byte_setBytes_other bs _ (a + 1) (Or.inl (by omega))]
      simpa using Mem.byte_setByte_same hm a b
    | succ i =>
      have := ih (m.setByte a b) (a + 1) i (Mem.wf_setByte a b hm) (by simpa using h)
      rw [show a + (i + 1) = a + 1 + i by omega, this]
      simp

end Sys2Proof.Machine
end

