-- ==== Sys2Proof/Laws/PerInstr.lean ====
section
/-! SUPPORT. How many words an instruction has: MSET three (R165), a step of the machine that no word encodes none, and
every other instruction one. -/

namespace Sys2Proof.Laws.EncodedLength

/-- No word, one word, or the three of MSET. -/
def Statement (i : Instr) : Prop :=
  (encode i).length = 0 ∨ (encode i).length = 1 ∨ ((encode i).length = 3 ∧ ∃ r v, i = .mset r v)

theorem add : ∀ x0 x1 x2, Statement (.add x0 x1 x2) := fun _ _ _ => .inr (.inl rfl)
theorem sub : ∀ x0 x1 x2, Statement (.sub x0 x1 x2) := fun _ _ _ => .inr (.inl rfl)
theorem and : ∀ x0 x1 x2, Statement (.and x0 x1 x2) := fun _ _ _ => .inr (.inl rfl)
theorem or : ∀ x0 x1 x2, Statement (.or x0 x1 x2) := fun _ _ _ => .inr (.inl rfl)
theorem xor : ∀ x0 x1 x2, Statement (.xor x0 x1 x2) := fun _ _ _ => .inr (.inl rfl)
theorem shl : ∀ x0 x1 x2, Statement (.shl x0 x1 x2) := fun _ _ _ => .inr (.inl rfl)
theorem shr : ∀ x0 x1 x2, Statement (.shr x0 x1 x2) := fun _ _ _ => .inr (.inl rfl)
theorem sha : ∀ x0 x1 x2, Statement (.sha x0 x1 x2) := fun _ _ _ => .inr (.inl rfl)
theorem mul : ∀ x0 x1 x2, Statement (.mul x0 x1 x2) := fun _ _ _ => .inr (.inl rfl)
theorem mulh : ∀ x0 x1 x2, Statement (.mulh x0 x1 x2) := fun _ _ _ => .inr (.inl rfl)
theorem div : ∀ x0 x1 x2, Statement (.div x0 x1 x2) := fun _ _ _ => .inr (.inl rfl)
theorem divu : ∀ x0 x1 x2, Statement (.divu x0 x1 x2) := fun _ _ _ => .inr (.inl rfl)
theorem rem : ∀ x0 x1 x2, Statement (.rem x0 x1 x2) := fun _ _ _ => .inr (.inl rfl)
theorem min : ∀ x0 x1 x2, Statement (.min x0 x1 x2) := fun _ _ _ => .inr (.inl rfl)
theorem max : ∀ x0 x1 x2, Statement (.max x0 x1 x2) := fun _ _ _ => .inr (.inl rfl)
theorem minu : ∀ x0 x1 x2, Statement (.minu x0 x1 x2) := fun _ _ _ => .inr (.inl rfl)
theorem maxu : ∀ x0 x1 x2, Statement (.maxu x0 x1 x2) := fun _ _ _ => .inr (.inl rfl)
theorem slt : ∀ x0 x1 x2, Statement (.slt x0 x1 x2) := fun _ _ _ => .inr (.inl rfl)
theorem sltu : ∀ x0 x1 x2, Statement (.sltu x0 x1 x2) := fun _ _ _ => .inr (.inl rfl)
theorem ceq : ∀ x0 x1 x2, Statement (.ceq x0 x1 x2) := fun _ _ _ => .inr (.inl rfl)
theorem clz : ∀ x0 x1, Statement (.clz x0 x1) := fun _ _ => .inr (.inl rfl)
theorem popc : ∀ x0 x1, Statement (.popc x0 x1) := fun _ _ => .inr (.inl rfl)
theorem addi : ∀ x0 x1 x2, Statement (.addi x0 x1 x2) := fun _ _ _ => .inr (.inl rfl)
theorem andi : ∀ x0 x1 x2, Statement (.andi x0 x1 x2) := fun _ _ _ => .inr (.inl rfl)
theorem ori : ∀ x0 x1 x2, Statement (.ori x0 x1 x2) := fun _ _ _ => .inr (.inl rfl)
theorem xori : ∀ x0 x1 x2, Statement (.xori x0 x1 x2) := fun _ _ _ => .inr (.inl rfl)
theorem shli : ∀ x0 x1 x2, Statement (.shli x0 x1 x2) := fun _ _ _ => .inr (.inl rfl)
theorem shri : ∀ x0 x1 x2, Statement (.shri x0 x1 x2) := fun _ _ _ => .inr (.inl rfl)
theorem shai : ∀ x0 x1 x2, Statement (.shai x0 x1 x2) := fun _ _ _ => .inr (.inl rfl)
theorem slti : ∀ x0 x1 x2, Statement (.slti x0 x1 x2) := fun _ _ _ => .inr (.inl rfl)
theorem lui : ∀ x0 x1, Statement (.lui x0 x1) := fun _ _ => .inr (.inl rfl)
theorem addpc : ∀ x0 x1, Statement (.addpc x0 x1) := fun _ _ => .inr (.inl rfl)
theorem beq : ∀ x0 x1 x2, Statement (.beq x0 x1 x2) := fun _ _ _ => .inr (.inl rfl)
theorem bne : ∀ x0 x1 x2, Statement (.bne x0 x1 x2) := fun _ _ _ => .inr (.inl rfl)
theorem blt : ∀ x0 x1 x2, Statement (.blt x0 x1 x2) := fun _ _ _ => .inr (.inl rfl)
theorem bge : ∀ x0 x1 x2, Statement (.bge x0 x1 x2) := fun _ _ _ => .inr (.inl rfl)
theorem bltu : ∀ x0 x1 x2, Statement (.bltu x0 x1 x2) := fun _ _ _ => .inr (.inl rfl)
theorem bgeu : ∀ x0 x1 x2, Statement (.bgeu x0 x1 x2) := fun _ _ _ => .inr (.inl rfl)
theorem jal : ∀ x0, Statement (.jal x0) := fun _ => .inr (.inl rfl)
theorem jalr : ∀ x0 x1 x2, Statement (.jalr x0 x1 x2) := fun _ _ _ => .inr (.inl rfl)
theorem ld : ∀ x0 x1 x2 x3 x4 x5, Statement (.ld x0 x1 x2 x3 x4 x5) := fun _ _ _ _ _ _ => .inr (.inl rfl)
theorem st : ∀ x0 x1 x2 x3 x4 x5, Statement (.st x0 x1 x2 x3 x4 x5) := fun _ _ _ _ _ _ => .inr (.inl rfl)
theorem amoswp : ∀ x0 x1 x2 x3 x4 x5, Statement (.amoswp x0 x1 x2 x3 x4 x5) := fun _ _ _ _ _ _ => .inr (.inl rfl)
theorem amoadd : ∀ x0 x1 x2 x3 x4 x5, Statement (.amoadd x0 x1 x2 x3 x4 x5) := fun _ _ _ _ _ _ => .inr (.inl rfl)
theorem amocas : ∀ x0 x1 x2 x3 x4 x5, Statement (.amocas x0 x1 x2 x3 x4 x5) := fun _ _ _ _ _ _ => .inr (.inl rfl)
theorem amomin : ∀ x0 x1 x2 x3 x4 x5, Statement (.amomin x0 x1 x2 x3 x4 x5) := fun _ _ _ _ _ _ => .inr (.inl rfl)
theorem amomax : ∀ x0 x1 x2 x3 x4 x5, Statement (.amomax x0 x1 x2 x3 x4 x5) := fun _ _ _ _ _ _ => .inr (.inl rfl)
theorem amoand : ∀ x0 x1 x2 x3 x4 x5, Statement (.amoand x0 x1 x2 x3 x4 x5) := fun _ _ _ _ _ _ => .inr (.inl rfl)
theorem amoor : ∀ x0 x1 x2 x3 x4 x5, Statement (.amoor x0 x1 x2 x3 x4 x5) := fun _ _ _ _ _ _ => .inr (.inl rfl)
theorem amoxor : ∀ x0 x1 x2 x3 x4 x5, Statement (.amoxor x0 x1 x2 x3 x4 x5) := fun _ _ _ _ _ _ => .inr (.inl rfl)
theorem fence : ∀ x0 x1, Statement (.fence x0 x1) := fun _ _ => .inr (.inl rfl)
theorem cflush : ∀ x0, Statement (.cflush x0) := fun _ => .inr (.inl rfl)
theorem cinval : ∀ x0, Statement (.cinval x0) := fun _ => .inr (.inl rfl)
theorem qfence : ∀ x0 x1, Statement (.qfence x0 x1) := fun _ _ => .inr (.inl rfl)
theorem tend : Statement .tend := .inr (.inl rfl)
theorem yield : Statement .yield := .inr (.inl rfl)
theorem eret : Statement .eret := .inr (.inl rfl)
theorem trap : ∀ x0, Statement (.trap x0) := fun _ => .inr (.inl rfl)
theorem mfs : ∀ x0 x1, Statement (.mfs x0 x1) := fun _ _ => .inr (.inl rfl)
theorem mts : ∀ x0 x1, Statement (.mts x0 x1) := fun _ _ => .inr (.inl rfl)
theorem bankmode : ∀ x0, Statement (.bankmode x0) := fun _ => .inl rfl
theorem bankModeCut : Statement .bankModeCut := .inl rfl
theorem mcmode : ∀ x0, Statement (.mcmode x0) := fun _ => .inl rfl
theorem cpy : ∀ x0 x1 x2, Statement (.cpy x0 x1 x2) := fun _ _ _ => .inr (.inl rfl)
theorem strm : ∀ x0 x1 x2, Statement (.strm x0 x1 x2) := fun _ _ _ => .inr (.inl rfl)
theorem wtest : ∀ x0 x1 x2, Statement (.wtest x0 x1 x2) := fun _ _ _ => .inr (.inl rfl)
theorem cfg : ∀ x0 x1 x2, Statement (.cfg x0 x1 x2) := fun _ _ _ => .inr (.inl rfl)
theorem resid : ∀ x0 x1, Statement (.resid x0 x1) := fun _ _ => .inr (.inl rfl)
theorem param : ∀ x0 x1 x2, Statement (.param x0 x1 x2) := fun _ _ _ => .inr (.inl rfl)
theorem gbar : ∀ x0 x1 x2, Statement (.gbar x0 x1 x2) := fun _ _ _ => .inr (.inl rfl)
theorem resume : ∀ x0 x1, Statement (.resume x0 x1) := fun _ _ => .inr (.inl rfl)
theorem lease : ∀ x0 x1 x2, Statement (.lease x0 x1 x2) := fun _ _ _ => .inr (.inl rfl)
theorem lfree : ∀ x0 x1, Statement (.lfree x0 x1) := fun _ _ => .inr (.inl rfl)
theorem pcmd : ∀ x0 x1 x2, Statement (.pcmd x0 x1 x2) := fun _ _ _ => .inr (.inl rfl)
theorem boost : ∀ x0 x1 x2, Statement (.boost x0 x1 x2) := fun _ _ _ => .inr (.inl rfl)
theorem lnch : ∀ x0 x1, Statement (.lnch x0 x1) := fun _ _ => .inr (.inl rfl)
theorem xcmd : ∀ x0 x1 x2, Statement (.xcmd x0 x1 x2) := fun _ _ _ => .inr (.inl rfl)
theorem tbind : ∀ x0 x1 x2, Statement (.tbind x0 x1 x2) := fun _ _ _ => .inr (.inl rfl)
theorem tpost : ∀ x0 x1 x2, Statement (.tpost x0 x1 x2) := fun _ _ _ => .inr (.inl rfl)
theorem taskDispatch : Statement .taskDispatch := .inl rfl
theorem messageArrival : ∀ x0 x1 x2 x3 x4 x5, Statement (.messageArrival x0 x1 x2 x3 x4 x5) := fun _ _ _ _ _ _ => .inl rfl
theorem messageRetry : Statement .messageRetry := .inl rfl
theorem pageWalk : ∀ x0 x1 x2, Statement (.pageWalk x0 x1 x2) := fun _ _ _ => .inl rfl
theorem invalidationArrival : ∀ x0, Statement (.invalidationArrival x0) := fun _ => .inl rfl
theorem tierCTimeout : ∀ x0 x1, Statement (.tierCTimeout x0 x1) := fun _ _ => .inl rfl
theorem eccError : ∀ x0 x1 x2, Statement (.eccError x0 x1 x2) := fun _ _ _ => .inl rfl
theorem patrolScrub : ∀ x0, Statement (.patrolScrub x0) := fun _ => .inl rfl
theorem ambPark : ∀ x0, Statement (.ambPark x0) := fun _ => .inl rfl
theorem wake : ∀ x0 x1 x2, Statement (.wake x0 x1 x2) := fun _ _ _ => .inl rfl
theorem promoteAll : ∀ x0 x1 x2, Statement (.promoteAll x0 x1 x2) := fun _ _ _ => .inl rfl
theorem promoteOne : ∀ x0 x1 x2, Statement (.promoteOne x0 x1 x2) := fun _ _ _ => .inl rfl
theorem drop : ∀ x0 x1 x2, Statement (.drop x0 x1 x2) := fun _ _ _ => .inl rfl
theorem hcTimerExpiry : ∀ x0, Statement (.hcTimerExpiry x0) := fun _ => .inl rfl
theorem cfTimerExpiry : ∀ x0, Statement (.cfTimerExpiry x0) := fun _ => .inl rfl
theorem amberExamination : ∀ x0, Statement (.amberExamination x0) := fun _ => .inl rfl
theorem demoteHc : ∀ x0 x1, Statement (.demoteHc x0 x1) := fun _ _ => .inl rfl
theorem demoteCf : ∀ x0 x1, Statement (.demoteCf x0 x1) := fun _ _ => .inl rfl
theorem blockPromotion : ∀ x0 x1, Statement (.blockPromotion x0 x1) := fun _ _ => .inl rfl
theorem promotionResume : ∀ x0, Statement (.promotionResume x0) := fun _ => .inl rfl
theorem resumeLaunchRetry : ∀ x0, Statement (.resumeLaunchRetry x0) := fun _ => .inl rfl
theorem amberPushRetry : ∀ x0, Statement (.amberPushRetry x0) := fun _ => .inl rfl
theorem amberCfg : Statement .amberCfg := .inl rfl
theorem copy : ∀ x0, Statement (.copy x0) := fun _ => .inl rfl
theorem maskrows : ∀ x0, Statement (.maskrows x0) := fun _ => .inl rfl
theorem streamin : ∀ x0, Statement (.streamin x0) := fun _ => .inl rfl
theorem streamout : ∀ x0, Statement (.streamout x0) := fun _ => .inl rfl
theorem arrive : ∀ x0, Statement (.arrive x0) := fun _ => .inl rfl
theorem barset : ∀ x0, Statement (.barset x0) := fun _ => .inl rfl
theorem streamPortPush : ∀ x0, Statement (.streamPortPush x0) := fun _ => .inl rfl
theorem streamPortPop : ∀ x0, Statement (.streamPortPop x0) := fun _ => .inl rfl
theorem chunkComplete : ∀ x0, Statement (.chunkComplete x0) := fun _ => .inl rfl
theorem ceCommandComplete : ∀ x0, Statement (.ceCommandComplete x0) := fun _ => .inl rfl
theorem qfenceRetire : ∀ x0, Statement (.qfenceRetire x0) := fun _ => .inl rfl
theorem ringDescriptorStore : ∀ x0 x1 x2, Statement (.ringDescriptorStore x0 x1 x2) := fun _ _ _ => .inl rfl
theorem fifoQueueStore : ∀ x0 x1 x2, Statement (.fifoQueueStore x0 x1 x2) := fun _ _ _ => .inl rfl
theorem windowQueueStore : ∀ x0 x1 x2, Statement (.windowQueueStore x0 x1 x2) := fun _ _ _ => .inl rfl
theorem switchForward : ∀ x0, Statement (.switchForward x0) := fun _ => .inl rfl
theorem killPropagate : ∀ x0, Statement (.killPropagate x0) := fun _ => .inl rfl
theorem iadd : ∀ x0, Statement (.iadd x0) := fun _ => .inr (.inl rfl)
theorem isub : ∀ x0, Statement (.isub x0) := fun _ => .inr (.inl rfl)
theorem imul : ∀ x0, Statement (.imul x0) := fun _ => .inr (.inl rfl)
theorem imulh : ∀ x0, Statement (.imulh x0) := fun _ => .inr (.inl rfl)
theorem imin : ∀ x0, Statement (.imin x0) := fun _ => .inr (.inl rfl)
theorem imax : ∀ x0, Statement (.imax x0) := fun _ => .inr (.inl rfl)
theorem iabs : ∀ x0, Statement (.iabs x0) := fun _ => .inr (.inl rfl)
theorem peAnd : ∀ x0, Statement (.peAnd x0) := fun _ => .inr (.inl rfl)
theorem peOr : ∀ x0, Statement (.peOr x0) := fun _ => .inr (.inl rfl)
theorem peXor : ∀ x0, Statement (.peXor x0) := fun _ => .inr (.inl rfl)
theorem peShl : ∀ x0, Statement (.peShl x0) := fun _ => .inr (.inl rfl)
theorem peShr : ∀ x0, Statement (.peShr x0) := fun _ => .inr (.inl rfl)
theorem peSha : ∀ x0, Statement (.peSha x0) := fun _ => .inr (.inl rfl)
theorem fshl : ∀ x0, Statement (.fshl x0) := fun _ => .inr (.inl rfl)
theorem fshr : ∀ x0, Statement (.fshr x0) := fun _ => .inr (.inl rfl)
theorem peClz : ∀ x0, Statement (.peClz x0) := fun _ => .inr (.inl rfl)
theorem pePopc : ∀ x0, Statement (.pePopc x0) := fun _ => .inr (.inl rfl)
theorem bwid : ∀ x0, Statement (.bwid x0) := fun _ => .inr (.inl rfl)
theorem icmp : ∀ x0, Statement (.icmp x0) := fun _ => .inr (.inl rfl)
theorem sel : ∀ x0, Statement (.sel x0) := fun _ => .inr (.inl rfl)
theorem fadd : ∀ x0, Statement (.fadd x0) := fun _ => .inr (.inl rfl)
theorem fsub : ∀ x0, Statement (.fsub x0) := fun _ => .inr (.inl rfl)
theorem fmul : ∀ x0, Statement (.fmul x0) := fun _ => .inr (.inl rfl)
theorem ffma : ∀ x0, Statement (.ffma x0) := fun _ => .inr (.inl rfl)
theorem fmin : ∀ x0, Statement (.fmin x0) := fun _ => .inr (.inl rfl)
theorem fmax : ∀ x0, Statement (.fmax x0) := fun _ => .inr (.inl rfl)
theorem fcmp : ∀ x0, Statement (.fcmp x0) := fun _ => .inr (.inl rfl)
theorem cvt : ∀ x0, Statement (.cvt x0) := fun _ => .inr (.inl rfl)
theorem red : ∀ x0, Statement (.red x0) := fun _ => .inr (.inl rfl)
theorem scan : ∀ x0, Statement (.scan x0) := fun _ => .inr (.inl rfl)
theorem pass : ∀ x0, Statement (.pass x0) := fun _ => .inr (.inl rfl)
theorem shuf : ∀ x0, Statement (.shuf x0) := fun _ => .inr (.inl rfl)
theorem packb : ∀ x0, Statement (.packb x0) := fun _ => .inr (.inl rfl)
theorem unpkb : ∀ x0, Statement (.unpkb x0) := fun _ => .inr (.inl rfl)
theorem delta : ∀ x0, Statement (.delta x0) := fun _ => .inr (.inl rfl)
theorem gate : ∀ x0, Statement (.gate x0) := fun _ => .inr (.inl rfl)
theorem steer : ∀ x0, Statement (.steer x0) := fun _ => .inr (.inl rfl)
theorem cnt : ∀ x0, Statement (.cnt x0) := fun _ => .inr (.inl rfl)
theorem mark : ∀ x0, Statement (.mark x0) := fun _ => .inr (.inl rfl)
theorem const : ∀ x0, Statement (.const x0) := fun _ => .inr (.inl rfl)
theorem merge : ∀ x0, Statement (.merge x0) := fun _ => .inr (.inl rfl)
theorem ojoin : ∀ x0, Statement (.ojoin x0) := fun _ => .inr (.inl rfl)
theorem dadd : ∀ x0, Statement (.dadd x0) := fun _ => .inr (.inl rfl)
theorem dsub : ∀ x0, Statement (.dsub x0) := fun _ => .inr (.inl rfl)
theorem dmul : ∀ x0, Statement (.dmul x0) := fun _ => .inr (.inl rfl)
theorem dfma : ∀ x0, Statement (.dfma x0) := fun _ => .inr (.inl rfl)
theorem ddiv : ∀ x0, Statement (.ddiv x0) := fun _ => .inr (.inl rfl)
theorem dsqrt : ∀ x0, Statement (.dsqrt x0) := fun _ => .inr (.inl rfl)
theorem drsq : ∀ x0, Statement (.drsq x0) := fun _ => .inr (.inl rfl)
theorem dexp : ∀ x0, Statement (.dexp x0) := fun _ => .inr (.inl rfl)
theorem dlog : ∀ x0, Statement (.dlog x0) := fun _ => .inr (.inl rfl)
theorem dnorm : ∀ x0, Statement (.dnorm x0) := fun _ => .inr (.inl rfl)
theorem dscl : ∀ x0, Statement (.dscl x0) := fun _ => .inr (.inl rfl)
theorem dmax : ∀ x0, Statement (.dmax x0) := fun _ => .inr (.inl rfl)
theorem dcmpk : ∀ x0, Statement (.dcmpk x0) := fun _ => .inr (.inl rfl)
theorem drelu : ∀ x0, Statement (.drelu x0) := fun _ => .inr (.inl rfl)
theorem drace : ∀ x0, Statement (.drace x0) := fun _ => .inr (.inl rfl)
theorem dsel : ∀ x0, Statement (.dsel x0) := fun _ => .inr (.inl rfl)
theorem dacc : ∀ x0, Statement (.dacc x0) := fun _ => .inr (.inl rfl)
theorem mtrd : ∀ x0, Statement (.mtrd x0) := fun _ => .inr (.inl rfl)
theorem mtwr : ∀ x0, Statement (.mtwr x0) := fun _ => .inr (.inl rfl)
theorem mtring : ∀ x0, Statement (.mtring x0) := fun _ => .inr (.inl rfl)
theorem mtfifo : ∀ x0, Statement (.mtfifo x0) := fun _ => .inr (.inl rfl)
theorem mttas : ∀ x0, Statement (.mttas x0) := fun _ => .inr (.inl rfl)
theorem mthist : ∀ x0, Statement (.mthist x0) := fun _ => .inr (.inl rfl)
theorem mtlut : ∀ x0, Statement (.mtlut x0) := fun _ => .inr (.inl rfl)
theorem mtacc : ∀ x0, Statement (.mtacc x0) := fun _ => .inr (.inl rfl)
theorem mtclr : ∀ x0, Statement (.mtclr x0) := fun _ => .inr (.inl rfl)
theorem agld : ∀ x0, Statement (.agld x0) := fun _ => .inr (.inl rfl)
theorem agst : ∀ x0, Statement (.agst x0) := fun _ => .inr (.inl rfl)
theorem agga : ∀ x0, Statement (.agga x0) := fun _ => .inr (.inl rfl)
theorem agsc : ∀ x0, Statement (.agsc x0) := fun _ => .inr (.inl rfl)
theorem agsel : ∀ x0, Statement (.agsel x0) := fun _ => .inr (.inl rfl)
theorem agbt : ∀ x0, Statement (.agbt x0) := fun _ => .inr (.inl rfl)
theorem agamo : ∀ x0, Statement (.agamo x0) := fun _ => .inr (.inl rfl)
theorem agpf : ∀ x0, Statement (.agpf x0) := fun _ => .inr (.inl rfl)
theorem orderTokenEmit : Statement .orderTokenEmit := .inl rfl
theorem iterationClaim : ∀ x0, Statement (.iterationClaim x0) := fun _ => .inl rfl
theorem mzero : Statement .mzero := .inr (.inl rfl)
theorem mma : ∀ x0 x1 x2 x3 x4, Statement (.mma x0 x1 x2 x3 x4) := fun _ _ _ _ _ => .inr (.inl rfl)
theorem mout : ∀ x0 x1 x2 x3 x4, Statement (.mout x0 x1 x2 x3 x4) := fun _ _ _ _ _ => .inr (.inl rfl)
theorem mlut : ∀ x0, Statement (.mlut x0) := fun _ => .inr (.inl rfl)
theorem mqk : ∀ x0 x1 x2 x3, Statement (.mqk x0 x1 x2 x3) := fun _ _ _ _ => .inr (.inl rfl)
theorem msmu : ∀ x0, Statement (.msmu x0) := fun _ => .inr (.inl rfl)
theorem mpva : ∀ x0 x1, Statement (.mpva x0 x1) := fun _ _ => .inr (.inl rfl)
theorem msmf : ∀ x0 x1, Statement (.msmf x0 x1) := fun _ _ => .inr (.inl rfl)
theorem msmg : ∀ x0, Statement (.msmg x0) := fun _ => .inr (.inl rfl)
theorem mset : ∀ x0 x1, Statement (.mset x0 x1) := fun _ _ => .inr (.inr ⟨rfl, _, _, rfl⟩)
theorem tileTeardown : Statement .tileTeardown := .inl rfl
theorem residencyMove : ∀ x0 x1, Statement (.residencyMove x0 x1) := fun _ _ => .inl rfl
theorem launchEligible : ∀ x0, Statement (.launchEligible x0) := fun _ => .inl rfl
theorem launchAgeing : ∀ x0, Statement (.launchAgeing x0) := fun _ => .inl rfl
theorem launchBlocking : ∀ x0, Statement (.launchBlocking x0) := fun _ => .inl rfl
theorem launchAdmission : Statement .launchAdmission := .inl rfl
theorem hqctl : ∀ x0 x1, Statement (.hqctl x0 x1) := fun _ _ => .inl rfl
theorem hqmirror : ∀ x0 x1, Statement (.hqmirror x0 x1) := fun _ _ => .inl rfl
theorem hostQueueTail : ∀ x0, Statement (.hostQueueTail x0) := fun _ => .inl rfl
theorem linkLaunchSlot : ∀ x0 x1, Statement (.linkLaunchSlot x0 x1) := fun _ _ => .inl rfl
theorem linkAccessRefused : ∀ x0 x1, Statement (.linkAccessRefused x0 x1) := fun _ _ => .inl rfl
theorem leaseArbitration : Statement .leaseArbitration := .inl rfl
theorem leaseEviction : ∀ x0, Statement (.leaseEviction x0) := fun _ => .inl rfl
theorem pralineReady : ∀ x0, Statement (.pralineReady x0) := fun _ => .inl rfl
theorem pralineIdleSleep : ∀ x0, Statement (.pralineIdleSleep x0) := fun _ => .inl rfl
theorem lingerExpiry : ∀ x0, Statement (.lingerExpiry x0) := fun _ => .inl rfl
theorem czip : ∀ x0, Statement (.czip x0) := fun _ => .inl rfl
theorem cunz : ∀ x0, Statement (.cunz x0) := fun _ => .inl rfl
theorem topk : ∀ x0, Statement (.topk x0) := fun _ => .inl rfl
theorem ksort : ∀ x0, Statement (.ksort x0) := fun _ => .inl rfl
theorem genc : ∀ x0, Statement (.genc x0) := fun _ => .inl rfl
theorem gdec : ∀ x0, Statement (.gdec x0) := fun _ => .inl rfl
theorem hsha : ∀ x0, Statement (.hsha x0) := fun _ => .inl rfl
theorem hchain : ∀ x0, Statement (.hchain x0) := fun _ => .inl rfl
theorem pralineComplete : ∀ x0, Statement (.pralineComplete x0) := fun _ => .inl rfl
theorem powerInterval : ∀ x0, Statement (.powerInterval x0) := fun _ => .inl rfl
theorem spineChange : ∀ x0 x1, Statement (.spineChange x0 x1) := fun _ _ => .inl rfl
theorem boostSpineSwitch : Statement .boostSpineSwitch := .inl rfl
theorem supplyLimit : ∀ x0, Statement (.supplyLimit x0) := fun _ => .inl rfl
theorem boostNoticeEnd : ∀ x0, Statement (.boostNoticeEnd x0) := fun _ => .inl rfl
theorem boostExpiry : ∀ x0, Statement (.boostExpiry x0) := fun _ => .inl rfl
theorem pstall : ∀ x0, Statement (.pstall x0) := fun _ => .inl rfl
theorem thermalSample : ∀ x0, Statement (.thermalSample x0) := fun _ => .inl rfl
theorem tripMark : Statement .tripMark := .inl rfl
theorem emergencySaveTimeout : Statement .emergencySaveTimeout := .inl rfl
theorem hbmSelfRefresh : Statement .hbmSelfRefresh := .inl rfl
theorem railRemoval : Statement .railRemoval := .inl rfl
theorem dieRepower : Statement .dieRepower := .inl rfl
theorem deadlineExpiry : ∀ x0, Statement (.deadlineExpiry x0) := fun _ => .inl rfl
theorem contextSaveComplete : ∀ x0, Statement (.contextSaveComplete x0) := fun _ => .inl rfl
theorem tileFlagWrite : ∀ x0 x1, Statement (.tileFlagWrite x0 x1) := fun _ _ => .inl rfl
theorem islandStatusWrite : ∀ x0 x1 x2, Statement (.islandStatusWrite x0 x1 x2) := fun _ _ _ => .inl rfl
theorem registerWrite : ∀ x0 x1, Statement (.registerWrite x0 x1) := fun _ _ => .inl rfl
theorem identify : Statement .identify := .inl rfl
theorem features : Statement .features := .inl rfl
theorem ctxCreate : Statement .ctxCreate := .inl rfl
theorem ctxDestroy : Statement .ctxDestroy := .inl rfl
theorem map : Statement .map := .inl rfl
theorem unmap : Statement .unmap := .inl rfl
theorem mapComplete : Statement .mapComplete := .inl rfl
theorem powerCfg : Statement .powerCfg := .inl rfl
theorem attest : Statement .attest := .inl rfl
theorem lifelogRead : Statement .lifelogRead := .inl rfl
theorem resetDie : Statement .resetDie := .inl rfl
theorem fwUpdate : Statement .fwUpdate := .inl rfl
theorem a2a : ∀ x0 x1, Statement (.a2a x0 x1) := fun _ _ => .inl rfl
theorem put : ∀ x0 x1, Statement (.put x0 x1) := fun _ _ => .inl rfl
theorem get : ∀ x0 x1, Statement (.get x0 x1) := fun _ _ => .inl rfl
theorem sig : ∀ x0 x1, Statement (.sig x0 x1) := fun _ _ => .inl rfl
theorem exchangeComplete : ∀ x0 x1, Statement (.exchangeComplete x0 x1) := fun _ _ => .inl rfl
theorem keepaliveLoss : ∀ x0, Statement (.keepaliveLoss x0) := fun _ => .inl rfl
theorem powerUp : Statement .powerUp := .inl rfl
theorem sramScrub : ∀ x0 x1, Statement (.sramScrub x0 x1) := fun _ _ => .inl rfl
theorem recalibration : ∀ x0, Statement (.recalibration x0) := fun _ => .inl rfl
theorem wearLevelling : Statement .wearLevelling := .inl rfl
theorem telemetrySample : Statement .telemetrySample := .inl rfl
theorem lifelogRewrite : Statement .lifelogRewrite := .inl rfl
theorem hostMemoryAccess : ∀ x0 x1 x2 x3, Statement (.hostMemoryAccess x0 x1 x2 x3) := fun _ _ _ _ => .inl rfl
theorem remoteExchangeRequest : ∀ x0 x1 x2 x3 x4, Statement (.remoteExchangeRequest x0 x1 x2 x3 x4) := fun _ _ _ _ _ => .inl rfl
theorem powerLoss : Statement .powerLoss := .inl rfl
theorem voltageDroop : ∀ x0 x1, Statement (.voltageDroop x0 x1) := fun _ _ => .inl rfl
theorem laneRetrain : ∀ x0, Statement (.laneRetrain x0) := fun _ => .inl rfl

end Sys2Proof.Laws.EncodedLength
end

