-- ==== Sys2Proof/Laws/Seq.lean ====
section
/-! SUPPORT. Laws of the sequencer's shared operations: reading sources, computing, branching, trapping. -/

namespace Sys2Proof

open Machine

/-- Plain registers are read without a pop. -/
theorem readReg_plain (s : State) (c : Nat) {r : Reg} (h : plainReg r) : s.readReg c r = ((s.sq c).reg r, s) := by
  simp only [State.readReg]
  rw [if_neg h.1]

theorem foldl_readReg_plain (s : State) (c : Nat) : ∀ (rs : List Reg) (vs : List Word), (∀ r ∈ rs, plainReg r) →
    rs.foldl (fun (acc : List Word × State) r => let x := acc.2.readReg c r; (acc.1 ++ [x.1], x.2)) (vs, s)
      = (vs ++ rs.map (fun r => (s.sq c).reg r), s) := by
  intro rs
  induction rs with
  | nil => intro vs _; simp
  | cons r rs ih =>
    intro vs h
    simp only [List.foldl_cons, readReg_plain s c (h r (by simp)), List.map_cons]
    rw [ih _ (fun x hx => h x (by simp [hx]))]
    simp

/-- Reading plain sources gives their values and changes nothing. -/
theorem readSrcs_plain (s : State) (c : Nat) (w : Word32) {rs : List Reg} {d : Option Reg}
    (h : ∀ r ∈ rs, plainReg r) (hd : d ≠ some 60) :
    s.readSrcs c w rs d = .ok (rs.map (fun r => (s.sq c).reg r), s) := by
  have h1 : rs.contains 61 = false := by
    rw [Bool.eq_false_iff]; intro hc
    rw [List.contains_iff_mem] at hc
    exact (h _ hc).2 rfl
  have h2 : rs.filter (fun r => r == 60) = [] := by
    rw [List.filter_eq_nil_iff]; intro r hr hc
    exact (h r hr).1 (by simpa using hc)
  have h3 : (d == some 60) = false := by simpa using hd
  simp only [State.readSrcs, h1, h2, h3, Bool.false_or, List.length_nil, bne_self_eq_false, Bool.false_and]
  simp only [Bool.false_eq_true, if_false]
  rw [foldl_readReg_plain s c rs [] h]
  simp

/-- A plain destination never overflows a ring. -/
theorem dstOk_plain (s : State) (c : Nat) {d : Reg} (h : plainReg d) : s.dstOk c d = true := by
  have h1 : ¬ d = 61#6 := h.2
  simp [State.dstOk, h1]

/-- A plain destination is written as a register. -/
theorem writeDst_plain (s : State) (c : Nat) {d : Reg} (h : plainReg d) (v : Word) :
    s.writeDst c d v = s.setSq c ((s.sq c).setReg d v) := by
  simp only [State.writeDst]
  rw [if_neg h.2]

theorem advance_setSq (s : State) (c : Nat) (q : Seq) :
    (s.setSq c q).advance c = s.setSq c { q with pc := q.pc + 4, brkSkip := false } := by
  simp [State.advance, State.setPc]

/-- Writing a register leaves the pc. -/
@[simp] theorem setReg_pc (q : Seq) (r : Reg) (v : Word) : (q.setReg r v).pc = q.pc := by
  simp only [Seq.setReg]; split <;> rfl

/-- What `compute` does on plain registers. -/
theorem compute_plain (s : State) (w : Word32) {rs : List Reg} {d : Reg} (f : List Word → Word)
    (h : ∀ r ∈ rs, plainReg r) (hd : plainReg d) :
    s.compute s.here w rs d f = .ok (wroteReg s d (f (rs.map (srcVal s)))) := by
  have h0 : (some d : Option Reg) ≠ some 60 := by simpa using hd.1
  simp only [State.compute, readSrcs_plain s s.here w h h0, dstOk_plain s s.here hd, if_true, bind, Except.bind]
  rw [writeDst_plain s _ hd, advance_setSq, setReg_pc]
  rfl

/-- A word with two plain sources. -/
theorem runOp_plain (i : Instr) {d a b : Reg} (f : Word → Word → Word) (s : State)
    (hd : plainReg d) (ha : plainReg a) (hb : plainReg b) :
    runOp i d a b f s = .next (wroteReg s d (f (srcVal s a) (srcVal s b))) := by
  have h : ∀ r ∈ [a, b], plainReg r := by simp [ha, hb]
  simp only [runOp, compute_plain s _ _ h hd, State.settle]
  rfl

/-- A word with one plain source. -/
theorem runOp1_plain (i : Instr) {d a : Reg} (f : Word → Word) (s : State) (hd : plainReg d) (ha : plainReg a) :
    runOp1 i d a f s = .next (wroteReg s d (f (srcVal s a))) := by
  have h : ∀ r ∈ [a], plainReg r := by simp [ha]
  simp only [runOp1, compute_plain s _ _ h hd, State.settle]
  rfl

/-- A word without sources. -/
theorem runOp0_plain (i : Instr) {d : Reg} (v : Word) (s : State) (hd : plainReg d) :
    runOp0 i d v s = .next (wroteReg s d v) := by
  have h : ∀ r ∈ ([] : List Reg), plainReg r := by simp
  simp only [runOp0, compute_plain s _ _ h hd, State.settle]

/-- A conditional branch of two plain registers. -/
theorem runBranch_plain (i : Instr) {a b : Reg} (off : BitVec 14) (cond : Word → Word → Bool) (s : State)
    (ha : plainReg a) (hb : plainReg b) :
    runBranch i a b off cond s = .next (wentTo s (if cond (srcVal s a) (srcVal s b) then (seqHere s).pc + branchOff off
      else (seqHere s).pc + 4)) := by
  have h : ∀ r ∈ [a, b], plainReg r := by simp [ha, hb]
  have h0 : (none : Option Reg) ≠ some 60 := by simp
  simp only [runBranch, readSrcs_plain s s.here _ h h0, bind, Except.bind, List.map_cons, List.map_nil, State.settle]
  have e : cond ((s.sq s.here).reg a) ((s.sq s.here).reg b) = cond (srcVal s a) (srcVal s b) := rfl
  rw [e]
  cases cond (srcVal s a) (srcVal s b) <;> rfl

/-- Trap entry with a handler (R314). -/
theorem takeTrap_handler (s : State) (t : Trap) (h : hasHandler s) :
    s.takeTrap s.here t = trapped s t.word t.val (t.retPc (seqHere s).pc) := by
  have h1 : ¬ ((s.sq s.here).inTrap = true ∨ (s.sq s.here).tvec = 0) := by
    have := h.1; have := h.2; simp_all [hasHandler, seqHere]
  simp only [State.takeTrap, if_neg h1]
  rfl

/-- Writing a register changes the registers only. -/
theorem setReg_eq (q : Seq) (r : Reg) (v : Word) :
    q.setReg r v = { q with regs := (q.setReg r v).regs } := by
  simp only [Seq.setReg]; split <;> rfl

/-- The other registers keep their values. -/
theorem reg_setReg_other (q : Seq) {r x : Reg} (v : Word) (h : x ≠ r) : (q.setReg r v).reg x = q.reg x := by
  simp only [Seq.reg, Seq.setReg]
  split
  · rfl
  · split
    · rfl
    · rename_i h1 h2
      have : r.toNat ≠ x.toNat := by intro e; exact h (by exact (BitVec.eq_of_toNat_eq e).symm)
      simp [this]

/-- A register reads as written, and s0 as zero (R302). -/
theorem reg_setReg_same (q : Seq) (r : Reg) (v : Word) : (q.setReg r v).reg r = if r = 0 then 0 else v := by
  simp only [Seq.reg, Seq.setReg]
  split
  · rfl
  · simp

/-- A command with plain registers whose work succeeds. -/
theorem runCmd_plain (i : Instr) {d : Reg} {srcs : List Reg} (f : List Word → State → Except Stop (Word × State)) (s : State)
    (hd : plainReg d) (hs : ∀ r ∈ srcs, plainReg r) {v : Word} {s2 : State} (hf : f (srcs.map (srcVal s)) s = .ok (v, s2)) :
    runCmd i d srcs f s = .next ((s2.setSq s.here ((s2.sq s.here).setReg d v)).advance s.here) := by
  have h0 : (some d : Option Reg) ≠ some 60 := by simpa using hd.1
  have hf' : f (srcs.map (fun r => (s.sq s.here).reg r)) s = .ok (v, s2) := hf
  simp only [runCmd, readSrcs_plain s s.here _ hs h0, bind, Except.bind, dstOk_plain s s.here hd, Bool.not_true,
    Bool.false_eq_true, if_false, hf', State.settle, writeDst_plain s2 _ hd]

/-- A command with plain registers whose work traps. -/
theorem runCmd_trap (i : Instr) {d : Reg} {srcs : List Reg} (f : List Word → State → Except Stop (Word × State)) (s : State)
    (hd : plainReg d) (hs : ∀ r ∈ srcs, plainReg r) (hh : hasHandler s) {t : Trap}
    (hf : f (srcs.map (srcVal s)) s = .error (.trap t s)) :
    runCmd i d srcs f s = .next (trapped s t.word t.val (t.retPc (seqHere s).pc)) := by
  have h0 : (some d : Option Reg) ≠ some 60 := by simpa using hd.1
  have hf' : f (srcs.map (fun r => (s.sq s.here).reg r)) s = .error (.trap t s) := hf
  simp only [runCmd, readSrcs_plain s s.here _ hs h0, bind, Except.bind, dstOk_plain s s.here hd, Bool.not_true,
    Bool.false_eq_true, if_false, stopped, hf', State.settle]
  have h1 : ¬ ((s.sq s.here).inTrap = true ∨ (s.sq s.here).tvec = 0) := by
    have := hh.1; have := hh.2; simp_all [hasHandler, seqHere]
  simp only [State.takeTrap, if_neg h1, trapped, seqHere]

/-- What a command with plain registers leaves when its work touches the sequencer only through its store buffer. -/
theorem answers_of {i : Instr} {d : Reg} {srcs : List Reg} {f : List Word → State → Except Stop (Word × State)} {s : State}
    {v : Word} {s2 : State} {p : State → Prop} {b : List StoreEnt} (he : exec i s = runCmd i d srcs f s)
    (hd : plainReg d) (hs : ∀ r ∈ srcs, plainReg r) (hf : f (srcs.map (srcVal s)) s = .ok (v, s2))
    (hh : s2.here = s.here) (hq : s2.sq s.here = { s.sq s.here with sbuf := b }) (hp : p (wroteReg s2 d v)) :
    answers i s d v p := by
  have e : (s2.setSq s.here ((s2.sq s.here).setReg d v)).advance s.here = wroteReg s2 d v := by
    rw [advance_setSq, setReg_pc]
    simp only [wroteReg, seqHere, hh]
  have hu : seqHere (wroteReg s2 d v) = { (s2.sq s.here).setReg d v with pc := (s2.sq s.here).pc + 4, brkSkip := false } := by
    have : (wroteReg s2 d v).here = s.here := hh
    simp only [seqHere, this]
    simp only [wroteReg, hh, State.sq_setSq_same, seqHere]
  have hr : ∀ x, (seqHere (wroteReg s2 d v)).reg x = ((s2.sq s.here).setReg d v).reg x := by
    intro x; rw [hu]; rfl
  have hr2 : ∀ x, (s2.sq s.here).reg x = (s.sq s.here).reg x := by
    intro x; rw [hq]; rfl
  refine ⟨_, he.trans ((runCmd_plain i f s hd hs hf).trans (congrArg _ e)), ?_, ?_, hp⟩
  · refine ⟨?_, hh, ?_, ?_, ?_, ?_, ?_, ?_⟩
    · rw [hu, hq]; rfl
    · intro r hne
      simp only [srcVal, hr]
      rw [reg_setReg_other _ _ (fun e => hne (by rw [e])), hr2]; rfl
    all_goals (rw [hu, setReg_eq, hq]; rfl)
  · simp only [srcVal, hr, reg_setReg_same]

end Sys2Proof
end

