-- ==== Sys2Proof/Tests/Slice0.lean ====
section
/-! SUPPORT. Tests of the model on small states: example words of the spec, one ill-formed term for each check of WellFormed,
and, for each statement with hypotheses, states and operands that meet them. -/

set_option Elab.async false

namespace Sys2Proof.Tests

open Sys2Proof Sys2Proof.Machine

/-! ### Decoding: words written out from the encoding tables -/

/-- `ADD s3, s4, s5` (R313): major 0x00, d 3, a 4, b 5, function 0x01. -/
theorem test_decode_op : decodeSeq (0b000000#6 ++ 0b000011#6 ++ 0b000100#6 ++ 0b000101#6 ++ 0b00000001#8) = .ok (.add 3 4 5) := by
  decide +kernel

/-- `ADDI s3, s4, -1`: major 0x01, d 3, a 4, imm14 all ones. -/
theorem test_decode_immediate : decodeSeq (0b000001#6 ++ 3#6 ++ 4#6 ++ 0b11111111111111#14) = .ok (.addi 3 4 0x3FFF) := by
  decide +kernel

/-- A shift immediate with imm14[13:6] not zero is refused (R319). -/
theorem test_decode_shift : decodeSeq (5#6 ++ 3#6 ++ 4#6 ++ 0b00000001000000#14) = .error .notZero := by decide +kernel

/-- `LD.w.ACQ.DEV s6, 8(s5)` (R313): major 0x18, d 6, a 5, off8 2, size 2, order 1, scope 2. -/
theorem test_decode_load : decodeSeq (0b011000#6 ++ 6#6 ++ 5#6 ++ 2#8 ++ 0b10#2 ++ 0b01#2 ++ 0b10#2) = .ok (.ld 6 5 2 .w .acq .dev) := by
  decide +kernel

/-- `MFS s7, CLUSTER` (R313): major 0x23, d 7, index 0x001. -/
theorem test_decode_system : decodeSeq (0b100011#6 ++ 7#6 ++ 0#8 ++ 0x001#12) = .ok (.mfs 7 1) := by decide +kernel

/-- `XCMD s4, s5, s6` (R428): major 0x20, command 0x0D. -/
theorem test_decode_engine : decodeSeq (0b100000#6 ++ 4#6 ++ 5#6 ++ 6#6 ++ 0x0D#8) = .ok (.xcmd 4 5 6) := by decide +kernel

/-- `FADD` on FP32 with operands A and B (R153): opcode 0x14, TYPE 1, EN 0b0011. -/
theorem test_decode_pe : decodePe (0x14#7 ++ 0#4 ++ 0#5 ++ 1#4 ++ 0#4 ++ 0#2 ++ 0#2 ++ 0b0011#4) = .ok (.fadd ⟨0, 0, 1, 0, 0, 0, 3⟩) := by
  decide +kernel

/-- `DCMPK A,#0 cond=GE L=8` (R252): opcode 0x4C, MOD 5, TYPE 7. -/
theorem test_decode_digit : decodePe (0x4C#7 ++ 5#4 ++ 0#5 ++ 7#4 ++ 0#4 ++ 0#2 ++ 0#2 ++ 1#4) = .ok (.dcmpk ⟨5, 0, 7, 0, 0, 0, 1⟩) := by
  decide +kernel

/-- `MTTAS A base=0 span=7` (R160): OP 4, SPAN 7, EN A. -/
theorem test_decode_mt : decodeMt (4#4 ++ 0#12 ++ 7#4 ++ 0#4 ++ 0#1 ++ 0#1 ++ 0#2 ++ 1#4) = .ok (.mttas ⟨0, 7, 0, false, 0, 1⟩) := by
  decide +kernel

/-- AGST with operands A and B (R162): OP 1, EN 0b0011. -/
theorem test_decode_ag : decodeAg (1#3 ++ 0#2 ++ 0#4 ++ 0#1 ++ 0#1 ++ 0#3 ++ 0#4 ++ 0#2 ++ 0#2 ++ 0#4 ++ 0#2 ++ 3#4) =
    .ok (.agst ⟨.cl, 0, false, false, 0, 0, 0, 0, 0, 3⟩) := by decide +kernel

/-- MMA with AFMT 0, BFMT 3, RA 2, RB 3 (R165): opcode 0; and MSET of KC with its literal words. -/
theorem test_decode_island : decodeIsland [0#6 ++ 0#4 ++ 3#4 ++ 2#4 ++ 3#4 ++ 0#7 ++ 0#1 ++ 0#2] = .ok (.mma 0 3 2 3 false, []) ∧
    decodeIsland [9#6 ++ 10#6 ++ 0#20, 5, 1] = .ok (.mset 10 0x100000005, []) := by decide +kernel

/-- The step goes on to a state that passes a check. -/
def goesOn (o : Host.Outcome State Fault Refusal) (p : State → Bool) : Bool :=
  match o with
  | .next t => p t
  | _ => false

/-- The table's words: an instruction is placed, and the next step runs it (`ADDI s3, s0, 7`). -/
theorem test_place : decodeTableWord 32 0x00310501 = some (.add 3 4 5) ∧
    goesOn (step (State.reset.withFetchWord 32 0x04300007)) (fun t => (t.sq 0).reg 3 == 7 && (t.sq 0).pc == 0x20004) = true := by
  decide +kernel

/-! ### Well-formedness: each check refuses an ill-formed term -/

/-- PE words whose MOD must be zero (R154, R157, R158). -/
theorem test_illFormed_pe :
    ∀ i ∈ ([Instr.imulh, .peAnd, .peOr, .peXor, .peShl, .peShr, .peSha, .fshl, .fshr, .peClz, .pePopc, .bwid, .sel, .pass, .shuf, .packb,
      .unpkb, .delta, .gate, .steer, .cnt, .mark, .const, .ojoin, .dadd, .dsub, .dmul, .dfma, .ddiv, .dsqrt, .drsq, .dexp, .dlog, .dnorm,
      .dscl, .drelu, .dsel, .dacc].map (fun f => f ⟨1, 0, 0, 0, 0, 0, 1⟩)), i.wellFormed = false := by decide +kernel

/-- MT words: MOD and OSEL (R160, R161). -/
theorem test_illFormed_mt :
    (∀ i ∈ ([Instr.mtrd, .mtwr, .mtring, .mtfifo, .mttas, .mthist, .mtclr].map (fun f => f ⟨0, 0, 1, false, 0, 1⟩)), i.wellFormed = false) ∧
    (∀ i ∈ ([Instr.mtwr, .mtacc, .mtclr].map (fun f => f ⟨0, 0, 0, true, 0, 1⟩)), i.wellFormed = false) := by decide +kernel

/-- AG words: MOD and VCO0 (R162, R163). -/
theorem test_illFormed_ag :
    (∀ i ∈ ([Instr.agld, .agst, .agga, .agsc].map (fun f => f ⟨.cl, 0, false, false, 0, 1, 0, 0, 0, 1⟩)), i.wellFormed = false) ∧
    (∀ i ∈ ([Instr.agst, .agsc, .agpf].map (fun f => f ⟨.cl, 0, false, false, 0, 0, 1, 0, 0, 1⟩)), i.wellFormed = false) := by decide +kernel

/-! ### Witnesses: the sequencer

A witness is named after its statement, or after a part of one: AmberPark, AmberTimers, AmberTransfers and AmberWakes are parts
of Amber; ArrivalBarriers and CopyCompletion of CopyStreams; FirmwareMapping and MapCompletion of FirmwareContexts; Preemption and
ThermalEmergencies of Emergencies; ResidencyEnd and IterationClaims of ResidencyLifetime; StorePerformed of Stores; TokenQueues of
MemoryTiles. -/

/-- Cluster 0's sequencer, and its cluster, as given. -/
def withSeq (q : Seq) : State := State.reset.setSq 0 q
def withCl (k : Cluster) : State := State.reset.setCl 0 k

/-- A task of channel 1 in context 0, with a handler. -/
def busy : Seq := { pc := 0x1000, tvec := 0x2000, task := some { chan := 1 }, taskid := 9 }

/-- `busy` with two registers set. -/
def regsS (x y : Word) : State := withSeq ((busy.setReg 2 x).setReg 3 y)

/-- Memory in which context 0's addresses of the first gibibyte are their own physical addresses. -/
def mapped : State := (State.reset.setSq 0 busy).placeCtx

/-- `mapped` with the address 0x30000 in s2 and 5 in s3. -/
def atData (x : Word) : State := mapped.setSq 0 ((busy.setReg 2 x).setReg 3 5)

theorem plain {r : Reg} (h : r ≠ 60 ∧ r ≠ 61) : plainReg r := h

theorem wit_plain : plainReg 0 ∧ plainReg 1 ∧ plainReg 2 ∧ plainReg 3 ∧ plainReg 63 := by unfold plainReg; decide

theorem wit_handler : hasHandler (withSeq busy) := ⟨rfl, by decide⟩

/-- IntegerOperations: a zero divisor, −2^63 by −1, and neither. -/
theorem wit_IntegerOperations : srcVal (regsS 7 0) 3 = 0 ∧
    (srcVal (regsS 0x8000000000000000 0xFFFFFFFFFFFFFFFF) 2 = 0x8000000000000000 ∧
      srcVal (regsS 0x8000000000000000 0xFFFFFFFFFFFFFFFF) 3 = 0xFFFFFFFFFFFFFFFF) ∧
    (srcVal (regsS 7 2) 3 ≠ 0 ∧ ¬(srcVal (regsS 7 2) 2 = 0x8000000000000000 ∧ srcVal (regsS 7 2) 3 = 0xFFFFFFFFFFFFFFFF)) := by
  decide +kernel

/-- BranchesAndJumps: JALR to an aligned and to a misaligned target. -/
theorem wit_BranchesAndJumps : (srcVal (regsS 8 0) 2 + (0#14).signExtend 64).toNat % 4 = 0 ∧
    (srcVal (regsS 8 0) 2 + (2#14).signExtend 64).toNat % 4 ≠ 0 := by decide +kernel

/-- RingTraps: a word with s61 as a source, one with s60 as its destination, one that pops, one that pushes, without rings. -/
theorem wit_RingTraps : regForm (.addi 1 61 0) = some (1, [61]) ∧ regForm (.addi 60 1 0) = some (60, [1]) ∧
    regForm (.add 1 60 60) = some (1, [60, 60]) ∧ qInEn (bindingHere (withSeq busy)) = false ∧
    regForm (.addi 61 1 0) = some (61, [1]) ∧ qOutEn (bindingHere (withSeq busy)) = false := by decide +kernel

/-- A task whose binding names ring 1 in both directions; the ring holds `n` bytes. -/
def ringS (n : Nat) : State :=
  withCl { seq := { busy with task := some { chan := 1, q := BitVec.ofNat 64 (2 ^ 32 + 2 ^ 36 + 2 ^ 37 + 2 ^ 41) } },
           rings := [(1, { rbase := 0, rsize := 1, slot := 1, en := true, tail := n, fill := n })] }

theorem wit_RingPopPush : qInEn (bindingHere (ringS 8)) = true ∧ (inRing (ringS 8)).en = true ∧ (inRing (ringS 8)).cmask = 0 ∧
    8 ≤ (inRing (ringS 8)).fill ∧ ((ringS 8).cl (ringS 8).here).ringPoison (inRing (ringS 8)) (inRing (ringS 8)).head 8 = false ∧
    qOutEn (bindingHere (ringS 8)) = true ∧ (outRing (ringS 8)).en = true ∧ (outRing (ringS 8)).fill + 8 ≤ (outRing (ringS 8)).size ∧
    ((ringS 8).cl (ringS 8).here).sram.wf = true := by decide +kernel

/-- RingTraps: a ring without enough bytes, and one without room. -/
theorem wit_RingTraps_full : (inRing (ringS 8)).fill < 8 * [60#6, 60#6].count 60 ∧ (outRing (ringS 512)).size < (outRing (ringS 512)).fill + 8 := by
  decide +kernel

/-- RegisterFrame: a register word that goes on. -/
theorem wit_RegisterFrame : regForm (.add 1 2 3) = some (1, [2, 3]) ∧ hasHandler (regsS 7 2) ∧
    goesOn (exec (.add 1 2 3) (regsS 7 2)) (fun t => srcVal t 1 == 9) = true :=
  ⟨rfl, ⟨rfl, by decide +kernel⟩, by decide +kernel⟩

/-- Loads, Stores and Atomics: an address in a bank, one in memory, and their translations. -/
theorem wit_Loads : (∃ s1, passes (atData 0xFFFFFFFFFF000000) (memAddr (atData 0xFFFFFFFFFF000000) 2 0 .d) 8 .read (.bank 0) s1) ∧
    (∃ s1, passes (atData 0x30000) (memAddr (atData 0x30000) 2 0 .w) 4 .read (.mem 0x30000 true) s1) ∧ localAt 0 8 = .bank :=
  ⟨⟨_, rfl, rfl⟩, ⟨_, rfl, rfl⟩, rfl⟩

theorem wit_Loads_registers : (∃ s1, passes (atData 0xFFFFFFFFFF800000) (memAddr (atData 0xFFFFFFFFFF800000) 2 0 .d) 8 .read (.bank 0x800000) s1) ∧
    localAt 0x800000 8 ≠ .bank := ⟨⟨_, rfl, rfl⟩, by decide +kernel⟩

theorem wit_Stores : (∃ s1, passes (atData 0xFFFFFFFFFF000000) (memAddr (atData 0xFFFFFFFFFF000000) 2 0 .d) 8 .write (.bank 0) s1) ∧
    (∃ s1, passes (atData 0x30000) (memAddr (atData 0x30000) 2 0 .w) 4 .write (.mem 0x30000 true) s1) := ⟨⟨_, rfl, rfl⟩, ⟨_, rfl, rfl⟩⟩

theorem wit_Atomics : (∃ s1, passes (atData 0x30000) (srcVal (atData 0x30000) 2).toNat (amoBytes true) .atomic (.mem 0x30000 true) s1 ∧
    s1.poisonedAt 0x30000 = false ∧ ofBytes (s1.mem.bytes 0x30000 8) = (srcVal (atData 0x30000) 0).toNat ∧
    ofBytes (s1.mem.bytes 0x30000 8) ≠ (srcVal (atData 0x30000) 3).toNat) ∧ (seqHere (atData 0x30000)).sbuf = [] :=
  ⟨⟨_, ⟨rfl, rfl⟩, by decide +kernel, by decide +kernel, by decide +kernel⟩, rfl⟩

/-- A store buffer of one entry, whose turn is next. -/
def oneStore : State := { withSeq { busy with sbuf := [{ pa := 0x30000, size := 8, data := 5 }] } with agenda := [.drain 0 0] }

theorem wit_StorePerformed : oneStore.agenda = [.drain 0 0] ∧ oneStore.isDown (dieOf 0) = false ∧
    (oneStore.sq 0).sbuf[0]? = some { pa := 0x30000, size := 8, data := 5 } ∧ mayDrain (oneStore.sq 0).sbuf 0 = true ∧
    oneStore.mem.wf = true := by decide +kernel

theorem wit_Fences : isLocal (srcVal (atData 0xFFFFFFFFFF000000) 2).toNat = true ∧ isLocal (srcVal (atData 0x30000) 2).toNat = false ∧
    (seqHere (atData 0x30000)).sbuf = [] ∧
    ∃ s1, (atData 0x30000).xlatFlush 0 (seqHere (atData 0x30000)).running.ctx (srcVal (atData 0x30000) 2).toNat = (.ok 0x30000 0, s1) :=
  ⟨by decide +kernel, by decide +kernel, rfl, _, rfl⟩

/-- Traps: a task without a handler. -/
theorem wit_Traps : (seqHere (withSeq { busy with tvec := 0 })).tvec = 0 ∧
    (seqHere (withSeq { busy with tvec := 0 })).task = some { chan := 1 } ∧ ((withSeq { busy with tvec := 0 }).cl 0).held = [] ∧
    (withSeq { busy with tvec := 0 }).chanRoom 0 0 = true ∧ (withSeq { busy with tvec := 0 }).savedCtx 0 0 = none := by decide +kernel

/-- TaskControl: inside a trap, and a running task. -/
theorem wit_TaskControl : (seqHere (withSeq { busy with inTrap := true })).inTrap = true ∧
    (seqHere (withSeq busy)).task = some { chan := 1 } ∧ (∀ y ∈ (seqHere (withSeq busy)).yreqs, y.ctx ≠ 0 ∨ y.coop.isSome) := by
  decide +kernel

/-- SystemRegisters: a pending yield of the task's context, and values that the registers accept and refuse. -/
theorem wit_SystemRegisters : (seqHere (withSeq { busy with yreqs := [{ ctx := 0, deadline := 7 }] })).yreqs.find?
      (fun y => y.ctx == 0 && y.coop.isNone) = some { ctx := 0, deadline := 7 } ∧ (0x070#12).toNat ≥ 0x070 ∧
    (srcVal (regsS 8 3) 2).toNat % 4 = 0 ∧ ¬(srcVal (regsS 8 3) 3).toNat % 4 = 0 := by decide +kernel

/-- ModeRegisters: a bank that may become a WAYS bank, and one that waits for its cut. -/
theorem wit_ModeRegisters : ((withSeq busy).cl 0).bankReq.pend = none ∧ fld (0x105#64).toNat 7 6 = 0 ∧ fld (0x105#64).toNat 63 10 = 0 ∧
    fld (0x105#64).toNat 5 0 = 5 ∧ fld (0x105#64).toNat 9 8 = 1 ∧ ((withSeq busy).cl 0).mode 5 = 0 ∧ ((withSeq busy).cl 0).inUse 5 = false ∧
    ((withCl { seq := busy, bankReq := { pend := some (5, 1) } }).cl 0).bankReq.pend = some (5, 1) := by decide +kernel

/-- A bound channel 2 that holds a message; and full channels. -/
def waiting (n : Nat) : State :=
  withCl { chans := [(0, { queue := List.replicate n {} }), (2, { entry := 0x1000, q := BitVec.ofNat 64 (2 ^ 48), queue := List.replicate (min n 32) {} })],
           held := [{ sender := senderPort, chan := 3, m := {} }] }

theorem wit_TasksAndMessages : (seqHere (waiting 1)).task = none ∧ (seqHere (waiting 1)).stopped = none ∧
    (waiting 1).pickChan 0 = some 2 ∧ ((waiting 1).chan 0 2).queue = [{}] ∧ (waiting 1).chanRoom 0 2 = true ∧ (waiting 1).savedCtx 0 2 = none ∧
    (waiting 64).chanRoom 0 2 = false ∧ (waiting 64).chanRoom 0 0 = false ∧ (waiting 1).chanRoom 0 3 = true := by decide +kernel

/-! ### Witnesses: memory, copy engines, channels -/

theorem wit_Translation : mapped.mem.wf = true ∧
    (∃ l s1, mapped.freshWalk (dieOf 0) 0 0 0x30000 .write = (.ok 0x30000 0, some l, s1)) ∧
    (∃ s1, mapped.freshWalk (dieOf 0) 0 1 0x30000 .write = (.bad cInvalid 3, none, s1)) ∧
    inH 0x1000 = true ∧ (0x2FFFFF : Nat) < sramEnd ∧ mapped.chanRoom 0 0 = true ∧ mapped.savedCtx 0 0 = none :=
  ⟨by decide +kernel, ⟨_, _, rfl⟩, ⟨_, rfl⟩, by decide +kernel, by decide, by decide +kernel, rfl⟩

/-- A copy descriptor: kind, spaces, source, destination, ROWBYTES, N1; N2 is 1 and the strides are ROWBYTES. -/
def desc (kind ss ds src dst rb n1 : Nat) : Nat :=
  kind + ss * 2 ^ 4 + ds * 2 ^ 6 + src * 2 ^ 64 + dst * 2 ^ 128 + rb * 2 ^ 192 + n1 * 2 ^ 224 + 2 ^ 256 + (if kind = 3 then 0 else rb <<< 288) + (if kind = 2 then 0 else rb <<< 352)

/-- A cluster whose copy queue 1 holds a command. -/
def copying (d : Nat) (f : CopyCmd → CopyCmd) : Cluster :=
  { seq := busy, cqs := [(1, { ents := [.cmd (f { desc := d, seq := 3, ctx := 0, stamp := 0 })], next := 4 })] }

theorem wit_CopySubmission : ((withSeq busy).cl 0).localDesc 0xFFFFFFFFFF000040 64 64 = some (List.replicate 64 0) ∧
    ((withSeq busy).cl 0).localDesc 0x40 64 64 = none ∧ ((withSeq busy).cl 0).localDesc 0xFFFFFFFFFF000041 64 64 = none ∧
    ((withSeq busy).cl 0).scratch 8 8 = true ∧ isLocal 0xFFFFFFFFFF000008 = true ∧ (∃ i, i < 64 ∧ (1#64).getLsbD i = true ∧ (0 : Nat).testBit i = false) :=
  ⟨by decide +kernel, by decide +kernel, by decide +kernel, by decide +kernel, by decide +kernel, 0, by decide⟩

/-- CPY's descriptor (kind 0) and STRM's (kind 2). -/
theorem wit_CopySubmission_kinds : desc 0 1 1 0 512 32 2 % 16 = 0 ∧ desc 2 1 0 0 0 32 2 % 16 = 2 := by decide +kernel

theorem wit_ChannelCommands : fld (2 ^ 48 + 3 * 2 ^ 42) 45 42 = 3 ∧ bit (2 ^ 48 + 3 * 2 ^ 42) 48 = true ∧ fld (2 ^ 46) 47 46 ≠ 0 ∧
    (qBound ((waiting 1).chan 0 2).q = true ∧ qCtx ((waiting 1).chan 0 2).q ≠ 1) ∧ fld (2 ^ 12) 63 12 ≠ 0 ∧
    ((withSeq busy).cl 0).localDesc 0xFFFFFFFFFF000008 8 32 = some (List.replicate 32 0) ∧ (withSeq busy).saveWritten 0 0 = false := by
  decide +kernel

theorem wit_QueueFences : (withSeq busy).fenceFull 0 1 = false ∧
    (withCl { cqs := [(1, { ents := List.replicate 8 (.marker 0) })] }).fenceFull 0 1 = true ∧
    passMarker (QEnt.isMarker 4) QEnt.isCmd [.marker 5, .marker 4] ≠ none ∧ distinctKeys ((withSeq busy).cl 0).cqs := by
  unfold distinctKeys; decide +kernel

/-- CopyRows: a valid row copy between banks, before and after its start; one whose ROWBYTES is 0; a MASKROWS without rows;
and a stream whose port is in use. -/
theorem wit_CopyRows :
    (copying (desc 0 1 1 0 512 32 2) id).headCmd 1 = some { desc := desc 0 1 1 0 512 32 2, seq := 3, ctx := 0, stamp := 0 } ∧
    (copying (desc 0 1 1 0 512 32 2) id).validate { desc := desc 0 1 1 0 512 32 2, seq := 3, ctx := 0, stamp := 0 } = 0 ∧
    (copying (desc 0 1 1 0 512 0 2) id).validate { desc := desc 0 1 1 0 512 0 2, seq := 3, ctx := 0, stamp := 0 } ≠ 0 ∧
    dSspace (desc 0 1 1 0 512 32 2) = 1 ∧ dDspace (desc 0 1 1 0 512 32 2) = 1 ∧
    (copying (desc 0 1 1 0 512 32 2) (fun c => { c with started := true })).stalls (some 0) 1 0 0 32 = false ∧
    (copying (desc 0 1 1 0 512 32 2) (fun c => { c with started := true })).cutting 0 32 = false := by decide +kernel

/-- CopyRows: reads that fail and writes that fail, in a context without a root. -/
theorem wit_CopyRows_faults :
    let c : CopyCmd := { desc := desc 0 0 1 0x1000 512 32 2, seq := 3, ctx := 5, stamp := 0, started := true }
    let s := withCl (copying c.desc (fun x => { x with ctx := 5, started := true }))
    (∃ f s1, s.copyRead 0 1 c (c.src 0) 32 = some (.error f, s1)) ∧ dKind c.desc = 0 := by
  exact ⟨⟨_, _, rfl⟩, by decide +kernel⟩

/-- CopyStreams: streams into and out of port 3; a barrier slot without a barrier and one that is armed. -/
theorem wit_CopyStreams :
    dKind (desc 2 1 0 0 0 32 2 + 3 * 2 ^ 20) = 2 ∧ dPort (desc 2 1 0 0 0 32 2 + 3 * 2 ^ 20) = 3 ∧
    (copying (desc 2 1 0 0 0 32 2 + 3 * 2 ^ 20) id).fifoOf 3 = none ∧
    ({ copying (desc 2 1 0 0 0 32 2 + 3 * 2 ^ 20) id with
        resids := [(0, { live := true, binds := [{ ag := 3, dirOut := false, path := 1, bank := 0 }] })] } : Cluster).validate { desc := desc 2 1 0 0 0 32 2 + 3 * 2 ^ 20, seq := 3, ctx := 0, stamp := 0 } = 0 ∧
    dKind (desc 3 0 1 0 0 32 2 + 3 * 2 ^ 20) = 3 ∧ dDspace (desc 3 0 1 0 0 32 2) = 1 := by decide +kernel

/-- ArrivalBarriers: a BARSET whose record at 0 expects one arrival, and one whose record is zero; an ARRIVE. -/
theorem wit_ArrivalBarriers :
    let b := 5 + 2 ^ 192 + 2 ^ 224 + 2 ^ 256
    let a := 4 + 2 ^ 192 + 2 ^ 224 + 2 ^ 256
    let k : Cluster := { copying b id with sram := [(0, 1), (5, 1)] }
    k.validate { desc := b, seq := 3, ctx := 0, stamp := 0 } = 0 ∧ fld (ofBytes (k.sram.bytes (dAux b) 32)) 15 0 ≠ 0 ∧
    fld (ofBytes (k.sram.bytes (dAux b) 32)) 53 32 % 8 = 0 ∧ fld (ofBytes ((copying b id).sram.bytes (dAux b) 32)) 15 0 = 0 ∧
    (copying a id).validate { desc := a, seq := 3, ctx := 0, stamp := 0 } = 0 ∧ (copying a id).bars.find 0 = none ∧
    dKind a = 4 ∧ dKind b = 5 := by decide +kernel

/-- CopyCompletion: a chunk that is due; a finished command with and without a chunk map. -/
theorem wit_CopyCompletion :
    let d := desc 0 1 1 0 512 4096 2 + 2 ^ 15 + 0x100 * 2 ^ 416
    ({ desc := d, seq := 3, ctx := 0, stamp := 0, started := true, row := 2 } : CopyCmd).nextDue = some 0 ∧
    dCmen d = true ∧ dBaren d = false ∧ ¬(0x21 ≤ 0 ∧ 0 ≤ 0x25) ∧ dCmen (desc 0 1 1 0 512 32 2) = false := by decide +kernel

/-- ControlStores: a valid ring descriptor, one that is not; a FIFO and a WINDOW bank. -/
theorem wit_ControlStores :
    let v := 2 ^ 63 + 2 ^ 48 + 2 ^ 32
    let k : Cluster := { bankMode := [(5, mFifo), (6, mWindow)] }
    (({} : Cluster).ring 2).en = false ∧
    ({} : Cluster).ringValid 2 { rbase := fld v 21 0, cmask := fld v 25 22, rsize := fld v 44 32, slot := fld v 60 48 } v = true ∧
    ({} : Cluster).ringValid 2 { rbase := 0, cmask := 0, rsize := 0, slot := 1 } (2 ^ 63) = false ∧
    k.mode 5 = mFifo ∧ k.mode 6 = mWindow ∧ k.portBusy 3 = false ∧ (k.stage 3).data = [] := by decide +kernel

/-! ### Witnesses: residencies, launches, leases, power -/

/-- `mapped` with an image of one page and no records at 0x40000, and a RESID descriptor for it at local offset 0. -/
def imaged : State :=
  let s : State := { mapped with mem := mapped.mem.setBytes 0x40000 [0, 0, 0x11, 0, 32, 0, 0, 0] }
  s.setCl 0 { s.cl 0 with sram := [(2, 4)] }

theorem wit_ResidencyLoading : (imaged.cl 0).localDesc 0xFFFFFFFFFF000000 64 64 = some ([0, 0, 4, 0, 0, 0, 0, 0] ++ List.replicate 56 0) ∧
    rdBad 0x40000 = false ∧
    (match (imaged.drainAll 0).readImage 0 0 0x40000 with
      | (.ok m, s1) => m.judge none none == 0 && (s1.cl 0).freeSlot == some 0 && s1.choosePlace 0 m false none none == some (0, []) &&
          m.binds.all (fun b => (s1.cl 0).bindOk m 0 b)
      | _ => false) = true := by decide +kernel

/-- A residency of one page in slot 0, generation 1, with AG 0 running a word with slot P, and stopped. -/
def resident : State :=
  let s : State := { mapped with mem := mapped.mem.setBytes 0x40000 [0, 0, 0x11, 0, 32, 0, 0, 0] }
  s.setCl 0 { s.cl 0 with resids := [(0, { gen := 1, live := true, w := 1, h := 1, pages := [0], ags := [0], gang := some (7, 0) })],
                          ags := [(0, { fg := some { word := 8 }, stopped := true })] }

theorem wit_ResidencyLoading_cfg : resident.liveResid 0 0 0x10 = some 0 ∧ ((resident.cl 0).resident 0).draining = false ∧
    (∀ t ∈ ((resident.cl 0).resident 0).tiles, ((resident.cl 0).tile t).bg = none) ∧
    (match (resident.drainAll 0).readImage 0 0 0x40000 with
      | (.ok m, s1) => m.judge (some (1, 1)) (some (pageTile 0)) == 0 && (s1.cl 0).cfgClash m 0 ((resident.cl 0).resident 0) == 0
      | _ => false) = true := by decide +kernel

theorem wit_ResidencyCommands : resident.liveResid 0 0 (tgHandle 0x10) = some 0 ∧ tgMk 0x10 % 2 = 0 ∧
    tgUnit 0x10 ∈ ((resident.cl 0).resident 0).ags ∧ ((resident.cl 0).ag 0).fg = some { word := 8 } ∧ (8#32).getLsbD 3 = true ∧
    (resident.cl 0).paramLinked 0 = false ∧ ((resident.cl 0).ag 0).params.length < 4 ∧ ((resident.cl 0).ag 0).stopped = true ∧
    ((resident.cl 0).resident 0).gang = some (7, 0) ∧
    (resident.setDie 0 { gangs := [(7, { launch := default, members := [] })] }).gang 0 7 ≠ none ∧
    resident.liveResid 0 0 (tgHandle 0x20) = none := by
  decide +kernel

theorem wit_ResidencyLifetime : ((resident.cl 0).resident 0).movable = false := by decide +kernel

/-- A die whose launch 3 is eligible, waits for nothing and has no member to place. -/
def launching : State :=
  { (State.reset.setDie 0 { launches := [{ (default : Launch) with num := 3, eligible := true }] }) with actor := { die := 0, cl := 0, unit := 293 } }

theorem wit_Launches : ((launching.die 0).launches.find? (fun y => y.num == 3)).isSome = true ∧ (launching.die 0).emerg.phase = .none ∧
    (launching.die 0).hqs = [] ∧ (match launching.tryPlace 0 { (default : Launch) with num := 3, eligible := true } with | some _ => true | none => false) = true ∧
    0 + (7 - 0) * 2000 + 16000 ≤ 30000 ∧ (100#64).toNat % 64 ≠ 0 ∧
    (match State.readWaits 0 0 [] launching with | ([], _) => true | _ => false) = true := by decide +kernel

/-- A packet in memory that asks for one member of one page, and no waits. -/
theorem wit_HostQueues : ((State.reset.die 0).hq 2).en = false ∧ fld (0x401#64).toNat 12 8 = 4 ∧ (0x401#64).getLsbD 0 = true ∧
    ({ ctl := 0x403, base := 0x10000 } : HostQ).en = true ∧ ({ ctl := 0x403, base := 0x10000 } : HostQ).inTierH = true ∧
    bit State.reset.pkg.features 9 = false ∧ inLinkWindow 0x1000 = false := by decide +kernel

/-- A cluster with a lease of codec 1 in slot 1 and a request in slot 2. -/
def leased : State :=
  let s := State.reset.setCl 0 { seq := busy, leases := [(1, { gen := 1, st := .lease, praline := 1 }), (2, { gen := 1, st := .request })] }
  (s.setDie 0 { awakeMax := 12, pralines := [(1, { awake := true, ready := true, holder := some (.slot 0 1) })],
                leaseQ := [{ wake := false, holder := .slot 0 2, kind := 0, prio := 0 }] }).setPkg { features := 32 }

theorem wit_Leases : ((leased.cl 0).lslot 0).st = .free ∧ bit leased.pkg.features 5 = true ∧
    (match (leased.die 0).grant 0 (.slot 0 0) with | some _ => true | none => false) = true ∧
    ((leased.cl 0).lslot 2).st = .request ∧ ((leased.cl 0).lslot 1).st = .lease ∧
    ((leased.cl 0).lslot 1).handle 1 % 8 = 1 ∧ ((leased.die 0).praline 1).awake = true ∧
    (match ({ awakeMax := 0 } : Die).grant 0 (.slot 0 0) with | some _ => true | none => false) = false := by decide +kernel

theorem wit_Power : (∃ x ∈ ({ leased with pkg := { boosts := [{ ctx := 0, die := 0, cl := 0, chan := 0, watts := 100, dur := 5, gen := 0, start := 0, notice := some 0 }] } } : State).pkg.boosts,
      x.ctx = 0) ∧ bit ((leased.setCtx 0 { rights := 1 }).ctx 0).rights 0 = true ∧ (leased.die 0).warning = false ∧
    ((leased.setDie 0 { spineReq := [(3, 2000)] }).die 0).spineReq.find 3 = some 2000 := by decide +kernel

/-! ### Witnesses: the fabric -/

/-- A token of all lanes. -/
def full (v : Word32) (tag m : Nat) : Token := { lanes := List.replicate 16 v, valid := 0xFFFF, tag := tag, mcode := m }

/-- A residency of page 0 whose tile `x` runs a configuration, with tokens at its slots; switch words 0 and 1 take outputs 0 and 1. -/
def fabric (x : Nat) (g : TileCfg) (bufs : Tab (List BufEnt)) : State :=
  let s := State.reset.placeResid
  let k := s.cl 0
  { s.setCl 0 (k.setTile x { fg := some { g with sw := [(0, 0x8000), (1, 0xA000)] }, lk := { bufs := bufs } }) with
    actor := { die := 0, cl := 0, unit := x } }

/-- A PE with a word, tokens in slots A, B, C as listed. -/
def peS (w : Word32) (ts : List Token) : State := fabric 0 { pe := w } ((List.range ts.length).zip (ts.map (fun t => [{ tok := t }])) |>.map (fun e => (16 + 4 * e.1, e.2)))

/-- TYPE 1 (INT32), slots A and B. -/
def fAB : PeF := ⟨0, 0, 1, 0, 0, 0, 3⟩
def fA : PeF := ⟨0, 0, 1, 0, 0, 0, 1⟩
def fABC : PeF := ⟨0, 0, 1, 0, 0, 0, 7⟩

theorem wit_PeIntegers : peFires (peS 0 [full 5 1 0, full 7 1 0]) fAB (formOf [] (some 1) (peHere (peS 0 [full 5 1 0, full 7 1 0]) fAB)) ∧
    peFires (peS 0 [full 5 1 0]) fA (formOf [] none (peHere (peS 0 [full 5 1 0]) fA)) := by
  unfold peFires unitReady unitFree; decide +kernel

theorem wit_PeBits : peFires (peS 0 [full 5 1 0, full 7 1 0]) fAB (formOf [] (some 1) (peHere (peS 0 [full 5 1 0, full 7 1 0]) fAB)) ∧
    peFires (peS 0 [full 5 1 0, full 7 1 0, full 2 1 0]) fABC (formOf [] (some 2) (peHere (peS 0 [full 5 1 0, full 7 1 0, full 2 1 0]) fABC)) ∧
    peFires (peS 0 [full 5 1 0, full 7 1 0, full 2 1 0]) fABC (formOf [2] none (peHere (peS 0 [full 5 1 0, full 7 1 0, full 2 1 0]) fABC)) := by
  unfold peFires unitReady unitFree; decide +kernel

theorem wit_PeFloats : peFires (peS 0 [full 0x3F800000 3 0, full 0x40000000 3 0]) ⟨0, 0, 3, 0, 0, 0, 3⟩
      (formOf [] (some 1) (peHere (peS 0 [full 0x3F800000 3 0, full 0x40000000 3 0]) ⟨0, 0, 3, 0, 0, 0, 3⟩)) ∧
    peFires (peS 0 [full 0x3F800000 3 0, full 0x40000000 3 0, full 0 3 0]) ⟨0, 0, 3, 0, 0, 0, 7⟩
      (formOf [] (some 2) (peHere (peS 0 [full 0x3F800000 3 0, full 0x40000000 3 0, full 0 3 0]) ⟨0, 0, 3, 0, 0, 0, 7⟩)) := by
  unfold peFires unitReady unitFree; decide +kernel

/-- PeMovement: one slot, a raw constant slot, an index slot, a predicate of 1 and of 0 for GATE and STEER, and MERGE. -/
theorem wit_PeMovement_cvt : peFires (peS 0 [full 5 1 1]) fA { used := [0], asIs := true } ∧
    (tileHere (peS 0 [full 5 1 1])).op = {} ∧ (peHere (peS 0 [full 5 1 1]) fA).srcCount (full 5 1 1) = tagCount 1 ∧
    (tileHere (peS 0 [full 5 1 1])).cfgNow.heard 1 = true := by
  unfold peFires unitReady unitFree; decide +kernel

theorem wit_PeMovement_const : peFires (peS 0 [full 5 1 0]) fA (formOf [0] none (peHere (peS 0 [full 5 1 0]) fA)) ∧
    peFires (peS 0 [full 5 1 0, full 1 2 0]) fAB (formOf [1] (some 1) (peHere (peS 0 [full 5 1 0, full 1 2 0]) fAB)) := by
  unfold peFires unitReady unitFree; decide +kernel

theorem wit_PeMovement_gate : peFires (peS 0 [full 5 1 0, full 1 2 0]) fAB (gateForm (peHere (peS 0 [full 5 1 0, full 1 2 0]) fAB)) ∧
    peFires (peS 0 [full 5 1 0, full 0 2 0]) fAB (gateForm (peHere (peS 0 [full 5 1 0, full 0 2 0]) fAB)) := by
  unfold peFires unitReady unitFree; decide +kernel

theorem wit_PeMovement_merge : (peHere (peS 0 [full 5 1 0, full 1 1 0]) fAB).mergeSlot = some 0 ∧
    peFires (peS 0 [full 5 1 0, full 1 1 0]) fAB { used := [0] } := by
  unfold peFires unitReady unitFree; decide +kernel

theorem wit_PeStreams :
    peFires (peS 0 [full 5 1 0]) fA (formOf [] none (peHere (peS 0 [full 5 1 0]) fA)) ∧ (tileHere (peS 0 [full 5 1 0])).op = {} ∧
    (peHere (peS 0 [full 5 1 0]) fA).act = false ∧ (peHere (peS 0 [full 5 1 0]) fA).ty = tagInt32 ∧
    peFires (peS 0 [full 5 2 0, full 8 2 0]) ⟨0, 0, 2, 0, 0, 0, 3⟩ (formOf [1] (some 1) (peHere (peS 0 [full 5 2 0, full 8 2 0]) ⟨0, 0, 2, 0, 0, 0, 3⟩)) ∧
    (full 8 2 0).has 0 = true ∧ tagUint32 ≠ tagInt32 := by
  unfold peFires unitReady unitFree; decide +kernel

/-- A memory tile with a word and tokens. -/
def mtS (ts : List Token) : State :=
  fabric 1 { mts := [(0, 0x00007001)] } ((List.range ts.length).zip (ts.map (fun t => [{ tok := t }])) |>.map (fun e => (16 + 4 * e.1, e.2)))

theorem wit_TableWords : mtFires (mtS [full 5 2 0]) ⟨0, 7, 0, false, 0, 1⟩ ∧ mtFires (mtS [full 5 2 0, full 7 2 0]) ⟨0, 7, 0, false, 0, 3⟩ := by
  unfold mtFires; decide +kernel

theorem wit_TokenQueues : (mtS [full 5 2 0]).cl 0 ≠ {} ∧ unitFree (mtS [full 5 2 0]) := by
  unfold unitFree; decide +kernel

/-- A digit PE whose slot A holds a number that has ended, with its header and digits: 1 in every lane that is valid. -/
def digS (slots : List Nat) (o : OpSt) : State :=
  let n : NumBuf := { valid := 1, lanes := [{ e := 256, digits := [1, 0, 0, 0, 0, 0, 0, 0] }], toks := 2, fin := true }
  let s := peS 0x8000B303 []
  let k := s.cl 0
  s.setCl 0 (k.setTile 0 { k.tile 0 with op := { o with items := slots.map (fun i => (i, [.num n])) } })

/-- L = 8. -/
def fDig (en : BitVec 4) : PeF := ⟨0, 0, 7, 0, 0, 0, en⟩

/-- Every data slot of the numbers of wit_DigitNumbers is enabled or starred. -/
theorem wit_DigitNumbers_given :
    (∀ i ∈ (onlineOp .add [0, 1] (starOf (fDig 3) 1)).data, (peHere (digS [0, 1] {}) (fDig 3)).en i = true ∨ starOf (fDig 3) 1 = some i) ∧
    (∀ i ∈ [0], (peHere (digS [0] {}) (fDig 1)).en i = true) := by
  decide +kernel

theorem wit_DigitNumbers : digReady (digS [0, 1] {}) (fDig 3) (onlineOp .add [0, 1] (starOf (fDig 3) 1)).data ∧
    (tileHere (digS [0, 1] {})).op.picks = [] ∧ (tileHere (digS [0, 1] {})).op.hdrSent = false ∧
    (tileHere (digS [0, 1] { hdrSent := true })).op.hdrSent = true ∧ digReady (digS [0] {}) (fDig 1) [0] := by
  unfold digReady unitReady unitFree
  refine ⟨⟨by decide +kernel, by decide +kernel, by decide +kernel, ?_, by decide +kernel⟩, by decide +kernel, by decide +kernel,
    by decide +kernel, ⟨by decide +kernel, by decide +kernel, by decide +kernel, ?_, by decide +kernel⟩⟩
  · intro i hi
    have h : i = 0 ∨ i = 1 := by
      have : [0, 1].filter (peHere (digS [0, 1] {}) (fDig 3)).en = [0, 1] := by decide +kernel
      have hi' : i ∈ [0, 1] := by rw [← this]; exact hi
      simpa using hi'
    rcases h with rfl | rfl <;> exact ⟨_, rfl, rfl⟩
  · intro i hi
    have h : i = 0 := by
      have : [0].filter (peHere (digS [0] {}) (fDig 1)).en = [0] := by decide +kernel
      have hi' : i ∈ [0] := by rw [← this]; exact hi
      simpa using hi'
    subst h; exact ⟨_, rfl, rfl⟩

theorem wit_DigitSegments : (peHere (digS [0] {}) (fDig 3)).en 0 = true ∧ (tileHere (digS [0] { idTok := some {} })).op.idTok.isSome = true ∧
    (tileHere (digS [] { closing := some .eos })).op.closing = some .eos ∧ unitFree (digS [] { closing := some .eos }) ∧
    (tileHere (digS [] { closing := some .eos })).cfgNow.heard 1 = true := by
  unfold unitFree; decide +kernel

/-- A shape of one level: extent `n`, stride 4, 4-byte elements of UINT32. -/
def shape (n : Nat) : Nat := n * 2 ^ 64 + 4 * 2 ^ 164 + 2 <<< 324 + 2 <<< 334

/-- AG 0 on a round over `n` elements of bank 0, with tokens at its slots. -/
def agS (f : Ag → Ag) (ts : List Token) : State :=
  let s := State.reset.placeResid
  let k := s.cl 0
  { s.setCl 0 (k.setAg 0 (f { fg := some { shape := shape 4 }, phase := .walk, base := 0xFFFFFFFFFF000000, ext := [4, 1, 1, 1, 1],
                              lk := { bufs := (List.range ts.length).zip (ts.map (fun t => [{ tok := t }])) |>.map (fun e => (16 + 4 * e.1, e.2)) } })) with
    actor := { die := 0, cl := 0, unit := 256 } }

def fAg (en : BitVec 4) : AgF := ⟨.cl, 0, false, false, 0, 0, 0, 0, 0, en⟩

theorem wit_AddressLoads : agReady (agS id []) agLd (fAg 0) ∧ (agEnvHere (agS id []) agLd (fAg 0)).port = none ∧
    rowLanes (agHere (agS id [])).ext (agHere (agS id [])).cnt = 0xF ∧ agReady (agS id []) agPf (fAg 0) ∧ (agHere (agS id [])).lk.kept = 0 := by
  unfold agReady; decide +kernel

set_option maxRecDepth 100000 in
theorem wit_AddressLoads_banks (l : Nat) (h : l < 4) : agBanks (agS id []) (agEnvHere (agS id []) agLd (fAg 0)) (agElem (agS id []) agLd (fAg 0) l) := by
  refine ⟨?_, ?_, ?_⟩
  · rcases l with _ | _ | _ | _ | l <;> first | omega | decide +kernel
  · rcases l with _ | _ | _ | _ | l <;> first | omega | decide +kernel
  · intro p
    rcases l with _ | _ | _ | _ | l <;> first | omega | rfl

theorem wit_AddressLoads_sel : agReady (agS id [full 1 2 0]) agSel (fAg 1) ∧
    (agEnvHere (agS id [full 1 2 0]) agSel (fAg 1)).selected (full 1 2 0) 0 = true ∧
    (agEnvHere (agS id [full 0 2 0]) agSel (fAg 1)).selected (full 0 2 0) 0 = false ∧
    ((agHere (agS id [full 1 2 0])).lk.peekSlot 0 ((agHere (agS id [full 1 2 0])).fg.getD {}).cfg).isSome = true := by
  unfold agReady; decide +kernel

theorem wit_AddressStores : agReady (agS id [full 0 1 0, full 7 2 0]) agSt (fAg 3) ∧ agReady (agS id [full 0 1 0]) agGa (fAg 1) ∧
    agReady (agS id [full 0 1 0, full 7 2 0]) agSc (fAg 3) ∧ (agEnvHere (agS id [full 0 1 0]) agGa (fAg 1)).data = [0] ∧
    (agEnvHere (agS id [full 0 1 0, full 7 2 0]) agSc (fAg 3)).data = [0, 1] ∧
    ((agS id [full 0 1 0, full 7 2 0]).cl 0).sram.wf = true ∧ shEsize (shape 4) = 4 := by
  unfold agReady; decide +kernel

theorem wit_AddressStores_amo : agReady (agS id [full 0 1 0, full 7 2 0]) agAmo (fAg 3) ∧ (agHere (agS id [full 0 1 0, full 7 2 0])).base < 2 ^ 64 ∧
    bankBad (agS id [full 0 1 0, full 7 2 0]) [0xFFFFFFFFFF000000] = false := by
  unfold agReady; decide +kernel

/-- AGBT: before its descriptor is read, before its block is resolved, in a block, and owing an order token. -/
theorem wit_AddressStores_blocks :
    agReady (agS id []) agBt (fAg 0) ∧ (agHere (agS id [])).desc = none ∧
    (agHere (agS (fun g => { g with desc := some ⟨0, 0, 0, 16, 16, 12⟩ }) [])).desc = some ⟨0, 0, 0, 16, 16, 12⟩ ∧
    agReady (agS (fun g => { g with desc := some ⟨0, 0, 0, 16, 16, 12⟩, block := some 0xFFFFFFFFFF000000 }) []) agBt (fAg 0) ∧
    (agHere (agS (fun g => { g with owed := [true] }) [])).owed = [true] := by
  unfold agReady; decide +kernel

/-- FabricSwitching: a switch word that finds a token at its source, one whose register holds a token, and a slot word. -/
def switchS (sw : Tab Nat) (lk : Links) : State :=
  let s := State.reset.placeResid
  let k := s.cl 0
  { s.setCl 0 ((k.setTile 0 { fg := some { sw := sw }, lk := lk }).setTile 1 { fg := some {} }) with actor := { die := 0, cl := 0, unit := 0 } }

/-- Word 1 (east) and word 4 (slot A) take input N on channel 0. -/
theorem wit_FabricSwitching :
    let s := switchS [(1, 0)] { bufs := [(0, [{ tok := full 5 1 0 }])] }
    (s.cl 0).isFrozen 0 = false ∧ ((s.cl 0).tile 0).fg.isSome = true ∧ (s.cl 0).takeKills 0 = s.cl 0 ∧
    swCns (((s.cl 0).tile 0).cfgNow.switch 1) = false ∧ swSrc (((s.cl 0).tile 0).cfgNow.switch 1) = 0 := by decide +kernel

theorem wit_FabricSwitching_head :
    ((switchS [(1, 0)] { bufs := [(0, [{ tok := full 5 1 0 }])] }).cl 0).wordHead 0 1 = some (full 5 1 0, []) ∧
    (full 5 1 0).cns = false ∧ recvOf 0 1 = .input 1 3 ∧
    (((switchS [(1, 0)] { outs := [(1, [{ tok := full 5 1 0 }])] }).cl 0).tile 1).lk.room 12 = true ∧
    ((switchS [(1, 0)] { outs := [(1, [{ tok := full 5 1 0 }])] }).cl 0).wordHead 0 1 = none ∧
    ((switchS [(4, 0)] { bufs := [(0, [{ tok := full 5 1 0 }])] }).cl 0).wordHead 0 4 = some (full 5 1 0, []) := by decide +kernel

/-- Kills on their way to a switch word, to an AG's output and to a unit that has left. -/
theorem wit_FabricSwitching_kills :
    ((withCl { wires := [{ unit := 0, port := 1, kseq := 0, mask := 1 }] }).cl 0).wires[0]? = some { unit := 0, port := 1, kseq := 0, mask := 1 } ∧
    ((withCl { wires := [{ unit := 0, port := 1, kseq := 0, mask := 1 }] }).cl 0).holderCfg 0 = 0 ∧
    ({ wires := [{ unit := 0, port := 1, kseq := 0, mask := 1, cfg := 1 }] } : Cluster).holderCfg 0 = 0 ∧
    killUnit 0 0 = some 0 ∧ killUnit 4 3 = none ∧ killUnit 4 0 = some 8 := by decide +kernel

/-! ### Witnesses: islands -/

/-- Island 0 with a program and rings 2 and 3 that hold one slot of 1,024 zero bytes each; ring 4 is open for output. -/
def isleS (f : Isle → Isle) : State :=
  let s := State.reset.placeResid
  let k := s.cl 0
  let r (b : Nat) : Ring := { rbase := b, rsize := 32, slot := 32, cmask := 1, en := true, fill := 16384 }
  { s.setCl 0 ({ k with rings := [(2, r 0), (3, r 0x10000), (4, { rbase := 0x20000, rsize := 64, slot := 8, en := true })] }.setMat 0
      (f { fg := some [0, 0] })) with actor := { die := 0, cl := 0, unit := 288 } }

theorem wit_IslandMatrix_ready : isleReady (isleS id) ∧ (isleHere (isleS id)).regOk rKpos0 7 = true ∧
    (isleHere (isleS id)).regOk 63 7 = false ∧ ringFull (isleS id) 2 1024 ∧ ((isleS id).cl 0).ring 5 = {} := by
  unfold isleReady ringFull; decide +kernel

theorem wit_IslandMatrix : ringFull (isleS id) 2 (operandBytes 8 32) ∧ ringFull (isleS id) 3 (operandBytes 8 32) ∧
    badBlock 8 32 = false ∧ (isleHere (isleS id)).atype = 0 ∧ (isIntCode 8 && isIntCode 8) = false := by
  unfold ringFull; decide +kernel

/-- Integer operands, and a stop for a ring that is not enabled. -/
theorem wit_IslandMatrix_int : (isIntCode 10 && isIntCode 11) = true ∧ (((isleS id).cl 0).ring 5).en = false ∧
    (((isleS id).cl 0).ring 5).ended = false ∧ badBlock 0 7 = true ∧ (isleHere (isleS (fun m => { m with atype := 2 }))).atype = 2 := by decide +kernel

theorem wit_IslandAttention : (isleHere (isleS id)).kf = false ∧ (isleHere (isleS id)).cmulOk = true ∧ (isleHere (isleS id)).vf = false ∧
    (isleHere (isleS id)).held = false ∧ (isleHere (isleS (fun m => { m with skip := true }))).skip = true ∧
    ringFull (isleS id) 2 ((isleHere (isleS id)).rows * 272) ∧ 0 < (isleHere (isleS id)).rows ∧ portFormat 8 = true := by
  unfold ringFull; decide +kernel

/-- A token at port F0 or F1 of the island. -/
theorem wit_IslandAttention_ports :
    (isleHere (isleS (fun m => { m with f0 := { buf := [{ tok := full 0 3 0 }] } }))).portHead 0 = some (full 0 3 0) ∧
    (isleHere (isleS (fun m => { m with f1 := { buf := [{ tok := full 0 3 1 }], got := [some {}] } }))).portHead 1 = some (full 0 3 1) ∧
    (full 0 3 1).mark.any = true ∧ (full 0 3 0).cns = false ∧ (full 0 3 0).isMarker = false := by decide +kernel

theorem wit_IslandOutput : ringOpen (isleS id) 4 ∧ (4 : Nat) ∉ (isleHere (isleS id)).mmaRings ∧
    (let s := isleS (fun m => { m with done := true, pushing := [[1, 2]], pushRing := 4 })
     (isleHere s).pushing = [1, 2] :: [] ∧ (isleHere s).done = true ∧ ((s.cl 0).ring 4).fill + 2 ≤ ((s.cl 0).ring 4).size ∧
     (s.cl 0).sram.wf = true) := by
  unfold ringOpen; decide +kernel

/-! ### Witnesses: praline engines -/

/-- Cluster 0 holds codec 1 in slot 1; its queue holds a command. -/
def pralineS (y : PCmd) (st : SlotSt) : State :=
  let s : State := mapped
  (s.setCl 0 { s.cl 0 with leases := [(1, { gen := 1, st := st, kind := 0, praline := 1, q := [.cmd y] })] }).setDie 0
    { pralines := [(1, { awake := true, ready := true, holder := some (.slot 0 1) })] }

/-- CZIP of one page from 0x30000 to 0x40000, with room for 8,192 bytes. -/
def czipDesc : Nat := 0x30000 * 2 ^ 64 + 0x40000 * 2 ^ 128 + 4096 * 2 ^ 192 + 8192 <<< 320

theorem wit_PralineUnits : pralineHas (pralineS { (default : PCmd) with desc := czipDesc, started := true } .lease) 1 0 1
      { (default : PCmd) with desc := czipDesc, started := true } [] ∧
    pdCmd czipDesc = 0 ∧ pdCmd (czipDesc + 7) = 7 ∧ (default : PCmd).finished = false ∧
    pdBadCmd (2 ^ 15) = true := by
  unfold pralineHas; decide +kernel

theorem wit_PralineUnits_done : (pralineS { (default : PCmd) with finished := true } .lease).slotOf 0 1 = some (0, 1) ∧
    ((pralineS { (default : PCmd) with finished := true } .closing).cl 0).lslot 1 =
      { gen := 1, st := .closing, kind := 0, praline := 1, q := [.cmd { (default : PCmd) with finished := true }] } ∧
    pcmdsOf ([] : List PEnt) = [] := by decide +kernel

/-- A key of 32 bytes and a page of 4,096. -/
theorem wit_PralineTransforms : (List.replicate 32 (0 : Byte)).length = 32 ∧ (List.replicate 4096 (0 : Byte)).length = 4096 :=
  ⟨List.length_replicate, List.length_replicate⟩


/-! ### Witnesses: heat and pre-emption -/

/-- Die 0 in a phase of an emergency, with its clock at `t`. -/
def emergS (e : Emerg) (t : Nat) : State := State.reset.setDie 0 { emerg := e, clock := t }

theorem wit_ThermalEmergencies : ((emergS {} 0).die 0).emerg.phase = .none ∧ (∀ p ∈ (emergS {} 0).pkg.preempts, p.die ≠ 0) ∧
    (emergS {} 0).pkg.boosts = [] ∧ (109#8).toNat < 110 ∧ 110 ≤ (119#8).toNat ∧ (119#8).toNat < 120 ∧ 120 ≤ (120#8).toNat ∧
    ((emergS { phase := .saving } 50000).die 0).emerg.t0 + 50000 ≤ ((emergS { phase := .saving } 50000).die 0).clock ∧
    ((emergS { phase := .saved, last := 5 } 105).die 0).emerg.last + 100 ≤ ((emergS { phase := .saved, last := 5 } 105).die 0).clock ∧
    ((emergS { phase := .selfRefresh } 1000).die 0).emerg.last + 1000 ≤ ((emergS { phase := .selfRefresh } 1000).die 0).clock ∧
    ((emergS { phase := .down, cool := some 7 } 1000007).die 0).emerg.cool = some 7 := by decide +kernel

/-- Context 0 is to be saved from clusters 0 and 1, to `va`; its task runs in cluster 0. -/
def savingS (y : YReq) (snap : List SavedCl) (va : Nat) : State :=
  let s : State := mapped.setSq 0 { busy with yreqs := [y], cycle := 100 }
  s.setPkg { s.pkg with preempts := [{ ctx := 0, die := 0, va := va, cls := [0, 1], snap := snap, cmd := some { mbx := 0, addr := 0x50000 } }] }

theorem wit_Preemption : ((savingS { ctx := 0, deadline := 99 } [] 0).sq 0).yreqOf 0 = some { ctx := 0, deadline := 99 } ∧
    ((savingS { ctx := 0, deadline := 100 } [] 0).sq 0).cycle ≤ 100 ∧
    ((savingS { ctx := 0, deadline := 99 } [] 0).sq 0).task = some { chan := 1 } ∧ (mapped.sq 0).yreqOf 0 = none := by decide +kernel

/-- Cluster 0 may be saved, cluster 1 not yet; and neither may. -/
theorem wit_Preemption_save :
    (savingS { ctx := 0, deadline := 0, coop := some true } [] 0).saveReady 0 0 = true ∧
    (savingS { ctx := 0, deadline := 0, coop := some true } [] 0).saveReady 1 0 = false ∧
    (savingS { ctx := 0, deadline := 0 } [] 0).saveReady 0 0 = false := by decide +kernel

/-- Every cluster has been saved; the image is written, or has nowhere to go. -/
theorem wit_Preemption_image :
    (mapped.writeImage { ctx := 0, die := 0, va := 0x60000, cls := [] }).1 = true ∧
    (mapped.writeImage { ctx := 0, die := 0, va := 2 ^ 60, cls := [] }).1 = false := by decide +kernel

/-! ### Witnesses: the IOD firmware -/

/-- A command block of 256 bytes: opcode and parameters. -/
def blockOf (opc : Nat) (ps : List Nat) : List Byte :=
  let b := toBytes 16 opc ++ ps.flatMap (toBytes 8)
  b ++ List.replicate (256 - b.length) 0

def fwCmd (m : Nat) : FwCmd := { mbx := m, addr := 0x50000 }

/-- A doorbell of mailbox `m` waits, and its block holds a command. -/
def fwOn (s : State) (m opc : Nat) (ps : List Nat) : State :=
  { s with mem := s.mem.setBytes 0x50000 (blockOf opc ps), pkg := { s.pkg with fwq := [fwCmd m] } }

def fwHolds (s : State) (m opc : Nat) (ps : List Nat) : Bool :=
  ((fwOn s m opc ps).fwRead (fwCmd m) 0 256).1 == some (blockOf opc ps) && s.pkg.mapping.isNone &&
  fwOpc (ofBytes ((blockOf opc ps).take 16)) == opc && fwAllowed opc m == some true && !fwHeadBad (ofBytes ((blockOf opc ps).take 16))

theorem asks_of {s : State} {m opc : Nat} {ps : List Nat} (h : fwHolds s m opc ps = true) :
    ∃ s1, fwAsks (fwOn s m opc ps) s1 (fwCmd m) (blockOf opc ps) opc := by
  simp only [fwHolds, Bool.and_eq_true, beq_iff_eq, Option.isNone_iff_eq_none, Bool.not_eq_true'] at h
  obtain ⟨⟨⟨⟨h1, h2⟩, h3⟩, h4⟩, h5⟩ := h
  exact ⟨_, ⟨[], _, rfl, h2, Prod.ext h1 rfl, rfl⟩, h3, h4, h5⟩

theorem wit_FirmwareCommands : fwHolds State.reset 0 1 [] = true ∧ fwHolds State.reset 0 2 [1, 8] = true ∧
    fwHolds State.reset 0 9 [0x60000] = true ∧ fwHolds State.reset 0 10 [0, 8, 0x60000] = true ∧
    fwHolds State.reset 0 12 [0x60000, 64] = true ∧ fwPlain (fwCmd 0) ∧ State.reset.pkg.leaf < 2 ^ 20 ∧
    restZero (blockOf 1 []) 0 = true ∧ restZero (blockOf 1 [5]) 0 = false := by unfold fwPlain; decide +kernel

/-- Refusals: an unknown opcode, reserved header bits, a mailbox that may not send, a block that no memory holds. -/
theorem wit_FirmwareCommands_refused : fwAllowed 0x40 0 = none ∧ fwHeadBad (2 ^ 40) = true ∧ fwAllowed 11 1 = some false ∧
    (State.reset.fwRead { mbx := 0, addr := 0x50001 } 0 256).1 = none ∧
    (∀ e ∈ State.reset.ctxs, e.2.live = false) ∧ (∃ e ∈ mapped.ctxs, e.2.live = true) := by decide +kernel

/-- CTX_CREATE of context 1 with power weight 1 and its root at 0x20000; and a block that is malformed. -/
theorem wit_FirmwareContexts : fwHolds mapped 0 3 [0x10001, 0x20000] = true ∧ ctxPar (blockOf 3 [0x1000001, 0x20001]) = none ∧
    (∃ y, ctxPar (blockOf 3 [0x10001, 0x20000]) = some y ∧ y.ctx = 1 ∧ freshCtx mapped y) :=
  ⟨by decide +kernel, by decide +kernel, _, rfl, rfl, by decide +kernel, by decide +kernel, by decide +kernel, by decide +kernel⟩

theorem wit_FirmwareContexts_live : (∃ y, ctxPar (blockOf 3 [0x10000, 0x20000]) = some y ∧ (mapped.ctx y.ctx).live = true) ∧
    (∃ y, ctxPar (blockOf 3 [0x1010001, 0x20000]) = some y ∧ rightsUnsupported y.rights mapped.pkg.features = true) :=
  ⟨⟨_, rfl, by decide +kernel⟩, _, rfl, by decide +kernel⟩

/-- CTX_DESTROY of context 0 without and with a save, of a dead context, and of one that is ending. -/
theorem wit_FirmwareContexts_end : fwHolds mapped 0 4 [0, 0, 0] = true ∧ fwHolds mapped 0 4 [0, 0x60000, 10] = true ∧
    (mapped.ctx 0).live = true ∧ (mapped.ctx 0).dying = false ∧ mapped.pkg.preempts = [] ∧ (mapped.ctx 1).live = false ∧
    ((mapped.setCtx 0 { mapped.ctx 0 with dying := true }).ctx 0).dying = true ∧ restZero (blockOf 4 [0, 0, 0]) 3 = true := by
  decide +kernel

/-- AMBER_CFG with and without feature 2, POWER_CFG, RESET_DIE. -/
theorem wit_FirmwareContexts_parameters :
    fwHolds (mapped.setPkg { features := 4 }) 0 7 [0, 0, 1, 64] = true ∧ bit (mapped.setPkg { features := 4 }).pkg.features 2 = true ∧
    amberBad (blockOf 7 [0, 0, 1, 64]) = false ∧ amberBad (blockOf 7 [0, 0, 1, 65]) = true ∧ (mapped.amber 0).recs = [] ∧
    fwHolds mapped 0 8 [0, 0x101, 8, 0, 0, 0, 0, 0, 0, 0, 0, 5] = true ∧
    powerBad (blockOf 8 [0, 0x101, 8, 0, 0, 0, 0, 0, 0, 0, 0, 5]) = false ∧ powerBad (blockOf 8 [0, 1, 3]) = true ∧
    fwHolds mapped 0 11 [0, 1] = true ∧ mapped.workClusters 0 0 ≠ [] ∧ mapped.workClusters 1 0 = [] := by decide +kernel

/-- MAP of the page at 0x40000000 in context 0, onto the frame 0x70000, readable; and a misaligned one. -/
theorem wit_FirmwareMapping :
    (match mapPar true (blockOf 5 [0x40000000, 0x70000, 0x1000000000001]) with
      | some y => y.ctx == 0 && y.count == 1 && y.psize == 0 && y.frame == 0x70000 && y.flags == 7 | none => false) = true ∧
    (mapPar true (blockOf 5 [0x40000001, 0x70000, 0x1000000000001])).isNone = true ∧
    fwHolds mapped 0 5 [0x40000000, 0x70000, 0x1000000000001] = true ∧
    (mapPar false (blockOf 6 [0x40000000, 0, 1])).isSome = true ∧ fwHolds mapped 0 6 [0x40000000, 0, 1] = true := by decide +kernel

/-- `mapped` with tables of every level for the address 0x40000000, and for its entry an old leaf or none. -/
def tabled (old : Nat) : State :=
  { mapped with mem := ((mapped.mem.setBytes 0x10008 (toBytes 8 0x20001)).setBytes 0x20000 (toBytes 8 0x21001)).setBytes 0x21000 (toBytes 8 old) }

/-- The walk finds an empty entry, an old one, or a table that does not exist. -/
theorem wit_FirmwareMapping_walk :
    (match State.mapPages 0 0x40000000 0 0x70000 7 true 1 0 (tabled 0) {} with
      | .ok (_, g) => !g.old | .error _ => false) = true ∧
    (match State.toTable true 0x40000000 0 4 (tabled 0) 0 3 with
      | .ok (some t, s2) => t == 0x21000 && !bit (s2.pte t) 0 | _ => false) = true ∧
    (match State.mapPages 0 0x40000000 0 0x70000 7 true 1 0 (tabled 0x70007) {} with
      | .ok (_, g) => g.old | .error _ => false) = true ∧
    (match State.mapPages 1 0x40000000 0 0x70000 7 true 1 0 mapped {} with | .ok _ => false | .error e => e == 4) = true ∧
    (mapped.setPkg { mapping := some { cmd := fwCmd 0, ctx := 0, va := 0, len := 4096, freed := [] } }).pkg.mapping ≠ none := by
  decide +kernel

/-! ### Witnesses: exchange engines, registers and the package -/

/-- Engine 0, queue 0 of die 0 holds a command of context 0. -/
def xS (x : Nat) (started : Bool) : State :=
  mapped.setDie 0 { xqs := [(0, { ents := [.cmd { desc := x, seq := 0, ctx := 0, cl := 0, started := started }] })] }

theorem wit_ExchangeSubmission : ((imaged.cl 0).localDesc 0xFFFFFFFFFF000000 64 64).isSome = true ∧
    xdKind 1 = 1 ∧ xdKind 4 = 4 ∧ bit (2 ^ 8) 8 = true ∧ ((imaged.die 0).xq 0).ents.length = 0 ∧
    (((imaged.setDie 0 { xqs := [(0, { ents := List.replicate 16 (.marker 0 0) })] }).die 0).xq 0).ents.length = 16 := by
  decide +kernel

theorem wit_Exchange : ((xS 1 false).die 0).headX 0 ≠ none ∧ (mapped.die 0).headX 0 = none ∧ xdReserved (2 ^ 4) = true ∧
    xdShape 1 = true ∧ xdShape (1 + 64 <<< 192) = false ∧ xdReserved (1 + 64 <<< 192) = false ∧
    (match (xS (1 + 64 <<< 192) true).engRead (whoX 0 0) 0 0x30000 64 with | (.ok bs, _) => bs.length == 64 | _ => false) = true ∧
    routeEntry 0 = none ∧ routeEntry (64 <<< 128) = some (0, 0, 64, 0) ∧ anyPoison [((0 : Byte), true)] = true := by decide +kernel

/-- Peer requests: a context that lives and one that does not, and an address that translates. -/
theorem wit_Exchange_peers : (mapped.ctx 0).live = true ∧ (mapped.ctx 1).live = false ∧ (0x30000#64).toNat % 8 = 0 ∧
    MemInv mapped ∧ (match mapped.engWrite (whoPeer 0) 0 0x30000 [(1, false)] with | (none, _) => true | _ => false) = true ∧
    (match mapped.engWrite (whoPeer 0) 0 0x300000000000000 [(1, false)] with | (none, _) => false | _ => true) = true := by
  unfold MemInv; decide +kernel

/-- Accesses of the host, of a link and of a sequencer to registers; plain memory, and a hole of the map. -/
theorem wit_HostAndRegisters : inDev 0xF0000000000 = true ∧ inDev 0x1000 = false ∧ (State.reset.mailbox 0).busy = false ∧
    populated 0x1000 = true ∧ populated 0xF0000000000 = true ∧ populated 0xE0000000000 = false ∧
    (0 : Nat) ≠ 293 ∧ (168#8).toNat ≥ 168 ∧ (10#8).toNat ≥ 10 ∧ (19#5).toNat < 20 := by decide +kernel

/-! ### Witnesses: Amber -/

/-- Die 0's Amber with a region of 4 records and record 0 as given. -/
def amberS (r : AmbRec) : State :=
  { (mapped.setPkg { features := 4 }).setDie 0 { amber := { recBase := 0x40000, recCount := 4, recs := [(0, r)], clock := 5000 } } with
    actor := { die := 0, cl := 0, unit := 0 } }

theorem wit_AmberPark : MemInv (amberS {}) ∧ ((amberS {}).arec 0 0).st = 0 ∧ ((amberS { st := 1 }).arec 0 0).st = 1 ∧
    arBad (ofBytes ((amberS {}).mem.bytes 0x40000 64)) = false ∧ (amberS {}).poisonedAt 0x40000 = false ∧
    arBad (2 ^ 120) = true ∧ ((amberS {}).amber 0).recCount ≤ 4 := by unfold MemInv; decide +kernel

/-- A block-table descriptor that Amber reads at the park, and one that it cannot read. -/
theorem wit_AmberPark_table :
    (match (amberS { img := 0x80000 }).amberDesc 0 0 with | (.ok _, _) => true | _ => false) = true ∧
    (match (amberS { img := 2 ^ 60 }).amberDesc 0 0 with | (.ok _, _) => false | _ => true) = true ∧
    (((amberS {}).amber 0).cfg 0).en = false := by decide +kernel

theorem wit_AmberWakes : arToken ((amberS { st := 1 }).arec 0 0).img = (0#32).toNat ∧ ((amberS { st := 1 }).arec 0 0).st = 1 ∧
    ((amberS { st := 2 }).arec 0 0).st = 2 ∧ ((amberS {}).arec 0 0).st = 0 ∧ (amberS { st := 3 }).arec 0 0 = { st := 3 } ∧
    arToken ((amberS { st := 1, img := 1 <<< 64 }).arec 0 0).img ≠ (0#32).toNat := by decide +kernel

/-- A push to the H stack at 0x50000 that waits. -/
def waitingPush : Push := { ctx := 0, cl := 0, top := 0x50000, block := 0, entry := none }

theorem wit_AmberTimers : ((amberS { st := 1, lastExam := 4000, hcMs := 1 }).arec 0 0).lastExam + 1000 ≤ ((amberS {}).amber 0).clock ∧
    ((amberS { st := 1, hcMs := 1 }).arec 0 0).hcMs ≤ (amberS { st := 1, hcMs := 1 }).ageMs 0 0 ∧
    ((amberS { st := 2, pushes := [waitingPush] }).arec 0 0).pushes = [waitingPush] ∧ waitingPush.entry = none ∧
    ((amberS { st := 2, pushes := [waitingPush] }).arec 0 0).undone = [] := by decide +kernel

/-- A resume launch of record 0 that met FULL at 4,000 µs, and its next submission. -/
def refusedLaunch : Resubmit := { rix := 0, ctx := 0, cl := 0, packet := 0, msg := {}, last := 4000 }
def retryS : State := (amberS { st := 3 }).setAmber 0 { (amberS { st := 3 }).amber 0 with retries := [refusedLaunch] }

theorem wit_AmberTimers_retry : (retryS.amber 0).retries.find? (fun y => y.rix == 0) = some refusedLaunch ∧
    refusedLaunch.last + 1000 ≤ (retryS.amber 0).clock ∧
    ∃ st m s1, (retryS.setAmber 0 { retryS.amber 0 with retries := (retryS.amber 0).retries.erase refusedLaunch }).accept 0 refusedLaunch.packet
      (fun z => z == refusedLaunch.ctx) (some refusedLaunch.msg) none = (st, m, s1) :=
  ⟨by decide +kernel, by decide +kernel, _, _, _, rfl⟩

theorem wit_AmberTransfers_due : (amberS { st := 1, dueMs := 1 }).pastDue 0 0 = true ∧ (amberS { st := 1, dueMs := 5 }).pastDue 0 0 = false ∧
    (let k := (({} : Die).setPraline 0 { awake := true, ready := true, holder := some .amber }).setPraline 32 { awake := true, ready := true, holder := some .amber }
     k.amberReady 0 = true ∧ k.amberReady 2 = true) := by decide +kernel

theorem wit_AmberTransfers : ((amberS { st := 1, demHC := some { block := 0, popped := some 1, entry := 0 } }).arec 0 0).demHC ≠ none ∧
    ((amberS { st := 1 }).arec 0 0).demHC = none ∧ (amberS {}).watches.any (fun w => w.die == 0 && w.rix == 0 && w.hit) = false ∧
    ((amberS {}).die 0).amberReady 0 = false ∧
    (match (amberS { st := 1 }).amberGet 0 0 0x30000 4096 with | (.ok bs, _) => bs.length == 4096 | _ => false) = true := by
  decide +kernel

/-! ### Witnesses: residencies, and the whole machine -/

/-- A residency whose AG 0 takes the items, at the iteration record at 0x30000. -/
def claiming : State :=
  resident.setCl 0 { resident.cl 0 with
    resids := [(0, { gen := 1, live := true, w := 1, h := 1, pages := [0], ags := [0], itemAg := some 0, iterva := 0x30000 })],
    ags := [(0, { fg := some { word := 8 } })] }

theorem wit_ResidencyLifetime_claim : ((claiming.cl 0).resident 0).itemAg = some 0 ∧ ((claiming.cl 0).resident 0).frozen = false ∧
    ((claiming.cl 0).ag 0).stopped = false ∧ 3 ∉ ((claiming.cl 0).ag 0).lk.slotEos ∧ ((claiming.cl 0).ag 0).params = [] ∧ MemInv claiming ∧
    (match claiming.translate 0 0 0 0 .atomic 0x30000 with | (.ok pa _, s1) => !s1.poisonedAt pa | _ => false) = true := by
  unfold MemInv; decide +kernel

/-- A movable residency of one page, and a tile that has ended beside one that has not. -/
def movingS : State := mapped.setCl 0 { mapped.cl 0 with
  resids := [(0, { gen := 1, live := true, w := 1, h := 1, pages := [0], movable := true })], pages := [(0, .held 0)],
  tiles := [(0, { fg := some {} }), (1, { bg := some {} })] }

theorem wit_ResidencyLifetime_moves : (movingS.cl 0).canMove 0 = true ∧ (movingS.cl 0).moveFits 0 5 = true ∧
    (movingS.cl 0).tileOwner 0 = some 0 ∧ (movingS.cl 0).tileOwner 1 = some 0 ∧ (movingS.cl 0).isFrozen 0 = false ∧
    ((movingS.cl 0).tile 1).fg.isNone = true ∧ ((movingS.cl 0).tile 1).bg = some {} := by decide +kernel

/-- A sequencer's turn: the word that stands at the pc is fetched. -/
theorem wit_StepRuns : ∃ u, seqTurn (State.reset.withFetchWord 32 0x04300007) 0 [] 0x04300007#32 u :=
  ⟨_, rfl, by decide +kernel, by decide +kernel, _, _, _, _, by decide +kernel, by decide +kernel, rfl, rfl, by decide +kernel⟩

/-- Turns of a fabric unit, of an event and of the store buffer. -/
theorem wit_StepRuns_units : (State.reset.placePe 0x28001003).agenda = [.fire 0 0] ∧ State.reset.isDown 0 = false ∧
    accesses .telemetrySample = true ∧ encode .telemetrySample = [] ∧ oneStore.agenda = [.drain 0 0] := by decide +kernel

/-- Reset meets the invariants, and a step follows a state that does. -/
theorem wit_MemoryCanonical : MemInv State.reset ∧ MemInv (State.reset.withFetchWord 32 0x04300007) ∧
    goesOn (step (State.reset.withFetchWord 32 0x04300007)) (fun t => t.mem.wf) = true := by unfold MemInv; decide +kernel

theorem wit_BanksCanonical : BankInv State.reset := ⟨by simp [State.reset], by simp [State.reset]⟩

/-- Words of the round trip: a well-formed instruction with words of its own. -/
theorem wit_EncodingRoundTrip : (Instr.mset 10 5).wellFormed = true ∧ encode (.mset 10 5) ≠ [] ∧
    decode .island (encode (.mset 10 5)) = .ok (.mset 10 5, []) := by decide +kernel

/-! ### Witnesses of further clauses -/

/-- Cluster 0 with a movable residency at page 5, and a launch of 4 by 3 pages that needs its room. -/
def moveS : State :=
  let s := mapped.setCl 0 { mapped.cl 0 with
    resids := [(0, { gen := 1, live := true, w := 1, h := 1, origin := 5, pages := [5], movable := true })], pages := [(5, .held 0)] }
  { s.setDie 0 { launches := [{ (default : Launch) with num := 3, eligible := true, nmemb := 1, shapes := [4 + 3 * 2 ^ 3] }] } with
    actor := { die := 0, cl := 0, unit := 293 } }

theorem wit_ResidencyLifetime_next : moveS.nextMove 0 = some (0, 0) ∧ (moveS.cl 0).canMove 0 = true ∧ (moveS.cl 0).moveFits 0 0 = true ∧
    movingS.nextMove 0 = none := by decide +kernel

/-- CopyStart: a command that its engine picks, one that it does not, and one that is held by an older one. -/
theorem wit_CopyRows_picked :
    let x : CopyCmd := { desc := desc 0 1 1 0 512 32 2, seq := 3, ctx := 0, stamp := 0 }
    let older : CopyCmd := { desc := desc 0 1 1 0 0x1000 32 2, seq := 2, ctx := 0, stamp := 0, started := true }
    let k := copying x.desc id
    let held := desc 0 1 1 0 512 4096 2 + 2 ^ 15 + 0x1008 * 2 ^ 416
    (withCl k).mayDispatch 0 1 = true ∧ (withCl { k with cqs := (0, { ents := [.cmd x] }) :: k.cqs }).mayDispatch 0 1 = false ∧
    (withCl k).saveWritten 0 0 = false ∧
    ({ k with cqs := (0, { ents := [.cmd older] }) :: k.cqs } : Cluster).startStalls { x with desc := held, stamp := 1 } = true := by decide +kernel

/-- CopyCompletion: a chunk bit that nothing holds, and no other head that arrives at the slot; an arrival that has been counted. -/
theorem wit_CopyCompletion_alone :
    let k := copying (4 + 2 ^ 192 + 2 ^ 224 + 2 ^ 256) id
    (∀ p < 8, p ≠ 1 → k.headCmd p = none) ∧
    k.ctlStalls { desc := 0, seq := 3, ctx := 0, stamp := 0 } 0x100 1 = false ∧
    (k.headCmd 1).map CopyCmd.arrived = some false := by decide +kernel

/-- TaskControl and Preemption: no pending load; MessagePosting: a held message and a channel without room. -/
theorem wit_pending : (withSeq busy).sq 0 = busy ∧ busy.loads = [] ∧
    ((savingS { ctx := 0, deadline := 99 } [] 0).sq 0).loads = [] ∧ (((waiting 64).cl 0).held.map Held.chan) = [3] ∧
    ((waiting 1).cl 1).held = [] := by decide +kernel

/-- TokenQueues: a marker that STRIP takes away; DigitArithmetic: lanes that the header has decided. -/
theorem wit_TokenQueues_drops : (tileHere (mtS [full 5 2 0])).sending = false ∧
    digKept (digS [0, 1] { hdrSent := true, picks := [(0, (LaneRes.num 3 0).pickCode)] }) 0 = some (.num 3 0) ∧
    digKept (digS [0, 1] { hdrSent := true, picks := [(0, (LaneRes.pick 1).pickCode)] }) 0 = some (.pick 1) := by
  decide +kernel

/-- BlockLoads: a table that no copy holds; FabricSwitching: a run its word may carry, and a channel without an earlier stream. -/
theorem wit_AddressStores_free : ((agS id []).cl (agS id []).here).stalls none 0 0 0x30000 32 = false ∧
    runAllowed 0 0 (full 5 1 0) = true ∧
    (((switchS [(1, 0)] { outs := [(1, [{ tok := full 5 1 0 }])] }).cl 0).tile 1).inVc.contains 12 = false := by decide +kernel

/-- IslandScores: a query buffer wide enough, and one that is too short. -/
theorem wit_IslandAttention_held :
    let m := isleHere (isleS (fun m => { m with dreg := m.dreg.put rQhold 1, qbuf := some (List.replicate 1024 0, []) }))
    let z := isleHere (isleS (fun m => { m with dreg := m.dreg.put rQhold 1, qbuf := some (List.replicate 8 0, []) }))
    operandBytes 8 32 ≤ (m.qbuf.map (fun b => b.1.length)).getD 0 ∧ ¬operandBytes 8 32 ≤ (z.qbuf.map (fun b => b.1.length)).getD 0 ∧
    m.held = true ∧ z.held = true ∧ z.kf = false := by decide +kernel

/-- ControlStores: an enabled WINDOW bank that takes another port. -/
theorem wit_ControlStores_window :
    let k : Cluster := { bankMode := [(6, mWindow)], bankQs := [(6, { en := true, port := 2 })] }
    (k.bq 6).en = true ∧ bit (2 ^ 63 + 3) 63 = true ∧
    ∀ e ∈ k.bankQs, ¬(e.1 ≠ 6 ∧ k.mode e.1 = mWindow ∧ e.2.en = true ∧ e.2.port = 3) := by decide +kernel

/-- HostQueues: a link packet whose context is live but may not be named by the link, and one whose context is not live. -/
theorem wit_HostQueues_links : (mapped.ctx 0).live = true ∧ mapped.peerNamed 0 0 0 = false ∧ (mapped.ctx 1).live = false ∧
    bit (mapped.setPkg { features := 512 }).pkg.features 9 = true := by decide +kernel

/-! ### Witnesses of the forms that statements cover beside the plain ones -/

/-- RingPopPush: two pops, a ring word that carries a mark, and a store and a load beside rings. -/
def ringM (n : Nat) (x : Word) : State :=
  mapped.setCl 0 { (ringS n).cl 0 with seq := ((ringS n).cl 0).seq.setReg 2 x }

theorem wit_RingPopPush_two : 8 * 2 ≤ (inRing (ringS 16)).fill ∧
    ((ringS 16).cl 0).ringPoison (inRing (ringS 16)) (inRing (ringS 16)).head 16 = false ∧
    (let s := (ringS 8).setCl 0 { (ringS 8).cl 0 with sramPoison := [0] }
     (s.cl 0).ringPoison (inRing s) (inRing s).head 8 = true ∧ 8 ≤ (inRing s).fill) ∧
    qInRing (bindingHere (ringS 8)) = qOutRing (bindingHere (ringS 8)) ∧ opWords ≠ [] := by decide +kernel

theorem wit_RingPopPush_memory :
    (∃ s1, passes (ringM 8 0x30000) (memAddr (ringM 8 0x30000) 2 0 .d) 8 .read (.mem 0x30000 true) s1 ∧ (s1.cl s1.here).sram.wf = true) ∧
    (∃ s1, passes (ringM 8 0x30000) (memAddr (ringM 8 0x30000) 2 0 .d) 8 .write (.mem 0x30000 true) s1 ∧ (s1.cl s1.here).sram.wf = true) ∧
    (∃ s1, passes (ringM 8 0xFFFFFFFFFF000040) (memAddr (ringM 8 0xFFFFFFFFFF000040) 2 0 .d) 8 .write (.bank 0x40) s1) ∧
    localAt 0x40 8 = .bank :=
  ⟨⟨_, ⟨rfl, rfl⟩, by decide +kernel⟩, ⟨_, ⟨rfl, rfl⟩, by decide +kernel⟩, ⟨_, rfl, rfl⟩, rfl⟩

/-- Atomics: a bank word, with and without a mark, and a poisoned word of memory. -/
theorem wit_Atomics_banks :
    (∃ s1, passes (atData 0xFFFFFFFFFF000000) (srcVal (atData 0xFFFFFFFFFF000000) 2).toNat (amoBytes true) .atomic (.bank 0) s1) ∧
    ((atData 0xFFFFFFFFFF000000).cl 0).poisoned 0 8 = false ∧ ({ sramPoison := [0] } : Cluster).poisoned 0 8 = true ∧
    (({ atData 0x30000 with poison := [0x30000 / 32] } : State).settleOwn 0 0x30000 8).poisonedAt 0x30000 = true ∧
    ((atData 0x30000).settleOwn 0 0x30000 8).poisonedAt 0x30000 = false :=
  ⟨⟨_, rfl, rfl⟩, by decide +kernel, by decide +kernel, by decide +kernel, by decide +kernel⟩

/-- SystemReads and SystemWrites: a bank request and banks of legal modes, and numbers that are not allocated. -/
theorem wit_SystemRegisters_numbers : ((withSeq busy).cl 0).bankReq.bank < 64 ∧ ((withSeq busy).cl 0).bankReq.mode < 4 ∧
    ((withSeq busy).cl 0).bankReq.bstat < 16 ∧
    ¬((0x01F#12).toNat < 0x00D ∨ (0x01F#12) = 0x010 ∨ (0x020 ≤ (0x01F#12).toNat ∧ (0x01F#12).toNat < 0x023) ∨
      (0x040 ≤ (0x01F#12).toNat ∧ (0x01F#12).toNat < 0x070)) ∧ (0x021#12).toNat ∉ [4, 8, 9, 11, 12, 0x010, 0x020] := by decide +kernel

theorem wit_SystemRegisters_modes (b : Nat) : ((withSeq busy).cl 0).mode b < 4 := by
  have : ((withSeq busy).cl 0).mode b = 0 := rfl
  omega

/-- Words with a descriptor in a bank that changes its mode, and in one that does not. -/
def cutS : State := withCl { seq := busy, bankReq := { pend := some (0, 2) } }

theorem wit_descriptors : cutS.descCut 0xFFFFFFFFFF000000 64 = true ∧ (withSeq busy).descCut 0xFFFFFFFFFF000000 64 = false ∧
    imaged.descCut 0xFFFFFFFFFF000000 64 = false ∧ leased.descCut 0xFFFFFFFFFF000000 64 = false := by decide +kernel

/-- `imaged` with a task that launch 7 started, whose gang has a member of one page on cluster 0, and page 0 reserved for it. -/
def gangS : State :=
  let s := imaged.setSq 0 { imaged.sq 0 with task := some { chan := 1, launch := some 7 } }
  (s.setCl 0 { s.cl 0 with pages := [(0, .reserved 7 0)] }).setDie 0
    { gangs := [(7, { launch := default, members := [{ cl := 0, page := 0, w := 1, h := 1, imask := 0 }] })] }

theorem wit_ResidencyLoading_gang :
    (match (gangS.drainAll 0).readImage 0 0 0x40000 with
      | (.ok m, s1) =>
        let claim := s1.claimOf 0 (some 7) m
        claim.isSome && (s1.sq 0).running.launch == some 7 && s1.choosePlace 0 m true claim (some 7) == some (0, []) &&
          (s1.cl 0).touched 7 ((rectPages 0 m.w m.h).getD []) m.islands == [0]
      | _ => false) = true ∧
    rdGv (0x40000 + 2 ^ 160) = true ∧ rdGang (0x40000 + 2 ^ 160) = 0 ∧ rdBad (0x40000 + 2 ^ 160) = false ∧ gangS.here = 0 ∧
    rdIter (0x40000 + 0x30000 <<< 192) ≠ 0 ∧ rdBad (0x40000 + 1 <<< 161) = true := by decide +kernel

/-- RESID without a slot, without a place, and with an item AG: an image with an AG record whose word has slot P. -/
theorem wit_ResidencyLoading_refused :
    ({ resids := (List.range 16).map (fun i => (i, { live := true })) } : Cluster).freeSlot = none ∧
    (match (imaged.drainAll 0).readImage 0 0 0x40000 with
      | (.ok m, s1) =>
        ((s1.setCl 0 { s1.cl 0 with pages := (List.range 16).map (fun p => (p, .held 9)) }).choosePlace 0 m false none none).isNone &&
          (m.itemAg 0).isNone && (s1.claimOf 0 none m).isNone
      | _ => false) = true := by decide +kernel

/-- ResidencyEnd: the last tile of a residency of one page that has ended. -/
def endingS : State :=
  { mapped.setCl 0 { mapped.cl 0 with
      resids := [(0, { gen := 1, live := true, w := 1, h := 1, pages := [0], emsg := true, echan := 3 })], pages := [(0, .held 0)],
      tiles := [(0, { fg := some {} })] } with actor := { die := 0, cl := 0, unit := 0 } }

theorem wit_ResidencyEnd : (endingS.cl 0).tileOwner 0 = some 0 ∧ ((endingS.cl 0).tile 0).unitEnded = true ∧
    ((endingS.cl 0).tile 0).switchesEnded = true ∧ (∀ z ∈ tilesOfPage (pageOfTile 0), z ≠ 0 → ((endingS.cl 0).tile z).idle = true) ∧
    ((endingS.cl 0).resident 0).pages = [pageOfTile 0] ∧ endingS.chanRoom 0 3 = true ∧ (endingS.cl 0).held = [] ∧
    endingS.savedCtx 0 3 = none := by decide +kernel

/-- ResidencyEnd: a firing of MTCLR that takes the census of its residency from 1 to 0. -/
def censusS : State :=
  let s := mtS [{ full 5 2 0 with cns := true }]
  let k := s.cl 0
  s.setCl 0 { k with resids := k.resids.put 1 { k.resident 1 with census := 1 } }

theorem wit_ResidencyEnd_census : mtFires censusS ⟨0, 7, 0, false, 0, 1⟩ ∧ (censusS.cl 0).tileOwner 1 = some 1 ∧
    (tileHere censusS).op = {} ∧ ((censusS.cl 0).resident 1).census = 1 ∧
    (tileHere censusS).lk.kept + ((mtToks censusS ⟨0, 7, 0, false, 0, 1⟩).map (fun t => b2n t.cns)).sum = 1 := by
  unfold mtFires; decide +kernel

/-- IterationClaims: no copy writes the record, and one does. -/
theorem wit_ResidencyLifetime_stalls : (claiming.cl 0).stalls none 0 0 0x30000 8 = false ∧
    (withCl { cqs := [(1, { ents := [.cmd { desc := desc 0 1 0 0 0x30000 32 2, seq := 3, ctx := 0, stamp := 0, started := true }] })] } |>.cl 0).stalls
      none 0 0 0x30000 8 = true := by decide +kernel

/-- AddressStores: an AG that reaches global memory with one lane. -/
def agG (ts : List Token) : State :=
  agS (fun g => { g with base := 0x30000, ext := [1, 1, 1, 1, 1] }) ts

/-- A token of lane 0. -/
def one (v tag : Nat) : Token := { full v tag 0 with valid := 1 }

theorem wit_AddressStores_global :
    agReady (agG [one 0 1, one 7 2]) agSt (fAg 2) ∧ agReady (agG [one 0 1]) agGa (fAg 1) ∧ agReady (agG [one 0 1, one 7 2]) agAmo (fAg 3) ∧
    (agEnvHere (agG [one 0 1, one 7 2]) agSt (fAg 2)).port = none ∧ rowLanes (agHere (agG [])).ext (agHere (agG [])).cnt = 1 ∧
    (∀ x ∈ agElem (agG [one 0 1, one 7 2]) agSt (fAg 2) 0, isLocal x = false ∧ ((agG []).cl 0).stalls none 0 0 x 1 = false) ∧
    agElem (agG [one 0 1, one 7 2]) agSt (fAg 2) 0 ≠ [] ∧
    (match (agG [one 0 1]).agRead (agEnvHere (agG [one 0 1]) agGa (fAg 1)) [0x30000, 0x30001, 0x30002, 0x30003] with
      | (.ok _, _) => true | _ => false) = true ∧
    (match (agG [one 0 1]).agAtomic (agEnvHere (agG [one 0 1]) agAmo (fAg 3)) 0x30000 7 with | (.ok _, _) => true | _ => false) = true := by
  unfold agReady; decide +kernel

theorem wit_AddressStores_writes : ∃ (z1 : State) (pa mt : Nat),
    (agG []).translate (agEnvHere (agG []) agSt (fAg 2)).who.owner (agEnvHere (agG []) agSt (fAg 2)).who.die
      (agEnvHere (agG []) agSt (fAg 2)).who.mcl (agEnvHere (agG []) agSt (fAg 2)).ctx .write 0x30000 = (.ok pa mt, z1) ∧ mt ≠ 2 ∧
    z1.mem.wf = true ∧ z1.poisonedAt pa = false := ⟨_, _, _, rfl, by decide +kernel, by decide +kernel, by decide +kernel⟩

/-- Islands: the last cycle of a word of many and the cycles before it; a dead tile is none where KILLT is 255. -/
theorem wit_IslandMatrix_cycles : ¬isleLast (isleS id) 2 ∧ isleLast (isleS (fun m => { m with cyc := 1 })) 2 ∧ isleLast (isleS id) 1 ∧
    isleReady (isleS (fun m => { m with cyc := 1 })) := by unfold isleLast isleReady; decide +kernel

/-- StepRuns: events that may come once the package has started, and one that may not before. -/
theorem wit_StepRuns_open : opensAt {} .telemetrySample ≤ State.reset.pkg.startup ∧ opensAt {} .powerUp ≤ 0 ∧
    (State.reset.setPkg { startup := 3 }).isDown 0 = true := by decide +kernel

/-- LifetimeLog: a package between two steps of its start-up; a valid bank and one that is not. -/
theorem wit_HostAndRegisters_startup : 1 ≤ ({ startup := 3 } : Package).startup ∧ ({ startup := 3 } : Package).startup < 8 ∧
    State.reset.pkg.startup = 8 ∧ lmsVerified [0] = false ∧ State.reset.pkg.logDue ≤ (State.reset.setPkg { clock := State.reset.pkg.logDue }).pkg.clock := by
  decide +kernel

/-- Exchange: an A2A that has sent its last entry and signals one package that no map names; its SIGRVA is not 0. -/
theorem wit_Exchange_signals :
    let y : XCmd := { desc := 1 <<< 192 + 0x30000 <<< 256, seq := 0, ctx := 0, cl := 0, started := true, entry := 1 }
    xdLen y.desc ≤ y.entry ∧ xdSigRva y.desc ≠ 0 ∧ xdShape y.desc = false ∧ xdReserved y.desc = false ∧
    (match State.signals 0 0 y [] mapped with | (none, _) => true | _ => false) = true ∧
    (match mapped.signal 0 0 y 5 0x30000 with | (some _, _) => true | _ => false) = true := by decide +kernel


/-- AmberWakes and AmberTransfers: a record of one block whose entry stands at `e` and reads `x`. -/
def inC (st e x : Nat) : State :=
  let s := amberS { st := st, len := 16, lenMax := 16, tab := some { entries := e, hpool := 0x200000, cpool := 0x300000, len := 16, bshift := 12, tshift := 8 } }
  { s with mem := s.mem.setBytes 0x30000 (toBytes 4 x) }

theorem wit_AmberWakes_marks :
    (match (inC 1 0x30000 (2 ^ 31 + 2 ^ 28 + 5)).markPending 0 0 0 with | (.put, _) => true | _ => false) = true ∧
    (match (inC 1 (2 ^ 60) 0).markPending 0 0 0 with | (.failed, _) => true | _ => false) = true ∧
    ((inC 1 0x30000 0).arec 0 0).n = 1 := by decide +kernel

/-- AmberWakes: an entry in C that DROP makes invalid. -/
theorem wit_AmberWakes_drop :
    (match (inC 1 0x30000 (2 ^ 31 + 2 ^ 28 + 5)).accGet (Undone.acc ⟨0, 0, 0, 0, 0x30000, false⟩) 0 0x30000 4 with
      | (.ok bs, u1) => enValid (ofBytes bs) && enState (ofBytes bs) == 1 &&
        (match u1.accCas (Undone.acc ⟨0, 0, 0, 0, 0x30000, false⟩) 0 0 0 0x30000 (ofBytes bs) (2 ^ 28) with | (.done, _) => true | _ => false)
      | _ => false) = true := by decide +kernel

/-- AmberTransfers: a promotion whose extent Amber does not hold. -/
theorem wit_AmberTransfers_absent :
    (match (inC 2 0x30000 0).readExtent 0 0 0 4096 with | .absent => true | _ => false) = true ∧
    (match (inC 2 0x30000 0).amberPut 0 0 0x200000 (List.replicate 4096 (0, true)) with | (none, _) => true | _ => false) = true := by
  decide +kernel

/-- LaunchSubmission and HostQueues: a packet of one member of one page for context 0, whose shape list stands at 0x30000. -/
def packet : Nat := 0x1000 + 2 ^ 80 + 0x30000 <<< 128

def shapedS : State := { mapped with mem := mapped.mem.setBytes 0x30000 [9] }

theorem wit_Launches_packet : lpBad packet = false ∧ lpCtx packet = 0 ∧ (shapedS.ctx 0).live = true ∧ lpPrio packet ≤ (shapedS.ctx 0).maxprio ∧
    (match shapedS.engRead (whoLaunch 0) 0 (lpShapeva packet) 8 with
      | (.ok es, s2) =>
        (match launchOf packet (Machine.plain es) (s2.die 0).nextLaunch {} none with
          | some l => !anyPoison es && placeTest ((List.range 1).map l.shape) (List.replicate 40 {})
          | none => false) &&
        !(bit (s2.ctx 0).rights 1 && s2.peerNamed 0 0 0)
      | _ => false) = true ∧ lpBad (packet + 2 ^ 79) = true := by decide +kernel

/-- StepRuns, TaskControl: a fetched word that cannot be decoded, in a state whose loads have completed. -/
theorem wit_StepRuns_illegal : (match decodeSeq 0xFFFFFFFF#32 with | .ok _ => false | .error _ => true) = true ∧
    (State.reset.withFetchWord 32 0x04300007).settleLoads 0 = State.reset.withFetchWord 32 0x04300007 := by decide +kernel

/-- MapCompletion waits for pending loads and stores; FirmwareMapping: a command block in plain memory. -/
theorem wit_FirmwareMapping_plain : fwPlain (fwCmd 0) ∧ mapped.mem.wf = true ∧ (fwOn mapped 0 5 [0x40000000, 0x70000, 0x1000000000001]).mem.wf = true := by
  unfold fwPlain; decide +kernel

/-- CopyStreams: an output stream whose write fails. -/
theorem wit_CopyStreams_fails :
    let c : CopyCmd := { desc := desc 3 0 0 0 0x1000 32 2 + 3 * 2 ^ 20, seq := 3, ctx := 5, stamp := 0, started := true }
    let s := withCl { copying c.desc (fun x => { x with ctx := 5, started := true }) with stages := [(3, { data := List.replicate 32 (1, false) })] }
    dKind c.desc = 3 ∧ ((s.cl 0).stage 3).data ≠ [] ∧ dPort c.desc = 3 ∧
    (match s.copyWrite 0 1 c 0x1000 (List.replicate 32 (1, false)) with | some (some _, _) => true | _ => false) = true := by decide +kernel

end Sys2Proof.Tests
end

section
/-! SUPPORT. The device registers, the host's accesses and the lifetime log: what each shared operation leaves, and the
statement about them. -/

namespace Sys2Proof.Machine

/-! ### Posted writes -/

theorem State.posted_frame (s : State) : SameButCopies s s.posted := by
  unfold State.posted
  split
  · exact deliverKnown_frame s _ _ _
  · exact SameButCopies.refl s

theorem State.posted_of_not_host {s : State} (h : s.actor.unit ≠ 293) : s.posted = s := if_neg h

/-! ### Who writes a register -/

theorem exec_registerWrite_outside {s : State} {pa : BitVec 48} (v : BitVec 64) (h : inDev pa.toNat = false) :
    exec (.registerWrite pa v) s = .next s := by
  change execRegisterWrite pa v s = _
  simp [execRegisterWrite, h]

theorem exec_registerWrite_host {s : State} {pa : BitVec 48} (v : BitVec 64) (hu : s.actor.unit = 293)
    (h : inDev pa.toNat = true) : exec (.registerWrite pa v) s = .next (s.posted.deviceWrite .host pa.toNat v) := by
  change execRegisterWrite pa v s = _
  simp [execRegisterWrite, h, hu]

theorem exec_registerWrite_link {s : State} {pa : BitVec 48} (v : BitVec 64) (hu : s.actor.unit = 294)
    (h : inDev pa.toNat = true) :
    exec (.registerWrite pa v) s = .next (s.deviceWrite (.link s.actor.cl) pa.toNat v) := by
  change execRegisterWrite pa v s = _
  simp [execRegisterWrite, h, hu, State.posted]

theorem exec_registerWrite_seq {s : State} {pa : BitVec 48} (v : BitVec 64) (hu : s.actor.unit ≠ 293 ∧ s.actor.unit ≠ 294)
    (h : inDev pa.toNat = true) :
    exec (.registerWrite pa v) s = .next (s.deviceWrite (.seq s.here (seqHere s).running.ctx) pa.toNat v) := by
  change execRegisterWrite pa v s = _
  simp [execRegisterWrite, h, hu, State.posted, seqHere]

/-! ### Which register stands at an address (R10) -/

theorem inDev_of_range {pa : Nat} (h : 0xF0000000000 ≤ pa ∧ pa < 0xF0100000000) : inDev pa = true := by
  simp [inDev, h]

theorem devAt_window {base pa d off : Nat} (hd : d < 4) (ho : off < 0x100000) (h : pa = base + 0x100000 * d + off) :
    devAt base pa = some (d, off) := by
  have hin : base ≤ pa ∧ pa < base + 0x400000 := by omega
  have hdie : (pa - base) / 0x100000 = d := by omega
  have hoff : (pa - base) % 0x100000 = off := by omega
  simp [devAt, hin, hdie, hoff]

theorem devAt_outside {base pa : Nat} (h : pa < base ∨ base + 0x400000 ≤ pa) : devAt base pa = none :=
  if_neg (by omega)

/-- A source of writes that is no link peer. -/
def DevSrc.inside : DevSrc → Bool
  | .link _ => false
  | _ => true

theorem deviceWrite_misaligned (s : State) {src : DevSrc} (hs : src.inside = true) {pa : Nat} (v : Word) (h : pa % 8 ≠ 0) :
    s.deviceWrite src pa v = s := by
  cases src with
  | link n => simp [DevSrc.inside] at hs
  | seq c x => simp [State.deviceWrite, h]
  | host => simp [State.deviceWrite, h]

/-- Mailbox `m`'s registers stand at 0x100 * m. -/
theorem deviceWrite_mailbox (s : State) {src : DevSrc} (hs : src.inside = true) {pa m off : Nat} (v : Word) (hm : m < 6)
    (ho : off < 0x100) (h8 : off % 8 = 0) (h : pa = mbxBase + 0x100 * m + off) :
    s.deviceWrite src pa v = s.mbxWrite src m off v.toNat := by
  have halign : pa % 8 = 0 := by unfold mbxBase at h; omega
  have hin : mbxBase ≤ pa ∧ pa < mbxBase + 0x600 := by omega
  have hbox : (pa - mbxBase) / 0x100 = m := by omega
  have hoff : (pa - mbxBase) % 0x100 = off := by omega
  cases src with
  | link n => simp [DevSrc.inside] at hs
  | seq c x => simp [State.deviceWrite, halign, hin, hbox, hoff]
  | host => simp [State.deviceWrite, halign, hin, hbox, hoff]

/-- A link peer's write outside the link window is aborted (R427). -/
theorem deviceWrite_link_outside (s : State) (n : Nat) {pa : Nat} (v : Word) (h : inLinkWindow pa = false) :
    s.deviceWrite (.link n) pa v = s.send { kind := 6, dest := n, addr := pa } := by
  simp [State.deviceWrite, h]

/-- A store to a wake slot of a die's Amber. -/
theorem deviceWrite_wakeSlot (s : State) (c x : Nat) {pa d i : Nat} (v : Word) (hd : d < 4) (hi : i < 2 ^ 14)
    (h : pa = amberBase + 0x100000 * d + 0x80000 + 8 * i) :
    s.deviceWrite (.seq c x) pa v = s.wakeStore d i v.toNat := by
  have hamber : devAt amberBase pa = some (d, 0x80000 + 8 * i) := devAt_window hd (by omega) (by omega)
  unfold amberBase at h
  have halign : pa % 8 = 0 := by omega
  have hmbx : ¬ (mbxBase ≤ pa ∧ pa < mbxBase + 0x600) := by unfold mbxBase; omega
  have hoff : 0x80000 + 8 * i ≠ 0 := by omega
  have hslots : 0x80000 ≤ 0x80000 + 8 * i ∧ 0x80000 + 8 * i < 0xA0000 := by omega
  have hslot : (0x80000 + 8 * i - 0x80000) / 8 = i := by omega
  simp only [State.deviceWrite, halign, hmbx, hamber, hoff, hslots, hslot, and_self, if_true, if_false, bne_self_eq_false,
    Bool.false_eq_true]

/-- A store to a tile's flag register (R238). -/
theorem deviceWrite_tileFlags (s : State) (e x : Nat) {pa d c t : Nat} (v : Word) (hd : d < 4) (hc : c < 40) (ht : t < 256)
    (h : pa = flagBase + 0x100000 * d + 0x1000 * c + 8 * t) :
    s.deviceWrite (.seq e x) pa v = s.setCl (d * 40 + c)
      ((s.cl (d * 40 + c)).setTile t (((s.cl (d * 40 + c)).tile t).clearFlags v.toNat)) := by
  have hflag : devAt flagBase pa = some (d, 0x1000 * c + 8 * t) := devAt_window hd (by omega) (by omega)
  unfold flagBase at h
  have hamber : devAt amberBase pa = none := devAt_outside (by unfold amberBase; omega)
  have halign : pa % 8 = 0 := by omega
  have hmbx : ¬ (mbxBase ≤ pa ∧ pa < mbxBase + 0x600) := by unfold mbxBase; omega
  have hreg : ¬ (0x28000 ≤ 0x1000 * c + 8 * t ∨ 0x800 ≤ (0x1000 * c + 8 * t) % 0x1000) := by omega
  have hcl : (0x1000 * c + 8 * t) / 0x1000 = c := by omega
  have htile : (0x1000 * c + 8 * t) % 0x1000 / 8 = t := by omega
  simp only [State.deviceWrite, halign, hmbx, hamber, hflag, hreg, hcl, htile, if_false, bne_self_eq_false,
    Bool.false_eq_true]

/-- A store to a doubleword of an island's status window (R259). -/
theorem deviceWrite_island (s : State) (e x : Nat) {pa d c i w : Nat} (v : Word) (hd : d < 4) (hc : c < 40) (hi : i < 4)
    (hw : w < 8) (h : pa = isleBase + 0x100000 * d + 0x100 * c + 0x40 * i + 8 * w) :
    s.deviceWrite (.seq e x) pa v = s.setCl (d * 40 + c)
      ((s.cl (d * 40 + c)).setMat i (((s.cl (d * 40 + c)).mat i).windowStore w v.toNat)) := by
  have hisle : devAt isleBase pa = some (d, 0x100 * c + 0x40 * i + 8 * w) := devAt_window hd (by omega) (by omega)
  unfold isleBase at h
  have hamber : devAt amberBase pa = none := devAt_outside (by unfold amberBase; omega)
  have hflag : devAt flagBase pa = none := devAt_outside (by unfold flagBase; omega)
  have halign : pa % 8 = 0 := by omega
  have hmbx : ¬ (mbxBase ≤ pa ∧ pa < mbxBase + 0x600) := by unfold mbxBase; omega
  have hreg : ¬ 0x2800 ≤ 0x100 * c + 0x40 * i + 8 * w := by omega
  have hcl : (0x100 * c + 0x40 * i + 8 * w) / 0x100 = c := by omega
  have hmat : (0x100 * c + 0x40 * i + 8 * w) % 0x100 / 0x40 = i := by omega
  have hword : (0x100 * c + 0x40 * i + 8 * w) % 0x40 / 8 = w := by omega
  simp only [State.deviceWrite, halign, hmbx, hamber, hflag, hisle, hreg, hcl, hmat, hword, if_false, bne_self_eq_false,
    Bool.false_eq_true]

/-- A store to a host queue's register (R364). -/
theorem deviceWrite_hostQueue (s : State) (c x : Nat) {pa d q off : Nat} (v : Word) (hd : d < 4) (hq : q < 16)
    (ho : off < 0x40) (h8 : off % 8 = 0) (h : pa = hqBase + 0x100000 * d + 0x40 * q + off) :
    s.deviceWrite (.seq c x) pa v = s.hqWrite d q off v.toNat := by
  have hhq : devAt hqBase pa = some (d, 0x40 * q + off) := devAt_window hd (by omega) (by omega)
  unfold hqBase at h
  have hamber : devAt amberBase pa = none := devAt_outside (by unfold amberBase; omega)
  have hflag : devAt flagBase pa = none := devAt_outside (by unfold flagBase; omega)
  have hisle : devAt isleBase pa = none := devAt_outside (by unfold isleBase; omega)
  have halign : pa % 8 = 0 := by omega
  have hmbx : ¬ (mbxBase ≤ pa ∧ pa < mbxBase + 0x600) := by unfold mbxBase; omega
  have hreg : ¬ 0x400 ≤ 0x40 * q + off := by omega
  have hqueue : (0x40 * q + off) / 0x40 = q := by omega
  have hoff : (0x40 * q + off) % 0x40 = off := by omega
  simp only [State.deviceWrite, halign, hmbx, hamber, hflag, hisle, hhq, hreg, hqueue, hoff, if_false, bne_self_eq_false,
    Bool.false_eq_true]

/-- Of the power registers only PSTALL takes a store (R394). -/
theorem deviceWrite_power (s : State) (c x : Nat) {pa d off : Nat} (v : Word) (hd : d < 4) (ho : off < 0x100000)
    (h8 : off % 8 = 0) (h : pa = powerBase + 0x100000 * d + off) :
    s.deviceWrite (.seq c x) pa v = if off = 0x10 then s.setDie d { s.die d with pstall := v } else s := by
  have hpower := devAt_window hd ho h
  unfold powerBase at h
  have hamber : devAt amberBase pa = none := devAt_outside (by unfold amberBase; omega)
  have hflag : devAt flagBase pa = none := devAt_outside (by unfold flagBase; omega)
  have hisle : devAt isleBase pa = none := devAt_outside (by unfold isleBase; omega)
  have hhq : devAt hqBase pa = none := devAt_outside (by unfold hqBase; omega)
  have halign : pa % 8 = 0 := by omega
  have hmbx : ¬ (mbxBase ≤ pa ∧ pa < mbxBase + 0x600) := by unfold mbxBase; omega
  simp only [State.deviceWrite, halign, hmbx, hamber, hflag, hisle, hhq, hpower, if_false, bne_self_eq_false,
    Bool.false_eq_true]

/-! ### What the registers do with a store -/

theorem doorbell_busy {s : State} {c : FwCmd} (h : (s.mailbox c.mbx).busy = true) : s.doorbell c = s := if_pos h

/-- A doorbell of an idle mailbox is queued, and the mailbox is busy from then on (R432). -/
theorem doorbell_idle {s : State} {c : FwCmd} (h : (s.mailbox c.mbx).busy = false) :
    (s.doorbell c).pkg.fwq = s.pkg.fwq ++ [c] ∧ ((s.doorbell c).mailbox c.mbx).busy = true ∧
      (s.doorbell c).mem = s.mem := by
  have e : s.doorbell c = (s.setMailbox c.mbx { s.mailbox c.mbx with busy := true }).setPkg
      { (s.setMailbox c.mbx { s.mailbox c.mbx with busy := true }).pkg with fwq := s.pkg.fwq ++ [c] } := by
    simp [State.doorbell, h, State.setMailbox]
  rw [e]
  exact ⟨rfl, by simp [State.mailbox, State.setMailbox], rfl⟩

/-- A mailbox ignores the doorbell of a writer that it does not serve (R432). -/
theorem mbxWrite_unserved {s : State} {src : DevSrc} {m : Nat} (v : Nat) (h : src.serves m = false) :
    s.mbxWrite src m 0 v = s := by
  simp [State.mbxWrite, h]

theorem mbxWrite_host (s : State) (v : Nat) : s.mbxWrite .host 0 0 v = s.doorbell { mbx := 0, addr := v } := rfl

theorem mbxWrite_seq (s : State) (c x v : Nat) :
    s.mbxWrite (.seq c x) (1 + dieOf c) 0 v = s.doorbell { mbx := 1 + dieOf c, addr := v, ctx := x, cl := c } := by
  simp [State.mbxWrite, DevSrc.serves]

/-- A store to a flag register clears the flags that it sets bits for (R238). -/
theorem Tile.clearFlags_testBit (t : Tile) (v : BitVec 64) {i : Nat} (h : i < 7) :
    (t.clearFlags v.toNat).flags.testBit i = (t.flags.testBit i && !v.getLsbD i) := by
  simp only [Tile.clearFlags, BitVec.testBit_toNat, BitVec.getLsbD_and, BitVec.getLsbD_not, BitVec.getLsbD_ofNat, h]
  simp

@[simp] theorem Cluster.tile_setTile_same (k : Cluster) (x : Nat) (t : Tile) : (k.setTile x t).tile x = t := by
  simp [Cluster.setTile, Cluster.tile]

@[simp] theorem Cluster.mat_setMat_same (k : Cluster) (i : Nat) (m : Isle) : (k.setMat i m).mat i = m := by
  simp [Cluster.setMat, Cluster.mat]

@[simp] theorem State.hq_setHq_same (s : State) (d q : Nat) (x : HostQ) : ((s.setHq d q x).die d).hq q = x := by
  simp [State.setHq, Die.hq]

@[simp] theorem State.amber_setAmber_same (s : State) (d : Nat) (a : Amber) : (s.setAmber d a).amber d = a := by
  simp [State.setAmber, State.amber]

@[simp] theorem State.setAmber_mem (s : State) (d : Nat) (a : Amber) : (s.setAmber d a).mem = s.mem := rfl

/-- Bits 35 to 32 of a store to a wake slot name the operation (R36); one that is not listed is counted as ignored. -/
theorem wakeStore_unlisted (s : State) (d i : Nat) {v : Nat} (h : 4 ≤ v / 2 ^ 32 % 16) : s.wakeStore d i v = s.amberDrop d := by
  have hop : 4 ≤ fld v 35 32 := by simpa [fld, Nat.shiftRight_eq_div_pow] using h
  unfold State.wakeStore
  split
  case h_5 => rfl
  all_goals omega

/-! ### The host's accesses to memory (R291) -/

theorem Mem.setBytes_append (xs ys : List Byte) : ∀ (m : Mem) (a : Nat),
    m.setBytes a (xs ++ ys) = (m.setBytes a xs).setBytes (a + xs.length) ys := by
  induction xs with
  | nil => intro m a; rfl
  | cons x xs ih =>
    intro m a
    simp only [List.cons_append, Mem.setBytes, ih, List.length_cons, Nat.add_right_comm a 1 xs.length, Nat.add_assoc]

/-- Bytes just written are read back. -/
theorem Mem.bytes_setBytes_same {m : Mem} (h : m.wf = true) (a : Nat) (bs : List Byte) :
    (m.setBytes a bs).bytes a bs.length = bs := by
  refine List.ext_getElem (by simp [Mem.bytes]) ?_
  intro i hi hlt
  simp [Mem.bytes, Mem.byte_setBytes_same bs m a i h hlt, hlt]

/-- Stores line by line leave in memory what one store of all the bytes leaves. -/
theorem storeLines_mem (agent fuel : Nat) : ∀ (s : State) (pa : Nat) (bs : List Byte), bs.length < fuel →
    (State.storeLines agent fuel s pa bs).mem = s.mem.setBytes pa bs := by
  induction fuel with
  | zero => intro s pa bs h; omega
  | succ fuel ih =>
    intro s pa bs h
    cases bs with
    | nil => rfl
    | cons b bs =>
      let n := min (b :: bs).length (128 - pa % 128)
      have hpos : 0 < n := by simp only [n, List.length_cons]; omega
      have hlen : ((b :: bs).take n).length = n := by simp only [List.length_take]; omega
      have hrest : ((b :: bs).drop n).length < fuel := by simp only [List.length_drop, List.length_cons] at *; omega
      calc (State.storeLines agent (fuel + 1) s pa (b :: bs)).mem
          = (State.storeLines agent fuel (s.storeHome (homeDie pa) agent pa ((b :: bs).take n) false) (pa + n)
              ((b :: bs).drop n)).mem := rfl
        _ = (s.mem.setBytes pa ((b :: bs).take n)).setBytes (pa + n) ((b :: bs).drop n) := by
            rw [ih _ _ _ hrest, (storeHome_frame s _ _ _ _ _).2.1]
        _ = s.mem.setBytes pa (b :: bs) := by
            rw [← List.take_append_drop n (b :: bs), Mem.setBytes_append, List.take_append_drop, hlen]

/-- An access that touches an address that the map reserves is a fault there. -/
theorem exec_hostMemoryAccess_reserved (s : State) (write : Bool) (pa : BitVec 48) (len data : Nat)
    (h : ¬ ∀ i, i < len → populated (pa.toNat + i) = true) :
    ∃ n, pa.toNat ≤ n ∧ n < pa.toNat + len ∧ populated n = false ∧
      exec (.hostMemoryAccess write pa len data) s = .fault (.noSuchAddress n) := by
  have hsome : ((List.range len).find? (fun i => !populated (pa.toNat + i))).isSome = true := by
    simpa [List.find?_isSome] using h
  obtain ⟨i, hi⟩ := Option.isSome_iff_exists.1 hsome
  have hbad : populated (pa.toNat + i) = false := by simpa using List.find?_some hi
  have hlt : i < len := List.mem_range.1 (List.mem_of_find?_eq_some hi)
  refine ⟨pa.toNat + i, by omega, by omega, hbad, ?_⟩
  change execHostMemoryAccess write pa len data s = _
  simp only [execHostMemoryAccess, hi]

section
variable {s : State} {pa : BitVec 48} {len : Nat} (data : Nat)
  (h : ∀ i, i < len → populated (pa.toNat + i) = true)
include h

theorem find_reserved_none : (List.range len).find? (fun i => !populated (pa.toNat + i)) = none := by
  simpa [List.find?_eq_none] using h

theorem exec_hostRead_memory (h0 : len ≠ 0) (hd : inDev pa.toNat = false) :
    exec (.hostMemoryAccess false pa len data) s = .next (s.send
      { kind := 10, dest := b2n ((List.range len).any (fun i => s.poisonedAt (pa.toNat + i))), addr := pa.toNat,
        data := s.mem.bytes pa.toNat len }) := by
  change execHostMemoryAccess false pa len data s = _
  simp [execHostMemoryAccess, find_reserved_none h, h0, hd]

theorem exec_hostWrite_memory (h0 : len ≠ 0) (hd : inDev pa.toNat = false) :
    exec (.hostMemoryAccess true pa len data) s = .next (State.storeLines agentHost (len + 1)
      (s.deliverKnown agentHost 0 .sys) pa.toNat (toBytes len data)) := by
  change execHostMemoryAccess true pa len data s = _
  simp [execHostMemoryAccess, find_reserved_none h, h0, hd]

theorem exec_hostRead_register (h8 : len = 8) (hd : inDev pa.toNat = true) :
    exec (.hostMemoryAccess false pa len data) s = .next (s.send
      { kind := 10, dest := 0, addr := pa.toNat, data := toBytes 8 (s.deviceRead pa.toNat).toNat }) := by
  change execHostMemoryAccess false pa len data s = _
  simp only [execHostMemoryAccess, find_reserved_none h]
  simp [h8, hd]

theorem exec_hostRead_odd (h0 : len ≠ 0) (h8 : len ≠ 8) (hd : inDev pa.toNat = true) :
    exec (.hostMemoryAccess false pa len data) s = .next (s.send
      { kind := 10, dest := 0, addr := pa.toNat, data := List.replicate len 0 }) := by
  change execHostMemoryAccess false pa len data s = _
  simp [execHostMemoryAccess, find_reserved_none h, h0, h8, hd]

end

theorem exec_hostMemoryAccess_empty (s : State) (write : Bool) (pa : BitVec 48) (data : Nat) :
    exec (.hostMemoryAccess write pa 0 data) s = .next s := rfl

/-- What the host writes stands in memory, and nothing else of memory changes. -/
theorem hostWrite_leaves {s : State} {pa : BitVec 48} {len : Nat} (data : Nat)
    (h : ∀ i, i < len → populated (pa.toNat + i) = true) (h0 : len ≠ 0) (hd : inDev pa.toNat = false) (hm : MemInv s) :
    leaves (.hostMemoryAccess true pa len data) s (fun u => u.mem.bytes pa.toNat len = toBytes len data ∧
      ∀ n, (n < pa.toNat ∨ pa.toNat + len ≤ n) → u.mem.byte n = s.mem.byte n) := by
  have hmem : (State.storeLines agentHost (len + 1) (s.deliverKnown agentHost 0 .sys) pa.toNat (toBytes len data)).mem
      = s.mem.setBytes pa.toNat (toBytes len data) := by
    rw [storeLines_mem _ _ _ _ _ (by simp), (deliverKnown_frame s _ _ _).mem]
  refine ⟨_, exec_hostWrite_memory data h h0 hd, ?_⟩
  dsimp only
  rw [hmem]
  refine ⟨?_, fun n hn => Mem.byte_setBytes_other _ _ _ (by simpa using hn)⟩
  simpa using Mem.bytes_setBytes_same hm pa.toNat (toBytes len data)

@[simp] theorem State.send_mem (s : State) (m : OutMsg) : (s.send m).mem = s.mem := rfl
@[simp] theorem State.send_outbox (s : State) (m : OutMsg) : (s.send m).pkg.outbox = s.pkg.outbox ++ [m] := rfl

theorem b2n_any_range (p : Nat → Bool) (n : Nat) [Decidable (∃ i, i < n ∧ p i = true)] :
    b2n ((List.range n).any p) = if ∃ i, i < n ∧ p i = true then 1 else 0 := by
  have : (List.range n).any p = true ↔ ∃ i, i < n ∧ p i = true := by simp
  simp only [b2n, this]

/-! ### The lifetime log (R440) -/

/-- Counting adds one to one bin, which saturates, and touches nothing else. -/
theorem count_leaves (s : State) (h n : Nat) :
    (s.count h n).pkg.log.get (h * 2 ^ 32 + n) 0 = min (s.pkg.log.get (h * 2 ^ 32 + n) 0 + 1) (2 ^ 64 - 1) ∧
    (s.count h n).mem = s.mem ∧ (s.count h n).dies = s.dies ∧ (s.count h n).clusters = s.clusters ∧
    ∀ k, k ≠ h * 2 ^ 32 + n → (s.count h n).pkg.log.get k 0 = s.pkg.log.get k 0 :=
  ⟨Tab.get_put_same _ _ _ _, rfl, rfl, rfl, fun _ hk => Tab.get_put_other _ _ _ hk⟩

theorem exec_voltageDroop (vfi depth : BitVec 8) (s : State) : exec (.voltageDroop vfi depth) s =
    .next (if vfi.toNat < 168 ∧ 10 ≤ depth.toNat then s.count 1 (9 * vfi.toNat + min 8 (depth.toNat / 10 - 1)) else s) := rfl

theorem exec_laneRetrain (link : BitVec 5) (s : State) : exec (.laneRetrain link) s =
    .next (if link.toNat < 31 then s.count 4 link.toNat else s) := rfl

/-- Levelling deallocates what was freed and moves nothing that is in use (R439). -/
theorem wearLevelling_leaves (s : State) : leaves .wearLevelling s (fun u => (u.amber s.actor.die).freed = [] ∧
    (u.amber s.actor.die).exts = (s.amber s.actor.die).exts ∧ (u.amber s.actor.die).recs = (s.amber s.actor.die).recs ∧
    u.mem = s.mem) := by
  let d := s.actor.die
  have hd : (s.setAmber d { s.amber d with freed := [] }).amber d = { s.amber d with freed := [] } :=
    State.amber_setAmber_same s d _
  exact ⟨s.setAmber d { s.amber d with freed := [] }, rfl, by rw [hd], by rw [hd], by rw [hd], rfl⟩

theorem exec_lifelogRewrite (s : State) : exec .lifelogRewrite s = .next (if s.pkg.logDue ≤ s.pkg.clock then
    s.rewriteLog.setPkg { s.rewriteLog.pkg with logDue := s.pkg.logDue + 600000000 } else s) := rfl

/-! ### Start-up and loss of power (R437, R440) -/

theorem Mem.byte_filter (p : Nat → Bool) (m : Mem) (a : Nat) :
    Mem.byte (m.filter (fun e => p e.1)) a = if p a then m.byte a else 0 := by
  induction m with
  | nil => simp [Mem.byte, Mem.empty]
  | cons e m ih =>
    obtain ⟨k, b⟩ := e
    by_cases hk : k = a <;> by_cases hp : p k = true <;> simp_all [Mem.byte]

theorem bankValid_iff (img : List Byte) : bankValid img = true ↔ img = [] ∨ lmsVerified img = true := by
  simp [bankValid]

section
variable {p : Package}

/-- The other bank runs where it alone is valid or where its version is the higher. -/
theorem Package.boot_other (ho : p.flash = [] ∨ lmsVerified p.flash = true)
    (h : ¬ (p.fwRun = [] ∨ lmsVerified p.fwRun = true) ∨ Config.fwVersion p.fwRun < Config.fwVersion p.flash) :
    p.boot = some (p.flash, p.fwRun) := by
  rw [← bankValid_iff] at ho h
  unfold Package.boot
  cases hr : bankValid p.fwRun with
  | false => simp only [ho]
  | true =>
    have hlt : Config.fwVersion p.fwRun < Config.fwVersion p.flash := by simpa [hr] using h
    simp only [ho, hlt, if_true]

/-- The bank that ran before runs on where it alone is valid or where the other's version is no higher. -/
theorem Package.boot_same (hr : p.fwRun = [] ∨ lmsVerified p.fwRun = true)
    (h : ¬ (p.flash = [] ∨ lmsVerified p.flash = true) ∨ Config.fwVersion p.flash ≤ Config.fwVersion p.fwRun) :
    p.boot = some (p.fwRun, p.flash) := by
  rw [← bankValid_iff] at hr h
  unfold Package.boot
  cases ho : bankValid p.flash with
  | false => simp only [hr]
  | true =>
    have hle : ¬ Config.fwVersion p.fwRun < Config.fwVersion p.flash := by simpa [ho] using h
    simp only [hr, hle, if_false]

theorem Package.boot_none (hr : ¬ (p.fwRun = [] ∨ lmsVerified p.fwRun = true))
    (ho : ¬ (p.flash = [] ∨ lmsVerified p.flash = true)) : p.boot = none := by
  rw [← bankValid_iff] at hr ho
  simp [Package.boot, hr, ho]

end

theorem packageReset_byte (s : State) (log : Tab Nat) (n : Nat) :
    (s.packageReset true log).mem.byte n = if !inH n then s.mem.byte n else 0 :=
  Mem.byte_filter (fun k => !inH k) s.mem n

/-- A package reset keeps what lies outside tier H (R437). -/
theorem packageReset_byte_kept (s : State) (log : Tab Nat) (n : Nat) (h : inH n = false) :
    (s.packageReset true log).mem.byte n = s.mem.byte n := by
  simp [packageReset_byte, h]

/-- A package reset clears tier H (R437). -/
theorem packageReset_byte_cleared (s : State) (log : Tab Nat) (n : Nat) (h : inH n = true) :
    (s.packageReset true log).mem.byte n = 0 := by
  simp [packageReset_byte, h]

theorem exec_powerUp_started {s : State} (h : 1 ≤ s.pkg.startup ∧ s.pkg.startup < 8) :
    exec .powerUp s = .next (s.setPkg { s.pkg with startup := s.pkg.startup + 1 }) :=
  congrArg Host.Outcome.next (if_pos h)

section
variable {s : State} (h : ¬ (1 ≤ s.pkg.startup ∧ s.pkg.startup < 8))
include h

theorem exec_powerUp_runs {run other : List Byte} (hb : s.pkg.boot = some (run, other)) :
    exec .powerUp s = .next ((s.packageReset true s.pkg.log).setPkg
      { (s.packageReset true s.pkg.log).pkg with fwRun := run, flash := other, startup := 1 }) := by
  change execPowerUp s = _
  simp only [execPowerUp, if_neg h, hb]

theorem exec_powerUp_stops (hb : s.pkg.boot = none) :
    exec .powerUp s = .next ((s.packageReset true s.pkg.log).send { kind := 5, dest := 4000 }) := by
  change execPowerUp s = _
  simp only [execPowerUp, if_neg h, hb]

end

/-! ### What the forms leave -/

section
variable {s : State} {pa : BitVec 48} (v : BitVec 64)

theorem registerWrite_misaligned (hl : s.actor.unit ≠ 294) (hd : inDev pa.toNat = true) (h8 : pa.toNat % 8 ≠ 0) :
    exec (.registerWrite pa v) s = .next s.posted := by
  by_cases hh : s.actor.unit = 293
  · rw [exec_registerWrite_host v hh hd, deviceWrite_misaligned _ rfl v h8]
  · rw [exec_registerWrite_seq v ⟨hh, hl⟩ hd, deviceWrite_misaligned _ rfl v h8, State.posted_of_not_host hh]

theorem exec_hostDoorbell (hu : s.actor.unit = 293) (ha : pa.toNat = 0xF0000000000) :
    exec (.registerWrite pa v) s = .next (s.posted.doorbell { mbx := 0, addr := v.toNat }) := by
  rw [exec_registerWrite_host v hu (inDev_of_range (by omega)),
    deviceWrite_mailbox s.posted (m := 0) (off := 0) rfl v (by omega) (by omega) rfl ha, mbxWrite_host]

theorem posted_mailbox (s : State) (m : Nat) : s.posted.mailbox m = s.mailbox m := by
  simp only [State.mailbox, s.posted_frame.pkg]

theorem hostDoorbell_idle (hu : s.actor.unit = 293) (ha : pa.toNat = 0xF0000000000) (hi : (s.mailbox 0).busy = false) :
    leaves (.registerWrite pa v) s (fun u => u.pkg.fwq = s.pkg.fwq ++ [{ mbx := 0, addr := v.toNat }] ∧
      (u.mailbox 0).busy = true ∧ u.mem = s.mem) := by
  obtain ⟨hq, hbusy, hmem⟩ := doorbell_idle (s := s.posted) (c := { mbx := 0, addr := v.toNat })
    (by rw [posted_mailbox]; exact hi)
  exact ⟨_, exec_hostDoorbell v hu ha, by rw [hq, s.posted_frame.pkg], hbusy, hmem.trans s.posted_frame.mem⟩

theorem hostDoorbell_busy (hu : s.actor.unit = 293) (ha : pa.toNat = 0xF0000000000) (hb : (s.mailbox 0).busy = true) :
    exec (.registerWrite pa v) s = .next s.posted := by
  rw [exec_hostDoorbell v hu ha, doorbell_busy (by rw [posted_mailbox]; exact hb)]

theorem linkWrite_refused (hu : s.actor.unit = 294) (hd : inDev pa.toNat = true) (hw : inLinkWindow pa.toNat = false) :
    leaves (.registerWrite pa v) s (fun u => u.mem = s.mem ∧ u.dies = s.dies ∧ u.clusters = s.clusters ∧
      u.pkg.outbox = s.pkg.outbox ++ [{ kind := 6, dest := s.actor.cl, addr := pa.toNat }]) := by
  refine ⟨s.send { kind := 6, dest := s.actor.cl, addr := pa.toNat }, ?_, rfl, rfl, rfl, rfl⟩
  rw [exec_registerWrite_link v hu hd, deviceWrite_link_outside s _ v hw]

variable (hs : s.actor.unit ≠ 293 ∧ s.actor.unit ≠ 294)
include hs

theorem seqDoorbell_idle (hm : 1 + dieOf s.here < 5) (ha : pa.toNat = 0xF0000000000 + 0x100 * (1 + dieOf s.here))
    (hi : (s.mailbox (1 + dieOf s.here)).busy = false) :
    leaves (.registerWrite pa v) s (fun u => u.pkg.fwq = s.pkg.fwq ++
      [{ mbx := 1 + dieOf s.here, addr := v.toNat, ctx := (seqHere s).running.ctx, cl := s.here }]) := by
  let c : FwCmd := { mbx := 1 + dieOf s.here, addr := v.toNat, ctx := (seqHere s).running.ctx, cl := s.here }
  refine ⟨s.doorbell c, ?_, (doorbell_idle hi).1⟩
  rw [exec_registerWrite_seq v hs (inDev_of_range (by omega)),
    deviceWrite_mailbox s (off := 0) rfl v (by omega) (by omega) rfl ha, mbxWrite_seq]

theorem seqDoorbell_unserved {n : Nat} (hn : n < 6) (hne : n ≠ 1 + dieOf s.here) (ha : pa.toNat = 0xF0000000000 + 0x100 * n) :
    exec (.registerWrite pa v) s = .next s := by
  rw [exec_registerWrite_seq v hs (inDev_of_range (by omega)),
    deviceWrite_mailbox s (off := 0) rfl v hn (by omega) rfl ha, mbxWrite_unserved _ (by simpa [DevSrc.serves] using hne)]

theorem seqWrite_tileFlags {d c t : Nat} (hd : d < 4) (hc : c < 40) (ht : t < 256)
    (ha : pa.toNat = 0xF0008000000 + 0x100000 * d + 0x1000 * c + 8 * t) :
    leaves (.registerWrite pa v) s (fun u => ∀ i, i < 7 →
      ((u.cl (d * 40 + c)).tile t).flags.testBit i = (((s.cl (d * 40 + c)).tile t).flags.testBit i && !v.getLsbD i)) := by
  refine ⟨_, (exec_registerWrite_seq v hs (inDev_of_range (by omega))).trans
    (congrArg _ (deviceWrite_tileFlags s _ _ v hd hc ht ha)), fun i hi => ?_⟩
  rw [State.cl_setCl_same, Cluster.tile_setTile_same, Tile.clearFlags_testBit _ v hi]

theorem seqWrite_deadcnt {d c i : Nat} (hd : d < 4) (hc : c < 40) (hi : i < 4)
    (ha : pa.toNat = 0xF000C000000 + 0x100000 * d + 0x100 * c + 0x40 * i + 0x10) :
    leaves (.registerWrite pa v) s (fun u => ((u.cl (d * 40 + c)).mat i).deadcnt = v.toNat % 2 ^ 32) := by
  refine ⟨_, (exec_registerWrite_seq v hs (inDev_of_range (by omega))).trans
    (congrArg _ (deviceWrite_island s _ _ (w := 2) v hd hc hi (by omega) ha)), ?_⟩
  simp only [State.cl_setCl_same, Cluster.mat_setMat_same]
  rfl

theorem seqWrite_pstall {d : Nat} (hd : d < 4) (ha : pa.toNat = 0xF0014000000 + 0x100000 * d + 0x10) :
    leaves (.registerWrite pa v) s (fun u => (u.die d).pstall = v ∧ u.clusters = s.clusters ∧ u.mem = s.mem) := by
  refine ⟨_, (exec_registerWrite_seq v hs (inDev_of_range (by omega))).trans
    (congrArg _ ((deviceWrite_power s _ _ v hd (by omega) rfl ha).trans (if_pos rfl))), ?_, rfl, rfl⟩
  rw [State.die_setDie_same]

theorem seqWrite_powerReadOnly {d : Nat} (hd : d < 4) (ha : pa.toNat = 0xF0014000000 + 0x100000 * d + 8) :
    exec (.registerWrite pa v) s = .next s :=
  (exec_registerWrite_seq v hs (inDev_of_range (by omega))).trans
    (congrArg _ ((deviceWrite_power s _ _ v hd (by omega) rfl ha).trans (if_neg (by omega))))

theorem seqWrite_hostQueueBase {d q : Nat} (hd : d < 4) (hq : q < 16)
    (ha : pa.toNat = 0xF0010000000 + 0x100000 * d + 0x40 * q + 8) :
    leaves (.registerWrite pa v) s (fun u => ((u.die d).hq q).base.toNat = v.toNat / 64 * 64 ∧
      ((u.die d).hq q).ctl = ((s.die d).hq q).ctl) := by
  refine ⟨s.setHq d q { (s.die d).hq q with base := BitVec.ofNat 64 (v.toNat / 64 * 64) }, ?_, ?_, ?_⟩
  · exact (exec_registerWrite_seq v hs (inDev_of_range (by omega))).trans
      (congrArg _ (deviceWrite_hostQueue s _ _ v hd hq (by omega) rfl ha))
  · rw [State.hq_setHq_same, BitVec.toNat_ofNat, Nat.mod_eq_of_lt (by omega)]
  · rw [State.hq_setHq_same]

theorem seqWrite_wakeUnlisted {d i : Nat} (hd : d < 4) (hi : i < 2 ^ 14)
    (ha : pa.toNat = 0xF0004000000 + 0x100000 * d + 0x80000 + 8 * i) (hop : 4 ≤ v.toNat / 2 ^ 32 % 16) :
    leaves (.registerWrite pa v) s (fun u => (u.amber d).drops = min ((s.amber d).drops + 1) (2 ^ 64 - 1) ∧
      (u.amber d).recs = (s.amber d).recs ∧ u.mem = s.mem) := by
  refine ⟨s.amberDrop d, ?_, ?_, ?_, rfl⟩
  · rw [exec_registerWrite_seq v hs (inDev_of_range (by omega)), deviceWrite_wakeSlot s _ _ v hd hi ha,
      wakeStore_unlisted s d i hop]
  all_goals simp only [State.amberDrop, State.amber_setAmber_same]

end

end Sys2Proof.Machine

namespace Sys2Proof

open Machine

/-- Settles O59: each clause is the law of the register, the access or the form of upkeep that it speaks of; a start-up
follows what the boot ROM finds in the two flash banks. -/
theorem hostAndRegisters : Obligations.HostAndRegisters := by
  unfold Obligations.HostAndRegisters
  refine ⟨?registers, ?host, ?upkeep⟩
  case registers =>
    intro s pa v
    exact ⟨exec_registerWrite_outside v, registerWrite_misaligned v, hostDoorbell_idle v, hostDoorbell_busy v,
      seqDoorbell_idle v, fun _ hs => seqDoorbell_unserved v hs, linkWrite_refused v,
      fun _ _ _ hs => seqWrite_tileFlags v hs, fun _ _ _ hs => seqWrite_deadcnt v hs, fun _ hs => seqWrite_pstall v hs,
      fun _ hs => seqWrite_powerReadOnly v hs, fun _ _ hs => seqWrite_hostQueueBase v hs,
      fun _ _ hs => seqWrite_wakeUnlisted v hs⟩
  case host =>
    intro s write pa len data
    refine ⟨exec_hostMemoryAccess_reserved s write pa len data, fun he h0 hd => ⟨?_, ?_⟩, ?_, ?_, ?_⟩
    · rintro rfl
      refine ⟨_, exec_hostRead_memory data he h0 hd, rfl, ?_⟩
      rw [State.send_outbox, b2n_any_range]
    · rintro rfl hm
      exact hostWrite_leaves data he h0 hd hm
    · rintro he h8 hd rfl
      exact ⟨_, exec_hostRead_register data he h8 hd, rfl, rfl⟩
    · rintro he h0 h8 hd rfl
      exact ⟨_, exec_hostRead_odd data he h0 h8 hd, rfl, rfl⟩
    · rintro rfl
      exact exec_hostMemoryAccess_empty s write pa data
  case upkeep =>
    intro s vfi depth link
    refine ⟨⟨_, rfl, count_leaves s 0 _⟩, fun hv hd => ?_, fun h => ?_, fun hl => ?_, fun hl => ?_, fun h => ?_, fun h => ?_,
      rfl, wearLevelling_leaves s, fun h => ?_, ?_, exec_powerUp_started⟩
    · exact ⟨_, (exec_voltageDroop vfi depth s).trans (congrArg _ (if_pos ⟨hv, hd⟩)), count_leaves s 1 _⟩
    · rw [exec_voltageDroop, if_neg (by omega)]
    · exact ⟨_, (exec_laneRetrain link s).trans (congrArg _ (if_pos hl)), count_leaves s 4 _⟩
    · rw [exec_laneRetrain, if_neg (by omega)]
    · exact ⟨_, (exec_lifelogRewrite s).trans (congrArg _ (if_pos h)), rfl, rfl, rfl, rfl, rfl⟩
    · rw [exec_lifelogRewrite, if_neg (by omega)]
    · cases hb : s.pkg.boot with
      | none =>
        refine ⟨_, exec_powerUp_stops h hb, rfl, rfl, rfl, rfl, rfl, rfl, rfl, rfl,
          fun _ => ⟨packageReset_byte_kept s s.pkg.log, packageReset_byte_cleared s s.pkg.log, rfl, ?_, ?_, ?_⟩, nofun⟩
        · exact fun ho hv => nomatch hb.symm.trans (Package.boot_other ho hv)
        · exact fun hr hv => nomatch hb.symm.trans (Package.boot_same hr hv)
        · exact fun _ _ => ⟨rfl, rfl⟩
      | some b =>
        refine ⟨_, exec_powerUp_runs h hb, rfl, rfl, rfl, rfl, rfl, rfl, rfl, rfl,
          fun _ => ⟨packageReset_byte_kept s s.pkg.log, packageReset_byte_cleared s s.pkg.log, rfl, ?_, ?_, ?_⟩, nofun⟩
        · intro ho hv
          obtain rfl := Option.some.inj (hb.symm.trans (Package.boot_other ho hv))
          exact ⟨rfl, rfl, rfl⟩
        · intro hr hv
          obtain rfl := Option.some.inj (hb.symm.trans (Package.boot_same hr hv))
          exact ⟨rfl, rfl, rfl⟩
        · exact fun hr ho => nomatch hb.symm.trans (Package.boot_none hr ho)
    · exact ⟨_, rfl, rfl, rfl, rfl, rfl, rfl, rfl, rfl, rfl, nofun, fun _ => ⟨rfl, rfl, rfl, rfl, rfl⟩⟩

end Sys2Proof
end

section
/-! SUPPORT. The canonical form of memory (R10) under the shared operations. One lemma per operation of the model:
that it leaves memory as it is (`_mem`), or that it keeps the canonical form (`_wf`); each rests on the lemmas of the
operations that it calls. -/

-- One declaration at a time: elaborated side by side, the threads of so many pass the memory limit.
set_option Elab.async false

namespace Sys2Proof.Machine

/-! ### Folds -/

/-- A fold of steps that each leave memory leaves it as a whole; `p` finds the state in what the fold carries. -/
theorem foldl_keeps_mem {α β : Type} (p : β → State) (f : β → α → β) (hf : ∀ b a, (p (f b a)).mem = (p b).mem)
    (l : List α) (b : β) : (p (l.foldl f b)).mem = (p b).mem := by
  induction l generalizing b with
  | nil => rfl
  | cons a l ih => exact (ih _).trans (hf b a)

/-- The same as alternatives, as `grind` splits them: a step of the fold changes memory, or the fold leaves it. -/
theorem foldl_mem_or {α : Type} (f : State → α → State) (l : List α) (s : State) :
    (∃ t a, ¬ (f t a).mem = t.mem) ∨ (l.foldl f s).mem = s.mem := by
  by_contra! h
  exact h.2 (foldl_keeps_mem id f h.1 l s)

theorem foldl_fst_mem_or {α β : Type} (f : State × β → α → State × β) (l : List α) (s : State × β) :
    (∃ t a, ¬ (f t a).1.mem = t.1.mem) ∨ (l.foldl f s).1.mem = s.1.mem := by
  by_contra! h
  exact h.2 (foldl_keeps_mem Prod.fst f h.1 l s)

theorem foldl_snd_mem_or {α β : Type} (f : β × State → α → β × State) (l : List α) (s : β × State) :
    (∃ t a, ¬ (f t a).2.mem = t.2.mem) ∨ (l.foldl f s).2.mem = s.2.mem := by
  by_contra! h
  exact h.2 (foldl_keeps_mem Prod.snd f h.1 l s)

/-- A fold of steps that each keep memory's canonical form keeps it as a whole. -/
theorem foldl_keeps_wf {α β : Type} (p : β → State) (f : β → α → β)
    (hf : ∀ b a, (p b).mem.wf = true → (p (f b a)).mem.wf = true) (l : List α) (b : β) (h : (p b).mem.wf = true) :
    (p (l.foldl f b)).mem.wf = true := by
  induction l generalizing b with
  | nil => exact h
  | cons a l ih => exact ih _ (hf b a h)

theorem foldl_eq_keeps_wf {α β : Type} (p : β → State) {f : β → α → β} {l : List α} {b r : β} (he : l.foldl f b = r)
    (h : (p b).mem.wf = true) (hf : ∀ b a, (p b).mem.wf = true → (p (f b a)).mem.wf = true) : (p r).mem.wf = true :=
  he ▸ foldl_keeps_wf p f hf l b h

/-- The same as alternatives, as `grind` splits them. -/
theorem foldl_wf_or {α : Type} (f : State → α → State) (l : List α) (s : State) :
    (∃ t a, t.mem.wf = true ∧ ¬ (f t a).mem.wf = true) ∨ (s.mem.wf = true → (l.foldl f s).mem.wf = true) := by
  by_contra! h
  exact h.2.2 (foldl_keeps_wf id f h.1 l s h.2.1)

theorem foldl_snd_wf_or {α β : Type} (f : β × State → α → β × State) (l : List α) (s : β × State) :
    (∃ t a, t.2.mem.wf = true ∧ ¬ (f t a).2.mem.wf = true) ∨ (s.2.mem.wf = true → (l.foldl f s).2.mem.wf = true) := by
  by_contra! h
  exact h.2.2 (foldl_keeps_wf Prod.snd f h.1 l s h.2.1)

/-! ### Operations that leave memory as it is -/

@[simp] theorem State.disarm_mem (s : State) : (s.disarm).mem = s.mem := by
  grind [State.disarm]

@[simp] theorem State.setMailbox_mem (s : State) (m : Nat) (x : Mailbox) : (s.setMailbox m x).mem = s.mem := by
  grind [State.setMailbox, State.setPkg_mem]

@[simp] theorem State.doorbell_mem (s : State) (c : FwCmd) : (s.doorbell c).mem = s.mem := by
  grind [State.doorbell, State.setMailbox_mem, State.setPkg_mem]

@[simp] theorem State.mbxWrite_mem (s : State) (src : DevSrc) (m off v : Nat) :
    (s.mbxWrite src m off v).mem = s.mem := by
  unfold State.mbxWrite
  grind [State.doorbell_mem, State.setMailbox_mem]

@[simp] theorem State.amberDrop_mem (s : State) (d : Nat) : (s.amberDrop d).mem = s.mem := by
  grind [State.amberDrop, State.setAmber_mem]

@[simp] theorem State.dropCopy_mem (s : State) (die line : Nat) : (s.dropCopy die line).mem = s.mem := by
  grind [State.dropCopy]

@[simp] theorem State.invalidate_mem (s : State) (die agent line : Nat) :
    (s.invalidate die agent line).mem = s.mem := by
  grind [State.invalidate, foldl_mem_or, State.dropCopy_mem]

@[simp] theorem State.setArec_mem (s : State) (d i : Nat) (r : AmbRec) : (s.setArec d i r).mem = s.mem := by
  grind [State.setArec, State.setAmber_mem]

@[simp] theorem State.unwatch_mem (s : State) (d i : Nat) : (s.unwatch d i).mem = s.mem := by
  grind [State.unwatch]

@[simp] theorem State.restEngines_mem (s : State) (d : Nat) : (s.restEngines d).mem = s.mem := by
  grind [State.restEngines, State.setDie_mem]

@[simp] theorem State.discardLate_mem (s : State) (c x : Nat) : (s.discardLate c x).mem = s.mem := by
  grind [State.discardLate, State.setPkg_mem]

@[simp] theorem State.enqueue_mem (s : State) (c n : Nat) (m : QMsg) : (s.enqueue c n m).mem = s.mem := by
  grind [State.enqueue, State.discardLate_mem, State.setChan_mem]

@[simp] theorem State.postMc_mem (s : State) (c : Nat) (m : QMsg) : (s.postMc c m).mem = s.mem := by
  grind [State.postMc, State.enqueue_mem, State.setSq_mem]

@[simp] theorem State.count_mem (s : State) (h k : Nat) : (s.count h k).mem = s.mem := by
  grind [State.count, State.setPkg_mem]

@[simp] theorem State.machineCheck_mem (s : State) (c ctx source unit pa : Nat) (va : Word) (detail : Nat) :
    (s.machineCheck c ctx source unit pa va detail).mem = s.mem := by
  grind [State.machineCheck, State.count_mem, State.postMc_mem]

@[simp] theorem State.post_mem (s : State) (c sender n : Nat) (m : QMsg) : (s.post c sender n m).mem = s.mem := by
  grind [State.post, State.enqueue_mem, State.setCl_mem]

@[simp] theorem State.amberSay_mem (s : State) (d cl chan : Nat) (m : Msg) (ctx : Nat) :
    (s.amberSay d cl chan m ctx).mem = s.mem := by
  grind [State.amberSay, State.post_mem]

@[simp] theorem State.accFail_mem (s : State) (x : AmbAcc) (d i b : Nat) (f : AFail) :
    (s.accFail x d i b f).mem = s.mem := by
  grind [State.accFail, State.setArec_mem, State.amberSay_mem]

@[simp] theorem State.acquire_mem (s : State) (agent : Nat) : (s.acquire agent).mem = s.mem := by
  grind [State.acquire]

@[simp] theorem State.deviceStore_mem (s : State) (cl ctx pa : Nat) (bs : List Byte) :
    (s.deviceStore cl ctx pa bs).mem = s.mem := by
  grind [State.deviceStore]

@[simp] theorem State.deliverKnown_mem (s : State) (agent die : Nat) (c : Scope) :
    (s.deliverKnown agent die c).mem = s.mem := by
  grind [State.deliverKnown, foldl_mem_or, State.dropCopy_mem]

@[simp] theorem State.amberRelease_mem (s : State) (d : Nat) : (s.amberRelease d).mem = s.mem := by
  grind [State.amberRelease, State.deliverKnown_mem]

@[simp] theorem State.amberFail_mem (s : State) (d i b : Nat) (f : AFail) : (s.amberFail d i b f).mem = s.mem := by
  grind [State.amberFail, State.accFail_mem]

@[simp] theorem State.laterUp_mem (s : State) (d i b : Nat) : (s.laterUp d i b).mem = s.mem := by
  grind [State.laterUp, State.setArec_mem]

@[simp] theorem State.settledUp_mem (s : State) (d i b : Nat) : (s.settledUp d i b).mem = s.mem := by
  grind [State.settledUp, State.setArec_mem]

@[simp] theorem State.wakeFor_mem (s : State) (d : Nat) (e : LeaseReq) (p : Nat) : (s.wakeFor d e p).mem = s.mem := by
  grind [State.wakeFor, State.setDie_mem]

@[simp] theorem State.wakeEngines_mem (s : State) (d : Nat) : (s.wakeEngines d).mem = s.mem := by
  grind [State.wakeEngines, foldl_mem_or, State.wakeFor_mem]

@[simp] theorem State.freeExtent_mem (s : State) (d i b : Nat) : (s.freeExtent d i b).mem = s.mem := by
  grind [State.freeExtent, State.setAmber_mem]

@[simp] theorem State.keepCopy_mem (s : State) (die : Nat) (cached : Bool) (pa : Nat) :
    (s.keepCopy die cached pa).mem = s.mem := by
  grind [State.keepCopy]

@[simp] theorem State.setHq_mem (s : State) (d q : Nat) (x : HostQ) : (s.setHq d q x).mem = s.mem := by
  grind [State.setHq, State.setDie_mem]

@[simp] theorem State.hqPacket_mem (s : State) (x : HostQ) : (s.hqPacket x).2.mem = s.mem := by
  fun_cases State.hqPacket
  · rfl
  · rfl
  · exact foldl_keeps_mem (fun p : Nat × State => p.2) (fun (acc : Nat × State) i =>
      let w := acc.2.drawWord
      (acc.1 + w.1.toNat * 2 ^ (64 * i), w.2)) (fun _ _ => rfl) _ (0, s)

@[simp] theorem State.deviceOdd_mem (s : State) (pa : Nat) : (s.deviceOdd pa).mem = s.mem := by
  grind [State.deviceOdd, State.amberDrop_mem]

@[simp] theorem State.seqPoison_mem (s : State) (c ctx pa va : Nat) : (s.seqPoison c ctx pa va).mem = s.mem := by
  grind [State.seqPoison, State.machineCheck_mem]

@[simp] theorem State.loadMem_mem (s : State) (c ctx va n pa : Nat) (cached : Bool) :
    (s.loadMem c ctx va n pa cached).2.mem = s.mem := by
  grind [State.loadMem, State.keepCopy_mem, State.seqPoison_mem]

@[simp] theorem State.tickCycle_mem (s : State) (c : Nat) : (s.tickCycle c).mem = s.mem := by
  grind [State.tickCycle, State.setSq_mem, State.drawNat_mem]

@[simp] theorem State.arm_mem (s : State) (a : Actor) : (s.arm a).mem = s.mem := by
  grind [State.arm]

@[simp] theorem State.atSeq_mem (s : State) (c : Nat) : (s.atSeq c).mem = s.mem := by
  grind [State.atSeq]

@[simp] theorem State.reportLink_mem (s : State) (d : Nat) (g : Gang) : (s.reportLink d g).mem = s.mem := by
  grind [State.reportLink, State.send_mem]

@[simp] theorem State.setGang_mem (s : State) (d l : Nat) (g : Gang) : (s.setGang d l g).mem = s.mem := by
  grind [State.setGang, State.setDie_mem]

@[simp] theorem State.gbarTry_mem (s : State) (d l b : Nat) : (s.gbarTry d l b).mem = s.mem := by
  grind [State.gbarTry, foldl_mem_or, State.post_mem, State.setGang_mem]

@[simp] theorem State.readView_mem (s : State) (die : Nat) (cached : Bool) (pa n : Nat) :
    (s.readView die cached pa n).2.2.mem = s.mem := by
  grind [State.readView, State.keepCopy_mem]

@[simp] theorem State.pop60_mem (s : State) (c : Nat) : (s.pop60 c).2.mem = s.mem := by
  grind [State.pop60, State.setCl_mem, State.machineCheck_mem]

@[simp] theorem State.readReg_mem (s : State) (c : Nat) (r : Reg) : (s.readReg c r).2.mem = s.mem := by
  grind [State.readReg, State.pop60_mem]

theorem State.readSrcs_mem (s : State) (c : Nat) (w : Word32) (srcs : List Reg) (dst : Option Reg) {a : List Word}
    {t : State} (he : s.readSrcs c w srcs dst = .ok (a, t)) : t.mem = s.mem := by
  have hf := foldl_keeps_mem Prod.snd (fun (acc : List Word × State) r =>
      let x := acc.2.readReg c r
      (acc.1 ++ [x.1], x.2)) (fun p r => by simp [State.readReg_mem]) srcs ([], s)
  unfold State.readSrcs at he
  grind

@[simp] theorem State.setPc_mem (s : State) (c : Nat) (pc : Word) : (s.setPc c pc).mem = s.mem := by
  grind [State.setPc, State.setSq_mem]

@[simp] theorem State.advance_mem (s : State) (c : Nat) : (s.advance c).mem = s.mem := by
  grind [State.advance, State.setPc_mem]

@[simp] theorem State.writeDst_mem (s : State) (c : Nat) (d : Reg) (v : Word) : (s.writeDst c d v).mem = s.mem := by
  grind [State.writeDst, State.setSq_mem, State.setCl_mem]

theorem State.compute_mem (s : State) (c : Nat) (w : Word32) (srcs : List Reg) (d : Reg) (f : List Word → Word)
    {t : State} (he : s.compute c w srcs d f = .ok t) : t.mem = s.mem := by
  simp only [State.compute, bind, Except.bind] at he
  grind [State.readSrcs_mem, State.writeDst_mem, State.advance_mem]

@[simp] theorem State.freshen_mem (s : State) (die : Nat) : (s.freshen die).mem = s.mem := by
  grind [State.freshen, foldl_mem_or, State.dropCopy_mem]

@[simp] theorem State.freshAt_mem (s : State) (c : Nat) (sc : Scope) : (s.freshAt c sc).mem = s.mem := by
  grind [State.freshAt, State.freshen_mem]

@[simp] theorem State.after_mem (s : State) (c : Nat) (o : Order) : (s.after c o).mem = s.mem := by
  unfold State.after
  grind [State.acquire_mem]

@[simp] theorem State.markSc_mem (s : State) (agent line : Nat) : (s.markSc agent line).mem = s.mem := by
  grind [State.markSc]

@[simp] theorem State.deliverSc_mem (s : State) (agent die : Nat) (c : Scope) :
    (s.deliverSc agent die c).mem = s.mem := by
  grind [State.deliverSc, foldl_mem_or, State.dropCopy_mem]

@[simp] theorem State.setSlot_mem (s : State) (c i : Nat) (x : LeaseSlot) : (s.setSlot c i x).mem = s.mem := by
  grind [State.setSlot, State.setCl_mem]

@[simp] theorem State.setXq_mem (s : State) (d q : Nat) (x : XQueue) : (s.setXq d q x).mem = s.mem := by
  grind [State.setXq, State.setDie_mem]

@[simp] theorem State.placeMarker_mem (s : State) (c id b : Nat) : (s.placeMarker c id b).mem = s.mem := by
  grind [State.placeMarker, State.setXq_mem, State.setCl_mem, State.setSlot_mem]

@[simp] theorem State.qfence_mem (s : State) (c mask : Nat) : (s.qfence c mask).2.mem = s.mem := by
  grind [State.qfence, foldl_mem_or, State.setPkg_mem, State.placeMarker_mem]

@[simp] theorem State.returnTrap_mem (s : State) (c : Nat) : (s.returnTrap c).mem = s.mem := by
  grind [State.returnTrap, State.setSq_mem]

theorem State.writeMcmode_mem (s : State) (ctx : Nat) (v : Word) {t : State} (he : s.writeMcmode ctx v = some t) :
    t.mem = s.mem := by
  grind [State.writeMcmode, State.setCtx_mem]

theorem State.writeSys_mem (s : State) (c n : Nat) (v : Word) {t : State} (he : s.writeSys c n v = some t) :
    t.mem = s.mem := by
  unfold State.writeSys at he
  grind [State.setSq_mem, State.setCl_mem, State.writeMcmode_mem]

@[simp] theorem State.cmdChecks_mem (s : State) (c ctx : Nat) (bad : List (Nat × Nat)) :
    (s.cmdChecks c ctx bad).mem = s.mem := by
  grind [State.cmdChecks, foldl_mem_or, State.machineCheck_mem]

@[simp] theorem State.renameAgs_mem (s : State) (c : Nat) (as : List (Nat × Nat)) :
    (s.renameAgs c as).mem = s.mem := by
  grind [State.renameAgs]

@[simp] theorem State.lease_mem (s : State) (c i p : Nat) (asked : Bool) : (s.lease c i p asked).mem = s.mem := by
  grind [State.lease, State.setDie_mem, State.setSlot_mem]

@[simp] theorem State.leaseCmd_mem (s : State) (c ctx a b : Nat) : (s.leaseCmd c ctx a b).2.mem = s.mem := by
  grind [State.leaseCmd, State.lease_mem, State.setDie_mem, State.setSlot_mem]

@[simp] theorem State.settleSlot_mem (s : State) (c i : Nat) : (s.settleSlot c i).mem = s.mem := by
  grind [State.settleSlot, State.setDie_mem, State.setSlot_mem]

@[simp] theorem State.amberWakes_mem (s : State) (d : Nat) : (s.amberWakes d).mem = s.mem := by
  grind [State.amberWakes, State.setDie_mem]

@[simp] theorem State.sayLease_mem (s : State) (c i event n reason : Nat) :
    (s.sayLease c i event n reason).mem = s.mem := by
  grind [State.sayLease, State.post_mem]

theorem State.serve_mem (s : State) (d : Nat) (e : LeaseReq) {t : State} (he : s.serve d e = some t) :
    t.mem = s.mem := by
  simp only [State.serve] at he
  split at he <;> split at he
  · split at he
    · grind
    · obtain ⟨k, -, rfl⟩ := Option.map_eq_some_iff.1 he; rfl
  · obtain ⟨k, -, rfl⟩ := Option.map_eq_some_iff.1 he; rfl
  · obtain ⟨k, -, rfl⟩ := Option.map_eq_some_iff.1 he; rfl
  · obtain ⟨k, -, rfl⟩ := Option.map_eq_some_iff.1 he
    simp only [State.sayLease_mem, State.lease_mem, State.setDie_mem]

@[simp] theorem State.serveQueue_mem (d : Nat) (l : List LeaseReq) (s : State) :
    (State.serveQueue d l s).mem = s.mem := by
  fun_induction State.serveQueue <;> grind [State.serve_mem, State.setDie_mem]

@[simp] theorem State.giveNotice_mem (s : State) (d prio : Nat) : (s.giveNotice d prio).mem = s.mem := by
  grind [State.giveNotice, State.serve_mem, State.setDie_mem, State.sayLease_mem]

@[simp] theorem State.arbitrate_mem (s : State) (d : Nat) : (s.arbitrate d).mem = s.mem := by
  grind [State.arbitrate, foldl_mem_or, State.amberWakes_mem, State.serveQueue_mem, State.giveNotice_mem]

@[simp] theorem State.releaseLease_mem (s : State) (c i : Nat) : (s.releaseLease c i).mem = s.mem := by
  grind [State.releaseLease, State.settleSlot_mem, State.setDie_mem, State.setSlot_mem, State.arbitrate_mem]

@[simp] theorem State.countBy_mem (s : State) (h k n : Nat) : (s.countBy h k n).mem = s.mem := by
  grind [State.countBy, State.setPkg_mem]

@[simp] theorem State.dropBoost_mem (s : State) (b : Boost) : (s.dropBoost b).mem = s.mem := by
  grind [State.dropBoost, State.countBy_mem, State.setPkg_mem]

@[simp] theorem State.lfreeCmd_mem (s : State) (c ctx v : Nat) : (s.lfreeCmd c ctx v).2.mem = s.mem := by
  fun_cases State.lfreeCmd <;> simp only [State.releaseLease_mem, State.setDie_mem, State.setSlot_mem,
    State.dropBoost_mem]

@[simp] theorem State.boostCmd_mem (s : State) (c ctx a b : Nat) : (s.boostCmd c ctx a b).2.mem = s.mem := by
  grind [State.boostCmd, State.setPkg_mem]

@[simp] theorem State.tbind_mem (s : State) (c ctx : Nat) (entry v : Word) :
    (s.tbind c ctx entry v).2.mem = s.mem := by
  grind [State.tbind, State.setChan_mem]

@[simp] theorem State.retryHeld_mem (s : State) (c k : Nat) : (s.retryHeld c k).mem = s.mem := by
  grind [State.retryHeld, State.enqueue_mem, State.setCl_mem]

@[simp] theorem State.retryFrom_mem (s : State) (c rank : Nat) : (s.retryFrom c rank).mem = s.mem := by
  unfold State.retryFrom
  exact foldl_keeps_mem Prod.fst _ (fun b a => by grind [State.retryHeld_mem]) _ _

@[simp] theorem State.retryAll_mem (s : State) (c : Nat) : (s.retryAll c).mem = s.mem := by
  grind [State.retryAll, foldl_mem_or, State.retryFrom_mem]

@[simp] theorem State.dispatchTask_mem (s : State) (c : Nat) : (s.dispatchTask c).mem = s.mem := by
  grind [State.dispatchTask, State.acquire_mem, State.setSq_mem, State.setChan_mem]

@[simp] theorem State.mtError_mem (s : State) (t w : Nat) (bad : Bool) : (s.mtError t w bad).mem = s.mem := by
  grind [State.mtError, State.setCl_mem, State.drawNat_mem, State.count_mem]

@[simp] theorem State.eccError_mem (s : State) (sram : Bool) (a : Nat) (bad : Bool) :
    (s.eccError sram a bad).mem = s.mem := by
  grind [State.eccError, State.setCl_mem, State.count_mem, State.mtError_mem]

@[simp] theorem State.scrub_mem (s : State) (sram : Bool) (a : Nat) : (s.scrub sram a).mem = s.mem := by
  grind [State.scrub, State.eccError_mem, State.drawNat_mem]

@[simp] theorem State.posted_mem (s : State) : (s.posted).mem = s.mem := by
  grind [State.posted, State.deliverKnown_mem]

@[simp] theorem State.later_mem (s : State) (d i b : Nat) : (s.later d i b).mem = s.mem := by
  grind [State.later, State.setArec_mem]

theorem State.writeExtent_mem (s : State) (d i b : Nat) (bs : List Byte) {t : State}
    (he : s.writeExtent d i b bs = some t) : t.mem = s.mem := by
  grind [State.writeExtent, State.setAmber_mem, State.countBy_mem]

@[simp] theorem State.barEval_mem (s : State) (c q b : Nat) : (s.barEval c q b).mem = s.mem := by
  simp only [State.barEval]
  split
  · rfl
  · split
    · rw [State.post_mem, State.setCl_mem]
    · rfl

@[simp] theorem State.barWord_mem (s : State) (c q a : Nat) : (s.barWord c q a).mem = s.mem := by
  grind [State.barWord, foldl_mem_or, State.barEval_mem]

@[simp] theorem State.copyStart_mem (s : State) (c q : Nat) (cmd : CopyCmd) : (s.copyStart c q cmd).mem = s.mem := by
  grind [State.copyStart, foldl_mem_or, State.barWord_mem, State.setCl_mem]

@[simp] theorem State.streamStart_mem (s : State) (kd q : Nat) : (s.streamStart kd q).mem = s.mem := by
  grind [State.streamStart, State.copyStart_mem]

@[simp] theorem State.barArrive_mem (s : State) (c q b : Nat) : (s.barArrive c q b).2.mem = s.mem := by
  grind [State.barArrive, foldl_mem_or, State.barEval_mem, State.setCl_mem, State.drawNat_mem]

@[simp] theorem State.retireFence_mem (s : State) (c id : Nat) : (s.retireFence c id).mem = s.mem := by
  grind [State.retireFence, foldl_mem_or, State.setXq_mem, State.setCl_mem]

@[simp] theorem State.performAgs_mem (s : State) (c : Nat) (as : List Nat) : (s.performAgs c as).mem = s.mem := by
  grind [State.performAgs, foldl_mem_or, State.deliverKnown_mem]

@[simp] theorem State.drawPower_mem (s : State) (c u each total : Nat) :
    (s.drawPower c u each total).2.mem = s.mem := by
  grind [State.drawPower, State.setCl_mem, State.setDie_mem]

@[simp] theorem State.queueStore_mem (s : State) (c x : Nat) (p : MtCtx) (q : MtQueue) (t : Token) (flush : Bool) :
    (s.queueStore c x p q t flush).mem = s.mem := by
  grind [State.queueStore, foldl_mem_or, State.drawPower_mem, State.setCl_mem]

@[simp] theorem State.agPower_mem (s : State) (e : AgEnv) : (s.agPower e).2.mem = s.mem := by
  grind [State.agPower, State.drawPower_mem]

@[simp] theorem State.agPortEnd_mem (s : State) (e : AgEnv) : (s.agPortEnd e).mem = s.mem := by
  grind [State.agPortEnd, State.setCl_mem]

@[simp] theorem State.agCheck_mem (s : State) (e : AgEnv) (source pa va lane : Nat) :
    (s.agCheck e source pa va lane).mem = s.mem := by
  grind [State.agCheck, State.machineCheck_mem]

@[simp] theorem State.agRoundEnd_mem (s : State) (e : AgEnv) (final : Bool) : (s.agRoundEnd e final).mem = s.mem := by
  grind [State.agRoundEnd, State.setCl_mem, State.agPortEnd_mem]

@[simp] theorem State.agRelease_mem (s : State) (e : AgEnv) : (s.agRelease e).mem = s.mem := by
  grind [State.agRelease, foldl_mem_or, State.deliverKnown_mem]

@[simp] theorem State.winStore_mem (s : State) (e : AgEnv) (va : Nat) (b : Byte) (bad : Bool) :
    (s.winStore e va b bad).mem = s.mem := by
  grind [State.winStore, State.setCl_mem]

@[simp] theorem State.agSaw_mem (s : State) (e : AgEnv) (sees pas : List Nat) : (s.agSaw e sees pas).mem = s.mem := by
  grind [State.agSaw, State.setSq_mem]

@[simp] theorem State.agFault_mem (s : State) (e : AgEnv) (kind lane code lvl va : Nat) (cnt : List Nat)
    (pend : BitVec 16) (btva : Nat) : (s.agFault e kind lane code lvl va cnt pend btva).mem = s.mem := by
  grind [State.agFault, State.post_mem, State.setCl_mem]

@[simp] theorem State.wantBlock_mem (s : State) (d ctx va : Nat) : (s.wantBlock d ctx va).mem = s.mem := by
  grind [State.wantBlock, State.setDie_mem]

@[simp] theorem State.nestAfter_mem (s : State) (e : AgEnv) (next : List Nat) (lvl : Option Nat) (fin1 : Bool) :
    (s.nestAfter e next lvl fin1).mem = s.mem := by
  grind [State.nestAfter, State.setCl_mem, State.agRoundEnd_mem]

@[simp] theorem State.claimFault_mem (s : State) (c r a : Nat) (f : AFail) : (s.claimFault c r a f).mem = s.mem := by
  grind [State.claimFault, State.post_mem, State.setCl_mem]

@[simp] theorem State.setIsle_mem (s : State) (e : IsleEnv) (m : Isle) : (s.setIsle e m).mem = s.mem := by
  grind [State.setIsle, State.setCl_mem]

@[simp] theorem State.isleEnd_mem (s : State) (e : IsleEnv) : (s.isleEnd e).mem = s.mem := by
  grind [State.isleEnd, foldl_mem_or, State.setCl_mem, State.setIsle_mem]

@[simp] theorem State.isleGoto_mem (s : State) (e : IsleEnv) (ipc : Nat) : (s.isleGoto e ipc).mem = s.mem := by
  grind [State.isleGoto, State.isleEnd_mem, State.setIsle_mem]

@[simp] theorem State.isleChecks_mem (s : State) (e : IsleEnv) (lines : List Nat) :
    (s.isleChecks e lines).mem = s.mem := by
  grind [State.isleChecks, foldl_mem_or, State.setIsle_mem, State.machineCheck_mem]

@[simp] theorem State.killBlock_mem (s : State) (e : IsleEnv) (p : Nat) : (s.killBlock e p).mem = s.mem := by
  grind [State.killBlock, State.setCl_mem]

@[simp] theorem State.portTake_mem (s : State) (e : IsleEnv) (p : Nat) (t : Token) :
    (s.portTake e p t).mem = s.mem := by
  grind [State.portTake, State.killBlock_mem, State.setIsle_mem]

@[simp] theorem State.killValues_mem (s : State) (e : IsleEnv) : (s.killValues e).mem = s.mem := by
  grind [State.killValues, State.killBlock_mem, State.setIsle_mem]

/-- Two states hold the same memory. -/
def SameMem (s t : State) : Prop := t.mem = s.mem

theorem State.tbind_post_sameMem (s : State) (c ctx sender n : Nat) (entry v : Word) (m : QMsg) :
    SameMem s ((s.tbind c ctx entry v).2.post c sender n m) :=
  (State.post_mem _ c sender n m).trans (State.tbind_mem s c ctx entry v)

theorem State.startGang_sameMem (s : State) (d : Nat) (g : Gang) : SameMem s (s.startGang d g) :=
  foldl_frame (R := SameMem) (fun _ => rfl) (fun _ _ _ a b => b.trans a) _ (fun _ _ => State.tbind_post_sameMem ..) _ _

@[simp] theorem State.startGang_mem (s : State) (d : Nat) (g : Gang) : (s.startGang d g).mem = s.mem :=
  s.startGang_sameMem d g

@[simp] theorem State.mixBytes_mem (l : List ((Byte × Bool) × Byte × Bool)) (s : State) :
    (State.mixBytes l s).2.mem = s.mem := by
  fun_induction State.mixBytes <;> grind [State.drawNat_mem]

@[simp] theorem State.pralineDone_mem (s : State) (c i : Nat) (y : PCmd) : (s.pralineDone c i y).mem = s.mem := by
  grind [State.pralineDone, State.post_mem]

@[simp] theorem State.dropEngines_mem (s : State) (d : Nat) : (s.dropEngines d).mem = s.mem := by
  grind [State.dropEngines, State.setDie_mem, State.restEngines_mem]

@[simp] theorem State.amberEvicted_mem (s : State) (d p : Nat) : (s.amberEvicted d p).mem = s.mem := by
  grind [State.amberEvicted, State.setDie_mem, State.dropEngines_mem]

@[simp] theorem State.moveSpines_mem (s : State) (c sp : Nat) : (s.moveSpines c sp).mem = s.mem := by
  grind [State.moveSpines, foldl_mem_or, State.setDie_mem]

@[simp] theorem Boost.say_mem (b : Boost) (s : State) (event n reason : Nat) :
    (Boost.say b s event n reason).mem = s.mem := by
  grind [Boost.say, State.post_mem]

@[simp] theorem State.endBoost_mem (s : State) (b : Boost) (reason : Nat) : (s.endBoost b reason).mem = s.mem := by
  grind [State.endBoost, Boost.say_mem, State.dropBoost_mem]

@[simp] theorem State.revokeBoosts_mem (s : State) : (s.revokeBoosts).mem = s.mem := by
  grind [State.revokeBoosts, foldl_mem_or, State.endBoost_mem, State.setPkg_mem, Boost.say_mem]

@[simp] theorem State.lostMessage_mem (s : State) (d x : Nat) : (s.lostMessage d x).mem = s.mem := by
  grind [State.lostMessage, State.send_mem]

@[simp] theorem State.quietLeases_mem (s : State) (c x : Nat) : (s.quietLeases c x).mem = s.mem := by
  grind [State.quietLeases, foldl_mem_or, State.setDie_mem, State.setSlot_mem]

@[simp] theorem State.thermalBoosts_mem (s : State) : (s.thermalBoosts).mem = s.mem := by
  grind [State.thermalBoosts, foldl_mem_or, State.endBoost_mem]

@[simp] theorem State.emergMessage_mem (s : State) (d : Nat) : (s.emergMessage d).mem = s.mem := by
  grind [State.emergMessage, State.send_mem]

@[simp] theorem State.thermalDone_mem (s : State) (d : Nat) : (s.thermalDone d).mem = s.mem := by
  grind [State.thermalDone, State.emergMessage_mem, State.setDie_mem]

@[simp] theorem State.critical_mem (s : State) (d : Nat) : (s.critical d).mem = s.mem := by
  grind [State.critical, State.thermalBoosts_mem, State.setDie_mem, State.thermalDone_mem, State.count_mem,
    State.dropEngines_mem]

@[simp] theorem State.rewriteLog_mem (s : State) : (s.rewriteLog).mem = s.mem := by
  grind [State.rewriteLog, State.setPkg_mem]

@[simp] theorem State.restoreXcmds_mem (s : State) (r : SaveRec) (x d : Nat) (pairs : List (SavedCl × Nat)) :
    (s.restoreXcmds r x d pairs).mem = s.mem := by
  grind [State.restoreXcmds, foldl_mem_or, State.setXq_mem]

@[simp] theorem State.wakeLease_mem (s : State) (c i : Nat) : (s.wakeLease c i).mem = s.mem := by
  grind [State.wakeLease, State.wakeFor_mem]

@[simp] theorem State.thermalNext_mem (s : State) (d x : Nat) (ok : Bool) : (s.thermalNext d x ok).mem = s.mem := by
  grind [State.thermalNext, State.lostMessage_mem, State.setDie_mem, State.thermalDone_mem]

@[simp] theorem State.setPreempt_mem (s : State) (p : Preempt) : (s.setPreempt p).mem = s.mem := by
  grind [State.setPreempt, State.setPkg_mem]

@[simp] theorem State.saveImage_mem (s : State) (p : Preempt) : (s.saveImage p).2.mem = s.mem := by
  grind [State.saveImage, State.setCtx_mem]

@[simp] theorem State.dropPreempt_mem (s : State) (x d : Nat) : (s.dropPreempt x d).mem = s.mem := by
  grind [State.dropPreempt, State.setPkg_mem]

@[simp] theorem State.thaw_mem (s : State) (p : Preempt) : (s.thaw p).mem = s.mem := by
  grind [State.thaw, foldl_mem_or, State.setCl_mem, State.dropPreempt_mem]

@[simp] theorem State.setFeatures_mem (s : State) (v : Nat) : (s.setFeatures v).2.mem = s.mem := by
  grind [State.setFeatures, State.setPkg_mem]

@[simp] theorem State.bindKeys_mem (s : State) (x : Nat) (ks : List (Nat × List Byte)) :
    (s.bindKeys x ks).mem = s.mem := by
  grind [State.bindKeys, foldl_mem_or, State.setDie_mem]

@[simp] theorem State.giveTables_mem (s : State) (ts : List Nat) : (s.giveTables ts).mem = s.mem := by
  grind [State.giveTables, State.setPkg_mem]

@[simp] theorem State.dropTlb_mem (s : State) (ctx va len : Nat) : (s.dropTlb ctx va len).mem = s.mem := by
  grind [State.dropTlb]

@[simp] theorem State.setHeadX_mem (s : State) (d q : Nat) (c : XCmd) : (s.setHeadX d q c).mem = s.mem := by
  grind [State.setHeadX, State.setXq_mem]

@[simp] theorem State.remoteAnswer_mem (s : State) : (s.remoteAnswer).2.mem = s.mem := by
  grind [State.remoteAnswer, State.drawNat_mem]

@[simp] theorem State.laneChecks_mem (s : State) (cl ctx pa va : Nat) (bs : List (Byte × Bool)) :
    (s.laneChecks cl ctx pa va bs).mem = s.mem := by
  grind [State.laneChecks, foldl_mem_or, State.machineCheck_mem]

@[simp] theorem State.freeBytes_mem (n : Nat) (s : State) : (State.freeBytes n s).2.mem = s.mem := by
  fun_induction State.freeBytes <;> grind [State.drawWord_mem, State.drawNat_mem]

@[simp] theorem State.exchangeDone_mem (s : State) (q : Nat) (c : XCmd) : (s.exchangeDone q c).mem = s.mem := by
  grind [State.exchangeDone, State.post_mem]

@[simp] theorem State.atUnit_mem (s : State) (c u : Nat) : (s.atUnit c u).mem = s.mem := by
  grind [State.atUnit]

@[simp] theorem State.advanceClock_mem (s : State) (d us : Nat) : (s.advanceClock d us).mem = s.mem := by
  grind [State.advanceClock, State.setDie_mem, State.setPkg_mem]

/-! ### Operations that keep the canonical form -/

theorem State.amberStore_wf (s : State) (d pa : Nat) (bs : List Byte) (h : s.mem.wf = true) :
    (s.amberStore d pa bs).mem.wf = true := by
  grind [State.amberStore, storeHome_wf]

theorem State.writeAge_wf (s : State) (d i : Nat) (h : s.mem.wf = true) : (s.writeAge d i).mem.wf = true := by
  grind [State.writeAge, State.amberStore_wf]

theorem State.setAD_wf (s : State) (die : Nat) (l : Leaf) (w : Bool) (h : s.mem.wf = true) :
    (s.setAD die l w).mem.wf = true := by
  grind [State.setAD, storeHome_wf]

theorem State.freshWalk_wf (s : State) (die mcl ctx va : Nat) (k : AccKind) (h : s.mem.wf = true) :
    (s.freshWalk die mcl ctx va k).2.2.mem.wf = true := by
  grind [State.freshWalk, State.setAD_wf, State.machineCheck_mem]

theorem State.translate_wf (s : State) (owner die mcl ctx : Nat) (k : AccKind) (va : Nat) (h : s.mem.wf = true) :
    (s.translate owner die mcl ctx k va).2.mem.wf = true := by
  grind [State.translate, State.freshWalk_wf]

theorem State.amberRead_wf (x : AmbAcc) (d : Nat) (k : AccKind) (n : Nat) (s : State) (m i : Nat)
    (h : s.mem.wf = true) : (State.amberRead x d k n s m i).2.mem.wf = true := by
  fun_induction State.amberRead <;> grind [State.translate_wf]

theorem State.probe_wf (w : Who) (ctx n : Nat) (s : State) (m k : Nat) (h : s.mem.wf = true) :
    (State.probe w ctx n s m k).2.mem.wf = true := by
  fun_induction State.probe <;> grind [State.translate_wf]

theorem State.storeLines_wf (agent n : Nat) (s : State) (m : Nat) (l : List Byte) (h : s.mem.wf = true) :
    (State.storeLines agent n s m l).mem.wf = true := by
  fun_induction State.storeLines <;> grind [storeHome_wf]

theorem State.storeMarked_wf (s : State) (w : Who) (pa : Nat) (l : List (Byte × Bool)) (h : s.mem.wf = true) :
    (s.storeMarked w pa l).mem.wf = true := by
  unfold State.storeMarked
  grind [foldl_wf_or, storeHome_wf, State.storeLines_wf]

theorem State.engWriteF_wf (w : Who) (ctx n : Nat) (s : State) (m : Nat) (l : List (Byte × Bool))
    (h : s.mem.wf = true) : (State.engWriteF w ctx n s m l).2.mem.wf = true := by
  fun_induction State.engWriteF <;> grind [State.translate_wf, State.storeMarked_wf, State.deviceStore_mem]

theorem State.engWrite_wf (s : State) (w : Who) (ctx va : Nat) (bs : List (Byte × Bool)) (h : s.mem.wf = true) :
    (s.engWrite w ctx va bs).2.mem.wf = true := by
  grind [State.engWrite, State.engWriteF_wf]

theorem State.accPut_wf (s : State) (x : AmbAcc) (d va : Nat) (bs : List (Byte × Bool)) (h : s.mem.wf = true) :
    (s.accPut x d va bs).2.mem.wf = true := by
  grind [State.accPut, State.engWrite_wf, State.probe_wf]

theorem State.closeStack_wf (s : State) (x : AmbAcc) (d va n : Nat) (h : s.mem.wf = true) :
    (s.closeStack x d va n).mem.wf = true := by
  grind [State.closeStack, State.amberRelease_mem, State.accPut_wf]

theorem State.tryPush_wf (s : State) (d i : Nat) (p : Push) (h : s.mem.wf = true) :
    (s.tryPush d i p).2.mem.wf = true := by
  grind [State.tryPush, State.acquire_mem, State.amberRead_wf, State.accPut_wf, State.closeStack_wf,
    State.accFail_mem]

theorem State.givePush_wf (s : State) (d i : Nat) (p : Push) (h : s.mem.wf = true) :
    (s.givePush d i p).mem.wf = true := by
  grind [State.givePush, State.setArec_mem, State.tryPush_wf]

theorem State.giveBack_wf (s : State) (d i : Nat) (toH : Bool) (block : Nat) (entry : Option Nat)
    (h : s.mem.wf = true) : (s.giveBack d i toH block entry).mem.wf = true := by
  grind [State.giveBack, State.givePush_wf]

theorem State.abandonDemotions_wf (s : State) (d i : Nat) (h : s.mem.wf = true) :
    (s.abandonDemotions d i).mem.wf = true := by
  grind [State.abandonDemotions, State.unwatch_mem, State.giveBack_wf, State.setArec_mem, State.restEngines_mem]

theorem State.writeRec_wf (s : State) (d i : Nat) (h : s.mem.wf = true) : (s.writeRec d i).mem.wf = true := by
  grind [State.writeRec, State.amberStore_wf]

theorem State.accGet_wf (s : State) (x : AmbAcc) (d va n : Nat) (h : s.mem.wf = true) :
    (s.accGet x d va n).2.mem.wf = true := by
  grind [State.accGet, State.amberRead_wf]

theorem State.amberGet_wf (s : State) (d i va n : Nat) (h : s.mem.wf = true) :
    (s.amberGet d i va n).2.mem.wf = true := by
  grind [State.amberGet, State.accGet_wf]

theorem State.amberDesc_wf (s : State) (d i : Nat) (h : s.mem.wf = true) : (s.amberDesc d i).2.mem.wf = true := by
  grind [State.amberDesc, State.amberGet_wf]

theorem State.abandonPromotions_wf (s : State) (d i : Nat) (p : Nat → Bool) (h : s.mem.wf = true) :
    (s.abandonPromotions d i p).mem.wf = true := by
  unfold State.abandonPromotions
  exact foldl_keeps_wf id _ (fun t x ht => by grind [State.giveBack_wf]) _ _
    (by grind [State.setArec_mem, State.restEngines_mem])

theorem State.entry_wf (s : State) (d i : Nat) (t : BlockTab) (b : Nat) (h : s.mem.wf = true) :
    (s.entry d i t b).2.mem.wf = true := by
  grind [State.entry, State.amberFail_mem, State.amberGet_wf]

theorem State.accCas_wf (s : State) (x : AmbAcc) (d i b va old new : Nat) (h : s.mem.wf = true) :
    (s.accCas x d i b va old new).2.mem.wf = true := by
  grind [State.accCas, foldl_wf_or, State.translate_wf, State.accFail_mem, State.amberStore_wf, State.dropCopy_mem]

theorem State.cas_wf (s : State) (d i : Nat) (t : BlockTab) (b old new : Nat) (h : s.mem.wf = true) :
    (s.cas d i t b old new).2.mem.wf = true := by
  grind [State.cas, State.accCas_wf]

theorem State.markPending_wf (s : State) (d i b : Nat) (h : s.mem.wf = true) :
    (s.markPending d i b).2.mem.wf = true := by
  grind [State.markPending, State.entry_wf, State.cas_wf]

theorem State.wantUp_wf (s : State) (d i b : Nat) (h : s.mem.wf = true) : (s.wantUp d i b).mem.wf = true := by
  grind [State.wantUp, State.laterUp_mem, State.setArec_mem, State.markPending_wf]

theorem State.markRange_wf (s : State) (d i lo hi : Nat) (h : s.mem.wf = true) :
    (s.markRange d i lo hi).mem.wf = true := by
  grind [State.markRange, foldl_wf_or, State.wantUp_wf]

theorem State.entries_wf (d i : Nat) (t : BlockTab) (l : List Nat) (s : State) (h : s.mem.wf = true) :
    (State.entries d i t l s).2.mem.wf = true := by
  fun_induction State.entries <;> grind [State.entry_wf]

theorem State.recount_wf (s : State) (d i : Nat) (h : s.mem.wf = true) : (s.recount d i).mem.wf = true := by
  grind [State.recount, State.entries_wf, State.amberStore_wf]

theorem State.nextPending_wf (s : State) (d i st : Nat) (l : List Nat) (h : s.mem.wf = true) :
    (s.nextPending d i st l).2.mem.wf = true := by
  fun_induction State.nextPending <;> grind [State.laterUp_mem, State.settledUp_mem, State.setArec_mem,
    State.entry_wf]

theorem State.popBlock_wf (s : State) (d i va b : Nat) (h : s.mem.wf = true) :
    (s.popBlock d i va b).2.mem.wf = true := by
  grind [State.popBlock, State.acquire_mem, State.amberRead_wf, State.closeStack_wf, State.accFail_mem,
    State.accGet_wf]

theorem State.startPromotion_wf (s : State) (d i st : Nat) (h : s.mem.wf = true) :
    (s.startPromotion d i st).mem.wf = true := by
  grind [State.startPromotion, State.popBlock_wf, State.wakeEngines_mem, State.setArec_mem, State.nextPending_wf,
    State.amberSay_mem]

theorem State.pump_wf (s : State) (d i : Nat) (h : s.mem.wf = true) : (s.pump d i).mem.wf = true := by
  grind [State.pump, State.startPromotion_wf]

theorem State.allHome_wf (s : State) (d i lo hi : Nat) (h : s.mem.wf = true) :
    (s.allHome d i lo hi).2.mem.wf = true := by
  grind [State.allHome, State.entries_wf]

theorem State.dropEntry_wf (s : State) (d i : Nat) (u : Undone) (h : s.mem.wf = true) :
    (s.dropEntry d i u).mem.wf = true := by
  grind [State.dropEntry, State.accFail_mem, State.accGet_wf, State.setArec_mem, State.accCas_wf, State.givePush_wf]

theorem State.freeBeyond_wf (s : State) (d i : Nat) (h : s.mem.wf = true) : (s.freeBeyond d i).mem.wf = true := by
  grind [State.freeBeyond, foldl_wf_or, State.dropEntry_wf, State.setArec_mem, State.freeExtent_mem]

theorem State.freeIfHome_wf (s : State) (d i : Nat) (h : s.mem.wf = true) : (s.freeIfHome d i).mem.wf = true := by
  grind [State.freeIfHome, State.freeBeyond_wf, State.writeRec_wf, State.setArec_mem, State.allHome_wf]

theorem State.engReadF_wf (w : Who) (ctx : Nat) (k : AccKind) (n : Nat) (s : State) (m i : Nat)
    (h : s.mem.wf = true) : (State.engReadF w ctx k n s m i).2.mem.wf = true := by
  fun_induction State.engReadF <;> grind [foldl_mem_or, State.translate_wf, State.keepCopy_mem]

theorem State.engRead_wf (s : State) (w : Who) (ctx va n : Nat) (h : s.mem.wf = true) :
    (s.engRead w ctx va n).2.mem.wf = true := by
  grind [State.engRead, State.engReadF_wf]

theorem State.readWaits_wf (d ctx : Nat) (l : List (Nat × Nat × Nat)) (s : State) (h : s.mem.wf = true) :
    (State.readWaits d ctx l s).2.mem.wf = true := by
  fun_induction State.readWaits <;> grind [State.acquire_mem, State.engRead_wf]

theorem State.watch_wf (s : State) (d : Nat) (l : Launch) (h : s.mem.wf = true) : (s.watch d l).2.mem.wf = true := by
  grind [State.watch, State.readWaits_wf]

theorem State.accept_wf (s : State) (d p : Nat) (ctxOk : Nat → Bool) (args : Option Msg) (link : Option Nat)
    (h : s.mem.wf = true) : (s.accept d p ctxOk args link).2.2.mem.wf = true := by
  grind [State.accept, State.engRead_wf, State.setDie_mem, State.watch_wf]

theorem State.submitPacket_wf (s : State) (d : Nat) (x : Resubmit) (h : s.mem.wf = true) :
    (s.submitPacket d x).mem.wf = true := by
  grind [State.submitPacket, State.setAmber_mem, State.amberSay_mem, State.accept_wf]

theorem State.submit_wf (s : State) (d i nh : Nat) (h : s.mem.wf = true) : (s.submit d i nh).mem.wf = true := by
  grind [State.submit, State.engRead_wf, State.submitPacket_wf, State.amberSay_mem]

theorem State.checkRecord_wf (s : State) (d i : Nat) (h : s.mem.wf = true) : (s.checkRecord d i).mem.wf = true := by
  grind [State.checkRecord, State.writeRec_wf, State.setArec_mem, State.submit_wf, State.amberSay_mem,
    State.recount_wf, State.allHome_wf, State.freeIfHome_wf]

theorem State.wake_wf (s : State) (d i arg : Nat) (h : s.mem.wf = true) : (s.wake d i arg).mem.wf = true := by
  grind [State.wake, State.pump_wf, State.writeAge_wf, State.checkRecord_wf, State.abandonPromotions_wf,
    State.writeRec_wf, State.markRange_wf, State.amberDesc_wf, State.setArec_mem, State.recount_wf,
    State.amberFail_mem, State.abandonDemotions_wf]

theorem State.promoteAll_wf (s : State) (d i : Nat) (h : s.mem.wf = true) : (s.promoteAll d i).mem.wf = true := by
  grind [State.promoteAll, State.pump_wf, State.checkRecord_wf, State.markRange_wf, State.setArec_mem,
    State.recount_wf]

theorem State.promoteOne_wf (s : State) (d i b : Nat) (h : s.mem.wf = true) : (s.promoteOne d i b).mem.wf = true := by
  grind [State.promoteOne, State.laterUp_mem, State.pump_wf, State.setArec_mem, State.markPending_wf]

theorem State.dropRecord_wf (s : State) (d i : Nat) (h : s.mem.wf = true) : (s.dropRecord d i).mem.wf = true := by
  grind [State.dropRecord, foldl_wf_or, State.writeAge_wf, State.freeBeyond_wf, State.dropEntry_wf,
    State.abandonPromotions_wf, State.writeRec_wf, State.setArec_mem, State.recount_wf, State.freeExtent_mem,
    State.abandonDemotions_wf]

theorem State.wakeSlot_wf (s : State) (d i token : Nat) (op : WakeOp) (arg : Nat) (h : s.mem.wf = true) :
    (s.wakeSlot d i token op arg).mem.wf = true := by
  unfold State.wakeSlot
  grind [State.promoteOne_wf, State.wake_wf, State.amberDrop_mem, State.dropRecord_wf, State.recount_wf,
    State.promoteAll_wf]

theorem State.wakeStore_wf (s : State) (d i v : Nat) (h : s.mem.wf = true) : (s.wakeStore d i v).mem.wf = true := by
  grind [State.wakeStore, State.amberDrop_mem, State.wakeSlot_wf]

theorem State.parkFails_wf (s : State) (d i perr : Nat) (h : s.mem.wf = true) :
    (s.parkFails d i perr).mem.wf = true := by
  grind [State.parkFails, State.writeRec_wf, State.setArec_mem, State.amberStore_wf]

theorem State.park_wf (s : State) (d i : Nat) (h : s.mem.wf = true) : (s.park d i).mem.wf = true := by
  grind [State.park, State.writeAge_wf, State.writeRec_wf, State.parkFails_wf, State.amberDesc_wf, State.setArec_mem,
    State.recount_wf]

theorem State.amberPark_wf (s : State) (d v : Nat) (h : s.mem.wf = true) : (s.amberPark d v).mem.wf = true := by
  grind [State.amberPark, State.amberDrop_mem, State.park_wf]

theorem State.pumpHq_wf (d q n : Nat) (s : State) (h : s.mem.wf = true) : (State.pumpHq d q n s).mem.wf = true := by
  fun_induction State.pumpHq <;> grind [State.setHq_mem, State.hqPacket_mem, State.accept_wf]

theorem State.serveHq_wf (s : State) (d q : Nat) (h : s.mem.wf = true) : (s.serveHq d q).mem.wf = true := by
  fun_cases State.serveHq
  · exact h
  · exact h
  · exact State.pumpHq_wf d q _ s h

theorem State.hqDoorbell_wf (s : State) (d q v : Nat) (h : s.mem.wf = true) : (s.hqDoorbell d q v).mem.wf = true := by
  grind [State.hqDoorbell, State.serveHq_wf, State.setHq_mem]

theorem State.hqWrite_wf (s : State) (d q off v : Nat) (h : s.mem.wf = true) :
    (s.hqWrite d q off v).mem.wf = true := by
  unfold State.hqWrite
  grind [State.setHq_mem, State.hqDoorbell_wf]

theorem State.deviceWrite_wf (s : State) (src : DevSrc) (pa : Nat) (v : Word) (h : s.mem.wf = true) :
    (s.deviceWrite src pa v).mem.wf = true := by
  unfold State.deviceWrite
  grind [State.amberPark_wf, State.setCl_mem, State.setDie_mem, State.wakeStore_wf, State.hqWrite_wf,
    State.mbxWrite_mem, State.send_mem]

theorem State.flushDev_wf (s : State) (h : s.mem.wf = true) : (s.flushDev).mem.wf = true := by
  unfold State.flushDev
  exact foldl_keeps_wf id _ (fun t w ht => by grind [State.deviceWrite_wf, State.deviceOdd_mem]) _ _ h

theorem State.performStore_wf (s : State) (c : Nat) (e : StoreEnt) (h : s.mem.wf = true) :
    (s.performStore c e).mem.wf = true := by
  grind [State.performStore, storeHome_wf, State.deliverKnown_mem]

theorem State.drainTo_wf (s : State) (c : Nat) (p : StoreEnt → Bool) (h : s.mem.wf = true) :
    (s.drainTo c p).mem.wf = true := by
  grind [State.drainTo, foldl_wf_or, State.setSq_mem, State.performStore_wf]

theorem State.settleOwn_wf (s : State) (c pa n : Nat) (h : s.mem.wf = true) : (s.settleOwn c pa n).mem.wf = true := by
  grind [State.settleOwn, State.drainTo_wf]

theorem State.drainRel_wf (s : State) (c : Nat) (h : s.mem.wf = true) : (s.drainRel c).mem.wf = true := by
  grind [State.drainRel, State.drainTo_wf]

theorem State.amoHome_wf (s : State) (c ctx va pa n : Nat) (f : AmoFn) (op cmp : Nat) {pre : State → State}
    (hp : ∀ t : State, t.mem.wf = true → (pre t).mem.wf = true) (h : s.mem.wf = true) :
    (s.amoHome c ctx va pa n f op cmp pre).2.mem.wf = true := by
  grind [State.amoHome, State.settleOwn_wf, State.seqPoison_mem, State.dropCopy_mem, storeHome_wf]

theorem State.performEnt_wf (s : State) (c : Nat) (e : LoadEnt) (h : s.mem.wf = true) :
    (s.performEnt c e).mem.wf = true := by
  have ha := fun k op cmp => s.amoHome_wf c e.ctx e.va e.pa e.size k op cmp (fun t => t.drainRel_wf c) h
  grind [State.performEnt, State.loadMem_mem, State.setSq_mem]

theorem State.performLoads_wf (s : State) (c : Nat) (p : LoadEnt → Bool) (h : s.mem.wf = true) :
    (s.performLoads c p).mem.wf = true := by
  grind [State.performLoads, foldl_wf_or, State.performEnt_wf, State.setSq_mem]

theorem State.settleLoads_wf (s : State) (c : Nat) (h : s.mem.wf = true) : (s.settleLoads c).mem.wf = true := by
  grind [State.settleLoads, State.performLoads_wf]

theorem State.decideSave_wf (s : State) (c x : Nat) (coop : Bool) (h : s.mem.wf = true) :
    (s.decideSave c x coop).mem.wf = true := by
  grind [State.decideSave, State.settleLoads_wf, State.setCl_mem]

theorem State.expireDeadline_wf (s : State) (c x : Nat) (h : s.mem.wf = true) :
    (s.expireDeadline c x).mem.wf = true := by
  grind [State.expireDeadline, State.decideSave_wf]

theorem State.passDeadlines_wf (s : State) (c : Nat) (h : s.mem.wf = true) : (s.passDeadlines c).mem.wf = true := by
  grind [State.passDeadlines, foldl_wf_or, State.expireDeadline_wf]

theorem State.beginSeq_wf (s : State) (c : Nat) (h : s.mem.wf = true) : (s.beginSeq c).mem.wf = true := by
  grind [State.beginSeq, State.passDeadlines_wf, State.arm_mem, State.atSeq_mem, State.tickCycle_mem]

theorem State.engPut_wf (s : State) (w : Who) (ctx va : Nat) (bs : List Byte) (h : s.mem.wf = true) :
    (s.engPut w ctx va bs).2.mem.wf = true := by
  grind [State.engPut, State.engWrite_wf]

theorem State.report_wf (s : State) (d : Nat) (g : Gang) (off v : Nat) (c : Scope) (h : s.mem.wf = true) :
    (s.report d g off v c).mem.wf = true := by
  grind [State.report, State.engPut_wf, State.deliverKnown_mem]

theorem State.setMember_wf (s : State) (d l m : Nat) (f : Member → Member) (h : s.mem.wf = true) :
    (s.setMember d l m f).mem.wf = true := by
  grind [State.setMember, foldl_wf_or, State.gbarTry_mem, State.report_wf, State.setGang_mem, State.reportLink_mem]

theorem State.releaseUnclaimed_wf (s : State) (c l : Nat) (h : s.mem.wf = true) :
    (s.releaseUnclaimed c l).mem.wf = true := by
  grind [State.releaseUnclaimed, foldl_wf_or, State.setCl_mem, State.setMember_wf]

theorem State.endTask_wf (s : State) (c : Nat) (h : s.mem.wf = true) : (s.endTask c).mem.wf = true := by
  grind [State.endTask, State.releaseUnclaimed_wf, State.setSq_mem]

theorem State.abandon_wf (s : State) (c : Nat) (t : Trap) (h : s.mem.wf = true) : (s.abandon c t).mem.wf = true := by
  grind [State.abandon, State.post_mem, State.setSq_mem, State.endTask_wf, State.send_mem]

theorem State.takeTrap_wf (s : State) (c : Nat) (t : Trap) (h : s.mem.wf = true) :
    (s.takeTrap c t).mem.wf = true := by
  grind [State.takeTrap, State.setSq_mem, State.abandon_wf]

theorem State.fetchTrap_wf (s : State) (c : Nat) (t : Trap) (h : s.mem.wf = true) :
    (s.fetchTrap c t).mem.wf = true := by
  grind [State.fetchTrap, State.settleLoads_wf, State.takeTrap_wf]

theorem State.xlatCl_wf (s : State) (c ctx : Nat) (k : AccKind) (va : Nat) (h : s.mem.wf = true) :
    (s.xlatCl c ctx k va).2.mem.wf = true := by
  grind [State.xlatCl, State.translate_wf]

theorem State.target_wf (s : State) (c ctx va n : Nat) (k : AccKind) (h : s.mem.wf = true) :
    (s.target c ctx va n k).2.mem.wf = true := by
  grind [State.target, State.xlatCl_wf]

theorem State.performLoad_wf (s : State) (c ctx va n : Nat) (t : Target) (h : s.mem.wf = true) :
    (s.performLoad c ctx va n t).2.mem.wf = true := by
  unfold State.performLoad
  grind [State.seqPoison_mem, drainAll_wf, State.loadMem_mem]

theorem State.releaseAt_wf (s : State) (c : Nat) (sc : Scope) (h : s.mem.wf = true) :
    (s.releaseAt c sc).mem.wf = true := by
  grind [State.releaseAt, drainAll_wf, State.deliverKnown_mem]

theorem State.before_wf (s : State) (c : Nat) (o : Order) (sc : Scope) (h : s.mem.wf = true) :
    (s.before c o sc).mem.wf = true := by
  unfold State.before
  grind [State.releaseAt_wf, State.freshAt_mem]

theorem State.performSt_wf (s : State) (c ctx n v : Nat) (t : Target) (o : Order) (sc : Scope) (h : s.mem.wf = true) :
    (s.performSt c ctx n v t o sc).mem.wf = true := by
  unfold State.performSt
  grind [drainAll_wf, State.markSc_mem, State.deviceOdd_mem, State.setSq_mem, State.setCl_mem, State.releaseAt_wf,
    State.drainRel_wf, State.deviceWrite_wf]

theorem State.beforeAmo_wf (s : State) (c : Nat) (o : Order) (sc : Scope) (h : s.mem.wf = true) :
    (s.beforeAmo c o sc).mem.wf = true := by
  unfold State.beforeAmo
  grind [State.releaseAt_wf, State.drainRel_wf]

theorem State.performAmo_wf (s : State) (c ctx va n : Nat) (f : AmoFn) (op cmp : Nat) (t : Target) (o : Order)
    (sc : Scope) (h : s.mem.wf = true) : (s.performAmo c ctx va n f op cmp t o sc).2.mem.wf = true := by
  cases t with
  | bank off => grind [State.performAmo, State.seqPoison_mem, State.beforeAmo_wf, State.setCl_mem]
  | device pa => exact h
  | mem pa cached =>
    have ha := s.amoHome_wf c ctx va pa n f op cmp (fun t => t.beforeAmo_wf c o sc) h
    simp only [State.performAmo]
    split <;> simpa [State.markSc_mem]

theorem State.fence_wf (s : State) (c : Nat) (o : Order) (sc : Scope) (h : s.mem.wf = true) :
    (s.fence c o sc).mem.wf = true := by
  unfold State.fence
  grind [State.acquire_mem, State.releaseAt_wf, State.freshAt_mem]

theorem State.xlatFlush_wf (s : State) (c ctx va : Nat) (h : s.mem.wf = true) :
    (s.xlatFlush c ctx va).2.mem.wf = true := by
  grind [State.xlatFlush, State.setAD_wf, State.xlatCl_wf]

theorem State.copyIssue_wf (s : State) (c ctx : Nat) (strm : Bool) (va qn : Word) (h : s.mem.wf = true) :
    (s.copyIssue c ctx strm va qn).2.mem.wf = true := by
  grind [State.copyIssue, State.setCl_mem, State.releaseAt_wf]

theorem State.cmdBytes_wf (s : State) (c ctx va n : Nat) (h : s.mem.wf = true) :
    (s.cmdBytes c ctx va n).2.mem.wf = true := by
  grind [State.cmdBytes, State.engRead_wf, State.xlatCl_wf]

theorem State.readRecs_wf (c ctx va len n : Nat) (s : State) (m : Nat) (h : s.mem.wf = true) :
    (State.readRecs c ctx va len n s m).2.mem.wf = true := by
  fun_induction State.readRecs <;> grind [State.cmdBytes_wf]

theorem State.readImageRaw_wf (s : State) (c ctx va : Nat) (h : s.mem.wf = true) :
    (s.readImageRaw c ctx va).2.mem.wf = true := by
  grind [State.readImageRaw, State.cmdBytes_wf, State.readRecs_wf]

theorem State.readImage_wf (s : State) (c ctx va : Nat) (h : s.mem.wf = true) :
    (s.readImage c ctx va).2.mem.wf = true := by
  grind [State.readImage, State.readImageRaw_wf, State.cmdChecks_mem]

theorem State.cfgCmd_wf (s : State) (c ctx : Nat) (va h : Word) {a : Word} {t : State}
    (he : s.cfgCmd c ctx va h = .ok (a, t)) (hw : s.mem.wf = true) : t.mem.wf = true := by
  grind [State.cfgCmd, drainAll_wf, State.setCl_mem, State.readImage_wf]

theorem State.moveResid_wf (s : State) (c r o : Nat) (h : s.mem.wf = true) : (s.moveResid c r o).mem.wf = true := by
  grind [State.moveResid, State.setCl_mem, State.renameAgs_mem, State.setMember_wf]

theorem State.residWith_wf (s : State) (c ctx d : Nat) (m : Image) (h : s.mem.wf = true) :
    (s.residWith c ctx d m).2.mem.wf = true := by
  fun_cases State.residWith <;> grind [foldl_wf_or, State.moveResid_wf, State.setCl_mem, State.releaseAt_wf,
    State.setMember_wf]

theorem State.residCmd_wf (s : State) (c ctx : Nat) (va : Word) {a : Word} {t : State}
    (he : s.residCmd c ctx va = .ok (a, t)) (h : s.mem.wf = true) : t.mem.wf = true := by
  grind [State.residCmd, drainAll_wf, State.residWith_wf, State.readImage_wf]

theorem State.paramCmd_wf (s : State) (c ctx : Nat) (t v : Word) (h : s.mem.wf = true) :
    (s.paramCmd c ctx t v).2.mem.wf = true := by
  grind [State.paramCmd, State.setCl_mem, State.releaseAt_wf]

theorem State.gbarCmd_wf (s : State) (c ctx : Nat) (t mw : Word) (h : s.mem.wf = true) :
    (s.gbarCmd c ctx t mw).2.mem.wf = true := by
  grind [State.gbarCmd, State.gbarTry_mem, State.setGang_mem, State.releaseAt_wf]

theorem State.resumeCmd_wf (s : State) (c ctx : Nat) (t : Word) (h : s.mem.wf = true) :
    (s.resumeCmd c ctx t).2.mem.wf = true := by
  grind [State.resumeCmd, State.setCl_mem, State.releaseAt_wf]

theorem State.pcmd_wf (s : State) (c ctx va h : Nat) (hw : s.mem.wf = true) :
    (s.pcmd c ctx va h).2.mem.wf = true := by
  grind [State.pcmd, State.setSlot_mem, State.releaseAt_wf, State.wakeFor_mem]

theorem State.cmdRead_wf (s : State) (c ctx va n : Nat) (h : s.mem.wf = true) :
    (s.cmdRead c ctx va n).2.mem.wf = true := by
  grind [State.cmdRead, State.cmdBytes_wf, State.cmdChecks_mem]

theorem State.lnch_wf (s : State) (c ctx : Nat) (va : Word) {a : Word} {t : State} (he : s.lnch c ctx va = .ok (a, t))
    (h : s.mem.wf = true) : t.mem.wf = true := by
  grind [State.lnch, drainAll_wf, State.cmdRead_wf, State.releaseAt_wf, State.accept_wf]

theorem State.xcmd_wf (s : State) (c ctx va b : Nat) (h : s.mem.wf = true) : (s.xcmd c ctx va b).2.mem.wf = true := by
  grind [State.xcmd, State.setXq_mem, State.releaseAt_wf]

theorem State.tpost_wf (s : State) (c ctx : Nat) (va v : Word) (h : s.mem.wf = true) :
    (s.tpost c ctx va v).2.mem.wf = true := by
  grind [State.tpost, State.discardLate_mem, State.enqueue_mem, State.retryAll_mem, State.releaseAt_wf,
    State.retryFrom_mem]

theorem State.walkAndKeep_wf (s : State) (owner die mcl ctx : Nat) (k : AccKind) (va : Nat) (h : s.mem.wf = true) :
    (s.walkAndKeep owner die mcl ctx k va).2.mem.wf = true := by
  grind [State.walkAndKeep, State.freshWalk_wf]

theorem State.watchBlock_wf (d i n : Nat) (s : State) (m k : Nat) (h : s.mem.wf = true) :
    (State.watchBlock d i n s m k).2.mem.wf = true := by
  fun_induction State.watchBlock <;> grind [State.translate_wf]

theorem State.nextDemotion_wf (d i n : Nat) (s : State) (h : s.mem.wf = true) :
    (State.nextDemotion d i n s).mem.wf = true := by
  fun_induction State.nextDemotion <;> grind [State.popBlock_wf, State.unwatch_mem, State.giveBack_wf,
    State.wakeEngines_mem, State.setArec_mem, State.entry_wf, State.later_mem, State.watchBlock_wf,
    State.amberFail_mem]

theorem State.goDemote_wf (s : State) (d i : Nat) (h : s.mem.wf = true) : (s.goDemote d i).mem.wf = true := by
  grind [State.goDemote, State.nextDemotion_wf]

theorem State.hcExpiry_wf (s : State) (d i : Nat) (h : s.mem.wf = true) : (s.hcExpiry d i).mem.wf = true := by
  grind [State.hcExpiry, State.goDemote_wf, State.setArec_mem]

theorem State.cfExpiry_wf (s : State) (d i : Nat) (h : s.mem.wf = true) : (s.cfExpiry d i).mem.wf = true := by
  grind [State.cfExpiry, State.goDemote_wf, State.setArec_mem]

theorem State.serveWanted_wf (s : State) (d i : Nat) (h : s.mem.wf = true) : (s.serveWanted d i).mem.wf = true := by
  grind [State.serveWanted, foldl_wf_or, State.promoteOne_wf, State.setDie_mem]

theorem State.examine_wf (s : State) (d i : Nat) (h : s.mem.wf = true) : (s.examine d i).mem.wf = true := by
  grind [State.examine, foldl_wf_or, State.pump_wf, State.writeAge_wf, State.checkRecord_wf, State.goDemote_wf,
    State.wantUp_wf, State.setArec_mem, State.serveWanted_wf]

theorem State.amberPut_wf (s : State) (d i va : Nat) (bs : List (Byte × Bool)) (h : s.mem.wf = true) :
    (s.amberPut d i va bs).2.mem.wf = true := by
  grind [State.amberPut, State.accPut_wf]

theorem State.finishHC_wf (s : State) (d i : Nat) (x : Transfer) (h : s.mem.wf = true) :
    (s.finishHC d i x).mem.wf = true := by
  grind [State.finishHC, State.amberRelease_mem, State.unwatch_mem, State.giveBack_wf, State.amberPut_wf,
    State.setArec_mem, State.later_mem, State.recount_wf, State.cas_wf, State.amberFail_mem, State.amberGet_wf]

theorem State.finishCF_wf (s : State) (d i : Nat) (x : Transfer) (h : s.mem.wf = true) :
    (s.finishCF d i x).mem.wf = true := by
  grind [State.finishCF, State.unwatch_mem, State.giveBack_wf, State.setArec_mem, State.writeExtent_mem,
    State.later_mem, State.recount_wf, State.freeExtent_mem, State.cas_wf, State.amberFail_mem, State.amberGet_wf,
    State.restEngines_mem]

theorem State.failPromotion_wf (s : State) (d i : Nat) (x : Transfer) (again : Bool) (h : s.mem.wf = true) :
    (s.failPromotion d i x again).mem.wf = true := by
  grind [State.failPromotion, State.laterUp_mem, State.settledUp_mem, State.giveBack_wf]

theorem State.finishPromotion_wf (s : State) (d i : Nat) (x : Transfer) (fromF : Bool) (h : s.mem.wf = true) :
    (s.finishPromotion d i x fromF).mem.wf = true := by
  grind [State.finishPromotion, State.amberRelease_mem, State.settledUp_mem, State.checkRecord_wf, State.giveBack_wf,
    State.failPromotion_wf, State.amberPut_wf, State.setArec_mem, State.recount_wf, State.freeExtent_mem,
    State.cas_wf, State.amberFail_mem, State.machineCheck_mem, State.amberGet_wf, State.restEngines_mem]

theorem State.fwRead_wf (s : State) (c : FwCmd) (off n : Nat) (h : s.mem.wf = true) :
    (s.fwRead c off n).2.mem.wf = true := by
  grind [State.fwRead, State.engRead_wf]

theorem State.fwWrite_wf (s : State) (c : FwCmd) (off : Nat) (bs : List Byte) (h : s.mem.wf = true) :
    (s.fwWrite c off bs).mem.wf = true := by
  grind [State.fwWrite, State.engPut_wf, storeHome_wf]

theorem State.fwDone_wf (s : State) (c : FwCmd) (status : Nat) (h : s.mem.wf = true) :
    (s.fwDone c status).mem.wf = true := by
  grind [State.fwDone, State.fwWrite_wf, State.post_mem, State.fwRead_wf, State.setMailbox_mem,
    State.deliverKnown_mem, State.send_mem]

theorem State.copyRead_wf (s : State) (c q : Nat) (cmd : CopyCmd) (a n : Nat) {b : Except AFail (List (Byte × Bool))}
    {t : State} (he : s.copyRead c q cmd a n = some (b, t)) (h : s.mem.wf = true) : t.mem.wf = true := by
  grind [State.copyRead, State.engRead_wf]

theorem State.copyWrite_wf (s : State) (c q : Nat) (cmd : CopyCmd) (a : Nat) (bs : List (Byte × Bool))
    {b : Option AFail} {t : State} (he : s.copyWrite c q cmd a bs = some (b, t)) (h : s.mem.wf = true) :
    t.mem.wf = true := by
  grind [State.copyWrite, foldl_wf_or, State.engWrite_wf, State.setCl_mem]

theorem State.copyRow_wf (s : State) (c q : Nat) (cmd : CopyCmd) (h : s.mem.wf = true) :
    (s.copyRow c q cmd).mem.wf = true := by
  grind [State.copyRow, State.setCl_mem, State.copyRead_wf, State.copyWrite_wf]

theorem State.copyStep_wf (s : State) (kd q : Nat) (h : s.mem.wf = true) : (s.copyStep kd q).mem.wf = true := by
  grind [State.copyStep, State.copyStart_mem, State.copyRow_wf]

theorem State.endResid_wf (s : State) (c r : Nat) (quiet : Bool) (h : s.mem.wf = true) :
    (s.endResid c r quiet).mem.wf = true := by
  grind [State.endResid, State.post_mem, State.setCl_mem, State.performAgs_mem, State.setMember_wf]

theorem State.censusFall_wf (s : State) (c : Nat) (r : Option Nat) (n : Nat) (h : s.mem.wf = true) :
    (s.censusFall c r n).mem.wf = true := by
  unfold State.censusFall
  grind [State.setCl_mem, State.endResid_wf]

theorem State.reached_wf (s : State) (c x w : Nat) (tok : Token) (fids : List Nat) (h : s.mem.wf = true) :
    (s.reached c x w tok fids).mem.wf = true := by
  grind [State.reached, State.setCl_mem, State.censusFall_wf]

theorem State.takeWord_wf (s : State) (c x w : Nat) (h : s.mem.wf = true) : (s.takeWord c x w).mem.wf = true := by
  grind [State.takeWord, State.setCl_mem, State.reached_wf, State.drawNat_mem]

theorem State.handOver_wf (s : State) (c x w : Nat) (h : s.mem.wf = true) : (s.handOver c x w).mem.wf = true := by
  grind [State.handOver, State.setCl_mem, State.reached_wf]

theorem State.switchForward_wf (s : State) (c x w : Nat) (h : s.mem.wf = true) :
    (s.switchForward c x w).mem.wf = true := by
  grind [State.switchForward, State.handOver_wf, State.takeWord_wf, State.setCl_mem]

theorem State.discard_wf (s : State) (c x : Nat) (ss : List Nat) (op : OpSt) (h : s.mem.wf = true) :
    (s.discard c x ss op).mem.wf = true := by
  grind [State.discard, State.setCl_mem, State.censusFall_wf]

theorem State.frameSlots_wf (s : State) (c x : Nat) (p : Pe) (ss : List Nat) (h : s.mem.wf = true) :
    (s.frameSlots c x p ss).mem.wf = true := by
  grind [State.frameSlots, foldl_wf_or, State.setCl_mem, State.censusFall_wf]

theorem State.applyFire_wf (s : State) (c x cost : Nat) (digits : Bool) (f : FireOut) (h : s.mem.wf = true) :
    (s.applyFire c x cost digits f).mem.wf = true := by
  grind [State.applyFire, foldl_wf_or, State.drawPower_mem, State.setCl_mem, State.machineCheck_mem,
    State.censusFall_wf]

theorem State.runPe_wf (s : State) (f : PeF) (form : Pe → PeForm) (body : Pe → (Nat → Token) → FireOut)
    (last : Pe → (Nat → Token) → Bool) (stay : Pe → Bool) (h : s.mem.wf = true) :
    (s.runPe f form body last stay).mem.wf = true := by
  grind [State.runPe, foldl_wf_or, State.applyFire_wf, State.frameSlots_wf, State.discard_wf]

theorem State.runDigit_wf (s : State) (f : PeF) (data : List Nat) (race : Bool) (work : Pe → FireOut)
    (lone : Pe → Mk → FireOut) (h : s.mem.wf = true) : (s.runDigit f data race work lone).mem.wf = true := by
  grind [State.runDigit, foldl_wf_or, State.applyFire_wf, State.discard_wf]

theorem State.queueSend_wf (s : State) (c x : Nat) (p : MtCtx) (q : MtQueue) (h : s.mem.wf = true) :
    (s.queueSend c x p q).mem.wf = true := by
  grind [State.queueSend, State.drawPower_mem, State.setCl_mem, State.censusFall_wf]

theorem State.agDeliver_wf (s : State) (c a o : Nat) (w : Word32) (h : s.mem.wf = true) :
    (s.agDeliver c a o w).mem.wf = true := by
  grind [State.agDeliver, State.setCl_mem, State.censusFall_wf]

theorem State.agSend_wf (s : State) (e : AgEnv) (ts : List Token) (retire : Bool) (h : s.mem.wf = true) :
    (s.agSend e ts retire).mem.wf = true := by
  grind [State.agSend, State.setCl_mem, State.censusFall_wf]

theorem State.agStart_wf (s : State) (e : AgEnv) (pDone : Bool) (h : s.mem.wf = true) :
    (s.agStart e pDone).mem.wf = true := by
  grind [State.agStart, foldl_wf_or, State.setCl_mem, State.agSend_wf, State.agPower_mem, State.agCheck_mem,
    State.agPortEnd_mem]

theorem State.agDrain_wf (s : State) (e : AgEnv) (h : s.mem.wf = true) : (s.agDrain e).mem.wf = true := by
  grind [State.agDrain, foldl_wf_or, State.setCl_mem, State.agSend_wf]

theorem State.agEmpty_wf (s : State) (e : AgEnv) (h : s.mem.wf = true) : (s.agEmpty e).mem.wf = true := by
  grind [State.agEmpty, State.agSend_wf, State.agRoundEnd_mem, State.agPower_mem]

theorem State.agXlat_wf (s : State) (e : AgEnv) (kind : AccKind) (addrs : List Nat) (h : s.mem.wf = true) :
    (s.agXlat e kind addrs).2.mem.wf = true :=
  foldl_keeps_wf (fun p : Except AFail (List (Nat × Nat)) × Option (Nat × Nat × Nat) × State => p.2.2) _
    (fun t x ht => by grind [State.translate_wf]) addrs (.ok [], none, s) h

theorem State.agWrite_wf (s : State) (e : AgEnv) (lane first : Nat) (addrs : List Nat) (bs : List Byte) (bad : Bool)
    (h : s.mem.wf = true) : (s.agWrite e lane first addrs bs bad).2.mem.wf = true := by
  grind [State.agWrite, foldl_wf_or, State.agXlat_wf, State.storeMarked_wf, State.winStore_mem, State.setCl_mem,
    State.drawNat_mem, State.agCheck_mem, State.deviceStore_mem]

theorem State.agAtomic_wf (s : State) (e : AgEnv) (va x : Nat) (h : s.mem.wf = true) :
    (s.agAtomic e va x).2.mem.wf = true := by
  grind [State.agAtomic, foldl_wf_or, State.agXlat_wf, storeHome_wf, State.winStore_mem, State.setCl_mem,
    State.drawNat_mem]

theorem State.winFill_wf (s : State) (e : AgEnv) (b g n : Nat) (h : s.mem.wf = true) :
    (s.winFill e b g n).2.mem.wf = true := by
  fun_induction State.winFill <;> grind [State.engRead_wf, State.setCl_mem]

theorem State.agRead_wf (s : State) (e : AgEnv) (addrs : List Nat) (h : s.mem.wf = true) :
    (s.agRead e addrs).2.mem.wf = true := by
  fun_cases State.agRead
  · grind [State.drawNat_mem]
  · exact h
  · next hr =>
    have hf := foldl_eq_keeps_wf Prod.snd hr h
    refine hf fun p a hp => ?_
    obtain ⟨_ | _, _⟩ := p
    · exact hp
    · grind [State.winFill_wf, State.engRead_wf]
  · grind [State.agXlat_wf]
  · grind [State.drawNat_mem, foldl_mem_or, State.agXlat_wf, State.agSaw_mem, State.keepCopy_mem]

theorem State.agLane_wf (s : State) (e : AgEnv) (p : AgPlan) (j : Nat) (h : s.mem.wf = true) :
    (s.agLane e p j).2.mem.wf = true := by
  grind [State.agLane, foldl_wf_or, State.agAtomic_wf, State.agRead_wf, State.agXlat_wf, State.agWrite_wf,
    State.setCl_mem, State.agCheck_mem]

theorem State.agLanes_wf (s : State) (e : AgEnv) (p : AgPlan) (pos : AgPos) (l : List Nat) (h : s.mem.wf = true) :
    (s.agLanes e p pos l).2.2.mem.wf = true := by
  fun_induction State.agLanes <;> grind [State.agLane_wf]

/-- The state that a position's end leaves. -/
def PosEnd.state : PosEnd → State
  | .stay s => s
  | .done _ _ s => s

theorem State.agPerform_wf (before s : State) (e : AgEnv) (p : AgPlan) (pos : AgPos) (fresh : Bool)
    (cnt : Nat → List Nat) (hb : before.mem.wf = true) (h : s.mem.wf = true) :
    (before.agPerform s e p pos fresh cnt).state.mem.wf = true := by
  grind [State.agPerform, PosEnd.state, foldl_mem_or, State.agPower_mem, State.agCheck_mem, State.agRelease_mem,
    State.agLanes_wf, State.setCl_mem, State.agFault_mem]

theorem State.indexTurn_wf (s : State) (e : AgEnv) (h : s.mem.wf = true) : (s.indexTurn e).mem.wf = true := by
  grind [State.indexTurn, PosEnd.state, State.agPerform_wf, State.setCl_mem, State.agSend_wf, State.agRoundEnd_mem]

theorem State.blockTurn_wf (s : State) (e : AgEnv) (h : s.mem.wf = true) : (s.blockTurn e).mem.wf = true := by
  fun_cases State.blockTurn <;> grind [PosEnd.state, State.agPerform_wf, State.setCl_mem, State.agFault_mem,
    State.engRead_wf,
    State.agEmpty_wf, State.wantBlock_mem, State.agSend_wf, State.agRoundEnd_mem]

theorem State.nestTurn_wf (s : State) (e : AgEnv) (h : s.mem.wf = true) : (s.nestTurn e).mem.wf = true := by
  fun_cases State.nestTurn <;> grind [PosEnd.state, foldl_mem_or, State.agPerform_wf, State.setCl_mem,
    State.agSend_wf, State.nestAfter_mem,
    State.agPower_mem, State.agCheck_mem]

theorem State.agTurn_wf (s : State) (op : Nat) (f : AgF) (h : s.mem.wf = true) : (s.agTurn op f).mem.wf = true := by
  grind [State.agTurn, State.agStart_wf, State.blockTurn_wf, State.indexTurn_wf, State.agDrain_wf, State.nestTurn_wf,
    State.agEmpty_wf, State.agDeliver_wf]

theorem State.claimItem_wf (s : State) (c r : Nat) (h : s.mem.wf = true) : (s.claimItem c r).mem.wf = true := by
  grind [State.claimItem, State.acquire_mem, State.translate_wf, storeHome_wf, State.setCl_mem, State.claimFault_mem,
    State.machineCheck_mem]

theorem State.isleDone_wf (s : State) (e : IsleEnv) (size : Nat) (rings : List Nat) (h : s.mem.wf = true) :
    (s.isleDone e size rings).mem.wf = true := by
  grind [State.isleDone, foldl_wf_or, State.isleGoto_mem, State.setCl_mem, State.setIsle_mem, State.censusFall_wf]

theorem State.islePush_wf (s : State) (e : IsleEnv) (size : Nat) (rings : List Nat) (h : s.mem.wf = true) :
    (s.islePush e size rings).mem.wf = true := by
  grind [State.islePush, State.setCl_mem, State.setIsle_mem, State.isleDone_wf]

theorem State.checkEnd_wf (s : State) (c r : Nat) (h : s.mem.wf = true) : (s.checkEnd c r).mem.wf = true := by
  grind [State.checkEnd, State.endResid_wf]

theorem State.isleStop_wf (s : State) (e : IsleEnv) (err : Nat) (h : s.mem.wf = true) :
    (s.isleStop e err).mem.wf = true := by
  grind [State.isleStop, State.post_mem, State.checkEnd_wf, State.setIsle_mem, State.censusFall_wf]

theorem State.returnPage_wf (s : State) (c r p : Nat) (h : s.mem.wf = true) : (s.returnPage c r p).mem.wf = true := by
  grind [State.returnPage, foldl_wf_or, State.checkEnd_wf, State.setCl_mem]

theorem State.tileDown_wf (s : State) (c x : Nat) (h : s.mem.wf = true) : (s.tileDown c x).mem.wf = true := by
  grind [State.tileDown, State.returnPage_wf, State.setCl_mem]

theorem State.agDown_wf (s : State) (c a : Nat) (h : s.mem.wf = true) : (s.agDown c a).mem.wf = true := by
  grind [State.agDown, State.checkEnd_wf, State.setCl_mem, State.performAgs_mem]

theorem State.isleDown_wf (s : State) (c i : Nat) (h : s.mem.wf = true) : (s.isleDown c i).mem.wf = true := by
  grind [State.isleDown, State.checkEnd_wf, State.setCl_mem]

theorem State.placeMember_wf (s : State) (l : Launch) (m : Nat) (bs : List Nat) {a : Member} {t : State}
    (he : s.placeMember l m bs = some (a, t)) (h : s.mem.wf = true) : t.mem.wf = true := by
  fun_induction State.placeMember <;> grind [foldl_wf_or, State.moveResid_wf, State.setCl_mem]

theorem State.placeMembers_wf (l : Launch) (d n m : Nat) (s : State) (h : s.mem.wf = true) :
    (State.placeMembers l d n m s).2.mem.wf = true := by
  fun_induction State.placeMembers <;> grind [State.placeMember_wf]

theorem State.tryPlace_wf (s : State) (d : Nat) (l : Launch) {a : List Member} {t : State}
    (he : s.tryPlace d l = some (a, t)) (h : s.mem.wf = true) : t.mem.wf = true := by
  grind [State.tryPlace, State.placeMembers_wf]

theorem State.admitReport_wf (s : State) (d : Nat) (g : Gang) (h : s.mem.wf = true) :
    (s.admitReport d g).mem.wf = true := by
  grind [State.admitReport, foldl_wf_or, State.report_wf, State.reportLink_mem]

theorem State.takeIn_wf (s : State) (d : Nat) (l : Launch) (ms : List Member) (h : s.mem.wf = true) :
    (s.takeIn d l ms).mem.wf = true := by
  grind [State.takeIn, State.startGang_mem, State.setDie_mem, State.admitReport_wf]

theorem State.admitAll_wf (d : Nat) (l : List Launch) (s : State) (h : s.mem.wf = true) :
    (State.admitAll d l s).mem.wf = true := by
  fun_induction State.admitAll <;> grind [State.tryPlace_wf, State.takeIn_wf]

theorem State.unitSource_wf (s : State) (w : Who) (c : PCmd) (h : s.mem.wf = true) :
    (s.unitSource w c).2.mem.wf = true := by
  grind [State.unitSource, State.engRead_wf]

theorem State.nextUnit_wf (s : State) (d p : Nat) (c : PCmd) (h : s.mem.wf = true) :
    (s.nextUnit d p c).2.mem.wf = true := by
  grind [State.nextUnit, State.unitSource_wf]

theorem State.mixRest_wf (d p n : Nat) (s : State) (y : PCmd) (h : s.mem.wf = true) :
    (State.mixRest d p n s y).mem.wf = true := by
  fun_induction State.mixRest <;> grind [State.engWrite_wf, State.mixBytes_mem, State.engRead_wf, State.nextUnit_wf]

theorem State.evictCmds_wf (d p c i : Nat) (l : List PEnt) (s : State) (h : s.mem.wf = true) :
    (State.evictCmds d p c i l s).mem.wf = true := by
  fun_induction State.evictCmds <;> grind [State.pralineDone_mem, State.mixRest_wf]

theorem State.endLease_wf (s : State) (c i reason : Nat) (h : s.mem.wf = true) :
    (s.endLease c i reason).mem.wf = true := by
  grind [State.endLease, State.evictCmds_wf, State.setDie_mem, State.setSlot_mem, State.sayLease_mem]

theorem State.chainStart_wf (s : State) (d p : Nat) (c : PCmd) (h : s.mem.wf = true) :
    (s.chainStart d p c).2.mem.wf = true := by
  grind [State.chainStart, State.engRead_wf]

theorem State.unitWrite_wf (s : State) (w : Who) (ctx va : Nat) (bs : List Byte) (bad : Bool) (h : s.mem.wf = true) :
    (s.unitWrite w ctx va bs bad).2.mem.wf = true := by
  grind [State.unitWrite, State.engWrite_wf, State.probe_wf]

theorem State.pralineWork_wf (s : State) (d p : Nat) (c : PCmd) (h : s.mem.wf = true) :
    (s.pralineWork d p c).2.mem.wf = true := by
  grind [State.pralineWork, State.unitWrite_wf, State.chainStart_wf, State.nextUnit_wf]

theorem State.clearCluster_wf (s : State) (c x : Nat) (h : s.mem.wf = true) : (s.clearCluster c x).mem.wf = true := by
  grind [State.clearCluster, foldl_wf_or, State.quietLeases_mem, drainAll_wf, State.settleLoads_wf, State.setCl_mem,
    State.endTask_wf, State.endResid_wf]

theorem State.clearDie_wf (s : State) (d x : Nat) (h : s.mem.wf = true) : (s.clearDie d x).mem.wf = true := by
  grind [State.clearDie, foldl_wf_or, State.releaseUnclaimed_wf, State.clearCluster_wf, State.setDie_mem,
    State.arbitrate_mem]

theorem State.destroyCtx_wf (s : State) (x : Nat) (h : s.mem.wf = true) : (s.destroyCtx x).mem.wf = true := by
  grind [State.destroyCtx, foldl_wf_or, State.clearDie_wf, State.setPkg_mem, State.dropBoost_mem]

theorem State.wipeDie_wf (s : State) (d : Nat) (h : s.mem.wf = true) : (s.wipeDie d).mem.wf = true := by
  grind [State.wipeDie, foldl_wf_or, State.fwDone_wf, State.setDie_mem, State.setPkg_mem, State.dropBoost_mem,
    State.destroyCtx_wf]

theorem State.railsFall_wf (s : State) (d : Nat) (h : s.mem.wf = true) : (s.railsFall d).mem.wf = true := by
  grind [State.railsFall, foldl_wf_or, State.lostMessage_mem, State.setDie_mem, State.wipeDie_wf]

theorem State.trip_wf (s : State) (d : Nat) (h : s.mem.wf = true) : (s.trip d).mem.wf = true := by
  grind [State.trip, State.critical_mem, State.railsFall_wf]

theorem State.sample_wf (s : State) (d tj : Nat) (h : s.mem.wf = true) : (s.sample d tj).mem.wf = true := by
  grind [State.sample, State.setDie_mem, State.trip_wf, State.revokeBoosts_mem, State.critical_mem, State.count_mem]

theorem State.checkImage_wf (s : State) (x va : Nat) (h : s.mem.wf = true) : (s.checkImage x va).2.mem.wf = true := by
  grind [State.checkImage, State.engRead_wf]

theorem State.rereadFg_wf (s : State) (c r : Nat) {t : State} (he : s.rereadFg c r = some t) (h : s.mem.wf = true) :
    t.mem.wf = true := by
  grind [State.rereadFg, foldl_wf_or, State.setCl_mem, State.readImageRaw_wf]

theorem tryEach_wf {α : Type} {f : α → State → Option State}
    (hf : ∀ a s t, f a s = some t → s.mem.wf = true → t.mem.wf = true) (l : List α) (s : State) {t : State}
    (he : tryEach f l s = some t) (h : s.mem.wf = true) : t.mem.wf = true := by
  fun_induction tryEach f l s <;> grind

theorem State.restoreOne_wf (r : SaveRec) (x : Nat) (e : SavedCl × Nat) (s : State) {t : State}
    (he : State.restoreOne r x e s = some t) (h : s.mem.wf = true) : t.mem.wf = true := by
  simp only [State.restoreOne] at he
  split at he
  · grind
  · split at he
    · exact tryEach_wf (fun a s t ha => s.rereadFg_wf _ a ha) _ _ he h
    · grind [State.setCl_mem]

theorem State.reserveAgain_wf (s : State) (d l m : Nat) (y : Member) (p : Option (SavedCl × Nat))
    (h : s.mem.wf = true) : (s.reserveAgain d l m y p).mem.wf = true := by
  unfold State.reserveAgain
  grind [State.setCl_mem, State.setMember_wf]

theorem State.restoreGangs_wf (s : State) (r : SaveRec) (x d : Nat) (pairs : List (SavedCl × Nat))
    (h : s.mem.wf = true) : (s.restoreGangs r x d pairs).mem.wf = true := by
  grind [State.restoreGangs, foldl_wf_or, State.setCl_mem, State.setDie_mem, State.reserveAgain_wf,
    State.setMember_wf]

theorem State.restoreLeases_wf (s : State) (z : SavedCl) (c n x d0 : Nat) (h : s.mem.wf = true) :
    (s.restoreLeases z c n x d0).mem.wf = true := by
  grind [State.restoreLeases, foldl_wf_or, State.evictCmds_wf, State.setDie_mem, State.setSlot_mem,
    State.sayLease_mem, State.wakeLease_mem]

theorem State.restoreRec_wf (s : State) (r : SaveRec) (x : Nat) (only : Option Nat) {t : State}
    (he : s.restoreRec r x only = .ok t) (h : s.mem.wf = true) : t.mem.wf = true := by
  have ht := @tryEach_wf (SavedCl × Nat) (fun p s => State.restoreOne r x p s)
    (fun a s t ha => State.restoreOne_wf r x a s ha)
  grind [State.restoreRec, State.setCtx_mem, State.restoreGangs_wf, State.restoreXcmds_mem, State.restoreLeases_wf,
    foldl_wf_or, State.freshen_mem, State.arbitrate_mem]

theorem State.restore_wf (s : State) (x va : Nat) (only : Option Nat) {t : State} (he : s.restore x va only = .ok t)
    (h : s.mem.wf = true) : t.mem.wf = true := by
  grind [State.restore, State.checkImage_wf, State.restoreRec_wf]

theorem State.thermalRestore_wf (s : State) (d x : Nat) (h : s.mem.wf = true) :
    (s.thermalRestore d x).mem.wf = true := by
  grind [State.thermalRestore, State.restore_wf, State.lostMessage_mem]

theorem State.thermalLeases_wf (s : State) (d x : Nat) (h : s.mem.wf = true) :
    (s.thermalLeases d x).mem.wf = true := by
  grind [State.thermalLeases, foldl_wf_or, State.endLease_wf]

theorem State.requestOn_wf (s : State) (c x notice : Nat) (h : s.mem.wf = true) :
    (s.requestOn c x notice).mem.wf = true := by
  grind [State.requestOn, State.post_mem, State.setSq_mem, State.decideSave_wf]

theorem State.requestSave_wf (s : State) (p : Preempt) (notice : Nat) (h : s.mem.wf = true) :
    (s.requestSave p notice).mem.wf = true := by
  grind [State.requestSave, foldl_wf_or, State.requestOn_wf, State.setPkg_mem]

theorem State.thermalBegin_wf (s : State) (d x : Nat) (h : s.mem.wf = true) : (s.thermalBegin d x).mem.wf = true := by
  grind [State.thermalBegin, State.thermalLeases_wf, State.requestSave_wf, State.setDie_mem, State.thermalDone_mem,
    State.thermalNext_mem]

theorem State.storesAtSys_wf (s : State) (d : Nat) (h : s.mem.wf = true) : (s.storesAtSys d).mem.wf = true := by
  grind [State.storesAtSys, foldl_wf_or, State.releaseAt_wf, State.deliverKnown_mem]

theorem State.snapCluster_wf (s : State) (p : Preempt) (i : Nat) (h : s.mem.wf = true) :
    (s.snapCluster p i).mem.wf = true := by
  grind [State.snapCluster, State.storesAtSys_wf, State.setPreempt_mem]

theorem State.snapReady_wf (s : State) (p : Preempt) (h : s.mem.wf = true) : (s.snapReady p).mem.wf = true := by
  grind [State.snapReady, foldl_wf_or, State.snapCluster_wf]

theorem State.writeImage_wf (s : State) (p : Preempt) (h : s.mem.wf = true) : (s.writeImage p).2.mem.wf = true := by
  grind [State.writeImage, State.engWrite_wf, State.saveImage_mem, State.storesAtSys_wf, State.deliverKnown_mem]

theorem State.endAndTell_wf (s : State) (x : Nat) (cmd : FwCmd) (h : s.mem.wf = true) :
    (s.endAndTell x cmd).mem.wf = true := by
  grind [State.endAndTell, State.fwDone_wf, State.destroyCtx_wf]

theorem State.finishDestroy_wf (s : State) (p : Preempt) (cmd : FwCmd) (h : s.mem.wf = true) :
    (s.finishDestroy p cmd).mem.wf = true := by
  grind [State.finishDestroy, foldl_wf_or, State.fwDone_wf, State.thaw_mem, State.endAndTell_wf, State.setCl_mem,
    State.setDie_mem, State.writeImage_wf, State.setCtx_mem]

theorem State.saveStep_wf (s : State) (d x : Nat) (h : s.mem.wf = true) : (s.saveStep d x).mem.wf = true := by
  grind [State.saveStep, State.finishDestroy_wf, State.snapReady_wf, State.thermalNext_mem, State.thermalBegin_wf,
    State.writeImage_wf]

theorem State.createCtx_wf (s : State) (y : CtxPar) (h : s.mem.wf = true) : (s.createCtx y).2.mem.wf = true := by
  grind [State.createCtx, State.bindKeys_mem, State.restore_wf, State.setCtx_mem]

theorem State.takeTable_wf (s : State) {a : Nat} {t : State} (he : s.takeTable = some (a, t)) (h : s.mem.wf = true) :
    t.mem.wf = true := by
  grind [State.takeTable, storeHome_wf, State.setPkg_mem]

theorem State.setPte_wf (s : State) (a v : Nat) (h : s.mem.wf = true) : (s.setPte a v).mem.wf = true := by
  grind [State.setPte, storeHome_wf]

theorem State.toTable_wf (make : Bool) (va target n : Nat) (s : State) (m k : Nat) {a : Option Nat} {t : State}
    (he : State.toTable make va target n s m k = .ok (a, t)) (h : s.mem.wf = true) : t.mem.wf = true := by
  fun_induction State.toTable <;> grind [State.setPte_wf, State.takeTable_wf]

theorem State.putLeaf_wf (s : State) (t va psize : Nat) (leaf : Option Nat) (g : Gone) {u : State} {b : Gone}
    (he : s.putLeaf t va psize leaf g = .ok (u, b)) (h : s.mem.wf = true) : u.mem.wf = true := by
  unfold State.putLeaf at he
  dsimp only at he
  generalize (if psize = 1 then 16 else 1) = n at he
  split at he
  · cases he
  · cases he
    exact foldl_keeps_wf id _ (fun t e ht => by grind [State.setPte_wf]) _ _ h

theorem State.mapPages_wf (ctx va psize frame flags : Nat) (put : Bool) (n m : Nat) (s : State) (g : Gone) {t : State}
    {b : Gone} (he : State.mapPages ctx va psize frame flags put n m s g = .ok (t, b)) (h : s.mem.wf = true) :
    t.mem.wf = true := by
  fun_induction State.mapPages <;> grind [State.putLeaf_wf, State.toTable_wf]

theorem State.mapCmd_wf (s : State) (put : Bool) (c : FwCmd) (b : List Byte) (h : s.mem.wf = true) :
    (s.mapCmd put c b).mem.wf = true := by
  grind [State.mapCmd, State.fwDone_wf, State.mapPages_wf, State.setPkg_mem]

theorem State.fwPut_wf (s : State) (c : FwCmd) (a : Nat) (bs : List Byte) (h : s.mem.wf = true) :
    (s.fwPut c a bs).2.mem.wf = true := by
  grind [State.fwPut, State.engPut_wf, storeHome_wf]

theorem State.resetDie_wf (s : State) (d : Nat) (h : s.mem.wf = true) : (s.resetDie d).mem.wf = true := by
  grind [State.resetDie, State.setDie_mem, State.wipeDie_wf]

theorem State.peer_wf (s : State) (d q ctx pkg : Nat) (h : s.mem.wf = true) :
    (s.peer d q ctx pkg).2.mem.wf = true := by
  grind [State.peer, State.engRead_wf]

theorem State.toPeer_wf (s : State) (d q ctx pkg : Nat) (m : OutMsg) (h : s.mem.wf = true) :
    (s.toPeer d q ctx pkg m).2.mem.wf = true := by
  grind [State.toPeer, State.remoteAnswer_mem, State.peer_wf, State.send_mem]

theorem State.signal_wf (s : State) (d q : Nat) (c : XCmd) (pkg rva : Nat) (h : s.mem.wf = true) :
    (s.signal d q c pkg rva).2.mem.wf = true := by
  grind [State.signal, State.toPeer_wf]

theorem State.signals_wf (d q : Nat) (c : XCmd) (l : List Nat) (s : State) (h : s.mem.wf = true) :
    (State.signals d q c l s).2.mem.wf = true := by
  fun_induction State.signals <;> grind [State.signal_wf]

theorem State.sendPiece_wf (s : State) (d q : Nat) (c : XCmd) (src rva pkg n : Nat) (h : s.mem.wf = true) :
    (s.sendPiece d q c src rva pkg n).2.2.mem.wf = true := by
  grind [State.sendPiece, State.translate_wf, State.engRead_wf, State.laneChecks_mem, State.toPeer_wf]

theorem State.sendEntry_wf (d q : Nat) (c : XCmd) (n : Nat) (s : State) (m k i j : Nat) (h : s.mem.wf = true) :
    (State.sendEntry d q c n s m k i j).2.2.2.mem.wf = true := by
  fun_induction State.sendEntry <;> grind [State.sendPiece_wf]

theorem State.a2aStep_wf (s : State) (d q : Nat) (c : XCmd) (h : s.mem.wf = true) :
    (s.a2aStep d q c).2.mem.wf = true := by
  grind [State.a2aStep, State.engRead_wf, State.sendEntry_wf, State.signals_wf]

theorem State.putStep_wf (s : State) (d q : Nat) (c : XCmd) (h : s.mem.wf = true) :
    (s.putStep d q c).2.mem.wf = true := by
  grind [State.putStep, State.sendPiece_wf]

theorem State.getStep_wf (s : State) (d q : Nat) (c : XCmd) (h : s.mem.wf = true) :
    (s.getStep d q c).2.mem.wf = true := by
  grind [State.getStep, State.freeBytes_mem, State.engWrite_wf, State.laneChecks_mem, State.toPeer_wf]

theorem State.sigStep_wf (s : State) (d q : Nat) (c : XCmd) (h : s.mem.wf = true) :
    (s.sigStep d q c).2.mem.wf = true := by
  grind [State.sigStep, State.signal_wf]

theorem State.exchange_wf (s : State) (kind q : Nat) (h : s.mem.wf = true) : (s.exchange kind q).mem.wf = true := by
  grind [State.exchange, State.sigStep_wf, State.getStep_wf, State.a2aStep_wf, State.setHeadX_mem, State.putStep_wf]

theorem Mem.wfFrom_filter (p : Host.Cell → Bool) (m : Mem) {lo : Nat} (h : Mem.wfFrom lo m = true) :
    Mem.wfFrom lo (List.filter p m) = true := by
  induction m generalizing lo with
  | nil => rfl
  | cons e m ih =>
    obtain ⟨a, b⟩ := e
    simp only [Mem.wfFrom, Bool.and_eq_true] at h
    obtain ⟨⟨hlo, hb⟩, hm⟩ := h
    rw [List.filter_cons]
    split
    · simp [Mem.wfFrom, hlo, hb, ih hm]
    · exact Mem.wfFrom_mono (ih hm) (by have := of_decide_eq_true hlo; omega)

/-- Taking addresses out of memory keeps its canonical form. -/
theorem Mem.wf_filter (p : Host.Cell → Bool) {m : Mem} (h : m.wf = true) : Mem.wf (List.filter p m) = true :=
  Mem.wfFrom_filter p m h

theorem State.packageReset_wf (s : State) (keepC : Bool) (log : Tab Nat) (h : s.mem.wf = true) :
    (s.packageReset keepC log).mem.wf = true := by
  unfold State.packageReset
  split
  · exact Mem.wf_filter _ h
  · rfl

theorem State.peerRequest_wf (s : State) (d ctx kind va len data : Nat) (h : s.mem.wf = true) :
    (s.peerRequest d ctx kind va len data).mem.wf = true := by
  unfold State.peerRequest
  grind [State.engWrite_wf, State.translate_wf, storeHome_wf, State.engRead_wf, State.deliverKnown_mem,
    State.machineCheck_mem, State.send_mem]

theorem State.settleFor_wf (s : State) (c : Nat) (w : Word32) (h : s.mem.wf = true) :
    (s.settleFor c w).mem.wf = true := by
  grind [State.settleFor, State.settleLoads_wf, State.performLoads_wf]

theorem State.drain_wf (s : State) (c k : Nat) (h : s.mem.wf = true) : (s.drain c k).mem.wf = true := by
  grind [State.drain, State.setSq_mem, State.performStore_wf]

theorem State.issue_wf (s : State) (c : Nat) (k : AccKind) (d : Reg) (srcs : List Reg) (va n : Nat)
    (amo : Option (AmoKind × Nat × Nat)) {t : State} (he : s.issue c k d srcs va n amo = some t)
    (h : s.mem.wf = true) : t.mem.wf = true := by
  grind [State.issue, State.setSq_mem, State.target_wf, State.advance_mem]

theorem State.issueAmo_wf (s : State) (c : Nat) (k : AmoKind) (d a : Reg) (srcs : List Reg) (wide : Bool) (o : Order)
    {t : State} (he : s.issueAmo c k d a srcs wide o = some t) (h : s.mem.wf = true) : t.mem.wf = true := by
  grind [State.issueAmo, State.settleLoads_wf, State.issue_wf]

theorem State.issueLoad_wf (s : State) (c : Nat) (i : Instr) {t : State} (he : s.issueLoad c i = some t)
    (h : s.mem.wf = true) : t.mem.wf = true := by
  unfold State.issueLoad at he
  grind [State.issue_wf, State.issueAmo_wf]

/-- The state that a fetch leaves. -/
def Fetched.state : Fetched → State
  | .run _ s => s
  | .trapped s => s

theorem State.fetchInstr_wf (s : State) (c : Nat) (h : s.mem.wf = true) : (s.fetchInstr c).state.mem.wf = true := by
  grind [State.fetchInstr, Fetched.state, State.fetchTrap_wf, State.xlatCl_wf, State.readView_mem]

theorem issueSeq_wf (c : Nat) (s : State) (h : s.mem.wf = true) : (issueSeq c s).mem.wf = true := by
  have hf := (s.atSeq c).fetchInstr_wf c h
  unfold issueSeq
  dsimp only
  split
  · exact h
  · split
    · exact h
    · next i t ht =>
      rw [ht] at hf
      cases hi : t.issueLoad c i with
      | none => exact h
      | some u => exact t.issueLoad_wf c i hi hf

theorem State.performNth_wf (s : State) (c k : Nat) (h : s.mem.wf = true) : (s.performNth c k).mem.wf = true := by
  grind [State.performNth, State.performEnt_wf, State.setSq_mem]

end Sys2Proof.Machine
end

section
/-! SUPPORT. Every instruction goes on and keeps the canonical form of memory (`GoesOn`): the words of a sequencer, the
units' words, commands, engines, firmware and the package's events. -/

-- One declaration at a time: elaborated side by side, the threads of so many pass the memory limit.
set_option Elab.async false

namespace Sys2Proof.Machine

/-! ### Words of the islands -/

/-- The state that a word of an island leaves. -/
def IsleRes.state : IsleRes → State
  | .done s _ _ _ => s
  | .stop _ s => s
  | .wait s => s

/-- The state that the collecting of a port's blocks leaves. -/
def Gathered.state : Gathered → State
  | .blocks _ _ s => s
  | .stop s => s
  | .wait s => s

theorem State.isleTurn_wf (s : State) (size : Nat) (ins : Isle → List IsleIn) (rings : Isle → List Nat) (ro : Nat)
    {f : IsleEnv → State → IsleRes} (hf : ∀ e, (f e s).state.mem = s.mem) (h : s.mem.wf = true) :
    (s.isleTurn size ins rings ro f).mem.wf = true := by
  have hf := hf s.isleEnv
  grind [State.isleTurn, IsleRes.state, State.islePush_wf, State.isleGoto_mem, State.isleEnd_mem, State.isleStop_wf,
    State.drawPower_mem, State.setIsle_mem, State.isleDone_wf]

theorem State.gather_state_mem (s : State) (e : IsleEnv) (p n : Nat) : (s.gather e p n).state.mem = s.mem := by
  grind [State.gather, Gathered.state, State.setIsle_mem, State.portTake_mem]

theorem State.mmaWord_mem (s : State) (e : IsleEnv) (af bf ra rb : Nat) (ovw : Bool) :
    (s.mmaWord e af bf ra rb ovw).state.mem = s.mem := by
  grind [State.mmaWord, IsleRes.state, State.setIsle_mem, State.isleChecks_mem, State.killValues_mem]

theorem State.moutWord_mem (s : State) (e : IsleEnv) (out ro : Nat) (bias act rq : Bool) :
    (s.moutWord e out ro bias act rq).state.mem = s.mem := by
  grind [State.moutWord, IsleRes.state, State.setIsle_mem, State.isleChecks_mem, State.killValues_mem]

theorem State.mlutWord_mem (s : State) (e : IsleEnv) (ra : Nat) : (s.mlutWord e ra).state.mem = s.mem := by
  grind [State.mlutWord, IsleRes.state, State.setIsle_mem, State.isleChecks_mem, State.killValues_mem]

theorem State.score_mem (s : State) (e : IsleEnv) (af bf : Nat) (q k : Operand) (inv : Nat → Bool)
    (rings : List Nat) : (s.score e af bf q k inv rings).state.mem = s.mem := by
  grind [State.score, IsleRes.state, State.setIsle_mem, State.isleChecks_mem, State.killValues_mem]

theorem State.mqkWord_mem (s : State) (e : IsleEnv) (af bf ra rb : Nat) :
    (s.mqkWord e af bf ra rb).state.mem = s.mem := by
  grind [State.mqkWord, IsleRes.state, Gathered.state, State.setCl_mem, State.setIsle_mem, State.isleChecks_mem,
    State.gather_state_mem, State.score_mem]

theorem State.msmuWord_mem (s : State) (e : IsleEnv) (pf : Nat) : (s.msmuWord e pf).state.mem = s.mem := by
  grind [State.msmuWord, IsleRes.state, State.setIsle_mem, State.isleChecks_mem, State.killValues_mem]

theorem State.mpvaWord_mem (s : State) (e : IsleEnv) (bf rb : Nat) : (s.mpvaWord e bf rb).state.mem = s.mem := by
  grind [State.mpvaWord, IsleRes.state, Gathered.state, State.setIsle_mem, State.isleChecks_mem, State.gather_state_mem]

theorem State.msmfWord_mem (s : State) (e : IsleEnv) (out ro : Nat) : (s.msmfWord e out ro).state.mem = s.mem := by
  grind [State.msmfWord, IsleRes.state, State.setIsle_mem, State.isleChecks_mem, State.killValues_mem]

theorem State.msmgWord_mem (s : State) (e : IsleEnv) (ra : Nat) : (s.msmgWord e ra).state.mem = s.mem := by
  grind [State.msmgWord, IsleRes.state, State.setIsle_mem, State.isleChecks_mem, State.killValues_mem]

theorem State.msetWord_mem (s : State) (e : IsleEnv) (r v : Nat) : (s.msetWord e r v).state.mem = s.mem := by
  grind [State.msetWord, IsleRes.state, State.setIsle_mem, State.isleChecks_mem, State.killValues_mem]

/-! ### Words of the sequencer -/

theorem State.readSrcs_trap_mem (s : State) (c : Nat) (w : Word32) (srcs : List Reg) (dst : Option Reg) {x : Trap}
    {t : State} (he : s.readSrcs c w srcs dst = .error (.trap x t)) : t.mem = s.mem := by
  grind [State.readSrcs]

theorem State.compute_trap_mem (s : State) (c : Nat) (w : Word32) (srcs : List Reg) (d : Reg) (f : List Word → Word)
    {x : Trap} {t : State} (he : s.compute c w srcs d f = .error (.trap x t)) : t.mem = s.mem := by
  simp only [State.compute, bind, Except.bind] at he
  grind [State.readSrcs_trap_mem]

/-- What a sequencer's word leaves keeps the canonical form where what it leaves at its end and at its trap does. -/
theorem State.settle_wf {s : State} (c : Nat) {r : Except Stop State} (hok : ∀ t, r = .ok t → t.mem.wf = true)
    (htrap : ∀ x t, r = .error (.trap x t) → t.mem.wf = true) (h : s.mem.wf = true) : (s.settle c r).mem.wf = true :=
  match r with
  | .ok t => hok t rfl
  | .error (.trap x t) => t.takeTrap_wf c x (htrap x t rfl)
  | .error .wait => h

/-- A step goes on, and keeps the canonical form of memory. -/
def GoesOn (s : State) (o : Host.Outcome State Fault Refusal) : Prop :=
  ∃ t, o = .next t ∧ (s.mem.wf = true → t.mem.wf = true)

theorem goesOn_next {s t : State} (h : s.mem.wf = true → t.mem.wf = true) : GoesOn s (.next t) := ⟨t, rfl, h⟩

theorem State.settle_compute_wf (s : State) (c : Nat) (w : Word32) (srcs : List Reg) (d : Reg) (f : List Word → Word)
    (h : s.mem.wf = true) : (s.settle c (s.compute c w srcs d f)).mem.wf = true :=
  State.settle_wf c (fun t he => by rw [s.compute_mem c w srcs d f he, h])
    (fun x t he => by rw [s.compute_trap_mem c w srcs d f he, h]) h

theorem runOp_goesOn (i : Instr) (d a b : Reg) (f : Word → Word → Word) (s : State) : GoesOn s (runOp i d a b f s) :=
  goesOn_next (s.settle_compute_wf _ _ _ _ _)

theorem runOp1_goesOn (i : Instr) (d a : Reg) (f : Word → Word) (s : State) : GoesOn s (runOp1 i d a f s) :=
  goesOn_next (s.settle_compute_wf _ _ _ _ _)

theorem runOp0_goesOn (i : Instr) (d : Reg) (v : Word) (s : State) : GoesOn s (runOp0 i d v s) :=
  goesOn_next (s.settle_compute_wf _ _ _ _ _)

theorem runBranch_goesOn (i : Instr) (a b : Reg) (off : BitVec 14) (cond : Word → Word → Bool) (s : State) :
    GoesOn s (runBranch i a b off cond s) := by
  refine goesOn_next fun h => State.settle_wf _ (fun t he => ?_) (fun x t he => ?_) h
  all_goals
    simp only [bind, Except.bind] at he
    grind [State.readSrcs_mem, State.readSrcs_trap_mem, State.setPc_mem, State.advance_mem]

theorem stopped_trap_wf {f : List Word → State → Except Stop (Word × State)} {vs : List Word} {e : Stop} {c : Nat}
    {s t : State} {x : Trap} (htrap : ∀ vs t x u, f vs t = .error (.trap x u) → t.mem.wf = true → u.mem.wf = true)
    (h : s.mem.wf = true) (hx : ∀ y u, e = .trap y u → u.mem.wf = true) (he : stopped f vs e c s = .trap x t) :
    t.mem.wf = true := by
  unfold stopped at he
  split at he
  · next hf => exact htrap vs s x t (he ▸ hf) h
  · cases e with
    | wait => cases he
    | trap y u =>
      have hu := hx y u rfl
      cases he
      exact hu

theorem runCmd_goesOn (i : Instr) (d : Reg) (srcs : List Reg) {f : List Word → State → Except Stop (Word × State)}
    (s : State) (hok : ∀ vs t v u, f vs t = .ok (v, u) → t.mem.wf = true → u.mem.wf = true)
    (htrap : ∀ vs t x u, f vs t = .error (.trap x u) → t.mem.wf = true → u.mem.wf = true) :
    GoesOn s (runCmd i d srcs f s) := by
  refine goesOn_next fun h => State.settle_wf _ (fun t he => ?_) (fun x t he => ?_) h
  all_goals
    simp only [bind, Except.bind] at he
    grind [State.readSrcs_mem, State.readSrcs_trap_mem, State.writeDst_mem, State.advance_mem, stopped_trap_wf]

theorem runFlush_goesOn (i : Instr) (a : Reg) {f : State → Nat → State} (s : State)
    (hf : ∀ t n, t.mem.wf = true → (f t n).mem.wf = true) : GoesOn s (runFlush i a f s) := by
  refine goesOn_next fun h => State.settle_wf _ (fun t he => ?_) (fun x t he => ?_) h
  all_goals
    simp only [bind, Except.bind] at he
    grind [State.readSrcs_mem, State.readSrcs_trap_mem, State.xlatFlush_wf, foldl_wf_or, drainAll_wf, State.advance_mem]

theorem runFw_goesOn (opc : Nat) {f : FwCmd → List Byte → State → State} (s : State)
    (hf : ∀ c b t, t.mem.wf = true → (f c b t).mem.wf = true) : GoesOn s (runFw opc f s) := by
  refine goesOn_next fun h => ?_
  grind [State.fwRead_wf, State.setPkg_mem, State.fwDone_wf]

theorem runAmo_goesOn (i : Instr) (d a : Reg) (srcs : List Reg) (wide : Bool) (o : Order) (sc : Scope) (f : AmoFn)
    (s : State) : GoesOn s (runAmo i d a srcs wide o sc f s) := by
  refine goesOn_next fun h => State.settle_wf _ (fun t he => ?_) (fun x t he => ?_) h
  all_goals
    simp only [bind, Except.bind] at he
    grind [State.readSrcs_mem, State.readSrcs_trap_mem, State.target_wf, State.ready, State.deliverSc_mem,
      State.freshAt_mem, State.performAmo_wf, State.after_mem, State.writeDst_mem, State.advance_mem]

/-! ### Commands -/

theorem State.whenSettled_ok {s : State} {va : Word} {n : Nat} {r q : Word × State}
    (he : s.whenSettled va n r = .ok q) : q = r := by
  grind [State.whenSettled]

theorem State.whenSettled_ne_trap {s : State} {va : Word} {n : Nat} {r : Word × State} {x : Trap} {t : State} :
    s.whenSettled va n r ≠ .error (.trap x t) := by
  grind [State.whenSettled]

theorem State.residCmd_trap_wf {s : State} {c ctx : Nat} {va : Word} {x : Trap} {t : State}
    (he : s.residCmd c ctx va = .error (.trap x t)) (h : s.mem.wf = true) : t.mem.wf = true := by
  grind [State.residCmd, State.readImage_wf, drainAll_wf]

theorem State.cfgCmd_trap_wf {s : State} {c ctx : Nat} {va n : Word} {x : Trap} {t : State}
    (he : s.cfgCmd c ctx va n = .error (.trap x t)) (h : s.mem.wf = true) : t.mem.wf = true := by
  grind [State.cfgCmd, State.readImage_wf, drainAll_wf]

theorem State.lnch_trap_wf {s : State} {c ctx : Nat} {va : Word} {x : Trap} {t : State}
    (he : s.lnch c ctx va = .error (.trap x t)) (h : s.mem.wf = true) : t.mem.wf = true := by
  grind [State.lnch, State.cmdRead_wf, drainAll_wf]

/-- A command whose work never traps by itself. -/
theorem runCmd_goesOn_of_ne_trap (i : Instr) (d : Reg) (srcs : List Reg)
    {f : List Word → State → Except Stop (Word × State)} (s : State)
    (hok : ∀ vs t v u, f vs t = .ok (v, u) → t.mem.wf = true → u.mem.wf = true)
    (hne : ∀ vs t x u, f vs t ≠ .error (.trap x u)) : GoesOn s (runCmd i d srcs f s) :=
  runCmd_goesOn i d srcs s hok fun vs t x u he => absurd he (hne vs t x u)

/-- A command that reads its descriptor in a bank, and waits while the bank changes its mode. -/
theorem runCmd_whenSettled_goesOn (i : Instr) (d : Reg) (srcs : List Reg) {n : Nat}
    {g : List Word → State → Word × State} (s : State) (hg : ∀ vs t, t.mem.wf = true → (g vs t).2.mem.wf = true) :
    GoesOn s (runCmd i d srcs (fun vs s => s.whenSettled (vs.getD 0 0) n (g vs s)) s) :=
  runCmd_goesOn_of_ne_trap i d srcs s (fun vs t v u he h => by rw
    [show u = (g vs t).2 from congrArg Prod.snd (State.whenSettled_ok he)]; exact hg vs t h)
    fun vs t x u => State.whenSettled_ne_trap

/-- A command whose work always answers. -/
theorem runCmd_ok_goesOn (i : Instr) (d : Reg) (srcs : List Reg) {g : List Word → State → Word × State}
    (s : State) (hg : ∀ vs t, t.mem.wf = true → (g vs t).2.mem.wf = true) :
    GoesOn s (runCmd i d srcs (fun vs s => .ok (g vs s)) s) :=
  runCmd_goesOn_of_ne_trap i d srcs s (fun vs t _ _ he h => (Except.ok.inj he ▸ hg vs t h :)) fun _ _ _ _ => nofun

theorem execXcmd_goesOn (d a b : Reg) (s : State) : GoesOn s (execXcmd d a b s) :=
  runCmd_whenSettled_goesOn _ _ _ s fun _ t h => State.xcmd_wf t _ _ _ _ h

theorem execPcmd_goesOn (d a b : Reg) (s : State) : GoesOn s (execPcmd d a b s) :=
  runCmd_whenSettled_goesOn _ _ _ s fun _ t h => State.pcmd_wf t _ _ _ _ h

theorem execTpost_goesOn (d a b : Reg) (s : State) : GoesOn s (execTpost d a b s) :=
  runCmd_whenSettled_goesOn _ _ _ s fun _ t h => State.tpost_wf t _ _ _ _ h

theorem execCpy_goesOn (d a b : Reg) (s : State) : GoesOn s (execCpy d a b s) :=
  runCmd_whenSettled_goesOn _ _ _ s fun _ t h => State.copyIssue_wf t _ _ _ _ _ h

theorem execStrm_goesOn (d a b : Reg) (s : State) : GoesOn s (execStrm d a b s) :=
  runCmd_whenSettled_goesOn _ _ _ s fun _ t h => State.copyIssue_wf t _ _ _ _ _ h

theorem execResid_goesOn (d a : Reg) (s : State) : GoesOn s (execResid d a s) :=
  runCmd_goesOn _ _ _ s (fun _ t _ _ he h => t.residCmd_wf _ _ _ he h) fun _ _ _ _ => State.residCmd_trap_wf

theorem execCfg_goesOn (d a b : Reg) (s : State) : GoesOn s (execCfg d a b s) :=
  runCmd_goesOn _ _ _ s (fun _ t _ _ he h => t.cfgCmd_wf _ _ _ _ he h) fun _ _ _ _ => State.cfgCmd_trap_wf

theorem execLnch_goesOn (d a : Reg) (s : State) : GoesOn s (execLnch d a s) :=
  runCmd_goesOn _ _ _ s (fun _ t _ _ he h => t.lnch_wf _ _ _ he h) fun _ _ _ _ => State.lnch_trap_wf

theorem execMcmode_goesOn (v : BitVec 64) (s : State) : GoesOn s (execMcmode v s) :=
  goesOn_next fun h => by
    cases hw : s.writeMcmode (s.sq s.here).running.ctx v with
    | none => exact h
    | some t => exact (s.writeMcmode_mem _ v hw).symm ▸ h

theorem execMfs_goesOn (d : Reg) (n : BitVec 12) (s : State) : GoesOn s (execMfs d n s) :=
  goesOn_next fun h => by grind [State.takeTrap_wf, State.settle_compute_wf]

theorem execMts_goesOn (a : Reg) (n : BitVec 12) (s : State) : GoesOn s (execMts a n s) := by
  refine goesOn_next fun h => State.settle_wf _ (fun t he => ?_) (fun x t he => ?_) h
  all_goals
    simp only [bind, Except.bind] at he
    split at he
    · grind [State.readSrcs_trap_mem]
    · next v hv =>
      have hm := s.readSrcs_mem _ _ _ _ hv
      split at he
      · grind
      · next u hu =>
        have hw := v.2.writeSys_mem _ _ _ hu
        grind [State.advance_mem]

theorem execJalr_goesOn (d a : Reg) (imm : BitVec 14) (s : State) : GoesOn s (execJalr d a imm s) := by
  refine goesOn_next fun h => State.settle_wf _ (fun t he => ?_) (fun x t he => ?_) h
  all_goals
    simp only [bind, Except.bind] at he
    grind [State.readSrcs_mem, State.readSrcs_trap_mem, State.writeDst_mem, State.setPc_mem]

theorem execLd_goesOn (d a : Reg) (off : BitVec 8) (z : Size) (o : Order) (sc : Scope) (s : State) :
    GoesOn s (execLd d a off z o sc s) := by
  refine goesOn_next fun h => State.settle_wf _ (fun t he => ?_) (fun x t he => ?_) h
  all_goals
    simp only [bind, Except.bind] at he
    grind [State.readSrcs_mem, State.readSrcs_trap_mem, State.target_wf, State.ready, State.before_wf,
      State.performLoad_wf, State.after_mem, State.writeDst_mem, State.advance_mem]

theorem execSt_goesOn (d a : Reg) (off : BitVec 8) (z : Size) (o : Order) (sc : Scope) (s : State) :
    GoesOn s (execSt d a off z o sc s) := by
  refine goesOn_next fun h => State.settle_wf _ (fun t he => ?_) (fun x t he => ?_) h
  all_goals
    simp only [bind, Except.bind] at he
    grind [State.readSrcs_mem, State.readSrcs_trap_mem, State.target_wf, State.ready, State.before_wf,
      State.performSt_wf, State.after_mem, State.advance_mem]

theorem execMzero_goesOn (s : State) : GoesOn s (execMzero s) :=
  goesOn_next (State.isleTurn_wf _ _ _ _ _ fun _ => State.setIsle_mem ..)

theorem execAmberPushRetry_goesOn (i : BitVec 14) (s : State) : GoesOn s (execAmberPushRetry i s) := by
  refine goesOn_next fun h => ?_
  split
  · exact h
  · refine State.freeIfHome_wf _ _ _ (foldl_keeps_wf id _ (fun t p ht => t.givePush_wf _ _ _ ht) _ _ ?_)
    exact foldl_keeps_wf id _ (fun t p ht => t.dropEntry_wf _ _ _ ht) _ _ h

theorem execRecalibration_goesOn (link : BitVec 5) (s : State) : GoesOn s (execRecalibration link s) := goesOn_next id

theorem execHostMemoryAccess_goesOn (write : Bool) (pa : BitVec 48) (len data : Nat) (s : State)
    (hp : ∀ j, j < len → populated (pa.toNat + j) = true) : GoesOn s (execHostMemoryAccess write pa len data s) := by
  have hr : (List.range len).find? (fun i => !populated (pa.toNat + i)) = none := by simpa using hp
  simp only [execHostMemoryAccess, hr]
  grind [GoesOn, State.deviceWrite_wf, State.deliverKnown_mem, State.send_mem, State.deviceOdd_mem, State.storeLines_wf]

theorem execDieRepower_goesOn (s : State) : GoesOn s (execDieRepower s) := by
  refine goesOn_next fun h => ?_
  dsimp only
  split
  · split
    · exact foldl_keeps_wf id _ (fun t x ht => t.thermalRestore_wf _ x ht) _ _ (by simpa using s.wipeDie_wf _ h)
    · exact h
  · exact h

/-! ### Commands that always answer -/

theorem execQfence_goesOn (d a : Reg) (s : State) : GoesOn s (execQfence d a s) :=
  runCmd_ok_goesOn _ _ _ s fun _ t h => (t.qfence_mem _ _).symm ▸ h

theorem execParam_goesOn (d a b : Reg) (s : State) : GoesOn s (execParam d a b s) :=
  runCmd_ok_goesOn _ _ _ s fun _ t h => t.paramCmd_wf _ _ _ _ h

theorem execGbar_goesOn (d a b : Reg) (s : State) : GoesOn s (execGbar d a b s) :=
  runCmd_ok_goesOn _ _ _ s fun _ t h => t.gbarCmd_wf _ _ _ _ h

theorem execResume_goesOn (d a : Reg) (s : State) : GoesOn s (execResume d a s) :=
  runCmd_ok_goesOn _ _ _ s fun _ t h => t.resumeCmd_wf _ _ _ h

theorem execLease_goesOn (d a b : Reg) (s : State) : GoesOn s (execLease d a b s) :=
  runCmd_ok_goesOn _ _ _ s fun _ t h => (t.leaseCmd_mem _ _ _ _).symm ▸ h

theorem execLfree_goesOn (d a : Reg) (s : State) : GoesOn s (execLfree d a s) :=
  runCmd_ok_goesOn _ _ _ s fun _ t h => (t.lfreeCmd_mem _ _ _).symm ▸ h

theorem execBoost_goesOn (d a b : Reg) (s : State) : GoesOn s (execBoost d a b s) :=
  runCmd_ok_goesOn _ _ _ s fun _ t h => (t.boostCmd_mem _ _ _ _).symm ▸ h

theorem execTbind_goesOn (d a b : Reg) (s : State) : GoesOn s (execTbind d a b s) :=
  runCmd_ok_goesOn _ _ _ s fun _ t h => (t.tbind_mem _ _ _ _).symm ▸ h

/-! ### The other instructions -/

theorem execJal_goesOn (off : BitVec 26) (s : State) : GoesOn s (execJal off s) :=
  goesOn_next fun h => by grind [State.writeDst_mem, State.setPc_mem]

theorem execFence_goesOn (o : Order) (sc : Scope) (s : State) : GoesOn s (execFence o sc s) :=
  goesOn_next fun h => by grind [State.fence_wf, State.advance_mem]

theorem execCflush_goesOn (a : Reg) (s : State) : GoesOn s (execCflush a s) :=
  runFlush_goesOn _ _ _ fun _ _ h => by grind [foldl_wf_or, foldl_mem_or, State.dropCopy_mem]

theorem execCinval_goesOn (a : Reg) (s : State) : GoesOn s (execCinval a s) :=
  runFlush_goesOn _ _ _ fun _ _ h => by grind [State.drawNat_mem, State.dropCopy_mem]

theorem execTend_goesOn (s : State) : GoesOn s (execTend s) :=
  goesOn_next fun h => by grind [State.endTask_wf]

theorem execYield_goesOn (s : State) : GoesOn s (execYield s) :=
  goesOn_next fun h => by grind [State.endTask_wf, State.decideSave_wf]

theorem execEret_goesOn (s : State) : GoesOn s (execEret s) :=
  goesOn_next fun h => by grind [State.returnTrap_mem, State.takeTrap_wf]

theorem execTrap_goesOn (imm : BitVec 14) (s : State) : GoesOn s (execTrap imm s) :=
  goesOn_next fun h => by grind [State.takeTrap_wf]

theorem execBankmode_goesOn (v : BitVec 64) (s : State) : GoesOn s (execBankmode v s) :=
  goesOn_next fun h => by grind [State.setCl_mem]

theorem execBankModeCut_goesOn (s : State) : GoesOn s (execBankModeCut s) :=
  goesOn_next fun h => by grind [State.setCl_mem]

theorem execWtest_goesOn (d a b : Reg) (s : State) : GoesOn s (execWtest d a b s) := by
  grind [GoesOn, execWtest, State.acquire_mem, runCmd_goesOn]

theorem execTaskDispatch_goesOn (s : State) : GoesOn s (execTaskDispatch s) :=
  goesOn_next fun h => by grind [State.dispatchTask_mem]

theorem execMessageArrival_goesOn (k : SenderKind) (chan : BitVec 4) (w0 w1 w2 w3 : BitVec 64) (s : State) :
    GoesOn s (execMessageArrival k chan w0 w1 w2 w3 s) :=
  goesOn_next fun h => by grind [State.post_mem, State.enqueue_mem, State.postMc_mem]

theorem execMessageRetry_goesOn (s : State) : GoesOn s (execMessageRetry s) :=
  goesOn_next fun h => by grind [State.retryAll_mem]

theorem execPageWalk_goesOn (ctx : BitVec 6) (k : AccKind) (va : BitVec 64) (s : State) :
    GoesOn s (execPageWalk ctx k va s) :=
  goesOn_next fun h => by grind [State.walkAndKeep_wf]

theorem execInvalidationArrival_goesOn (line : BitVec 41) (s : State) : GoesOn s (execInvalidationArrival line s) :=
  goesOn_next fun h => by grind [State.dropCopy_mem]

theorem execTierCTimeout_goesOn (pa : BitVec 48) (va : BitVec 64) (s : State) : GoesOn s (execTierCTimeout pa va s) :=
  goesOn_next fun h => by grind [State.machineCheck_mem]

theorem execEccError_goesOn (sram : Bool) (addr : BitVec 48) (bad : Bool) (s : State) :
    GoesOn s (execEccError sram addr bad s) :=
  goesOn_next fun h => by grind [State.eccError_mem]

theorem execPatrolScrub_goesOn (pa : BitVec 48) (s : State) : GoesOn s (execPatrolScrub pa s) :=
  goesOn_next fun h => by grind [State.scrub_mem]

theorem execAmbPark_goesOn (v : BitVec 64) (s : State) : GoesOn s (execAmbPark v s) :=
  goesOn_next fun h => by grind [State.amberPark_wf, State.posted_mem]

theorem execWake_goesOn (i : BitVec 14) (token : BitVec 32) (arg : BitVec 28) (s : State) :
    GoesOn s (execWake i token arg s) :=
  goesOn_next fun h => by grind [State.posted_mem, State.wakeSlot_wf]

theorem execPromoteAll_goesOn (i : BitVec 14) (token : BitVec 32) (arg : BitVec 28) (s : State) :
    GoesOn s (execPromoteAll i token arg s) :=
  goesOn_next fun h => by grind [State.posted_mem, State.wakeSlot_wf]

theorem execPromoteOne_goesOn (i : BitVec 14) (token : BitVec 32) (arg : BitVec 28) (s : State) :
    GoesOn s (execPromoteOne i token arg s) :=
  goesOn_next fun h => by grind [State.posted_mem, State.wakeSlot_wf]

theorem execDrop_goesOn (i : BitVec 14) (token : BitVec 32) (arg : BitVec 28) (s : State) :
    GoesOn s (execDrop i token arg s) :=
  goesOn_next fun h => by grind [State.posted_mem, State.wakeSlot_wf]

theorem execHcTimerExpiry_goesOn (i : BitVec 14) (s : State) : GoesOn s (execHcTimerExpiry i s) :=
  goesOn_next fun h => by grind [State.hcExpiry_wf]

theorem execCfTimerExpiry_goesOn (i : BitVec 14) (s : State) : GoesOn s (execCfTimerExpiry i s) :=
  goesOn_next fun h => by grind [State.cfExpiry_wf]

theorem execAmberExamination_goesOn (i : BitVec 14) (s : State) : GoesOn s (execAmberExamination i s) :=
  goesOn_next fun h => by grind [State.examine_wf]

theorem execDemoteHc_goesOn (i : BitVec 14) (b : BitVec 28) (s : State) : GoesOn s (execDemoteHc i b s) :=
  goesOn_next fun h => by grind [State.finishHC_wf, State.goDemote_wf]

theorem execDemoteCf_goesOn (i : BitVec 14) (b : BitVec 28) (s : State) : GoesOn s (execDemoteCf i b s) :=
  goesOn_next fun h => by grind [State.wakeEngines_mem, State.goDemote_wf, State.finishCF_wf]

theorem execBlockPromotion_goesOn (i : BitVec 14) (b : BitVec 28) (s : State) : GoesOn s (execBlockPromotion i b s) :=
  goesOn_next fun h => by grind [State.finishPromotion_wf, State.pump_wf, State.wakeEngines_mem]

theorem execPromotionResume_goesOn (i : BitVec 14) (s : State) : GoesOn s (execPromotionResume i s) :=
  goesOn_next fun h => by grind [State.pump_wf]

theorem execResumeLaunchRetry_goesOn (i : BitVec 14) (s : State) : GoesOn s (execResumeLaunchRetry i s) :=
  goesOn_next fun h => by grind [State.setAmber_mem, State.submitPacket_wf]

theorem execAmberCfg_goesOn (s : State) : GoesOn s (execAmberCfg s) :=
  runFw_goesOn _ _ fun _ _ _ h => by grind [State.fwDone_wf, State.setAmber_mem]

theorem execCopy_goesOn (q : BitVec 3) (s : State) : GoesOn s (execCopy q s) :=
  goesOn_next fun h => by grind [State.copyStep_wf]

theorem execMaskrows_goesOn (q : BitVec 3) (s : State) : GoesOn s (execMaskrows q s) :=
  goesOn_next fun h => by grind [State.copyStep_wf]

theorem execStreamin_goesOn (q : BitVec 3) (s : State) : GoesOn s (execStreamin q s) :=
  goesOn_next fun h => by grind [State.streamStart_mem]

theorem execStreamout_goesOn (q : BitVec 3) (s : State) : GoesOn s (execStreamout q s) :=
  goesOn_next fun h => by grind [State.streamStart_mem]

theorem execArrive_goesOn (q : BitVec 3) (s : State) : GoesOn s (execArrive q s) :=
  goesOn_next fun h => by grind [State.setCl_mem, State.barArrive_mem]

theorem execBarset_goesOn (q : BitVec 3) (s : State) : GoesOn s (execBarset q s) :=
  goesOn_next fun h => by grind [State.setCl_mem]

theorem execStreamPortPush_goesOn (q : BitVec 3) (s : State) : GoesOn s (execStreamPortPush q s) :=
  goesOn_next fun h => by grind [State.setCl_mem, State.copyRead_wf]

theorem execStreamPortPop_goesOn (q : BitVec 3) (s : State) : GoesOn s (execStreamPortPop q s) :=
  goesOn_next fun h => by grind [State.setCl_mem, State.copyWrite_wf]

theorem execChunkComplete_goesOn (q : BitVec 3) (s : State) : GoesOn s (execChunkComplete q s) :=
  goesOn_next fun h => by grind [State.barWord_mem, State.setCl_mem]

theorem execCeCommandComplete_goesOn (q : BitVec 3) (s : State) : GoesOn s (execCeCommandComplete q s) :=
  goesOn_next fun h => by grind [State.post_mem, State.setCl_mem, State.barArrive_mem]

theorem execQfenceRetire_goesOn (k : Nat) (s : State) : GoesOn s (execQfenceRetire k s) :=
  goesOn_next fun h => by grind [State.retireFence_mem]

theorem execRingDescriptorStore_goesOn (k : BitVec 4) (dw : BitVec 3) (v : BitVec 64) (s : State) :
    GoesOn s (execRingDescriptorStore k dw v s) :=
  goesOn_next fun h => by grind [State.setCl_mem]

theorem execFifoQueueStore_goesOn (bank : BitVec 6) (dw : BitVec 2) (v : BitVec 64) (s : State) :
    GoesOn s (execFifoQueueStore bank dw v s) :=
  goesOn_next fun h => by grind [State.setCl_mem]

theorem execWindowQueueStore_goesOn (bank : BitVec 6) (dw : BitVec 2) (v : BitVec 64) (s : State) :
    GoesOn s (execWindowQueueStore bank dw v s) :=
  goesOn_next fun h => by grind [State.setCl_mem]

theorem execSwitchForward_goesOn (w : BitVec 3) (s : State) : GoesOn s (execSwitchForward w s) :=
  goesOn_next fun h => by grind [State.switchForward_wf]

theorem execKillPropagate_goesOn (k : Nat) (s : State) : GoesOn s (execKillPropagate k s) :=
  goesOn_next fun h => by grind [State.setCl_mem]

theorem State.runLanes_goesOn (s : State) (f : PeF) (raw : List Nat) (star : Option Nat)
    (body : Pe → (Nat → Token) → FireOut) : GoesOn s (s.runLanes f raw star body) :=
  goesOn_next fun h => by grind [State.runPe_wf]

theorem State.runInt_goesOn (s : State) (f : PeF) (h : ℤ → ℤ → ℤ) : GoesOn s (s.runInt f h) :=
  State.runLanes_goesOn ..

theorem State.runLogic_goesOn (s : State) (f : PeF) (h : Nat → Nat → Nat) : GoesOn s (s.runLogic f h) :=
  State.runLanes_goesOn ..

theorem State.runShift_goesOn (s : State) (f : PeF) (h : Nat → Nat → Nat → Nat) : GoesOn s (s.runShift f h) :=
  goesOn_next fun h => by grind [State.runPe_wf]

theorem State.runFunnel_goesOn (s : State) (f : PeF) (h : Nat → Nat → Nat → Nat) : GoesOn s (s.runFunnel f h) :=
  State.runLanes_goesOn ..

theorem State.runCount_goesOn (s : State) (f : PeF) (h : Pe → Nat → Nat) : GoesOn s (s.runCount f h) :=
  State.runLanes_goesOn ..

theorem State.runFlt_goesOn (s : State) (f : PeF) (ss : List Nat) (star : Nat) (h : Bool → List Fp → Fp) :
    GoesOn s (s.runFlt f ss star h) :=
  State.runLanes_goesOn ..

theorem State.runMinMax_goesOn (s : State) (f : PeF) (mx : Bool) : GoesOn s (s.runMinMax f mx) :=
  State.runLanes_goesOn ..

theorem execCvt_goesOn (f : PeF) (s : State) : GoesOn s (execCvt f s) :=
  goesOn_next fun h => by grind [State.runPe_wf]

theorem State.runWord_goesOn (s : State) (f : PeF) (raw : List Nat) (star : Option Nat)
    (body : Pe → (Nat → Token) → FireOut) : GoesOn s (s.runWord f raw star body) :=
  goesOn_next fun h => by grind [State.runPe_wf]

theorem execGate_goesOn (f : PeF) (s : State) : GoesOn s (execGate f s) :=
  goesOn_next fun h => by grind [State.runPe_wf]

theorem execSteer_goesOn (f : PeF) (s : State) : GoesOn s (execSteer f s) :=
  goesOn_next fun h => by grind [State.runPe_wf]

theorem execMerge_goesOn (f : PeF) (s : State) : GoesOn s (execMerge f s) :=
  goesOn_next fun h => by grind [State.runPe_wf]

theorem State.runNum_goesOn (s : State) (f : PeF) (d : DigOp) : GoesOn s (s.runNum f d) :=
  goesOn_next fun h => by grind [State.runDigit_wf]

theorem execDrace_goesOn (f : PeF) (s : State) : GoesOn s (execDrace f s) :=
  goesOn_next fun h => by grind [State.runDigit_wf]

theorem execDacc_goesOn (f : PeF) (s : State) : GoesOn s (execDacc f s) :=
  goesOn_next fun h => by grind [State.runDigit_wf]

theorem State.runMt_goesOn (s : State) (f : MtF) (body : MtCtx → List Token → FireOut) : GoesOn s (s.runMt f body) :=
  goesOn_next fun h => by grind [State.applyFire_wf, State.discard_wf]

theorem State.runQueue_goesOn (s : State) (f : MtF) (ring : Bool) (flushes : MtCtx → MtQueue → Token → Bool) :
    GoesOn s (s.runQueue f ring flushes) :=
  goesOn_next fun h => by grind [State.queueStore_mem, State.queueSend_wf]

theorem execAgld_goesOn (f : AgF) (s : State) : GoesOn s (execAgld f s) :=
  goesOn_next fun h => by grind [State.agTurn_wf]

theorem execAgst_goesOn (f : AgF) (s : State) : GoesOn s (execAgst f s) :=
  goesOn_next fun h => by grind [State.agTurn_wf]

theorem execAgga_goesOn (f : AgF) (s : State) : GoesOn s (execAgga f s) :=
  goesOn_next fun h => by grind [State.agTurn_wf]

theorem execAgsc_goesOn (f : AgF) (s : State) : GoesOn s (execAgsc f s) :=
  goesOn_next fun h => by grind [State.agTurn_wf]

theorem execAgsel_goesOn (f : AgF) (s : State) : GoesOn s (execAgsel f s) :=
  goesOn_next fun h => by grind [State.agTurn_wf]

theorem execAgbt_goesOn (f : AgF) (s : State) : GoesOn s (execAgbt f s) :=
  goesOn_next fun h => by grind [State.agTurn_wf]

theorem execAgamo_goesOn (f : AgF) (s : State) : GoesOn s (execAgamo f s) :=
  goesOn_next fun h => by grind [State.agTurn_wf]

theorem execAgpf_goesOn (f : AgF) (s : State) : GoesOn s (execAgpf f s) :=
  goesOn_next fun h => by grind [State.agTurn_wf]

theorem execOrderTokenEmit_goesOn (s : State) : GoesOn s (execOrderTokenEmit s) :=
  goesOn_next fun h => by grind [foldl_wf_or, foldl_mem_or, State.drawPower_mem, State.setCl_mem,
    State.deliverKnown_mem]

theorem execIterationClaim_goesOn (slot : BitVec 4) (s : State) : GoesOn s (execIterationClaim slot s) :=
  goesOn_next fun h => by grind [State.claimItem_wf]

theorem execTileTeardown_goesOn (s : State) : GoesOn s (execTileTeardown s) :=
  goesOn_next fun h => by grind [State.isleDown_wf, State.agDown_wf, State.tileDown_wf]

theorem execResidencyMove_goesOn (slot page : BitVec 4) (s : State) : GoesOn s (execResidencyMove slot page s) :=
  goesOn_next fun h => by grind [State.placeMember_wf, State.moveResid_wf, State.tryPlace_wf]

theorem execLaunchEligible_goesOn (n : BitVec 32) (s : State) : GoesOn s (execLaunchEligible n s) :=
  goesOn_next fun h => by grind [State.setDie_mem, State.watch_wf]

theorem execLaunchAgeing_goesOn (n : BitVec 32) (s : State) : GoesOn s (execLaunchAgeing n s) :=
  goesOn_next fun h => by grind [State.setDie_mem]

theorem execLaunchBlocking_goesOn (n : BitVec 32) (s : State) : GoesOn s (execLaunchBlocking n s) :=
  goesOn_next fun h => by grind [State.tryPlace_wf, State.setDie_mem]

theorem execLaunchAdmission_goesOn (s : State) : GoesOn s (execLaunchAdmission s) :=
  goesOn_next fun h => by grind [foldl_wf_or, foldl_mem_or, State.serveHq_wf, State.admitAll_wf]

theorem execHqctl_goesOn (q : BitVec 4) (v : BitVec 64) (s : State) : GoesOn s (execHqctl q v s) :=
  goesOn_next fun h => by grind [State.posted_mem, State.setHq_mem]

theorem execHqmirror_goesOn (q : BitVec 4) (v : BitVec 64) (s : State) : GoesOn s (execHqmirror q v s) :=
  goesOn_next fun h => by grind [State.posted_mem, State.hqDoorbell_wf]

theorem execHostQueueTail_goesOn (q : BitVec 4) (s : State) : GoesOn s (execHostQueueTail q s) :=
  goesOn_next fun h => by grind [State.serveHq_wf, State.setHq_mem, State.drawNat_mem]

theorem execLinkLaunchSlot_goesOn (origin : BitVec 64) (packet : BitVec 512) (s : State) :
    GoesOn s (execLinkLaunchSlot origin packet s) := by
  grind [GoesOn, execLinkLaunchSlot, State.accept_wf, State.send_mem]

theorem execLinkAccessRefused_goesOn (link : BitVec 5) (acc : PeerAccess) (s : State) :
    GoesOn s (execLinkAccessRefused link acc s) :=
  goesOn_next fun h => by grind [State.send_mem]

theorem execLeaseArbitration_goesOn (s : State) : GoesOn s (execLeaseArbitration s) :=
  goesOn_next fun h => by grind [State.arbitrate_mem]

theorem execLeaseEviction_goesOn (p : BitVec 6) (s : State) : GoesOn s (execLeaseEviction p s) :=
  goesOn_next fun h => by grind [State.amberEvicted_mem, State.endLease_wf, State.arbitrate_mem]

theorem execPralineReady_goesOn (p : BitVec 6) (s : State) : GoesOn s (execPralineReady p s) :=
  goesOn_next fun h => by grind [State.setDie_mem]

theorem execPralineIdleSleep_goesOn (p : BitVec 6) (s : State) : GoesOn s (execPralineIdleSleep p s) :=
  goesOn_next fun h => by grind [State.setDie_mem]

theorem execLingerExpiry_goesOn (p : BitVec 6) (s : State) : GoesOn s (execLingerExpiry p s) :=
  goesOn_next fun h => by grind [State.setDie_mem]

theorem runPraline_goesOn (cmd : Nat) (p : BitVec 6) (s : State) : GoesOn s (runPraline cmd p s) :=
  goesOn_next fun h => by grind [State.setSlot_mem, State.pralineWork_wf]

theorem execPralineComplete_goesOn (p : BitVec 6) (s : State) : GoesOn s (execPralineComplete p s) :=
  goesOn_next fun h => by grind [State.settleSlot_mem, State.pralineDone_mem, State.setDie_mem, State.setSlot_mem]

theorem execPowerInterval_goesOn (region : BitVec 6) (s : State) : GoesOn s (execPowerInterval region s) :=
  goesOn_next fun h => by grind [State.setCl_mem, State.moveSpines_mem, State.drawNat_mem]

theorem execSpineChange_goesOn (spine : BitVec 3) (mhz : BitVec 12) (s : State) :
    GoesOn s (execSpineChange spine mhz s) :=
  goesOn_next fun h => by grind [State.setDie_mem]

theorem execBoostSpineSwitch_goesOn (s : State) : GoesOn s (execBoostSpineSwitch s) :=
  goesOn_next fun h => by grind [State.setDie_mem]

theorem execSupplyLimit_goesOn (x : BitVec 16) (s : State) : GoesOn s (execSupplyLimit x s) :=
  goesOn_next fun h => by grind [State.revokeBoosts_mem]

theorem execBoostNoticeEnd_goesOn (ctx : BitVec 6) (s : State) : GoesOn s (execBoostNoticeEnd ctx s) :=
  goesOn_next fun h => by grind [State.endBoost_mem]

theorem execBoostExpiry_goesOn (ctx : BitVec 6) (s : State) : GoesOn s (execBoostExpiry ctx s) :=
  goesOn_next fun h => by grind [State.endBoost_mem]

theorem execPstall_goesOn (v : BitVec 64) (s : State) : GoesOn s (execPstall v s) :=
  goesOn_next fun h => by grind [State.posted_mem, State.setDie_mem]

theorem execThermalSample_goesOn (tj : BitVec 8) (s : State) : GoesOn s (execThermalSample tj s) :=
  goesOn_next fun h => by grind [State.sample_wf]

theorem execTripMark_goesOn (s : State) : GoesOn s (execTripMark s) :=
  goesOn_next fun h => by grind [State.sample_wf]

theorem execEmergencySaveTimeout_goesOn (s : State) : GoesOn s (execEmergencySaveTimeout s) :=
  goesOn_next fun h => by grind [State.railsFall_wf]

theorem execHbmSelfRefresh_goesOn (s : State) : GoesOn s (execHbmSelfRefresh s) :=
  goesOn_next fun h => by grind [State.setDie_mem]

theorem execRailRemoval_goesOn (s : State) : GoesOn s (execRailRemoval s) :=
  goesOn_next fun h => by grind [State.railsFall_wf]

theorem execDeadlineExpiry_goesOn (ctx : BitVec 6) (s : State) : GoesOn s (execDeadlineExpiry ctx s) :=
  goesOn_next fun h => by grind [State.expireDeadline_wf]

theorem execContextSaveComplete_goesOn (ctx : BitVec 6) (s : State) : GoesOn s (execContextSaveComplete ctx s) :=
  goesOn_next fun h => by grind [State.saveStep_wf]

theorem execTileFlagWrite_goesOn (tile : BitVec 8) (v : BitVec 64) (s : State) :
    GoesOn s (execTileFlagWrite tile v s) :=
  goesOn_next fun h => by grind [State.setCl_mem]

theorem execIslandStatusWrite_goesOn (i : BitVec 2) (dw : BitVec 3) (v : BitVec 64) (s : State) :
    GoesOn s (execIslandStatusWrite i dw v s) :=
  goesOn_next fun h => by grind [State.setCl_mem]

theorem execRegisterWrite_goesOn (pa : BitVec 48) (v : BitVec 64) (s : State) : GoesOn s (execRegisterWrite pa v s) :=
  goesOn_next fun h => by grind [State.posted_mem, State.deviceWrite_wf]

theorem execIdentify_goesOn (s : State) : GoesOn s (execIdentify s) :=
  runFw_goesOn _ _ fun _ _ _ h => by grind [State.fwWrite_wf, State.fwDone_wf]

theorem execFeatures_goesOn (s : State) : GoesOn s (execFeatures s) :=
  runFw_goesOn _ _ fun _ _ _ h => by grind [State.fwWrite_wf, State.fwDone_wf, State.setFeatures_mem]

theorem execCtxCreate_goesOn (s : State) : GoesOn s (execCtxCreate s) :=
  runFw_goesOn _ _ fun _ _ _ h => by grind [State.fwDone_wf, State.createCtx_wf]

theorem execCtxDestroy_goesOn (s : State) : GoesOn s (execCtxDestroy s) :=
  runFw_goesOn _ _ fun _ _ _ h => by grind [State.fwDone_wf, State.endAndTell_wf, State.requestSave_wf,
    State.setCtx_mem]

theorem execMap_goesOn (s : State) : GoesOn s (execMap s) :=
  runFw_goesOn _ _ fun _ _ _ h => by grind [State.mapCmd_wf]

theorem execUnmap_goesOn (s : State) : GoesOn s (execUnmap s) :=
  runFw_goesOn _ _ fun _ _ _ h => by grind [State.mapCmd_wf]

theorem execMapComplete_goesOn (s : State) : GoesOn s (execMapComplete s) :=
  goesOn_next fun h => by grind [foldl_wf_or, foldl_mem_or, State.fwDone_wf, drainAll_wf, State.settleLoads_wf,
    State.dropTlb_mem, State.setPkg_mem, State.giveTables_mem]

theorem execPowerCfg_goesOn (s : State) : GoesOn s (execPowerCfg s) :=
  runFw_goesOn _ _ fun _ _ _ h => by grind [foldl_wf_or, foldl_mem_or, State.fwDone_wf, State.setDie_mem,
    State.arbitrate_mem, State.setCtx_mem]

theorem execAttest_goesOn (s : State) : GoesOn s (execAttest s) :=
  runFw_goesOn _ _ fun _ _ _ h => by grind [State.fwDone_wf, State.fwPut_wf, State.setPkg_mem]

theorem execLifelogRead_goesOn (s : State) : GoesOn s (execLifelogRead s) :=
  runFw_goesOn _ _ fun _ _ _ h => by grind [State.fwDone_wf, State.fwPut_wf]

theorem execResetDie_goesOn (s : State) : GoesOn s (execResetDie s) :=
  runFw_goesOn _ _ fun _ _ _ h => by grind [foldl_wf_or, foldl_mem_or, State.fwDone_wf, State.resetDie_wf,
    State.rewriteLog_mem, State.send_mem]

theorem execFwUpdate_goesOn (s : State) : GoesOn s (execFwUpdate s) :=
  runFw_goesOn _ _ fun _ _ _ h => by grind [State.fwDone_wf, State.setPkg_mem]

theorem execA2a_goesOn (e : BitVec 1) (q : BitVec 2) (s : State) : GoesOn s (execA2a e q s) :=
  goesOn_next fun h => by grind [State.exchange_wf]

theorem execPut_goesOn (e : BitVec 1) (q : BitVec 2) (s : State) : GoesOn s (execPut e q s) :=
  goesOn_next fun h => by grind [State.exchange_wf]

theorem execGet_goesOn (e : BitVec 1) (q : BitVec 2) (s : State) : GoesOn s (execGet e q s) :=
  goesOn_next fun h => by grind [State.exchange_wf]

theorem execSig_goesOn (e : BitVec 1) (q : BitVec 2) (s : State) : GoesOn s (execSig e q s) :=
  goesOn_next fun h => by grind [State.exchange_wf]

theorem execExchangeComplete_goesOn (e : BitVec 1) (q : BitVec 2) (s : State) : GoesOn s (execExchangeComplete e q s) :=
  goesOn_next fun h => by grind [State.setXq_mem, State.exchangeDone_mem, State.deliverKnown_mem]

theorem execKeepaliveLoss_goesOn (link : BitVec 5) (s : State) : GoesOn s (execKeepaliveLoss link s) :=
  goesOn_next fun h => by grind [State.setPkg_mem, State.send_mem]

theorem execPowerUp_goesOn (s : State) : GoesOn s (execPowerUp s) :=
  goesOn_next fun h => by grind [State.setPkg_mem, State.send_mem, State.packageReset_wf]

theorem execSramScrub_goesOn (cl : BitVec 8) (off : BitVec 24) (s : State) : GoesOn s (execSramScrub cl off s) :=
  goesOn_next fun h => by grind [State.scrub_mem]

theorem execWearLevelling_goesOn (s : State) : GoesOn s (execWearLevelling s) :=
  goesOn_next fun h => by grind [State.setAmber_mem]

theorem execTelemetrySample_goesOn (s : State) : GoesOn s (execTelemetrySample s) :=
  goesOn_next fun h => by grind [State.count_mem]

theorem execLifelogRewrite_goesOn (s : State) : GoesOn s (execLifelogRewrite s) :=
  goesOn_next fun h => by grind [State.setPkg_mem, State.rewriteLog_mem]

theorem execRemoteExchangeRequest_goesOn (ctx : BitVec 6) (kind : BitVec 2) (va : BitVec 64) (len data : Nat)
    (s : State) : GoesOn s (execRemoteExchangeRequest ctx kind va len data s) :=
  goesOn_next fun h => by grind [State.peerRequest_wf]

theorem execPowerLoss_goesOn (s : State) : GoesOn s (execPowerLoss s) :=
  goesOn_next fun h => by grind [State.packageReset_wf]

theorem execVoltageDroop_goesOn (vfi depth : BitVec 8) (s : State) : GoesOn s (execVoltageDroop vfi depth s) :=
  goesOn_next fun h => by grind [State.count_mem]

theorem execLaneRetrain_goesOn (link : BitVec 5) (s : State) : GoesOn s (execLaneRetrain link s) :=
  goesOn_next fun h =>
    if hl : link.toNat < 31 then by rw [if_pos hl, State.count_mem]; exact h
    else by rw [if_neg hl]; exact h

/-- A host access touches populated addresses only (R291). -/
def HostPopulated (i : Instr) : Prop :=
  ∀ write pa len data, i = .hostMemoryAccess write pa len data → ∀ j, j < len → populated (pa.toNat + j) = true

/-- Every instruction goes on and keeps the canonical form; a host access, where every address that it touches is
populated (R10, R291). -/
theorem exec_goesOn (s : State) (i : Instr) (hp : HostPopulated i) : GoesOn s (exec i s) := by
  cases i
  all_goals dsimp only [exec]
  case add | sub | and | or | xor | shl | shr | sha | mul | mulh | div | divu | rem | min | max | minu | maxu | slt
    | sltu | ceq => exact runOp_goesOn ..
  case clz | popc | addi | andi | ori | xori | shli | shri | shai | slti => exact runOp1_goesOn ..
  case lui | addpc => exact runOp0_goesOn ..
  case beq | bne | blt | bge | bltu | bgeu => exact runBranch_goesOn ..
  case jal => exact execJal_goesOn ..
  case jalr => exact execJalr_goesOn ..
  case ld => exact execLd_goesOn ..
  case st => exact execSt_goesOn ..
  case amoswp | amoadd | amocas | amomin | amomax | amoand | amoor | amoxor => exact runAmo_goesOn ..
  case fence => exact execFence_goesOn ..
  case cflush => exact execCflush_goesOn ..
  case cinval => exact execCinval_goesOn ..
  case qfence => exact execQfence_goesOn ..
  case tend => exact execTend_goesOn ..
  case yield => exact execYield_goesOn ..
  case eret => exact execEret_goesOn ..
  case trap => exact execTrap_goesOn ..
  case mfs => exact execMfs_goesOn ..
  case mts => exact execMts_goesOn ..
  case bankmode => exact execBankmode_goesOn ..
  case bankModeCut => exact execBankModeCut_goesOn ..
  case mcmode => exact execMcmode_goesOn ..
  case cpy => exact execCpy_goesOn ..
  case strm => exact execStrm_goesOn ..
  case wtest => exact execWtest_goesOn ..
  case cfg => exact execCfg_goesOn ..
  case resid => exact execResid_goesOn ..
  case param => exact execParam_goesOn ..
  case gbar => exact execGbar_goesOn ..
  case resume => exact execResume_goesOn ..
  case lease => exact execLease_goesOn ..
  case lfree => exact execLfree_goesOn ..
  case pcmd => exact execPcmd_goesOn ..
  case boost => exact execBoost_goesOn ..
  case lnch => exact execLnch_goesOn ..
  case xcmd => exact execXcmd_goesOn ..
  case tbind => exact execTbind_goesOn ..
  case tpost => exact execTpost_goesOn ..
  case taskDispatch => exact execTaskDispatch_goesOn ..
  case messageArrival => exact execMessageArrival_goesOn ..
  case messageRetry => exact execMessageRetry_goesOn ..
  case pageWalk => exact execPageWalk_goesOn ..
  case invalidationArrival => exact execInvalidationArrival_goesOn ..
  case tierCTimeout => exact execTierCTimeout_goesOn ..
  case eccError => exact execEccError_goesOn ..
  case patrolScrub => exact execPatrolScrub_goesOn ..
  case ambPark => exact execAmbPark_goesOn ..
  case wake => exact execWake_goesOn ..
  case promoteAll => exact execPromoteAll_goesOn ..
  case promoteOne => exact execPromoteOne_goesOn ..
  case drop => exact execDrop_goesOn ..
  case hcTimerExpiry => exact execHcTimerExpiry_goesOn ..
  case cfTimerExpiry => exact execCfTimerExpiry_goesOn ..
  case amberExamination => exact execAmberExamination_goesOn ..
  case demoteHc => exact execDemoteHc_goesOn ..
  case demoteCf => exact execDemoteCf_goesOn ..
  case blockPromotion => exact execBlockPromotion_goesOn ..
  case promotionResume => exact execPromotionResume_goesOn ..
  case resumeLaunchRetry => exact execResumeLaunchRetry_goesOn ..
  case amberPushRetry => exact execAmberPushRetry_goesOn ..
  case amberCfg => exact execAmberCfg_goesOn ..
  case copy => exact execCopy_goesOn ..
  case maskrows => exact execMaskrows_goesOn ..
  case streamin => exact execStreamin_goesOn ..
  case streamout => exact execStreamout_goesOn ..
  case arrive => exact execArrive_goesOn ..
  case barset => exact execBarset_goesOn ..
  case streamPortPush => exact execStreamPortPush_goesOn ..
  case streamPortPop => exact execStreamPortPop_goesOn ..
  case chunkComplete => exact execChunkComplete_goesOn ..
  case ceCommandComplete => exact execCeCommandComplete_goesOn ..
  case qfenceRetire => exact execQfenceRetire_goesOn ..
  case ringDescriptorStore => exact execRingDescriptorStore_goesOn ..
  case fifoQueueStore => exact execFifoQueueStore_goesOn ..
  case windowQueueStore => exact execWindowQueueStore_goesOn ..
  case switchForward => exact execSwitchForward_goesOn ..
  case killPropagate => exact execKillPropagate_goesOn ..
  case iadd | isub | imul | imin | imax => exact State.runInt_goesOn ..
  case imulh | iabs | icmp | sel | fcmp | pass | mark | const => exact State.runLanes_goesOn ..
  case peAnd | peOr | peXor => exact State.runLogic_goesOn ..
  case peShl | peShr | peSha => exact State.runShift_goesOn ..
  case fshl | fshr => exact State.runFunnel_goesOn ..
  case peClz | pePopc | bwid => exact State.runCount_goesOn ..
  case fadd | fsub | fmul | ffma => exact State.runFlt_goesOn ..
  case fmin | fmax => exact State.runMinMax_goesOn ..
  case cvt => exact execCvt_goesOn ..
  case red | scan | shuf | packb | unpkb | delta | cnt | ojoin => exact State.runWord_goesOn ..
  case gate => exact execGate_goesOn ..
  case steer => exact execSteer_goesOn ..
  case merge => exact execMerge_goesOn ..
  case dadd | dsub | dmul | dfma | ddiv | dsqrt | drsq | dexp | dlog | dnorm | dscl | dmax | dcmpk | drelu | dsel =>
    exact State.runNum_goesOn ..
  case drace => exact execDrace_goesOn ..
  case dacc => exact execDacc_goesOn ..
  case mtrd | mtwr | mttas | mthist | mtlut | mtacc | mtclr => exact State.runMt_goesOn ..
  case mtring | mtfifo => exact State.runQueue_goesOn ..
  case agld => exact execAgld_goesOn ..
  case agst => exact execAgst_goesOn ..
  case agga => exact execAgga_goesOn ..
  case agsc => exact execAgsc_goesOn ..
  case agsel => exact execAgsel_goesOn ..
  case agbt => exact execAgbt_goesOn ..
  case agamo => exact execAgamo_goesOn ..
  case agpf => exact execAgpf_goesOn ..
  case orderTokenEmit => exact execOrderTokenEmit_goesOn ..
  case iterationClaim => exact execIterationClaim_goesOn ..
  case mzero => exact execMzero_goesOn ..
  case mma => exact goesOn_next (State.isleTurn_wf _ _ _ _ _ fun _ => State.mmaWord_mem ..)
  case mout => exact goesOn_next (State.isleTurn_wf _ _ _ _ _ fun _ => State.moutWord_mem ..)
  case mlut => exact goesOn_next (State.isleTurn_wf _ _ _ _ _ fun _ => State.mlutWord_mem ..)
  case mqk => exact goesOn_next (State.isleTurn_wf _ _ _ _ _ fun _ => State.mqkWord_mem ..)
  case msmu => exact goesOn_next (State.isleTurn_wf _ _ _ _ _ fun _ => State.msmuWord_mem ..)
  case mpva => exact goesOn_next (State.isleTurn_wf _ _ _ _ _ fun _ => State.mpvaWord_mem ..)
  case msmf => exact goesOn_next (State.isleTurn_wf _ _ _ _ _ fun _ => State.msmfWord_mem ..)
  case msmg => exact goesOn_next (State.isleTurn_wf _ _ _ _ _ fun _ => State.msmgWord_mem ..)
  case mset => exact goesOn_next (State.isleTurn_wf _ _ _ _ _ fun _ => State.msetWord_mem ..)
  case tileTeardown => exact execTileTeardown_goesOn ..
  case residencyMove => exact execResidencyMove_goesOn ..
  case launchEligible => exact execLaunchEligible_goesOn ..
  case launchAgeing => exact execLaunchAgeing_goesOn ..
  case launchBlocking => exact execLaunchBlocking_goesOn ..
  case launchAdmission => exact execLaunchAdmission_goesOn ..
  case hqctl => exact execHqctl_goesOn ..
  case hqmirror => exact execHqmirror_goesOn ..
  case hostQueueTail => exact execHostQueueTail_goesOn ..
  case linkLaunchSlot => exact execLinkLaunchSlot_goesOn ..
  case linkAccessRefused => exact execLinkAccessRefused_goesOn ..
  case leaseArbitration => exact execLeaseArbitration_goesOn ..
  case leaseEviction => exact execLeaseEviction_goesOn ..
  case pralineReady => exact execPralineReady_goesOn ..
  case pralineIdleSleep => exact execPralineIdleSleep_goesOn ..
  case lingerExpiry => exact execLingerExpiry_goesOn ..
  case czip | cunz | topk | ksort | genc | gdec | hsha | hchain => exact runPraline_goesOn ..
  case pralineComplete => exact execPralineComplete_goesOn ..
  case powerInterval => exact execPowerInterval_goesOn ..
  case spineChange => exact execSpineChange_goesOn ..
  case boostSpineSwitch => exact execBoostSpineSwitch_goesOn ..
  case supplyLimit => exact execSupplyLimit_goesOn ..
  case boostNoticeEnd => exact execBoostNoticeEnd_goesOn ..
  case boostExpiry => exact execBoostExpiry_goesOn ..
  case pstall => exact execPstall_goesOn ..
  case thermalSample => exact execThermalSample_goesOn ..
  case tripMark => exact execTripMark_goesOn ..
  case emergencySaveTimeout => exact execEmergencySaveTimeout_goesOn ..
  case hbmSelfRefresh => exact execHbmSelfRefresh_goesOn ..
  case railRemoval => exact execRailRemoval_goesOn ..
  case dieRepower => exact execDieRepower_goesOn ..
  case deadlineExpiry => exact execDeadlineExpiry_goesOn ..
  case contextSaveComplete => exact execContextSaveComplete_goesOn ..
  case tileFlagWrite => exact execTileFlagWrite_goesOn ..
  case islandStatusWrite => exact execIslandStatusWrite_goesOn ..
  case registerWrite => exact execRegisterWrite_goesOn ..
  case identify => exact execIdentify_goesOn ..
  case features => exact execFeatures_goesOn ..
  case ctxCreate => exact execCtxCreate_goesOn ..
  case ctxDestroy => exact execCtxDestroy_goesOn ..
  case map => exact execMap_goesOn ..
  case unmap => exact execUnmap_goesOn ..
  case mapComplete => exact execMapComplete_goesOn ..
  case powerCfg => exact execPowerCfg_goesOn ..
  case attest => exact execAttest_goesOn ..
  case lifelogRead => exact execLifelogRead_goesOn ..
  case resetDie => exact execResetDie_goesOn ..
  case fwUpdate => exact execFwUpdate_goesOn ..
  case a2a => exact execA2a_goesOn ..
  case put => exact execPut_goesOn ..
  case get => exact execGet_goesOn ..
  case sig => exact execSig_goesOn ..
  case exchangeComplete => exact execExchangeComplete_goesOn ..
  case keepaliveLoss => exact execKeepaliveLoss_goesOn ..
  case powerUp => exact execPowerUp_goesOn ..
  case sramScrub => exact execSramScrub_goesOn ..
  case recalibration => exact execRecalibration_goesOn ..
  case wearLevelling => exact execWearLevelling_goesOn ..
  case telemetrySample => exact execTelemetrySample_goesOn ..
  case lifelogRewrite => exact execLifelogRewrite_goesOn ..
  case hostMemoryAccess write pa len data =>
    exact execHostMemoryAccess_goesOn write pa len data s (hp write pa len data rfl)
  case remoteExchangeRequest => exact execRemoteExchangeRequest_goesOn ..
  case powerLoss => exact execPowerLoss_goesOn ..
  case voltageDroop => exact execVoltageDroop_goesOn ..
  case laneRetrain => exact execLaneRetrain_goesOn ..

end Sys2Proof.Machine
end

section
/-! SUPPORT. Turns and steps: what they keep, and the statements about the canonical form and about steps that go on. -/

-- One declaration at a time: elaborated side by side, the threads of so many pass the memory limit.
set_option Elab.async false

namespace Sys2Proof.Machine

/-! ### Turns -/

/-- What a step can do: it goes on, or it stops at a host's access to an address that nothing populates. -/
theorem exec_goesOn_or_stops (i : Instr) (s : State) : GoesOn s (exec i s) ∨
    ∃ (write : Bool) (pa : BitVec 48) (len data n : Nat), i = .hostMemoryAccess write pa len data ∧ n < len ∧
      populated (pa.toNat + n) = false ∧ exec i s = .fault (.noSuchAddress (pa.toNat + n)) := by
  by_cases hi : HostPopulated i
  · exact .inl (exec_goesOn s i hi)
  · simp only [HostPopulated] at hi
    push Not at hi
    obtain ⟨write, pa, len, data, rfl, j, hj, hn⟩ := hi
    obtain ⟨n, hlo, hhi, hp, hf⟩ := exec_hostMemoryAccess_reserved s write pa len data (fun hp => hn (hp j hj))
    obtain ⟨k, rfl⟩ := Nat.exists_eq_add_of_le hlo
    exact .inr ⟨write, pa, len, data, k, rfl, by omega, hp, hf⟩

theorem exec_next {i : Instr} (s : State) (hi : ∀ write pa len data, i ≠ .hostMemoryAccess write pa len data) :
    ∃ u, exec i s = .next u := by
  obtain ⟨u, hu, -⟩ := exec_goesOn s i (fun w pa l d h => absurd h (hi w pa l d))
  exact ⟨u, hu⟩

theorem exec_next_of_mem {l : List Instr} (hl : ∀ write pa len data, .hostMemoryAccess write pa len data ∉ l)
    {i : Instr} (hi : i ∈ l) (s : State) : ∃ u, exec i s = .next u :=
  exec_next s fun write pa len data h => hl write pa len data (h ▸ hi)

theorem exec_wf {i : Instr} {s t : State} (he : exec i s = .next t) (h : s.mem.wf = true) : t.mem.wf = true := by
  obtain ⟨u, hu, hw⟩ | ⟨write, pa, len, data, n, -, -, -, hf⟩ := exec_goesOn_or_stops i s
  · cases hu.symm.trans he
    exact hw h
  · cases hf.symm.trans he

theorem runSeq_wf {c : Nat} {s t : State} (he : runSeq c s = .next t) (h : s.mem.wf = true) : t.mem.wf = true := by
  have hb := s.beginSeq_wf c h
  have hf := (s.beginSeq c).fetchInstr_wf c hb
  unfold runSeq at he
  dsimp only at he
  split at he
  · cases he; exact hb
  · split at he
    · next hq => cases he; rw [hq] at hf; exact hf
    · next hq => rw [hq] at hf; exact exec_wf he (State.settleFor_wf _ _ _ hf)

theorem runUnit_wf {c u : Nat} {s t : State} (he : runUnit c u s = .next t) (h : s.mem.wf = true) :
    t.mem.wf = true := by
  unfold runUnit at he
  dsimp only at he
  split at he
  · cases he; exact h
  · exact exec_wf he h

theorem runEvent_wf {a : Actor} {i : Instr} {s t : State} (he : runEvent a i s = .next t) (h : s.mem.wf = true) :
    t.mem.wf = true := by
  refine exec_wf he ?_
  split <;> exact h

theorem State.finish_wf {s t : State} {rest : List Turn} {o : Host.Outcome State Fault Refusal}
    (ho : ∀ u, o = .next u → u.mem.wf = true) (he : s.finish rest o = .next t) : t.mem.wf = true := by
  cases o with
  | next u => cases he; exact u.flushDev_wf (ho u rfl)
  | fault r => cases he
  | refused r => cases he

theorem runTurn_wf {k : Turn} {rest : List Turn} {s t : State} (he : runTurn k rest s = .next t) (h : s.mem.wf = true) :
    t.mem.wf = true := by
  unfold runTurn at he
  split at he
  · cases he; exact h
  · cases k with
    | seq c => exact State.finish_wf (fun u hu => runSeq_wf hu h) he
    | drain c k => cases he; exact s.drain_wf c k h
    | issue c => exact State.finish_wf (fun u hu => by cases hu; exact issueSeq_wf c s h) he
    | perform c k => cases he; exact s.performNth_wf c k h
    | fire c u => exact State.finish_wf (fun u hu => runUnit_wf hu h) he
    | event a i => exact State.finish_wf (fun u hu => runEvent_wf hu h) he
    | tick d us => cases he; exact (s.advanceClock_mem d us).symm ▸ h

theorem step_wf {s t : State} (he : step s = .next t) (h : s.mem.wf = true) : t.mem.wf = true := by
  unfold step at he
  split at he
  · exact runTurn_wf he h
  · exact runTurn_wf he h

/-! ### Faults and refusals -/

theorem exec_fault {i : Instr} {s : State} {f : Fault} (he : exec i s = .fault f) :
    ∃ (write : Bool) (pa : BitVec 48) (len data n : Nat), i = .hostMemoryAccess write pa len data ∧ n < len ∧
      f = .noSuchAddress (pa.toNat + n) ∧ populated (pa.toNat + n) = false := by
  obtain ⟨u, hu, -⟩ | ⟨write, pa, len, data, n, hi, hn, hp, hf⟩ := exec_goesOn_or_stops i s
  · cases hu.symm.trans he
  · cases hf.symm.trans he
    exact ⟨write, pa, len, data, n, hi, hn, rfl, hp⟩

theorem exec_ne_refused (i : Instr) (s : State) (r : Refusal) : exec i s ≠ .refused r := by
  intro he
  obtain ⟨u, hu, -⟩ | ⟨_, _, _, _, _, -, -, -, hf⟩ := exec_goesOn_or_stops i s
  · cases hu.symm.trans he
  · cases hf.symm.trans he

theorem State.finish_ne_refused {s : State} {rest : List Turn} {o : Host.Outcome State Fault Refusal} {r : Refusal}
    (ho : o ≠ .refused r) : s.finish rest o ≠ .refused r := by
  cases o with
  | next u => nofun
  | fault f => nofun
  | refused q => exact fun he => ho (by cases he; rfl)

theorem runSeq_ne_refused (c : Nat) (s : State) (r : Refusal) : runSeq c s ≠ .refused r := by
  unfold runSeq
  dsimp only
  split
  · nofun
  · split
    · nofun
    · exact exec_ne_refused _ _ r

theorem runUnit_ne_refused (c u : Nat) (s : State) (r : Refusal) : runUnit c u s ≠ .refused r := by
  unfold runUnit
  dsimp only
  split
  · nofun
  · exact exec_ne_refused _ _ r

theorem runTurn_ne_refused (k : Turn) (rest : List Turn) (s : State) (r : Refusal) : runTurn k rest s ≠ .refused r := by
  unfold runTurn
  split
  · nofun
  · cases k with
    | seq c => exact State.finish_ne_refused (runSeq_ne_refused c s r)
    | drain c k => nofun
    | issue c => exact State.finish_ne_refused nofun
    | perform c k => nofun
    | fire c u => exact State.finish_ne_refused (runUnit_ne_refused c u s r)
    | event a i => exact State.finish_ne_refused (exec_ne_refused _ _ r)
    | tick d us => nofun

theorem step_ne_refused (s : State) (r : Refusal) : step s ≠ .refused r := by
  unfold step
  split <;> exact runTurn_ne_refused _ _ _ r

end Sys2Proof.Machine

namespace Sys2Proof
open Machine

/-- Settles O6: each instruction keeps the canonical form (`exec_goesOn`), and so does each kind of turn (R10). -/
theorem memoryCanonical : Obligations.MemoryCanonical := by
  unfold Obligations.MemoryCanonical
  intro s t h he
  exact step_wf he h

/-- Settles O8: every instruction but a host access goes on from every state (`exec_next`), so the forms that complete
do so without their conditions; a host access goes on where its addresses are populated. -/
theorem stepsGoOn : Obligations.StepsGoOn := by
  unfold Obligations.StepsGoOn
  refine ⟨⟨fun i s f => exec_fault, exec_ne_refused, step_ne_refused⟩, fun s s1 =>
    ⟨?_, ?_, ?_, ?_, ?_, ?_, ?_, ?_, ?_, ?_⟩⟩
  · intros; exact exec_next s nofun
  · exact fun f _ _ => ⟨exec_next s nofun, fun _ => exec_next s nofun⟩
  · intros; exact exec_next s nofun
  · intros; exact exec_next s nofun
  · intros; exact exec_next s nofun
  · intro m b e he _
    exact exec_next_of_mem (by simp) (List.mem_map_of_mem (f := Prod.snd) he) s
  · intro n q v origin link acc pk pa i hi
    exact exec_next_of_mem (by simp) hi s
  · intro p i hi
    exact exec_next_of_mem (by simp) hi s
  · intro sp f w v tj vfi depth cl y off e q n x len data i hi
    exact exec_next_of_mem (by simp) hi s
  · intro w pa len data hp
    obtain ⟨u, hu, -⟩ := exec_goesOn s (.hostMemoryAccess w pa len data) (fun _ _ _ _ h => by cases h; exact hp)
    exact ⟨u, hu⟩

end Sys2Proof

end

section
/-! SUPPORT. Atomics (R323): what an access leaves of its sequencer, the stores performed ahead of an atomic, what the
atomic does at its target, and the statement about its eight words. -/

namespace Sys2Proof.Machine

/-! ### What an access leaves of the acting sequencer -/

/-- The sequencer is as before, but for its store buffer, which holds `b`, and the mark of a lost machine check. -/
structure SeqUpTo (c : Nat) (b : List StoreEnt) (s t : State) : Prop where
  actor : t.actor = s.actor
  sq : ∃ m, t.sq c = { s.sq c with sbuf := b, mcLost := m }

theorem SeqUpTo.here {c : Nat} {b : List StoreEnt} {s t : State} (h : SeqUpTo c b s t) : t.here = s.here :=
  congrArg Actor.cl h.actor

theorem SeqUpTo.sbuf {c : Nat} {b : List StoreEnt} {s t : State} (h : SeqUpTo c b s t) : (t.sq c).sbuf = b := by
  obtain ⟨m, hq⟩ := h.sq
  rw [hq]

theorem SeqUpTo.trans {c : Nat} {b b' : List StoreEnt} {s t u : State} (h : SeqUpTo c b s t) (h' : SeqUpTo c b' t u) :
    SeqUpTo c b' s u := by
  obtain ⟨m, hq⟩ := h.sq
  obtain ⟨m', hq'⟩ := h'.sq
  exact ⟨h'.actor.trans h.actor, m', by rw [hq', hq]⟩

theorem SeqUpTo.refl (c : Nat) (s : State) : SeqUpTo c (s.sq c).sbuf s s := ⟨rfl, (s.sq c).mcLost, rfl⟩

theorem SameButMem.seqUpTo {s t : State} (h : SameButMem s t) (c : Nat) : SeqUpTo c (s.sq c).sbuf s t :=
  ⟨h.actor, (s.sq c).mcLost, h.sq c⟩

theorem SeqUpTo.of_sq_eq {c : Nat} {s t : State} (ha : t.actor = s.actor) (hq : t.sq c = s.sq c) :
    SeqUpTo c (s.sq c).sbuf s t := ⟨ha, (s.sq c).mcLost, hq⟩

theorem State.cl_setChan_same (s : State) (c n : Nat) (x : Channel) :
    (s.setChan c n x).cl c = { s.cl c with chans := (s.cl c).chans.put n x } := State.cl_setCl_same ..

theorem postMc_seqUpTo (s : State) (c : Nat) (m : QMsg) :
    SeqUpTo c (s.sq c).sbuf s (s.postMc c m) ∧ ((s.postMc c m).cl c).sram = (s.cl c).sram := by
  unfold State.postMc
  split
  · unfold State.enqueue
    split
    · exact ⟨.of_sq_eq rfl (by rw [State.sq, State.cl_setChan_same]; rfl), by rw [State.cl_setChan_same]⟩
    · exact ⟨.of_sq_eq rfl rfl, rfl⟩
  · exact ⟨⟨rfl, true, State.sq_setSq_same ..⟩, by rw [State.cl_setSq_same]⟩

theorem machineCheck_seqUpTo (s : State) (c ctx source unit pa : Nat) (va : Word) (detail : Nat) :
    SeqUpTo c (s.sq c).sbuf s (s.machineCheck c ctx source unit pa va detail) ∧
    ((s.machineCheck c ctx source unit pa va detail).cl c).sram = (s.cl c).sram := by
  have hc : SeqUpTo c (s.sq c).sbuf s (s.count logMachineCheck source) := .of_sq_eq rfl rfl
  have h := postMc_seqUpTo (s.count logMachineCheck source) c
  exact ⟨hc.trans (h _).1, (h _).2⟩

theorem setAD_frame (s : State) (die : Nat) (l : Leaf) (w : Bool) : SameButMem s (s.setAD die l w) := by
  have hif : ∀ (p : Prop) [Decidable p] {t : State}, SameButMem s t → SameButMem s (if p then s else t) := by
    intro p _ t h
    split
    · exact SameButMem.refl s
    · exact h
  exact hif _ (storeHome_frame s _ _ _ _ _).1

theorem freshWalk_seqUpTo (s : State) (die c ctx va : Nat) (k : AccKind) :
    SeqUpTo c (s.sq c).sbuf s (s.freshWalk die c ctx va k).2.2 := by
  unfold State.freshWalk
  split
  · split
    · exact SeqUpTo.refl c s
    · exact (machineCheck_seqUpTo ..).1
  · split
    · exact (setAD_frame s die _ _).seqUpTo c
    · exact SeqUpTo.refl c s

theorem translate_seqUpTo (s : State) (owner die c ctx : Nat) (k : AccKind) (va : Nat) :
    SeqUpTo c (s.sq c).sbuf s (s.translate owner die c ctx k va).2 := by
  unfold State.translate
  dsimp only
  split
  · split
    · split
      · exact freshWalk_seqUpTo ..
      · exact SeqUpTo.refl c s
    · exact freshWalk_seqUpTo ..
  · exact freshWalk_seqUpTo ..

theorem target_seqUpTo {s s1 : State} {c ctx va n : Nat} {k : AccKind} {t : Target}
    (h : s.target c ctx va n k = (.ok t, s1)) : SeqUpTo c (s.sq c).sbuf s s1 := by
  unfold State.target at h
  split at h
  · cases h
  · split at h
    · split at h <;> cases h
      exact SeqUpTo.refl c s
    · have hx := translate_seqUpTo s c (dieOf c) c ctx k va
      unfold State.xlatCl at h
      split at h
      · cases h
      · next he => rw [he] at hx; cases h; exact hx

theorem target_bank {s s1 : State} {c ctx va n q : Nat} {k : AccKind}
    (h : s.target c ctx va n k = (.ok (.bank q), s1)) : s1 = s := by
  unfold State.target at h
  split at h
  · cases h
  · split at h
    · split at h <;> cases h
      rfl
    · split at h
      · cases h
      · next pa mt _ _ =>
        have ht := congrArg Prod.fst h
        injection ht with ht
        split at ht <;> cases ht

/-! ### Stores performed ahead of an access -/

/-- The oldest stores of the buffer, `b`, are performed; beside memory only copies and marks of poison change. -/
structure Stored (c : Nat) (b : List StoreEnt) (s t : State) : Prop where
  rest : SameButMem (s.setSq c { s.sq c with sbuf := (s.sq c).sbuf.drop b.length }) t
  mem : t.mem = memAfterStores s.mem b

namespace Stored
variable {c : Nat} {b : List StoreEnt} {s t : State}

theorem seqUpTo (h : Stored c b s t) : SeqUpTo c ((s.sq c).sbuf.drop b.length) s t :=
  ⟨h.rest.actor, (s.sq c).mcLost, (h.rest.sq c).trans (State.sq_setSq_same ..)⟩

theorem sram (h : Stored c b s t) : (t.cl c).sram = (s.cl c).sram := by
  rw [h.rest.cl, State.cl_setSq_same]

theorem copies {u : State} (h : Stored c b s t) (h' : SameButCopies t u) : Stored c b s u :=
  ⟨h.rest.trans h'.toSameButMem, h'.mem.trans h.mem⟩

end Stored

theorem drainTo_stored (s : State) (c : Nat) (p : StoreEnt → Bool) :
    Stored c (upTo (s.sq c).sbuf p) s (s.drainTo c p) :=
  have h := foldl_performStore c (upTo (s.sq c).sbuf p)
    (s.setSq c { s.sq c with sbuf := (s.sq c).sbuf.drop (upTo (s.sq c).sbuf p).length })
  ⟨h.1, h.2⟩

theorem releaseAt_stored (s : State) (c : Nat) (sc : Scope) : Stored c (s.sq c).sbuf s (s.releaseAt c sc) := by
  obtain ⟨h, hm⟩ := releaseAt_frame s c sc
  exact ⟨by rwa [List.drop_length], hm⟩

/-- The stores that an atomic with this order must follow. -/
def amoFirst (o : Order) (b : List StoreEnt) : List StoreEnt :=
  if o = .rel ∨ o = .sc then b else upTo b (fun e => e.rel.isSome)

theorem beforeAmo_stored (s : State) (c : Nat) (o : Order) (sc : Scope) :
    Stored c (amoFirst o (s.sq c).sbuf) s (s.beforeAmo c o sc) := by
  cases o with
  | rel => exact releaseAt_stored s c sc
  | sc => exact releaseAt_stored s c sc
  | acq => exact drainTo_stored s c _
  | rlx => exact drainTo_stored s c _

/-! ### Poison is the same whatever copies there are -/

/-- Two states have the same marks of poison. -/
def SamePoison (s t : State) : Prop := t.poison = s.poison ∧ t.armed = s.armed

theorem SamePoison.poisonedAt {s t : State} (h : SamePoison s t) (pa : Nat) : t.poisonedAt pa = s.poisonedAt pa := by
  rw [State.poisonedAt, h.1, h.2, State.poisonedAt]

theorem performStore_poison (s : State) (c : Nat) (e : StoreEnt) :
    (s.performStore c e).poison = poisonAfter s.poison e.pa (toBytes e.size e.data).length false := by
  unfold State.performStore
  cases e.rel with
  | none => exact (storeHome_frame s _ _ _ _ _).2.2
  | some r =>
    rw [← (deliverKnown_frame s (agentSeq c) (dieOf c) r).poison]
    exact (storeHome_frame _ _ _ _ _ _).2.2

theorem SamePoison.performStore {s t : State} (h : SamePoison s t) (c : Nat) (e : StoreEnt) :
    SamePoison (s.performStore c e) (t.performStore c e) := by
  constructor
  · rw [performStore_poison, performStore_poison, h.1]
  · rw [(performStore_frame t c e).1.armed, (performStore_frame s c e).1.armed, h.2]

theorem SamePoison.foldl_performStore (c : Nat) (b : List StoreEnt) {s t : State} (h : SamePoison s t) :
    SamePoison (b.foldl (fun s e => s.performStore c e) s) (b.foldl (fun s e => s.performStore c e) t) := by
  induction b generalizing s t with
  | nil => exact h
  | cons e b ih => exact ih (h.performStore c e)

theorem SameButCopies.poisonedAt_settleOwn {s t : State} (h : SameButCopies s t) (c pa n x : Nat) :
    (t.settleOwn c pa n).poisonedAt x = (s.settleOwn c pa n).poisonedAt x := by
  refine SamePoison.poisonedAt ?_ x
  simp only [State.settleOwn, State.drainTo, h.sq]
  exact SamePoison.foldl_performStore c _ ⟨h.poison, h.armed⟩

/-! ### What an atomic does -/

/-- An atomic with SC first drops the copies that are stale at its scope. -/
def State.amoStart (s : State) (c : Nat) (o : Order) (sc : Scope) : State :=
  if o = .sc then (s.deliverSc (agentSeq c) (dieOf c) sc).freshAt c sc else s

theorem deliverSc_frame (s : State) (agent die : Nat) (sc : Scope) : SameButCopies s (s.deliverSc agent die sc) := by
  unfold State.deliverSc
  exact foldl_frame SameButCopies.refl (fun _ _ _ => SameButCopies.trans)
    (fun (s : State) (v : Inval) => s.dropCopy v.die v.line) (fun s v => dropCopy_frame s v.die v.line) _ s

theorem amoStart_frame (s : State) (c : Nat) (o : Order) (sc : Scope) : SameButCopies s (s.amoStart c o sc) := by
  unfold State.amoStart
  split
  · exact (deliverSc_frame s _ _ sc).trans (freshAt_frame _ c sc)
  · exact SameButCopies.refl s

theorem after_frame (s : State) (c : Nat) (o : Order) : SameButCopies s (s.after c o) := by
  cases o with
  | acq => exact acquire_frame s _
  | sc => exact acquire_frame s _
  | rel => exact SameButCopies.refl s
  | rlx => exact SameButCopies.refl s

theorem markSc_frame (s : State) (agent line : Nat) : SameButCopies s (s.markSc agent line) :=
  ⟨⟨rfl, rfl, rfl, rfl, rfl, rfl, rfl, rfl, rfl, rfl, rfl⟩, rfl, rfl, rfl⟩

/-- The atomic answers `old` and leaves the store buffer `b` and memory `m`. -/
structure AmoDone (c : Nat) (s : State) (old : Nat) (b : List StoreEnt) (m : Mem) (r : Nat × State) : Prop where
  answer : r.1 = old
  seq : SeqUpTo c b s r.2
  mem : r.2.mem = m

theorem AmoDone.copies {c old : Nat} {s : State} {b : List StoreEnt} {m : Mem} {r : Nat × State} {t : State}
    (h : AmoDone c s old b m r) (ht : SameButCopies r.2 t) : AmoDone c s old b m (r.1, t) :=
  ⟨h.answer, h.seq.trans (h.seq.sbuf ▸ ht.seqUpTo c), ht.mem.trans h.mem⟩

/-- The acting sequencer's own stores that touch the word, oldest first (R283). -/
def ownStores (b : List StoreEnt) (pa n : Nat) : List StoreEnt :=
  upTo b (fun e => decide (e.pa < pa + n) && decide (pa < e.pa + e.size))

section
variable {s : State} {c ctx va n op cmp : Nat} {f : AmoFn} {o : Order} {sc : Scope} {b : List StoreEnt}

theorem performAmo_mem_done {pa : Nat} {old : Nat} {m : Mem} (cached : Bool)
    (h : AmoDone c s old b m (s.amoHome c ctx va pa n f op cmp (fun s => s.beforeAmo c o sc))) :
    AmoDone c s old b m (s.performAmo c ctx va n f op cmp (.mem pa cached) o sc) := by
  dsimp only [State.performAmo]
  split
  · exact h.copies (markSc_frame _ _ _)
  · exact h

/-- A poisoned word is not changed, and the machine check is posted (R17). -/
theorem performAmo_mem_poisoned (pa : Nat) (cached : Bool) (hb : (s.sq c).sbuf = b)
    (hp : (s.settleOwn c pa n).poisonedAt pa = true) :
    AmoDone c s 0 (b.drop (ownStores b pa n).length) (memAfterStores s.mem (ownStores b pa n))
      (s.performAmo c ctx va n f op cmp (.mem pa cached) o sc) := by
  have hs := drainTo_stored s c (fun e => decide (e.pa < pa + n) && decide (pa < e.pa + e.size))
  refine performAmo_mem_done cached ?_
  subst hb
  simp only [State.amoHome, hp, if_true]
  have hm := (machineCheck_seqUpTo (s.settleOwn c pa n) c ctx 1 0 pa (BitVec.ofNat 64 va) 0).1
  exact ⟨rfl, hs.seqUpTo.trans (hs.seqUpTo.sbuf ▸ hm), (State.machineCheck_mem ..).trans hs.mem⟩

/-- An atomic that writes nothing leaves what its own earlier stores leave. -/
theorem performAmo_mem_keeps (pa : Nat) (cached : Bool) (hb : (s.sq c).sbuf = b)
    (hp : (s.settleOwn c pa n).poisonedAt pa = false)
    (hf : f n (ofBytes ((memAfterStores s.mem (ownStores b pa n)).bytes pa n)) op cmp = none) :
    AmoDone c s (ofBytes ((memAfterStores s.mem (ownStores b pa n)).bytes pa n)) (b.drop (ownStores b pa n).length)
      (memAfterStores s.mem (ownStores b pa n)) (s.performAmo c ctx va n f op cmp (.mem pa cached) o sc) := by
  have hs := drainTo_stored s c (fun e => decide (e.pa < pa + n) && decide (pa < e.pa + e.size))
  subst hb
  rw [show memAfterStores s.mem (ownStores (s.sq c).sbuf pa n) = (s.settleOwn c pa n).mem from hs.mem.symm] at hf ⊢
  refine performAmo_mem_done cached ?_
  simp only [State.amoHome, hp, Bool.false_eq_true, if_false, hf]
  have hd : AmoDone c s (ofBytes ((s.settleOwn c pa n).mem.bytes pa n))
      ((s.sq c).sbuf.drop (ownStores (s.sq c).sbuf pa n).length) (s.settleOwn c pa n).mem
      (ofBytes ((s.settleOwn c pa n).mem.bytes pa n), s.settleOwn c pa n) := ⟨rfl, hs.seqUpTo, rfl⟩
  split
  · exact hd
  · exact hd.copies (dropCopy_frame _ _ _)

/-- An atomic that writes follows the stores that its order makes it follow. -/
theorem performAmo_mem_writes (pa : Nat) (cached : Bool) {w : Nat} (hb : (s.sq c).sbuf = b)
    (hp : (s.settleOwn c pa n).poisonedAt pa = false)
    (hf : f n (ofBytes ((memAfterStores s.mem (ownStores b pa n)).bytes pa n)) op cmp = some w) :
    AmoDone c s (ofBytes ((memAfterStores s.mem (ownStores b pa n)).bytes pa n))
      ((b.drop (ownStores b pa n).length).drop (amoFirst o (b.drop (ownStores b pa n).length)).length)
      (Mem.setBytes (memAfterStores (memAfterStores s.mem (ownStores b pa n))
        (amoFirst o (b.drop (ownStores b pa n).length))) pa (toBytes n w))
      (s.performAmo c ctx va n f op cmp (.mem pa cached) o sc) := by
  have hs := drainTo_stored s c (fun e => decide (e.pa < pa + n) && decide (pa < e.pa + e.size))
  subst hb
  have ht := beforeAmo_stored (s.settleOwn c pa n) c o sc
  rw [show ((s.settleOwn c pa n).sq c).sbuf = _ from hs.seqUpTo.sbuf] at ht
  rw [show memAfterStores s.mem (ownStores (s.sq c).sbuf pa n) = (s.settleOwn c pa n).mem from hs.mem.symm] at hf ⊢
  refine performAmo_mem_done cached ?_
  simp only [State.amoHome, hp, Bool.false_eq_true, if_false, hf]
  have hw := storeHome_frame ((s.settleOwn c pa n).beforeAmo c o sc) (dieOf c) (agentSeq c) pa (toBytes n w) false
  have hq := ht.seqUpTo
  rw [show ((s.settleOwn c pa n).sq c).sbuf = _ from hs.seqUpTo.sbuf] at hq
  exact ⟨rfl, hs.seqUpTo.trans (hq.trans (hq.sbuf ▸ hw.1.seqUpTo c)), by rw [hw.2.1, ht.mem]; rfl⟩

/-- A poisoned word of a bank is not changed (R76). -/
theorem performAmo_bank_poisoned (q : Nat) (hl : localAt q n = .bank) (hb : (s.sq c).sbuf = b)
    (hp : (s.cl c).poisoned q n = true) :
    let r := s.performAmo c ctx va n f op cmp (.bank q) o sc
    AmoDone c s 0 b s.mem r ∧ (r.2.cl c).sram = (s.cl c).sram := by
  subst hb
  simp only [State.performAmo, Cluster.localLoad, hl, hp, if_true]
  obtain ⟨hm, hr⟩ := machineCheck_seqUpTo s c ctx 1 0 0 (BitVec.ofNat 64 va) 0
  exact ⟨⟨rfl, hm, State.machineCheck_mem ..⟩, hr⟩

theorem performAmo_bank_keeps (q : Nat) (hl : localAt q n = .bank) (hb : (s.sq c).sbuf = b)
    (hp : (s.cl c).poisoned q n = false) (hf : f n (ofBytes ((s.cl c).sram.bytes q n)) op cmp = none) :
    let r := s.performAmo c ctx va n f op cmp (.bank q) o sc
    AmoDone c s (ofBytes ((s.cl c).sram.bytes q n)) b s.mem r ∧ (r.2.cl c).sram = (s.cl c).sram := by
  subst hb
  simp only [State.performAmo, Cluster.localLoad, Cluster.bytes, hl, hp, Bool.false_eq_true, if_false, hf]
  exact ⟨⟨rfl, SeqUpTo.refl c s, rfl⟩, trivial⟩

/-- An atomic on a bank is done at the bank, after the stores that its order makes it follow (R76). -/
theorem performAmo_bank_writes (q : Nat) {w : Nat} (hl : localAt q n = .bank) (hb : (s.sq c).sbuf = b)
    (hp : (s.cl c).poisoned q n = false) (hf : f n (ofBytes ((s.cl c).sram.bytes q n)) op cmp = some w) :
    let r := s.performAmo c ctx va n f op cmp (.bank q) o sc
    AmoDone c s (ofBytes ((s.cl c).sram.bytes q n)) (b.drop (amoFirst o b).length)
      (memAfterStores s.mem (amoFirst o b)) r ∧
    (r.2.cl c).sram = (s.cl c).sram.setBytes q (toBytes n w) := by
  subst hb
  have ht := beforeAmo_stored s c o sc
  simp only [State.performAmo, Cluster.localLoad, Cluster.localStore, Cluster.bytes, hl, hp, Bool.false_eq_true,
    if_false, hf]
  refine ⟨⟨rfl, ⟨ht.seqUpTo.actor, ?_⟩, ht.mem⟩, ?_⟩
  · obtain ⟨m, hq⟩ := ht.seqUpTo.sq
    exact ⟨m, by rw [State.sq_setCl_same]; exact hq⟩
  · rw [State.cl_setCl_same, Cluster.write, ht.sram]

end

end Sys2Proof.Machine

namespace Sys2Proof
open Machine

/-! ### An atomic's word -/

/-- The next instruction follows, with `v` in the register `d`, where the sequencer is as it was but for its stores. -/
theorem wroteReg_nextInstr {s t : State} {b : List StoreEnt} (h : SeqUpTo s.here b s t) (d : Reg) (v : Word) :
    nextInstr s (wroteReg t d v) (some d) ∧ srcVal (wroteReg t d v) d = (if d = 0 then 0 else v) ∧
    (seqHere (wroteReg t d v)).sbuf = b := by
  obtain ⟨m, hq⟩ := h.sq
  have hu : seqHere (wroteReg t d v) =
      { (seqHere t).setReg d v with pc := (seqHere t).pc + 4, brkSkip := false } := State.sq_setSq_same ..
  have ht : seqHere t = { seqHere s with sbuf := b, mcLost := m } := by
    simp only [seqHere, h.here]
    exact hq
  have hr : ∀ x, (seqHere (wroteReg t d v)).reg x = ((seqHere t).setReg d v).reg x := fun x => by rw [hu]; rfl
  refine ⟨⟨?_, h.here, ?_, ?_, ?_, ?_, ?_, ?_⟩, ?_, ?_⟩
  · rw [hu, ht]
  · intro r hne
    simp only [srcVal, hr]
    rw [reg_setReg_other _ _ (fun e => hne (by rw [e])), ht]
    rfl
  · rw [hu, setReg_eq, ht]
  · rw [hu, setReg_eq, ht]
  · rw [hu, setReg_eq, ht]
  · rw [hu, setReg_eq, ht]
  · rw [hu, setReg_eq, ht]
  · simp only [srcVal, hr, reg_setReg_same]
  · rw [hu, setReg_eq, ht]

/-- The words of atomics, with their sources after the address and their functions (R323). -/
structure AmoForm (i : Instr) (d a b : Reg) (wide : Bool) (o : Order) (sc : Scope) (srcs : List Reg) (f : AmoFn) :
    Prop where
  run : ∀ s, exec i s = runAmo i d a srcs wide o sc f s
  srcs : srcs = [b] ∨ srcs = [b, d]

/-- The operand of an atomic, and the comparand of AMOCAS. -/
def amoOp (s : State) (srcs : List Reg) (wide : Bool) : Nat :=
  ((srcs.map (srcVal s)).getD 0 0).toNat % 2 ^ (8 * amoBytes wide)

def amoCmp (s : State) (srcs : List Reg) (wide : Bool) : Nat :=
  ((srcs.map (srcVal s)).getD 1 0).toNat % 2 ^ (8 * amoBytes wide)

/-- The atomic at its target, after the copies that SC drops. -/
def amoAt (s s1 : State) (a : Reg) (srcs : List Reg) (wide : Bool) (o : Order) (sc : Scope) (f : AmoFn) (tg : Target) :
    Nat × State :=
  (s1.amoStart s.here o (tg.scope sc)).performAmo s.here (seqHere s).running.ctx (srcVal s a).toNat (amoBytes wide) f
    (amoOp s srcs wide) (amoCmp s srcs wide) tg o (tg.scope sc)

section
variable {s s1 : State} {d a b : Reg} {wide : Bool} {o : Order} {sc : Scope} {tg : Target} {i : Instr} {srcs : List Reg}
  {f : AmoFn}

theorem runAmo_plain (hd : plainReg d) (hs : ∀ r ∈ a :: srcs, plainReg r)
    (hp : passes s (srcVal s a).toNat (amoBytes wide) .atomic tg s1)
    (hh : (amoAt s s1 a srcs wide o sc f tg).2.here = s.here) :
    runAmo i d a srcs wide o sc f s = .next (wroteReg ((amoAt s s1 a srcs wide o sc f tg).2.after s.here o) d
      (BitVec.ofNat 64 (amoAt s s1 a srcs wide o sc f tg).1)) := by
  obtain ⟨ht, hw⟩ := hp
  have h0 : (some d : Option Reg) ≠ some 60 := by simpa using hd.1
  have hr := readSrcs_plain s s.here i.word hs h0
  have hv : (((a :: srcs).map (fun r => (s.sq s.here).reg r)).getD 0 0).toNat = (srcVal s a).toNat := rfl
  have ht' : s.target s.here (s.sq s.here).running.ctx (srcVal s a).toNat (amoBytes wide) .atomic = (.ok tg, s1) := ht
  have hw' : s1.mustWait s.here (s.sq s.here).running.ctx (srcVal s a).toNat (amoBytes wide) tg = false := hw
  have hrd : s.ready s1 s.here (s.sq s.here).running.ctx (srcVal s a).toNat (amoBytes wide) tg (some d) = .ok () := by
    simp only [State.ready, hw', dstOk_plain s s.here hd, Bool.false_eq_true, if_false, if_true]
  have ha : ((amoAt s s1 a srcs wide o sc f tg).2.after s.here o).here = s.here :=
    (congrArg Actor.cl (after_frame _ s.here o).actor).trans hh
  simp only [runAmo, bind, Except.bind, hr, hv, ht', hrd, State.settle, writeDst_plain _ _ hd, advance_setSq, setReg_pc]
  simp only [wroteReg, seqHere, ha]
  rfl

/-- What a word of an atomic leaves, from what the atomic does at its target. -/
theorem AmoForm.answers (hi : AmoForm i d a b wide o sc srcs f) (hd : plainReg d) (ha : plainReg a) (hb : plainReg b)
    (hp : passes s (srcVal s a).toNat (amoBytes wide) .atomic tg s1) {old : Nat} {l : List StoreEnt} {m : Mem}
    (hr : AmoDone s.here (s1.amoStart s.here o (tg.scope sc)) old l m (amoAt s s1 a srcs wide o sc f tg)) :
    answers i s d (BitVec.ofNat 64 old) (fun u => u.mem = m ∧ (seqHere u).sbuf = l ∧
      (u.cl u.here).sram = ((amoAt s s1 a srcs wide o sc f tg).2.cl s.here).sram) := by
  have hs : ∀ r ∈ a :: srcs, plainReg r := by
    obtain rfl | rfl := hi.srcs <;> simp [hd, ha, hb]
  have h1 := target_seqUpTo hp.1
  have hq := (h1.trans (h1.sbuf ▸ (amoStart_frame s1 s.here o (tg.scope sc)).seqUpTo s.here)).trans hr.seq
  have hf := after_frame (amoAt s s1 a srcs wide o sc f tg).2 s.here o
  obtain ⟨hn, hv, hl⟩ := wroteReg_nextInstr (hq.trans (hq.sbuf ▸ hf.seqUpTo s.here)) d (BitVec.ofNat 64 old)
  refine ⟨_, (hi.run s).trans ((runAmo_plain hd hs hp hq.here).trans (by rw [hr.answer])), hn, hv, ?_, hl, ?_⟩
  · exact hf.mem.trans hr.mem
  · have hh : ((amoAt s s1 a srcs wide o sc f tg).2.after s.here o).here = s.here := hn.2.1
    rw [show (wroteReg ((amoAt s s1 a srcs wide o sc f tg).2.after s.here o) d _).here = s.here from hh, ← hf.cl]
    rw [wroteReg, hh, State.cl_setSq_same]

theorem answers_imp {w : Word} {p q : State → Prop} (h : answers i s d w p) (hpq : ∀ u, p u → q u) :
    answers i s d w q := by
  obtain ⟨u, he, hn, hv, hp⟩ := h
  exact ⟨u, he, hn, hv, hpq u hp⟩

/-- What the eight words leave on a word that is not poisoned: `p w` where `w` is written, `q` where nothing is. -/
theorem amoForms_all {old : Nat} (d a b : Reg) (wide : Bool) (o : Order) (sc : Scope) (p : Nat → State → Prop)
    (q : State → Prop)
    (hg : ∀ i srcs f w, AmoForm i d a b wide o sc srcs f →
      f (amoBytes wide) old (amoOp s srcs wide) (amoCmp s srcs wide) = some w →
      answers i s d (BitVec.ofNat 64 old) (p w))
    (hk : ∀ i srcs f, AmoForm i d a b wide o sc srcs f →
      f (amoBytes wide) old (amoOp s srcs wide) (amoCmp s srcs wide) = none →
      answers i s d (BitVec.ofNat 64 old) q) :
    let n := amoBytes wide
    let x := (srcVal s b).toNat % 2 ^ (8 * n)
    let gives := fun i w => answers i s d (BitVec.ofNat 64 old) (p w)
    gives (.amoswp d a b wide o sc) x ∧
    gives (.amoadd d a b wide o sc) ((old + x) % 2 ^ (8 * n)) ∧
    gives (.amomin d a b wide o sc) (if signed x (8 * n) < signed old (8 * n) then x else old) ∧
    gives (.amomax d a b wide o sc) (if signed old (8 * n) < signed x (8 * n) then x else old) ∧
    gives (.amoand d a b wide o sc) (old &&& x) ∧
    gives (.amoor d a b wide o sc) (old ||| x) ∧
    gives (.amoxor d a b wide o sc) (old ^^^ x) ∧
    (old = (srcVal s d).toNat % 2 ^ (8 * n) → gives (.amocas d a b wide o sc) x) ∧
    (old ≠ (srcVal s d).toNat % 2 ^ (8 * n) → answers (.amocas d a b wide o sc) s d (BitVec.ofNat 64 old) q) :=
  ⟨hg _ [b] amoSwpFn _ ⟨fun _ => rfl, .inl rfl⟩ rfl, hg _ [b] amoAddFn _ ⟨fun _ => rfl, .inl rfl⟩ rfl,
    hg _ [b] amoMinFn _ ⟨fun _ => rfl, .inl rfl⟩ rfl, hg _ [b] amoMaxFn _ ⟨fun _ => rfl, .inl rfl⟩ rfl,
    hg _ [b] amoAndFn _ ⟨fun _ => rfl, .inl rfl⟩ rfl, hg _ [b] amoOrFn _ ⟨fun _ => rfl, .inl rfl⟩ rfl,
    hg _ [b] amoXorFn _ ⟨fun _ => rfl, .inl rfl⟩ rfl,
    fun h => hg _ [b, d] amoCasFn _ ⟨fun _ => rfl, .inr rfl⟩ (if_pos h),
    fun h => hk _ [b, d] amoCasFn ⟨fun _ => rfl, .inr rfl⟩ (if_neg h)⟩

theorem amoForms_none (d a b : Reg) (wide : Bool) (o : Order) (sc : Scope) {p : State → Prop}
    (hk : ∀ i srcs f, AmoForm i d a b wide o sc srcs f → answers i s d 0 p) :
    answers (.amoswp d a b wide o sc) s d 0 p ∧ answers (.amoadd d a b wide o sc) s d 0 p ∧
    answers (.amomin d a b wide o sc) s d 0 p ∧ answers (.amomax d a b wide o sc) s d 0 p ∧
    answers (.amoand d a b wide o sc) s d 0 p ∧ answers (.amoor d a b wide o sc) s d 0 p ∧
    answers (.amoxor d a b wide o sc) s d 0 p ∧ answers (.amocas d a b wide o sc) s d 0 p :=
  ⟨hk _ [b] amoSwpFn ⟨fun _ => rfl, .inl rfl⟩, hk _ [b] amoAddFn ⟨fun _ => rfl, .inl rfl⟩,
    hk _ [b] amoMinFn ⟨fun _ => rfl, .inl rfl⟩, hk _ [b] amoMaxFn ⟨fun _ => rfl, .inl rfl⟩,
    hk _ [b] amoAndFn ⟨fun _ => rfl, .inl rfl⟩, hk _ [b] amoOrFn ⟨fun _ => rfl, .inl rfl⟩,
    hk _ [b] amoXorFn ⟨fun _ => rfl, .inl rfl⟩, hk _ [b, d] amoCasFn ⟨fun _ => rfl, .inr rfl⟩⟩

end

/-- Settles O17: the eight words share one form (`AmoForm`), and what each leaves follows from what the atomic does at
its target, memory or a bank. -/
theorem atomics : Obligations.Atomics := by
  unfold Obligations.Atomics
  intro s s1 d a b wide o sc tg hd ha hb hp
  have h1 := target_seqUpTo hp.1
  have hst := amoStart_frame s1 s.here o (tg.scope sc)
  have hsb : ((s1.amoStart s.here o (tg.scope sc)).sq s.here).sbuf = (seqHere s).sbuf := by
    rw [hst.sq, h1.sbuf, seqHere]
  refine ⟨?_, ?_⟩
  · rintro pa cached rfl
    dsimp only
    rw [← hst.mem, ← hst.poisonedAt_settleOwn]
    refine ⟨fun hpo => amoForms_all d a b wide o sc
        (fun w u => u.mem = Mem.setBytes _ pa (toBytes _ w) ∧ (seqHere u).sbuf = _)
          (fun u => u.mem = _ ∧ (seqHere u).sbuf = _)
        (fun i srcs f w hi hf => ?_) (fun i srcs f hi hf => ?_),
      fun hpo => amoForms_none d a b wide o sc (fun i srcs f hi => ?_)⟩
    · exact answers_imp (hi.answers hd ha hb hp (performAmo_mem_writes pa cached hsb hpo hf)) fun u h => ⟨h.1, h.2.1⟩
    · exact answers_imp (hi.answers hd ha hb hp (performAmo_mem_keeps pa cached hsb hpo hf)) fun u h => ⟨h.1, h.2.1⟩
    · exact answers_imp (hi.answers hd ha hb hp (performAmo_mem_poisoned pa cached hsb hpo)) fun u h => ⟨h.1, h.2.1⟩
  · rintro q rfl hl
    obtain rfl := target_bank hp.1
    rw [← hst.cl]
    refine ⟨fun hpo => amoForms_all d a b wide o sc
        (fun w u => (u.cl u.here).sram = Mem.setBytes _ q (toBytes _ w) ∧ (_ → u.mem = _))
        (fun u => (u.cl u.here).sram = _ ∧ u.mem = _ ∧ (seqHere u).sbuf = _) (fun i srcs f w hi hf => ?_)
          (fun i srcs f hi hf => ?_),
      fun hpo => amoForms_none d a b wide o sc (fun i srcs f hi => ?_)⟩
    · obtain ⟨hr, hm⟩ := performAmo_bank_writes q hl hsb hpo hf
      refine answers_imp (hi.answers hd ha hb hp hr) fun u h => ⟨h.2.2.trans hm, fun he => ?_⟩
      rw [h.1, he, hst.mem]
      cases o <;> rfl
    · obtain ⟨hr, hm⟩ := performAmo_bank_keeps q hl hsb hpo hf
      exact answers_imp (hi.answers hd ha hb hp hr) fun u h => ⟨h.2.2.trans hm, h.1.trans hst.mem, h.2.1⟩
    · obtain ⟨hr, hm⟩ := performAmo_bank_poisoned q hl hsb hpo
      exact answers_imp (hi.answers hd ha hb hp hr) fun u h => ⟨h.2.2.trans hm, h.1.trans hst.mem, h.2.1⟩

end Sys2Proof

end

section
/-! SUPPORT. Page walks, invalidations and memory errors: what each shared operation leaves, and the statement about
them. -/

namespace Sys2Proof.Machine

/-! ### Tables and marks -/

theorem Tab.find_del_same {V : Type} (t : Tab V) (k : Nat) : (t.del k).find k = none := by
  induction t with
  | nil => rfl
  | cons e t ih =>
    obtain ⟨j, v⟩ := e
    by_cases h : j = k
    · simpa [Tab.del, h] using ih
    · simpa [Tab.del, Tab.find, h] using ih

theorem Tab.find_del_other {V : Type} (t : Tab V) {k j : Nat} (h : j ≠ k) : (t.del k).find j = t.find j := by
  induction t with
  | nil => rfl
  | cons e t ih =>
    obtain ⟨i, v⟩ := e
    by_cases hi : i = k
    · subst hi
      simpa [Tab.del, Tab.find, h.symm] using ih
    · by_cases hj : i = j
      · subst hj
        simp [Tab.del, Tab.find, h]
      · simpa [Tab.del, Tab.find, hi, hj] using ih

theorem mtSet_get_other (t : Tab Nat) {i j : Nat} (v : Nat) (h : j ≠ i) : (mtSet t i v).get j 0 = t.get j 0 := by
  unfold mtSet Tab.get
  split
  · rw [Tab.find_del_other t h]
  · rw [Tab.find_put_other t _ h]

theorem mem_insertNat (x w : Nat) (l : List Nat) : w ∈ insertNat x l ↔ w ∈ l ∨ w = x := by
  induction l with
  | nil => simp [insertNat]
  | cons y l ih => grind [insertNat]

/-! ### Walks -/

theorem ofBytes_bytes_eight (m : Mem) (a : Nat) :
    fld (ofBytes (m.bytes a 8)) 15 8 = (m.byte (a + 1)).toNat := by
  simp only [Mem.bytes, List.range, List.range.loop, List.map_cons, ofBytes, fld, Nat.shiftRight_eq_div_pow]
  have h0 := (m.byte (a + 0)).isLt
  have h1 := (m.byte (a + 1)).isLt
  omega

/-- The second byte of an entry holds its bits 8 and 9 (R20). -/
theorem bit_ofBytes_bytes (m : Mem) (a : Nat) {i : Nat} (h : i < 8) :
    bit (ofBytes (m.bytes a 8)) (8 + i) = (m.byte (a + 1)).toNat.testBit i := by
  rw [← ofBytes_bytes_eight, fld, bit, Nat.testBit_mod_two_pow, Nat.testBit_shiftRight]
  simp [h]

/-- The second byte of a leaf's entry once A is set, and D for an access that writes (R24). -/
def adByte (s : State) (l : Leaf) (w : Bool) : Nat := (s.mem.byte (l.addr + 1)).toNat ||| 1 ||| (if w then 2 else 0)

theorem adByte_lt (s : State) (l : Leaf) (w : Bool) : adByte s l w < 256 := by
  have hb := (s.mem.byte (l.addr + 1)).isLt
  have hw : (if w then 2 else 0 : Nat) < 2 ^ 8 := by split <;> decide
  exact Nat.or_lt_two_pow (Nat.or_lt_two_pow hb (by decide)) hw

theorem setAD_eq (s : State) (die : Nat) (l : Leaf) (w : Bool) :
    s.setAD die l w = if adByte s l w = (s.mem.byte (l.addr + 1)).toNat then s
      else s.storeHome die 9999 (l.addr + 1) [BitVec.ofNat 8 (adByte s l w)] false := by
  simp only [State.setAD, ofBytes_bytes_eight]
  rfl

theorem setAD_byte {s : State} (die : Nat) (l : Leaf) (w : Bool) (h : s.mem.wf = true) :
    ((s.setAD die l w).mem.byte (l.addr + 1)).toNat = adByte s l w := by
  rw [setAD_eq]
  split
  · next he => exact he.symm
  · rw [(storeHome_frame s _ _ _ _ _).2.1, Mem.byte_setBytes_same _ _ _ 0 h (by simp)]
    simpa using adByte_lt s l w

theorem setAD_byte_other (s : State) (die : Nat) (l : Leaf) (w : Bool) {x : Nat} (hx : x ≠ l.addr + 1) :
    (s.setAD die l w).mem.byte x = s.mem.byte x := by
  rw [setAD_eq]
  split
  · rfl
  · rw [(storeHome_frame s _ _ _ _ _).2.1, Mem.byte_setBytes_other _ _ _ (by simp; omega)]

theorem setAD_bit_A {s : State} (die : Nat) (l : Leaf) (w : Bool) (h : s.mem.wf = true) :
    bit (ofBytes ((s.setAD die l w).mem.bytes l.addr 8)) 8 = true := by
  rw [bit_ofBytes_bytes _ _ (show 0 < 8 by decide), setAD_byte die l w h, adByte]
  simp

theorem setAD_bit_D {s : State} (die : Nat) (l : Leaf) (h : s.mem.wf = true) :
    bit (ofBytes ((s.setAD die l true).mem.bytes l.addr 8)) 9 = true := by
  rw [bit_ofBytes_bytes _ _ (show 1 < 8 by decide), setAD_byte die l true h, adByte]
  rw [if_pos rfl, Nat.testBit_or, show Nat.testBit 2 1 = true by decide, Bool.or_true]

/-- A walk that translates has found a leaf, and has set its A and D. -/
theorem freshWalk_ok {s s1 : State} {die mcl ctx va pa mt : Nat} {k : AccKind} {l : Leaf}
    (h : s.freshWalk die mcl ctx va k = (.ok pa mt, some l, s1)) : s1 = s.setAD die l (isWrite k) := by
  unfold State.freshWalk at h
  split at h
  · cases h
  · split at h <;> cases h
    rfl

theorem freshWalk_bad_mem {s s1 : State} {die mcl ctx va code lvl : Nat} {k : AccKind} {l : Option Leaf}
    (h : s.freshWalk die mcl ctx va k = (.bad code lvl, l, s1)) : s1.mem = s.mem := by
  unfold State.freshWalk at h
  split at h
  · cases h
    split
    · rfl
    · exact State.machineCheck_mem ..
  · split at h <;> cases h
    rfl

theorem pageSize_pos (lvl : Nat) (contig : Bool) : 0 < pageSize lvl contig := by
  unfold pageSize
  split_ifs <;> decide

/-- A walk that finds a usable leaf is kept, with the entry as it then stands (R25). -/
theorem walkAndKeep_ok {s s1 : State} {owner die mcl ctx va pa mt : Nat} {k : AccKind} {l : Leaf}
    (h : s.freshWalk die mcl ctx va k = (.ok pa mt, some l, s1)) :
    let u := (s.walkAndKeep owner die mcl ctx k va).2
    u.mem = s1.mem ∧ u.cachedLeaf owner ctx va = some
      { owner := owner, ctx := ctx, vbase := va / pageSize l.lvl l.contig * pageSize l.lvl l.contig,
        size := pageSize l.lvl l.contig, leaf := ofBytes (s1.mem.bytes l.addr 8), lvl := l.lvl } := by
  have hp := pageSize_pos l.lvl l.contig
  have hlo := Nat.div_mul_le_self va (pageSize l.lvl l.contig)
  have hhi := Nat.lt_div_mul_add (a := va) hp
  simp only [State.walkAndKeep, h, State.cachedLeaf]
  refine ⟨trivial, List.find?_cons_of_pos ?_⟩
  simp only [beq_self_eq_true, Bool.true_and, hlo, hhi, decide_true]

/-- A failed walk is not kept, and what was kept of the address is dropped (R25). -/
theorem walkAndKeep_bad {s s1 : State} {owner die mcl ctx va code lvl : Nat} {k : AccKind}
    (h : s.freshWalk die mcl ctx va k = (.bad code lvl, none, s1)) :
    let u := (s.walkAndKeep owner die mcl ctx k va).2
    u.mem = s1.mem ∧ u.cachedLeaf owner ctx va = none := by
  simp only [State.walkAndKeep, h, State.cachedLeaf]
  refine ⟨trivial, List.find?_eq_none.2 fun t ht => ?_⟩
  rw [Bool.not_eq_true, ← Bool.not_eq_true']
  exact (List.mem_filter.1 ht).2

/-! ### Copies of a line -/

theorem copyKey_inj {d e l m : Nat} (hl : l < 2 ^ 41) (hm : m < 2 ^ 41) (h : copyKey d l = copyKey e m) :
    d = e ∧ l = m := by
  unfold copyKey at h
  omega

/-! ### Errors and scrubs -/

section
variable {s : State} {a : Nat}

theorem eccError_home_bad (h : inH a = true) :
    s.eccError false a true = { s with poison := insertNat (a / 32) s.poison } := by
  simp [State.eccError, h]

theorem eccError_home_ok (h : inH a = true) : s.eccError false a false = s.count logHbm (pseudoChannel a) := by
  simp [State.eccError, h]

theorem eccError_bank_bad (h : a < sramEnd) : s.eccError true a true =
    s.setCl s.here { s.cl s.here with sramPoison := insertNat (a / 32) (s.cl s.here).sramPoison } := by
  simp [State.eccError, h]

theorem eccError_bank_ok (h : a < sramEnd) : s.eccError true a false = s.count logSram (s.here * 48 + a / 0x10000) := by
  simp [State.eccError, h]

/-- An error in MT word `w` of tile `x` (R439). -/
theorem eccError_mt {x w : Nat} (bad : Bool) (hx : x < 256) (hw : w < 4096) :
    s.eccError true (0xC00000 + 0x4000 * x + 4 * w) bad = s.mtError x w bad := by
  have h1 : ¬ 0xC00000 + 0x4000 * x + 4 * w < sramEnd := by unfold sramEnd; omega
  have h2 : mtErrBase ≤ 0xC00000 + 0x4000 * x + 4 * w ∧ 0xC00000 + 0x4000 * x + 4 * w < mtErrBase + 0x400000 := by
    unfold mtErrBase; omega
  simp only [State.eccError, if_true, if_neg h1, if_pos h2]
  congr 1 <;> unfold mtErrBase <;> omega

/-- A scrub finds no error, a correctable one, or an uncorrectable one. -/
theorem scrub_cases (s : State) (sram : Bool) (a : Nat) : s.scrub sram a = s.drawNat.2 ∨
    ∃ bad, s.scrub sram a = s.drawNat.2.eccError sram a bad := by
  unfold State.scrub
  dsimp only
  split
  · exact .inl rfl
  · exact .inr ⟨false, rfl⟩
  · exact .inr ⟨true, rfl⟩

theorem scrub_home (h : inH a = true) :
    (s.scrub false a).mem = s.mem ∧ ∀ w, w ≠ a / 32 → (w ∈ (s.scrub false a).poison ↔ w ∈ s.poison) := by
  obtain he | ⟨bad, he⟩ := scrub_cases s false a <;> rw [he]
  · exact ⟨rfl, fun w _ => .rfl⟩
  · cases bad with
    | false => rw [eccError_home_ok h]; exact ⟨rfl, fun w _ => .rfl⟩
    | true =>
      rw [eccError_home_bad h]
      exact ⟨rfl, fun w hw => (mem_insertNat _ _ _).trans (or_iff_left hw)⟩

/-- A bank keeps its data under an uncorrectable error, and its other marks. -/
theorem eccError_bank_bad_cl (h : a < sramEnd) (c : Nat) :
    ((s.eccError true a true).cl c).sram = (s.cl c).sram ∧ ∀ w, (w ∈ ((s.eccError true a true).cl c).sramPoison ↔
      w ∈ (s.cl c).sramPoison ∨ (c = s.here ∧ w = a / 32)) := by
  rw [eccError_bank_bad h]
  by_cases hc : c = s.here
  · subst hc
    rw [State.cl_setCl_same]
    exact ⟨rfl, fun w => by simp [mem_insertNat]⟩
  · rw [State.cl_setCl_other s _ hc]
    exact ⟨rfl, fun w => by simp [hc]⟩

theorem scrub_bank (h : a < sramEnd) (c : Nat) : ((s.scrub true a).cl c).sram = (s.cl c).sram ∧
    ∀ w, (c ≠ s.here ∨ w ≠ a / 32) → (w ∈ ((s.scrub true a).cl c).sramPoison ↔ w ∈ (s.cl c).sramPoison) := by
  obtain he | ⟨bad, he⟩ := scrub_cases s true a <;> rw [he]
  · exact ⟨rfl, fun w _ => .rfl⟩
  · cases bad with
    | false => rw [eccError_bank_ok h]; exact ⟨rfl, fun w _ => .rfl⟩
    | true =>
      obtain ⟨hs, hp⟩ := eccError_bank_bad_cl (s := s.drawNat.2) h c
      refine ⟨hs, fun w hw => (hp w).trans (or_iff_left ?_)⟩
      exact fun hcw => hw.elim (fun hc => hc hcw.1) fun hn => hn hcw.2

/-- A correctable error in an MT word is only counted; an uncorrectable one changes that word alone (R439). -/
theorem mtError_frame (s : State) {x w : Nat} (bad : Bool) (hx : (x % 16 + x / 16) % 2 = 1) :
    (s.mtError x w bad).mem = s.mem ∧ ((s.mtError x w bad).cl s.here).sram = (s.cl s.here).sram ∧
    (∀ y, y ≠ x → ((s.mtError x w bad).cl s.here).tile y = (s.cl s.here).tile y) ∧
    ∀ i, (i ≠ w ∨ bad = false) →
      (((s.mtError x w bad).cl s.here).tile x).mt.get i 0 = ((s.cl s.here).tile x).mt.get i 0 := by
  have hne : ¬ (x % 16 + x / 16) % 2 = 0 := by omega
  cases bad with
  | false =>
    simp only [State.mtError, if_neg hne]
    exact ⟨rfl, rfl, fun _ _ => rfl, fun _ _ => rfl⟩
  | true =>
    simp only [State.mtError, if_neg hne, if_true, State.cl_setCl_same]
    refine ⟨rfl, rfl, fun y hy => Tab.get_put_other _ _ _ hy, fun i hi => ?_⟩
    rw [Cluster.tile, Cluster.setTile, Tab.get_put_same]
    exact mtSet_get_other _ _ (hi.resolve_right nofun)

end

/-! ### Machine checks -/

section
variable {s : State} {c : Nat}

theorem postMc_room (m : QMsg) (hr : s.chanRoom c 0 = true) (hc : s.savedCtx c 0 = none) :
    ((s.postMc c m).chan c 0).queue = (s.chan c 0).queue ++ [m] := by
  simp only [State.postMc, hr, if_true, State.enqueue, hc, State.chan_setChan_same]

theorem postMc_full (m : QMsg) (hr : s.chanRoom c 0 = false) :
    ((s.postMc c m).chan c 0).queue = (s.chan c 0).queue ∧ ((s.postMc c m).sq c).mcLost = true := by
  simp only [State.postMc, hr, Bool.false_eq_true, if_false, State.chan_setSq, State.sq_setSq_same, and_self]

theorem postMc_timeouts (s : State) (c : Nat) (m : QMsg) : (s.postMc c m).timeouts = s.timeouts := by
  unfold State.postMc State.enqueue
  split
  · split <;> rfl
  · rfl

end

end Sys2Proof.Machine

namespace Sys2Proof
open Machine

theorem pageWalk_leaves {s s1 : State} {ctx : BitVec 6} {k : AccKind} {va : BitVec 64} {pa mt : Nat} {l : Leaf}
    (hw : s.mem.wf = true) (h : s.freshWalk (dieOf s.here) s.here ctx.toNat va.toNat k = (.ok pa mt, some l, s1)) :
    leaves (.pageWalk ctx k va) s (fun u => u.mem = s1.mem ∧ bit (ofBytes (u.mem.bytes l.addr 8)) 8 = true ∧
      (isWrite k = true → bit (ofBytes (u.mem.bytes l.addr 8)) 9 = true) ∧
      (∀ x, x ≠ l.addr + 1 → u.mem.byte x = s.mem.byte x) ∧
      ∃ t, u.cachedLeaf s.here ctx.toNat va.toNat = some t ∧ t.leaf = ofBytes (u.mem.bytes l.addr 8) ∧
        t.lvl = l.lvl) := by
  obtain ⟨hm, hc⟩ := walkAndKeep_ok (owner := s.here) h
  refine ⟨_, rfl, hm, ?_⟩
  rw [hm, freshWalk_ok h]
  refine ⟨setAD_bit_A _ l _ hw, fun hk => ?_, fun x hx => setAD_byte_other s _ l _ hx, _, hc, ?_, rfl⟩
  · rw [hk]
    exact setAD_bit_D _ l hw
  · rw [freshWalk_ok h]

theorem tierCTimeout_leaves (s : State) (pa : BitVec 48) (va : BitVec 64) : leaves (.tierCTimeout pa va) s (fun u =>
    u.mem = s.mem ∧ u.timeouts = s.timeouts ++ (if inC pa.toNat then [(s.actor, pa.toNat / 32)] else []) ∧
    (inC pa.toNat = false → u = s) ∧
    (inC pa.toNat = true → s.chanRoom s.here 0 = true → s.savedCtx s.here 0 = none →
      (u.chan s.here 0).queue = (s.chan s.here 0).queue ++
        [{ msg := { w0 := BitVec.ofNat 64 (4 + portOf pa.toNat * 2 ^ 8 + s.actorCtx * 2 ^ 16 + 0x90 * 2 ^ 56),
                    w1 := BitVec.ofNat 64 pa.toNat, w2 := va, w3 := 0 }, ctx := s.actorCtx }]) ∧
    (inC pa.toNat = true → s.chanRoom s.here 0 = false →
      (u.chan s.here 0).queue = (s.chan s.here 0).queue ∧ (u.sq s.here).mcLost = true)) := by
  refine ⟨_, rfl, ?_⟩
  dsimp only
  cases hc : inC pa.toNat with
  | false => simp
  | true =>
    simp only [if_true]
    have ht := postMc_timeouts (s.count logMachineCheck 4) s.here
    have ha := (machineCheck_seqUpTo s s.here s.actorCtx 4 (portOf pa.toNat) pa.toNat va 0).1.actor
    refine ⟨State.machineCheck_mem .., ?_, nofun, fun _ hr hs => ?_, fun _ hr => ?_⟩
    · rw [ha]
      exact congrArg (· ++ [(s.actor, pa.toNat / 32)]) (ht _)
    · exact postMc_room (s := s.count logMachineCheck 4) _ hr hs
    · exact postMc_full (s := s.count logMachineCheck 4) _ hr

/-- Settles O26: per step, what its shared operation leaves. -/
theorem translation : Obligations.Translation := by
  unfold Obligations.Translation
  refine ⟨fun s s1 ctx k va hw => ⟨fun pa mt l h => pageWalk_leaves hw h, fun code lvl h => ?_⟩,
    fun s => ⟨fun line => ?_, fun a ha => ⟨?_, ?_, ?_⟩, fun a ha => ?_, fun cl off ho => ?_, tierCTimeout_leaves s,
      fun a bad x w hx hw hp ha => ?_⟩⟩
  · obtain ⟨hm, hc⟩ := walkAndKeep_bad (owner := s.here) h
    exact ⟨_, rfl, hm.trans (freshWalk_bad_mem h), hc⟩
  · refine ⟨_, rfl, Tab.find_del_same _ _, rfl, fun d l hl hne => Tab.find_del_other _ fun hk => hne ?_⟩
    exact copyKey_inj hl line.isLt hk
  · exact ⟨_, congrArg Host.Outcome.next (eccError_home_bad ha), rfl, fun w => mem_insertNat _ _ _⟩
  · exact ⟨_, congrArg Host.Outcome.next (eccError_home_ok ha), rfl, rfl⟩
  · exact ⟨_, congrArg Host.Outcome.next (if_pos ha), scrub_home ha⟩
  · obtain ⟨hs, hp⟩ := eccError_bank_bad_cl (s := s) ha s.here
    exact ⟨_, rfl, hs, fun w => by rw [hp]; simp⟩
  · exact ⟨_, rfl, State.scrub_mem .., rfl, fun c =>
      scrub_bank (s := { s with actor := { s.actor with cl := cl.toNat, die := dieOf cl.toNat } }) ho c⟩
  · exact ⟨_, congrArg Host.Outcome.next ((congrArg (s.eccError true · bad) ha).trans (eccError_mt bad hx hw)),
      mtError_frame s bad hp⟩

end Sys2Proof

end

section
/-! SUPPORT. Amber (R34 to R54): why the statement about it fails.  Its clause on DROP says that outside the record no byte
of memory differs from what giving up the entries leaves.  Beyond that DROP counts the blocks again (R34), and so reads
every entry through the record's context once more.  Where an entry lies in that context's own page tables, giving it up
changes the walk: the reading then goes through another leaf, and sets its A bit (R24). -/

namespace Sys2Proof.Machine

/-- A page table whose entries are (address, value).  The root, at 0x10000, leads through 0x20000 to the table at 0x30000,
whose entry 0 names the table at 0x1_0004_0000; the leaf there maps virtual page 0 onto the table at 0x30000 itself.  The
upper half of that entry 0 is, read as a block-table entry, V with state F and INDEX 1.  With INDEX 0 it would name the
table at 0x40000, whose leaf has not been accessed. -/
def selfMappedTables : List (Nat × Nat) :=
  [(0x10000, 0x20001), (0x20000, 0x30001), (0x30000, 0xB000000100040001), (0x40000, 0x5000F), (0x100040000, 0x3000F)]

/-- A block table of one block, whose entry lies at virtual address 4. -/
def selfMappedTab : BlockTab := { entries := 4, hpool := 0, cpool := 0, len := 1, bshift := 9, tshift := 0 }

/-- Context 0 has these tables, and record 0 of die 0 is PARKED with that block table. -/
def selfMapped : State := { State.reset with
  mem := selfMappedTables.foldl (fun m e => m.setBytes e.1 (toBytes 8 e.2)) [],
  ctxs := [(0, { live := true, root := some 0x10000 })],
  dies := [(0, { amber := { recs := [(0, { st := 1, len := 1, lenMax := 1, tab := some selfMappedTab })] } })] }

/-- What DROP leaves of a record once its transfers are abandoned and its entries given up (R48), as the
statement has it. -/
def State.dropEntries (s : State) (d i : Nat) : State :=
  let z := (s.abandonDemotions d i).abandonPromotions d i (fun _ => true)
  let q := z.arec d i
  (List.range q.n).foldl (fun u b => (u.freeExtent d i b).dropEntry d i
      { ctx := arCtx q.img, cl := arCluster q.img, cstack := ((u.amber d).cfg (arCtx q.img)).cstack, block := b,
        va := (z.table d i).entryVa b })
    (z.setArec d i { q with pend := [], ahead := [], skipP := [], pushes := q.pushes.filter (fun p => !p.failed) })

theorem selfMapped_wf : selfMapped.mem.wf = true := by decide +kernel

/-- Giving up the entry leaves the second leaf as it was: byte 1 of its entry, with A and D, is 0. -/
theorem selfMapped_dropEntries_byte : (selfMapped.dropEntries 0 0).mem.byte 0x40001 = 0 := by decide +kernel

/-- The count that follows has read the entry through the second leaf, and set its A. -/
theorem selfMapped_dropRecord_byte : (selfMapped.dropRecord 0 0).mem.byte 0x40001 = 1 := by decide +kernel

/-- A DROP that names its record, which is PARKED, is accepted (R37). -/
theorem wakeSlot_drop {s : State} {d i token : Nat} (ht : arToken (s.arec d i).img = token) (hs : (s.arec d i).st = 1) :
    s.wakeSlot d i token .drop 0 = s.dropRecord d i := by
  simp [State.wakeSlot, ht, hs, WakeOp.accepts]

theorem selfMapped_exec_drop : exec (.drop 0 0 0) selfMapped = .next (selfMapped.dropRecord 0 0) :=
  congrArg Host.Outcome.next (wakeSlot_drop (s := selfMapped) (by decide +kernel) (by decide +kernel))

end Sys2Proof.Machine

namespace Sys2Proof

open Machine

/-- Refutes O60: a DROP may set an A bit of the page tables after its entries have been given up, as it does in the state
`selfMapped`, so that a byte outside the record differs from what giving them up has left. -/
theorem not_amber : ¬ Obligations.Amber := by
  unfold Obligations.Amber
  rintro ⟨-, hslots, -⟩
  obtain ⟨-, -, -, -, -, -, -, -, -, hdrop, -⟩ := hslots selfMapped selfMapped 0 0 0 selfMapped_wf
  obtain ⟨u, hu, -, -, -, -, -, -, -, -, -, hframe⟩ := hdrop (by decide +kernel) (by decide +kernel) rfl
  obtain rfl : selfMapped.dropRecord 0 0 = u := Host.Outcome.next.inj (selfMapped_exec_drop.symm.trans hu)
  have hbyte : (selfMapped.dropRecord 0 0).mem.byte 0x40001 = (selfMapped.dropEntries 0 0).mem.byte 0x40001 :=
    hframe (by decide +kernel) 0x40001 (Or.inr (by decide +kernel))
  rw [selfMapped_dropRecord_byte, selfMapped_dropEntries_byte] at hbyte
  exact absurd hbyte (by decide)

end Sys2Proof
end


section
/-! SUPPORT. What the operations below a firmware command leave as it is: contexts, cached translations and the package's
registers (`State.kept`), and where nothing but memory, channels and reports changes, the dies and the accesses under way
(`State.still`).  One lemma per operation of the model, each resting on the lemmas of the operations that it calls. -/

set_option Elab.async false

namespace Sys2Proof.Machine

/-! ### What is kept -/

/-- A pre-emption but for the messages discarded since (R416). -/
def Preempt.begun (p : Preempt) : Preempt := { p with late := 0 }

/-- What every operation below a command keeps. -/
structure Kept where
  ctxs : Tab Ctx
  tlb : List TlbEnt
  pkg : Package

/-- The contexts, the cached translations, and the package but for its doorbells, its log, what it has sent, and messages
discarded late. -/
def State.kept (s : State) : Kept :=
  { ctxs := s.ctxs, tlb := s.tlb,
    pkg := { s.pkg with fwq := [], log := [], outbox := [], preempts := s.pkg.preempts.map Preempt.begun } }

/-- The accesses of a cluster's sequencer that are under way. -/
def State.waits (s : State) (c : Nat) : List LoadEnt × List StoreEnt := ((s.sq c).loads, (s.sq c).sbuf)

/-- What accesses by virtual address, messages and reports keep besides. -/
structure Still where
  kept : Kept
  dies : Tab Die
  waits : Nat → List LoadEnt × List StoreEnt

def State.still (s : State) : Still := { kept := s.kept, dies := s.dies, waits := s.waits }

section
variable {s t : State}

theorem kept_of_still (h : t.still = s.still) : t.kept = s.kept := congrArg Still.kept h
theorem dies_of_still (h : t.still = s.still) : t.dies = s.dies := congrArg Still.dies h
theorem waits_of_still (h : t.still = s.still) : t.waits = s.waits := congrArg Still.waits h

variable (h : t.kept = s.kept)
include h

theorem ctxs_of_kept : t.ctxs = s.ctxs := congrArg Kept.ctxs h
theorem tlb_of_kept : t.tlb = s.tlb := congrArg Kept.tlb h
theorem features_of_kept : t.pkg.features = s.pkg.features := congrArg (·.pkg.features) h
theorem mbx_of_kept : t.pkg.mbx = s.pkg.mbx := congrArg (·.pkg.mbx) h
theorem mapping_of_kept : t.pkg.mapping = s.pkg.mapping := congrArg (·.pkg.mapping) h
theorem poolUsed_of_kept : t.pkg.poolUsed = s.pkg.poolUsed := congrArg (·.pkg.poolUsed) h
theorem boosts_of_kept : t.pkg.boosts = s.pkg.boosts := congrArg (·.pkg.boosts) h
theorem begun_of_kept : t.pkg.preempts.map Preempt.begun = s.pkg.preempts.map Preempt.begun := congrArg (·.pkg.preempts) h
theorem ctx_of_kept (x : Nat) : t.ctx x = s.ctx x := 
  congrArg (fun z : Tab Ctx => z.get x {}) (ctxs_of_kept h)
theorem mailbox_of_kept (m : Nat) : t.mailbox m = s.mailbox m := 
  congrArg (fun z : Tab Mailbox => z.get m {}) (mbx_of_kept h)

end

/-- A step that each time keeps a view of the state keeps it as a fold. -/
theorem foldl_keeps {α β γ : Type} (p : β → γ) (f : β → α → β) (hf : ∀ b a, p (f b a) = p b) (l : List α) (b : β) :
    p (l.foldl f b) = p b := by
  induction l generalizing b with
  | nil => rfl
  | cons a l ih => exact (ih _).trans (hf b a)

/-! ### Memory, clusters, reports -/

theorem SameButMem.still {s t : State} (h : SameButMem s t) : t.still = s.still := by
  have hw : t.waits = s.waits := funext fun c => by simp only [State.waits, h.sq]
  simp only [State.still, State.kept, h.ctxs, h.tlb, h.pkg, h.dies, hw]

theorem waits_setCl (s : State) (c : Nat) {k : Cluster} (h : k.seq.loads = (s.sq c).loads ∧ k.seq.sbuf = (s.sq c).sbuf) :
    (s.setCl c k).waits = s.waits := by
  funext e
  by_cases he : e = c
  · subst he
    simp only [State.waits, State.sq_setCl_same, h]
  · simp only [State.waits, State.sq, State.cl_setCl_other s k he]

@[simp] theorem State.setCl_kept (s : State) (c : Nat) (k : Cluster) : (s.setCl c k).kept = s.kept := rfl
@[simp] theorem State.setSq_kept (s : State) (c : Nat) (q : Seq) : (s.setSq c q).kept = s.kept := rfl
@[simp] theorem State.setDie_kept (s : State) (d : Nat) (k : Die) : (s.setDie d k).kept = s.kept := rfl
@[simp] theorem State.setSlot_kept (s : State) (c i : Nat) (x : LeaseSlot) : (s.setSlot c i x).kept = s.kept := rfl
@[simp] theorem State.setGang_kept (s : State) (d l : Nat) (g : Gang) : (s.setGang d l g).kept = s.kept := rfl

theorem State.setCl_still (s : State) (c : Nat) {k : Cluster}
    (h : k.seq.loads = (s.sq c).loads ∧ k.seq.sbuf = (s.sq c).sbuf) : (s.setCl c k).still = s.still := by
  simp only [State.still, waits_setCl s c h, State.setCl_kept, State.setCl_dies]

theorem State.setSq_still (s : State) (c : Nat) {q : Seq} (h : q.loads = (s.sq c).loads ∧ q.sbuf = (s.sq c).sbuf) :
    (s.setSq c q).still = s.still := State.setCl_still s c h

@[simp] theorem State.send_still (s : State) (m : OutMsg) : (s.send m).still = s.still := rfl
@[simp] theorem State.count_still (s : State) (h k : Nat) : (s.count h k).still = s.still := rfl

@[simp] theorem State.discardLate_still (s : State) (c x : Nat) : (s.discardLate c x).still = s.still := by
  have h : (s.discardLate c x).pkg.preempts.map Preempt.begun = s.pkg.preempts.map Preempt.begun := by
    simp only [State.discardLate, State.setPkg_pkg, List.map_map]
    refine List.map_congr_left fun p _ => ?_
    simp only [Function.comp]
    split <;> rfl
  have hk : (s.discardLate c x).kept = s.kept := by
    unfold State.kept
    rw [h]
    rfl
  exact congrArg (Still.mk · s.dies s.waits) hk

@[simp] theorem State.enqueue_still (s : State) (c n : Nat) (m : QMsg) : (s.enqueue c n m).still = s.still := by
  unfold State.enqueue
  split
  · exact State.setCl_still s c ⟨rfl, rfl⟩
  · exact State.discardLate_still ..

@[simp] theorem State.post_still (s : State) (c sender n : Nat) (m : QMsg) : (s.post c sender n m).still = s.still := by
  unfold State.post
  split
  · exact State.setCl_still s c ⟨rfl, rfl⟩
  · exact State.enqueue_still ..

@[simp] theorem State.machineCheck_still (s : State) (c ctx source unit pa : Nat) (va : Word) (detail : Nat) :
    (s.machineCheck c ctx source unit pa va detail).still = s.still := by
  unfold State.machineCheck State.postMc
  split
  · rw [State.enqueue_still, State.count_still]
  · refine (State.setSq_still _ c ?_).trans (State.count_still ..)
    exact ⟨rfl, rfl⟩

/-! ### Accesses by virtual address -/

@[simp] theorem State.deviceStore_still (s : State) (cl ctx pa : Nat) (bs : List Byte) :
    (s.deviceStore cl ctx pa bs).still = s.still := rfl

@[simp] theorem State.freshWalk_still (s : State) (die mcl ctx va : Nat) (k : AccKind) :
    (s.freshWalk die mcl ctx va k).2.2.still = s.still := by
  unfold State.freshWalk
  split
  · split
    · rfl
    · exact State.machineCheck_still ..
  · split
    · exact (setAD_frame s die _ _).still
    · rfl

@[simp] theorem State.translate_still (s : State) (owner die mcl ctx : Nat) (k : AccKind) (va : Nat) :
    (s.translate owner die mcl ctx k va).2.still = s.still := by
  grind [State.translate, State.freshWalk_still]

theorem State.storeLines_still (agent n : Nat) (s : State) (pa : Nat) (bs : List Byte) :
    (State.storeLines agent n s pa bs).still = s.still := by
  fun_induction State.storeLines
  case case1 => rfl
  case case2 => rfl
  case case3 ih => exact ih.trans (storeHome_frame ..).1.still

theorem State.storeMarked_still (s : State) (w : Who) (pa : Nat) (bs : List (Byte × Bool)) :
    (s.storeMarked w pa bs).still = s.still := by
  have hp : ∀ (t : State) ms, ({ t with poison := ms } : State).still = t.still := fun _ _ => rfl
  unfold State.storeMarked
  split
  · rfl
  · rw [hp]
    split
    · exact State.storeLines_still ..
    · exact (storeHome_frame ..).1.still

theorem State.engWriteF_still (w : Who) (ctx n : Nat) (s : State) (va : Nat) (bs : List (Byte × Bool)) :
    (State.engWriteF w ctx n s va bs).2.still = s.still := by
  fun_induction State.engWriteF <;> grind [State.translate_still, State.storeMarked_still, State.deviceStore_still]

@[simp] theorem State.engPut_still (s : State) (w : Who) (ctx va : Nat) (bs : List Byte) :
    (s.engPut w ctx va bs).2.still = s.still := State.engWriteF_still ..

theorem State.engReadF_still (w : Who) (ctx : Nat) (k : AccKind) (n : Nat) (s : State) (va m : Nat) :
    (State.engReadF w ctx k n s va m).2.still = s.still := by
  induction n generalizing s va m with
  | zero => rfl
  | succ n ih =>
    unfold State.engReadF
    split
    · rfl
    · have ht := State.translate_still s w.owner w.die w.mcl ctx k va
      dsimp only
      split
      · next he => rwa [he] at ht
      · next pa mt s1 he =>
        rw [he] at ht
        have hc := foldl_keeps State.still _ (fun t i => (keepCopy_frame t w.die (mt == 0 && !w.home)
          ((pa / 128 + i) * 128)).still) (List.range ((pa + min m (4096 - va % 4096) + 127) / 128 - pa / 128)) s1
        split
        · next hr => exact (congrArg (·.2.still) hr).symm.trans ((ih ..).trans (hc.trans ht))
        · next hr => exact (congrArg (·.2.still) hr).symm.trans ((ih ..).trans (hc.trans ht))

@[simp] theorem State.engRead_still (s : State) (w : Who) (ctx va n : Nat) : (s.engRead w ctx va n).2.still = s.still :=
  State.engReadF_still ..

@[simp] theorem State.deliverKnown_still (s : State) (agent die : Nat) (c : Scope) :
    (s.deliverKnown agent die c).still = s.still := (deliverKnown_frame ..).still

/-! ### Command blocks (R433) -/

@[simp] theorem State.fwRead_still (s : State) (c : FwCmd) (off n : Nat) : (s.fwRead c off n).2.still = s.still := by
  grind [State.fwRead, State.engRead_still]

@[simp] theorem State.fwWrite_still (s : State) (c : FwCmd) (off : Nat) (bs : List Byte) :
    (s.fwWrite c off bs).still = s.still := by
  have h := (storeHome_frame s 0 agentFw (c.addr + off) bs false).1.still
  grind [State.fwWrite, State.engPut_still]

/-- A mailbox once its command has ended with a status (R433). -/
def Mailbox.ended (x : Mailbox) (status : Nat) : Mailbox :=
  { x with busy := false, status := status, done := (x.done + 1) % 2 ^ 32 }

theorem State.setMailbox_still_congr {s t : State} (h : t.still = s.still) (m : Nat) (x : Mailbox) :
    (t.setMailbox m x).still = (s.setMailbox m x).still :=
  congrArg (fun z : Still =>
    { z with kept := { z.kept with pkg := { z.kept.pkg with mbx := z.kept.pkg.mbx.put m x } } }) h

@[simp] theorem State.mailbox_setMailbox_same (s : State) (m : Nat) (x : Mailbox) : (s.setMailbox m x).mailbox m = x := by
  simp [State.setMailbox, State.mailbox]

/-- The end of a command (R433) changes its mailbox, and beside it only memory, channels and reports. -/
theorem State.fwDone_still (s : State) (c : FwCmd) (status : Nat) :
    (s.fwDone c status).still = (s.setMailbox c.mbx ((s.mailbox c.mbx).ended status)).still := by
  have hr := State.fwRead_still s c 0 16
  unfold State.fwDone
  rcases hh : s.fwRead c 0 16 with ⟨h, s1⟩
  rw [hh] at hr
  dsimp only at hr ⊢
  have ht : ((s1.fwWrite c 8 (toBytes 4 status)).deliverKnown agentFw (whoFw c.mbx).die .sys).still = s.still := by
    rw [State.deliverKnown_still, State.fwWrite_still, hr]
  generalize (s1.fwWrite c 8 (toBytes 4 status)).deliverKnown agentFw (whoFw c.mbx).die .sys = t at ht ⊢
  have hm : (t.setMailbox c.mbx ((t.mailbox c.mbx).ended status)).still =
      (s.setMailbox c.mbx ((s.mailbox c.mbx).ended status)).still := by
    rw [mailbox_of_kept (kept_of_still ht), State.setMailbox_still_congr ht]
  refine Eq.trans ?_ hm
  split
  · split
    · exact State.send_still ..
    · rfl
  · split
    · exact (State.send_still ..).trans (State.fwRead_still ..)
    · split
      · rfl
      · exact State.post_still ..

section
variable (s : State) (c : FwCmd) (status : Nat)

theorem State.fwDone_kept :
    (s.fwDone c status).kept = (s.setMailbox c.mbx ((s.mailbox c.mbx).ended status)).kept :=
  kept_of_still (s.fwDone_still c status)

@[simp] theorem State.fwDone_mailbox : (s.fwDone c status).mailbox c.mbx = (s.mailbox c.mbx).ended status :=
  (mailbox_of_kept (s.fwDone_kept c status) c.mbx).trans (State.mailbox_setMailbox_same ..)

@[simp] theorem State.fwDone_ctxs : (s.fwDone c status).ctxs = s.ctxs := (ctxs_of_kept (s.fwDone_kept c status) :)
@[simp] theorem State.fwDone_ctx (x : Nat) : (s.fwDone c status).ctx x = s.ctx x := ctx_of_kept (s.fwDone_kept c status) x
@[simp] theorem State.fwDone_dies : (s.fwDone c status).dies = s.dies := (dies_of_still (s.fwDone_still c status) :)
@[simp] theorem State.fwDone_die (d : Nat) : (s.fwDone c status).die d = s.die d := by
  simp only [State.die, State.fwDone_dies]
@[simp] theorem State.fwDone_amber (d : Nat) : (s.fwDone c status).amber d = s.amber d := by
  simp only [State.amber, State.fwDone_die]
@[simp] theorem State.fwDone_tlb : (s.fwDone c status).tlb = s.tlb := (tlb_of_kept (s.fwDone_kept c status) :)
@[simp] theorem State.fwDone_mapping : (s.fwDone c status).pkg.mapping = s.pkg.mapping :=
  (mapping_of_kept (s.fwDone_kept c status) :)
@[simp] theorem State.fwDone_poolUsed : (s.fwDone c status).pkg.poolUsed = s.pkg.poolUsed :=
  (poolUsed_of_kept (s.fwDone_kept c status) :)
@[simp] theorem State.fwDone_boosts : (s.fwDone c status).pkg.boosts = s.pkg.boosts :=
  (boosts_of_kept (s.fwDone_kept c status) :)
@[simp] theorem State.fwDone_waits : (s.fwDone c status).waits = s.waits := (waits_of_still (s.fwDone_still c status) :)

end

/-! ### A pre-emption that runs (R433) -/

theorem State.ending_iff (s : State) (x : Nat) :
    s.ending x = true ↔ (s.ctx x).dying = true ∨ ∃ p ∈ s.pkg.preempts, p.ctx = x := by
  simp [State.ending]

theorem ending_of_kept {s t : State} (h : t.kept = s.kept) (x : Nat) : t.ending x = s.ending x := by
  have hb : ∀ u : State, u.pkg.preempts.any (fun p => p.ctx == x) =
      (u.pkg.preempts.map Preempt.begun).any (fun p => p.ctx == x) := fun u => by
    rw [List.any_map]
    rfl
  rw [State.ending, State.ending, ctx_of_kept h, hb t, hb s, begun_of_kept h]

end Sys2Proof.Machine

namespace Sys2Proof

open Machine

/-! ### A command at the head of the doorbells -/

section
variable {s s1 : State} {c : FwCmd} {b : List Byte} {opc : Nat}

/-- Reading the block leaves everything but memory, channels and reports. -/
theorem fwAsks_still (h : fwAsks s s1 c b opc) : s1.still = s.still := by
  obtain ⟨⟨rest, s2, -, -, hr, rfl⟩, -⟩ := h
  exact (congrArg (·.2.still) hr).symm.trans (State.fwRead_still s c 0 256)

/-- A well-formed command that its mailbox may send is performed. -/
theorem runFw_asks (h : fwAsks s s1 c b opc) (f : FwCmd → List Byte → State → State) :
    runFw opc f s = .next (f c b s1) := by
  obtain ⟨⟨rest, s2, hq, hm, hr, rfl⟩, hopc, hallowed, hhead⟩ := h
  simp [runFw, hq, hm, hr, hopc, hallowed, hhead]

/-- What a step leaves whose mailbox shows that the command has ended. -/
theorem fwEnds_of_mailbox {i : Instr} {u : State} {status : Nat} {p : State → Prop} (he : exec i s = .next u)
    (hm : u.mailbox c.mbx = (s.mailbox c.mbx).ended status) (hp : p u) : fwEnds i s c status p :=
  ⟨u, he, congrArg Mailbox.busy hm, congrArg Mailbox.status hm, congrArg Mailbox.done hm, hp⟩

theorem fwEnds_of_fwDone {i : Instr} {v : State} {status : Nat} {p : State → Prop} (he : exec i s = .next (v.fwDone c status))
    (hm : v.mailbox c.mbx = s.mailbox c.mbx) (hp : p (v.fwDone c status)) : fwEnds i s c status p :=
  fwEnds_of_mailbox he (by rw [State.fwDone_mailbox, hm]) hp

/-- A command that is refused keeps contexts and dies. -/
theorem fwEnds_refused {i : Instr} {status : Nat} (h : fwAsks s s1 c b opc) (he : exec i s = .next (s1.fwDone c status)) :
    fwEnds i s c status (fun u => u.ctxs = s.ctxs ∧ u.dies = s.dies) := by
  have hs := fwAsks_still h
  refine fwEnds_of_fwDone he (mailbox_of_kept (kept_of_still hs) _) ⟨?_, ?_⟩
  · rw [State.fwDone_ctxs, ctxs_of_kept (kept_of_still hs)]
  · rw [State.fwDone_dies, dies_of_still hs]

end

end Sys2Proof
end

section
/-! SUPPORT. What the end of a context's work on its clusters and dies (R386, R434), and the beginning of its save (R414),
leave of the other contexts, the cached translations and the package (`State.kept`). -/

set_option Elab.async false

namespace Sys2Proof.Machine

/-! ### Pending accesses -/

@[simp] theorem State.drainAll_kept (s : State) (c : Nat) : (s.drainAll c).kept = s.kept :=
  (kept_of_still (drainAll_frame s c).1.still).trans (State.setSq_kept ..)

@[simp] theorem State.drainTo_kept (s : State) (c : Nat) (p : StoreEnt → Bool) : (s.drainTo c p).kept = s.kept :=
  (kept_of_still (drainTo_stored s c p).rest.still).trans (State.setSq_kept ..)

@[simp] theorem State.loadMem_still (s : State) (c ctx va n pa : Nat) (cached : Bool) :
    (s.loadMem c ctx va n pa cached).2.still = s.still := by
  have hk := (keepCopy_frame s (dieOf c) cached pa).still
  unfold State.loadMem
  dsimp only
  split
  · exact (State.machineCheck_still ..).trans hk
  · exact hk

theorem State.amoHome_kept (s : State) (c ctx va pa n : Nat) (f : AmoFn) (op cmp : Nat) {pre : State → State}
    (h : ∀ t, (pre t).kept = t.kept) : (s.amoHome c ctx va pa n f op cmp pre).2.kept = s.kept := by
  have hown : (s.settleOwn c pa n).kept = s.kept := State.drainTo_kept ..
  unfold State.amoHome
  dsimp only
  split
  · exact (kept_of_still (State.machineCheck_still ..)).trans hown
  · split
    · split
      · exact hown
      · exact hown
    · exact (kept_of_still (storeHome_frame ..).1.still).trans ((h _).trans hown)

@[simp] theorem State.performEnt_kept (s : State) (c : Nat) (e : LoadEnt) : (s.performEnt c e).kept = s.kept := by
  unfold State.performEnt
  dsimp only
  rw [State.setSq_kept]
  split
  · exact kept_of_still (State.loadMem_still ..)
  · exact State.amoHome_kept _ _ _ _ _ _ _ _ _ fun t => State.drainTo_kept ..

@[simp] theorem State.settleLoads_kept (s : State) (c : Nat) : (s.settleLoads c).kept = s.kept := by
  unfold State.settleLoads State.performLoads
  dsimp only
  split
  · rfl
  · exact (foldl_keeps State.kept _ (fun t e => State.performEnt_kept t c e) _ _).trans (State.setSq_kept ..)

/-! ### Gangs (R360 to R363) -/

@[simp] theorem State.post_kept (s : State) (c sender n : Nat) (m : QMsg) : (s.post c sender n m).kept = s.kept :=
  kept_of_still (State.post_still ..)

@[simp] theorem State.report_kept (s : State) (d : Nat) (g : Gang) (off v : Nat) (c : Scope) :
    (s.report d g off v c).kept = s.kept := by
  unfold State.report
  split
  · rfl
  · exact kept_of_still ((State.engPut_still ..).trans (State.deliverKnown_still ..))

@[simp] theorem State.reportLink_kept (s : State) (d : Nat) (g : Gang) : (s.reportLink d g).kept = s.kept := by
  unfold State.reportLink
  split
  · rfl
  · exact kept_of_still (State.send_still ..)

@[simp] theorem State.gbarTry_kept (s : State) (d l b : Nat) : (s.gbarTry d l b).kept = s.kept := by
  unfold State.gbarTry
  split
  · rfl
  · split
    · rfl
    · dsimp only
      split
      · exact foldl_keeps State.kept _ (fun t a => State.post_kept ..) _ _
      · rfl

@[simp] theorem State.setMember_kept (s : State) (d l m : Nat) (f : Member → Member) :
    (s.setMember d l m f).kept = s.kept := by
  have hb : ∀ t : State, ((List.range 4).foldl (fun t b => t.gbarTry d l b) t).kept = t.kept := fun t =>
    foldl_keeps State.kept _ (fun t b => State.gbarTry_kept t d l b) _ t
  unfold State.setMember
  split
  · rfl
  · split
    · rfl
    · dsimp only
      split
      · split
        · simp only [hb, State.reportLink_kept, State.report_kept, State.setGang_kept]
        · simp only [hb, State.reportLink_kept, State.report_kept, State.setGang_kept]
      · simp only [hb, State.reportLink_kept, State.report_kept, State.setGang_kept]

@[simp] theorem State.releaseUnclaimed_kept (s : State) (c l : Nat) : (s.releaseUnclaimed c l).kept = s.kept := by
  unfold State.releaseUnclaimed
  split
  · rfl
  · refine foldl_keeps State.kept _ (fun t m => ?_) _ _
    split
    · split
      · rw [State.setMember_kept, State.setCl_kept]
      · rfl
    · rfl

/-! ### Tasks, residencies, leases -/

@[simp] theorem State.endTask_kept (s : State) (c : Nat) : (s.endTask c).kept = s.kept := by
  unfold State.endTask
  dsimp only
  split
  · rw [State.releaseUnclaimed_kept, State.setSq_kept]
  · rfl

@[simp] theorem State.performAgs_kept (s : State) (c : Nat) (as : List Nat) : (s.performAgs c as).kept = s.kept := by
  refine foldl_keeps State.kept _ (fun t a => ?_) _ _
  split
  · rfl
  · exact kept_of_still (State.deliverKnown_still ..)

@[simp] theorem State.endResid_kept (s : State) (c r : Nat) (quiet : Bool) : (s.endResid c r quiet).kept = s.kept := by
  unfold State.endResid
  dsimp only
  split
  · rfl
  · split <;> split <;>
      simp only [State.post_kept, State.setMember_kept, State.setCl_kept, State.performAgs_kept]

@[simp] theorem State.quietLeases_kept (s : State) (c x : Nat) : (s.quietLeases c x).kept = s.kept := by
  refine foldl_keeps State.kept _ (fun t i => ?_) _ _
  dsimp only
  split
  · rfl
  · rfl

@[simp] theorem State.sayLease_kept (s : State) (c i event n reason : Nat) :
    (s.sayLease c i event n reason).kept = s.kept := State.post_kept ..

theorem State.lease_kept (s : State) (c i p : Nat) (asked : Bool) : (s.lease c i p asked).kept = s.kept := rfl

theorem State.serve_kept {s t : State} {d : Nat} {e : LeaseReq} (h : s.serve d e = some t) : t.kept = s.kept := by
  have hp : ∀ (o : Option Die) {t : State}, o.map (fun k => s.setDie d k) = some t → t.kept = s.kept := by
    rintro (_ | k) t ⟨⟩
    rfl
  unfold State.serve at h
  dsimp only at h
  split at h
  · split at h
    · split at h
      · cases h
        rfl
      · exact hp _ h
    · obtain ⟨r, -, rfl⟩ := Option.map_eq_some_iff.1 h
      rfl
  · split at h
    · exact hp _ h
    · obtain ⟨r, -, rfl⟩ := Option.map_eq_some_iff.1 h
      exact (State.sayLease_kept ..).trans (State.lease_kept ..)

theorem State.serveQueue_kept (d : Nat) (es : List LeaseReq) (s : State) : (State.serveQueue d es s).kept = s.kept := by
  induction es generalizing s with
  | nil => rfl
  | cons e es ih =>
    unfold State.serveQueue
    split
    · exact ih s
    · next hs => exact (ih _).trans ((State.setDie_kept ..).trans (State.serve_kept hs))

@[simp] theorem State.giveNotice_kept (s : State) (d prio : Nat) : (s.giveNotice d prio).kept = s.kept := by
  unfold State.giveNotice
  split
  · rfl
  · split
    · rfl
    · dsimp only
      split
      · exact (State.sayLease_kept ..).trans (State.setDie_kept ..)
      · rfl

@[simp] theorem State.amberWakes_kept (s : State) (d : Nat) : (s.amberWakes d).kept = s.kept := by
  unfold State.amberWakes
  dsimp only
  split <;> rfl

@[simp] theorem State.arbitrate_kept (s : State) (d : Nat) : (s.arbitrate d).kept = s.kept := by
  refine (foldl_keeps State.kept _ (fun t p => State.giveNotice_kept t d p) _ _).trans ?_
  rw [State.serveQueue_kept, State.amberWakes_kept]

/-! ### The end of a context (R386, R434) -/

@[simp] theorem State.clearCluster_kept (s : State) (c x : Nat) : (s.clearCluster c x).kept = s.kept := by
  have hr : ∀ t : State, ((List.range 16).foldl (fun t r =>
      if ((t.cl c).resident r).live && ((t.cl c).resident r).ctx == x then t.endResid c r true else t) t).kept = t.kept :=
    fun t => foldl_keeps State.kept _ (fun t r => by split <;> simp only [State.endResid_kept]) _ t
  unfold State.clearCluster
  dsimp only
  rw [State.setCl_kept, State.quietLeases_kept, hr]
  split <;> simp only [State.endTask_kept, State.drainAll_kept, State.settleLoads_kept]

@[simp] theorem State.clearDie_kept (s : State) (d x : Nat) : (s.clearDie d x).kept = s.kept := by
  unfold State.clearDie
  dsimp only
  rw [State.arbitrate_kept, State.setDie_kept]
  refine (foldl_keeps State.kept _ (fun t i => ?_) _ _).trans ?_
  · split
    · exact State.clearCluster_kept ..
    · rfl
  · exact foldl_keeps State.kept _ (fun t l => foldl_keeps State.kept _ (fun u i => State.releaseUnclaimed_kept ..) _ _) _ _

/-- What ending the boost leases of a context leaves of the package. -/
theorem foldl_dropBoost (bs : List Boost) (s : State) :
    let t := bs.foldl (fun s b => s.dropBoost b) s
    t.ctxs = s.ctxs ∧ t.tlb = s.tlb ∧ t.dies = s.dies ∧ t.pkg.mbx = s.pkg.mbx ∧ t.pkg.preempts = s.pkg.preempts ∧
      t.pkg.boosts = s.pkg.boosts.filter (fun e => bs.all (fun b => e.ctx != b.ctx)) := by
  induction bs generalizing s with
  | nil => simp
  | cons b bs ih =>
    obtain ⟨hc, ht, hd, hm, hp, hb⟩ := ih (s.dropBoost b)
    refine ⟨hc, ht, hd, hm, hp, hb.trans ?_⟩
    change List.filter _ (List.filter _ s.pkg.boosts) = _
    simp only [List.filter_filter, List.all_cons, Bool.and_comm]

/-- A destroyed context leaves the number of its saves, and nothing cached or boosted (R396, R434). -/
theorem State.destroyCtx_leaves (s : State) (x : Nat) :
    (s.destroyCtx x).ctxs = s.ctxs.put x { saves := (s.ctx x).saves } ∧
    (s.destroyCtx x).tlb = s.tlb.filter (fun t => t.ctx != x) ∧
    (s.destroyCtx x).pkg.mbx = s.pkg.mbx ∧ ∀ e ∈ (s.destroyCtx x).pkg.boosts, e.ctx ≠ x := by
  have ht : ((List.range 4).foldl (fun s d => s.clearDie d x) s).kept = s.kept :=
    foldl_keeps State.kept _ (fun u d => State.clearDie_kept u d x) _ s
  unfold State.destroyCtx
  dsimp only
  generalize (List.range 4).foldl (fun s d => s.clearDie d x) s = t at ht ⊢
  obtain ⟨hc, htlb, -, hm, -, hb⟩ := foldl_dropBoost (t.pkg.boosts.filter (fun b => b.ctx == x)) t
  generalize (t.pkg.boosts.filter (fun b => b.ctx == x)).foldl (fun s b => s.dropBoost b) t = u at hc htlb hm hb ⊢
  have hx : u.ctx x = s.ctx x := (congrArg (fun z : Tab Ctx => z.get x {}) hc).trans (ctx_of_kept ht x)
  refine ⟨?_, ?_, hm.trans (mbx_of_kept ht), fun e he hex => ?_⟩
  · simp only [State.ctx_setPkg, hx, State.setPkg_ctxs, hc, ctxs_of_kept ht]
  · simp only [State.setPkg_tlb, htlb, tlb_of_kept ht]
  · have he : e ∈ u.pkg.boosts := he
    rw [hb] at he
    obtain ⟨hmem, hall⟩ := List.mem_filter.1 he
    have := List.all_eq_true.1 hall e (List.mem_filter.2 ⟨hmem, by simpa using hex⟩)
    simp at this

/-! ### The beginning of a save (R414) -/

@[simp] theorem State.decideSave_kept (s : State) (c x : Nat) (coop : Bool) : (s.decideSave c x coop).kept = s.kept := by
  unfold State.decideSave
  dsimp only
  rw [State.setCl_kept]
  split
  · exact State.settleLoads_kept ..
  · rfl

@[simp] theorem State.requestOn_kept (s : State) (c x notice : Nat) : (s.requestOn c x notice).kept = s.kept := by
  unfold State.requestOn
  dsimp only
  split
  · rw [State.decideSave_kept, State.setSq_kept]
  · split <;> split <;> simp only [State.decideSave_kept, State.post_kept, State.setSq_kept]

/-- A pre-emption that begins is added to those that run. -/
theorem State.requestSave_kept (s : State) (p : Preempt) (notice : Nat) :
    (s.requestSave p notice).kept = (s.setPkg { s.pkg with preempts := s.pkg.preempts ++ [p] }).kept :=
  foldl_keeps State.kept _ (fun _ _ => State.requestOn_kept ..) _ _

end Sys2Proof.Machine
end

section
/-! SUPPORT. CTX_CREATE and CTX_DESTROY (R434, R436): which branch a well-formed command takes, and what it leaves. -/

set_option Elab.async false

namespace Sys2Proof.Machine

/-! ### CTX_CREATE -/

/-- The context that CTX_CREATE makes of its block; the number of saves goes on. -/
def CtxPar.made (y : CtxPar) (saves : Nat) : Ctx :=
  { live := true, root := some y.root, maxprio := y.maxprio, powerw := y.powerw, rights := y.rights,
    frun := bit y.rights 3, ychan := if bit y.ychan 4 then some (fld y.ychan 3 0) else none,
    emergVa := BitVec.ofNat 64 y.emergVa, emergLen := y.emergLen, peerVa := BitVec.ofNat 64 y.peerVa,
    rptPeer := BitVec.ofNat 64 y.rptPeer, saves := saves }

theorem createCtx_live {s : State} {y : CtxPar} (h : (s.ctx y.ctx).live = true) : s.createCtx y = (3, s) := by
  simp [State.createCtx, h]

theorem createCtx_unsupported {s : State} {y : CtxPar} (h : (s.ctx y.ctx).live = false)
    (hr : rightsUnsupported y.rights s.pkg.features = true) : s.createCtx y = (6, s) := by
  simp [State.createCtx, h, hr]

theorem createCtx_fresh {s : State} {y : CtxPar} (h : freshCtx s y) :
    s.createCtx y = (0, (s.setCtx y.ctx (y.made (s.ctx y.ctx).saves)).bindKeys y.ctx []) := by
  obtain ⟨hk, hr, hl, hu⟩ := h
  simp [State.createCtx, hk, hr, hl, hu, CtxPar.made]

@[simp] theorem State.bindKeys_kept (s : State) (x : Nat) (ks : List (Nat × List Byte)) : (s.bindKeys x ks).kept = s.kept :=
  foldl_keeps State.kept _ (fun t d => State.setDie_kept t d _) _ _

/-! ### CTX_DESTROY -/

/-- The end of a context, and of the command that asked for it (R434). -/
theorem State.endAndTell_leaves (s : State) (x : Nat) (c : FwCmd) :
    (s.endAndTell x c).ctxs = s.ctxs.put x { saves := (s.ctx x).saves } ∧ (∀ t ∈ (s.endAndTell x c).tlb, t.ctx ≠ x) ∧
    (∀ e ∈ (s.endAndTell x c).pkg.boosts, e.ctx ≠ x) ∧
    (s.endAndTell x c).mailbox c.mbx = (s.mailbox c.mbx).ended 0 := by
  have hf : ∀ (l : List TlbEnt), ∀ t ∈ l.filter (fun t => t.ctx != x), t.ctx ≠ x := fun l t ht => by
    simpa using (List.mem_filter.1 ht).2
  unfold State.endAndTell
  split
  · obtain ⟨hc, ht, hm, hb⟩ := State.destroyCtx_leaves (s.fwDone c 0) x
    refine ⟨by simpa using hc, by rw [ht]; exact hf _, hb, ?_⟩
    rw [← State.fwDone_mailbox]
    exact congrArg (fun z : Tab Mailbox => z.get c.mbx {}) hm
  · obtain ⟨hc, ht, hm, hb⟩ := State.destroyCtx_leaves s x
    refine ⟨by simpa using hc, by rw [State.fwDone_tlb, ht]; exact hf _, by rwa [State.fwDone_boosts], ?_⟩
    rw [State.fwDone_mailbox]
    exact congrArg (fun z : Tab Mailbox => (z.get c.mbx {}).ended 0) hm

/-- The pre-emption that begins is among those that run. -/
theorem State.requestSave_listed (s : State) (p : Preempt) (notice : Nat) :
    ∃ q ∈ (s.requestSave p notice).pkg.preempts, q.begun = p.begun := by
  have hmem : p.begun ∈ (s.requestSave p notice).pkg.preempts.map Preempt.begun := by
    rw [begun_of_kept (State.requestSave_kept s p notice)]
    simp
  exact List.mem_map.1 hmem

end Sys2Proof.Machine

namespace Sys2Proof

open Machine

section
variable {s s1 : State} {c : FwCmd} {b : List Byte}

theorem exec_ctxCreate_malformed (h : fwAsks s s1 c b 3) (hb : ctxPar b = none) :
    exec .ctxCreate s = .next (s1.fwDone c 2) := by
  change execCtxCreate s = _
  rw [execCtxCreate, runFw_asks h, hb]

theorem exec_ctxCreate (h : fwAsks s s1 c b 3) {y : CtxPar} (hb : ctxPar b = some y) :
    exec .ctxCreate s = .next ((s1.createCtx y).2.fwDone c (s1.createCtx y).1) := by
  change execCtxCreate s = _
  rw [execCtxCreate, runFw_asks h, hb]

/-- A fresh context stands as its block says; the others are as they were. -/
theorem ctxCreate_fresh (h : fwAsks s s1 c b 3) {y : CtxPar} (hb : ctxPar b = some y) (hy : freshCtx s y) :
    fwEnds .ctxCreate s c 0 (fun u => u.ctx y.ctx = y.made (s.ctx y.ctx).saves ∧ ∀ w, w ≠ y.ctx → u.ctx w = s.ctx w) := by
  have hk := kept_of_still (fwAsks_still h)
  have hy1 : freshCtx s1 y := by
    obtain ⟨hkeys, hrestore, hlive, hrights⟩ := hy
    exact ⟨hkeys, hrestore, by rwa [ctx_of_kept hk], by rwa [features_of_kept hk]⟩
  let t := s1.setCtx y.ctx (y.made (s1.ctx y.ctx).saves)
  have hv : (t.bindKeys y.ctx []).kept = t.kept := State.bindKeys_kept ..
  have hctx : ∀ w, ((t.bindKeys y.ctx []).fwDone c 0).ctx w = t.ctx w := fun w => by
    rw [State.fwDone_ctx, ctx_of_kept hv]
  have he := exec_ctxCreate h hb
  rw [createCtx_fresh hy1] at he
  refine fwEnds_of_fwDone he ((mailbox_of_kept hv _).trans (mailbox_of_kept hk _)) ⟨?_, fun w hw => ?_⟩
  · rw [hctx, State.ctx_setCtx_same, ctx_of_kept hk]
  · rw [hctx, State.ctx_setCtx_other _ _ hw, ctx_of_kept hk]

/-- The branches of CTX_DESTROY, by the state before its block was read. -/
theorem exec_ctxDestroy (h : fwAsks s s1 c b 4) : exec .ctxDestroy s = .next (
    if 63 < par b 0 || 100000 < par b 2 || !restZero b 3 then s1.fwDone c 2
    else if c.virt && par b 0 != c.ctx then s1.fwDone c 5
    else if !(s.ctx (par b 0)).live then s1.fwDone c 4
    else if s.ending (par b 0) then s1.fwDone c 3
    else if par b 1 = 0 then s1.endAndTell (par b 0) c
    else (s1.setCtx (par b 0) { s.ctx (par b 0) with dying := true }).requestSave
      { ctx := par b 0, die := s1.saveDie (par b 0), va := par b 1, cls := s1.workClusters (s1.saveDie (par b 0)) (par b 0),
        cmd := some c } (par b 2)) := by
  have hk := kept_of_still (fwAsks_still h)
  rw [← ctx_of_kept hk, ← ending_of_kept hk]
  change execCtxDestroy s = _
  rw [execCtxDestroy, runFw_asks h]

end

section
variable {s s1 : State} {c : FwCmd} {b : List Byte} (h : fwAsks s s1 c b 4)
include h

theorem ctxDestroy_malformed (hform : (63 < par b 0 || 100000 < par b 2 || !restZero b 3) = true) :
    fwEnds .ctxDestroy s c 2 (fun u => u.ctxs = s.ctxs ∧ u.dies = s.dies) :=
  fwEnds_refused h (by rw [exec_ctxDestroy h, if_pos hform])

variable (hform : ¬ (63 < par b 0 || 100000 < par b 2 || !restZero b 3) = true)
include hform

theorem ctxDestroy_foreign (hown : (c.virt && par b 0 != c.ctx) = true) :
    fwEnds .ctxDestroy s c 5 (fun u => u.ctxs = s.ctxs ∧ u.dies = s.dies) :=
  fwEnds_refused h (by rw [exec_ctxDestroy h, if_neg hform, if_pos hown])

variable (hown : ¬ (c.virt && par b 0 != c.ctx) = true)
include hown

theorem ctxDestroy_absent (hl : (!(s.ctx (par b 0)).live) = true) :
    fwEnds .ctxDestroy s c 4 (fun u => u.ctxs = s.ctxs ∧ u.dies = s.dies) :=
  fwEnds_refused h (by rw [exec_ctxDestroy h, if_neg hform, if_neg hown, if_pos hl])

variable (hl : ¬ (!(s.ctx (par b 0)).live) = true)
include hl

theorem ctxDestroy_busy (hb : s.ending (par b 0) = true) :
    fwEnds .ctxDestroy s c 3 (fun u => u.ctxs = s.ctxs ∧ u.dies = s.dies) :=
  fwEnds_refused h (by rw [exec_ctxDestroy h, if_neg hform, if_neg hown, if_neg hl, if_pos hb])

variable (hb : ¬ s.ending (par b 0) = true)
include hb

theorem ctxDestroy_ends (hva : par b 1 = 0) : fwEnds .ctxDestroy s c 0 (fun u =>
    u.ctx (par b 0) = { saves := (s.ctx (par b 0)).saves } ∧ (∀ w, w ≠ par b 0 → (u.ctx w).live = (s.ctx w).live) ∧
    (∀ t ∈ u.tlb, t.ctx ≠ par b 0) ∧ ∀ e ∈ u.pkg.boosts, e.ctx ≠ par b 0) := by
  have hk := kept_of_still (fwAsks_still h)
  obtain ⟨hc, ht, hboost, hm⟩ := s1.endAndTell_leaves (par b 0) c
  have hctx : ∀ w, (s1.endAndTell (par b 0) c).ctx w = (s1.ctxs.put (par b 0) { saves := (s1.ctx (par b 0)).saves }).get w {} :=
    fun w => congrArg (fun z : Tab Ctx => z.get w {}) hc
  have he : exec .ctxDestroy s = .next (s1.endAndTell (par b 0) c) := by
    rw [exec_ctxDestroy h, if_neg hform, if_neg hown, if_neg hl, if_neg hb, if_pos hva]
  refine fwEnds_of_mailbox he (hm.trans (by rw [mailbox_of_kept hk])) ⟨?_, fun w hw => ?_, ht, hboost⟩
  · rw [hctx, Tab.get_put_same, ctx_of_kept hk]
  · rw [hctx, Tab.get_put_other _ _ _ hw, ctxs_of_kept hk]
    rfl

theorem ctxDestroy_saves (hva : par b 1 ≠ 0) : leaves .ctxDestroy s (fun u =>
    (u.ctx (par b 0)).dying = true ∧ (u.ctx (par b 0)).live = true ∧ ∃ p ∈ u.pkg.preempts, p.ctx = par b 0 ∧
      p.va = par b 1 ∧ p.cmd = some c ∧ p.die = s1.saveDie (par b 0) ∧ p.cls = s1.workClusters p.die (par b 0)) := by
  let d := s1.saveDie (par b 0)
  let p : Preempt := { ctx := par b 0, die := d, va := par b 1, cls := s1.workClusters d (par b 0), cmd := some c }
  let t := s1.setCtx (par b 0) { s.ctx (par b 0) with dying := true }
  have hctx : (t.requestSave p (par b 2)).ctx (par b 0) = { s.ctx (par b 0) with dying := true } :=
    (ctx_of_kept (State.requestSave_kept t p (par b 2)) _).trans (State.ctx_setCtx_same ..)
  obtain ⟨q, hq, hqp⟩ := t.requestSave_listed p (par b 2)
  have hdie : q.die = s1.saveDie (par b 0) := congrArg Preempt.die hqp
  have he : exec .ctxDestroy s = .next (t.requestSave p (par b 2)) := by
    rw [exec_ctxDestroy h, if_neg hform, if_neg hown, if_neg hl, if_neg hb, if_neg hva]
  refine ⟨_, he, ?_, ?_, q, hq, congrArg Preempt.ctx hqp, congrArg Preempt.va hqp, congrArg Preempt.cmd hqp, hdie, ?_⟩
  · rw [hctx]
  · rw [hctx]
    simpa using hl
  · rw [hdie]
    exact congrArg Preempt.cls hqp

end

end Sys2Proof
end

section
/-! SUPPORT. AMBER_CFG (R52), POWER_CFG (R368, R392, R394) and RESET_DIE (R434): which branch a well-formed command takes,
and what it leaves. -/

set_option Elab.async false

namespace Sys2Proof.Machine

/-! ### Dies -/

theorem die_of_dies {s t : State} (h : t.dies = s.dies) (d : Nat) : t.die d = s.die d :=
  congrArg (fun z : Tab Die => z.get d {}) h

theorem amber_of_dies {s t : State} (h : t.dies = s.dies) (d : Nat) : t.amber d = s.amber d :=
  congrArg Die.amber (die_of_dies h d)

/-! ### What POWER_CFG sets of a die, and the arbiter leaves -/

/-- The awake limit and the spines asked for of a die, which only POWER_CFG and SPINE_CHANGE alter. -/
def Die.limits (k : Die) : Nat × Tab Nat := (k.awakeMax, k.spineReq)

theorem limits_setDie (s : State) {d : Nat} {k : Die} (h : k.limits = (s.die d).limits) (e : Nat) :
    ((s.setDie d k).die e).limits = (s.die e).limits := by
  by_cases he : e = d
  · rw [he, State.die_setDie_same, h]
  · rw [State.die_setDie_other s k he]

theorem Die.setPraline_limits (k : Die) (p : Nat) (x : Praline) : (k.setPraline p x).limits = k.limits := rfl

@[simp] theorem Die.shed_limits (limit p n : Nat) (k : Die) : (Die.shed limit p n k).limits = k.limits := by
  fun_induction Die.shed
  case case4 ih => exact ih
  all_goals rfl

theorem Die.place_limits {k k' : Die} {p : Nat} (h : k.place p = some k') : k'.limits = k.limits := by
  unfold Die.place at h
  dsimp only at h
  split at h
  · cases h
    rfl
  · split at h <;> cases h
    exact Die.shed_limits ..

theorem Die.grant_limits {k : Die} {kind : Nat} {w : Holder} {r : Nat × Die} (h : k.grant kind w = some r) :
    r.2.limits = k.limits := by
  unfold Die.grant at h
  split at h
  · cases h
  · obtain ⟨k', hk, rfl⟩ := Option.map_eq_some_iff.1 h
    exact (Die.setPraline_limits ..).trans (Die.place_limits hk)

theorem lease_limits (s : State) (c i p : Nat) (asked : Bool) (e : Nat) :
    ((s.lease c i p asked).die e).limits = (s.die e).limits :=
  limits_setDie s (d := dieOf c) (k := { s.die (dieOf c) with grants := (s.die (dieOf c)).grants + 1 }) rfl e

theorem sayLease_limits (s : State) (c i event n reason e : Nat) :
    ((s.sayLease c i event n reason).die e).limits = (s.die e).limits :=
  congrArg Die.limits (die_of_dies (dies_of_still (State.post_still ..)) e)

theorem serve_limits {s t : State} {d : Nat} {q : LeaseReq} (h : s.serve d q = some t) (e : Nat) :
    (t.die e).limits = (s.die e).limits := by
  have hp : ∀ {p : Nat}, ((s.die d).place p).map (fun k => s.setDie d k) = some t → (t.die e).limits = (s.die e).limits := by
    intro p hm
    obtain ⟨k, hk, rfl⟩ := Option.map_eq_some_iff.1 hm
    exact limits_setDie s (Die.place_limits hk) e
  unfold State.serve at h
  dsimp only at h
  split at h
  · split at h
    · split at h
      · cases h
        rfl
      · exact hp h
    · obtain ⟨r, hr, rfl⟩ := Option.map_eq_some_iff.1 h
      exact limits_setDie s (by exact Die.grant_limits hr) e
  · split at h
    · exact hp h
    · obtain ⟨r, hr, rfl⟩ := Option.map_eq_some_iff.1 h
      rw [sayLease_limits, lease_limits]
      exact limits_setDie s (by exact Die.grant_limits hr) e

theorem serveQueue_limits (d : Nat) (es : List LeaseReq) (s : State) (e : Nat) :
    ((State.serveQueue d es s).die e).limits = (s.die e).limits := by
  induction es generalizing s with
  | nil => rfl
  | cons q es ih =>
    unfold State.serveQueue
    split
    · exact ih s
    · next t hs =>
      refine (ih _).trans (Eq.trans ?_ (serve_limits hs e))
      exact limits_setDie t (by rfl) e

theorem giveNotice_limits (s : State) (d prio e : Nat) : ((s.giveNotice d prio).die e).limits = (s.die e).limits := by
  unfold State.giveNotice
  split
  · rfl
  · split
    · rfl
    · dsimp only
      split
      · rw [sayLease_limits]
        exact limits_setDie s (by rfl) e
      · exact limits_setDie s (by rfl) e

theorem amberWakes_limits (s : State) (d e : Nat) : ((s.amberWakes d).die e).limits = (s.die e).limits := by
  unfold State.amberWakes
  dsimp only
  split
  · exact limits_setDie s (by rfl) e
  · rfl

theorem arbitrate_limits (s : State) (d e : Nat) : ((s.arbitrate d).die e).limits = (s.die e).limits := by
  refine (foldl_keeps (fun t : State => (t.die e).limits) _ (fun t p => giveNotice_limits t d p e) _ _).trans ?_
  rw [serveQueue_limits, amberWakes_limits]

/-- Spines 1 to `n` as a mask names them. -/
theorem find_foldl_put (on : Nat → Bool) (f : Nat → Nat) (t : Tab Nat) (n k : Nat) :
    ((List.range n).foldl (fun (t : Tab Nat) i => if on (1 + i) then t.put (1 + i) (f i) else t) t).find (1 + k) =
      if k < n ∧ on (1 + k) then some (f k) else t.find (1 + k) := by
  induction n with
  | zero => simp
  | succ n ih =>
    rw [List.range_succ, List.foldl_append, List.foldl_cons, List.foldl_nil]
    by_cases hk : k = n
    · subst hk
      cases hon : on (1 + k) with
      | true => simp
      | false => simp [ih]
    · have hlt : k < n + 1 ↔ k < n := by omega
      have hput : ∀ t' : Tab Nat, (if on (1 + n) then t'.put (1 + n) (f n) else t').find (1 + k) = t'.find (1 + k) := by
        intro t'
        split
        · exact Tab.find_put_other _ _ (by omega)
        · rfl
      rw [hput, ih]
      simp only [hlt]

/-- Bit 0 of RIGHTS as POWER_CFG writes it. -/
theorem bit_putFld_zero (r v : Nat) (h : v ≤ 1) : bit (putFld r 0 0 v) 0 = decide (v = 1) := by
  simp only [bit, putFld, fld, Nat.testBit_zero, Nat.shiftRight_zero, Nat.shiftLeft_zero, Nat.zero_add, Nat.sub_zero, pow_one]
  congr 1
  exact propext (by omega)

/-- What POWER_CFG sets (R434): the die's awake limit, spines and TSPIN, then the context's POWERW and BOOST. -/
def State.powerSet (s : State) (b : List Byte) : State :=
  let on := fun (i : Nat) => bit (par b 1) i
  let d := par b 0
  let x := par b 10
  let k := s.die d
  let k := { k with awakeMax := if on 0 then par b 2 else k.awakeMax,
                    spineReq := (List.range 7).foldl (fun (t : Tab Nat) i =>
                      if on (1 + i) then t.put (1 + i) (par b (3 + i)) else t) k.spineReq,
                    tspinNew := if on 10 then (tspinArg b).foldl (fun (t : Tab Nat) e => t.put e.1 e.2) k.tspinNew
                                else k.tspinNew }
  let s := s.setDie d k
  let y := s.ctx x
  let s := if on 8 then s.setCtx x { y with powerw := par b 11 } else s
  let y := s.ctx x
  if on 9 then s.setCtx x { y with rights := putFld y.rights 0 0 (par b 12) } else s

/-- A POWER_CFG that goes through: then the arbiter takes note of the awake limit. -/
def State.powered (s : State) (b : List Byte) : State :=
  ((s.powerSet b).setDie (par b 0) ((s.powerSet b).die (par b 0)).awakeDown).arbitrate (par b 0)

theorem powered_kept (s : State) (b : List Byte) : (s.powered b).kept = (s.powerSet b).kept := by
  rw [State.powered, State.arbitrate_kept, State.setDie_kept]

theorem powerSet_mailbox (s : State) (b : List Byte) (m : Nat) : (s.powerSet b).mailbox m = s.mailbox m := by
  unfold State.powerSet
  dsimp only
  split <;> split <;> rfl

theorem powered_limits (s : State) (b : List Byte) (e : Nat) : ((s.powered b).die e).limits = ((s.powerSet b).die e).limits := by
  rw [State.powered, arbitrate_limits]
  exact limits_setDie _ (Die.shed_limits ..) e

theorem powerSet_limits (s : State) (b : List Byte) : ((s.powerSet b).die (par b 0)).limits =
    (if bit (par b 1) 0 then par b 2 else (s.die (par b 0)).awakeMax,
      (List.range 7).foldl (fun (t : Tab Nat) i => if bit (par b 1) (1 + i) then t.put (1 + i) (par b (3 + i)) else t)
        (s.die (par b 0)).spineReq) := by
  have hc : ∀ (t : State) x y, (t.setCtx x y).die (par b 0) = t.die (par b 0) := fun _ _ _ => rfl
  unfold State.powerSet
  dsimp only
  split <;> split <;> simp only [hc, State.die_setDie_same, Die.limits]

theorem powerSet_ctx_other (s : State) (b : List Byte) {w : Nat} (h : w ≠ par b 10) : (s.powerSet b).ctx w = s.ctx w := by
  unfold State.powerSet
  dsimp only
  split <;> split <;> simp only [State.ctx_setCtx_other _ _ h, State.ctx_setDie]

theorem powerSet_powerw (s : State) (b : List Byte) (h : bit (par b 1) 8 = true) :
    ((s.powerSet b).ctx (par b 10)).powerw = par b 11 := by
  unfold State.powerSet
  simp only [h, if_true]
  split <;> simp only [State.ctx_setCtx_same]

theorem powerSet_boost (s : State) (b : List Byte) (h : bit (par b 1) 9 = true) (hv : par b 12 ≤ 1) :
    bit ((s.powerSet b).ctx (par b 10)).rights 0 = decide (par b 12 = 1) := by
  unfold State.powerSet
  simp only [h, if_true, State.ctx_setCtx_same]
  exact bit_putFld_zero _ _ hv

theorem powerBad_boost {b : List Byte} (h : powerBad b = false) (h9 : bit (par b 1) 9 = true) : par b 12 ≤ 1 := by
  simp only [powerBad, Bool.or_eq_false_iff] at h
  obtain ⟨⟨-, hv⟩, -⟩ := h
  simpa [h9] using hv

/-! ### AMBER_CFG -/

/-- AMBER_CFG would take parking from a context that has parked records (R52). -/
def State.unparks (s : State) (b : List Byte) : Bool :=
  bit (par b 2) 7 && amberArg b 7 == 0 && (s.amber (par b 0)).recs.any (fun r => r.2.st != 0 && arCtx r.2.img == par b 1)

theorem unparks_iff (s : State) (b : List Byte) : s.unparks b = true ↔
    bit (par b 2) 7 = true ∧ amberArg b 7 = 0 ∧ ∃ r ∈ (s.amber (par b 0)).recs, r.2.st ≠ 0 ∧ arCtx r.2.img = par b 1 := by
  simp [State.unparks, and_assoc]

@[simp] theorem configure_cfg (a : Amber) (b : List Byte) : (a.configure b).cfg (par b 1) =
    { en := if bit (par b 2) 7 then amberArg b 7 == 1 else (a.cfg (par b 1)).en,
      hstack := if bit (par b 2) 8 then amberArg b 8 else (a.cfg (par b 1)).hstack,
      cstack := if bit (par b 2) 9 then amberArg b 9 else (a.cfg (par b 1)).cstack,
      keyslot := if bit (par b 2) 10 then amberArg b 10 else (a.cfg (par b 1)).keyslot } :=
  Tab.get_put_same ..

/-! ### RESET_DIE -/

/-- What a die keeps that loses its state: clock, keys, temperature and Amber. -/
def Die.wiped (k : Die) : Die :=
  { clock := k.clock, keys := k.keys, tj := k.tj, warning := k.warning, emerg := k.emerg, amber := k.amber }

/-- A die loses its state while no save runs there. -/
theorem wipeDie_dies {s : State} {d : Nat} (h : ∀ p ∈ s.pkg.preempts, p.die ≠ d) :
    (s.wipeDie d).dies = s.dies.put d (s.die d).wiped := by
  unfold State.wipeDie
  dsimp only
  generalize ht : State.setDie _ d _ = t
  obtain ⟨-, -, hd, -, hp, -⟩ := foldl_dropBoost (t.pkg.boosts.filter (fun e => e.die == d)) t
  have hpre : t.pkg.preempts = s.pkg.preempts := by rw [← ht]; rfl
  have hnone : s.pkg.preempts.filter (fun p => p.die == d) = [] := List.filter_eq_nil_iff.2 fun p hm => by simpa using h p hm
  rw [hp, hpre, hnone, List.foldl_nil, State.setPkg_dies, hd, ← ht]
  rfl

/-- What RESET_DIE leaves of a die (R434). -/
def Die.afterReset (k : Die) : Die := { clock := k.clock, keys := k.keys, amber := { serial := k.amber.serial } }

theorem resetDie_dies {s : State} {d : Nat} (h : ∀ p ∈ s.pkg.preempts, p.die ≠ d) :
    (s.resetDie d).dies = s.dies.put d (s.die d).afterReset := by
  have hw := wipeDie_dies h
  have hd : (s.wipeDie d).die d = (s.die d).wiped :=
    (die_of_dies (s := s.setDie d (s.die d).wiped) hw d).trans (State.die_setDie_same ..)
  unfold State.resetDie
  dsimp only
  rw [State.setDie_dies]
  change Tab.put (s.wipeDie d).dies d { (s.wipeDie d).die d with
    amber := { serial := ((s.wipeDie d).die d).amber.serial }, emerg := {}, warning := false, tj := 0 } = _
  rw [hd, hw, Tab.put_put]
  rfl

end Sys2Proof.Machine
end

section
/-! SUPPORT. The branches of AMBER_CFG, POWER_CFG and RESET_DIE by the state before the block was read, and what each leaves
of it. -/

set_option Elab.async false

namespace Sys2Proof

open Machine

/-! ### AMBER_CFG -/

section
variable {s s1 : State} {c : FwCmd} {b : List Byte}

theorem exec_amberCfg (h : fwAsks s s1 c b 7) : exec .amberCfg s = .next (
    if !bit s.pkg.features 2 then s1.fwDone c 5
    else if amberBad b then s1.fwDone c 2
    else if s.ending (par b 1) then s1.fwDone c 3
    else if s.unparks b then s1.fwDone c 3
    else (s1.setAmber (par b 0) ((s.amber (par b 0)).configure b)).fwDone c 0) := by
  have hs := fwAsks_still h
  have hk := kept_of_still hs
  rw [← features_of_kept hk, ← ending_of_kept hk, State.unparks, ← amber_of_dies (dies_of_still hs)]
  change execAmberCfg s = _
  rw [execAmberCfg, runFw_asks h]

theorem amberCfg_off (h : fwAsks s s1 c b 7) (hf : bit s.pkg.features 2 = false) :
    fwEnds .amberCfg s c 5 (fun u => u.ctxs = s.ctxs ∧ u.dies = s.dies) :=
  fwEnds_refused h (by simp [exec_amberCfg h, hf])

variable (h : fwAsks s s1 c b 7) (hf : bit s.pkg.features 2 = true)
include h hf

theorem amberCfg_malformed (hbad : amberBad b = true) :
    fwEnds .amberCfg s c 2 (fun u => u.ctxs = s.ctxs ∧ u.dies = s.dies) :=
  fwEnds_refused h (by simp [exec_amberCfg h, hf, hbad])

theorem amberCfg_busy (hbad : amberBad b = false) (hb : s.ending (par b 1) = true ∨ s.unparks b = true) :
    fwEnds .amberCfg s c 3 (fun u => u.ctxs = s.ctxs ∧ u.dies = s.dies) :=
  fwEnds_refused h (by
    rcases hb with hb | hb
    · simp [exec_amberCfg h, hf, hbad, hb]
    · simp [exec_amberCfg h, hf, hbad, hb])

theorem amberCfg_configures (hbad : amberBad b = false) (hb : s.ending (par b 1) = false) (hp : s.unparks b = false) :
    fwEnds .amberCfg s c 0 (fun u => u.amber (par b 0) = (s.amber (par b 0)).configure b) := by
  have he := exec_amberCfg h
  simp only [hf, hbad, hb, hp, Bool.not_true, Bool.false_eq_true, if_false] at he
  refine fwEnds_of_fwDone he ?_ (by simp)
  exact mailbox_of_kept (kept_of_still (fwAsks_still h)) _

end

/-! ### POWER_CFG -/

/-- POWER_CFG names a parameter of a context. -/
def namesCtx (b : List Byte) : Bool := bit (par b 1) 8 || bit (par b 1) 9

/-- POWER_CFG would grant BOOST, which is disabled. -/
def grantsNoBoost (s : State) (b : List Byte) : Bool := bit (par b 1) 9 && par b 12 == 1 && !bit s.pkg.features 5

section
variable {s s1 : State} {c : FwCmd} {b : List Byte}

theorem exec_powerCfg (h : fwAsks s s1 c b 8) : exec .powerCfg s = .next (
    if powerBad b then s1.fwDone c 2
    else if namesCtx b && !(s.ctx (par b 10)).live then s1.fwDone c 4
    else if namesCtx b && s.ending (par b 10) then s1.fwDone c 3
    else if grantsNoBoost s b then s1.fwDone c 6
    else (s1.powered b).fwDone c 0) := by
  have hk := kept_of_still (fwAsks_still h)
  rw [grantsNoBoost, ← features_of_kept hk, ← ending_of_kept hk, ← ctx_of_kept hk]
  change execPowerCfg s = _
  rw [execPowerCfg, runFw_asks h]
  rfl

variable (h : fwAsks s s1 c b 8)
include h

theorem powerCfg_malformed (hbad : powerBad b = true) :
    fwEnds .powerCfg s c 2 (fun u => u.ctxs = s.ctxs ∧ u.dies = s.dies) :=
  fwEnds_refused h (by rw [exec_powerCfg h, if_pos hbad])

variable (hbad : powerBad b = false)
include hbad

theorem powerCfg_absent (hn : namesCtx b = true) (hl : (s.ctx (par b 10)).live = false) :
    fwEnds .powerCfg s c 4 (fun u => u.ctxs = s.ctxs ∧ u.dies = s.dies) :=
  fwEnds_refused h (by simp [exec_powerCfg h, hbad, hn, hl])

theorem powerCfg_busy (hn : namesCtx b = true) (hl : (s.ctx (par b 10)).live = true) (hb : s.ending (par b 10) = true) :
    fwEnds .powerCfg s c 3 (fun u => u.ctxs = s.ctxs ∧ u.dies = s.dies) :=
  fwEnds_refused h (by simp [exec_powerCfg h, hbad, hn, hl, hb])

variable (hctx : namesCtx b = true → (s.ctx (par b 10)).live = true ∧ s.ending (par b 10) = false)
include hctx

theorem exec_powerCfg_of_ctx : exec .powerCfg s = .next (
    if grantsNoBoost s b then s1.fwDone c 6 else (s1.powered b).fwDone c 0) := by
  rw [exec_powerCfg h, hbad]
  cases hn : namesCtx b with
  | true => simp [hctx hn]
  | false => simp

theorem powerCfg_unsupported (hg : grantsNoBoost s b = true) :
    fwEnds .powerCfg s c 6 (fun u => u.ctxs = s.ctxs ∧ u.dies = s.dies) :=
  fwEnds_refused h (by rw [exec_powerCfg_of_ctx h hbad hctx, if_pos hg])

/-- The die's awake limit and spines, and the contexts, are as POWER_CFG sets them. -/
theorem powerCfg_sets (hg : ¬ grantsNoBoost s b = true) : fwEnds .powerCfg s c 0 (fun u =>
    (u.die (par b 0)).awakeMax = (if bit (par b 1) 0 then par b 2 else (s.die (par b 0)).awakeMax) ∧
    (∀ i, i < 7 → (u.die (par b 0)).spineReq.find (1 + i) =
      if bit (par b 1) (1 + i) then some (par b (3 + i)) else (s.die (par b 0)).spineReq.find (1 + i)) ∧
    (bit (par b 1) 8 = true → (u.ctx (par b 10)).powerw = par b 11) ∧
    (bit (par b 1) 9 = true → bit (u.ctx (par b 10)).rights 0 = decide (par b 12 = 1)) ∧
    ∀ w, w ≠ par b 10 → u.ctx w = s.ctx w) := by
  have hs := fwAsks_still h
  have hp := powered_kept s1 b
  have hctx' : ∀ w, ((s1.powered b).fwDone c 0).ctx w = (s1.powerSet b).ctx w := fun w =>
    (State.fwDone_ctx ..).trans (ctx_of_kept hp w)
  have hlim : (((s1.powered b).fwDone c 0).die (par b 0)).limits = _ :=
    (congrArg Die.limits (State.fwDone_die ..)).trans ((powered_limits s1 b _).trans (powerSet_limits s1 b))
  rw [die_of_dies (dies_of_still hs)] at hlim
  refine fwEnds_of_fwDone (by rw [exec_powerCfg_of_ctx h hbad hctx, if_neg hg]) ?_
    ⟨congrArg Prod.fst hlim, fun i hi => ?_, fun h8 => ?_, fun h9 => ?_, fun w hw => ?_⟩
  · rw [mailbox_of_kept hp, powerSet_mailbox, mailbox_of_kept (kept_of_still hs)]
  · have hspine : (((s1.powered b).fwDone c 0).die (par b 0)).spineReq = _ := congrArg Prod.snd hlim
    rw [hspine, find_foldl_put (fun i => bit (par b 1) i) (fun i => par b (3 + i))]
    simp [hi]
  · rw [hctx', powerSet_powerw s1 b h8]
  · rw [hctx', powerSet_boost s1 b h9 (powerBad_boost hbad h9)]
  · rw [hctx', powerSet_ctx_other s1 b hw, ctx_of_kept (kept_of_still hs)]

end

/-! ### RESET_DIE -/

/-- The contexts that hold work on a die, each with a cluster where it does. -/
def workThere (s : State) (d : Nat) : List (Nat × Nat) :=
  (List.range 64).flatMap (fun x => (s.workClusters d x).map (fun i => (x, d * 40 + i)))

theorem workThere_eq_nil (s : State) (d : Nat) : workThere s d = [] ↔ ∀ x, x < 64 → s.workClusters d x = [] := by
  simp [workThere]

/-- The reports of a list of contexts that are abandoned (R406). -/
def reportAll (s : State) (xs : List (Nat × Nat)) : State :=
  xs.foldl (fun s e => s.send { kind := 5, dest := e.2, addr := e.1 }) s

theorem reportAll_still (s : State) (xs : List (Nat × Nat)) : (reportAll s xs).still = s.still :=
  foldl_keeps State.still _ (fun t _ => State.send_still t _) xs s

section
variable {s s1 : State} {c : FwCmd} {b : List Byte} (h : fwAsks s s1 c b 11)
include h

theorem exec_resetDie : exec .resetDie s = .next (
    if 3 < par b 0 || 1 < par b 1 || !restZero b 2 then s1.fwDone c 2
    else if par b 1 = 0 ∧ !(workThere s1 (par b 0)).isEmpty then s1.fwDone c 3
    else (((reportAll s1 (workThere s1 (par b 0))).resetDie (par b 0)).rewriteLog).fwDone c 0) := by
  change execResetDie s = _
  rw [execResetDie, runFw_asks h]
  rfl

theorem resetDie_malformed (hform : (3 < par b 0 || 1 < par b 1 || !restZero b 2) = true) :
    fwEnds .resetDie s c 2 (fun u => u.ctxs = s.ctxs ∧ u.dies = s.dies) :=
  fwEnds_refused h (by rw [exec_resetDie h, if_pos hform])

variable (hform : ¬ (3 < par b 0 || 1 < par b 1 || !restZero b 2) = true)
include hform

theorem resetDie_holdsWork (hforce : par b 1 = 0) (hw : workThere s1 (par b 0) ≠ []) :
    fwEnds .resetDie s c 3 (fun u => u.ctxs = s.ctxs ∧ u.dies = s.dies) :=
  fwEnds_refused h (by rw [exec_resetDie h, if_neg hform, if_pos ⟨hforce, by simpa using hw⟩])

/-- The die keeps its clock, keys and Amber serial; the others are as they were. -/
theorem resetDie_resets (hforce : ¬ (par b 1 = 0 ∧ workThere s1 (par b 0) ≠ []))
    (hp : ∀ p ∈ s.pkg.preempts, p.die ≠ par b 0) : leaves .resetDie s (fun u =>
      (u.mailbox c.mbx).busy = false ∧ u.die (par b 0) = (s.die (par b 0)).afterReset ∧
      ∀ n, n ≠ par b 0 → u.die n = s.die n) := by
  have hs : (reportAll s1 (workThere s1 (par b 0))).still = s.still := (reportAll_still ..).trans (fwAsks_still h)
  have hp' : ∀ p ∈ (reportAll s1 (workThere s1 (par b 0))).pkg.preempts, p.die ≠ par b 0 := fun p hm => by
    have hb : p.begun ∈ s.pkg.preempts.map Preempt.begun := by
      rw [← begun_of_kept (kept_of_still hs)]
      exact List.mem_map_of_mem hm
    obtain ⟨q, hq, he⟩ := List.mem_map.1 hb
    have hd : p.die = q.die := (congrArg Preempt.die he).symm
    rw [hd]
    exact hp q hq
  have hdies := resetDie_dies hp'
  rw [dies_of_still hs, die_of_dies (dies_of_still hs)] at hdies
  have he := exec_resetDie h
  rw [if_neg hform, if_neg (by simpa using hforce)] at he
  generalize reportAll s1 (workThere s1 (par b 0)) = t at he hdies
  have hdie : ∀ n, (((t.resetDie (par b 0)).rewriteLog).fwDone c 0).die n =
      (s.dies.put (par b 0) (s.die (par b 0)).afterReset).get n {} := fun n =>
    (State.fwDone_die ..).trans (congrArg (fun z : Tab Die => z.get n {}) hdies)
  refine ⟨_, he, by rw [State.fwDone_mailbox]; rfl, ?_, fun n hn => ?_⟩
  · rw [hdie, Tab.get_put_same]
  · rw [hdie, Tab.get_put_other _ _ _ hn]
    rfl

end

end Sys2Proof
end

section
/-! SUPPORT. MAP and UNMAP (R27, R434, R449, R461): which branch a well-formed command takes, what a refusal leaves of memory,
and the one entry that a MAP of a 4 KiB page writes. -/

set_option Elab.async false

namespace Sys2Proof.Machine

/-! ### Entries of a table -/

theorem State.pte_setPte_same {s : State} (h : s.mem.wf = true) (a v : Nat) : (s.setPte a v).pte a = v % 2 ^ 64 := by
  have hb := Mem.bytes_setBytes_same h a (toBytes 8 v)
  rw [toBytes_length] at hb
  rw [State.pte, State.setPte, (storeHome_frame ..).2.1, hb]
  exact ofBytes_toBytes 8 v

theorem State.pte_setPte_other (s : State) {a z : Nat} (v : Nat) (h : z + 8 ≤ a ∨ a + 8 ≤ z) :
    (s.setPte a v).pte z = s.pte z := by
  rw [State.pte, State.setPte, (storeHome_frame ..).2.1]
  refine congrArg ofBytes (List.map_congr_left fun i hi => Mem.byte_setBytes_other _ _ _ ?_)
  rw [toBytes_length]
  have := List.mem_range.1 hi
  omega

/-- The leaf of a 4 KiB page is written over an entry that was not valid. -/
theorem State.putLeaf_small {s : State} {t va : Nat} (v : Nat) (h : bit (s.pte (t + fld va 20 12 * 8)) 0 = false) :
    s.putLeaf t va 0 (some v) {} = .ok (s.setPte (t + fld va 20 12 * 8) v, {}) := by
  simp [State.putLeaf, pageLvl, levelIdx, h]

/-- A MAP of one 4 KiB page whose table stands writes the page's leaf and nothing else. -/
theorem mapPages_small {s s2 : State} {x va r t : Nat} (frame flags : Nat) (hroot : (s.ctx x).root = some r)
    (ht : State.toTable true va 0 4 s r 3 = .ok (some t, s2)) (hp : bit (s2.pte (t + fld va 20 12 * 8)) 0 = false) :
    State.mapPages x va 0 frame flags true 1 0 s {} = .ok (s2.setPte (t + fld va 20 12 * 8) (frame + flags), {}) := by
  have hl : pageLvl 0 = 0 := rfl
  simp only [State.mapPages, hroot, Nat.zero_mul, Nat.add_zero, hl, ht, if_true, State.putLeaf_small _ hp]

/-- The work of MAP or UNMAP on the range of its block. -/
def State.mapRange (s : State) (put : Bool) (y : MapPar) : Except Nat (State × Gone) :=
  State.mapPages y.ctx y.va y.psize y.frame y.flags put y.count 0 s {}

/-- A leaf that a MAP block names fits an entry. -/
theorem mapPar_leaf_lt {b : List Byte} {y : MapPar} (h : mapPar true b = some y) : y.frame + y.flags < 2 ^ 64 := by
  have hbit : ∀ x : Bool, b2n x ≤ 1 := fun x => by cases x <;> decide
  simp only [mapPar, if_true, Option.ite_none_left_eq_some, Option.some.injEq, Bool.or_eq_true, not_or, decide_eq_true_eq] at h
  obtain ⟨⟨-, ⟨-, hend⟩, -⟩, rfl⟩ := h
  have hr := hbit (bit (ofBytes b) 304)
  have hw := hbit (bit (ofBytes b) 305)
  have hx := hbit (bit (ofBytes b) 306)
  have hc : fld (ofBytes b) 308 307 < 4 := Nat.mod_lt _ (by decide)
  dsimp only
  split <;> omega

/-! ### Command blocks in plain memory -/

theorem State.fwRead_physical (s : State) {c : FwCmd} (h : c.virt = false) (off n : Nat) : (s.fwRead c off n).2 = s := by
  unfold State.fwRead
  simp only [h, Bool.false_eq_true, if_false]
  split
  · rfl
  · split <;> rfl

/-- A write into a block that names physical addresses keeps every byte beside it. -/
theorem State.fwWrite_byte_other (s : State) {c : FwCmd} (h : c.virt = false) (off : Nat) (bs : List Byte) {x : Nat}
    (hx : x < c.addr + off ∨ c.addr + off + bs.length ≤ x) : (s.fwWrite c off bs).mem.byte x = s.mem.byte x := by
  unfold State.fwWrite
  simp only [h, Bool.false_eq_true, if_false]
  split
  · rfl
  · split
    · rw [(storeHome_frame ..).2.1, Mem.byte_setBytes_other _ _ _ hx]
    · rfl

/-- The end of a command writes the status word of its block and no other byte (R433). -/
theorem State.fwDone_byte_other (s : State) {c : FwCmd} (h : c.virt = false) (status : Nat) {x : Nat}
    (hx : x < c.addr ∨ c.addr + 256 ≤ x) : (s.fwDone c status).mem.byte x = s.mem.byte x := by
  have hw := s.fwWrite_byte_other h 8 (toBytes 4 status) (x := x) (by rw [toBytes_length]; omega)
  have hr : ∀ (t : State) (off n : Nat), (t.fwRead c off n).2.mem = t.mem := fun t off n => by rw [t.fwRead_physical h]
  rw [← hw]
  refine congrArg (Mem.byte · x) ?_
  unfold State.fwDone
  dsimp only
  rw [s.fwRead_physical h]
  split
  · split <;> simp
  · split
    · simp [hr]
    · split <;> simp

end Sys2Proof.Machine

namespace Sys2Proof

open Machine

/-- MAP, or UNMAP. -/
def mapInstr (put : Bool) : Instr := if put then .map else .unmap

/-- What MAP and UNMAP leave where they end with an error: every byte of memory outside their block among it. -/
def mapKeeps (s s1 : State) (c : FwCmd) (u : State) : Prop :=
  u.ctxs = s.ctxs ∧ u.tlb = s1.tlb ∧ u.pkg.poolUsed = s.pkg.poolUsed ∧
    (s.mem.wf = true → fwPlain c → ∀ x, (x < c.addr ∨ c.addr + 256 ≤ x) → u.mem.byte x = s.mem.byte x)

section
variable {s s1 : State} {c : FwCmd} {b : List Byte}

/-- Reading a block that names physical addresses leaves memory as it is. -/
theorem fwAsks_mem {opc : Nat} (h : fwAsks s s1 c b opc) (hv : c.virt = false) : s1.mem = s.mem := by
  obtain ⟨⟨rest, s2, -, -, hr, rfl⟩, -⟩ := h
  have h2 : (s.fwRead c 0 256).2 = s2 := congrArg Prod.snd hr
  rw [State.setPkg_mem, ← h2, s.fwRead_physical hv]

theorem fwAsks_wf {opc : Nat} (h : fwAsks s s1 c b opc) (hm : MemInv s) : s1.mem.wf = true := by
  obtain ⟨⟨rest, s2, -, -, hr, rfl⟩, -⟩ := h
  have h2 : (s.fwRead c 0 256).2 = s2 := congrArg Prod.snd hr
  rw [State.setPkg_mem, ← h2]
  exact State.fwRead_wf s c 0 256 hm

variable {put : Bool} (h : fwAsks s s1 c b (if put then 5 else 6))
include h

theorem exec_mapInstr : exec (mapInstr put) s = .next (s1.mapCmd put c b) := by
  cases put with
  | true =>
    change execMap s = _
    rw [execMap]
    exact runFw_asks h _
  | false =>
    change execUnmap s = _
    rw [execUnmap]
    exact runFw_asks h _

theorem map_refused {status : Nat} (he : s1.mapCmd put c b = s1.fwDone c status) :
    fwEnds (mapInstr put) s c status (mapKeeps s s1 c) := by
  have hk := kept_of_still (fwAsks_still h)
  refine fwEnds_of_fwDone (by rw [exec_mapInstr h, he]) (mailbox_of_kept hk _)
    ⟨?_, State.fwDone_tlb .., ?_, fun _ hplain x hx => ?_⟩
  · rw [State.fwDone_ctxs, ctxs_of_kept hk]
  · rw [State.fwDone_poolUsed, poolUsed_of_kept hk]
  · obtain ⟨hv, -⟩ := hplain
    rw [State.fwDone_byte_other _ hv _ hx, fwAsks_mem h hv]

theorem map_malformed (hb : mapPar put b = none) : fwEnds (mapInstr put) s c 2 (mapKeeps s s1 c) :=
  map_refused h (by simp only [State.mapCmd, hb])

variable {y : MapPar} (hb : mapPar put b = some y)
include hb

/-- The branches of a command whose block is well-formed, by the state before its block was read. -/
theorem mapCmd_eq : s1.mapCmd put c b =
    if c.virt && y.ctx != c.ctx then s1.fwDone c 5
    else if !(s.ctx y.ctx).live then s1.fwDone c 4
    else if s.ending y.ctx then s1.fwDone c 3
    else match s1.mapRange put y with
      | .error st => s1.fwDone c st
      | .ok (s2, g) =>
        if put && !g.old then s2.fwDone c 0
        else s2.setPkg { s2.pkg with mapping := some { cmd := c, ctx := y.ctx, va := y.va, len := y.count * pageBytes y.psize,
                                                       freed := g.tables } } := by
  have hk := kept_of_still (fwAsks_still h)
  rw [← ctx_of_kept hk, ← ending_of_kept hk, State.mapCmd, hb]
  rfl

theorem map_foreign (hown : (c.virt && y.ctx != c.ctx) = true) : fwEnds (mapInstr put) s c 5 (mapKeeps s s1 c) :=
  map_refused h (by rw [mapCmd_eq h hb, if_pos hown])

variable (hown : ¬ (c.virt && y.ctx != c.ctx) = true)
include hown

theorem map_absent (hl : (s.ctx y.ctx).live = false) : fwEnds (mapInstr put) s c 4 (mapKeeps s s1 c) :=
  map_refused h (by rw [mapCmd_eq h hb, if_neg hown, hl]; rfl)

variable (hl : (s.ctx y.ctx).live = true)
include hl

theorem map_busy (he : s.ending y.ctx = true) : fwEnds (mapInstr put) s c 3 (mapKeeps s s1 c) :=
  map_refused h (by rw [mapCmd_eq h hb, if_neg hown, hl, he]; rfl)

variable (he : ¬ s.ending y.ctx = true)
include he

theorem mapCmd_eq_of_range : s1.mapCmd put c b =
    match s1.mapRange put y with
      | .error st => s1.fwDone c st
      | .ok (s2, g) =>
        if put && !g.old then s2.fwDone c 0
        else s2.setPkg { s2.pkg with mapping := some { cmd := c, ctx := y.ctx, va := y.va, len := y.count * pageBytes y.psize,
                                                       freed := g.tables } } := by
  rw [mapCmd_eq h hb, if_neg hown, hl, if_neg he]
  rfl

theorem map_fails {st : Nat} (hr : s1.mapRange put y = .error st) : fwEnds (mapInstr put) s c st (mapKeeps s s1 c) :=
  map_refused h (by rw [mapCmd_eq_of_range h hb hown hl he, hr])

theorem exec_map_of_range {s2 : State} {g : Gone} (hr : s1.mapRange put y = .ok (s2, g)) : exec (mapInstr put) s = .next (
    if put && !g.old then s2.fwDone c 0
    else s2.setPkg { s2.pkg with mapping := some { cmd := c, ctx := y.ctx, va := y.va, len := y.count * pageBytes y.psize,
                                                   freed := g.tables } }) := by
  rw [exec_mapInstr h, mapCmd_eq_of_range h hb hown hl he, hr]

end

/-- A MAP of one 4 KiB page over an entry that was not valid ends at once, and writes that entry alone. -/
theorem map_writesLeaf {s s1 s2 : State} {c : FwCmd} {b : List Byte} {y : MapPar} {r t : Nat} (h : fwAsks s s1 c b 5)
    (hb : mapPar true b = some y) (hown : ¬ (c.virt && y.ctx != c.ctx) = true) (hl : (s.ctx y.ctx).live = true)
    (he : ¬ s.ending y.ctx = true) (hm : MemInv s) (hcount : y.count = 1) (hsize : y.psize = 0)
    (hroot : (s1.ctx y.ctx).root = some r) (ht : State.toTable true y.va 0 4 s1 r 3 = .ok (some t, s2))
    (hp : bit (s2.pte (t + fld y.va 20 12 * 8)) 0 = false) :
    ∃ w : State, exec .map s = .next (w.fwDone c 0) ∧ w.pte (t + fld y.va 20 12 * 8) = y.frame + y.flags ∧
      ∀ z, (z + 8 ≤ t + fld y.va 20 12 * 8 ∨ t + fld y.va 20 12 * 8 + 8 ≤ z) → w.pte z = s2.pte z := by
  have hr : s1.mapRange true y = .ok (s2.setPte (t + fld y.va 20 12 * 8) (y.frame + y.flags), {}) := by
    rw [State.mapRange, hcount, hsize]
    exact mapPages_small y.frame y.flags hroot ht hp
  have hwf := State.toTable_wf true y.va 0 4 s1 r 3 ht (fwAsks_wf h hm)
  refine ⟨_, exec_map_of_range (put := true) h hb hown hl he hr, ?_, fun z hz => State.pte_setPte_other _ _ hz⟩
  rw [State.pte_setPte_same hwf, Nat.mod_eq_of_lt (mapPar_leaf_lt hb)]

end Sys2Proof
end

section
/-! SUPPORT. MAP_COMPLETE (R27): every access under way is performed, every cached translation of the range goes, and the
command that waits ends. -/

set_option Elab.async false

namespace Sys2Proof.Machine

/-! ### What performing one cluster's accesses leaves -/

/-- The pending loads of cluster `c`, and what the other clusters wait for. -/
def State.pending (s : State) (c : Nat) : List LoadEnt × (Nat → List LoadEnt × List StoreEnt) :=
  ((s.sq c).loads, fun e => if e = c then ([], []) else s.waits e)

theorem pending_of_still {s t : State} (h : t.still = s.still) (c : Nat) : t.pending c = s.pending c :=
  congrArg (fun w : Nat → List LoadEnt × List StoreEnt => ((w c).1, fun e => if e = c then ([], []) else w e))
    (waits_of_still h)

theorem waits_setSq_other (s : State) {c e : Nat} (q : Seq) (h : e ≠ c) : (s.setSq c q).waits e = s.waits e := by
  simp only [State.waits, s.sq_setSq_other q h]

/-- Performing accesses of a cluster leaves its other pending loads, and the other clusters, as they are. -/
theorem pending_setSq (s : State) (c : Nat) {q : Seq} (h : q.loads = (s.sq c).loads) :
    (s.setSq c q).pending c = s.pending c := by
  refine Prod.ext ?_ (funext fun e => ?_)
  · simp only [State.pending, State.sq_setSq_same, h]
  · simp only [State.pending]
    split
    · rfl
    · next he => exact waits_setSq_other s q he

theorem State.drainTo_pending (s : State) (c : Nat) (p : StoreEnt → Bool) : (s.drainTo c p).pending c = s.pending c :=
  (pending_of_still (drainTo_stored s c p).rest.still c).trans (pending_setSq s c (by rfl))

theorem State.amoHome_pending (s : State) (c ctx va pa n : Nat) (f : AmoFn) (op cmp : Nat) {pre : State → State}
    (h : ∀ t, (pre t).pending c = t.pending c) : (s.amoHome c ctx va pa n f op cmp pre).2.pending c = s.pending c := by
  have hown : (s.settleOwn c pa n).pending c = s.pending c := State.drainTo_pending ..
  unfold State.amoHome
  dsimp only
  split
  · exact (pending_of_still (State.machineCheck_still ..) c).trans hown
  · split
    · split
      · exact hown
      · exact hown
    · exact (pending_of_still (storeHome_frame ..).1.still c).trans ((h _).trans hown)

@[simp] theorem Seq.setReg_loads (q : Seq) (r : Reg) (v : Word) : (q.setReg r v).loads = q.loads := by
  unfold Seq.setReg
  split <;> rfl

theorem State.performEnt_pending (s : State) (c : Nat) (e : LoadEnt) : (s.performEnt c e).pending c = s.pending c := by
  unfold State.performEnt
  dsimp only
  rw [pending_setSq _ _ (Seq.setReg_loads ..)]
  split
  · exact pending_of_still (State.loadMem_still ..) c
  · exact State.amoHome_pending _ _ _ _ _ _ _ _ _ fun t => State.drainTo_pending ..

theorem State.settleLoads_pending (s : State) (c : Nat) : (s.settleLoads c).pending c = ([], (s.pending c).2) := by
  unfold State.settleLoads State.performLoads
  dsimp only
  split
  · next h => exact Prod.ext (List.isEmpty_iff.1 h) rfl
  · refine (foldl_keeps (State.pending · c) _ (fun t e => State.performEnt_pending t c e) _ _).trans ?_
    refine Prod.ext (by simp [State.pending]) (funext fun e => ?_)
    simp only [State.pending]
    split
    · rfl
    · next he => exact waits_setSq_other s _ he

/-! ### Every access under way is performed -/

/-- Performs every pending load of a cluster, then every store of its buffer. -/
def State.performs (s : State) (c : Nat) : State := (s.settleLoads c).drainAll c

@[simp] theorem State.performs_kept (s : State) (c : Nat) : (s.performs c).kept = s.kept :=
  (State.drainAll_kept ..).trans (State.settleLoads_kept ..)

/-- The cluster waits for nothing any more; the others are as they were. -/
theorem State.performs_waits (s : State) (c : Nat) : (s.performs c).waits = Function.update s.waits c ([], []) := by
  have hp := s.settleLoads_pending c
  have hd := waits_of_still (drainAll_frame (s.settleLoads c) c).1.still
  refine hd.trans (funext fun e => ?_)
  by_cases he : e = c
  · subst he
    have hl : ((s.settleLoads e).sq e).loads = [] := congrArg Prod.fst hp
    simp [State.waits, hl]
  · have ho := congrFun (congrArg Prod.snd hp) e
    simp only [State.pending, he, if_false] at ho
    rw [waits_setSq_other _ _ he, ho, Function.update_of_ne he]

theorem foldl_performs_waits (cs : List (Nat × Cluster)) (s : State) (c : Nat)
    (h : c ∈ cs.map Prod.fst ∨ s.waits c = ([], [])) :
    (cs.foldl (fun (s : State) e => s.performs e.1) s).waits c = ([], []) := by
  induction cs generalizing s with
  | nil => simpa using h
  | cons e cs ih =>
    refine ih _ ?_
    rw [State.performs_waits]
    by_cases hc : c = e.1
    · exact .inr (by rw [hc, Function.update_self])
    · rw [Function.update_of_ne hc]
      simpa [hc] using h

theorem Tab.find_of_notMem {V : Type} (t : Tab V) {k : Nat} (h : k ∉ t.map Prod.fst) : t.find k = none := by
  induction t with
  | nil => rfl
  | cons e t ih =>
    simp only [List.map_cons, List.mem_cons, not_or] at h
    obtain ⟨hne, ht⟩ := h
    rw [Tab.find, if_neg (Ne.symm hne), ih ht]

/-- No cluster waits for anything once each that is listed has performed its accesses. -/
theorem performsAll_waits (s : State) (c : Nat) :
    (s.clusters.foldl (fun (s : State) e => s.performs e.1) s).waits c = ([], []) := by
  refine foldl_performs_waits _ s c ?_
  by_cases h : c ∈ s.clusters.map Prod.fst
  · exact .inl h
  · refine .inr ?_
    simp only [State.waits, State.sq, State.cl, Tab.get, Tab.find_of_notMem _ h]
    rfl

/-! ### The cached translations of the range -/

theorem dropTlb_tlb (s : State) (x va len : Nat) {t : TlbEnt} (h : t ∈ (s.dropTlb x va len).tlb) (hx : t.ctx = x)
    (hva : t.vbase < va + len) : t.vbase + t.size ≤ va := by
  have hf := (List.mem_filter.1 h).2
  simp only [hx, hva, beq_self_eq_true, decide_true, Bool.and_true, Bool.true_and, Bool.not_eq_true', decide_eq_false_iff_not] at hf
  omega

/-- Once every access is performed, the translations and tables of the range go, and no command waits. -/
def State.unmapped (s : State) (m : Mapping) : State :=
  let t := (s.dropTlb m.ctx m.va m.len).giveTables m.freed
  t.setPkg { t.pkg with mapping := none }

/-- MAP_COMPLETE of a command that waits, until its end. -/
def State.mapCompleted (s : State) (m : Mapping) : State :=
  (s.clusters.foldl (fun (s : State) e => s.performs e.1) s).unmapped m

theorem unmapped_mailbox (s : State) (m : Mapping) (n : Nat) : (s.unmapped m).mailbox n = s.mailbox n := rfl

theorem foldl_performs_kept (cs : List (Nat × Cluster)) (s : State) :
    (cs.foldl (fun (s : State) e => s.performs e.1) s).kept = s.kept :=
  foldl_keeps State.kept (fun (s : State) (e : Nat × Cluster) => s.performs e.1) (fun t e => State.performs_kept t e.1) cs s

theorem mapCompleted_mailbox (s : State) (m : Mapping) (n : Nat) : (s.mapCompleted m).mailbox n = s.mailbox n :=
  (unmapped_mailbox ..).trans (mailbox_of_kept (foldl_performs_kept s.clusters s) n)

end Sys2Proof.Machine

namespace Sys2Proof

open Machine

theorem mapComplete_idle {s : State} (h : s.pkg.mapping = none) : exec .mapComplete s = .next s := by
  change execMapComplete s = _
  rw [execMapComplete, h]

theorem mapComplete_ends {s : State} {m : Mapping} (h : s.pkg.mapping = some m) :
    fwEnds .mapComplete s m.cmd 0 (fun u => u.pkg.mapping = none ∧ (∀ c, (u.sq c).loads = [] ∧ (u.sq c).sbuf = []) ∧
      ∀ t ∈ u.tlb, t.ctx = m.ctx → t.vbase < m.va + m.len → t.vbase + t.size ≤ m.va) := by
  have he : exec .mapComplete s = .next ((s.mapCompleted m).fwDone m.cmd 0) := by
    change execMapComplete s = _
    rw [execMapComplete, h]
    rfl
  refine fwEnds_of_fwDone he (mapCompleted_mailbox s m _) ⟨by rw [State.fwDone_mapping]; rfl, fun c => ?_, fun t ht => ?_⟩
  · have hw : ((s.mapCompleted m).fwDone m.cmd 0).waits c = ([], []) :=
      (congrFun (State.fwDone_waits ..) c).trans (performsAll_waits s c)
    exact Prod.mk.inj hw
  · rw [State.fwDone_tlb] at ht
    exact dropTlb_tlb _ m.ctx m.va m.len ht

end Sys2Proof
end

section
/-! SUPPORT. The clauses of `Obligations.FirmwareContexts`, command by command. -/

set_option Elab.async false

namespace Sys2Proof

open Machine

/-- What a command leaves, from what is known of it. -/
theorem fwEnds_imp {i : Instr} {s : State} {c : FwCmd} {status : Nat} {p q : State → Prop} (h : fwEnds i s c status p)
    (hpq : ∀ u, p u → q u) : fwEnds i s c status q := by
  obtain ⟨u, he, hbusy, hst, hdone, hp⟩ := h
  exact ⟨u, he, hbusy, hst, hdone, hpq u hp⟩

section
variable {s s1 : State} {c : FwCmd} {b : List Byte}

theorem ctxCreate_busy (h : fwAsks s s1 c b 3) {y : CtxPar} (hb : ctxPar b = some y) (hl : (s.ctx y.ctx).live = true) :
    fwEnds .ctxCreate s c 3 (fun u => u.ctxs = s.ctxs ∧ u.dies = s.dies) := by
  rw [← ctx_of_kept (kept_of_still (fwAsks_still h))] at hl
  exact fwEnds_refused h (by rw [exec_ctxCreate h hb, createCtx_live hl])

theorem ctxCreate_unsupported (h : fwAsks s s1 c b 3) {y : CtxPar} (hb : ctxPar b = some y)
    (hl : (s.ctx y.ctx).live = false) (hr : rightsUnsupported y.rights s.pkg.features = true) :
    fwEnds .ctxCreate s c 6 (fun u => u.ctxs = s.ctxs ∧ u.dies = s.dies) := by
  have hk := kept_of_still (fwAsks_still h)
  rw [← ctx_of_kept hk] at hl
  rw [← features_of_kept hk] at hr
  exact fwEnds_refused h (by rw [exec_ctxCreate h hb, createCtx_unsupported hl hr])

/-- The block of CTX_DESTROY is malformed. -/
theorem destroyForm_iff : (63 < par b 0 || 100000 < par b 2 || !restZero b 3) = true ↔
    63 < par b 0 ∨ 100000 < par b 2 ∨ restZero b 3 = false := by
  simp [or_assoc]

/-- The block of RESET_DIE is malformed. -/
theorem resetForm_iff : (3 < par b 0 || 1 < par b 1 || !restZero b 2) = true ↔
    3 < par b 0 ∨ 1 < par b 1 ∨ restZero b 2 = false := by
  simp [or_assoc]

/-- A command by virtual addresses names a context that is not its own. -/
theorem foreign_iff (x : Nat) : (c.virt && x != c.ctx) = true ↔ c.virt = true ∧ x ≠ c.ctx := by simp

theorem not_foreign {x : Nat} (h : c.virt = true → x = c.ctx) : ¬ (c.virt && x != c.ctx) = true := by
  rw [foreign_iff]
  exact fun ⟨hv, hne⟩ => hne (h hv)

theorem namesCtx_iff : namesCtx b = true ↔ bit (par b 1) 8 = true ∨ bit (par b 1) 9 = true := by simp [namesCtx]

theorem grantsNoBoost_iff : grantsNoBoost s b = true ↔
    bit (par b 1) 9 = true ∧ par b 12 = 1 ∧ bit s.pkg.features 5 = false := by
  simp [grantsNoBoost, and_assoc]

end

end Sys2Proof
end

section
/-! SUPPORT. Contexts, parameters and mappings. -/

set_option Elab.async false

namespace Sys2Proof

open Machine

/-- Settles O56: each command is read once, its branch follows from the state before that, and the end of a command keeps
what is claimed. -/
theorem firmwareContexts : Obligations.FirmwareContexts := by
  unfold Obligations.FirmwareContexts
  refine ⟨?_, ?_, ?_⟩
  · intro s s1 c b x d on v pon ends busy keeps
    have hends : ∀ n, ends n ↔ s.ending n = true := fun n => (s.ending_iff n).symm
    refine ⟨fun h => ?ctxCreate, fun h => ?ctxDestroy, fun h => ?amberCfg, fun h => ?powerCfg, fun h => ?resetDie⟩
    case ctxCreate =>
      refine ⟨fun hb => fwEnds_refused h (exec_ctxCreate_malformed h hb), fun y hb =>
        ⟨ctxCreate_busy h hb, ctxCreate_unsupported h hb, fun hf => fwEnds_imp (ctxCreate_fresh h hb hf) ?_⟩⟩
      rintro u ⟨hu, hother⟩
      dsimp only
      rw [hu]
      exact ⟨rfl, rfl, rfl, rfl, rfl, rfl, rfl, rfl, rfl, hother⟩
    case ctxDestroy =>
      refine ⟨fun hform => ctxDestroy_malformed h (destroyForm_iff.2 hform), fun hx hnotice hrest => ?_⟩
      have hform : ¬ (63 < par b 0 || 100000 < par b 2 || !restZero b 3) = true := by
        rw [destroyForm_iff, hrest]
        simp only [Bool.true_eq_false, or_false]
        omega
      refine ⟨fun hv hne => ctxDestroy_foreign h hform ((foreign_iff x).2 ⟨hv, hne⟩), fun hown => ?_⟩
      have hown := not_foreign hown
      have hlive : (s.ctx x).live = true → ¬ (!(s.ctx x).live) = true := fun hl => by simp [hl]
      exact ⟨fun hl => ctxDestroy_absent h hform hown (by rw [hl]; rfl),
        fun hl hb => ctxDestroy_busy h hform hown (hlive hl) ((hends x).1 hb),
        fun hl hb => ctxDestroy_ends h hform hown (hlive hl) (mt (hends x).2 hb),
        fun hl hb => ctxDestroy_saves h hform hown (hlive hl) (mt (hends x).2 hb)⟩
    case amberCfg =>
      refine ⟨amberCfg_off h, amberCfg_malformed h, fun hf hbad => ⟨fun hb => ?_, fun hb hp => ?_⟩⟩
      · exact amberCfg_busy h hf hbad (hb.imp (hends _).1 (unparks_iff s b).2)
      · refine fwEnds_imp (amberCfg_configures h hf hbad (by simpa [hends] using hb)
          (Bool.eq_false_iff.2 (mt (unparks_iff s b).1 hp))) fun u hu => ?_
        dsimp only [d]
        rw [hu, configure_cfg]
        exact ⟨rfl, rfl, rfl, rfl, rfl, rfl, rfl, rfl, rfl⟩
    case powerCfg =>
      refine ⟨powerCfg_malformed h, fun hbad => ⟨fun hn hl => powerCfg_absent h hbad (namesCtx_iff.2 hn) hl,
        fun hn hl hb => powerCfg_busy h hbad (namesCtx_iff.2 hn) hl ((hends _).1 hb), fun hctx => ?_⟩⟩
      have hctx : namesCtx b = true → (s.ctx (par b 10)).live = true ∧ s.ending (par b 10) = false := fun hn => by
        obtain ⟨hl, hb⟩ := hctx (namesCtx_iff.1 hn)
        exact ⟨hl, by simpa [hends] using hb⟩
      exact ⟨fun h9 h1 hf => powerCfg_unsupported h hbad hctx (grantsNoBoost_iff.2 ⟨h9, h1, hf⟩),
        fun hg => powerCfg_sets h hbad hctx (mt grantsNoBoost_iff.1 hg)⟩
    case resetDie =>
      have hform : d ≤ 3 → par b 1 ≤ 1 → restZero b 2 = true → ¬ (3 < par b 0 || 1 < par b 1 || !restZero b 2) = true := by
        intro hd hforce hrest
        rw [resetForm_iff, hrest]
        simp only [Bool.true_eq_false, or_false]
        omega
      refine ⟨fun hbad => resetDie_malformed h (resetForm_iff.2 hbad), fun hd hforce hrest hw => ?_,
        fun hd hrest hle hforce hp => ?_⟩
      · refine resetDie_holdsWork h (hform hd (by omega) hrest) hforce fun hnil => ?_
        obtain ⟨y, hy, hne⟩ := hw
        exact hne ((workThere_eq_nil s1 d).1 hnil y hy)
      · obtain ⟨u, he, hbusy, hdie, hother⟩ := resetDie_resets h (hform hd hle hrest) (fun ⟨h0, hne⟩ =>
          hforce.elim (by omega) fun hw => hne ((workThere_eq_nil s1 d).2 hw)) hp
        refine ⟨u, he, hbusy, ?_⟩
        dsimp only [d]
        rw [hdie]
        exact ⟨rfl, rfl, rfl, rfl, rfl, rfl, fun n hn => congrArg Die.clock (hother n hn)⟩
  · intro s s1 c b put h i keeps ends
    have hends : ∀ n, ends n ↔ s.ending n = true := fun n => (s.ending_iff n).symm
    refine ⟨map_malformed h, fun y hb => ⟨fun hv hne => map_foreign h hb ((foreign_iff y.ctx).2 ⟨hv, hne⟩), fun hown => ?_⟩⟩
    have hown := not_foreign hown
    refine ⟨map_absent h hb hown, fun hl he => map_busy h hb hown hl ((hends _).1 he), fun hl he => ?_⟩
    have he := mt (hends _).2 he
    refine ⟨fun st hr => map_fails h hb hown hl he hr, fun s2 g hr => ?_, fun s2 t r hm hcount hsize hput hroot ht => ?_⟩
    · have hx := exec_map_of_range h hb hown hl he hr
      refine ⟨fun hput hold => ?_, fun hwait => ?_⟩
      · have hc : (put && !g.old) = true := by simp [hput, hold]
        rwa [if_pos hc] at hx
      · have hw : ¬ (put && !g.old) = true := by rcases hwait with hw | hw <;> simp [hw]
        rw [if_neg hw] at hx
        exact ⟨_, hx, rfl, rfl⟩
    · subst hput
      exact map_writesLeaf h hb hown hl he hm hcount hsize hroot ht
  · exact fun s => ⟨mapComplete_idle, fun m hm => mapComplete_ends hm⟩

end Sys2Proof
end

section
/-! SUPPORT. Copy queues and commands to them: what a write of a queue leaves, what a command that waits or is refused
leaves, and the statements about QFENCE and about CPY, STRM and WTEST. -/

namespace Sys2Proof.Machine

/-! ### Copy queues -/

@[simp] theorem Cluster.cq_setCq_same (k : Cluster) (q : Nat) (x : CopyQueue) : (k.setCq q x).cq q = x :=
  Tab.get_put_same ..

theorem Cluster.cq_setCq_other (k : Cluster) {q p : Nat} (x : CopyQueue) (h : p ≠ q) : (k.setCq q x).cq p = k.cq p :=
  Tab.get_put_other _ _ _ h

@[simp] theorem Die.xq_put_same (k : Die) (q : Nat) (x : XQueue) :
    ({ k with xqs := k.xqs.put q x } : Die).xq q = x := Tab.get_put_same ..

theorem Die.xq_put_other (k : Die) {q p : Nat} (x : XQueue) (h : p ≠ q) :
    ({ k with xqs := k.xqs.put q x } : Die).xq p = k.xq p := Tab.get_put_other _ _ _ h

@[simp] theorem State.xq_setXq_same (s : State) (d q : Nat) (x : XQueue) : ((s.setXq d q x).die d).xq q = x := by
  simp [State.setXq]

theorem State.xq_setXq_other (s : State) (d : Nat) {q p : Nat} (x : XQueue) (h : p ≠ q) :
    ((s.setXq d q x).die d).xq p = (s.die d).xq p := by
  rw [State.setXq, State.die_setDie_same, Die.xq_put_other _ _ h]

theorem Tab.mem_of_find {V : Type} (t : Tab V) {k : Nat} {v : V} (h : t.find k = some v) : (k, v) ∈ t := by
  induction t with
  | nil => cases h
  | cons e t ih =>
    obtain ⟨j, w⟩ := e
    rw [Tab.find] at h
    split at h
    · next hj => cases h; rw [hj]; exact List.mem_cons_self
    · exact List.mem_cons_of_mem _ (ih h)

theorem Tab.find_map {V W : Type} (t : Tab V) (f : V → W) (k : Nat) :
    Tab.find (t.map (fun e => (e.1, f e.2))) k = (t.find k).map f := by
  induction t with
  | nil => rfl
  | cons e t ih =>
    simp only [List.map_cons, Tab.find]
    split
    · rfl
    · exact ih

/-! ### Markers placed and taken away (R65) -/

section
variable {σ α : Type} (g : σ → List α) (step : σ → Nat → σ)

/-- Steps of which each puts `x` behind a list where its number is `i` put it there once, where `i` is among them. -/
theorem foldl_appends_once (x : α) (i : Nat) (h : ∀ s b, g (step s b) = g s ++ if b = i then [x] else []) :
    ∀ (l : List Nat) (s : σ), l.Nodup → g (l.foldl step s) = g s ++ if i ∈ l then [x] else [] := by
  intro l
  induction l with
  | nil => intro s _; simp
  | cons b l ih =>
    intro s hl
    obtain ⟨hb, hl⟩ := List.nodup_cons.1 hl
    rw [List.foldl_cons, ih _ hl, h]
    by_cases hi : b = i
    · subst hi
      simp [hb]
    · simp [hi, Ne.symm hi]

end

/-- Steps of which each sets the list at its key leave at every key the last list set there, for keys that come once. -/
theorem foldl_sets_each {σ α : Type} (g : σ → Nat → List α) (step : σ → Nat × Option (List α) → σ)
    (hs : ∀ s e, g (step s e) e.1 = e.2.getD []) (ho : ∀ s e q, q ≠ e.1 → g (step s e) q = g s q) (q : Nat) :
    ∀ (l : Tab (Option (List α))) (s : σ), (l.map Prod.fst).Nodup →
      g (l.foldl step s) q = match l.find q with | some v => v.getD [] | none => g s q := by
  intro l
  induction l with
  | nil => intro s _; rfl
  | cons e l ih =>
    intro s hl
    obtain ⟨he, hl⟩ := List.nodup_cons.1 hl
    rw [List.foldl_cons, ih _ hl]
    by_cases hq : e.1 = q
    · subst hq
      rw [Tab.find_of_notMem l he, Tab.find, if_pos rfl]
      exact hs s e
    · rw [Tab.find, if_neg hq]
      split
      · rfl
      · exact ho s e q (Ne.symm hq)

/-- `foldl_sets_each` for a table of queues from each of which a marker is taken away. -/
theorem foldl_passes {σ V α : Type} (g : σ → Nat → List α) (step : σ → Nat × Option (List α) → σ)
    (hs : ∀ s e, g (step s e) e.1 = e.2.getD []) (ho : ∀ s e q, q ≠ e.1 → g (step s e) q = g s q)
    {t : Tab V} {d : V} {ents : V → List α} {p cmd : α → Bool} {s : σ} (hd : distinctKeys t) (hemp : ents d = [])
    (hg : ∀ q, g s q = ents (t.get q d)) (hp : ∀ e ∈ t, passMarker p cmd (ents e.2) ≠ none) (q : Nat) :
    some (g ((t.map (fun e => (e.1, passMarker p cmd (ents e.2)))).foldl step s) q) =
      passMarker p cmd (ents (t.get q d)) := by
  have hk : ((t.map (fun e => (e.1, passMarker p cmd (ents e.2)))).map Prod.fst).Nodup := by
    rw [List.map_map]
    exact hd
  rw [foldl_sets_each g step hs ho q _ s hk, Tab.find_map t (fun v => passMarker p cmd (ents v)), hg, Tab.get]
  cases hf : t.find q with
  | none => simp only [Option.map_none, Option.getD_none, hemp]; rfl
  | some v =>
    obtain ⟨l, hl⟩ := Option.ne_none_iff_exists'.1 (hp _ (Tab.mem_of_find t hf))
    simp only [Option.map_some, Option.getD_some, hl]

section
variable (s : State) (c id b : Nat)

theorem State.placeMarker_cq {q : Nat} (hq : q < 8) :
    (((s.placeMarker c id b).cl c).cq q).ents = ((s.cl c).cq q).ents ++ if b = q then [.marker id] else [] := by
  unfold State.placeMarker
  split
  · by_cases hb : b = q
    · subst hb
      simp
    · simp [hb, Cluster.cq_setCq_other _ _ (Ne.symm hb)]
  · have hb : b ≠ q := by omega
    rw [if_neg hb, List.append_nil]
    split
    · dsimp only
      split
      · rw [State.setSlot, State.cl_setCl_same]
        rfl
      · rfl
    · rfl

theorem State.placeMarker_xq (q : Nat) : (((s.placeMarker c id b).die (dieOf c)).xq q).ents =
    ((s.die (dieOf c)).xq q).ents ++ if b = 16 + q then [.marker id c] else [] := by
  unfold State.placeMarker
  split
  · rw [if_neg (by omega), List.append_nil]
    rfl
  · split
    · have hb : b ≠ 16 + q := by omega
      rw [if_neg hb, List.append_nil]
      dsimp only
      split <;> rfl
    · by_cases hb : b = 16 + q
      · subst hb
        simp
      · rw [if_neg hb, List.append_nil, State.xq_setXq_other _ _ _ (by omega)]

/-- A marker leaves the sequencer and the actor as they are. -/
theorem State.placeMarker_sq : ((s.placeMarker c id b).sq c, (s.placeMarker c id b).actor) = (s.sq c, s.actor) := by
  unfold State.placeMarker
  split
  · rw [State.sq_setCl_same]
    rfl
  · split
    · dsimp only
      split
      · rw [State.setSlot, State.sq_setCl_same]
        rfl
      · rfl
    · rfl

end

/-- QFENCE of queues of which none is full places its markers. -/
theorem State.qfence_places (s : State) (c : Nat) {m : Nat} (hm : m < 2 ^ 24)
    (hf : ¬ ∃ b, (b < 24 ∧ m.testBit b = true) ∧ s.fenceFull c b = true) :
    let r := s.qfence c m
    r.1 = 0 ∧ r.2.sq c = s.sq c ∧ r.2.actor = s.actor ∧
    (∀ b, b < 8 → ((r.2.cl c).cq b).ents =
      ((s.cl c).cq b).ents ++ if m.testBit b then [.marker s.pkg.fences] else []) ∧
    (∀ b, b < 8 → ((r.2.die (dieOf c)).xq b).ents =
      ((s.die (dieOf c)).xq b).ents ++ if m.testBit (16 + b) then [.marker s.pkg.fences c] else []) := by
  have h0 : (m / 2 ^ 24 != 0) = false := by simpa using Nat.div_eq_of_lt hm
  have hnone : ((List.range 24).filter (fun b => m.testBit b)).any (fun b => s.fenceFull c b) = false := by
    simp only [List.any_eq_false, List.mem_filter, List.mem_range]
    exact fun b hb hfull => hf ⟨b, hb, hfull⟩
  have hin : ∀ b, b < 24 → (b ∈ (List.range 24).filter (fun b => m.testBit b) ↔ m.testBit b = true) := fun b hb => by
    simp [hb]
  have hnd : ((List.range 24).filter (fun b => m.testBit b)).Nodup := List.nodup_range.filter _
  simp only [State.qfence, h0, hnone, Bool.false_eq_true, if_false]
  split
  · next he =>
    have hno : ∀ b, b < 24 → m.testBit b = false := fun b hb => by
      rw [← Bool.not_eq_true, ← hin b hb, List.isEmpty_iff.1 he]
      exact List.not_mem_nil
    refine ⟨rfl, rfl, rfl, fun b hb => ?_, fun b hb => ?_⟩
    · simp [hno b (by omega)]
    · simp [hno (16 + b) (by omega)]
  · have hkept := foldl_keeps (fun t : State => (t.sq c, t.actor)) (fun t b => t.placeMarker c s.pkg.fences b)
      (fun t b => t.placeMarker_sq c _ b) ((List.range 24).filter (fun b => m.testBit b))
      (s.setPkg { s.pkg with fences := s.pkg.fences + 1 })
    refine ⟨rfl, congrArg Prod.fst hkept, congrArg Prod.snd hkept, fun b hb => ?_, fun b hb => ?_⟩
    · rw [foldl_appends_once (fun t : State => ((t.cl c).cq b).ents) _ (.marker s.pkg.fences) b
        (fun t i => t.placeMarker_cq c _ i hb) _ _ hnd]
      simp only [hin b (by omega)]
      rfl
    · rw [foldl_appends_once (fun t : State => ((t.die (dieOf c)).xq b).ents) _ (.marker s.pkg.fences c) (16 + b)
        (fun t i => t.placeMarker_xq c _ i b) _ _ hnd]
      simp only [hin (16 + b) (by omega)]
      rfl

theorem State.qfence_badMask (s : State) (c : Nat) {m : Nat} (hm : 2 ^ 24 ≤ m) : s.qfence c m = (2, s) := by
  have h0 : (m / 2 ^ 24 != 0) = true := by
    rw [bne_iff_ne]
    exact (Nat.div_pos hm (by decide)).ne'
  simp only [State.qfence, h0, if_true]

theorem State.qfence_full (s : State) (c : Nat) {m : Nat} (hm : m < 2 ^ 24)
    (hf : ∃ b, (b < 24 ∧ m.testBit b = true) ∧ s.fenceFull c b = true) : s.qfence c m = (1, s) := by
  have h0 : (m / 2 ^ 24 != 0) = false := by simpa using Nat.div_eq_of_lt hm
  have hany : ((List.range 24).filter (fun b => m.testBit b)).any (fun b => s.fenceFull c b) = true := by
    simpa [List.any_eq_true, and_assoc] using hf
  simp only [State.qfence, h0, hany, Bool.false_eq_true, if_false, if_true]

/-- A queue that a command heads holds back a marker that stands in it. -/
theorem passMarker_cmd_ahead {α : Type} {p cmd : α → Bool} {e : α} {t : List α} (hp : p e = false) (hc : cmd e = true)
    (ht : ∃ x ∈ t, p x = true) : passMarker p cmd (e :: t) = none := by
  have hany : t.any p = true := List.any_eq_true.2 ht
  simp [passMarker, hp, hc, hany]

theorem State.retireFence_held (s : State) (c n q : Nat) {e : CopyCmd} {t : List QEnt}
    (he : ((s.cl c).cq q).ents = .cmd e :: t) (ht : .marker n ∈ t) : s.retireFence c n = s := by
  have hnone : passMarker (QEnt.isMarker n) QEnt.isCmd (((s.cl c).cq q).ents) = none := by
    rw [he]
    exact passMarker_cmd_ahead rfl rfl ⟨_, ht, beq_self_eq_true n⟩
  have hany : ((s.cl c).cqs.map (fun e => (e.1, passMarker (QEnt.isMarker n) QEnt.isCmd e.2.ents))).any
      (fun e => e.2.isNone) = true := by
    cases hf : (s.cl c).cqs.find q with
    | none =>
      rw [Cluster.cq, Tab.get, hf] at he
      cases he
    | some x =>
      have hx : (s.cl c).cq q = x := by rw [Cluster.cq, Tab.get, hf]; rfl
      rw [List.any_map, List.any_eq_true]
      refine ⟨(q, x), Tab.mem_of_find _ hf, ?_⟩
      rw [← hx]
      exact Option.isNone_iff_eq_none.2 hnone
  simp only [State.retireFence, hany, Bool.true_or, if_true]

/-- No queue of a table holds its marker back. -/
theorem any_isNone_passed {V α : Type} {t : Tab V} {ents : V → List α} {p cmd : α → Bool}
    (hp : ∀ e ∈ t, passMarker p cmd (ents e.2) ≠ none) :
    (t.map (fun e => (e.1, passMarker p cmd (ents e.2)))).any (fun e => e.2.isNone) = false := by
  simp only [List.any_map, List.any_eq_false]
  intro e he hn
  exact hp e he (Option.isNone_iff_eq_none.1 hn)

/-- The markers of a fence that no command holds back leave their queues together. -/
theorem State.retireFence_leaves (s : State) (c n : Nat) (hdc : distinctKeys (s.cl c).cqs)
    (hdx : distinctKeys (s.die (dieOf c)).xqs)
    (hc : ∀ e ∈ (s.cl c).cqs, passMarker (QEnt.isMarker n) QEnt.isCmd e.2.ents ≠ none)
    (hl : ∀ e ∈ (s.cl c).leases, passMarker (PEnt.isMarker n) PEnt.isCmd e.2.q ≠ none)
    (hx : ∀ e ∈ (s.die (dieOf c)).xqs, passMarker (XEnt.isMarker n) XEnt.isCmd e.2.ents ≠ none) :
    let u := s.retireFence c n
    (∀ q, some ((u.cl c).cq q).ents = passMarker (QEnt.isMarker n) QEnt.isCmd ((s.cl c).cq q).ents) ∧
    (∀ q, some ((u.die (dieOf c)).xq q).ents =
      passMarker (XEnt.isMarker n) XEnt.isCmd ((s.die (dieOf c)).xq q).ents) := by
  simp only [State.retireFence, any_isNone_passed hc, any_isNone_passed hl, any_isNone_passed hx, Bool.or_false,
    Bool.false_eq_true, if_false]
  refine ⟨fun q => ?_, foldl_passes (fun t : State => fun q => ((t.die (dieOf c)).xq q).ents) _ (fun t e => ?_)
    (fun t e q hq => ?_) hdx rfl (fun q => rfl) hx⟩
  · rw [foldl_keeps (fun t : State => t.cl c) _ (fun t e => by rfl), State.cl_setCl_same,
      foldl_keeps (fun k : Cluster => k.cq q) _ (fun k e => by rfl)]
    exact foldl_passes (fun k : Cluster => fun q => (k.cq q).ents) _ (fun k e => by rw [Cluster.cq_setCq_same])
      (fun k e q hq => by rw [Cluster.cq_setCq_other _ _ hq]) hdc rfl (fun q => rfl) hc q
  · rw [State.xq_setXq_same]
  · rw [State.xq_setXq_other _ _ _ hq]

end Sys2Proof.Machine

namespace Sys2Proof

open Machine

/-! ### Commands that leave everything but the sequencer -/

theorem wroteReg_cl (s : State) (d : Reg) (v : Word) : ∃ q, (wroteReg s d v).cl s.here = { s.cl s.here with seq := q } :=
  ⟨_, State.cl_setSq_same ..⟩

theorem wroteReg_sameBesideClusters (s : State) (d : Reg) (v : Word) : sameBesideClusters s (wroteReg s d v) :=
  ⟨rfl, rfl, rfl, rfl, rfl, rfl, rfl, rfl, rfl, rfl⟩

/-- A command with plain registers that is refused leaves what `wroteReg` leaves. -/
theorem answers_refused {i : Instr} {d : Reg} {srcs : List Reg} {f : List Word → State → Except Stop (Word × State)}
    {s : State} {v : Word} {p : State → Prop} (he : exec i s = runCmd i d srcs f s) (hd : plainReg d)
    (hs : ∀ r ∈ srcs, plainReg r) (hf : f (srcs.map (srcVal s)) s = .ok (v, s)) (hp : p (wroteReg s d v)) :
    answers i s d v p := answers_of (b := (s.sq s.here).sbuf) he hd hs hf rfl rfl hp

/-- A command with plain registers that waits is tried again (R69, R79). -/
theorem runCmd_waits (i : Instr) {d : Reg} {srcs : List Reg} (f : List Word → State → Except Stop (Word × State))
    (s : State) (hd : plainReg d) (hs : ∀ r ∈ srcs, plainReg r) (hf : f (srcs.map (srcVal s)) s = .error .wait) :
    runCmd i d srcs f s = .next s := by
  have h0 : (some d : Option Reg) ≠ some 60 := by simpa using hd.1
  have hf' : f (srcs.map (fun r => (s.sq s.here).reg r)) s = .error .wait := hf
  simp only [runCmd, readSrcs_plain s s.here _ hs h0, bind, Except.bind, dstOk_plain s s.here hd, Bool.not_true,
    Bool.false_eq_true, if_false, stopped, hf', State.settle]

section
variable {s : State} {d a : Reg} {w : Word} {t : State} {p : State → Prop}

/-- QFENCE of plain registers answers what `State.qfence` gives. -/
theorem qfence_answers (hd : plainReg d) (ha : plainReg a) (hq : s.qfence s.here (srcVal s a).toNat = (w, t))
    (hact : t.actor = s.actor) (hseq : t.sq s.here = s.sq s.here) (hp : p (wroteReg t d w)) :
    answers (.qfence d a) s d w p :=
  answers_of (srcs := [a]) (f := fun vs s => .ok (s.qfence s.here (vs.getD 0 0).toNat)) (b := (s.sq s.here).sbuf) rfl hd (by simpa using ha) (congrArg Except.ok hq) (congrArg Actor.cl hact) hseq hp

end

/-- Settles O25: QFENCE judges its mask, then its queues (`State.qfence_badMask`, `State.qfence_full`,
`State.qfence_places`); its markers leave as `State.retireFence_leaves` says. -/
theorem queueFences : Obligations.QueueFences := by
  unfold Obligations.QueueFences
  intro s d a hd ha m c named full
  have hcl : ∀ v, (wroteReg s d v).clusters.get c {} = { s.cl c with seq := seqHere (wroteReg s d v) } := fun v => by
    rw [seqHere, State.sq, show (wroteReg s d v).here = c from rfl]
    obtain ⟨q, hq⟩ := wroteReg_cl s d v
    rw [hq]
    exact hq
  refine ⟨fun hm => ?_, fun hm hf => ?_, fun hm hf => ?_, fun n hdc _ hdx hpc hpl hpx => ?_, fun n q e t he ht => ?_⟩
  · exact qfence_answers hd ha (s.qfence_badMask c hm) rfl rfl ⟨hcl 2, rfl⟩
  · exact qfence_answers hd ha (s.qfence_full c hm hf) rfl rfl ⟨hcl 1, rfl⟩
  · obtain ⟨hr, hsq, hact, hcq, hxq⟩ := s.qfence_places c hm hf
    have hh : (s.qfence c m).2.here = c := congrArg Actor.cl hact
    refine qfence_answers hd ha (Prod.ext hr rfl) hact hsq ⟨fun b hb => ?_, fun b hb => ?_⟩
    · obtain ⟨q, hq⟩ := wroteReg_cl (s.qfence c m).2 d 0
      rw [hh] at hq
      rw [hq]
      exact hcq b hb
    · exact hxq b hb
  · exact ⟨_, rfl, s.retireFence_leaves c n hdc hdx hpc hpl hpx⟩
  · exact congrArg Host.Outcome.next (s.retireFence_held c n q he ht)

end Sys2Proof
end

section
/-! SUPPORT. CPY, STRM and WTEST (R56, R57, R68, R329): what each answer leaves, and the statement about them. -/

namespace Sys2Proof.Machine

/-! ### The issue word -/

/-- A cluster whose queue `q` has accepted a command of descriptor `d` (R56). -/
def Cluster.accepted (k : Cluster) (q ctx d : Nat) : Cluster :=
  let x := k.cq q
  let cmd : CopyCmd := { desc := d, seq := x.next, ctx := ctx, stamp := k.stamp }
  { k.setCq q { ents := x.ents ++ [.cmd cmd], next := (x.next + 1) % 65536 } with stamp := k.stamp + 1 }

theorem Cluster.accepted_cq_same (k : Cluster) (q ctx d : Nat) : (k.accepted q ctx d).cq q = {
    ents := (k.cq q).ents ++ [.cmd { desc := d, seq := (k.cq q).next, ctx := ctx, stamp := k.stamp }]
    next := ((k.cq q).next + 1) % 65536 } := Tab.get_put_same ..

theorem Cluster.accepted_cq_other (k : Cluster) {q j : Nat} (ctx d : Nat) (h : j ≠ q) :
    (k.accepted q ctx d).cq j = k.cq j := Tab.get_put_other _ _ _ h

/-- A release (R57) leaves of its cluster all but the store buffer. -/
theorem State.releaseAt_cl (s : State) (c : Nat) (sc : Scope) :
    (s.releaseAt c sc).cl c = { s.cl c with seq := { s.sq c with sbuf := [] } } := by
  rw [(releaseAt_frame s c sc).1.cl, State.cl_setSq_same]

section
variable {s : State} {c ctx : Nat} {strm : Bool} {va qn : Word}

theorem copyIssue_full (hq : qn.toNat ≤ 7) (hf : 8 ≤ ((s.cl c).cq qn.toNat).ents.length) :
    s.copyIssue c ctx strm va qn = (1, s) := by
  simp only [State.copyIssue, hq, hf, and_self, if_true]
  rfl

theorem copyIssue_badAddr (hf : 7 < qn.toNat ∨ ((s.cl c).cq qn.toNat).ents.length < 8)
    (hn : (s.cl c).localDesc va.toNat 64 64 = none) : s.copyIssue c ctx strm va qn = (3, s) := by
  have hroom : ¬ (qn.toNat ≤ 7 ∧ 8 ≤ ((s.cl c).cq qn.toNat).ents.length) := by omega
  simp only [State.copyIssue, if_neg hroom, hn]
  rfl

variable {bs : List Byte} (hb : (s.cl c).localDesc va.toNat 64 64 = some bs)
include hb

theorem copyIssue_badQueue (hq : 7 < qn.toNat) : s.copyIssue c ctx strm va qn = (4, s) := by
  have hroom : ¬ (qn.toNat ≤ 7 ∧ 8 ≤ ((s.cl c).cq qn.toNat).ents.length) := by omega
  simp only [State.copyIssue, if_neg hroom, hb, if_pos hq]
  rfl

variable (hq : qn.toNat ≤ 7) (hr : ((s.cl c).cq qn.toNat).ents.length < 8)
include hq hr

theorem copyIssue_badKind (hk : ¬ ((strm = true ↔ (dKind (ofBytes bs) = 2 ∨ dKind (ofBytes bs) = 3)) ∧ dKind (ofBytes bs) ≤ 5)) :
    s.copyIssue c ctx strm va qn = (5, s) := by
  have hroom : ¬ (qn.toNat ≤ 7 ∧ 8 ≤ ((s.cl c).cq qn.toNat).ents.length) := by omega
  have hbad : ((dKind (ofBytes bs) == kStreamIn || dKind (ofBytes bs) == kStreamOut) != strm ||
      decide (5 < dKind (ofBytes bs))) = true := by
    rw [← Bool.not_eq_false, Bool.or_eq_false_iff, bne_eq_false_iff_eq, Bool.eq_iff_iff, decide_eq_false_iff_not, Nat.not_lt,
      Bool.or_eq_true, beq_iff_eq, beq_iff_eq, iff_comm]
    exact hk
  simp only [State.copyIssue, if_neg hroom, hb, if_neg (Nat.not_lt.2 hq), hbad, if_true]
  rfl

theorem copyIssue_accepts (hk : (strm = true ↔ (dKind (ofBytes bs) = 2 ∨ dKind (ofBytes bs) = 3)) ∧ dKind (ofBytes bs) ≤ 5) :
    let k := (s.releaseAt c .cl).cl c
    s.copyIssue c ctx strm va qn = (BitVec.ofNat 64 ((k.cq qn.toNat).next * 65536),
      (s.releaseAt c .cl).setCl c (k.accepted qn.toNat ctx (ofBytes bs))) := by
  have hroom : ¬ (qn.toNat ≤ 7 ∧ 8 ≤ ((s.cl c).cq qn.toNat).ents.length) := by omega
  have hgood : ((dKind (ofBytes bs) == kStreamIn || dKind (ofBytes bs) == kStreamOut) != strm ||
      decide (5 < dKind (ofBytes bs))) = false := by
    rw [Bool.or_eq_false_iff, bne_eq_false_iff_eq, Bool.eq_iff_iff, decide_eq_false_iff_not, Nat.not_lt,
      Bool.or_eq_true, beq_iff_eq, beq_iff_eq, iff_comm]
    exact hk
  simp only [State.copyIssue, if_neg hroom, hb, if_neg (Nat.not_lt.2 hq), hgood, Bool.false_eq_true, if_false,
    issueWord, Nat.zero_add]
  rfl

end

end Sys2Proof.Machine

namespace Sys2Proof

open Machine

/-! ### CPY and STRM -/

/-- CPY, or STRM. -/
def submits (strm : Bool) (d a b : Reg) : Instr := if strm then .strm d a b else .cpy d a b

/-- Their work. -/
def submitRun (strm : Bool) (vs : List Word) (s : State) : Except Stop (Word × State) :=
  s.whenSettled (vs.getD 0 0) 64 (s.copyIssue s.here (s.sq s.here).running.ctx strm (vs.getD 0 0) (vs.getD 1 0))

theorem exec_submits (strm : Bool) (d a b : Reg) (s : State) :
    exec (submits strm d a b) s = runCmd (submits strm d a b) d [a, b] (submitRun strm) s := by
  cases strm <;> rfl

/-- Refused: beside the sequencer nothing has changed. -/
theorem wroteReg_keepsQueues (s : State) (d : Reg) (v : Word) :
    sameBesideClusters s (wroteReg s d v) ∧ ((wroteReg s d v).cl s.here).cqs = (s.cl s.here).cqs ∧
      ((wroteReg s d v).cl s.here).sram = (s.cl s.here).sram := by
  obtain ⟨q, hq⟩ := wroteReg_cl s d v
  rw [hq]
  exact ⟨wroteReg_sameBesideClusters s d v, rfl, rfl⟩

section
variable {s r : State} (q ctx x : Nat) (d : Reg) (w : Word) (hact : r.actor = s.actor)
  (hcl : r.cl s.here = { s.cl s.here with seq := { s.sq s.here with sbuf := [] } })
include hcl

/-- A queue accepts a command after a release (R57): the sequencer keeps all but its stores. -/
theorem accepted_sq : (r.setCl s.here ((r.cl s.here).accepted q ctx x)).sq s.here = { s.sq s.here with sbuf := [] } :=
  (State.sq_setCl_same ..).trans (congrArg Cluster.seq hcl :)

include hact

/-- The command stands last in its queue, and no other queue has changed. -/
theorem accepted_leaves :
    let u := wroteReg (r.setCl s.here ((r.cl s.here).accepted q ctx x)) d w
    let k := s.cl s.here
    (seqHere u).sbuf = [] ∧ (u.cl s.here).sram = k.sram ∧
    (u.cl s.here).cq q = {
      ents := (k.cq q).ents ++ [.cmd { desc := x, seq := (k.cq q).next, ctx := ctx, stamp := k.stamp }]
      next := ((k.cq q).next + 1) % 65536 } ∧
    ∀ j, j ≠ q → (u.cl s.here).cq j = k.cq j := by
  intro u k
  obtain ⟨-, -, hbuf⟩ := wroteReg_nextInstr (s := s) (t := r.setCl s.here ((r.cl s.here).accepted q ctx x))
    ⟨hact, (s.sq s.here).mcLost, accepted_sq q ctx x hcl⟩ d w
  obtain ⟨y, hy⟩ := wroteReg_cl (r.setCl s.here ((r.cl s.here).accepted q ctx x)) d w
  rw [show (r.setCl s.here ((r.cl s.here).accepted q ctx x)).here = s.here from congrArg Actor.cl hact,
    State.cl_setCl_same] at hy
  have hcq : ∀ j, (u.cl s.here).cq j = ((r.cl s.here).accepted q ctx x).cq j :=
    fun j => (congrArg (fun k : Cluster => k.cq j) hy :)
  have hold : ∀ j, (r.cl s.here).cq j = k.cq j := fun j => (congrArg (fun k : Cluster => k.cq j) hcl :)
  have hstamp : (r.cl s.here).stamp = k.stamp := (congrArg Cluster.stamp hcl :)
  have hsram : (r.cl s.here).sram = k.sram := (congrArg Cluster.sram hcl :)
  refine ⟨hbuf, (congrArg Cluster.sram hy :).trans hsram, ?_, fun j hj => ?_⟩
  · rw [hcq, Cluster.accepted_cq_same, hold, hstamp]
  · rw [hcq, Cluster.accepted_cq_other _ _ _ hj, hold]

end

section
variable {s : State} {d a b : Reg} (strm : Bool) (hd : plainReg d) (ha : plainReg a) (hb : plainReg b)
include hd ha hb

theorem submits_waits (hc : s.descCut (srcVal s a).toNat 64 = true) : exec (submits strm d a b) s = .next s :=
  (exec_submits strm d a b s).trans
    (runCmd_waits _ (submitRun strm) s hd (by simp [ha, hb]) (if_pos hc))

/-- CPY and STRM of plain registers answer the issue word, once the descriptor's bank changes no mode. -/
theorem submits_answers (hc : s.descCut (srcVal s a).toNat 64 = false) {w : Word} {t : State} {p : State → Prop}
    {l : List StoreEnt} (hi : s.copyIssue s.here (seqHere s).running.ctx strm (srcVal s a) (srcVal s b) = (w, t))
    (hh : t.here = s.here) (hq : t.sq s.here = { s.sq s.here with sbuf := l }) (hp : p (wroteReg t d w)) :
    answers (submits strm d a b) s d w p := by
  refine answers_of (exec_submits strm d a b s) hd (by simp [ha, hb]) ?_ hh hq hp
  rw [← hi]
  exact if_neg (Bool.not_eq_true _ ▸ hc)

theorem submits_refused (hc : s.descCut (srcVal s a).toNat 64 = false) {w : Word}
    (hi : s.copyIssue s.here (seqHere s).running.ctx strm (srcVal s a) (srcVal s b) = (w, s)) :
    answers (submits strm d a b) s d w (fun u => sameBesideClusters s u ∧ (u.cl s.here).cqs = (s.cl s.here).cqs ∧
      (u.cl s.here).sram = (s.cl s.here).sram) :=
  submits_answers strm hd ha hb hc hi rfl rfl (wroteReg_keepsQueues s d w)

theorem submits_accepted (hc : s.descCut (srcVal s a).toNat 64 = false) {bs : List Byte}
    (hbs : (s.cl s.here).localDesc (srcVal s a).toNat 64 64 = some bs) (hq : (srcVal s b).toNat ≤ 7)
    (hr : ((s.cl s.here).cq (srcVal s b).toNat).ents.length < 8)
    (hk : (strm = true ↔ (dKind (ofBytes bs) = 2 ∨ dKind (ofBytes bs) = 3)) ∧ dKind (ofBytes bs) ≤ 5) :
    let k := s.cl s.here
    let q := (srcVal s b).toNat
    answers (submits strm d a b) s d (BitVec.ofNat 64 ((k.cq q).next * 65536)) (fun u =>
      u.mem = memAfterStores s.mem (seqHere s).sbuf ∧ (seqHere u).sbuf = [] ∧ (u.cl s.here).sram = k.sram ∧
      (u.cl s.here).cq q = {
        ents := (k.cq q).ents ++
          [.cmd { desc := ofBytes bs, seq := (k.cq q).next, ctx := (seqHere s).running.ctx, stamp := k.stamp }]
        next := ((k.cq q).next + 1) % 65536 } ∧
      ∀ j, j ≠ q → (u.cl s.here).cq j = k.cq j) := by
  intro k q
  obtain ⟨hrel, hmem⟩ := releaseAt_frame s s.here .cl
  have hact : (s.releaseAt s.here .cl).actor = s.actor := hrel.actor
  have hcl := s.releaseAt_cl s.here .cl
  have hi := copyIssue_accepts (ctx := (seqHere s).running.ctx) hbs hq hr hk
  have hnext : ((s.releaseAt s.here .cl).cl s.here).cq q = k.cq q := (congrArg (fun k : Cluster => k.cq q) hcl :)
  dsimp only at hi
  rw [hnext] at hi
  exact submits_answers strm hd ha hb hc hi (congrArg Actor.cl hact)
    (accepted_sq q (seqHere s).running.ctx (ofBytes bs) hcl)
    ⟨hmem, accepted_leaves q (seqHere s).running.ctx (ofBytes bs) d _ hact hcl⟩

end

/-! ### WTEST -/

/-- A mask's bits are all set in a word exactly where masking gives the mask. -/
theorem and_eq_mask_iff (w : Nat) (m : Word) :
    BitVec.ofNat 64 w &&& m = m ↔ ∀ i, i < 64 → m.getLsbD i = true → w.testBit i = true := by
  rw [BitVec.eq_of_getLsbD_eq_iff]
  refine forall_congr' fun i => forall_congr' fun hi => ?_
  simp only [BitVec.getLsbD_and, BitVec.getLsbD_ofNat, hi, decide_true, Bool.true_and]
  cases m.getLsbD i <;> simp

section
variable {s : State} {d a b : Reg} (hd : plainReg d) (ha : plainReg a) (hb : plainReg b)
include hd ha hb

theorem wtest_waits (h8 : (srcVal s a).toNat % 8 = 0) (hc : s.descCut (srcVal s a).toNat 8 = true) :
    exec (.wtest d a b) s = .next s := by
  change execWtest d a b s = _
  refine runCmd_waits _ _ s hd (by simp [ha, hb]) ?_
  simp [h8, hc]

theorem wtest_misaligned (h8 : (srcVal s a).toNat % 8 ≠ 0) (hh : hasHandler s) :
    exec (.wtest d a b) s = .next (trapped s 2 (srcVal s a) (seqHere s).pc) := by
  let t : Trap := { cause := tMisalign, val := srcVal s a }
  have hw : t.word = 2 := by simp [t, Trap.word, tMisalign]
  rw [← hw]
  change execWtest d a b s = _
  refine runCmd_trap (t := t) _ _ s hd (by simp [ha, hb]) hh ?_
  simp [h8, t]

theorem wtest_unsuitable (h8 : (srcVal s a).toNat % 8 = 0) (hc : s.descCut (srcVal s a).toNat 8 = false)
    (hu : ¬ (isLocal (srcVal s a).toNat = true ∧ localOff (srcVal s a).toNat < sramEnd ∧
      (s.cl s.here).scratch (localOff (srcVal s a).toNat) 8 = true)) (hh : hasHandler s) :
    ∃ lvl : Nat, exec (.wtest d a b) s =
      .next (trapped s (BitVec.ofNat 64 (4 + 7 * 2 ^ 8 + lvl * 2 ^ 12)) (srcVal s a) (seqHere s).pc) := by
  let t : Trap := { cause := tPermission, xcode := cPermR, xlvl := Config.freeNat s.free % 4, val := srcVal s a }
  refine ⟨Config.freeNat s.free % 4, ?_⟩
  change execWtest d a b s = _
  refine runCmd_trap (t := t) _ _ s hd (by simp [ha, hb]) hh ?_
  have hbad : (!isLocal (srcVal s a).toNat || decide (sramEnd ≤ localOff (srcVal s a).toNat) ||
      !(s.cl s.here).scratch (localOff (srcVal s a).toNat) 8) = true := by
    rw [← Bool.not_eq_false]
    intro hf
    simp only [Bool.or_eq_false_iff, Bool.not_eq_false', decide_eq_false_iff_not, Nat.not_le] at hf
    exact hu ⟨hf.1.1, hf.1.2, hf.2⟩
  simp [h8, hc, hbad, t]

theorem wtest_answers (h8 : (srcVal s a).toNat % 8 = 0) (hc : s.descCut (srcVal s a).toNat 8 = false)
    (hu : isLocal (srcVal s a).toNat = true ∧ localOff (srcVal s a).toNat < sramEnd ∧
      (s.cl s.here).scratch (localOff (srcVal s a).toNat) 8 = true) :
    let w := ofBytes ((s.cl s.here).sram.bytes (localOff (srcVal s a).toNat) 8)
    let same := fun (u : State) => u.mem = s.mem ∧ (u.cl s.here).sram = (s.cl s.here).sram
    ((∀ i, i < 64 → (srcVal s b).getLsbD i = true → w.testBit i = true) → answers (.wtest d a b) s d 1 same) ∧
    ((∃ i, i < 64 ∧ (srcVal s b).getLsbD i = true ∧ w.testBit i = false) → answers (.wtest d a b) s d 0 same) := by
  have hs : ∀ r ∈ [a, b], plainReg r := by simp [ha, hb]
  obtain ⟨hl, ho, hsc⟩ := hu
  have ho := Nat.not_le.2 ho
  have he : exec (.wtest d a b) s = execWtest d a b s := rfl
  unfold execWtest at he
  refine ⟨fun hall => ?_, fun ⟨i, hi, hm, hw⟩ => ?_⟩
  · have hmask := (and_eq_mask_iff _ _).2 hall
    have hf := acquire_frame s (agentSeq s.here)
    have hcl : (s.acquire (agentSeq s.here)).cl s.here = s.cl s.here := hf.cl _
    refine answers_of (s2 := s.acquire (agentSeq s.here)) (b := (s.sq s.here).sbuf) he hd hs ?_
      (congrArg Actor.cl hf.actor) (hf.sq _) ⟨hf.mem, ?_⟩
    · simp [h8, hc, hl, ho, hsc, Cluster.bytes, hmask]
    · obtain ⟨q, hq⟩ := wroteReg_cl (s.acquire (agentSeq s.here)) d 1
      rw [show (s.acquire (agentSeq s.here)).here = s.here from rfl, hcl] at hq
      rw [hq]
  · have hmask := mt (and_eq_mask_iff _ _).1 fun hall => nomatch hw.symm.trans (hall i hi hm)
    refine answers_refused he hd hs ?_ ⟨rfl, (wroteReg_keepsQueues s d 0).2.2⟩
    simp [h8, hc, hl, ho, hsc, Cluster.bytes, hmask]

end

/-- Settles O27: CPY and STRM answer what `State.copyIssue` gives, case by case; WTEST answers by its mask
(`and_eq_mask_iff`). -/
theorem copySubmission : Obligations.CopySubmission := by
  unfold Obligations.CopySubmission
  refine ⟨?submit, ?wtest⟩
  case submit =>
    intro s d a b strm hd ha hb i k q kind issued same cut
    refine ⟨submits_waits strm hd ha hb, fun hc hq hf => ?_, fun hc hf hn => ?_, fun bs hc hbs =>
      ⟨fun hq => ?_, fun hq hr hk h5 => ?_, fun hq hr hk => ?_⟩⟩
    · exact submits_refused strm hd ha hb hc (copyIssue_full hq hf)
    · exact submits_refused strm hd ha hb hc (copyIssue_badAddr hf hn)
    · exact submits_refused strm hd ha hb hc (copyIssue_badQueue hbs hq)
    · exact submits_accepted strm hd ha hb hc hbs hq hr ⟨hk, h5⟩
    · exact submits_refused strm hd ha hb hc (copyIssue_badKind hbs hq hr hk)
  case wtest =>
    intro s d a b hd ha hb
    exact ⟨wtest_waits hd ha hb, wtest_answers hd ha hb, wtest_misaligned hd ha hb, wtest_unsuitable hd ha hb⟩

end Sys2Proof
end

section
/-! SUPPORT. The copy engines' shared operations: heads of queues, ports, posted messages, bitmap words, and what reading
and writing rows leaves. -/

namespace Sys2Proof.Machine

/-! ### The head of a queue -/

theorem Cluster.headCmd_of_cqs {k k' : Cluster} (h : k'.cqs = k.cqs) (q : Nat) : k'.headCmd q = k.headCmd q := by
  simp only [Cluster.headCmd, Cluster.cq, h]

@[simp] theorem Cluster.headCmd_setHead (k : Cluster) (q : Nat) (x : CopyCmd) : (k.setHead q x).headCmd q = some x := by
  rw [Cluster.headCmd, Cluster.setHead, Cluster.cq_setCq_same]

@[simp] theorem Cluster.headCmd_dispatched (k : Cluster) (q : Nat) (x : CopyCmd) :
    (k.dispatched q x).headCmd q = some { x with started := true } := Cluster.headCmd_setHead ..

/-! ### Ports and queues under other operations -/

/-- The parts of a cluster that its copy queues and ports are made of. -/
structure CopySide where
  cqs : Tab CopyQueue
  bankMode : Tab Nat
  bankQs : Tab BankQ
  stages : Tab Stage
  rings : Tab Ring

def Cluster.copySide (k : Cluster) : CopySide :=
  { cqs := k.cqs, bankMode := k.bankMode, bankQs := k.bankQs, stages := k.stages, rings := k.rings }

section
variable {k k' : Cluster} (h : k'.copySide = k.copySide)
include h

theorem Cluster.headCmd_of_copySide (q : Nat) : k'.headCmd q = k.headCmd q :=
  Cluster.headCmd_of_cqs (congrArg CopySide.cqs h) q

theorem Cluster.stage_of_copySide (p : Nat) : k'.stage p = k.stage p :=
  congrArg (fun z : CopySide => z.stages.get p {}) h

theorem Cluster.fifoOf_of_copySide (p : Nat) : k'.fifoOf p = k.fifoOf p :=
  congrArg (fun z : CopySide => (z.bankQs.find? (fun (e : Nat × BankQ) =>
    z.bankMode.get e.1 mScratch == mFifo && e.2.en && e.2.port == p)).map Prod.fst) h

theorem Cluster.portEnded_of_copySide (p : Nat) : k'.portEnded p = k.portEnded p := by
  have hq : k'.bankQs = k.bankQs := congrArg CopySide.bankQs h
  have hr : k'.rings = k.rings := congrArg CopySide.rings h
  simp only [Cluster.portEnded, Cluster.fifoOf_of_copySide h, Cluster.stage_of_copySide h, Cluster.bq, Cluster.ring, hq, hr]

end

theorem Cluster.copySide_write (k : Cluster) (a : Nat) (bs : List Byte) (bad : Bool) : (k.write a bs bad).copySide = k.copySide := by
  simp only [Cluster.copySide, Cluster.write]

theorem Cluster.copySide_putBit (k : Cluster) (cmap i : Nat) (v : Bool) : (k.putBit cmap i v).copySide = k.copySide := by
  unfold Cluster.putBit
  exact Cluster.copySide_write ..

/-- The queues and ports of every cluster. -/
def State.copySides (s : State) : Nat → CopySide := fun c => (s.cl c).copySide

theorem State.copySides_setCl (s : State) (c : Nat) {k : Cluster} (h : k.copySide = (s.cl c).copySide) :
    (s.setCl c k).copySides = s.copySides := by
  funext e
  by_cases he : e = c
  · subst he
    simp only [State.copySides, State.cl_setCl_same, h]
  · simp only [State.copySides, State.cl_setCl_other s k he]

theorem SameButMem.copySides {s t : State} (h : SameButMem s t) : t.copySides = s.copySides :=
  funext fun c => congrArg Cluster.copySide (h.cl c)

/-! ### Posted messages -/

/-- A posted message changes its cluster's channels and held messages only. -/
theorem State.post_cl (s : State) (c sender n : Nat) (m : QMsg) :
    ∃ chans held, (s.post c sender n m).cl c = { s.cl c with chans := chans, held := held } := by
  unfold State.post
  split
  · exact ⟨_, _, State.cl_setCl_same ..⟩
  · unfold State.enqueue
    split
    · exact ⟨_, _, State.cl_setChan_same ..⟩
    · exact ⟨_, _, rfl⟩

/-- A message is queued where nothing is held and its channel has room. -/
theorem State.post_queue {s : State} {c n : Nat} (sender : Nat) (m : QMsg) (hh : (s.cl c).held = [])
    (hr : s.chanRoom c n = true) (hc : s.savedCtx c n = none) :
    ((s.post c sender n m).chan c n).queue = (s.chan c n).queue ++ [m] := by
  simp only [State.post, hh, List.any_nil, hr, Bool.not_true, Bool.or_self, Bool.false_eq_true, if_false, State.enqueue,
    hc, State.chan_setChan_same]

theorem State.copySides_enqueue (s : State) (c n : Nat) (m : QMsg) : (s.enqueue c n m).copySides = s.copySides := by
  unfold State.enqueue
  split
  · exact State.copySides_setCl _ _ rfl
  · rfl

theorem State.copySides_post (s : State) (c sender n : Nat) (m : QMsg) : (s.post c sender n m).copySides = s.copySides := by
  unfold State.post
  split
  · exact State.copySides_setCl _ _ rfl
  · exact State.copySides_enqueue ..

theorem State.copySides_postMc (s : State) (c : Nat) (m : QMsg) : (s.postMc c m).copySides = s.copySides := by
  unfold State.postMc
  split
  · exact State.copySides_enqueue ..
  · exact State.copySides_setCl _ _ rfl

/-! ### Barrier slots (R71) -/

/-- The cluster once slot `b`'s barrier `x` has advanced (R71). -/
def Cluster.advanced (k : Cluster) (b : Nat) (x : Barrier) : Cluster :=
  let w := ofBytes (k.sram.bytes x.mapword 8)
  let k1 := (k.write (x.recAddr + 16) (toBytes 4 ((x.phase + 1) % 2 ^ 32)) false).write x.mapword (toBytes 8 (w - x.mask)) false
  { k1 with bars := k1.bars.put b { x with phase := (x.phase + 1) % 2 ^ 32, arrived := x.arrived - x.expect } }

/-- A barrier advances: all its arrivals are there, and every bit of its mask is set. -/
def Cluster.advances (k : Cluster) (x : Barrier) : Prop :=
  x.expect ≤ x.arrived ∧ ofBytes (k.sram.bytes x.mapword 8) &&& x.mask = x.mask

/-- The message of an advance (R71). -/
def Barrier.advanceMsg (x : Barrier) (b : Nat) : QMsg :=
  { msg := { w0 := BitVec.ofNat 64 (0xF * 2 ^ 8 + b * 2 ^ 12 + x.tag * 2 ^ 16), w1 := BitVec.ofNat 64 ((x.phase + 1) % 2 ^ 32) },
    ctx := x.ctx }

section
variable {s : State} {c b : Nat} (q : Nat)

theorem barEval_empty (h : (s.cl c).bars.find b = none) : s.barEval c q b = s := by
  simp only [State.barEval, h]

theorem barEval_stays {x : Barrier} (h : (s.cl c).bars.find b = some x) (hg : ¬ (s.cl c).advances x) : s.barEval c q b = s := by
  simp only [State.barEval, h]
  exact if_neg hg

theorem barEval_advances {x : Barrier} (h : (s.cl c).bars.find b = some x) (hg : (s.cl c).advances x) :
    s.barEval c q b = (s.setCl c ((s.cl c).advanced b x)).post c (ceOf q) x.chan (x.advanceMsg b) := by
  simp only [State.barEval, h]
  exact if_pos hg

theorem Cluster.copySide_advanced (k : Cluster) (b : Nat) (x : Barrier) : (k.advanced b x).copySide = k.copySide := by
  simp only [Cluster.copySide, Cluster.advanced, Cluster.write]

theorem State.copySides_barEval (s : State) (c q b : Nat) : (s.barEval c q b).copySides = s.copySides := by
  cases h : (s.cl c).bars.find b with
  | none => rw [barEval_empty q h]
  | some x =>
    by_cases hg : (s.cl c).advances x
    · rw [barEval_advances q h hg, State.copySides_post, State.copySides_setCl s c (Cluster.copySide_advanced ..)]
    · rw [barEval_stays q h hg]

theorem State.copySides_barWord (s : State) (c q a : Nat) : (s.barWord c q a).copySides = s.copySides := by
  refine foldl_keeps State.copySides _ (fun t b => ?_) _ s
  split
  · split
    · exact t.copySides_barEval c q b
    · rfl
  · rfl

/-- Where no slot is armed no bitmap word is watched. -/
theorem barWord_unarmed (s : State) (c q a : Nat) (h : (s.cl c).bars = []) : s.barWord c q a = s := by
  have hn : ∀ b, (s.cl c).bars.find b = none := fun b => by rw [h]; rfl
  unfold State.barWord
  generalize List.range 16 = l
  induction l with
  | nil => rfl
  | cons b l ih =>
    rw [List.foldl_cons, hn b]
    exact ih

theorem barArrive_unarmed (h : (s.cl c).bars.find b = none) : s.barArrive c q b = (false, s) := by
  simp only [State.barArrive, h]

/-- A cluster that has counted an arrival at slot `b`, which held `x`. -/
def Cluster.counted (k : Cluster) (b : Nat) (x : Barrier) : Cluster :=
  { k with bars := k.bars.put b { x with arrived := x.arrived + 1 } }

/-- An arrival that no other falls together with is counted, and the slot evaluated (R71). -/
theorem barArrive_alone {x : Barrier} (h : (s.cl c).bars.find b = some x)
    (ha : ∀ p y, p ≠ q → (s.cl c).headCmd p = some y → y.arrived = true ∨ dBar y.desc ≠ b) :
    s.barArrive c q b = (true, (s.setCl c ((s.cl c).counted b x)).barEval c q b) := by
  have hm : s.arrivalMates c q b = [] := by
    rw [State.arrivalMates, List.filter_eq_nil_iff]
    intro p _ hp
    simp only [Bool.and_eq_true, bne_iff_ne] at hp
    obtain ⟨hne, hp⟩ := hp
    split at hp
    · cases hp
    · next y hy =>
      have hor := ha p y hne hy
      simp only [Bool.and_eq_true, Bool.not_eq_true', beq_iff_eq] at hp
      simp [hp.1.1, hp.1.2] at hor
  simp only [State.barArrive, h, hm, List.isEmpty_nil, if_true, List.filter_nil, List.foldl_nil, List.length_nil, Nat.add_zero,
    Cluster.counted]

/-- Such an arrival where the slot does not advance. -/
theorem barArrive_counts {x : Barrier} (h : (s.cl c).bars.find b = some x)
    (ha : ∀ p y, p ≠ q → (s.cl c).headCmd p = some y → y.arrived = true ∨ dBar y.desc ≠ b)
    (hg : ¬ (s.cl c).advances { x with arrived := x.arrived + 1 }) :
    s.barArrive c q b = (true, s.setCl c ((s.cl c).counted b x)) := by
  rw [barArrive_alone q h ha, barEval_stays q (x := { x with arrived := x.arrived + 1 })]
  · rw [State.cl_setCl_same]
    exact Tab.find_put_same ..
  · rw [State.cl_setCl_same]
    exact hg

/-- Such an arrival where the slot advances. -/
theorem barArrive_advances {x : Barrier} (h : (s.cl c).bars.find b = some x)
    (ha : ∀ p y, p ≠ q → (s.cl c).headCmd p = some y → y.arrived = true ∨ dBar y.desc ≠ b)
    (hg : (s.cl c).advances { x with arrived := x.arrived + 1 }) :
    s.barArrive c q b = (true, (s.setCl c (((s.cl c).counted b x).advanced b { x with arrived := x.arrived + 1 })).post c
      (ceOf q) x.chan (x.advanceMsg b)) := by
  rw [barArrive_alone q h ha, barEval_advances q (x := { x with arrived := x.arrived + 1 }), State.cl_setCl_same,
    State.setCl_setCl]
  · rfl
  · rw [State.cl_setCl_same]
    exact Tab.find_put_same ..
  · rw [State.cl_setCl_same]
    exact hg

end

/-! ### Staging buffers: ports without a FIFO bank (R86) -/

section
variable {k : Cluster} {p : Nat} (hp : p < 32) (hf : k.fifoOf p = none)
include hp

theorem portStalls_edge (cmd : CopyCmd) (push : Bool) (n : Nat) (h : dPort cmd.desc = p) :
    k.portStalls cmd push n = false := by
  have hge : ¬ 32 ≤ p := by omega
  simp [Cluster.portStalls, h, hge]

theorem portPoppable_edge : k.portPoppable p = true := by simp [Cluster.portPoppable, hp]

include hf

theorem portRoom_stage : k.portRoom p = 512 - (k.stage p).data.length := by simp [Cluster.portRoom, hp, hf]

theorem portFill_stage : k.portFill p = (k.stage p).data.length := by simp [Cluster.portFill, hp, hf]

theorem portEnded_stage : k.portEnded p = (k.stage p).ended := by simp [Cluster.portEnded, hp, hf]

theorem portPeek_stage (n : Nat) : k.portPeek p n = (k.stage p).data.take n := by simp [Cluster.portPeek, hp, hf]

theorem portPush_stage (bs : List (Byte × Bool)) : k.portPush p bs =
    { k with stages := k.stages.put p { k.stage p with data := (k.stage p).data ++ bs } } := by
  simp [Cluster.portPush, hp, hf]

theorem portPop_stage (n : Nat) : k.portPop p n =
    { k with stages := k.stages.put p { k.stage p with data := (k.stage p).data.drop n } } := by
  simp [Cluster.portPop, hp, hf]

theorem setPortEnd_stage (v : Bool) : k.setPortEnd p v =
    { k with stages := k.stages.put p { k.stage p with ended := v } } := by
  simp [Cluster.setPortEnd, hp, hf]

end

/-- The first entry of a table that passes a test stands at key `b`; it still does once what the table reads at `b` has been
replaced by a value that passes where the old one did. -/
theorem Tab.find?_put {V : Type} (P : Nat → V → Bool) {b : Nat} {x d : V} (t : Tab V) (hx : P b x = P b (t.get b d))
    (hb : (t.find? (fun e => P e.1 e.2)).map Prod.fst = some b) :
    ((t.put b x).find? (fun e => P e.1 e.2)).map Prod.fst = some b := by
  induction t with
  | nil => cases hb
  | cons e t ih =>
    obtain ⟨j, v⟩ := e
    rw [Tab.put]
    split
    · rw [List.find?_cons]
      split
      · rfl
      · exact hb
    · split
      · next hj =>
        subst hj
        rw [Tab.get, Tab.find, if_pos rfl, Option.getD_some] at hx
        rw [List.find?_cons] at hb ⊢
        simp only [hx]
        split
        · rfl
        · next hv =>
          simp only [hv] at hb
          exact hb
      · next hlt hne =>
        have hjb : ¬ j = b := fun h => hne h.symm
        rw [Tab.get, Tab.find, if_neg hjb] at hx
        rw [List.find?_cons] at hb ⊢
        split
        · next hv =>
          simp only [hv] at hb
          exact absurd (Option.some.inj hb) hjb
        · next hv =>
          simp only [hv] at hb
          exact ih hx hb

/-- A port's END reads as it was set. -/
theorem portEnded_setPortEnd (k : Cluster) (p : Nat) (v : Bool) : (k.setPortEnd p v).portEnded p = v := by
  by_cases hp : p < 32
  · cases hf : k.fifoOf p with
    | none =>
      have he := setPortEnd_stage hp hf v
      have hf' : (k.setPortEnd p v).fifoOf p = none := by rw [he]; exact hf
      rw [portEnded_stage hp hf', he]
      exact congrArg Stage.ended (Tab.get_put_same ..)
    | some b =>
      have he : k.setPortEnd p v = k.setBq b { k.bq b with fend := v } := by simp only [Cluster.setPortEnd, hp, if_true, hf]
      have hf' : (k.setPortEnd p v).fifoOf p = some b := by
        rw [he]
        exact Tab.find?_put (fun i (e : BankQ) => k.mode i == mFifo && e.en && e.port == p) k.bankQs (d := {}) rfl hf
      have hend : ((k.setPortEnd p v).bq b).fend = v := by
        rw [he]
        exact congrArg BankQ.fend (Tab.get_put_same ..)
      simp only [Cluster.portEnded, hp, if_true, hf', hend]
  · simp only [Cluster.setPortEnd, Cluster.portEnded, if_neg hp, Cluster.ring, Cluster.setRing, Tab.get_put_same]

/-! ### Rows read from and written to banks -/

/-- Bytes of the banks, each with its mark. -/
def Cluster.markedBytes (k : Cluster) (a n : Nat) : List (Byte × Bool) :=
  (List.range n).map (fun i => (k.sram.byte (a + i), k.sramPoison.contains ((a + i) / 32)))

@[simp] theorem Cluster.markedBytes_length (k : Cluster) (a n : Nat) : (k.markedBytes a n).length = n := by
  simp [Cluster.markedBytes]

@[simp] theorem Cluster.markedBytes_fst (k : Cluster) (a n : Nat) : (k.markedBytes a n).map Prod.fst = k.sram.bytes a n := by
  simp [Cluster.markedBytes, Mem.bytes]

section
variable {s : State} {c q a : Nat} {cmd : CopyCmd}

theorem copyRead_bank {n : Nat} (hs : dSspace cmd.desc = 1) (hw : (s.cl c).stalls (some cmd.stamp) 1 cmd.ctx a n = false)
    (hc : (s.cl c).cutting a n = false) :
    s.copyRead c q cmd a n = some (.ok ((s.cl c).markedBytes a n), s) := by
  simp [State.copyRead, hs, hw, hc, Cluster.markedBytes]

/-- Bytes written to banks stand there; queues and ports are as before. -/
theorem copyWrite_bank {bs : List (Byte × Bool)} (hd : dDspace cmd.desc = 1)
    (hw : (s.cl c).stalls (some cmd.stamp) 1 cmd.ctx a bs.length = false) (hc : (s.cl c).cutting a bs.length = false) :
    ∃ k, s.copyWrite c q cmd a bs = some (none, s.setCl c k) ∧ k.sram = (s.cl c).sram.setBytes a (bs.map Prod.fst) ∧
      k.copySide = (s.cl c).copySide := by
  simp only [State.copyWrite, hd, hw, hc, beq_self_eq_true, Bool.and_false, Bool.or_self, Bool.false_eq_true, if_false,
    if_true]
  refine ⟨_, rfl, ?_⟩
  rw [← Prod.mk.injEq]
  refine (foldl_keeps (fun k : Cluster => (k.sram, k.copySide)) _ (fun k i => ?_) _ _).trans ?_
  · split <;> rfl
  · rw [Cluster.copySide_write, Cluster.write, plain]

end

/-! ### Engines' writes to global memory leave queues and ports -/

theorem State.copySides_freshWalk (s : State) (die mcl ctx va : Nat) (k : AccKind) :
    (s.freshWalk die mcl ctx va k).2.2.copySides = s.copySides := by
  unfold State.freshWalk
  split
  · split
    · rfl
    · exact State.copySides_postMc ..
  · split
    · exact (setAD_frame s die _ _).copySides
    · rfl

theorem State.copySides_translate (s : State) (owner die mcl ctx : Nat) (k : AccKind) (va : Nat) :
    (s.translate owner die mcl ctx k va).2.copySides = s.copySides := by
  unfold State.translate
  split
  · split
    · split
      · exact State.copySides_freshWalk ..
      · rfl
    · exact State.copySides_freshWalk ..
  · exact State.copySides_freshWalk ..

theorem State.copySides_storeLines (agent n : Nat) (s : State) (pa : Nat) (bs : List Byte) :
    (State.storeLines agent n s pa bs).copySides = s.copySides := by
  fun_induction State.storeLines
  case case1 => rfl
  case case2 => rfl
  case case3 ih => exact ih.trans (storeHome_frame ..).1.copySides

theorem State.copySides_storeMarked (s : State) (w : Who) (pa : Nat) (bs : List (Byte × Bool)) :
    (s.storeMarked w pa bs).copySides = s.copySides := by
  unfold State.storeMarked
  split
  · rfl
  · dsimp only
    split
    · exact State.copySides_storeLines ..
    · exact (storeHome_frame ..).1.copySides

theorem State.copySides_engWriteF (w : Who) (ctx n : Nat) (s : State) (va : Nat) (bs : List (Byte × Bool)) :
    (State.engWriteF w ctx n s va bs).2.copySides = s.copySides := by
  induction n generalizing s va bs with
  | zero => rfl
  | succ n ih =>
    have ht := s.copySides_translate w.owner w.die w.mcl ctx .write va
    unfold State.engWriteF
    split
    · rfl
    · dsimp only
      split
      · next he => rw [he] at ht; exact ht
      · next pa mt s1 he =>
        rw [he] at ht
        refine (ih ..).trans (Eq.trans ?_ ht)
        split
        · rfl
        · exact State.copySides_storeMarked ..

/-- A copy engine's write leaves queues and ports, whether it fails or not. -/
theorem State.copySides_copyWrite {s t : State} {c q a : Nat} {cmd : CopyCmd} {bs : List (Byte × Bool)} {f : AFail}
    (h : s.copyWrite c q cmd a bs = some (some f, t)) : t.copySides = s.copySides := by
  unfold State.copyWrite at h
  dsimp only at h
  split at h
  · cases h
  · split at h
    · cases h
    · rw [show t = (s.engWrite (whoCe c q) cmd.ctx a bs).2 from congrArg Prod.snd (Option.some.inj h).symm]
      exact State.copySides_engWriteF ..

end Sys2Proof.Machine
end

section
/-! SUPPORT. Copy commands that start and rows that move (R59 to R62, R64, R69), and the statement about them. -/

namespace Sys2Proof.Machine

/-! ### What holds a command back at its dispatch -/

section
variable {s : State} {c q : Nat} {cmd : CopyCmd} (hh : (s.cl c).headCmd q = some cmd)
include hh

/-- A command that is dispatched has not been written by its context's save, and need not wait. -/
theorem free_of_mayDispatch (h : s.mayDispatch c q = true) :
    s.saveWritten c cmd.ctx = false ∧ (s.cl c).headWaits cmd = false := by
  simp only [State.mayDispatch, Bool.and_eq_true, beq_iff_eq] at h
  have hc := List.find?_some h.1
  simp only [State.canDispatch, hh, Bool.and_eq_true, Bool.not_eq_true'] at hc
  exact ⟨hc.1.2, hc.2⟩

theorem mayDispatch_saved (h : s.saveWritten c cmd.ctx = true) : s.mayDispatch c q = false :=
  Bool.eq_false_iff.2 fun hm => nomatch h.symm.trans (free_of_mayDispatch hh hm).1

theorem mayDispatch_waits (h : (s.cl c).headWaits cmd = true) : s.mayDispatch c q = false :=
  Bool.eq_false_iff.2 fun hm => nomatch h.symm.trans (free_of_mayDispatch hh hm).2

end

theorem headWaits_port {k : Cluster} {x : CopyCmd} (hv : k.validate x = 0) (hk : dKind x.desc = 2 ∨ dKind x.desc = 3)
    (hp : k.portBusy (dPort x.desc) = true) : k.headWaits x = true := by
  have hs : x.isStream = true := by simpa [CopyCmd.isStream, kStreamIn, kStreamOut] using hk
  simp [Cluster.headWaits, hv, hs, hp]

theorem headWaits_start {k : Cluster} {x : CopyCmd} (hv : k.validate x = 0) (hs : k.startStalls x = true) :
    k.headWaits x = true := by
  simp [Cluster.headWaits, hv, hs]

/-! ### The start -/

section
variable {s : State} {c q : Nat} {cmd : CopyCmd}

theorem copyStart_waits (hm : s.mayDispatch c q = false) : s.copyStart c q cmd = s := by
  simp [State.copyStart, hm]

theorem copyStart_invalid (hm : s.mayDispatch c q = true) (hv : (s.cl c).validate cmd ≠ 0) :
    s.copyStart c q cmd =
      s.setCl c ((s.cl c).dispatched q { cmd with finished := true, status := (s.cl c).validate cmd }) := by
  simp [State.copyStart, hm, hv]

/-- The row mask that a command reads as it starts (R61). -/
def Cluster.rowMask (k : Cluster) (d : Nat) : Nat :=
  if dKind d = kMaskrows then ofBytes (k.bytes (dAux d) ((dN1 d + 7) / 8)) % 2 ^ dN1 d else 0

/-- The rows that a mask selects, counted (R61). -/
theorem popCount_mod (n x : Nat) :
    popCount n (x % 2 ^ n) = ((Finset.range n).filter (fun j => x.testBit j = true)).card := by
  have hb : ∀ j ∈ List.range n, (x % 2 ^ n).testBit j = x.testBit j := fun j hj => by
    simp [Nat.testBit_mod_two_pow, List.mem_range.1 hj]
  rw [popCount, List.filter_congr hb, Finset.card_def]
  simp [Finset.range, Multiset.range, Multiset.filter_coe]

/-- A choice between two values of which `p` sees the same. -/
theorem ite_keeps {α β : Type} (p : α → β) {P : Prop} [Decidable P] {a b : α} (h : p a = p b) :
    p (if P then a else b) = p b := by
  split
  · exact h
  · rfl

/-- A valid command that starts stands started at the head of its queue, with its rows counted and, for a stream, its
port's END cleared (R62, R64). -/
theorem copyStart_starts (hm : s.mayDispatch c q = true) (hv : (s.cl c).validate cmd = 0) :
    ∃ c2, ((s.copyStart c q cmd).cl c).headCmd q = some c2 ∧ c2.started = true ∧ c2.desc = cmd.desc ∧
      c2.written = cmd.written ∧ c2.status = cmd.status ∧
      c2.packed = popCount (dN1 cmd.desc) ((s.cl c).rowMask cmd.desc) ∧
      (cmd.isStream = true → ((s.copyStart c q cmd).cl c).portEnded (dPort cmd.desc) = false) := by
  simp only [State.copyStart, hm, hv, Bool.not_true, Bool.false_eq_true, if_false, bne_self_eq_false]
  have hwords := fun (ws : List Nat) (t : State) =>
    congrFun (foldl_keeps State.copySides (fun t w => t.barWord c q w) (fun t w => t.copySides_barWord c q w) ws t) c
  have hbits := fun (p : Nat) (v : Bool) (l : List Nat) (k : Cluster) =>
    foldl_keeps (fun k : Cluster => k.portEnded p) (fun k i => k.putBit (dCmap cmd.desc) (dCfirst cmd.desc + i) v)
      (fun k i => Cluster.portEnded_of_copySide (k.copySide_putBit ..) p) l k
  refine ⟨_, (Cluster.headCmd_of_copySide (hwords _ _) q).trans ((congrArg (Cluster.headCmd · q)
    (State.cl_setCl_same ..)).trans (Cluster.headCmd_dispatched ..)), rfl, rfl, rfl, rfl, rfl, fun hs => ?_⟩
  · rw [Cluster.portEnded_of_copySide (hwords _ _), State.cl_setCl_same]
    refine (hbits _ true _ _).trans ((ite_keeps (Cluster.portEnded · _)
      (Cluster.portEnded_of_copySide (Cluster.copySide_write ..) _)).trans
      ((ite_keeps (Cluster.portEnded · _) (hbits _ false _ _)).trans ?_))
    exact (congrArg (Cluster.portEnded · _) (if_pos hs)).trans (portEnded_setPortEnd ..)

end

/-! ### A row -/

section
variable {s s1 s2 : State} {c q : Nat} {cmd : CopyCmd}

theorem copyRow_waits (h : s.copyRead c q cmd (cmd.src cmd.row) (dRowBytes cmd.desc) = none) : s.copyRow c q cmd = s := by
  simp only [State.copyRow, h]

theorem copyRow_readFails {f : AFail}
    (h : s.copyRead c q cmd (cmd.src cmd.row) (dRowBytes cmd.desc) = some (.error f, s1)) :
    s.copyRow c q cmd = s1.setCl c ((s1.cl c).setHead q (cmd.fail f)) := by
  simp only [State.copyRow, h]

variable {bs : List (Byte × Bool)} (h : s.copyRead c q cmd (cmd.src cmd.row) (dRowBytes cmd.desc) = some (.ok bs, s1))
include h

theorem copyRow_writeFails {f : AFail} (hw : s1.copyWrite c q cmd (cmd.dst cmd.row) bs = some (some f, s2)) :
    s.copyRow c q cmd = s2.setCl c ((s2.cl c).setHead q (cmd.failWrite f (cmd.dst cmd.row))) := by
  simp only [State.copyRow, h, hw]

theorem copyRow_moves (hw : s1.copyWrite c q cmd (cmd.dst cmd.row) bs = some (none, s2)) :
    s.copyRow c q cmd = s2.setCl c ((s2.cl c).setHead q
      { cmd with row := cmd.row + 1, written := cmd.written + dRowBytes cmd.desc,
                 poisoned := cmd.poisoned || anyPoison bs, finished := decide (cmd.row + 1 = cmd.rows) }) := by
  simp only [State.copyRow, h, hw]

end

/-! ### The steps of a command -/

section
variable {s : State} {q : BitVec 3} {cmd : CopyCmd} (hh : (s.cl s.here).headCmd q.toNat = some cmd)
  (hf : cmd.finished = false)
include hh hf

theorem copyStep_starts {kd : Nat} (hk : dKind cmd.desc = kd) (hs : cmd.started = false) :
    s.copyStep kd q.toNat = s.copyStart s.here q.toNat cmd := by
  simp [State.copyStep, hh, hk, hs, hf]

theorem copyStep_moves {kd : Nat} (hk : dKind cmd.desc = kd) (hs : cmd.started = true) :
    s.copyStep kd q.toNat = s.copyRow s.here q.toNat cmd := by
  simp [State.copyStep, hh, hk, hs, hf]

omit hf in
theorem streamStart_starts {kd : Nat} (hk : dKind cmd.desc = kd) (hs : cmd.started = false) :
    s.streamStart kd q.toNat = s.copyStart s.here q.toNat cmd := by
  simp [State.streamStart, hh, hk, hs]

/-- A row's step, of whichever kind. -/
theorem exec_row (hs : cmd.started = true) (hk : dKind cmd.desc = 0 ∨ dKind cmd.desc = 1) :
    exec (if dKind cmd.desc = 0 then .copy q else .maskrows q) s = .next (s.copyRow s.here q.toNat cmd) := by
  obtain hk | hk := hk
  · rw [if_pos hk]
    exact congrArg Host.Outcome.next (copyStep_moves hh hf hk hs)
  · rw [if_neg (by omega)]
    exact congrArg Host.Outcome.next (copyStep_moves hh hf hk hs)

end

end Sys2Proof.Machine

namespace Sys2Proof

open Machine

section
variable {s : State} {q : BitVec 3} {cmd : CopyCmd} (hh : (s.cl s.here).headCmd q.toNat = some cmd)
  (hf : cmd.finished = false)
include hh hf

/-- The first step of a command of any of the four kinds is its start. -/
theorem start_leaves (hs : cmd.started = false) {p : State → Prop} (hp : p (s.copyStart s.here q.toNat cmd)) :
    (dKind cmd.desc = 0 → leaves (.copy q) s p) ∧ (dKind cmd.desc = 1 → leaves (.maskrows q) s p) ∧
    (dKind cmd.desc = 2 → leaves (.streamin q) s p) ∧ (dKind cmd.desc = 3 → leaves (.streamout q) s p) :=
  ⟨fun hk => ⟨_, congrArg Host.Outcome.next (copyStep_starts hh hf hk hs), hp⟩,
    fun hk => ⟨_, congrArg Host.Outcome.next (copyStep_starts hh hf hk hs), hp⟩,
    fun hk => ⟨_, congrArg Host.Outcome.next (streamStart_starts hh hk hs), hp⟩,
    fun hk => ⟨_, congrArg Host.Outcome.next (streamStart_starts hh hk hs), hp⟩⟩

variable (hs : cmd.started = true) (hk : dKind cmd.desc = 0 ∨ dKind cmd.desc = 1)
include hs hk

theorem row_leaves {u : State} {p : State → Prop} (hu : s.copyRow s.here q.toNat cmd = u) (hp : p u) :
    leaves (if dKind cmd.desc = 0 then .copy q else .maskrows q) s p :=
  ⟨u, (exec_row hh hf hs hk).trans (congrArg _ hu), hp⟩

/-- A row between banks (R60, R61). -/
theorem bankRow_leaves (hsrc : dSspace cmd.desc = 1) (hdst : dDspace cmd.desc = 1) :
    let k := s.cl s.here
    let n := dRowBytes cmd.desc
    k.stalls (some cmd.stamp) 1 cmd.ctx (cmd.src cmd.row) n = false → k.cutting (cmd.src cmd.row) n = false →
    k.stalls (some cmd.stamp) 1 cmd.ctx (cmd.dst cmd.row) n = false → k.cutting (cmd.dst cmd.row) n = false →
    leaves (if dKind cmd.desc = 0 then .copy q else .maskrows q) s (fun u => u.mem = s.mem ∧
      (u.cl s.here).sram = k.sram.setBytes (cmd.dst cmd.row) (k.sram.bytes (cmd.src cmd.row) n) ∧
      ∃ c2, (u.cl s.here).headCmd q.toNat = some c2 ∧ c2.row = cmd.row + 1 ∧ c2.written = cmd.written + n ∧
        c2.status = cmd.status ∧ (c2.finished = true ↔ cmd.row + 1 = cmd.rows)) := by
  intro k n hst hct hst' hct'
  obtain ⟨k2, hw, hsram, -⟩ := copyWrite_bank (s := s) (c := s.here) (q := q.toNat) (a := cmd.dst cmd.row)
    (bs := k.markedBytes (cmd.src cmd.row) n) hdst (by rwa [Cluster.markedBytes_length]) (by rwa [Cluster.markedBytes_length])
  refine row_leaves hh hf hs hk (copyRow_moves (copyRead_bank hsrc hst hct) hw) ⟨rfl, ?_, ?_⟩
  · rw [State.cl_setCl_same, State.cl_setCl_same, ← Cluster.markedBytes_fst]
    exact hsram
  · rw [State.cl_setCl_same]
    exact ⟨_, Cluster.headCmd_setHead .., rfl, rfl, rfl, decide_eq_true_iff⟩

end

/-- Settles O28: a command's first step is its start (`start_leaves`), which waits, fails or stands started; each later
one is a row (`row_leaves`). -/
theorem copyRows : Obligations.CopyRows := by
  unfold Obligations.CopyRows
  refine ⟨?start, ?row⟩
  case start =>
    intro s q cmd hh hs hf k kd step picked
    have waits : s.mayDispatch s.here q.toNat = false → step (fun u => u = s) := fun hm =>
      start_leaves hh hf hs (copyStart_waits hm)
    refine ⟨fun hm hv => start_leaves hh hf hs ?_, fun hv hk hp => waits (mayDispatch_waits hh (headWaits_port hv hk hp)),
      fun hv hst => waits (mayDispatch_waits hh (headWaits_start hv hst)), fun hsv => waits (mayDispatch_saved hh hsv),
      fun hm => waits (Bool.eq_false_iff.2 hm), fun hm hv => start_leaves hh hf hs ⟨State.copyStart_mem .., ?_⟩⟩
    · rw [copyStart_invalid hm hv]
      refine ⟨rfl, ?_, ?_⟩
      · rw [State.cl_setCl_same]
        rfl
      · rw [State.cl_setCl_same, Cluster.headCmd_dispatched]
    · obtain ⟨c2, hc2, hst, hd, hw, hstat, hpk, hend⟩ := copyStart_starts hm hv
      refine ⟨c2, hc2, hst, hd, hw, hstat, fun hkd => ?_, fun hkd => hend ?_⟩
      · rw [hpk, Cluster.rowMask, if_pos (show dKind cmd.desc = kMaskrows from hkd), popCount_mod]
        rfl
      · simpa [CopyCmd.isStream, kStreamIn, kStreamOut] using hkd
  case row =>
    intro s q cmd hh hs hf hk k i n
    refine ⟨bankRow_leaves hh hf hs hk, fun f s1 hr => row_leaves hh hf hs hk (copyRow_readFails hr) ?_,
      fun bs s1 f s2 hr hw => row_leaves hh hf hs hk (copyRow_writeFails hr hw) ?_,
      fun hr => (exec_row hh hf hs hk).trans (congrArg _ (copyRow_waits hr))⟩
    · rw [State.cl_setCl_same, Cluster.headCmd_setHead]
      rfl
    · rw [State.cl_setCl_same, Cluster.headCmd_setHead]
      rfl

end Sys2Proof
end

section
/-! SUPPORT. Streams between banks and edge ports, arrival barriers, and the completion of chunks and commands (R62, R63,
R66, R67, R70, R71), and the statement about them. -/

namespace Sys2Proof.Machine

/-! ### Streams -/

/-- The bytes of the present row that a stream has not moved. -/
def CopyCmd.left (x : CopyCmd) : Nat := dRowBytes x.desc - x.pos % dRowBytes x.desc

/-- Where a stream's next byte is read, or written. -/
def CopyCmd.srcAt (x : CopyCmd) : Nat := (srcRow x.desc (x.pos / dRowBytes x.desc) + x.pos % dRowBytes x.desc) % 2 ^ 64
def CopyCmd.dstAt (x : CopyCmd) : Nat := (dstRow x.desc (x.pos / dRowBytes x.desc) + x.pos % dRowBytes x.desc) % 2 ^ 64

/-- A stream that has moved `n` more bytes. -/
def CopyCmd.streamed (x : CopyCmd) (n : Nat) (bs : List (Byte × Bool)) : CopyCmd :=
  { x with
    pos := x.pos + n
    written := x.written + n
    poisoned := x.poisoned || anyPoison bs
    finished := decide (x.pos + n = dRows x.desc * dRowBytes x.desc) }

/-- A port behind a push of bytes, of which the last may be the stream's last (R62). -/
def Cluster.pushed (k : Cluster) (p : Nat) (bs : List (Byte × Bool)) (last : Bool) : Cluster :=
  if last then (k.portPush p bs).setPortEnd p true else k.portPush p bs

theorem pushed_stage {k : Cluster} {p : Nat} (hp : p < 32) (hf : k.fifoOf p = none) (bs : List (Byte × Bool)) (last : Bool) :
    k.pushed p bs last = { k with
      stages := k.stages.put p { data := (k.stage p).data ++ bs, ended := (k.stage p).ended || last } } := by
  have hf' : (k.portPush p bs).fifoOf p = none := by
    rw [portPush_stage hp hf]
    exact hf
  cases last with
  | false =>
    rw [Cluster.pushed, if_neg Bool.false_ne_true, portPush_stage hp hf, Bool.or_false]
  | true =>
    rw [Cluster.pushed, if_pos rfl, setPortEnd_stage hp hf', portPush_stage hp hf, Bool.or_true]
    simp only [Cluster.stage, Tab.get_put_same, Tab.put_put]

section
variable {s s1 : State} {q : BitVec 3} {cmd : CopyCmd} (hh : (s.cl s.here).headCmd q.toNat = some cmd)
  (hs : cmd.started = true) (hf : cmd.finished = false) (hp : dPort cmd.desc < 32)
  (hfifo : (s.cl s.here).fifoOf (dPort cmd.desc) = none)
include hh hs hf hp hfifo

/-- An input stream waits while its port is full. -/
theorem push_full (hk : dKind cmd.desc = 2) (hd : 512 ≤ ((s.cl s.here).stage (dPort cmd.desc)).data.length) :
    exec (.streamPortPush q) s = .next s := by
  have hr : (s.cl s.here).portRoom (dPort cmd.desc) = 0 := by
    rw [portRoom_stage hp hfifo]
    omega
  change execStreamPortPush q s = _
  simp [execStreamPortPush, hh, hs, hf, hk, kStreamIn, hr]

theorem push_moves (hk : dKind cmd.desc = 2) {n : Nat}
    (hn : n = min (min 512 cmd.left) (512 - ((s.cl s.here).stage (dPort cmd.desc)).data.length)) (hn0 : n ≠ 0)
    {bs : List (Byte × Bool)} (hr : s.copyRead s.here q.toNat cmd cmd.srcAt n = some (.ok bs, s)) :
    exec (.streamPortPush q) s = .next (s.setCl s.here (((s.cl s.here).pushed (dPort cmd.desc) bs
      (decide (cmd.pos + n = dRows cmd.desc * dRowBytes cmd.desc))).setHead q.toNat (cmd.streamed n bs))) := by
  have hn' : min (min 512 (dRowBytes cmd.desc - cmd.pos % dRowBytes cmd.desc)) ((s.cl s.here).portRoom (dPort cmd.desc)) = n := by
    rw [portRoom_stage hp hfifo, hn]
    rfl
  have hk' : (dKind cmd.desc != kStreamIn) = false := by rw [hk]; rfl
  have hb : (decide (n = 0)) = false := decide_eq_false hn0
  have hr' : s.copyRead s.here q.toNat cmd
      ((srcRow cmd.desc (cmd.pos / dRowBytes cmd.desc) + cmd.pos % dRowBytes cmd.desc) % 2 ^ 64) n = some (.ok bs, s) := hr
  change execStreamPortPush q s = _
  simp only [execStreamPortPush, hh, hs, hf, hk', hn', hb, portStalls_edge hp cmd true n rfl, hr', Bool.not_true, Bool.or_self,
    Bool.false_eq_true, if_false, Cluster.pushed, CopyCmd.streamed]

/-- An input stream between banks and a staging buffer moves its bytes in order (R62). -/
theorem push_leaves (hk : dKind cmd.desc = 2) (hsp : dSspace cmd.desc = 1) {n : Nat}
    (hn : n = min (min 512 cmd.left) (512 - ((s.cl s.here).stage (dPort cmd.desc)).data.length)) (hn0 : n ≠ 0)
    (hw : (s.cl s.here).stalls (some cmd.stamp) 1 cmd.ctx cmd.srcAt n = false)
    (hc : (s.cl s.here).cutting cmd.srcAt n = false) :
    let k := s.cl s.here
    let x := k.stage (dPort cmd.desc)
    leaves (.streamPortPush q) s (fun u => (∃ c2, (u.cl s.here).headCmd q.toNat = some c2 ∧ c2.pos = cmd.pos + n ∧
        c2.written = cmd.written + n ∧ (c2.finished = true ↔ cmd.pos + n = dRows cmd.desc * dRowBytes cmd.desc)) ∧
      (u.cl s.here).sram = k.sram ∧
      ((u.cl s.here).stage (dPort cmd.desc)).data.map Prod.fst = x.data.map Prod.fst ++ k.sram.bytes cmd.srcAt n ∧
      ((u.cl s.here).stage (dPort cmd.desc)).ended =
        (x.ended || decide (cmd.pos + n = dRows cmd.desc * dRowBytes cmd.desc))) := by
  refine ⟨_, push_moves hh hs hf hp hfifo hk hn hn0 (copyRead_bank hsp hw hc), ?_⟩
  have hstage : ∀ (k : Cluster) y, (k.setHead q.toNat y).stage (dPort cmd.desc) = k.stage (dPort cmd.desc) := fun _ _ => rfl
  simp only [State.cl_setCl_same, hstage, pushed_stage hp hfifo]
  refine ⟨⟨_, Cluster.headCmd_setHead .., rfl, rfl, decide_eq_true_iff⟩, rfl, ?_, ?_⟩
  · simp only [Cluster.stage, Tab.get_put_same, List.map_append, Cluster.markedBytes_fst]
  · simp only [Cluster.stage, Tab.get_put_same]

variable (hk : dKind cmd.desc = 3)
include hk

theorem pop_waits (hd : ((s.cl s.here).stage (dPort cmd.desc)).data = [])
    (he : ((s.cl s.here).stage (dPort cmd.desc)).ended = false) : exec (.streamPortPop q) s = .next s := by
  change execStreamPortPop q s = _
  simp [execStreamPortPop, hh, hs, hf, hk, kStreamOut, portPoppable_edge hp, portFill_stage hp hfifo, portEnded_stage hp hfifo,
    hd, he]

/-- An output stream whose port has ended early is SHORT (R59, R62). -/
theorem pop_short (hd : ((s.cl s.here).stage (dPort cmd.desc)).data = [])
    (he : ((s.cl s.here).stage (dPort cmd.desc)).ended = true) : exec (.streamPortPop q) s =
      .next (s.setCl s.here ((s.cl s.here).setHead q.toNat { cmd with finished := true, status := 0x27 })) := by
  change execStreamPortPop q s = _
  simp [execStreamPortPop, hh, hs, hf, hk, kStreamOut, portPoppable_edge hp, portFill_stage hp hfifo, portEnded_stage hp hfifo,
    hd, he]

section
variable (hd : ((s.cl s.here).stage (dPort cmd.desc)).data ≠ []) {n : Nat}
  (hn : n = min (min 512 ((s.cl s.here).stage (dPort cmd.desc)).data.length) cmd.left)
include hd hn

theorem pop_writes {r : Option AFail} (hw : s.copyWrite s.here q.toNat cmd cmd.dstAt
      (((s.cl s.here).stage (dPort cmd.desc)).data.take n) = some (r, s1)) :
    exec (.streamPortPop q) s = .next (r.elim
      (s1.setCl s.here (((s1.cl s.here).portPop (dPort cmd.desc) n).setHead q.toNat
        (cmd.streamed n (((s.cl s.here).stage (dPort cmd.desc)).data.take n))))
      (fun f => s1.setCl s.here (((s1.cl s.here).portPop (dPort cmd.desc) (cmd.failWrite f cmd.dstAt).part).setHead q.toNat
        (cmd.failWrite f cmd.dstAt)))) := by
  have hn' : min (min 512 ((s.cl s.here).portFill (dPort cmd.desc))) (dRowBytes cmd.desc - cmd.pos % dRowBytes cmd.desc) = n := by
    rw [portFill_stage hp hfifo, hn]
    rfl
  have hfill : ¬ (s.cl s.here).portFill (dPort cmd.desc) = 0 := by
    rw [portFill_stage hp hfifo]
    exact mt List.length_eq_zero_iff.1 hd
  have hk' : (dKind cmd.desc != kStreamOut) = false := by rw [hk]; rfl
  have hw' : s.copyWrite s.here q.toNat cmd
      ((dstRow cmd.desc (cmd.pos / dRowBytes cmd.desc) + cmd.pos % dRowBytes cmd.desc) % 2 ^ 64)
      (((s.cl s.here).stage (dPort cmd.desc)).data.take n) = some (r, s1) := hw
  change execStreamPortPop q s = _
  simp only [execStreamPortPop, hh, hs, hf, hk', portPoppable_edge hp, hfill, hn', portPeek_stage hp hfifo,
    portStalls_edge hp cmd false n rfl, hw', Bool.not_true, Bool.or_self, Bool.false_eq_true, if_false, CopyCmd.streamed]
  cases r <;> rfl

/-- An output stream from a staging buffer to banks (R62). -/
theorem pop_leaves (hsp : dDspace cmd.desc = 1)
    (hst : (s.cl s.here).stalls (some cmd.stamp) 1 cmd.ctx cmd.dstAt n = false)
    (hc : (s.cl s.here).cutting cmd.dstAt n = false) :
    leaves (.streamPortPop q) s (fun u => (∃ c2, (u.cl s.here).headCmd q.toNat = some c2 ∧ c2.pos = cmd.pos + n ∧
        c2.written = cmd.written + n ∧ (c2.finished = true ↔ cmd.pos + n = dRows cmd.desc * dRowBytes cmd.desc)) ∧
      (u.cl s.here).sram = (s.cl s.here).sram.setBytes cmd.dstAt
        ((((s.cl s.here).stage (dPort cmd.desc)).data.take n).map Prod.fst) ∧
      ((u.cl s.here).stage (dPort cmd.desc)).data = ((s.cl s.here).stage (dPort cmd.desc)).data.drop n) := by
  have hlen : (((s.cl s.here).stage (dPort cmd.desc)).data.take n).length = n := by
    rw [List.length_take, hn]
    omega
  obtain ⟨k2, hw, hsram, hside⟩ := copyWrite_bank (s := s) (c := s.here) (q := q.toNat) (a := cmd.dstAt) (bs := _) hsp
    (by rwa [hlen]) (by rwa [hlen])
  refine ⟨_, pop_writes hh hs hf hp hfifo hk hd hn hw, ?_⟩
  have hfifo' := (Cluster.fifoOf_of_copySide hside (dPort cmd.desc)).trans hfifo
  simp only [Option.elim_none, State.cl_setCl_same, portPop_stage hp hfifo']
  refine ⟨⟨_, Cluster.headCmd_setHead .., rfl, rfl, decide_eq_true_iff⟩, hsram, ?_⟩
  rw [← Cluster.stage_of_copySide hside]
  exact congrArg Stage.data (Tab.get_put_same ..)

/-- Where a write fails, what had been written has been popped (R62, R66). -/
theorem pop_fails {f : AFail} (hw : s.copyWrite s.here q.toNat cmd cmd.dstAt
      (((s.cl s.here).stage (dPort cmd.desc)).data.take n) = some (some f, s1)) :
    leaves (.streamPortPop q) s (fun u =>
      ((u.cl s.here).stage (dPort cmd.desc)).data =
        ((s.cl s.here).stage (dPort cmd.desc)).data.drop (cmd.failWrite f cmd.dstAt).part ∧
      (u.cl s.here).headCmd q.toNat = some (cmd.failWrite f cmd.dstAt)) := by
  have hside : (s1.cl s.here).copySide = (s.cl s.here).copySide := congrFun (State.copySides_copyWrite hw) s.here
  have hfifo' := (Cluster.fifoOf_of_copySide hside (dPort cmd.desc)).trans hfifo
  refine ⟨_, pop_writes hh hs hf hp hfifo hk hd hn hw, ?_⟩
  simp only [Option.elim_some, State.cl_setCl_same, portPop_stage hp hfifo']
  refine ⟨?_, Cluster.headCmd_setHead ..⟩
  rw [← Cluster.stage_of_copySide hside]
  exact congrArg Stage.data (Tab.get_put_same ..)

end

end

end Sys2Proof.Machine
end

section
/-! SUPPORT. Arrival barriers (R70, R71). -/

namespace Sys2Proof.Machine

/-! ### Barriers -/

section
variable {s : State} {q : BitVec 3} {cmd : CopyCmd} (hh : (s.cl s.here).headCmd q.toNat = some cmd)
  (hs : cmd.started = false) (hv : (s.cl s.here).validate cmd = 0) (hm : s.mayDispatch s.here q.toNat = true)
include hh hs hv hm

/-- The barrier that a BARSET's record describes (R70). -/
def CopyCmd.armed (cmd : CopyCmd) (r : Nat) : Barrier :=
  { expect := fld r 15 0, mapword := fld r 53 32, mask := fld r 127 64, phase := fld r 159 128, chan := fld r 163 160,
    tag := fld r 191 176, recAddr := dAux cmd.desc, ctx := cmd.ctx }

theorem exec_barset (hk : dKind cmd.desc = 5) : exec (.barset q) s =
    let k := s.cl s.here
    let r := ofBytes (k.sram.bytes (dAux cmd.desc) 32)
    .next (if fld r 15 0 = 0 ∨ fld r 53 32 % 8 ≠ 0 then
        s.setCl s.here (k.dispatched q.toNat { cmd with finished := true, status := 0x29 })
      else s.setCl s.here ({ k with bars := k.bars.put (dBar cmd.desc) (cmd.armed r) }.dispatched q.toNat
        { cmd with finished := true, status := 0 })) := by
  change execBarset q s = _
  simp [execBarset, hh, hs, hv, hm, hk, kBarset, Cluster.bytes, CopyCmd.armed]

theorem exec_arrive (hk : dKind cmd.desc = 4) : exec (.arrive q) s =
    let r := if cmd.arrived then (true, s) else s.barArrive s.here q.toNat (dBar cmd.desc)
    .next (r.2.setCl s.here ((r.2.cl s.here).dispatched q.toNat
      { cmd with finished := true, arrived := false, status := if r.1 then 0 else 0x28 })) := by
  change execArrive q s = _
  simp [execArrive, hh, hs, hv, hm, hk, kArrive]

end

theorem Mem.bytes_setBytes_other (m : Mem) {a c n : Nat} (bs : List Byte) (h : c + n ≤ a ∨ a + bs.length ≤ c) :
    (m.setBytes a bs).bytes c n = m.bytes c n := by
  refine List.map_congr_left fun i hi => Mem.byte_setBytes_other bs m a ?_
  have := List.mem_range.1 hi
  omega

/-- A number written to a memory is read back. -/
theorem Mem.ofBytes_setBytes_toBytes {m : Mem} (h : m.wf = true) (a n v : Nat) :
    ofBytes ((m.setBytes a (toBytes n v)).bytes a n) = v % 256 ^ n := by
  have hr := Mem.bytes_setBytes_same h a (toBytes n v)
  rw [toBytes_length] at hr
  rw [hr, ofBytes_toBytes]

theorem ofBytes_lt (bs : List Byte) : ofBytes bs < 256 ^ bs.length := by
  induction bs with
  | nil => decide
  | cons b bs ih =>
    have hb := b.isLt
    simp only [ofBytes, List.length_cons, Nat.pow_succ]
    omega

section
variable {k : Cluster} {b : Nat} {x : Barrier} (hw : k.sram.wf = true)
include hw

/-- An advance clears the bits of the mask in the bitmap word (R71). -/
theorem advanced_word : ofBytes ((k.advanced b x).sram.bytes x.mapword 8) =
    ofBytes (k.sram.bytes x.mapword 8) - x.mask := by
  have hlt := ofBytes_lt (k.sram.bytes x.mapword 8)
  have hlen : (k.sram.bytes x.mapword 8).length = 8 := by simp [Mem.bytes]
  rw [hlen] at hlt
  refine (Mem.ofBytes_setBytes_toBytes (Mem.wf_setBytes _ _ hw) _ _ _).trans (Nat.mod_eq_of_lt ?_)
  omega

/-- An advance counts the phase up in the record (R70, R71). -/
theorem advanced_phase (hd : x.recAddr + 20 ≤ x.mapword ∨ x.mapword + 8 ≤ x.recAddr + 16) :
    ofBytes ((k.advanced b x).sram.bytes (x.recAddr + 16) 4) = (x.phase + 1) % 2 ^ 32 := by
  have ho := Mem.bytes_setBytes_other (k.sram.setBytes (x.recAddr + 16) (toBytes 4 ((x.phase + 1) % 2 ^ 32)))
    (a := x.mapword) (c := x.recAddr + 16) (n := 4) (toBytes 8 (ofBytes (k.sram.bytes x.mapword 8) - x.mask))
    (by rw [toBytes_length]; omega)
  refine (congrArg ofBytes ho).trans ((Mem.ofBytes_setBytes_toBytes hw _ _ _).trans (Nat.mod_eq_of_lt ?_))
  exact Nat.mod_lt _ (by decide)

/-- What an advance leaves (R71). -/
theorem advanced_leaves (hd : x.recAddr + 20 ≤ x.mapword ∨ x.mapword + 8 ≤ x.recAddr + 16) :
    ofBytes ((k.advanced b x).sram.bytes (x.recAddr + 16) 4) = (x.phase + 1) % 2 ^ 32 ∧
    ofBytes ((k.advanced b x).sram.bytes x.mapword 8) = ofBytes (k.sram.bytes x.mapword 8) - x.mask ∧
    (k.advanced b x).bars.find b = some { x with phase := (x.phase + 1) % 2 ^ 32, arrived := x.arrived - x.expect } ∧
    (k.advanced b x).chans = k.chans ∧ (k.advanced b x).held = k.held := by
  refine ⟨advanced_phase hw hd, advanced_word hw, Tab.find_put_same .., ?_, ?_⟩
  · simp only [Cluster.advanced, Cluster.write]
  · simp only [Cluster.advanced, Cluster.write]

end

section
variable {s : State} {c : Nat} {k : Cluster} (h : k.chans = (s.cl c).chans)
include h

theorem State.chan_setCl (n : Nat) : (s.setCl c k).chan c n = s.chan c n := by
  simp only [State.chan, State.cl_setCl_same, h]

theorem State.chanRoom_setCl (n : Nat) : (s.setCl c k).chanRoom c n = s.chanRoom c n := by
  simp only [State.chanRoom, State.chan_setCl h]

theorem State.savedCtx_setCl (n : Nat) : (s.setCl c k).savedCtx c n = s.savedCtx c n := by
  simp only [State.savedCtx, State.chan_setCl h]
  rfl

/-- A message is queued as before a change of the cluster that leaves its channels. -/
theorem State.post_queue_setCl {n : Nat} (sender : Nat) (m : QMsg) (hk : k.held = (s.cl c).held) (hh : (s.cl c).held = [])
    (hr : s.chanRoom c n = true) (hc : s.savedCtx c n = none) :
    (((s.setCl c k).post c sender n m).chan c n).queue = (s.chan c n).queue ++ [m] := by
  rw [State.post_queue sender m (by rw [State.cl_setCl_same, hk, hh]) ((State.chanRoom_setCl h n).trans hr)
    ((State.savedCtx_setCl h n).trans hc), State.chan_setCl h]

end

end Sys2Proof.Machine

namespace Sys2Proof

open Machine

section
variable {s : State} {q : BitVec 3} {cmd : CopyCmd} (hh : (s.cl s.here).headCmd q.toNat = some cmd)

section
variable (hs : cmd.started = false) (hv : (s.cl s.here).validate cmd = 0) (hm : s.mayDispatch s.here q.toNat = true)
include hh hs hv hm

theorem barset_arms (hk : dKind cmd.desc = 5) {r : Nat} (hr : ofBytes ((s.cl s.here).sram.bytes (dAux cmd.desc) 32) = r)
    (h0 : fld r 15 0 ≠ 0) (h8 : fld r 53 32 % 8 = 0) : leaves (.barset q) s (fun u =>
      (u.cl s.here).headCmd q.toNat = some { cmd with started := true, finished := true, status := 0 } ∧
      (u.cl s.here).bars.find (dBar cmd.desc) = some (cmd.armed r)) := by
  refine ⟨_, (exec_barset hh hs hv hm hk).trans (congrArg _ (if_neg (by rw [hr]; omega))), ?_⟩
  simp only [State.cl_setCl_same, hr]
  exact ⟨Cluster.headCmd_dispatched .., Tab.find_put_same ..⟩

theorem barset_fails (hk : dKind cmd.desc = 5) {r : Nat} (hr : ofBytes ((s.cl s.here).sram.bytes (dAux cmd.desc) 32) = r)
    (hb : fld r 15 0 = 0 ∨ fld r 53 32 % 8 ≠ 0) : leaves (.barset q) s (fun u =>
      (u.cl s.here).headCmd q.toNat = some { cmd with started := true, finished := true, status := 0x29 } ∧
      (u.cl s.here).bars = (s.cl s.here).bars) := by
  refine ⟨_, (exec_barset hh hs hv hm hk).trans (congrArg _ (if_pos (by rw [hr]; exact hb))), ?_⟩
  simp only [State.cl_setCl_same]
  exact ⟨Cluster.headCmd_dispatched .., rfl⟩

variable (hk : dKind cmd.desc = 4)
include hk

theorem arrive_counted (ha : cmd.arrived = true) : leaves (.arrive q) s (fun u => (u.cl s.here).bars = (s.cl s.here).bars ∧
    (u.cl s.here).headCmd q.toNat = some { cmd with started := true, finished := true, arrived := false, status := 0 }) := by
  refine ⟨_, exec_arrive hh hs hv hm hk, ?_⟩
  simp only [if_pos ha, State.cl_setCl_same]
  exact ⟨rfl, Cluster.headCmd_dispatched ..⟩

/-- What an ARRIVE leaves whose arrival gives `r`. -/
theorem arrive_leaves (ha : cmd.arrived = false) {r : Bool × State}
    (hr : s.barArrive s.here q.toNat (dBar cmd.desc) = r) {p : State → Prop}
    (hp : p (r.2.setCl s.here ((r.2.cl s.here).dispatched q.toNat { cmd with finished := true, status := if r.1 then 0 else 0x28 }))) :
    leaves (.arrive q) s p := by
  refine ⟨_, exec_arrive hh hs hv hm hk, ?_⟩
  simp only [ha, Bool.false_eq_true, if_false, hr]
  rw [← ha]
  exact hp

theorem arrive_unarmed (ha : cmd.arrived = false) (hb : (s.cl s.here).bars.find (dBar cmd.desc) = none) :
    leaves (.arrive q) s (fun u =>
      (u.cl s.here).headCmd q.toNat = some { cmd with started := true, finished := true, status := 0x28 } ∧ u.mem = s.mem) := by
  refine arrive_leaves hh hs hv hm hk ha (barArrive_unarmed q.toNat hb) ⟨?_, rfl⟩
  rw [State.cl_setCl_same]
  exact Cluster.headCmd_dispatched ..

section
variable {x : Barrier} (ha : cmd.arrived = false) (hb : (s.cl s.here).bars.find (dBar cmd.desc) = some x)
  (hp : ∀ p y, p ≠ q.toNat → (s.cl s.here).headCmd p = some y → y.arrived = true ∨ dBar y.desc ≠ dBar cmd.desc)
include ha hb hp

/-- An arrival that does not complete a phase is counted (R71). -/
theorem arrive_counts (hg : ¬ (s.cl s.here).advances { x with arrived := x.arrived + 1 }) : leaves (.arrive q) s (fun u =>
    (u.cl s.here).headCmd q.toNat = some { cmd with started := true, finished := true, status := 0 } ∧
    (u.cl s.here).sram = (s.cl s.here).sram ∧
    (u.cl s.here).bars.find (dBar cmd.desc) = some { x with arrived := x.arrived + 1 }) := by
  refine arrive_leaves hh hs hv hm hk ha (barArrive_counts q.toNat hb hp hg) ?_
  simp only [State.cl_setCl_same]
  exact ⟨Cluster.headCmd_dispatched .., rfl, Tab.find_put_same ..⟩

/-- An arrival that completes a phase advances its slot and posts the slot's message (R71). -/
theorem arrive_advances (hg : (s.cl s.here).advances { x with arrived := x.arrived + 1 })
    (hw : (s.cl s.here).sram.wf = true) (hd : x.recAddr + 20 ≤ x.mapword ∨ x.mapword + 8 ≤ x.recAddr + 16) :
    leaves (.arrive q) s (fun u =>
      (u.cl s.here).headCmd q.toNat = some { cmd with started := true, finished := true, status := 0 } ∧
      ofBytes ((u.cl s.here).sram.bytes (x.recAddr + 16) 4) = (x.phase + 1) % 2 ^ 32 ∧
      ofBytes ((u.cl s.here).sram.bytes x.mapword 8) = ofBytes ((s.cl s.here).sram.bytes x.mapword 8) - x.mask ∧
      (u.cl s.here).bars.find (dBar cmd.desc) =
        some { x with phase := (x.phase + 1) % 2 ^ 32, arrived := x.arrived + 1 - x.expect } ∧
      ((s.cl s.here).held = [] → s.chanRoom s.here x.chan = true → s.savedCtx s.here x.chan = none →
        (u.chan s.here x.chan).queue = (s.chan s.here x.chan).queue ++ [x.advanceMsg (dBar cmd.desc)])) := by
  have harr := barArrive_advances q.toNat hb hp hg
  have hadv := advanced_leaves (k := (s.cl s.here).counted (dBar cmd.desc) x) (b := dBar cmd.desc)
    (x := { x with arrived := x.arrived + 1 }) hw hd
  generalize ((s.cl s.here).counted (dBar cmd.desc) x).advanced (dBar cmd.desc) { x with arrived := x.arrived + 1 } = k
    at harr hadv
  obtain ⟨hphase, hword, hbars, hchans, hheld⟩ := hadv
  refine arrive_leaves hh hs hv hm hk ha harr ?_
  obtain ⟨chans, held, hcl⟩ := State.post_cl (s.setCl s.here k) s.here (ceOf q.toNat) x.chan (x.advanceMsg (dBar cmd.desc))
  rw [State.cl_setCl_same] at hcl
  simp only [State.cl_setCl_same, hcl]
  refine ⟨Cluster.headCmd_dispatched .., hphase, hword, hbars, fun hempty hroom hsaved => ?_⟩
  rw [State.chan_setCl (by rw [hcl]; rfl)]
  exact State.post_queue_setCl hchans _ _ hheld hempty hroom hsaved

end

end

end

end Sys2Proof
end

section
/-! SUPPORT. The completion of chunks and commands (R66, R67), and the statement about streams, barriers and completion. -/

namespace Sys2Proof.Machine

/-! ### Chunks (R67) -/

/-- Setting a bit of a byte. -/
theorem ofNat_or_pow (b : Byte) {n : Nat} (h : n < 8) : BitVec.ofNat 8 (b.toNat ||| 2 ^ n) = b ||| (1#8 <<< n) := by
  refine BitVec.eq_of_toNat_eq ?_
  have hn : 2 ^ n < 2 ^ 8 := Nat.pow_lt_pow_right (by decide) h
  rw [BitVec.toNat_ofNat, BitVec.toNat_or, BitVec.toNat_shiftLeft, Nat.mod_eq_of_lt (Nat.or_lt_two_pow b.isLt hn)]
  exact congrArg (b.toNat ||| ·) ((Nat.mod_eq_of_lt hn).symm.trans (congrArg (· % 2 ^ 8) (Nat.one_shiftLeft n).symm))

theorem putBit_set (k : Cluster) (cmap i : Nat) : k.putBit cmap i true =
    k.write (cmap + i / 8) [k.sram.byte (cmap + i / 8) ||| (1#8 <<< (i % 8))] false := by
  have h : BitVec.ofNat 8 ((k.sram.byte (cmap + i / 8)).toNat ||| 2 ^ (i % 8)) = _ :=
    ofNat_or_pow _ (Nat.mod_lt i (by decide))
  simp only [Cluster.putBit, if_true, h]

/-! ### Completion (R66) -/

theorem CopyCmd.complete_iff (x : CopyCmd) : x.complete = true ↔ x.finished = true ∧
    (dCmen x.desc = true → ¬ (0x21 ≤ x.status ∧ x.status ≤ 0x25) → x.nextDue = none) := by
  simp only [CopyCmd.complete, Bool.and_eq_true, Bool.not_eq_true', Bool.and_eq_false_iff, Bool.not_eq_false',
    Bool.and_eq_true, decide_eq_true_iff, Option.isSome_eq_false_iff, Option.isNone_iff_eq_none]
  refine and_congr_right fun _ => ?_
  cases dCmen x.desc
  · simp
  · simp only [Bool.true_eq_false, false_or, true_imp_iff]
    tauto

/-- A cluster whose queue `q` has lost its head. -/
def Cluster.popCq (k : Cluster) (q : Nat) : Cluster := k.setCq q { k.cq q with ents := (k.cq q).ents.drop 1 }

/-- The head of another queue is as before where a queue loses its head. -/
theorem headCmd_popCq_other (k : Cluster) {p q : Nat} (h : p ≠ q) : (k.popCq q).headCmd p = k.headCmd p := by
  rw [Cluster.headCmd, Cluster.popCq, Cluster.cq_setCq_other _ _ h, Cluster.headCmd]

/-- The completion message of a command (R66). -/
def CopyCmd.doneMsg (x : CopyCmd) (q : Nat) (armed : Bool) : QMsg :=
  { msg := { w0 := BitVec.ofNat 64 (x.finalStatus armed + dKind x.desc * 2 ^ 8 + q * 2 ^ 12 + dTag x.desc * 2 ^ 16 + x.lvl * 2 ^ 32),
             w1 := BitVec.ofNat 64 x.written, w2 := BitVec.ofNat 64 (if dKind x.desc = kMaskrows then x.packed else 0),
             w3 := x.fva }, ctx := x.ctx }

theorem CopyCmd.finalStatus_armed (x : CopyCmd) :
    x.finalStatus true = if x.status ≠ 0 then x.status else if x.poisoned then 0x20 else 0 := by
  simp [CopyCmd.finalStatus]

/-- The state with a command's completion message posted, where it posts one. -/
def State.reported (s : State) (c q : Nat) (x : CopyCmd) (armed : Bool) : State :=
  if dMsg x.desc then s.post c (ceOf q) (dMchan x.desc) (x.doneMsg q armed) else s

theorem State.reported_cl (s : State) (c q : Nat) (x : CopyCmd) (armed : Bool) :
    ∃ chans held, (s.reported c q x armed).cl c = { s.cl c with chans := chans, held := held } := by
  unfold State.reported
  split
  · exact s.post_cl ..
  · exact ⟨_, _, rfl⟩

theorem State.reported_mem (s : State) (c q : Nat) (x : CopyCmd) (armed : Bool) : (s.reported c q x armed).mem = s.mem := by
  unfold State.reported
  split
  · exact State.post_mem ..
  · rfl

section
variable {s : State} {q : BitVec 3} {cmd : CopyCmd} (hh : (s.cl s.here).headCmd q.toNat = some cmd)
include hh

theorem exec_chunkComplete (hs : cmd.started = true) (hc : dCmen cmd.desc = true)
    (hb : ¬ (0x21 ≤ cmd.status ∧ cmd.status ≤ 0x25)) {j : Nat} (hj : cmd.nextDue = some j)
    (hw : (s.cl s.here).ctlStalls cmd (dCmap cmd.desc + (dCfirst cmd.desc + j) / 8) 1 = false) :
    exec (.chunkComplete q) s = .next ((s.setCl s.here (((s.cl s.here).putBit (dCmap cmd.desc) (dCfirst cmd.desc + j) true).setHead
      q.toNat { cmd with bits := insertNat j cmd.bits })).barWord s.here q.toNat (dCmap cmd.desc + (dCfirst cmd.desc + j) / 8)) := by
  have hb' : (decide (0x21 ≤ cmd.status) && decide (cmd.status ≤ 0x25)) = false := by
    rw [← Bool.not_eq_true, Bool.and_eq_true, decide_eq_true_iff, decide_eq_true_iff]
    exact hb
  change execChunkComplete q s = _
  simp only [execChunkComplete, hh, hs, hc, hb', hj, hw, Bool.not_true, Bool.or_self, Bool.false_eq_true, if_false]

theorem exec_ceCommandComplete_waits (hc : cmd.complete = false) : exec (.ceCommandComplete q) s = .next s := by
  change execCeCommandComplete q s = _
  simp only [execCeCommandComplete, hh, hc, Bool.not_false, if_true]

theorem exec_ceCommandComplete (hc : cmd.complete = true) : exec (.ceCommandComplete q) s =
    let t := s.setCl s.here ((s.cl s.here).popCq q.toNat)
    let r := if dBaren cmd.desc && !cmd.arrived then t.barArrive s.here q.toNat (dBar cmd.desc) else (true, t)
    .next (r.2.reported s.here q.toNat cmd r.1) := by
  change execCeCommandComplete q s = _
  simp only [execCeCommandComplete, hh, hc, Bool.not_true, Bool.false_eq_true, if_false]
  rfl

end

end Sys2Proof.Machine

namespace Sys2Proof

open Machine

section
variable {s : State} {q : BitVec 3} {cmd : CopyCmd} (hh : (s.cl s.here).headCmd q.toNat = some cmd)
include hh

/-- A chunk that is due gets its bit, and no other byte of the banks changes (R67). -/
theorem chunkComplete_leaves (hs : cmd.started = true) (hc : dCmen cmd.desc = true)
    (hb : ¬ (0x21 ≤ cmd.status ∧ cmd.status ≤ 0x25)) {j : Nat} (hj : cmd.nextDue = some j)
    (hbars : (s.cl s.here).bars = []) (hwf : (s.cl s.here).sram.wf = true)
    (hw : (s.cl s.here).ctlStalls cmd (dCmap cmd.desc + (dCfirst cmd.desc + j) / 8) 1 = false) :
    let k := s.cl s.here
    let a := dCmap cmd.desc + (dCfirst cmd.desc + j) / 8
    leaves (.chunkComplete q) s (fun u =>
      (u.cl s.here).sram.byte a = (k.sram.byte a ||| (1#8 <<< ((dCfirst cmd.desc + j) % 8))) ∧
      (∀ x, x ≠ a → (u.cl s.here).sram.byte x = k.sram.byte x) ∧
      (u.cl s.here).headCmd q.toNat = some { cmd with bits := insertNat j cmd.bits }) := by
  intro k a
  refine ⟨_, exec_chunkComplete hh hs hc hb hj hw, ?_⟩
  rw [putBit_set, barWord_unarmed _ _ _ _ (by rw [State.cl_setCl_same]; exact hbars)]
  simp only [State.cl_setCl_same]
  refine ⟨?_, fun x hx => ?_, Cluster.headCmd_setHead ..⟩
  · exact Mem.byte_setBytes_same [_] k.sram a 0 hwf Nat.one_pos
  · refine Mem.byte_setBytes_other [_] k.sram a ?_
    simp only [List.length_singleton]
    omega

variable (hf : cmd.finished = true)
  (hd : dCmen cmd.desc = true → ¬ (0x21 ≤ cmd.status ∧ cmd.status ≤ 0x25) → cmd.nextDue = none)
include hf hd

/-- A finished command that arrives at no barrier leaves its queue and reports its end (R66). -/
theorem complete_reports (hb : dBaren cmd.desc = false) :
    leaves (.ceCommandComplete q) s (fun u =>
      ((u.cl s.here).cq q.toNat).ents = ((s.cl s.here).cq q.toNat).ents.drop 1 ∧
      (u.cl s.here).sram = (s.cl s.here).sram ∧ u.mem = s.mem ∧
      (dMsg cmd.desc = true → (s.cl s.here).held = [] → s.chanRoom s.here (dMchan cmd.desc) = true →
        s.savedCtx s.here (dMchan cmd.desc) = none →
        (u.chan s.here (dMchan cmd.desc)).queue =
          (s.chan s.here (dMchan cmd.desc)).queue ++ [cmd.doneMsg q.toNat true])) := by
  refine ⟨_, exec_ceCommandComplete hh (cmd.complete_iff.2 ⟨hf, hd⟩), ?_⟩
  simp only [hb, Bool.false_and, Bool.false_eq_true, if_false]
  obtain ⟨chans, held, hcl⟩ := State.reported_cl (s.setCl s.here ((s.cl s.here).popCq q.toNat)) s.here q.toNat cmd true
  rw [State.cl_setCl_same] at hcl
  refine ⟨?_, ?_, State.reported_mem .., fun hmsg hheld hroom hsaved => ?_⟩
  · rw [hcl]
    exact congrArg CopyQueue.ents (Cluster.cq_setCq_same ..)
  · rw [hcl]
    rfl
  · rw [State.reported, if_pos hmsg]
    exact State.post_queue_setCl (by rfl) _ _ (by rfl) hheld hroom hsaved

/-- A finished command whose arrival completes no phase leaves its queue, its arrival counted (R66, R71). -/
theorem complete_counts {x : Barrier} (hb : dBaren cmd.desc = true) (ha : cmd.arrived = false)
    (hp : ∀ p y, p ≠ q.toNat → (s.cl s.here).headCmd p = some y → y.arrived = true ∨ dBar y.desc ≠ dBar cmd.desc)
    (hx : (s.cl s.here).bars.find (dBar cmd.desc) = some x)
    (hg : ¬ (s.cl s.here).advances { x with arrived := x.arrived + 1 }) :
    leaves (.ceCommandComplete q) s (fun u =>
      ((u.cl s.here).cq q.toNat).ents = ((s.cl s.here).cq q.toNat).ents.drop 1 ∧
      (u.cl s.here).bars.find (dBar cmd.desc) = some { x with arrived := x.arrived + 1 } ∧
      (u.cl s.here).sram = (s.cl s.here).sram) := by
  have hbar := barArrive_counts (s := s.setCl s.here ((s.cl s.here).popCq q.toNat)) (c := s.here) q.toNat
    (by rw [State.cl_setCl_same]; exact hx)
    (fun p y hne hy => hp p y hne (by rwa [State.cl_setCl_same, headCmd_popCq_other _ hne] at hy))
    (by rw [State.cl_setCl_same]; exact hg)
  rw [State.cl_setCl_same, State.setCl_setCl] at hbar
  refine ⟨_, exec_ceCommandComplete hh (cmd.complete_iff.2 ⟨hf, hd⟩), ?_⟩
  simp only [hb, ha, Bool.not_false, Bool.and_self, if_true, hbar]
  obtain ⟨chans, held, hcl⟩ := State.reported_cl (s.setCl s.here (((s.cl s.here).popCq q.toNat).counted (dBar cmd.desc) x))
    s.here q.toNat cmd true
  rw [State.cl_setCl_same] at hcl
  refine ⟨?_, ?_, ?_⟩ <;> rw [hcl]
  · exact congrArg CopyQueue.ents (Cluster.cq_setCq_same ..)
  · exact Tab.find_put_same ..
  · rfl

end

/-- Settles O29: streams byte for byte (`push_leaves`, `pop_leaves`, `pop_fails`), barriers (`barset_arms`,
`arrive_counts`, `arrive_advances`), and the completion of chunks and commands (`chunkComplete_leaves`,
`complete_reports`, `complete_counts`). -/
theorem copyStreams : Obligations.CopyStreams := by
  unfold Obligations.CopyStreams
  refine ⟨?streams, ?barriers, ?completion⟩
  case streams =>
    intro s q cmd hh hs hf hp hfifo k x d total left after
    refine ⟨?_, ?_, ?_, ?_, fun hk hd he => pop_waits hh hs hf hp hfifo hk hd he⟩
    · intro hk hsp n a hst hc
      exact ⟨fun hn => push_leaves hh hs hf hp hfifo hk hsp rfl hn hst hc, push_full hh hs hf hp hfifo hk⟩
    · intro hk hsp hd n a hst hc
      exact pop_leaves hh hs hf hp hfifo hk hd rfl hsp hst hc
    · intro f s1 hk hd a hw done
      exact pop_fails hh hs hf hp hfifo hk hd rfl hw
    · intro hk hd he
      refine ⟨_, pop_short hh hs hf hp hfifo hk hd he, ?_⟩
      simp only [State.cl_setCl_same]
      exact Cluster.headCmd_setHead ..
  case barriers =>
    intro s q cmd hh hs hv hm k b alone r advance armed done
    refine ⟨fun hk h0 h8 => barset_arms hh hs hv hm hk rfl h0 h8, fun hk hb => barset_fails hh hs hv hm hk rfl hb,
      fun hk ha hb => arrive_unarmed hh hs hv hm hk ha hb, fun hk ha => arrive_counted hh hs hv hm hk ha, ?_⟩
    intro x hk hb ha w go
    exact ⟨arrive_counts hh hs hv hm hk ha.1 hb ha.2, arrive_advances hh hs hv hm hk ha.1 hb ha.2⟩
  case completion =>
    intro s q cmd hh k d bad alone
    refine ⟨?_, fun hf hd hb => ?_,
      fun x hf hd hb ha hx hg => complete_counts hh hf hd hb ha.1 ha.2 hx hg, fun hw => ?_⟩
    · intro j hs hc hb hj hbars hwf hw
      exact chunkComplete_leaves hh hs hc hb hj hbars hwf hw
    · have hrep := complete_reports hh hf hd hb
      rw [CopyCmd.doneMsg, CopyCmd.finalStatus_armed] at hrep
      exact hrep
    · refine exec_ceCommandComplete_waits hh (Bool.eq_false_iff.2 fun hcomp => ?_)
      obtain ⟨hf, hd⟩ := cmd.complete_iff.1 hcomp
      obtain hw | ⟨hc, hb, hn⟩ := hw
      · exact nomatch hf.symm.trans hw
      · exact hn (hd hc hb)

end Sys2Proof
end

section
/-! SUPPORT. The canonical form of the banks (R75, R462): what the operations of one cluster do with its bytes.  One
lemma per operation: that it leaves the bytes as they are (`_sram`), or that it keeps their canonical form
(`_sram_wf`). -/

-- One declaration at a time: elaborated side by side, the threads of so many pass the memory limit.
set_option Elab.async false

namespace Sys2Proof.Machine

/-! ### Folds over a cluster -/

/-- A step of the fold changes the bytes, or the fold leaves them: alternatives, as `grind` splits them. -/
theorem foldl_sram_or {α : Type} (f : Cluster → α → Cluster) (l : List α) (k : Cluster) :
    (∃ k a, ¬ (f k a).sram = k.sram) ∨ (l.foldl f k).sram = k.sram := by
  by_contra! h
  exact h.2 (foldl_keeps Cluster.sram f h.1 l k)

/-- A fold of writes that each keep the canonical form keeps it as a whole. -/
theorem foldl_keeps_sram_wf {α : Type} (f : Cluster → α → Cluster)
    (hf : ∀ k a, k.sram.wf = true → (f k a).sram.wf = true) (l : List α) (k : Cluster) (h : k.sram.wf = true) :
    (l.foldl f k).sram.wf = true := by
  induction l generalizing k with
  | nil => exact h
  | cons a l ih => exact ih _ (hf k a h)

theorem foldl_sram_wf_or {α : Type} (f : Cluster → α → Cluster) (l : List α) (k : Cluster) :
    (∃ k a, k.sram.wf = true ∧ ¬ (f k a).sram.wf = true) ∨ (k.sram.wf = true → (l.foldl f k).sram.wf = true) := by
  by_contra! h
  exact h.2.2 (foldl_keeps_sram_wf f h.1 l k h.2.1)

/-! ### Operations that leave the bytes as they are -/

@[simp] theorem Cluster.setMode_sram (k : Cluster) (b m : Nat) : (k.setMode b m).sram = k.sram := rfl
@[simp] theorem Cluster.setRing_sram (k : Cluster) (r : Nat) (x : Ring) : (k.setRing r x).sram = k.sram := rfl
@[simp] theorem Cluster.ringPop_sram (k : Cluster) (r n : Nat) : (k.ringPop r n).sram = k.sram := rfl
@[simp] theorem Cluster.setBq_sram (k : Cluster) (b : Nat) (x : BankQ) : (k.setBq b x).sram = k.sram := rfl
@[simp] theorem Cluster.bankRequest_sram (k : Cluster) (v : Nat) : (k.bankRequest v).sram = k.sram := rfl
@[simp] theorem Cluster.setTile_sram (k : Cluster) (x : Nat) (t : Tile) : (k.setTile x t).sram = k.sram := rfl
@[simp] theorem Cluster.setAg_sram (k : Cluster) (a : Nat) (g : Ag) : (k.setAg a g).sram = k.sram := rfl
@[simp] theorem Cluster.setMat_sram (k : Cluster) (i : Nat) (m : Isle) : (k.setMat i m).sram = k.sram := rfl
@[simp] theorem Cluster.setPages_sram (k : Cluster) (ps is : List Nat) (st : PageSt) :
    (k.setPages ps is st).sram = k.sram := rfl
@[simp] theorem Cluster.unreserve_sram (k : Cluster) (l m : Nat) : (k.unreserve l m).sram = k.sram := rfl
@[simp] theorem Cluster.setResident_sram (k : Cluster) (r : Nat) (x : Resid) : (k.setResident r x).sram = k.sram := rfl
@[simp] theorem Cluster.wire_sram (k : Cluster) (m : KillMsg) : (k.wire m).sram = k.sram := rfl
@[simp] theorem Cluster.reserve_sram (k : Cluster) (e o l m : Nat) : (k.reserve e o l m).sram = k.sram := rfl
@[simp] theorem Cluster.setCq_sram (k : Cluster) (q : Nat) (x : CopyQueue) : (k.setCq q x).sram = k.sram := rfl
@[simp] theorem Cluster.setHead_sram (k : Cluster) (q : Nat) (c : CopyCmd) : (k.setHead q c).sram = k.sram := rfl
@[simp] theorem Cluster.dispatched_sram (k : Cluster) (q : Nat) (x : CopyCmd) : (k.dispatched q x).sram = k.sram := rfl
@[simp] theorem Cluster.retire_sram (k : Cluster) (i r : Nat) : (k.retire i r).sram = k.sram := rfl
@[simp] theorem Cluster.relaunched_sram (k : Cluster) (x : Nat) (f : Nat → Nat) :
    (k.relaunched x f).sram = k.sram := rfl
@[simp] theorem Cluster.withCopies_sram (k src : Cluster) (x0 x : Nat) : (k.withCopies src x0 x).sram = k.sram := rfl

@[simp] theorem Cluster.ringStore_sram (k : Cluster) (r i v : Nat) : (k.ringStore r i v).sram = k.sram := by
  unfold Cluster.ringStore
  grind [Cluster.setRing_sram]

@[simp] theorem Cluster.fifoStore_sram (k : Cluster) (b i v : Nat) : (k.fifoStore b i v).sram = k.sram := by
  grind [Cluster.fifoStore, Cluster.setBq_sram]

@[simp] theorem Cluster.windowStore_sram (k : Cluster) (b i v : Nat) : (k.windowStore b i v).sram = k.sram := by
  unfold Cluster.windowStore
  grind [Cluster.setBq_sram]

@[simp] theorem Cluster.bqStore_sram (k : Cluster) (b i v : Nat) : (k.bqStore b i v).sram = k.sram := by
  grind [Cluster.bqStore, Cluster.fifoStore_sram, Cluster.windowStore_sram]

@[simp] theorem Cluster.setPortEnd_sram (k : Cluster) (p : Nat) (v : Bool) : (k.setPortEnd p v).sram = k.sram := by
  grind [Cluster.setPortEnd, Cluster.setBq_sram, Cluster.setRing_sram]

@[simp] theorem Cluster.portPop_sram (k : Cluster) (p n : Nat) : (k.portPop p n).sram = k.sram := by
  grind [Cluster.portPop, Cluster.setBq_sram, Cluster.ringPop_sram]

@[simp] theorem Cluster.vacate_sram (k : Cluster) (r : Nat) : (k.vacate r).sram = k.sram := by
  grind [Cluster.vacate, foldl_sram_or, Cluster.setTile_sram, Cluster.setAg_sram, Cluster.setMat_sram,
    Cluster.setPages_sram, Cluster.setResident_sram]

@[simp] theorem Cluster.censusRise_sram (k : Cluster) (r n : Nat) : (k.censusRise r n).sram = k.sram := by
  grind [Cluster.censusRise, Cluster.setResident_sram]

theorem Cluster.offer_sram (k : Cluster) (r : Recv) (vc cfg : Nat) (t : Token) {u : Cluster}
    (he : k.offer r vc cfg t = some u) : u.sram = k.sram := by
  unfold Cluster.offer at he
  grind [Cluster.setTile_sram, Cluster.setAg_sram, Cluster.setMat_sram]

@[simp] theorem Cluster.cross_sram (k : Cluster) (x sw again : Nat) (t : Token) :
    (k.cross x sw again t).2.sram = k.sram := by
  grind [Cluster.cross, Cluster.censusRise_sram]

@[simp] theorem Cluster.took_sram (k : Cluster) (x w : Nat) (tok : Token) : (k.took x w tok).sram = k.sram := by
  grind [Cluster.took, Cluster.setTile_sram]

@[simp] theorem Cluster.driveKill_sram (k : Cluster) (x i u : Nat) (m : BitVec 16) :
    (k.driveKill x i u m).sram = k.sram := by
  grind [Cluster.driveKill, Cluster.setTile_sram, Cluster.wire_sram]

@[simp] theorem Cluster.killOutput_sram (k : Cluster) (x o u : Nat) (m : BitVec 16) (sel : Nat → BitVec 16) :
    (k.killOutput x o u m sel).sram = k.sram := by
  grind [Cluster.killOutput, foldl_sram_or, Cluster.setTile_sram, Cluster.driveKill_sram]

@[simp] theorem Cluster.killWord_sram (k : Cluster) (x w q : Nat) (m : BitVec 16) (sel : Nat → BitVec 16) :
    (k.killWord x w q m sel).sram = k.sram := by
  fun_cases Cluster.killWord <;> grind [foldl_sram_or, Cluster.setTile_sram, Cluster.wire_sram, Cluster.killOutput_sram]

@[simp] theorem Cluster.killAg_sram (k : Cluster) (a o q : Nat) (m : BitVec 16) : (k.killAg a o q m).sram = k.sram := by
  grind [Cluster.killAg, Cluster.setAg_sram]

@[simp] theorem Cluster.deliverKill_sram (k : Cluster) (m : KillMsg) : (k.deliverKill m).sram = k.sram := by
  grind [Cluster.deliverKill, Cluster.killWord_sram, Cluster.killAg_sram]

@[simp] theorem Cluster.takeKills_sram (k : Cluster) (u : Nat) : (k.takeKills u).sram = k.sram :=
  foldl_keeps Cluster.sram _ Cluster.deliverKill_sram _ _

@[simp] theorem Cluster.moveTo_sram (k : Cluster) (r o : Nat) : (k.moveTo r o).sram = k.sram := by
  grind [Cluster.moveTo, foldl_sram_or, Cluster.setTile_sram, Cluster.setAg_sram, Cluster.setPages_sram,
    Cluster.setResident_sram]

@[simp] theorem Cluster.startResid_sram (k : Cluster) (m : Image) (r o : Nat) (more : List Nat) (x : Resid) :
    (k.startResid m r o more x).sram = k.sram := by
  grind [Cluster.startResid, foldl_sram_or, Cluster.setTile_sram, Cluster.setAg_sram, Cluster.setMat_sram,
    Cluster.setPages_sram, Cluster.setResident_sram]

@[simp] theorem Cluster.writeBg_sram (k : Cluster) (m : Image) (r : Nat) : (k.writeBg m r).sram = k.sram := by
  grind [Cluster.writeBg, foldl_sram_or, Cluster.setTile_sram, Cluster.setAg_sram, Cluster.setMat_sram,
    Cluster.setPages_sram, Cluster.setResident_sram]

@[simp] theorem Cluster.withChans_sram (k src : Cluster) (x0 x : Nat) : (k.withChans src x0 x).sram = k.sram := by
  refine foldl_keeps Cluster.sram _ (fun _ _ => ?_) _ _
  rfl

@[simp] theorem Cluster.graft_sram (k src : Cluster) (r o x : Nat) : (k.graft src r o x).sram = k.sram := by
  grind [Cluster.graft, foldl_sram_or, Cluster.setTile_sram, Cluster.setAg_sram, Cluster.setMat_sram,
    Cluster.setBq_sram, Cluster.setPages_sram, Cluster.setResident_sram]

/-! ### Operations that keep the canonical form -/

theorem Cluster.write_sram_wf (k : Cluster) (off : Nat) (bs : List Byte) (bad : Bool) (h : k.sram.wf = true) :
    (k.write off bs bad).sram.wf = true :=
  Mem.wf_setBytes bs off h

theorem Cluster.clearBank_sram_wf (k : Cluster) (b : Nat) (h : k.sram.wf = true) : (k.clearBank b).sram.wf = true :=
  Mem.wf_filter _ h

theorem Cluster.putAt_sram_wf (k : Cluster) (pos : Nat → Nat) (bs : List (Byte × Bool)) (h : k.sram.wf = true) :
    (k.putAt pos bs).sram.wf = true := by
  grind [Cluster.putAt, foldl_sram_wf_or, Cluster.write_sram_wf]

theorem Cluster.putMarked_sram_wf (k : Cluster) (off : Nat) (bs : List (Byte × Bool)) (h : k.sram.wf = true) :
    (k.putMarked off bs).sram.wf = true := by
  unfold Cluster.putMarked
  refine foldl_keeps_sram_wf _ (fun k i hk => ?_) _ _ h
  grind [Cluster.write_sram_wf]

theorem Cluster.ringPush_sram_wf (k : Cluster) (r : Nat) (bs : List (Byte × Bool)) (h : k.sram.wf = true) :
    (k.ringPush r bs).sram.wf = true :=
  Cluster.putAt_sram_wf k _ bs h

theorem Cluster.portPush_sram_wf (k : Cluster) (p : Nat) (bs : List (Byte × Bool)) (h : k.sram.wf = true) :
    (k.portPush p bs).sram.wf = true := by
  grind [Cluster.portPush, Cluster.putAt_sram_wf, Cluster.ringPush_sram_wf, Cluster.setBq_sram]

theorem Cluster.putBit_sram_wf (k : Cluster) (cmap i : Nat) (v : Bool) (h : k.sram.wf = true) :
    (k.putBit cmap i v).sram.wf = true :=
  Cluster.write_sram_wf k _ _ _ h

theorem Cluster.bankCut_sram_wf (k : Cluster) (h : k.sram.wf = true) : k.bankCut.sram.wf = true := by
  grind [Cluster.bankCut, Cluster.clearBank_sram_wf, Cluster.setMode_sram]

theorem Cluster.localStore_sram_wf (k : Cluster) (off n v : Nat) (h : k.sram.wf = true) :
    (k.localStore off n v).sram.wf = true := by
  grind [Cluster.localStore, Cluster.write_sram_wf, Cluster.ringStore_sram, Cluster.bqStore_sram]

theorem Cluster.restored_sram_wf (k src : Cluster) (x0 x : Nat) (places : List (Nat × Nat)) (h : src.sram.wf = true) :
    (k.restored src x0 x places).sram.wf = true := by
  have hg : ∀ k' : Cluster, (places.foldl (fun (k : Cluster) e => k.graft src e.1 e.2 x) k').sram = k'.sram :=
    foldl_keeps Cluster.sram _ (fun _ _ => Cluster.graft_sram ..) _
  unfold Cluster.restored
  simp only [hg, Cluster.withCopies_sram, Cluster.withChans_sram]
  exact Mem.wf_filter _ h

/-! ### Clusters read from a save image (R420 to R422) -/

theorem Cluster.readLocal_sram_wf (k : Cluster) (listed : List Nat) (body : List (Byte × Bool)) :
    (k.readLocal listed body).sram.wf = true := by
  have hf : ∀ (l : List (Nat × List (Byte × Bool))) (m : Mem), m.wf = true →
      (l.foldl (fun m e => m.setBytes e.1 (plain e.2)) m).wf = true := by
    intro l
    induction l with
    | nil => exact fun _ h => h
    | cons e l ih => exact fun m h => ih _ (Mem.wf_setBytes _ _ h)
  exact hf _ [] rfl

theorem Cluster.readResid_sram (k : Cluster) (x : Nat) (y : Sect) (sp : List (List Byte))
    {r : Cluster × List (List Byte)}
    (he : k.readResid x y sp = some r) : r.1.sram = k.sram := by
  simp only [Cluster.readResid, Option.bind_eq_bind, Option.bind_eq_some_iff] at he
  obtain ⟨_, -, ts, -, gs, -, ms, -, he⟩ := he
  cases he
  simp only [foldl_keeps Cluster.sram _ (fun (k : Cluster) (e : Nat × Isle) => k.setMat_sram e.1 e.2),
    foldl_keeps Cluster.sram _ (fun (k : Cluster) (e : Nat × Ag) => k.setAg_sram e.1 e.2),
    foldl_keeps Cluster.sram _ (fun (k : Cluster) (e : Nat × Tile) => k.setTile_sram e.1 e.2), Cluster.setResident_sram]

theorem Cluster.readResids_sram (x : Nat) (ys : List Sect) (sp : List (List Byte)) (k : Cluster) {u : Cluster}
    (he : Cluster.readResids x ys sp k = some u) : u.sram = k.sram := by
  induction ys generalizing sp k with
  | nil => cases he; rfl
  | cons y ys ih =>
    obtain ⟨r, hr, he⟩ := Option.bind_eq_some_iff.1 he
    exact (ih _ _ he).trans (k.readResid_sram x y sp hr)

theorem readCluster_sram_wf {x i : Nat} {ss : List Sect} {r : SavedCl × EngRec} (he : readCluster x i ss = some r) :
    r.1.body.sram.wf = true := by
  simp only [readCluster, Option.bind_eq_bind, Option.bind_eq_some_iff] at he
  obtain ⟨_, -, e, -, _, -, loc, -, k, hk, he⟩ := he
  have hs := Cluster.readResids_sram _ _ _ _ hk
  have hr : r.1.body = k := by cases he; rfl
  rw [hr, hs]
  split
  · dsimp only
    exact Cluster.readLocal_sram_wf ..
  · exact Cluster.readLocal_sram_wf ..

theorem readClusters_sram_wf {x : Nat} {ss : List Sect} {is : List Nat} {cs : List (SavedCl × EngRec)}
    (he : readClusters x ss is = some cs) : ∀ r ∈ cs, r.1.body.sram.wf = true := by
  induction is generalizing cs with
  | nil =>
    simp only [readClusters, Option.some.injEq] at he
    subst he
    simp
  | cons i is ih =>
    simp only [readClusters, Option.bind_eq_some_iff, Option.map_eq_some_iff] at he
    obtain ⟨r, hr, t, ht, rfl⟩ := he
    intro z hz
    obtain rfl | hz := List.mem_cons.1 hz
    · exact readCluster_sram_wf hr
    · exact ih ht z hz

theorem readImageBytes_sram_wf {head : Nat} {body : List (Byte × Bool)} {r : SaveRec}
    (he : readImageBytes head body = some r) : ∀ z ∈ r.cls, z.body.sram.wf = true := by
  simp only [readImageBytes, Option.bind_eq_bind, Option.bind_eq_some_iff] at he
  obtain ⟨ss, -, he⟩ := he
  split at he
  · cases he
  · obtain ⟨cs, hcs, he⟩ := Option.bind_eq_some_iff.1 he
    cases he
    intro z hz
    obtain ⟨e, hem, rfl⟩ := List.mem_map.1 hz
    exact readClusters_sram_wf hcs e hem

/-! ### The clusters that a restore puts back (R423) -/

theorem mem_insertBy {α : Type} {before : α → α → Bool} {x y : α} {l : List α} (h : y ∈ insertBy before x l) :
    y = x ∨ y ∈ l := by
  induction l with
  | nil => exact .inl (List.mem_singleton.1 h)
  | cons z l ih =>
    simp only [insertBy] at h
    grind

theorem mem_of_mem_sortBy {α : Type} {before : α → α → Bool} {y : α} {l : List α} (h : y ∈ sortBy before l) :
    y ∈ l := by
  have hf : ∀ (l acc : List α), y ∈ l.foldl (fun acc x => insertBy before x acc) acc → y ∈ l ∨ y ∈ acc := by
    intro l
    induction l with
    | nil => exact fun _ h => .inr h
    | cons x l ih =>
      intro acc h
      obtain h | h := ih _ h
      · exact .inl (List.mem_cons_of_mem _ h)
      · exact (mem_insertBy h).elim (fun e => .inl (e ▸ List.mem_cons_self)) .inr
  exact (hf l [] h).elim id nofun

/-- A fold that pairs each element, or gives up, pairs elements of its list only. -/
theorem foldl_pairs_mem {α β : Type} {f : Option (List (α × β)) → α → Option (List (α × β))}
    (hf : ∀ acc z r, f acc z = some r → ∃ qs c, acc = some qs ∧ r = qs ++ [(z, c)]) (l : List α)
    (acc : Option (List (α × β))) {ps : List (α × β)} (h : l.foldl f acc = some ps) :
    ∀ p ∈ ps, p.1 ∈ l ∨ ∃ qs, acc = some qs ∧ p ∈ qs := by
  induction l generalizing acc with
  | nil => exact fun p hp => .inr ⟨ps, h, hp⟩
  | cons a l ih =>
    intro p hp
    obtain hl | ⟨r, hr, hp⟩ := ih _ h p hp
    · exact .inl (List.mem_cons_of_mem _ hl)
    · obtain ⟨qs, c, hq, rfl⟩ := hf _ _ _ hr
      obtain hp | hp := List.mem_append.1 hp
      · exact .inr ⟨qs, hq, hp⟩
      · exact .inl (List.mem_singleton.1 hp ▸ List.mem_cons_self)

theorem chooseDie_mem {s : State} {r : SaveRec} {x : Nat} {only : Option Nat} {d : Nat} {pairs : List (SavedCl × Nat)}
    (he : s.chooseDie r x only = some (d, pairs)) : ∀ p ∈ pairs, p.1 ∈ r.cls := by
  obtain ⟨d', -, he⟩ := List.exists_of_findSome?_eq_some he
  obtain ⟨-, he⟩ := Option.ite_none_left_eq_some.1 he
  obtain ⟨ps, hps, he⟩ := Option.map_eq_some_iff.1 he
  cases he
  intro p hp
  refine (foldl_pairs_mem (fun acc z r hr => ?_) _ _ hps p hp).elim mem_of_mem_sortBy fun hq => ?_
  · cases acc with
    | none => cases hr
    | some qs =>
      obtain ⟨c, -, rfl⟩ := Option.map_eq_some_iff.1 hr
      exact ⟨qs, c, rfl, rfl⟩
  · obtain ⟨qs, hq, hp⟩ := hq
    cases hq
    cases hp

end Sys2Proof.Machine
end

section
/-! SUPPORT. The canonical form of the banks (R75, R462) under the shared operations: one lemma per operation of the
model (`_banks`), which rests on the lemmas of the operations that it calls. -/

-- One declaration at a time: elaborated side by side, the threads of so many pass the memory limit.
set_option Elab.async false

namespace Sys2Proof.Machine

/-! ### The banks of a state -/

/-- The banks of these clusters, and of those that these saves have copied, are in canonical form. -/
def BanksWf (cs : Tab Cluster) (ps : List Preempt) : Prop :=
  (∀ e ∈ cs, e.2.sram.wf = true) ∧ ∀ p ∈ ps, ∀ z ∈ p.snap, z.body.sram.wf = true

/-- The invariant looks at the clusters and the saves under way, and at nothing else of a state. -/
theorem bankInv_iff (s : State) : BankInv s ↔ BanksWf s.clusters s.pkg.preempts := Iff.rfl

theorem Tab.mem_put {V : Type} {t : Tab V} {k : Nat} {v : V} {e : Nat × V} (h : e ∈ t.put k v) :
    e = (k, v) ∨ e ∈ t := by
  induction t with
  | nil => exact .inl (List.mem_singleton.1 h)
  | cons x t ih =>
    simp only [Tab.put] at h
    grind

theorem cl_sram_wf {s : State} (h : BankInv s) (c : Nat) : (s.cl c).sram.wf = true := by
  unfold State.cl Tab.get
  cases hf : s.clusters.find c with
  | none => rfl
  | some k => exact h.1 _ (Tab.mem_of_find _ hf)

theorem State.setCl_banks (s : State) (c : Nat) (k : Cluster) (h : BankInv s) (hk : k.sram.wf = true) :
    BankInv (s.setCl c k) :=
  ⟨fun e he => (Tab.mem_put he).elim (fun hek => hek ▸ hk) (h.1 e), h.2⟩

theorem State.setSq_banks (s : State) (c : Nat) (q : Seq) (h : BankInv s) : BankInv (s.setSq c q) :=
  s.setCl_banks c _ h (cl_sram_wf h c)

theorem State.setChan_banks (s : State) (c n : Nat) (x : Channel) (h : BankInv s) : BankInv (s.setChan c n x) :=
  s.setCl_banks c _ h (cl_sram_wf h c)

theorem State.setDie_banks (s : State) (d : Nat) (k : Die) (h : BankInv s) : BankInv (s.setDie d k) := h
theorem State.setAmber_banks (s : State) (d : Nat) (a : Amber) (h : BankInv s) : BankInv (s.setAmber d a) := h
theorem State.setCtx_banks (s : State) (x : Nat) (k : Ctx) (h : BankInv s) : BankInv (s.setCtx x k) := h
theorem State.drawNat_banks (s : State) (h : BankInv s) : BankInv s.drawNat.2 := h
theorem State.drawWord_banks (s : State) (h : BankInv s) : BankInv s.drawWord.2 := h
theorem State.send_banks (s : State) (m : OutMsg) (h : BankInv s) : BankInv (s.send m) := h

theorem State.setPkg_banks (s : State) (p : Package) (hp : p.preempts = s.pkg.preempts) (h : BankInv s) :
    BankInv (s.setPkg p) :=
  ⟨h.1, hp ▸ h.2⟩

/-- A package part whose saves hold no banks but those of the saves before. -/
theorem State.setPkg_banks_of_snap (s : State) (p : Package)
    (hp : ∀ y ∈ p.preempts, y.snap = [] ∨ ∃ x ∈ s.pkg.preempts, y.snap = x.snap)
    (h : BankInv s) : BankInv (s.setPkg p) := by
  refine ⟨h.1, fun y hy z hz => ?_⟩
  obtain he | ⟨x, hx, he⟩ := hp y hy
  · simp [he] at hz
  · exact h.2 x hx z (he ▸ hz)

theorem SameButMem.banks {s t : State} (f : SameButMem s t) (h : BankInv s) : BankInv t := by
  rwa [bankInv_iff, f.clusters, f.pkg]

theorem storeHome_banks (s : State) (die agent pa : Nat) (bs : List Byte) (bad : Bool) (h : BankInv s) :
    BankInv (s.storeHome die agent pa bs bad) :=
  (storeHome_frame s die agent pa bs bad).1.banks h

theorem drainAll_banks (s : State) (c : Nat) (h : BankInv s) : BankInv (s.drainAll c) :=
  (drainAll_frame s c).1.banks (s.setSq_banks c _ h)

/-! ### Folds -/

/-- A fold of steps that each keep the banks' form keeps it as a whole; `p` finds the state in what the fold carries. -/
theorem foldl_keeps_banks {α β : Type} (p : β → State) (f : β → α → β)
    (hf : ∀ b a, BankInv (p b) → BankInv (p (f b a))) (l : List α) (b : β) (h : BankInv (p b)) :
    BankInv (p (l.foldl f b)) := by
  induction l generalizing b with
  | nil => exact h
  | cons a l ih => exact ih _ (hf b a h)

theorem foldl_banks {α : Type} {f : State → α → State} (hf : ∀ s a, BankInv s → BankInv (f s a)) (l : List α)
    (s : State) (h : BankInv s) : BankInv (l.foldl f s) :=
  foldl_keeps_banks id f hf l s h

theorem foldl_eq_keeps_banks {α β : Type} (p : β → State) {f : β → α → β} {l : List α} {b r : β} (he : l.foldl f b = r)
    (h : BankInv (p b)) (hf : ∀ b a, BankInv (p b) → BankInv (p (f b a))) : BankInv (p r) :=
  he ▸ foldl_keeps_banks p f hf l b h

/-- The same as alternatives, as `grind` splits them. -/
theorem foldl_banks_or {α : Type} (f : State → α → State) (l : List α) (s : State) :
    (∃ t a, BankInv t ∧ ¬ BankInv (f t a)) ∨ (BankInv s → BankInv (l.foldl f s)) := by
  by_contra! h
  exact h.2.2 (foldl_banks h.1 l s h.2.1)

theorem foldl_fst_banks_or {α β : Type} (f : State × β → α → State × β) (l : List α) (s : State × β) :
    (∃ t a, BankInv t.1 ∧ ¬ BankInv (f t a).1) ∨ (BankInv s.1 → BankInv (l.foldl f s).1) := by
  by_contra! h
  exact h.2.2 (foldl_keeps_banks Prod.fst f h.1 l s h.2.1)

theorem foldl_snd_banks_or {α β : Type} (f : β × State → α → β × State) (l : List α) (s : β × State) :
    (∃ t a, BankInv t.2 ∧ ¬ BankInv (f t a).2) ∨ (BankInv s.2 → BankInv (l.foldl f s).2) := by
  by_contra! h
  exact h.2.2 (foldl_keeps_banks Prod.snd f h.1 l s h.2.1)

theorem State.disarm_banks (s : State) (h : BankInv s) : BankInv s.disarm := by
  grind [State.disarm, = bankInv_iff]

theorem State.setMailbox_banks (s : State) (m : Nat) (x : Mailbox) (h : BankInv s) : BankInv (s.setMailbox m x) := by
  grind [State.setMailbox, State.setPkg_banks]

theorem State.doorbell_banks (s : State) (c : FwCmd) (h : BankInv s) : BankInv (s.doorbell c) := by
  grind [State.doorbell, State.setMailbox_banks, State.setPkg_banks]

theorem State.mbxWrite_banks (s : State) (src : DevSrc) (m off v : Nat) (h : BankInv s) :
    BankInv (s.mbxWrite src m off v) := by
  unfold State.mbxWrite
  grind [State.doorbell_banks, State.setMailbox_banks]

theorem State.amberDrop_banks (s : State) (d : Nat) (h : BankInv s) : BankInv (s.amberDrop d) := by
  grind [State.amberDrop, State.setAmber_banks]

theorem State.dropCopy_banks (s : State) (die line : Nat) (h : BankInv s) : BankInv (s.dropCopy die line) := by
  grind [State.dropCopy, = bankInv_iff]

theorem State.invalidate_banks (s : State) (die agent line : Nat) (h : BankInv s) :
    BankInv (s.invalidate die agent line) := by
  grind [State.invalidate, foldl_banks_or, State.dropCopy_banks, = bankInv_iff]

theorem State.setArec_banks (s : State) (d i : Nat) (r : AmbRec) (h : BankInv s) : BankInv (s.setArec d i r) := by
  grind [State.setArec, State.setAmber_banks]

theorem State.unwatch_banks (s : State) (d i : Nat) (h : BankInv s) : BankInv (s.unwatch d i) := by
  grind [State.unwatch, = bankInv_iff]

theorem State.restEngines_banks (s : State) (d : Nat) (h : BankInv s) : BankInv (s.restEngines d) := by
  grind [State.restEngines, State.setDie_banks]

theorem State.discardLate_banks (s : State) (c x : Nat) (h : BankInv s) : BankInv (s.discardLate c x) := by
  refine s.setPkg_banks_of_snap _ (fun y hy => ?_) h
  obtain ⟨p, hp, rfl⟩ := List.mem_map.1 hy
  exact .inr ⟨p, hp, by split <;> rfl⟩

theorem State.enqueue_banks (s : State) (c n : Nat) (m : QMsg) (h : BankInv s) : BankInv (s.enqueue c n m) := by
  grind [State.enqueue, State.discardLate_banks, State.setChan_banks]

theorem State.postMc_banks (s : State) (c : Nat) (m : QMsg) (h : BankInv s) : BankInv (s.postMc c m) := by
  grind [State.postMc, State.enqueue_banks, State.setSq_banks]

theorem State.count_banks (s : State) (h k : Nat) (hb : BankInv s) : BankInv (s.count h k) := by
  grind [State.count, State.setPkg_banks]

theorem State.machineCheck_banks (s : State) (c ctx source unit pa : Nat) (va : Word) (detail : Nat) (h : BankInv s) :
    BankInv (s.machineCheck c ctx source unit pa va detail) := by
  grind [State.machineCheck, State.count_banks, State.postMc_banks]

theorem State.post_banks (s : State) (c sender n : Nat) (m : QMsg) (h : BankInv s) : BankInv (s.post c sender n m) := by
  grind [State.post, State.enqueue_banks, State.setCl_banks, cl_sram_wf]

theorem State.amberSay_banks (s : State) (d cl chan : Nat) (m : Msg) (ctx : Nat) (h : BankInv s) :
    BankInv (s.amberSay d cl chan m ctx) := by
  grind [State.amberSay, State.post_banks]

theorem State.accFail_banks (s : State) (x : AmbAcc) (d i b : Nat) (f : AFail) (h : BankInv s) :
    BankInv (s.accFail x d i b f) := by
  grind [State.accFail, State.setArec_banks, State.amberSay_banks]

theorem State.acquire_banks (s : State) (agent : Nat) (h : BankInv s) : BankInv (s.acquire agent) := by
  grind [State.acquire, = bankInv_iff]

theorem State.deviceStore_banks (s : State) (cl ctx pa : Nat) (bs : List Byte) (h : BankInv s) :
    BankInv (s.deviceStore cl ctx pa bs) := by
  grind [State.deviceStore, = bankInv_iff]

theorem State.deliverKnown_banks (s : State) (agent die : Nat) (c : Scope) (h : BankInv s) :
    BankInv (s.deliverKnown agent die c) := by
  grind [State.deliverKnown, foldl_banks_or, State.dropCopy_banks]

theorem State.amberRelease_banks (s : State) (d : Nat) (h : BankInv s) : BankInv (s.amberRelease d) := by
  grind [State.amberRelease, State.deliverKnown_banks]

theorem State.amberFail_banks (s : State) (d i b : Nat) (f : AFail) (h : BankInv s) :
    BankInv (s.amberFail d i b f) := by
  grind [State.amberFail, State.accFail_banks]

theorem State.laterUp_banks (s : State) (d i b : Nat) (h : BankInv s) : BankInv (s.laterUp d i b) := by
  grind [State.laterUp, State.setArec_banks]

theorem State.settledUp_banks (s : State) (d i b : Nat) (h : BankInv s) : BankInv (s.settledUp d i b) := by
  grind [State.settledUp, State.setArec_banks]

theorem State.wakeFor_banks (s : State) (d : Nat) (e : LeaseReq) (p : Nat) (h : BankInv s) :
    BankInv (s.wakeFor d e p) := by
  grind [State.wakeFor, State.setDie_banks]

theorem State.wakeEngines_banks (s : State) (d : Nat) (h : BankInv s) : BankInv (s.wakeEngines d) := by
  grind [State.wakeEngines, foldl_banks_or, State.wakeFor_banks]

theorem State.freeExtent_banks (s : State) (d i b : Nat) (h : BankInv s) : BankInv (s.freeExtent d i b) := by
  grind [State.freeExtent, State.setAmber_banks]

theorem State.keepCopy_banks (s : State) (die : Nat) (cached : Bool) (pa : Nat) (h : BankInv s) :
    BankInv (s.keepCopy die cached pa) := by
  grind [State.keepCopy, = bankInv_iff]

theorem State.setHq_banks (s : State) (d q : Nat) (x : HostQ) (h : BankInv s) : BankInv (s.setHq d q x) := by
  grind [State.setHq, State.setDie_banks]

theorem State.hqPacket_banks (s : State) (x : HostQ) (h : BankInv s) : BankInv (s.hqPacket x).2 := by
  fun_cases State.hqPacket
  · exact h
  · exact h
  · exact foldl_keeps_banks (fun p : Nat × State => p.2) (fun (acc : Nat × State) i =>
      let w := acc.2.drawWord
      (acc.1 + w.1.toNat * 2 ^ (64 * i), w.2)) (fun b _ hb => b.2.drawWord_banks hb) _ (0, s) h

theorem State.deviceOdd_banks (s : State) (pa : Nat) (h : BankInv s) : BankInv (s.deviceOdd pa) := by
  grind [State.deviceOdd, State.amberDrop_banks]

theorem State.seqPoison_banks (s : State) (c ctx pa va : Nat) (h : BankInv s) : BankInv (s.seqPoison c ctx pa va) := by
  grind [State.seqPoison, State.machineCheck_banks]

theorem State.loadMem_banks (s : State) (c ctx va n pa : Nat) (cached : Bool) (h : BankInv s) :
    BankInv (s.loadMem c ctx va n pa cached).2 := by
  grind [State.loadMem, State.keepCopy_banks, State.seqPoison_banks]

theorem State.tickCycle_banks (s : State) (c : Nat) (h : BankInv s) : BankInv (s.tickCycle c) := by
  grind [State.tickCycle, State.setSq_banks, State.drawNat_banks]

theorem State.arm_banks (s : State) (a : Actor) (h : BankInv s) : BankInv (s.arm a) := by
  grind [State.arm, = bankInv_iff]

theorem State.atSeq_banks (s : State) (c : Nat) (h : BankInv s) : BankInv (s.atSeq c) := by
  grind [State.atSeq, = bankInv_iff]

theorem State.reportLink_banks (s : State) (d : Nat) (g : Gang) (h : BankInv s) : BankInv (s.reportLink d g) := by
  grind [State.reportLink, State.send_banks]

theorem State.setGang_banks (s : State) (d l : Nat) (g : Gang) (h : BankInv s) : BankInv (s.setGang d l g) := by
  grind [State.setGang, State.setDie_banks]

theorem State.gbarTry_banks (s : State) (d l b : Nat) (h : BankInv s) : BankInv (s.gbarTry d l b) := by
  grind [State.gbarTry, foldl_banks_or, State.post_banks, State.setGang_banks]

theorem State.readView_banks (s : State) (die : Nat) (cached : Bool) (pa n : Nat) (h : BankInv s) :
    BankInv (s.readView die cached pa n).2.2 := by
  grind [State.readView, State.keepCopy_banks]

theorem State.pop60_banks (s : State) (c : Nat) (h : BankInv s) : BankInv (s.pop60 c).2 := by
  grind [State.pop60, State.setCl_banks, State.machineCheck_banks, cl_sram_wf, Cluster.ringPop_sram]

theorem State.readReg_banks (s : State) (c : Nat) (r : Reg) (h : BankInv s) : BankInv (s.readReg c r).2 := by
  grind [State.readReg, State.pop60_banks]

theorem State.readSrcs_banks (s : State) (c : Nat) (w : Word32) (srcs : List Reg) (dst : Option Reg) {a : List Word}
    {t : State} (he : s.readSrcs c w srcs dst = .ok (a, t)) (h : BankInv s) : BankInv t := by
  have hf := foldl_keeps_banks Prod.snd (fun (acc : List Word × State) r =>
      let x := acc.2.readReg c r
      (acc.1 ++ [x.1], x.2)) (fun p r hp => p.2.readReg_banks c r hp) srcs ([], s) h
  unfold State.readSrcs at he
  grind

theorem State.setPc_banks (s : State) (c : Nat) (pc : Word) (h : BankInv s) : BankInv (s.setPc c pc) := by
  grind [State.setPc, State.setSq_banks]

theorem State.advance_banks (s : State) (c : Nat) (h : BankInv s) : BankInv (s.advance c) := by
  grind [State.advance, State.setPc_banks]

theorem State.writeDst_banks (s : State) (c : Nat) (d : Reg) (v : Word) (h : BankInv s) :
    BankInv (s.writeDst c d v) := by
  grind [State.writeDst, State.setSq_banks, State.setCl_banks, cl_sram_wf, Cluster.ringPush_sram_wf]

theorem State.compute_banks (s : State) (c : Nat) (w : Word32) (srcs : List Reg) (d : Reg) (f : List Word → Word)
    {t : State} (he : s.compute c w srcs d f = .ok t) (h : BankInv s) : BankInv t := by
  simp only [State.compute, bind, Except.bind] at he
  grind [State.readSrcs_banks, State.writeDst_banks, State.advance_banks]

theorem State.freshen_banks (s : State) (die : Nat) (h : BankInv s) : BankInv (s.freshen die) := by
  grind [State.freshen, foldl_banks_or, State.dropCopy_banks]

theorem State.freshAt_banks (s : State) (c : Nat) (sc : Scope) (h : BankInv s) : BankInv (s.freshAt c sc) := by
  grind [State.freshAt, State.freshen_banks]

theorem State.after_banks (s : State) (c : Nat) (o : Order) (h : BankInv s) : BankInv (s.after c o) := by
  unfold State.after
  grind [State.acquire_banks]

theorem State.markSc_banks (s : State) (agent line : Nat) (h : BankInv s) : BankInv (s.markSc agent line) := by
  grind [State.markSc, = bankInv_iff]

theorem State.deliverSc_banks (s : State) (agent die : Nat) (c : Scope) (h : BankInv s) :
    BankInv (s.deliverSc agent die c) := by
  grind [State.deliverSc, foldl_banks_or, State.dropCopy_banks]

theorem State.setSlot_banks (s : State) (c i : Nat) (x : LeaseSlot) (h : BankInv s) : BankInv (s.setSlot c i x) := by
  grind [State.setSlot, State.setCl_banks, cl_sram_wf]

theorem State.setXq_banks (s : State) (d q : Nat) (x : XQueue) (h : BankInv s) : BankInv (s.setXq d q x) := by
  grind [State.setXq, State.setDie_banks]

theorem State.placeMarker_banks (s : State) (c id b : Nat) (h : BankInv s) : BankInv (s.placeMarker c id b) := by
  grind [State.placeMarker, State.setXq_banks, State.setCl_banks, State.setSlot_banks, cl_sram_wf, Cluster.setCq_sram]

theorem State.qfence_banks (s : State) (c mask : Nat) (h : BankInv s) : BankInv (s.qfence c mask).2 := by
  grind [State.qfence, foldl_banks_or, State.setPkg_banks, State.placeMarker_banks]

theorem State.returnTrap_banks (s : State) (c : Nat) (h : BankInv s) : BankInv (s.returnTrap c) := by
  grind [State.returnTrap, State.setSq_banks]

theorem State.writeMcmode_banks (s : State) (ctx : Nat) (v : Word) {t : State} (he : s.writeMcmode ctx v = some t)
    (h : BankInv s) :
    BankInv t := by
  grind [State.writeMcmode, State.setCtx_banks]

theorem State.writeSys_banks (s : State) (c n : Nat) (v : Word) {t : State} (he : s.writeSys c n v = some t)
    (h : BankInv s) :
    BankInv t := by
  unfold State.writeSys at he
  grind [State.setSq_banks, State.setCl_banks, State.writeMcmode_banks, cl_sram_wf, Cluster.bankRequest_sram]

theorem State.cmdChecks_banks (s : State) (c ctx : Nat) (bad : List (Nat × Nat)) (h : BankInv s) :
    BankInv (s.cmdChecks c ctx bad) := by
  grind [State.cmdChecks, foldl_banks_or, State.machineCheck_banks]

theorem State.renameAgs_banks (s : State) (c : Nat) (as : List (Nat × Nat)) (h : BankInv s) :
    BankInv (s.renameAgs c as) := by
  grind [State.renameAgs, = bankInv_iff]

theorem State.lease_banks (s : State) (c i p : Nat) (asked : Bool) (h : BankInv s) : BankInv (s.lease c i p asked) := by
  grind [State.lease, State.setDie_banks, State.setSlot_banks]

theorem State.leaseCmd_banks (s : State) (c ctx a b : Nat) (h : BankInv s) : BankInv (s.leaseCmd c ctx a b).2 := by
  grind [State.leaseCmd, State.lease_banks, State.setDie_banks, State.setSlot_banks]

theorem State.settleSlot_banks (s : State) (c i : Nat) (h : BankInv s) : BankInv (s.settleSlot c i) := by
  grind [State.settleSlot, State.setDie_banks, State.setSlot_banks]

theorem State.amberWakes_banks (s : State) (d : Nat) (h : BankInv s) : BankInv (s.amberWakes d) := by
  grind [State.amberWakes, State.setDie_banks]

theorem State.sayLease_banks (s : State) (c i event n reason : Nat) (h : BankInv s) :
    BankInv (s.sayLease c i event n reason) := by
  grind [State.sayLease, State.post_banks]

theorem State.serve_banks (s : State) (d : Nat) (e : LeaseReq) {t : State} (he : s.serve d e = some t) (h : BankInv s) :
    BankInv t := by
  simp only [State.serve] at he
  split at he <;> split at he
  · split at he
    · grind
    · obtain ⟨k, -, rfl⟩ := Option.map_eq_some_iff.1 he; exact h
  · obtain ⟨k, -, rfl⟩ := Option.map_eq_some_iff.1 he; exact h
  · obtain ⟨k, -, rfl⟩ := Option.map_eq_some_iff.1 he; exact h
  · obtain ⟨k, -, rfl⟩ := Option.map_eq_some_iff.1 he
    exact State.sayLease_banks _ _ _ _ _ _ (State.lease_banks _ _ _ _ _ h)

theorem State.serveQueue_banks (d : Nat) (l : List LeaseReq) (s : State) (h : BankInv s) :
    BankInv (State.serveQueue d l s) := by
  fun_induction State.serveQueue <;> grind [State.serve_banks, State.setDie_banks]

theorem State.giveNotice_banks (s : State) (d prio : Nat) (h : BankInv s) : BankInv (s.giveNotice d prio) := by
  grind [State.giveNotice, State.serve_banks, State.setDie_banks, State.sayLease_banks]

theorem State.arbitrate_banks (s : State) (d : Nat) (h : BankInv s) : BankInv (s.arbitrate d) := by
  grind [State.arbitrate, foldl_banks_or, State.amberWakes_banks, State.serveQueue_banks, State.giveNotice_banks]

theorem State.releaseLease_banks (s : State) (c i : Nat) (h : BankInv s) : BankInv (s.releaseLease c i) := by
  grind [State.releaseLease, State.settleSlot_banks, State.setDie_banks, State.setSlot_banks, State.arbitrate_banks]

theorem State.countBy_banks (s : State) (h k n : Nat) (hb : BankInv s) : BankInv (s.countBy h k n) := by
  grind [State.countBy, State.setPkg_banks]

theorem State.dropBoost_banks (s : State) (b : Boost) (h : BankInv s) : BankInv (s.dropBoost b) := by
  grind [State.dropBoost, State.countBy_banks, State.setPkg_banks]

theorem State.lfreeCmd_banks (s : State) (c ctx v : Nat) (h : BankInv s) : BankInv (s.lfreeCmd c ctx v).2 := by
  fun_cases State.lfreeCmd <;> grind [State.releaseLease_banks, State.setDie_banks, State.setSlot_banks,
    State.dropBoost_banks]

theorem State.boostCmd_banks (s : State) (c ctx a b : Nat) (h : BankInv s) : BankInv (s.boostCmd c ctx a b).2 := by
  grind [State.boostCmd, State.setPkg_banks]

theorem State.tbind_banks (s : State) (c ctx : Nat) (entry v : Word) (h : BankInv s) :
    BankInv (s.tbind c ctx entry v).2 := by
  grind [State.tbind, State.setChan_banks]

theorem State.retryHeld_banks (s : State) (c k : Nat) (h : BankInv s) : BankInv (s.retryHeld c k) := by
  grind [State.retryHeld, State.enqueue_banks, State.setCl_banks, cl_sram_wf]

theorem State.retryFrom_banks (s : State) (c rank : Nat) (h : BankInv s) : BankInv (s.retryFrom c rank) := by
  unfold State.retryFrom
  refine foldl_keeps_banks Prod.fst _ (fun b a hb => ?_) _ _ h
  grind [State.retryHeld_banks]

theorem State.retryAll_banks (s : State) (c : Nat) (h : BankInv s) : BankInv (s.retryAll c) := by
  grind [State.retryAll, foldl_banks_or, State.retryFrom_banks]

theorem State.dispatchTask_banks (s : State) (c : Nat) (h : BankInv s) : BankInv (s.dispatchTask c) := by
  grind [State.dispatchTask, State.acquire_banks, State.setSq_banks, State.setChan_banks]

theorem State.mtError_banks (s : State) (t w : Nat) (bad : Bool) (h : BankInv s) : BankInv (s.mtError t w bad) := by
  grind [State.mtError, State.setCl_banks, State.drawNat_banks, State.count_banks, cl_sram_wf, Cluster.setTile_sram]

theorem State.eccError_banks (s : State) (sram : Bool) (a : Nat) (bad : Bool) (h : BankInv s) :
    BankInv (s.eccError sram a bad) := by
  grind [State.eccError, State.setCl_banks, State.count_banks, State.mtError_banks, = bankInv_iff, cl_sram_wf]

theorem State.scrub_banks (s : State) (sram : Bool) (a : Nat) (h : BankInv s) : BankInv (s.scrub sram a) := by
  grind [State.scrub, State.eccError_banks, State.drawNat_banks]

theorem State.posted_banks (s : State) (h : BankInv s) : BankInv s.posted := by
  grind [State.posted, State.deliverKnown_banks]

theorem State.later_banks (s : State) (d i b : Nat) (h : BankInv s) : BankInv (s.later d i b) := by
  grind [State.later, State.setArec_banks]

theorem State.writeExtent_banks (s : State) (d i b : Nat) (bs : List Byte) {t : State}
    (he : s.writeExtent d i b bs = some t) (h : BankInv s) : BankInv t := by
  grind [State.writeExtent, State.setAmber_banks, State.countBy_banks]

theorem State.barEval_banks (s : State) (c q b : Nat) (h : BankInv s) : BankInv (s.barEval c q b) := by
  simp only [State.barEval]
  split
  · exact h
  · split
    · refine State.post_banks _ _ _ _ _ (State.setCl_banks _ _ _ h ?_)
      have hw := Cluster.write_sram_wf (s.cl c)
      exact Cluster.write_sram_wf _ _ _ false (hw _ _ false (cl_sram_wf h c))
    · exact h

theorem State.barWord_banks (s : State) (c q a : Nat) (h : BankInv s) : BankInv (s.barWord c q a) := by
  grind [State.barWord, foldl_banks_or, State.barEval_banks]

theorem State.copyStart_banks (s : State) (c q : Nat) (cmd : CopyCmd) (h : BankInv s) :
    BankInv (s.copyStart c q cmd) := by
  grind [State.copyStart, foldl_banks_or, State.barWord_banks, State.setCl_banks, cl_sram_wf, Cluster.dispatched_sram,
    Cluster.putBit_sram_wf, Cluster.setPortEnd_sram, Cluster.write_sram_wf, foldl_sram_or, foldl_sram_wf_or]

theorem State.streamStart_banks (s : State) (kd q : Nat) (h : BankInv s) : BankInv (s.streamStart kd q) := by
  grind [State.streamStart, State.copyStart_banks]

theorem State.barArrive_banks (s : State) (c q b : Nat) (h : BankInv s) : BankInv (s.barArrive c q b).2 := by
  grind [State.barArrive, foldl_banks_or, State.barEval_banks, State.setCl_banks, State.drawNat_banks, cl_sram_wf,
    Cluster.setHead_sram, foldl_sram_or]

theorem State.retireFence_banks (s : State) (c id : Nat) (h : BankInv s) : BankInv (s.retireFence c id) := by
  grind [State.retireFence, foldl_banks_or, State.setXq_banks, State.setCl_banks, cl_sram_wf, Cluster.setCq_sram,
    foldl_sram_or]

theorem State.performAgs_banks (s : State) (c : Nat) (as : List Nat) (h : BankInv s) : BankInv (s.performAgs c as) := by
  grind [State.performAgs, foldl_banks_or, State.deliverKnown_banks]

theorem State.drawPower_banks (s : State) (c u each total : Nat) (h : BankInv s) :
    BankInv (s.drawPower c u each total).2 := by
  grind [State.drawPower, State.setCl_banks, State.setDie_banks, cl_sram_wf]

theorem State.queueStore_banks (s : State) (c x : Nat) (p : MtCtx) (q : MtQueue) (t : Token) (flush : Bool)
    (h : BankInv s) :
    BankInv (s.queueStore c x p q t flush) := by
  grind [State.queueStore, foldl_banks_or, State.drawPower_banks, State.setCl_banks, cl_sram_wf, Cluster.setTile_sram]

theorem State.agPower_banks (s : State) (e : AgEnv) (h : BankInv s) : BankInv (s.agPower e).2 := by
  grind [State.agPower, State.drawPower_banks]

theorem State.agPortEnd_banks (s : State) (e : AgEnv) (h : BankInv s) : BankInv (s.agPortEnd e) := by
  grind [State.agPortEnd, State.setCl_banks, cl_sram_wf, Cluster.setPortEnd_sram]

theorem State.agCheck_banks (s : State) (e : AgEnv) (source pa va lane : Nat) (h : BankInv s) :
    BankInv (s.agCheck e source pa va lane) := by
  grind [State.agCheck, State.machineCheck_banks]

theorem State.agRoundEnd_banks (s : State) (e : AgEnv) (final : Bool) (h : BankInv s) :
    BankInv (s.agRoundEnd e final) := by
  grind [State.agRoundEnd, State.setCl_banks, State.agPortEnd_banks, cl_sram_wf, Cluster.setAg_sram]

theorem State.agRelease_banks (s : State) (e : AgEnv) (h : BankInv s) : BankInv (s.agRelease e) := by
  grind [State.agRelease, foldl_banks_or, State.deliverKnown_banks]

theorem State.winStore_banks (s : State) (e : AgEnv) (va : Nat) (b : Byte) (bad : Bool) (h : BankInv s) :
    BankInv (s.winStore e va b bad) := by
  grind [State.winStore, State.setCl_banks, cl_sram_wf, Cluster.write_sram_wf]

theorem State.agSaw_banks (s : State) (e : AgEnv) (sees pas : List Nat) (h : BankInv s) :
    BankInv (s.agSaw e sees pas) := by
  grind [State.agSaw, State.setSq_banks]

theorem State.agFault_banks (s : State) (e : AgEnv) (kind lane code lvl va : Nat) (cnt : List Nat)
    (pend : BitVec 16) (btva : Nat) (h : BankInv s) : BankInv (s.agFault e kind lane code lvl va cnt pend btva) := by
  grind [State.agFault, State.post_banks, State.setCl_banks, cl_sram_wf, Cluster.setAg_sram]

theorem State.wantBlock_banks (s : State) (d ctx va : Nat) (h : BankInv s) : BankInv (s.wantBlock d ctx va) := by
  grind [State.wantBlock, State.setDie_banks]

theorem State.nestAfter_banks (s : State) (e : AgEnv) (next : List Nat) (lvl : Option Nat) (fin1 : Bool)
    (h : BankInv s) :
    BankInv (s.nestAfter e next lvl fin1) := by
  grind [State.nestAfter, State.setCl_banks, State.agRoundEnd_banks, cl_sram_wf, Cluster.setAg_sram]

theorem State.claimFault_banks (s : State) (c r a : Nat) (f : AFail) (h : BankInv s) :
    BankInv (s.claimFault c r a f) := by
  grind [State.claimFault, State.post_banks, State.setCl_banks, cl_sram_wf, Cluster.setAg_sram]

theorem State.setIsle_banks (s : State) (e : IsleEnv) (m : Isle) (h : BankInv s) : BankInv (s.setIsle e m) := by
  grind [State.setIsle, State.setCl_banks, cl_sram_wf, Cluster.setMat_sram]

theorem State.isleEnd_banks (s : State) (e : IsleEnv) (h : BankInv s) : BankInv (s.isleEnd e) := by
  grind [State.isleEnd, foldl_banks_or, State.setCl_banks, State.setIsle_banks, cl_sram_wf, Cluster.setRing_sram]

theorem State.isleGoto_banks (s : State) (e : IsleEnv) (ipc : Nat) (h : BankInv s) : BankInv (s.isleGoto e ipc) := by
  grind [State.isleGoto, State.isleEnd_banks, State.setIsle_banks]

theorem State.isleChecks_banks (s : State) (e : IsleEnv) (lines : List Nat) (h : BankInv s) :
    BankInv (s.isleChecks e lines) := by
  grind [State.isleChecks, foldl_banks_or, State.setIsle_banks, State.machineCheck_banks]

theorem State.killBlock_banks (s : State) (e : IsleEnv) (p : Nat) (h : BankInv s) : BankInv (s.killBlock e p) := by
  grind [State.killBlock, State.setCl_banks, cl_sram_wf, Cluster.wire_sram]

theorem State.portTake_banks (s : State) (e : IsleEnv) (p : Nat) (t : Token) (h : BankInv s) :
    BankInv (s.portTake e p t) := by
  grind [State.portTake, State.killBlock_banks, State.setIsle_banks]

theorem State.killValues_banks (s : State) (e : IsleEnv) (h : BankInv s) : BankInv (s.killValues e) := by
  grind [State.killValues, State.killBlock_banks, State.setIsle_banks]

theorem State.tbind_post_banks (s : State) (c ctx sender n : Nat) (entry v : Word) (m : QMsg) (h : BankInv s) :
    BankInv ((s.tbind c ctx entry v).2.post c sender n m) :=
  State.post_banks _ c sender n m (s.tbind_banks c ctx entry v h)

theorem State.startGang_banks (s : State) (d : Nat) (g : Gang) (h : BankInv s) : BankInv (s.startGang d g) := by
  revert h
  exact foldl_frame (R := fun s t => BankInv s → BankInv t) (fun _ h => h) (fun _ _ _ a b h => b (a h)) _
    (fun _ _ h => State.tbind_post_banks _ _ _ _ _ _ _ _ h) _ _

theorem State.mixBytes_banks (l : List ((Byte × Bool) × Byte × Bool)) (s : State) (h : BankInv s) :
    BankInv (State.mixBytes l s).2 := by
  fun_induction State.mixBytes <;> grind [State.drawNat_banks]

theorem State.pralineDone_banks (s : State) (c i : Nat) (y : PCmd) (h : BankInv s) : BankInv (s.pralineDone c i y) := by
  grind [State.pralineDone, State.post_banks]

theorem State.dropEngines_banks (s : State) (d : Nat) (h : BankInv s) : BankInv (s.dropEngines d) := by
  grind [State.dropEngines, State.setDie_banks, State.restEngines_banks, = bankInv_iff]

theorem State.amberEvicted_banks (s : State) (d p : Nat) (h : BankInv s) : BankInv (s.amberEvicted d p) := by
  grind [State.amberEvicted, State.setDie_banks, State.dropEngines_banks]

theorem State.moveSpines_banks (s : State) (c sp : Nat) (h : BankInv s) : BankInv (s.moveSpines c sp) := by
  grind [State.moveSpines, foldl_banks_or, State.setDie_banks]

theorem Boost.say_banks (b : Boost) (s : State) (event n reason : Nat) (h : BankInv s) :
    BankInv (Boost.say b s event n reason) := by
  grind [Boost.say, State.post_banks]

theorem State.endBoost_banks (s : State) (b : Boost) (reason : Nat) (h : BankInv s) :
    BankInv (s.endBoost b reason) := by
  grind [State.endBoost, Boost.say_banks, State.dropBoost_banks]

theorem State.revokeBoosts_banks (s : State) (h : BankInv s) : BankInv s.revokeBoosts := by
  grind [State.revokeBoosts, foldl_banks_or, State.endBoost_banks, State.setPkg_banks, Boost.say_banks]

theorem State.lostMessage_banks (s : State) (d x : Nat) (h : BankInv s) : BankInv (s.lostMessage d x) := by
  grind [State.lostMessage, State.send_banks]

theorem State.quietLeases_banks (s : State) (c x : Nat) (h : BankInv s) : BankInv (s.quietLeases c x) := by
  grind [State.quietLeases, foldl_banks_or, State.setDie_banks, State.setSlot_banks]

theorem State.thermalBoosts_banks (s : State) (h : BankInv s) : BankInv s.thermalBoosts := by
  grind [State.thermalBoosts, foldl_banks_or, State.endBoost_banks]

theorem State.emergMessage_banks (s : State) (d : Nat) (h : BankInv s) : BankInv (s.emergMessage d) := by
  grind [State.emergMessage, State.send_banks]

theorem State.thermalDone_banks (s : State) (d : Nat) (h : BankInv s) : BankInv (s.thermalDone d) := by
  grind [State.thermalDone, State.emergMessage_banks, State.setDie_banks]

theorem State.critical_banks (s : State) (d : Nat) (h : BankInv s) : BankInv (s.critical d) := by
  grind [State.critical, State.thermalBoosts_banks, State.setDie_banks, State.thermalDone_banks, State.count_banks,
    State.dropEngines_banks]

theorem State.rewriteLog_banks (s : State) (h : BankInv s) : BankInv s.rewriteLog := by
  grind [State.rewriteLog, State.setPkg_banks]

theorem State.restoreXcmds_banks (s : State) (r : SaveRec) (x d : Nat) (pairs : List (SavedCl × Nat)) (h : BankInv s) :
    BankInv (s.restoreXcmds r x d pairs) := by
  grind [State.restoreXcmds, foldl_banks_or, State.setXq_banks]

theorem State.wakeLease_banks (s : State) (c i : Nat) (h : BankInv s) : BankInv (s.wakeLease c i) := by
  grind [State.wakeLease, State.wakeFor_banks]

theorem State.thermalNext_banks (s : State) (d x : Nat) (ok : Bool) (h : BankInv s) :
    BankInv (s.thermalNext d x ok) := by
  grind [State.thermalNext, State.lostMessage_banks, State.setDie_banks, State.thermalDone_banks]

theorem State.setPreempt_banks (s : State) (p : Preempt) (hp : ∀ z ∈ p.snap, z.body.sram.wf = true) (h : BankInv s) :
    BankInv (s.setPreempt p) := by
  refine ⟨h.1, fun y hy => ?_⟩
  obtain ⟨x, hx, rfl⟩ := List.mem_map.1 hy
  split
  · exact hp
  · exact h.2 x hx

theorem State.saveImage_banks (s : State) (p : Preempt) (h : BankInv s) : BankInv (s.saveImage p).2 := by
  grind [State.saveImage, State.setCtx_banks]

theorem State.dropPreempt_banks (s : State) (x d : Nat) (h : BankInv s) : BankInv (s.dropPreempt x d) :=
  s.setPkg_banks_of_snap _ (fun y hy => .inr ⟨y, (List.mem_filter.1 hy).1, rfl⟩) h

theorem State.thaw_banks (s : State) (p : Preempt) (h : BankInv s) : BankInv (s.thaw p) := by
  grind [State.thaw, foldl_banks_or, State.setCl_banks, State.dropPreempt_banks, cl_sram_wf]

theorem State.setFeatures_banks (s : State) (v : Nat) (h : BankInv s) : BankInv (s.setFeatures v).2 := by
  grind [State.setFeatures, State.setPkg_banks]

theorem State.bindKeys_banks (s : State) (x : Nat) (ks : List (Nat × List Byte)) (h : BankInv s) :
    BankInv (s.bindKeys x ks) := by
  grind [State.bindKeys, foldl_banks_or, State.setDie_banks]

theorem State.giveTables_banks (s : State) (ts : List Nat) (h : BankInv s) : BankInv (s.giveTables ts) := by
  grind [State.giveTables, State.setPkg_banks]

theorem State.dropTlb_banks (s : State) (ctx va len : Nat) (h : BankInv s) : BankInv (s.dropTlb ctx va len) := by
  grind [State.dropTlb, = bankInv_iff]

theorem State.setHeadX_banks (s : State) (d q : Nat) (c : XCmd) (h : BankInv s) : BankInv (s.setHeadX d q c) := by
  grind [State.setHeadX, State.setXq_banks]

theorem State.remoteAnswer_banks (s : State) (h : BankInv s) : BankInv s.remoteAnswer.2 := by
  grind [State.remoteAnswer, State.drawNat_banks]

theorem State.laneChecks_banks (s : State) (cl ctx pa va : Nat) (bs : List (Byte × Bool)) (h : BankInv s) :
    BankInv (s.laneChecks cl ctx pa va bs) := by
  grind [State.laneChecks, foldl_banks_or, State.machineCheck_banks]

theorem State.freeBytes_banks (n : Nat) (s : State) (h : BankInv s) : BankInv (State.freeBytes n s).2 := by
  fun_induction State.freeBytes <;> grind [State.drawWord_banks, State.drawNat_banks]

theorem State.exchangeDone_banks (s : State) (q : Nat) (c : XCmd) (h : BankInv s) : BankInv (s.exchangeDone q c) := by
  grind [State.exchangeDone, State.post_banks]

theorem State.atUnit_banks (s : State) (c u : Nat) (h : BankInv s) : BankInv (s.atUnit c u) := by
  grind [State.atUnit, = bankInv_iff]

theorem State.advanceClock_banks (s : State) (d us : Nat) (h : BankInv s) : BankInv (s.advanceClock d us) := by
  grind [State.advanceClock, State.setDie_banks, State.setPkg_banks]

/-! ### Operations that keep the canonical form -/

theorem State.amberStore_banks (s : State) (d pa : Nat) (bs : List Byte) (h : BankInv s) :
    BankInv (s.amberStore d pa bs) := by
  grind [State.amberStore, storeHome_banks]

theorem State.writeAge_banks (s : State) (d i : Nat) (h : BankInv s) : BankInv (s.writeAge d i) := by
  grind [State.writeAge, State.amberStore_banks]

theorem State.setAD_banks (s : State) (die : Nat) (l : Leaf) (w : Bool) (h : BankInv s) :
    BankInv (s.setAD die l w) := by
  grind [State.setAD, storeHome_banks]

theorem State.freshWalk_banks (s : State) (die mcl ctx va : Nat) (k : AccKind) (h : BankInv s) :
    BankInv (s.freshWalk die mcl ctx va k).2.2 := by
  grind [State.freshWalk, State.setAD_banks, State.machineCheck_banks]

theorem State.translate_banks (s : State) (owner die mcl ctx : Nat) (k : AccKind) (va : Nat) (h : BankInv s) :
    BankInv (s.translate owner die mcl ctx k va).2 := by
  grind [State.translate, State.freshWalk_banks]

theorem State.amberRead_banks (x : AmbAcc) (d : Nat) (k : AccKind) (n : Nat) (s : State) (m i : Nat)
    (h : BankInv s) : BankInv (State.amberRead x d k n s m i).2 := by
  fun_induction State.amberRead <;> grind [State.translate_banks]

theorem State.probe_banks (w : Who) (ctx n : Nat) (s : State) (m k : Nat) (h : BankInv s) :
    BankInv (State.probe w ctx n s m k).2 := by
  fun_induction State.probe <;> grind [State.translate_banks, Cluster.write_sram_wf]

theorem State.storeLines_banks (agent n : Nat) (s : State) (m : Nat) (l : List Byte) (h : BankInv s) :
    BankInv (State.storeLines agent n s m l) := by
  fun_induction State.storeLines <;> grind [storeHome_banks]

theorem State.storeMarked_banks (s : State) (w : Who) (pa : Nat) (l : List (Byte × Bool)) (h : BankInv s) :
    BankInv (s.storeMarked w pa l) := by
  unfold State.storeMarked
  grind [foldl_banks_or, storeHome_banks, State.storeLines_banks, = bankInv_iff]

theorem State.engWriteF_banks (w : Who) (ctx n : Nat) (s : State) (m : Nat) (l : List (Byte × Bool))
    (h : BankInv s) : BankInv (State.engWriteF w ctx n s m l).2 := by
  fun_induction State.engWriteF <;> grind [State.translate_banks, State.storeMarked_banks, State.deviceStore_banks,
    Cluster.write_sram_wf]

theorem State.engWrite_banks (s : State) (w : Who) (ctx va : Nat) (bs : List (Byte × Bool)) (h : BankInv s) :
    BankInv (s.engWrite w ctx va bs).2 := by
  grind [State.engWrite, State.engWriteF_banks]

theorem State.accPut_banks (s : State) (x : AmbAcc) (d va : Nat) (bs : List (Byte × Bool)) (h : BankInv s) :
    BankInv (s.accPut x d va bs).2 := by
  grind [State.accPut, State.engWrite_banks, State.probe_banks]

theorem State.closeStack_banks (s : State) (x : AmbAcc) (d va n : Nat) (h : BankInv s) :
    BankInv (s.closeStack x d va n) := by
  grind [State.closeStack, State.amberRelease_banks, State.accPut_banks]

theorem State.tryPush_banks (s : State) (d i : Nat) (p : Push) (h : BankInv s) : BankInv (s.tryPush d i p).2 := by
  grind [State.tryPush, State.acquire_banks, State.amberRead_banks, State.accPut_banks, State.closeStack_banks,
    State.accFail_banks]

theorem State.givePush_banks (s : State) (d i : Nat) (p : Push) (h : BankInv s) : BankInv (s.givePush d i p) := by
  grind [State.givePush, State.setArec_banks, State.tryPush_banks]

theorem State.giveBack_banks (s : State) (d i : Nat) (toH : Bool) (block : Nat) (entry : Option Nat)
    (h : BankInv s) : BankInv (s.giveBack d i toH block entry) := by
  grind [State.giveBack, State.givePush_banks]

theorem State.abandonDemotions_banks (s : State) (d i : Nat) (h : BankInv s) : BankInv (s.abandonDemotions d i) := by
  grind [State.abandonDemotions, State.unwatch_banks, State.giveBack_banks, State.setArec_banks,
    State.restEngines_banks]

theorem State.writeRec_banks (s : State) (d i : Nat) (h : BankInv s) : BankInv (s.writeRec d i) := by
  grind [State.writeRec, State.amberStore_banks]

theorem State.accGet_banks (s : State) (x : AmbAcc) (d va n : Nat) (h : BankInv s) : BankInv (s.accGet x d va n).2 := by
  grind [State.accGet, State.amberRead_banks]

theorem State.amberGet_banks (s : State) (d i va n : Nat) (h : BankInv s) : BankInv (s.amberGet d i va n).2 := by
  grind [State.amberGet, State.accGet_banks]

theorem State.amberDesc_banks (s : State) (d i : Nat) (h : BankInv s) : BankInv (s.amberDesc d i).2 := by
  grind [State.amberDesc, State.amberGet_banks]

theorem State.abandonPromotions_banks (s : State) (d i : Nat) (p : Nat → Bool) (h : BankInv s) :
    BankInv (s.abandonPromotions d i p) := by
  unfold State.abandonPromotions
  exact foldl_banks (fun t x ht => by grind [State.giveBack_banks]) _ _
    (by grind [State.setArec_banks, State.restEngines_banks])

theorem State.entry_banks (s : State) (d i : Nat) (t : BlockTab) (b : Nat) (h : BankInv s) :
    BankInv (s.entry d i t b).2 := by
  grind [State.entry, State.amberFail_banks, State.amberGet_banks]

theorem State.accCas_banks (s : State) (x : AmbAcc) (d i b va old new : Nat) (h : BankInv s) :
    BankInv (s.accCas x d i b va old new).2 := by
  grind [State.accCas, foldl_banks_or, State.translate_banks, State.accFail_banks, State.amberStore_banks,
    State.dropCopy_banks]

theorem State.cas_banks (s : State) (d i : Nat) (t : BlockTab) (b old new : Nat) (h : BankInv s) :
    BankInv (s.cas d i t b old new).2 := by
  grind [State.cas, State.accCas_banks]

theorem State.markPending_banks (s : State) (d i b : Nat) (h : BankInv s) : BankInv (s.markPending d i b).2 := by
  grind [State.markPending, State.entry_banks, State.cas_banks]

theorem State.wantUp_banks (s : State) (d i b : Nat) (h : BankInv s) : BankInv (s.wantUp d i b) := by
  grind [State.wantUp, State.laterUp_banks, State.setArec_banks, State.markPending_banks]

theorem State.markRange_banks (s : State) (d i lo hi : Nat) (h : BankInv s) : BankInv (s.markRange d i lo hi) := by
  grind [State.markRange, foldl_banks_or, State.wantUp_banks]

theorem State.entries_banks (d i : Nat) (t : BlockTab) (l : List Nat) (s : State) (h : BankInv s) :
    BankInv (State.entries d i t l s).2 := by
  fun_induction State.entries <;> grind [State.entry_banks]

theorem State.recount_banks (s : State) (d i : Nat) (h : BankInv s) : BankInv (s.recount d i) := by
  grind [State.recount, State.entries_banks, State.amberStore_banks]

theorem State.nextPending_banks (s : State) (d i st : Nat) (l : List Nat) (h : BankInv s) :
    BankInv (s.nextPending d i st l).2 := by
  fun_induction State.nextPending <;> grind [State.laterUp_banks, State.settledUp_banks, State.setArec_banks,
    State.entry_banks]

theorem State.popBlock_banks (s : State) (d i va b : Nat) (h : BankInv s) : BankInv (s.popBlock d i va b).2 := by
  grind [State.popBlock, State.acquire_banks, State.amberRead_banks, State.closeStack_banks, State.accFail_banks,
    State.accGet_banks]

theorem State.startPromotion_banks (s : State) (d i st : Nat) (h : BankInv s) : BankInv (s.startPromotion d i st) := by
  grind [State.startPromotion, State.popBlock_banks, State.wakeEngines_banks, State.setArec_banks,
    State.nextPending_banks, State.amberSay_banks]

theorem State.pump_banks (s : State) (d i : Nat) (h : BankInv s) : BankInv (s.pump d i) := by
  grind [State.pump, State.startPromotion_banks]

theorem State.allHome_banks (s : State) (d i lo hi : Nat) (h : BankInv s) : BankInv (s.allHome d i lo hi).2 := by
  grind [State.allHome, State.entries_banks]

theorem State.dropEntry_banks (s : State) (d i : Nat) (u : Undone) (h : BankInv s) : BankInv (s.dropEntry d i u) := by
  grind [State.dropEntry, State.accFail_banks, State.accGet_banks, State.setArec_banks, State.accCas_banks,
    State.givePush_banks]

theorem State.freeBeyond_banks (s : State) (d i : Nat) (h : BankInv s) : BankInv (s.freeBeyond d i) := by
  grind [State.freeBeyond, foldl_banks_or, State.dropEntry_banks, State.setArec_banks, State.freeExtent_banks]

theorem State.freeIfHome_banks (s : State) (d i : Nat) (h : BankInv s) : BankInv (s.freeIfHome d i) := by
  grind [State.freeIfHome, State.freeBeyond_banks, State.writeRec_banks, State.setArec_banks, State.allHome_banks]

theorem State.engReadF_banks (w : Who) (ctx : Nat) (k : AccKind) (n : Nat) (s : State) (m i : Nat)
    (h : BankInv s) : BankInv (State.engReadF w ctx k n s m i).2 := by
  fun_induction State.engReadF <;> grind [foldl_banks_or, State.translate_banks, State.keepCopy_banks]

theorem State.engRead_banks (s : State) (w : Who) (ctx va n : Nat) (h : BankInv s) :
    BankInv (s.engRead w ctx va n).2 := by
  grind [State.engRead, State.engReadF_banks]

theorem State.readWaits_banks (d ctx : Nat) (l : List (Nat × Nat × Nat)) (s : State) (h : BankInv s) :
    BankInv (State.readWaits d ctx l s).2 := by
  fun_induction State.readWaits <;> grind [State.acquire_banks, State.engRead_banks]

theorem State.watch_banks (s : State) (d : Nat) (l : Launch) (h : BankInv s) : BankInv (s.watch d l).2 := by
  grind [State.watch, State.readWaits_banks]

theorem State.accept_banks (s : State) (d p : Nat) (ctxOk : Nat → Bool) (args : Option Msg) (link : Option Nat)
    (h : BankInv s) : BankInv (s.accept d p ctxOk args link).2.2 := by
  grind [State.accept, State.engRead_banks, State.setDie_banks, State.watch_banks]

theorem State.submitPacket_banks (s : State) (d : Nat) (x : Resubmit) (h : BankInv s) :
    BankInv (s.submitPacket d x) := by
  grind [State.submitPacket, State.setAmber_banks, State.amberSay_banks, State.accept_banks]

theorem State.submit_banks (s : State) (d i nh : Nat) (h : BankInv s) : BankInv (s.submit d i nh) := by
  grind [State.submit, State.engRead_banks, State.submitPacket_banks, State.amberSay_banks]

theorem State.checkRecord_banks (s : State) (d i : Nat) (h : BankInv s) : BankInv (s.checkRecord d i) := by
  grind [State.checkRecord, State.writeRec_banks, State.setArec_banks, State.submit_banks, State.amberSay_banks,
    State.recount_banks, State.allHome_banks, State.freeIfHome_banks]

theorem State.wake_banks (s : State) (d i arg : Nat) (h : BankInv s) : BankInv (s.wake d i arg) := by
  grind [State.wake, State.pump_banks, State.writeAge_banks, State.checkRecord_banks, State.abandonPromotions_banks,
    State.writeRec_banks, State.markRange_banks, State.amberDesc_banks, State.setArec_banks, State.recount_banks,
    State.amberFail_banks, State.abandonDemotions_banks]

theorem State.promoteAll_banks (s : State) (d i : Nat) (h : BankInv s) : BankInv (s.promoteAll d i) := by
  grind [State.promoteAll, State.pump_banks, State.checkRecord_banks, State.markRange_banks, State.setArec_banks,
    State.recount_banks]

theorem State.promoteOne_banks (s : State) (d i b : Nat) (h : BankInv s) : BankInv (s.promoteOne d i b) := by
  grind [State.promoteOne, State.laterUp_banks, State.pump_banks, State.setArec_banks, State.markPending_banks]

theorem State.dropRecord_banks (s : State) (d i : Nat) (h : BankInv s) : BankInv (s.dropRecord d i) := by
  grind [State.dropRecord, foldl_banks_or, State.writeAge_banks, State.freeBeyond_banks, State.dropEntry_banks,
    State.abandonPromotions_banks, State.writeRec_banks, State.setArec_banks, State.recount_banks,
    State.freeExtent_banks, State.abandonDemotions_banks]

theorem State.wakeSlot_banks (s : State) (d i token : Nat) (op : WakeOp) (arg : Nat) (h : BankInv s) :
    BankInv (s.wakeSlot d i token op arg) := by
  unfold State.wakeSlot
  grind [State.promoteOne_banks, State.wake_banks, State.amberDrop_banks, State.dropRecord_banks, State.recount_banks,
    State.promoteAll_banks]

theorem State.wakeStore_banks (s : State) (d i v : Nat) (h : BankInv s) : BankInv (s.wakeStore d i v) := by
  grind [State.wakeStore, State.amberDrop_banks, State.wakeSlot_banks]

theorem State.parkFails_banks (s : State) (d i perr : Nat) (h : BankInv s) : BankInv (s.parkFails d i perr) := by
  grind [State.parkFails, State.writeRec_banks, State.setArec_banks, State.amberStore_banks]

theorem State.park_banks (s : State) (d i : Nat) (h : BankInv s) : BankInv (s.park d i) := by
  grind [State.park, State.writeAge_banks, State.writeRec_banks, State.parkFails_banks, State.amberDesc_banks,
    State.setArec_banks, State.recount_banks]

theorem State.amberPark_banks (s : State) (d v : Nat) (h : BankInv s) : BankInv (s.amberPark d v) := by
  grind [State.amberPark, State.amberDrop_banks, State.park_banks]

theorem State.pumpHq_banks (d q n : Nat) (s : State) (h : BankInv s) : BankInv (State.pumpHq d q n s) := by
  fun_induction State.pumpHq <;> grind [State.setHq_banks, State.hqPacket_banks, State.accept_banks]

theorem State.serveHq_banks (s : State) (d q : Nat) (h : BankInv s) : BankInv (s.serveHq d q) := by
  fun_cases State.serveHq
  · exact h
  · exact h
  · exact State.pumpHq_banks d q _ s h

theorem State.hqDoorbell_banks (s : State) (d q v : Nat) (h : BankInv s) : BankInv (s.hqDoorbell d q v) := by
  grind [State.hqDoorbell, State.serveHq_banks, State.setHq_banks]

theorem State.hqWrite_banks (s : State) (d q off v : Nat) (h : BankInv s) : BankInv (s.hqWrite d q off v) := by
  unfold State.hqWrite
  grind [State.setHq_banks, State.hqDoorbell_banks]

theorem State.deviceWrite_banks (s : State) (src : DevSrc) (pa : Nat) (v : Word) (h : BankInv s) :
    BankInv (s.deviceWrite src pa v) := by
  unfold State.deviceWrite
  grind [State.amberPark_banks, State.setCl_banks, State.setDie_banks, State.wakeStore_banks, State.hqWrite_banks,
    State.mbxWrite_banks, State.send_banks, cl_sram_wf, Cluster.setMat_sram, Cluster.setTile_sram,
    Cluster.windowStore_sram]

theorem State.flushDev_banks (s : State) (h : BankInv s) : BankInv s.flushDev := by
  unfold State.flushDev
  exact foldl_banks (fun t w ht => by grind [State.deviceWrite_banks, State.deviceOdd_banks, = bankInv_iff]) _ _ h

theorem State.performStore_banks (s : State) (c : Nat) (e : StoreEnt) (h : BankInv s) :
    BankInv (s.performStore c e) := by
  grind [State.performStore, storeHome_banks, State.deliverKnown_banks]

theorem State.drainTo_banks (s : State) (c : Nat) (p : StoreEnt → Bool) (h : BankInv s) : BankInv (s.drainTo c p) := by
  grind [State.drainTo, foldl_banks_or, State.setSq_banks, State.performStore_banks]

theorem State.settleOwn_banks (s : State) (c pa n : Nat) (h : BankInv s) : BankInv (s.settleOwn c pa n) := by
  grind [State.settleOwn, State.drainTo_banks]

theorem State.drainRel_banks (s : State) (c : Nat) (h : BankInv s) : BankInv (s.drainRel c) := by
  grind [State.drainRel, State.drainTo_banks]

theorem State.amoHome_banks (s : State) (c ctx va pa n : Nat) (f : AmoFn) (op cmp : Nat) {pre : State → State}
    (hp : ∀ t : State, BankInv t → BankInv (pre t)) (h : BankInv s) :
    BankInv (s.amoHome c ctx va pa n f op cmp pre).2 := by
  grind [State.amoHome, State.settleOwn_banks, State.seqPoison_banks, State.dropCopy_banks, storeHome_banks]

theorem State.performEnt_banks (s : State) (c : Nat) (e : LoadEnt) (h : BankInv s) : BankInv (s.performEnt c e) := by
  have ha := fun k op cmp => s.amoHome_banks c e.ctx e.va e.pa e.size k op cmp (fun t => t.drainRel_banks c) h
  grind [State.performEnt, State.loadMem_banks, State.setSq_banks]

theorem State.performLoads_banks (s : State) (c : Nat) (p : LoadEnt → Bool) (h : BankInv s) :
    BankInv (s.performLoads c p) := by
  grind [State.performLoads, foldl_banks_or, State.performEnt_banks, State.setSq_banks]

theorem State.settleLoads_banks (s : State) (c : Nat) (h : BankInv s) : BankInv (s.settleLoads c) := by
  grind [State.settleLoads, State.performLoads_banks]

theorem State.decideSave_banks (s : State) (c x : Nat) (coop : Bool) (h : BankInv s) :
    BankInv (s.decideSave c x coop) := by
  grind [State.decideSave, State.settleLoads_banks, State.setCl_banks, cl_sram_wf]

theorem State.expireDeadline_banks (s : State) (c x : Nat) (h : BankInv s) : BankInv (s.expireDeadline c x) := by
  grind [State.expireDeadline, State.decideSave_banks]

theorem State.passDeadlines_banks (s : State) (c : Nat) (h : BankInv s) : BankInv (s.passDeadlines c) := by
  grind [State.passDeadlines, foldl_banks_or, State.expireDeadline_banks]

theorem State.beginSeq_banks (s : State) (c : Nat) (h : BankInv s) : BankInv (s.beginSeq c) := by
  grind [State.beginSeq, State.passDeadlines_banks, State.arm_banks, State.atSeq_banks, State.tickCycle_banks]

theorem State.engPut_banks (s : State) (w : Who) (ctx va : Nat) (bs : List Byte) (h : BankInv s) :
    BankInv (s.engPut w ctx va bs).2 := by
  grind [State.engPut, State.engWrite_banks]

theorem State.report_banks (s : State) (d : Nat) (g : Gang) (off v : Nat) (c : Scope) (h : BankInv s) :
    BankInv (s.report d g off v c) := by
  grind [State.report, State.engPut_banks, State.deliverKnown_banks]

theorem State.setMember_banks (s : State) (d l m : Nat) (f : Member → Member) (h : BankInv s) :
    BankInv (s.setMember d l m f) := by
  grind [State.setMember, foldl_banks_or, State.gbarTry_banks, State.report_banks, State.setGang_banks,
    State.reportLink_banks]

theorem State.releaseUnclaimed_banks (s : State) (c l : Nat) (h : BankInv s) : BankInv (s.releaseUnclaimed c l) := by
  grind [State.releaseUnclaimed, foldl_banks_or, State.setCl_banks, State.setMember_banks, cl_sram_wf,
    Cluster.unreserve_sram]

theorem State.endTask_banks (s : State) (c : Nat) (h : BankInv s) : BankInv (s.endTask c) := by
  grind [State.endTask, State.releaseUnclaimed_banks, State.setSq_banks]

theorem State.abandon_banks (s : State) (c : Nat) (t : Trap) (h : BankInv s) : BankInv (s.abandon c t) := by
  grind [State.abandon, State.post_banks, State.setSq_banks, State.endTask_banks, State.send_banks]

theorem State.takeTrap_banks (s : State) (c : Nat) (t : Trap) (h : BankInv s) : BankInv (s.takeTrap c t) := by
  grind [State.takeTrap, State.setSq_banks, State.abandon_banks]

theorem State.fetchTrap_banks (s : State) (c : Nat) (t : Trap) (h : BankInv s) : BankInv (s.fetchTrap c t) := by
  grind [State.fetchTrap, State.settleLoads_banks, State.takeTrap_banks]

theorem State.xlatCl_banks (s : State) (c ctx : Nat) (k : AccKind) (va : Nat) (h : BankInv s) :
    BankInv (s.xlatCl c ctx k va).2 := by
  grind [State.xlatCl, State.translate_banks]

theorem State.target_banks (s : State) (c ctx va n : Nat) (k : AccKind) (h : BankInv s) :
    BankInv (s.target c ctx va n k).2 := by
  grind [State.target, State.xlatCl_banks]

theorem State.performLoad_banks (s : State) (c ctx va n : Nat) (t : Target) (h : BankInv s) :
    BankInv (s.performLoad c ctx va n t).2 := by
  unfold State.performLoad
  grind [State.seqPoison_banks, drainAll_banks, State.loadMem_banks]

theorem State.releaseAt_banks (s : State) (c : Nat) (sc : Scope) (h : BankInv s) : BankInv (s.releaseAt c sc) := by
  grind [State.releaseAt, drainAll_banks, State.deliverKnown_banks]

theorem State.before_banks (s : State) (c : Nat) (o : Order) (sc : Scope) (h : BankInv s) :
    BankInv (s.before c o sc) := by
  unfold State.before
  grind [State.releaseAt_banks, State.freshAt_banks]

theorem State.performSt_banks (s : State) (c ctx n v : Nat) (t : Target) (o : Order) (sc : Scope) (h : BankInv s) :
    BankInv (s.performSt c ctx n v t o sc) := by
  unfold State.performSt
  grind [drainAll_banks, State.markSc_banks, State.deviceOdd_banks, State.setSq_banks, State.setCl_banks,
    State.releaseAt_banks, State.drainRel_banks, State.deviceWrite_banks, cl_sram_wf, Cluster.localStore_sram_wf]

theorem State.beforeAmo_banks (s : State) (c : Nat) (o : Order) (sc : Scope) (h : BankInv s) :
    BankInv (s.beforeAmo c o sc) := by
  unfold State.beforeAmo
  grind [State.releaseAt_banks, State.drainRel_banks]

theorem State.performAmo_banks (s : State) (c ctx va n : Nat) (f : AmoFn) (op cmp : Nat) (t : Target) (o : Order)
    (sc : Scope) (h : BankInv s) : BankInv (s.performAmo c ctx va n f op cmp t o sc).2 := by
  cases t with
  | bank off => grind [State.performAmo, State.seqPoison_banks, State.beforeAmo_banks, State.setCl_banks, cl_sram_wf,
    Cluster.localStore_sram_wf]
  | device pa => exact h
  | mem pa cached =>
    have ha := s.amoHome_banks c ctx va pa n f op cmp (fun t => t.beforeAmo_banks c o sc) h
    simp only [State.performAmo]
    split <;> simpa [State.markSc_banks]

theorem State.fence_banks (s : State) (c : Nat) (o : Order) (sc : Scope) (h : BankInv s) :
    BankInv (s.fence c o sc) := by
  unfold State.fence
  grind [State.acquire_banks, State.releaseAt_banks, State.freshAt_banks]

theorem State.xlatFlush_banks (s : State) (c ctx va : Nat) (h : BankInv s) : BankInv (s.xlatFlush c ctx va).2 := by
  grind [State.xlatFlush, State.setAD_banks, State.xlatCl_banks]

theorem State.copyIssue_banks (s : State) (c ctx : Nat) (strm : Bool) (va qn : Word) (h : BankInv s) :
    BankInv (s.copyIssue c ctx strm va qn).2 := by
  grind [State.copyIssue, State.setCl_banks, State.releaseAt_banks, cl_sram_wf, Cluster.setCq_sram]

theorem State.cmdBytes_banks (s : State) (c ctx va n : Nat) (h : BankInv s) : BankInv (s.cmdBytes c ctx va n).2 := by
  grind [State.cmdBytes, State.engRead_banks, State.xlatCl_banks]

theorem State.readRecs_banks (c ctx va len n : Nat) (s : State) (m : Nat) (h : BankInv s) :
    BankInv (State.readRecs c ctx va len n s m).2 := by
  fun_induction State.readRecs <;> grind [State.cmdBytes_banks]

theorem State.readImageRaw_banks (s : State) (c ctx va : Nat) (h : BankInv s) :
    BankInv (s.readImageRaw c ctx va).2 := by
  grind [State.readImageRaw, State.cmdBytes_banks, State.readRecs_banks]

theorem State.readImage_banks (s : State) (c ctx va : Nat) (h : BankInv s) : BankInv (s.readImage c ctx va).2 := by
  grind [State.readImage, State.readImageRaw_banks, State.cmdChecks_banks]

theorem State.cfgCmd_banks (s : State) (c ctx : Nat) (va h : Word) {a : Word} {t : State}
    (he : s.cfgCmd c ctx va h = .ok (a, t)) (hw : BankInv s) : BankInv t := by
  grind [State.cfgCmd, drainAll_banks, State.setCl_banks, State.readImage_banks, cl_sram_wf, Cluster.writeBg_sram]

theorem State.moveResid_banks (s : State) (c r o : Nat) (h : BankInv s) : BankInv (s.moveResid c r o) := by
  grind [State.moveResid, State.setCl_banks, State.renameAgs_banks, State.setMember_banks, cl_sram_wf,
    Cluster.moveTo_sram]

theorem State.residWith_banks (s : State) (c ctx d : Nat) (m : Image) (h : BankInv s) :
    BankInv (s.residWith c ctx d m).2 := by
  fun_cases State.residWith <;> grind [foldl_banks_or, State.moveResid_banks, State.setCl_banks,
    State.releaseAt_banks, State.setMember_banks, cl_sram_wf, Cluster.startResid_sram, Cluster.unreserve_sram]

theorem State.residCmd_banks (s : State) (c ctx : Nat) (va : Word) {a : Word} {t : State}
    (he : s.residCmd c ctx va = .ok (a, t)) (h : BankInv s) : BankInv t := by
  grind [State.residCmd, drainAll_banks, State.residWith_banks, State.readImage_banks]

theorem State.paramCmd_banks (s : State) (c ctx : Nat) (t v : Word) (h : BankInv s) :
    BankInv (s.paramCmd c ctx t v).2 := by
  grind [State.paramCmd, State.setCl_banks, State.releaseAt_banks, cl_sram_wf, Cluster.setAg_sram]

theorem State.gbarCmd_banks (s : State) (c ctx : Nat) (t mw : Word) (h : BankInv s) :
    BankInv (s.gbarCmd c ctx t mw).2 := by
  grind [State.gbarCmd, State.gbarTry_banks, State.setGang_banks, State.releaseAt_banks]

theorem State.resumeCmd_banks (s : State) (c ctx : Nat) (t : Word) (h : BankInv s) :
    BankInv (s.resumeCmd c ctx t).2 := by
  grind [State.resumeCmd, State.setCl_banks, State.releaseAt_banks, cl_sram_wf, Cluster.setAg_sram]

theorem State.pcmd_banks (s : State) (c ctx va h : Nat) (hw : BankInv s) : BankInv (s.pcmd c ctx va h).2 := by
  grind [State.pcmd, State.setSlot_banks, State.releaseAt_banks, State.wakeFor_banks]

theorem State.cmdRead_banks (s : State) (c ctx va n : Nat) (h : BankInv s) : BankInv (s.cmdRead c ctx va n).2 := by
  grind [State.cmdRead, State.cmdBytes_banks, State.cmdChecks_banks]

theorem State.lnch_banks (s : State) (c ctx : Nat) (va : Word) {a : Word} {t : State} (he : s.lnch c ctx va = .ok (a,
  t))
    (h : BankInv s) : BankInv t := by
  grind [State.lnch, drainAll_banks, State.cmdRead_banks, State.releaseAt_banks, State.accept_banks]

theorem State.xcmd_banks (s : State) (c ctx va b : Nat) (h : BankInv s) : BankInv (s.xcmd c ctx va b).2 := by
  grind [State.xcmd, State.setXq_banks, State.releaseAt_banks]

theorem State.tpost_banks (s : State) (c ctx : Nat) (va v : Word) (h : BankInv s) : BankInv (s.tpost c ctx va v).2 := by
  grind [State.tpost, State.discardLate_banks, State.enqueue_banks, State.retryAll_banks, State.releaseAt_banks,
    State.retryFrom_banks]

theorem State.walkAndKeep_banks (s : State) (owner die mcl ctx : Nat) (k : AccKind) (va : Nat) (h : BankInv s) :
    BankInv (s.walkAndKeep owner die mcl ctx k va).2 := by
  grind [State.walkAndKeep, State.freshWalk_banks, = bankInv_iff]

theorem State.watchBlock_banks (d i n : Nat) (s : State) (m k : Nat) (h : BankInv s) :
    BankInv (State.watchBlock d i n s m k).2 := by
  fun_induction State.watchBlock <;> grind [State.translate_banks, = bankInv_iff]

theorem State.nextDemotion_banks (d i n : Nat) (s : State) (h : BankInv s) : BankInv (State.nextDemotion d i n s) := by
  fun_induction State.nextDemotion <;> grind [State.popBlock_banks, State.unwatch_banks, State.giveBack_banks,
    State.wakeEngines_banks, State.setArec_banks, State.entry_banks, State.later_banks, State.watchBlock_banks,
    State.amberFail_banks]

theorem State.goDemote_banks (s : State) (d i : Nat) (h : BankInv s) : BankInv (s.goDemote d i) := by
  grind [State.goDemote, State.nextDemotion_banks]

theorem State.hcExpiry_banks (s : State) (d i : Nat) (h : BankInv s) : BankInv (s.hcExpiry d i) := by
  grind [State.hcExpiry, State.goDemote_banks, State.setArec_banks]

theorem State.cfExpiry_banks (s : State) (d i : Nat) (h : BankInv s) : BankInv (s.cfExpiry d i) := by
  grind [State.cfExpiry, State.goDemote_banks, State.setArec_banks]

theorem State.serveWanted_banks (s : State) (d i : Nat) (h : BankInv s) : BankInv (s.serveWanted d i) := by
  grind [State.serveWanted, foldl_banks_or, State.promoteOne_banks, State.setDie_banks]

theorem State.examine_banks (s : State) (d i : Nat) (h : BankInv s) : BankInv (s.examine d i) := by
  grind [State.examine, foldl_banks_or, State.pump_banks, State.writeAge_banks, State.checkRecord_banks,
    State.goDemote_banks, State.wantUp_banks, State.setArec_banks, State.serveWanted_banks]

theorem State.amberPut_banks (s : State) (d i va : Nat) (bs : List (Byte × Bool)) (h : BankInv s) :
    BankInv (s.amberPut d i va bs).2 := by
  grind [State.amberPut, State.accPut_banks]

theorem State.finishHC_banks (s : State) (d i : Nat) (x : Transfer) (h : BankInv s) : BankInv (s.finishHC d i x) := by
  grind [State.finishHC, State.amberRelease_banks, State.unwatch_banks, State.giveBack_banks, State.amberPut_banks,
    State.setArec_banks, State.later_banks, State.recount_banks, State.cas_banks, State.amberFail_banks,
    State.amberGet_banks]

theorem State.finishCF_banks (s : State) (d i : Nat) (x : Transfer) (h : BankInv s) : BankInv (s.finishCF d i x) := by
  grind [State.finishCF, State.unwatch_banks, State.giveBack_banks, State.setArec_banks, State.writeExtent_banks,
    State.later_banks, State.recount_banks, State.freeExtent_banks, State.cas_banks, State.amberFail_banks,
    State.amberGet_banks, State.restEngines_banks]

theorem State.failPromotion_banks (s : State) (d i : Nat) (x : Transfer) (again : Bool) (h : BankInv s) :
    BankInv (s.failPromotion d i x again) := by
  grind [State.failPromotion, State.laterUp_banks, State.settledUp_banks, State.giveBack_banks]

theorem State.finishPromotion_banks (s : State) (d i : Nat) (x : Transfer) (fromF : Bool) (h : BankInv s) :
    BankInv (s.finishPromotion d i x fromF) := by
  grind [State.finishPromotion, State.amberRelease_banks, State.settledUp_banks, State.checkRecord_banks,
    State.giveBack_banks, State.failPromotion_banks, State.amberPut_banks, State.setArec_banks, State.recount_banks,
    State.freeExtent_banks, State.cas_banks, State.amberFail_banks, State.machineCheck_banks, State.amberGet_banks,
    State.restEngines_banks]

theorem State.fwRead_banks (s : State) (c : FwCmd) (off n : Nat) (h : BankInv s) : BankInv (s.fwRead c off n).2 := by
  grind [State.fwRead, State.engRead_banks]

theorem State.fwWrite_banks (s : State) (c : FwCmd) (off : Nat) (bs : List Byte) (h : BankInv s) :
    BankInv (s.fwWrite c off bs) := by
  grind [State.fwWrite, State.engPut_banks, storeHome_banks]

theorem State.fwDone_banks (s : State) (c : FwCmd) (status : Nat) (h : BankInv s) : BankInv (s.fwDone c status) := by
  grind [State.fwDone, State.fwWrite_banks, State.post_banks, State.fwRead_banks, State.setMailbox_banks,
    State.deliverKnown_banks, State.send_banks]

theorem State.copyRead_banks (s : State) (c q : Nat) (cmd : CopyCmd) (a n : Nat) {b : Except AFail (List (Byte × Bool))}
    {t : State} (he : s.copyRead c q cmd a n = some (b, t)) (h : BankInv s) : BankInv t := by
  grind [State.copyRead, State.engRead_banks]

theorem State.copyWrite_banks (s : State) (c q : Nat) (cmd : CopyCmd) (a : Nat) (bs : List (Byte × Bool))
    {b : Option AFail} {t : State} (he : s.copyWrite c q cmd a bs = some (b, t)) (h : BankInv s) : BankInv t := by
  grind [State.copyWrite, foldl_banks_or, State.engWrite_banks, State.setCl_banks, cl_sram_wf, Cluster.write_sram_wf,
    foldl_sram_or, foldl_sram_wf_or]

theorem State.copyRow_banks (s : State) (c q : Nat) (cmd : CopyCmd) (h : BankInv s) : BankInv (s.copyRow c q cmd) := by
  grind [State.copyRow, State.setCl_banks, State.copyRead_banks, State.copyWrite_banks, cl_sram_wf,
    Cluster.setHead_sram]

theorem State.copyStep_banks (s : State) (kd q : Nat) (h : BankInv s) : BankInv (s.copyStep kd q) := by
  grind [State.copyStep, State.copyStart_banks, State.copyRow_banks]

theorem State.endResid_banks (s : State) (c r : Nat) (quiet : Bool) (h : BankInv s) :
    BankInv (s.endResid c r quiet) := by
  grind [State.endResid, State.post_banks, State.setCl_banks, State.performAgs_banks, State.setMember_banks,
    cl_sram_wf, Cluster.vacate_sram]

theorem State.censusFall_banks (s : State) (c : Nat) (r : Option Nat) (n : Nat) (h : BankInv s) :
    BankInv (s.censusFall c r n) := by
  unfold State.censusFall
  grind [State.setCl_banks, State.endResid_banks, cl_sram_wf, Cluster.setResident_sram]

theorem State.reached_banks (s : State) (c x w : Nat) (tok : Token) (fids : List Nat) (h : BankInv s) :
    BankInv (s.reached c x w tok fids) := by
  grind [State.reached, State.setCl_banks, State.censusFall_banks, cl_sram_wf, Cluster.setTile_sram]

theorem State.takeWord_banks (s : State) (c x w : Nat) (h : BankInv s) : BankInv (s.takeWord c x w) := by
  grind [State.takeWord, State.setCl_banks, State.reached_banks, State.drawNat_banks, cl_sram_wf, Cluster.cross_sram,
    Cluster.offer_sram, Cluster.setTile_sram, Cluster.took_sram]

theorem State.handOver_banks (s : State) (c x w : Nat) (h : BankInv s) : BankInv (s.handOver c x w) := by
  grind [State.handOver, State.setCl_banks, State.reached_banks, cl_sram_wf, Cluster.offer_sram, Cluster.setTile_sram]

theorem State.switchForward_banks (s : State) (c x w : Nat) (h : BankInv s) : BankInv (s.switchForward c x w) := by
  grind [State.switchForward, State.handOver_banks, State.takeWord_banks, State.setCl_banks, cl_sram_wf,
    Cluster.takeKills_sram]

theorem State.discard_banks (s : State) (c x : Nat) (ss : List Nat) (op : OpSt) (h : BankInv s) :
    BankInv (s.discard c x ss op) := by
  grind [State.discard, State.setCl_banks, State.censusFall_banks, cl_sram_wf, Cluster.setTile_sram]

theorem State.frameSlots_banks (s : State) (c x : Nat) (p : Pe) (ss : List Nat) (h : BankInv s) :
    BankInv (s.frameSlots c x p ss) := by
  grind [State.frameSlots, foldl_banks_or, State.setCl_banks, State.censusFall_banks, cl_sram_wf, Cluster.setTile_sram]

theorem State.applyFire_banks (s : State) (c x cost : Nat) (digits : Bool) (f : FireOut) (h : BankInv s) :
    BankInv (s.applyFire c x cost digits f) := by
  grind [State.applyFire, foldl_banks_or, State.drawPower_banks, State.setCl_banks, State.machineCheck_banks,
    State.censusFall_banks, cl_sram_wf, Cluster.driveKill_sram, Cluster.setTile_sram, foldl_sram_or]

theorem State.runPe_banks (s : State) (f : PeF) (form : Pe → PeForm) (body : Pe → (Nat → Token) → FireOut)
    (last : Pe → (Nat → Token) → Bool) (stay : Pe → Bool) (h : BankInv s) :
    BankInv (s.runPe f form body last stay) := by
  grind [State.runPe, foldl_banks_or, State.applyFire_banks, State.frameSlots_banks, State.discard_banks]

theorem State.runDigit_banks (s : State) (f : PeF) (data : List Nat) (race : Bool) (work : Pe → FireOut)
    (lone : Pe → Mk → FireOut) (h : BankInv s) : BankInv (s.runDigit f data race work lone) := by
  grind [State.runDigit, foldl_banks_or, State.applyFire_banks, State.discard_banks]

theorem State.queueSend_banks (s : State) (c x : Nat) (p : MtCtx) (q : MtQueue) (h : BankInv s) :
    BankInv (s.queueSend c x p q) := by
  grind [State.queueSend, State.drawPower_banks, State.setCl_banks, State.censusFall_banks, cl_sram_wf,
    Cluster.setTile_sram]

theorem State.agDeliver_banks (s : State) (c a o : Nat) (w : Word32) (h : BankInv s) :
    BankInv (s.agDeliver c a o w) := by
  grind [State.agDeliver, State.setCl_banks, State.censusFall_banks, cl_sram_wf, Cluster.offer_sram,
    Cluster.setAg_sram, Cluster.takeKills_sram]

theorem State.agSend_banks (s : State) (e : AgEnv) (ts : List Token) (retire : Bool) (h : BankInv s) :
    BankInv (s.agSend e ts retire) := by
  grind [State.agSend, State.setCl_banks, State.censusFall_banks, cl_sram_wf, Cluster.setAg_sram]

theorem State.agStart_banks (s : State) (e : AgEnv) (pDone : Bool) (h : BankInv s) : BankInv (s.agStart e pDone) := by
  grind [State.agStart, foldl_banks_or, State.setCl_banks, State.agSend_banks, State.agPower_banks,
    State.agCheck_banks, State.agPortEnd_banks, cl_sram_wf, Cluster.setAg_sram]

theorem State.agDrain_banks (s : State) (e : AgEnv) (h : BankInv s) : BankInv (s.agDrain e) := by
  grind [State.agDrain, foldl_banks_or, State.setCl_banks, State.agSend_banks, cl_sram_wf, Cluster.setAg_sram]

theorem State.agEmpty_banks (s : State) (e : AgEnv) (h : BankInv s) : BankInv (s.agEmpty e) := by
  grind [State.agEmpty, State.agSend_banks, State.agRoundEnd_banks, State.agPower_banks]

theorem State.agXlat_banks (s : State) (e : AgEnv) (kind : AccKind) (addrs : List Nat) (h : BankInv s) :
    BankInv (s.agXlat e kind addrs).2 :=
  foldl_keeps_banks (fun p : Except AFail (List (Nat × Nat)) × Option (Nat × Nat × Nat) × State => p.2.2) _
    (fun t x ht => by grind [State.translate_banks]) addrs (.ok [], none, s) h

theorem State.agWrite_banks (s : State) (e : AgEnv) (lane first : Nat) (addrs : List Nat) (bs : List Byte) (bad : Bool)
    (h : BankInv s) : BankInv (s.agWrite e lane first addrs bs bad).2 := by
  grind [State.agWrite, foldl_banks_or, State.agXlat_banks, State.storeMarked_banks, State.winStore_banks,
    State.setCl_banks, State.drawNat_banks, State.agCheck_banks, State.deviceStore_banks, cl_sram_wf,
    Cluster.write_sram_wf, foldl_sram_or, foldl_sram_wf_or]

theorem State.agAtomic_banks (s : State) (e : AgEnv) (va x : Nat) (h : BankInv s) : BankInv (s.agAtomic e va x).2 := by
  grind [State.agAtomic, foldl_banks_or, State.agXlat_banks, storeHome_banks, State.winStore_banks, State.setCl_banks,
    State.drawNat_banks, cl_sram_wf, Cluster.write_sram_wf, foldl_sram_wf_or]

theorem State.winFill_banks (s : State) (e : AgEnv) (b g n : Nat) (h : BankInv s) : BankInv (s.winFill e b g n).2 := by
  fun_induction State.winFill <;> grind [State.engRead_banks, State.setCl_banks, cl_sram_wf,
    Cluster.putMarked_sram_wf, Cluster.setBq_sram]

theorem State.agRead_banks (s : State) (e : AgEnv) (addrs : List Nat) (h : BankInv s) :
    BankInv (s.agRead e addrs).2 := by
  fun_cases State.agRead
  · grind [State.drawNat_banks]
  · exact h
  · next hr =>
    have hf := foldl_eq_keeps_banks Prod.snd hr h
    refine hf fun p a hp => ?_
    obtain ⟨_ | _, _⟩ := p
    · exact hp
    · grind [State.winFill_banks, State.engRead_banks]
  · grind [State.agXlat_banks]
  · grind [State.drawNat_banks, foldl_banks_or, State.agXlat_banks, State.agSaw_banks, State.keepCopy_banks]

theorem State.agLane_banks (s : State) (e : AgEnv) (p : AgPlan) (j : Nat) (h : BankInv s) :
    BankInv (s.agLane e p j).2 := by
  grind [State.agLane, foldl_banks_or, State.agAtomic_banks, State.agRead_banks, State.agXlat_banks,
    State.agWrite_banks, State.setCl_banks, State.agCheck_banks, cl_sram_wf, Cluster.portPop_sram,
    Cluster.portPush_sram_wf, Cluster.write_sram_wf, foldl_sram_wf_or]

theorem State.agLanes_banks (s : State) (e : AgEnv) (p : AgPlan) (pos : AgPos) (l : List Nat) (h : BankInv s) :
    BankInv (s.agLanes e p pos l).2.2 := by
  fun_induction State.agLanes <;> grind [State.agLane_banks]

theorem State.agPerform_banks (before s : State) (e : AgEnv) (p : AgPlan) (pos : AgPos) (fresh : Bool)
    (cnt : Nat → List Nat) (hb : BankInv before) (h : BankInv s) :
    BankInv (before.agPerform s e p pos fresh cnt).state := by
  have hd : ∀ t : State, BankInv { before with dies := t.dies } := fun _ => hb
  grind [State.agPerform, PosEnd.state, foldl_banks_or, State.agPower_banks, State.agCheck_banks,
    State.agRelease_banks, State.agLanes_banks, State.setCl_banks, State.agFault_banks, cl_sram_wf, Cluster.setAg_sram]

theorem State.indexTurn_banks (s : State) (e : AgEnv) (h : BankInv s) : BankInv (s.indexTurn e) := by
  grind [State.indexTurn, PosEnd.state, State.agPerform_banks, State.setCl_banks, State.agSend_banks,
    State.agRoundEnd_banks, cl_sram_wf, Cluster.setAg_sram]

theorem State.blockTurn_banks (s : State) (e : AgEnv) (h : BankInv s) : BankInv (s.blockTurn e) := by
  fun_cases State.blockTurn <;> grind [PosEnd.state, State.agPerform_banks, State.setCl_banks, State.agFault_banks,
    State.engRead_banks, State.agEmpty_banks, State.wantBlock_banks, State.agSend_banks, State.agRoundEnd_banks,
    cl_sram_wf, Cluster.setAg_sram]

theorem State.nestTurn_banks (s : State) (e : AgEnv) (h : BankInv s) : BankInv (s.nestTurn e) := by
  fun_cases State.nestTurn <;> grind [PosEnd.state, foldl_banks_or, State.agPerform_banks, State.setCl_banks,
    State.agSend_banks, State.nestAfter_banks, State.agPower_banks, State.agCheck_banks, = bankInv_iff, cl_sram_wf,
    Cluster.setAg_sram]

theorem State.agTurn_banks (s : State) (op : Nat) (f : AgF) (h : BankInv s) : BankInv (s.agTurn op f) := by
  grind [State.agTurn, State.agStart_banks, State.blockTurn_banks, State.indexTurn_banks, State.agDrain_banks,
    State.nestTurn_banks, State.agEmpty_banks, State.agDeliver_banks]

theorem State.claimItem_banks (s : State) (c r : Nat) (h : BankInv s) : BankInv (s.claimItem c r) := by
  grind [State.claimItem, State.acquire_banks, State.translate_banks, storeHome_banks, State.setCl_banks,
    State.claimFault_banks, State.machineCheck_banks, cl_sram_wf, Cluster.setAg_sram, Cluster.setResident_sram]

theorem State.isleDone_banks (s : State) (e : IsleEnv) (size : Nat) (rings : List Nat) (h : BankInv s) :
    BankInv (s.isleDone e size rings) := by
  grind [State.isleDone, foldl_banks_or, State.isleGoto_banks, State.setCl_banks, State.setIsle_banks,
    State.censusFall_banks, cl_sram_wf, Cluster.retire_sram]

theorem State.islePush_banks (s : State) (e : IsleEnv) (size : Nat) (rings : List Nat) (h : BankInv s) :
    BankInv (s.islePush e size rings) := by
  grind [State.islePush, State.setCl_banks, State.setIsle_banks, State.isleDone_banks, cl_sram_wf,
    Cluster.ringPush_sram_wf]

theorem State.checkEnd_banks (s : State) (c r : Nat) (h : BankInv s) : BankInv (s.checkEnd c r) := by
  grind [State.checkEnd, State.endResid_banks]

theorem State.isleStop_banks (s : State) (e : IsleEnv) (err : Nat) (h : BankInv s) : BankInv (s.isleStop e err) := by
  grind [State.isleStop, State.post_banks, State.checkEnd_banks, State.setIsle_banks, State.censusFall_banks]

theorem State.returnPage_banks (s : State) (c r p : Nat) (h : BankInv s) : BankInv (s.returnPage c r p) := by
  grind [State.returnPage, foldl_banks_or, State.checkEnd_banks, State.setCl_banks, cl_sram_wf, Cluster.setPages_sram,
    Cluster.setResident_sram, Cluster.setTile_sram, foldl_sram_or]

theorem State.tileDown_banks (s : State) (c x : Nat) (h : BankInv s) : BankInv (s.tileDown c x) := by
  grind [State.tileDown, State.returnPage_banks, State.setCl_banks, cl_sram_wf, Cluster.setResident_sram,
    Cluster.setTile_sram]

theorem State.agDown_banks (s : State) (c a : Nat) (h : BankInv s) : BankInv (s.agDown c a) := by
  grind [State.agDown, State.checkEnd_banks, State.setCl_banks, State.performAgs_banks, cl_sram_wf,
    Cluster.setAg_sram, Cluster.setResident_sram]

theorem State.isleDown_banks (s : State) (c i : Nat) (h : BankInv s) : BankInv (s.isleDown c i) := by
  grind [State.isleDown, State.checkEnd_banks, State.setCl_banks, cl_sram_wf, Cluster.setMat_sram,
    Cluster.setPages_sram, Cluster.setResident_sram]

theorem State.placeMember_banks (s : State) (l : Launch) (m : Nat) (bs : List Nat) {a : Member} {t : State}
    (he : s.placeMember l m bs = some (a, t)) (h : BankInv s) : BankInv t := by
  fun_induction State.placeMember <;> grind [foldl_banks_or, State.moveResid_banks, State.setCl_banks, cl_sram_wf,
    Cluster.reserve_sram]

theorem State.placeMembers_banks (l : Launch) (d n m : Nat) (s : State) (h : BankInv s) :
    BankInv (State.placeMembers l d n m s).2 := by
  fun_induction State.placeMembers <;> grind [State.placeMember_banks]

theorem State.tryPlace_banks (s : State) (d : Nat) (l : Launch) {a : List Member} {t : State}
    (he : s.tryPlace d l = some (a, t)) (h : BankInv s) : BankInv t := by
  grind [State.tryPlace, State.placeMembers_banks]

theorem State.admitReport_banks (s : State) (d : Nat) (g : Gang) (h : BankInv s) : BankInv (s.admitReport d g) := by
  grind [State.admitReport, foldl_banks_or, State.report_banks, State.reportLink_banks]

theorem State.takeIn_banks (s : State) (d : Nat) (l : Launch) (ms : List Member) (h : BankInv s) :
    BankInv (s.takeIn d l ms) := by
  grind [State.takeIn, State.startGang_banks, State.setDie_banks, State.admitReport_banks]

theorem State.admitAll_banks (d : Nat) (l : List Launch) (s : State) (h : BankInv s) :
    BankInv (State.admitAll d l s) := by
  fun_induction State.admitAll <;> grind [State.tryPlace_banks, State.takeIn_banks]

theorem State.unitSource_banks (s : State) (w : Who) (c : PCmd) (h : BankInv s) : BankInv (s.unitSource w c).2 := by
  grind [State.unitSource, State.engRead_banks]

theorem State.nextUnit_banks (s : State) (d p : Nat) (c : PCmd) (h : BankInv s) : BankInv (s.nextUnit d p c).2 := by
  grind [State.nextUnit, State.unitSource_banks]

theorem State.mixRest_banks (d p n : Nat) (s : State) (y : PCmd) (h : BankInv s) :
    BankInv (State.mixRest d p n s y) := by
  fun_induction State.mixRest <;> grind [State.engWrite_banks, State.mixBytes_banks, State.engRead_banks,
    State.nextUnit_banks, Cluster.write_sram_wf]

theorem State.evictCmds_banks (d p c i : Nat) (l : List PEnt) (s : State) (h : BankInv s) :
    BankInv (State.evictCmds d p c i l s) := by
  fun_induction State.evictCmds <;> grind [State.pralineDone_banks, State.mixRest_banks]

theorem State.endLease_banks (s : State) (c i reason : Nat) (h : BankInv s) : BankInv (s.endLease c i reason) := by
  grind [State.endLease, State.evictCmds_banks, State.setDie_banks, State.setSlot_banks, State.sayLease_banks]

theorem State.chainStart_banks (s : State) (d p : Nat) (c : PCmd) (h : BankInv s) : BankInv (s.chainStart d p c).2 := by
  grind [State.chainStart, State.engRead_banks]

theorem State.unitWrite_banks (s : State) (w : Who) (ctx va : Nat) (bs : List Byte) (bad : Bool) (h : BankInv s) :
    BankInv (s.unitWrite w ctx va bs bad).2 := by
  grind [State.unitWrite, State.engWrite_banks, State.probe_banks]

theorem State.pralineWork_banks (s : State) (d p : Nat) (c : PCmd) (h : BankInv s) :
    BankInv (s.pralineWork d p c).2 := by
  grind [State.pralineWork, State.unitWrite_banks, State.chainStart_banks, State.nextUnit_banks, Cluster.write_sram_wf]

theorem State.clearCluster_banks (s : State) (c x : Nat) (h : BankInv s) : BankInv (s.clearCluster c x) := by
  grind [State.clearCluster, foldl_banks_or, State.quietLeases_banks, drainAll_banks, State.settleLoads_banks,
    State.setCl_banks, State.endTask_banks, State.endResid_banks, cl_sram_wf]

theorem State.clearDie_banks (s : State) (d x : Nat) (h : BankInv s) : BankInv (s.clearDie d x) := by
  grind [State.clearDie, foldl_banks_or, State.releaseUnclaimed_banks, State.clearCluster_banks, State.setDie_banks,
    State.arbitrate_banks]

theorem State.destroyCtx_banks (s : State) (x : Nat) (h : BankInv s) : BankInv (s.destroyCtx x) := by
  have hd := foldl_banks (fun t d => t.clearDie_banks d x) (List.range 4) s h
  unfold State.destroyCtx
  dsimp only
  generalize (List.range 4).foldl (fun s d => State.clearDie s d x) s = t at hd ⊢
  have hb := foldl_banks State.dropBoost_banks (t.pkg.boosts.filter (fun b => b.ctx == x)) t hd
  exact ⟨hb.1, fun p hp => hb.2 p (List.mem_filter.1 hp).1⟩

theorem State.wipeDie_banks (s : State) (d : Nat) (h : BankInv s) : BankInv (s.wipeDie d) := by
  refine foldl_banks (fun t p ht => by grind [State.destroyCtx_banks, State.fwDone_banks]) _ _ ?_
  refine State.setPkg_banks_of_snap _ _ (fun y hy => .inr ⟨y, (List.mem_filter.1 hy).1, rfl⟩) ?_
  refine foldl_banks (fun t b ht => t.dropBoost_banks b ht) _ _ ?_
  exact ⟨fun e he => h.1 e (List.mem_filter.1 he).1, h.2⟩

theorem State.railsFall_banks (s : State) (d : Nat) (h : BankInv s) : BankInv (s.railsFall d) := by
  grind [State.railsFall, foldl_banks_or, State.lostMessage_banks, State.setDie_banks, State.wipeDie_banks]

theorem State.trip_banks (s : State) (d : Nat) (h : BankInv s) : BankInv (s.trip d) := by
  grind [State.trip, State.critical_banks, State.railsFall_banks]

theorem State.sample_banks (s : State) (d tj : Nat) (h : BankInv s) : BankInv (s.sample d tj) := by
  grind [State.sample, State.setDie_banks, State.trip_banks, State.revokeBoosts_banks, State.critical_banks,
    State.count_banks]

theorem State.checkImage_banks (s : State) (x va : Nat) (h : BankInv s) : BankInv (s.checkImage x va).2 := by
  grind [State.checkImage, State.engRead_banks]

theorem State.rereadFg_banks (s : State) (c r : Nat) {t : State} (he : s.rereadFg c r = some t) (h : BankInv s) :
    BankInv t := by
  grind [State.rereadFg, foldl_banks_or, State.setCl_banks, State.readImageRaw_banks, cl_sram_wf,
    Cluster.setTile_sram, foldl_sram_or]

theorem tryEach_banks {α : Type} {f : α → State → Option State} {l : List α}
    (hf : ∀ a ∈ l, ∀ s t, f a s = some t → BankInv s → BankInv t) (s : State) {t : State}
    (he : tryEach f l s = some t) (h : BankInv s) : BankInv t := by
  fun_induction tryEach f l s <;> grind

theorem State.restoreOne_banks (r : SaveRec) (x : Nat) (e : SavedCl × Nat) (s : State) {t : State}
    (hz : e.1.body.sram.wf = true) (he : State.restoreOne r x e s = some t) (h : BankInv s) : BankInv t := by
  simp only [State.restoreOne] at he
  split at he
  · grind
  · next places _ =>
    have hr := s.setCl_banks e.2 _ h (Cluster.restored_sram_wf (s.cl e.2) e.1.body r.ctx x places hz)
    split at he
    · exact tryEach_banks (fun a _ s t ha => s.rereadFg_banks _ a ha) _ he hr
    · exact Option.some.inj he ▸ hr

theorem State.reserveAgain_banks (s : State) (d l m : Nat) (y : Member) (p : Option (SavedCl × Nat))
    (h : BankInv s) : BankInv (s.reserveAgain d l m y p) := by
  unfold State.reserveAgain
  grind [State.setCl_banks, State.setMember_banks, cl_sram_wf, Cluster.reserve_sram]

theorem State.restoreGangs_banks (s : State) (r : SaveRec) (x d : Nat) (pairs : List (SavedCl × Nat))
    (h : BankInv s) : BankInv (s.restoreGangs r x d pairs) := by
  grind [State.restoreGangs, foldl_banks_or, State.setCl_banks, State.setDie_banks, State.reserveAgain_banks,
    State.setMember_banks, cl_sram_wf, Cluster.relaunched_sram]

theorem State.restoreLeases_banks (s : State) (z : SavedCl) (c n x d0 : Nat) (h : BankInv s) :
    BankInv (s.restoreLeases z c n x d0) := by
  grind [State.restoreLeases, foldl_banks_or, State.evictCmds_banks, State.setDie_banks, State.setSlot_banks,
    State.sayLease_banks, State.wakeLease_banks]

theorem State.restoreRec_banks (s : State) (r : SaveRec) (x : Nat) (only : Option Nat) {t : State}
    (hr : ∀ z ∈ r.cls, z.body.sram.wf = true) (he : s.restoreRec r x only = .ok t) (h : BankInv s) : BankInv t := by
  unfold State.restoreRec at he
  split at he
  · cases he
  · next d pairs hd =>
    split at he
    · cases he
    · next u hu =>
      have hb := tryEach_banks (fun e hm s t ha =>
        State.restoreOne_banks r x e s (hr _ (chooseDie_mem hd e hm)) ha) s hu h
      grind [State.setCtx_banks, State.restoreGangs_banks, State.restoreXcmds_banks, State.restoreLeases_banks,
        foldl_banks_or, State.freshen_banks, State.arbitrate_banks]

theorem State.restore_banks (s : State) (x va : Nat) (only : Option Nat) {t : State} (he : s.restore x va only = .ok t)
    (h : BankInv s) : BankInv t := by
  grind [State.restore, State.checkImage_banks, State.restoreRec_banks, readImageBytes_sram_wf]

theorem State.thermalRestore_banks (s : State) (d x : Nat) (h : BankInv s) : BankInv (s.thermalRestore d x) := by
  grind [State.thermalRestore, State.restore_banks, State.lostMessage_banks]

theorem State.thermalLeases_banks (s : State) (d x : Nat) (h : BankInv s) : BankInv (s.thermalLeases d x) := by
  grind [State.thermalLeases, foldl_banks_or, State.endLease_banks]

theorem State.requestOn_banks (s : State) (c x notice : Nat) (h : BankInv s) : BankInv (s.requestOn c x notice) := by
  grind [State.requestOn, State.post_banks, State.setSq_banks, State.decideSave_banks]

theorem State.requestSave_banks (s : State) (p : Preempt) (notice : Nat) (hp : p.snap = []) (h : BankInv s) :
    BankInv (s.requestSave p notice) := by
  refine foldl_banks (fun t i ht => t.requestOn_banks _ _ _ ht) _ _ (s.setPkg_banks_of_snap _ (fun y hy => ?_) h)
  obtain hy | hy := List.mem_append.1 hy
  · exact .inr ⟨y, hy, rfl⟩
  · exact .inl (List.mem_singleton.1 hy ▸ hp)

theorem State.thermalBegin_banks (s : State) (d x : Nat) (h : BankInv s) : BankInv (s.thermalBegin d x) := by
  grind [State.thermalBegin, State.thermalLeases_banks, State.requestSave_banks, State.setDie_banks,
    State.thermalDone_banks, State.thermalNext_banks]

theorem State.storesAtSys_banks (s : State) (d : Nat) (h : BankInv s) : BankInv (s.storesAtSys d) := by
  grind [State.storesAtSys, foldl_banks_or, State.releaseAt_banks, State.deliverKnown_banks]

theorem State.snapCluster_banks (s : State) (p : Preempt) (i : Nat) (h : BankInv s) : BankInv (s.snapCluster p i) := by
  have hs := s.storesAtSys_banks p.die h
  unfold State.snapCluster
  dsimp only
  split
  · exact hs
  · next y hy =>
    refine State.setPreempt_banks _ _ (fun z hz => ?_) hs
    obtain hz | hz := List.mem_append.1 hz
    · exact hs.2 y (List.mem_of_find?_eq_some hy) z hz
    · exact List.mem_singleton.1 hz ▸ cl_sram_wf hs _

theorem State.snapReady_banks (s : State) (p : Preempt) (h : BankInv s) : BankInv (s.snapReady p) := by
  grind [State.snapReady, foldl_banks_or, State.snapCluster_banks]

theorem State.writeImage_banks (s : State) (p : Preempt) (h : BankInv s) : BankInv (s.writeImage p).2 := by
  grind [State.writeImage, State.engWrite_banks, State.saveImage_banks, State.storesAtSys_banks,
    State.deliverKnown_banks]

theorem State.endAndTell_banks (s : State) (x : Nat) (cmd : FwCmd) (h : BankInv s) : BankInv (s.endAndTell x cmd) := by
  grind [State.endAndTell, State.fwDone_banks, State.destroyCtx_banks]

theorem State.finishDestroy_banks (s : State) (p : Preempt) (cmd : FwCmd) (h : BankInv s) :
    BankInv (s.finishDestroy p cmd) := by
  grind [State.finishDestroy, foldl_banks_or, State.fwDone_banks, State.thaw_banks, State.endAndTell_banks,
    State.setCl_banks, State.setDie_banks, State.writeImage_banks, State.setCtx_banks, cl_sram_wf,
    Cluster.unreserve_sram, foldl_sram_or]

theorem State.saveStep_banks (s : State) (d x : Nat) (h : BankInv s) : BankInv (s.saveStep d x) := by
  grind [State.saveStep, State.finishDestroy_banks, State.snapReady_banks, State.thermalNext_banks,
    State.thermalBegin_banks, State.writeImage_banks]

theorem State.createCtx_banks (s : State) (y : CtxPar) (h : BankInv s) : BankInv (s.createCtx y).2 := by
  grind [State.createCtx, State.bindKeys_banks, State.restore_banks, State.setCtx_banks]

theorem State.takeTable_banks (s : State) {a : Nat} {t : State} (he : s.takeTable = some (a, t)) (h : BankInv s) :
    BankInv t := by
  grind [State.takeTable, storeHome_banks, State.setPkg_banks]

theorem State.setPte_banks (s : State) (a v : Nat) (h : BankInv s) : BankInv (s.setPte a v) := by
  grind [State.setPte, storeHome_banks]

theorem State.toTable_banks (make : Bool) (va target n : Nat) (s : State) (m k : Nat) {a : Option Nat} {t : State}
    (he : State.toTable make va target n s m k = .ok (a, t)) (h : BankInv s) : BankInv t := by
  fun_induction State.toTable <;> grind [State.setPte_banks, State.takeTable_banks]

theorem State.putLeaf_banks (s : State) (t va psize : Nat) (leaf : Option Nat) (g : Gone) {u : State} {b : Gone}
    (he : s.putLeaf t va psize leaf g = .ok (u, b)) (h : BankInv s) : BankInv u := by
  unfold State.putLeaf at he
  dsimp only at he
  generalize (if psize = 1 then 16 else 1) = n at he
  split at he
  · cases he
  · cases he
    exact foldl_banks (fun t e ht => by grind [State.setPte_banks]) _ _ h

theorem State.mapPages_banks (ctx va psize frame flags : Nat) (put : Bool) (n m : Nat) (s : State) (g : Gone)
    {t : State}
    {b : Gone} (he : State.mapPages ctx va psize frame flags put n m s g = .ok (t, b)) (h : BankInv s) : BankInv t := by
  fun_induction State.mapPages <;> grind [State.putLeaf_banks, State.toTable_banks]

theorem State.mapCmd_banks (s : State) (put : Bool) (c : FwCmd) (b : List Byte) (h : BankInv s) :
    BankInv (s.mapCmd put c b) := by
  grind [State.mapCmd, State.fwDone_banks, State.mapPages_banks, State.setPkg_banks]

theorem State.fwPut_banks (s : State) (c : FwCmd) (a : Nat) (bs : List Byte) (h : BankInv s) :
    BankInv (s.fwPut c a bs).2 := by
  grind [State.fwPut, State.engPut_banks, storeHome_banks]

theorem State.resetDie_banks (s : State) (d : Nat) (h : BankInv s) : BankInv (s.resetDie d) := by
  grind [State.resetDie, State.setDie_banks, State.wipeDie_banks, = bankInv_iff]

theorem State.peer_banks (s : State) (d q ctx pkg : Nat) (h : BankInv s) : BankInv (s.peer d q ctx pkg).2 := by
  grind [State.peer, State.engRead_banks]

theorem State.toPeer_banks (s : State) (d q ctx pkg : Nat) (m : OutMsg) (h : BankInv s) :
    BankInv (s.toPeer d q ctx pkg m).2 := by
  grind [State.toPeer, State.remoteAnswer_banks, State.peer_banks, State.send_banks]

theorem State.signal_banks (s : State) (d q : Nat) (c : XCmd) (pkg rva : Nat) (h : BankInv s) :
    BankInv (s.signal d q c pkg rva).2 := by
  grind [State.signal, State.toPeer_banks]

theorem State.signals_banks (d q : Nat) (c : XCmd) (l : List Nat) (s : State) (h : BankInv s) :
    BankInv (State.signals d q c l s).2 := by
  fun_induction State.signals <;> grind [State.signal_banks]

theorem State.sendPiece_banks (s : State) (d q : Nat) (c : XCmd) (src rva pkg n : Nat) (h : BankInv s) :
    BankInv (s.sendPiece d q c src rva pkg n).2.2 := by
  grind [State.sendPiece, State.translate_banks, State.engRead_banks, State.laneChecks_banks, State.toPeer_banks]

theorem State.sendEntry_banks (d q : Nat) (c : XCmd) (n : Nat) (s : State) (m k i j : Nat) (h : BankInv s) :
    BankInv (State.sendEntry d q c n s m k i j).2.2.2 := by
  fun_induction State.sendEntry <;> grind [State.sendPiece_banks]

theorem State.a2aStep_banks (s : State) (d q : Nat) (c : XCmd) (h : BankInv s) : BankInv (s.a2aStep d q c).2 := by
  grind [State.a2aStep, State.engRead_banks, State.sendEntry_banks, State.signals_banks]

theorem State.putStep_banks (s : State) (d q : Nat) (c : XCmd) (h : BankInv s) : BankInv (s.putStep d q c).2 := by
  grind [State.putStep, State.sendPiece_banks]

theorem State.getStep_banks (s : State) (d q : Nat) (c : XCmd) (h : BankInv s) : BankInv (s.getStep d q c).2 := by
  grind [State.getStep, State.freeBytes_banks, State.engWrite_banks, State.laneChecks_banks, State.toPeer_banks]

theorem State.sigStep_banks (s : State) (d q : Nat) (c : XCmd) (h : BankInv s) : BankInv (s.sigStep d q c).2 := by
  grind [State.sigStep, State.signal_banks]

theorem State.exchange_banks (s : State) (kind q : Nat) (h : BankInv s) : BankInv (s.exchange kind q) := by
  grind [State.exchange, State.sigStep_banks, State.getStep_banks, State.a2aStep_banks, State.setHeadX_banks,
    State.putStep_banks]

theorem State.packageReset_banks (s : State) (keepC : Bool) (log : Tab Nat) (_ : BankInv s) :
    BankInv (s.packageReset keepC log) :=
  ⟨nofun, nofun⟩

theorem State.peerRequest_banks (s : State) (d ctx kind va len data : Nat) (h : BankInv s) :
    BankInv (s.peerRequest d ctx kind va len data) := by
  unfold State.peerRequest
  grind [State.engWrite_banks, State.translate_banks, storeHome_banks, State.engRead_banks, State.deliverKnown_banks,
    State.machineCheck_banks, State.send_banks]

theorem State.settleFor_banks (s : State) (c : Nat) (w : Word32) (h : BankInv s) : BankInv (s.settleFor c w) := by
  grind [State.settleFor, State.settleLoads_banks, State.performLoads_banks]

theorem State.drain_banks (s : State) (c k : Nat) (h : BankInv s) : BankInv (s.drain c k) := by
  grind [State.drain, State.setSq_banks, State.performStore_banks]

theorem State.issue_banks (s : State) (c : Nat) (k : AccKind) (d : Reg) (srcs : List Reg) (va n : Nat)
    (amo : Option (AmoKind × Nat × Nat)) {t : State} (he : s.issue c k d srcs va n amo = some t)
    (h : BankInv s) : BankInv t := by
  grind [State.issue, State.setSq_banks, State.target_banks, State.advance_banks]

theorem State.issueAmo_banks (s : State) (c : Nat) (k : AmoKind) (d a : Reg) (srcs : List Reg) (wide : Bool) (o : Order)
    {t : State} (he : s.issueAmo c k d a srcs wide o = some t) (h : BankInv s) : BankInv t := by
  grind [State.issueAmo, State.settleLoads_banks, State.issue_banks]

theorem State.issueLoad_banks (s : State) (c : Nat) (i : Instr) {t : State} (he : s.issueLoad c i = some t)
    (h : BankInv s) : BankInv t := by
  unfold State.issueLoad at he
  grind [State.issue_banks, State.issueAmo_banks]

theorem State.fetchInstr_banks (s : State) (c : Nat) (h : BankInv s) : BankInv (s.fetchInstr c).state := by
  grind [State.fetchInstr, Fetched.state, State.fetchTrap_banks, State.xlatCl_banks, State.readView_banks]

theorem issueSeq_banks (c : Nat) (s : State) (h : BankInv s) : BankInv (issueSeq c s) := by
  have hf := (s.atSeq c).fetchInstr_banks c h
  unfold issueSeq
  dsimp only
  split
  · exact h
  · split
    · exact h
    · next i t ht =>
      rw [ht] at hf
      cases hi : t.issueLoad c i with
      | none => exact h
      | some u => exact t.issueLoad_banks c i hi hf

theorem State.performNth_banks (s : State) (c k : Nat) (h : BankInv s) : BankInv (s.performNth c k) := by
  grind [State.performNth, State.performEnt_banks, State.setSq_banks]

end Sys2Proof.Machine
end

section
/-! SUPPORT. Every instruction goes on and keeps the canonical form of the banks (`KeepsBanks`): the words of a
sequencer, the units' words, commands, engines, firmware and the package's events. -/

-- One declaration at a time: elaborated side by side, the threads of so many pass the memory limit.
set_option Elab.async false

namespace Sys2Proof.Machine

/-! ### Words of the islands -/

theorem State.isleTurn_banks (s : State) (size : Nat) (ins : Isle → List IsleIn) (rings : Isle → List Nat) (ro : Nat)
    {f : IsleEnv → State → IsleRes} (hf : ∀ e, BankInv (f e s).state) (h : BankInv s) :
    BankInv (s.isleTurn size ins rings ro f) := by
  have hf := hf s.isleEnv
  grind [State.isleTurn, IsleRes.state, State.islePush_banks, State.isleGoto_banks, State.isleEnd_banks,
    State.isleStop_banks, State.drawPower_banks, State.setIsle_banks, State.isleDone_banks]

theorem State.gather_state_banks (s : State) (e : IsleEnv) (p n : Nat) (h : BankInv s) :
    BankInv (s.gather e p n).state := by
  grind [State.gather, Gathered.state, State.setIsle_banks, State.portTake_banks]

theorem State.mmaWord_banks (s : State) (e : IsleEnv) (af bf ra rb : Nat) (ovw : Bool) (h : BankInv s) :
    BankInv (s.mmaWord e af bf ra rb ovw).state := by
  grind [State.mmaWord, IsleRes.state, State.setIsle_banks, State.isleChecks_banks, State.killValues_banks]

theorem State.moutWord_banks (s : State) (e : IsleEnv) (out ro : Nat) (bias act rq : Bool) (h : BankInv s) :
    BankInv (s.moutWord e out ro bias act rq).state := by
  grind [State.moutWord, IsleRes.state, State.setIsle_banks, State.isleChecks_banks, State.killValues_banks]

theorem State.mlutWord_banks (s : State) (e : IsleEnv) (ra : Nat) (h : BankInv s) :
    BankInv (s.mlutWord e ra).state := by
  grind [State.mlutWord, IsleRes.state, State.setIsle_banks, State.isleChecks_banks, State.killValues_banks]

theorem State.score_banks (s : State) (e : IsleEnv) (af bf : Nat) (q k : Operand) (inv : Nat → Bool)
    (rings : List Nat) (h : BankInv s) : BankInv (s.score e af bf q k inv rings).state := by
  grind [State.score, IsleRes.state, State.setIsle_banks, State.isleChecks_banks, State.killValues_banks]

theorem State.mqkWord_banks (s : State) (e : IsleEnv) (af bf ra rb : Nat) (h : BankInv s) :
    BankInv (s.mqkWord e af bf ra rb).state := by
  grind [State.mqkWord, IsleRes.state, Gathered.state, State.setCl_banks, State.setIsle_banks, State.isleChecks_banks,
    State.gather_state_banks, State.score_banks, cl_sram_wf, Cluster.retire_sram]

theorem State.msmuWord_banks (s : State) (e : IsleEnv) (pf : Nat) (h : BankInv s) :
    BankInv (s.msmuWord e pf).state := by
  grind [State.msmuWord, IsleRes.state, State.setIsle_banks, State.isleChecks_banks, State.killValues_banks]

theorem State.mpvaWord_banks (s : State) (e : IsleEnv) (bf rb : Nat) (h : BankInv s) :
    BankInv (s.mpvaWord e bf rb).state := by
  grind [State.mpvaWord, IsleRes.state, Gathered.state, State.setIsle_banks, State.isleChecks_banks,
    State.gather_state_banks]

theorem State.msmfWord_banks (s : State) (e : IsleEnv) (out ro : Nat) (h : BankInv s) :
    BankInv (s.msmfWord e out ro).state := by
  grind [State.msmfWord, IsleRes.state, State.setIsle_banks, State.isleChecks_banks, State.killValues_banks]

theorem State.msmgWord_banks (s : State) (e : IsleEnv) (ra : Nat) (h : BankInv s) :
    BankInv (s.msmgWord e ra).state := by
  grind [State.msmgWord, IsleRes.state, State.setIsle_banks, State.isleChecks_banks, State.killValues_banks]

theorem State.msetWord_banks (s : State) (e : IsleEnv) (r v : Nat) (h : BankInv s) :
    BankInv (s.msetWord e r v).state := by
  grind [State.msetWord, IsleRes.state, State.setIsle_banks, State.isleChecks_banks, State.killValues_banks]

/-! ### Words of the sequencer -/

theorem State.readSrcs_trap_banks (s : State) (c : Nat) (w : Word32) (srcs : List Reg) (dst : Option Reg) {x : Trap}
    {t : State} (he : s.readSrcs c w srcs dst = .error (.trap x t)) (h : BankInv s) : BankInv t := by
  grind [State.readSrcs]

theorem State.compute_trap_banks (s : State) (c : Nat) (w : Word32) (srcs : List Reg) (d : Reg) (f : List Word → Word)
    {x : Trap} {t : State} (he : s.compute c w srcs d f = .error (.trap x t)) (h : BankInv s) : BankInv t := by
  simp only [State.compute, bind, Except.bind] at he
  grind [State.readSrcs_trap_banks]

/-- What a sequencer's word leaves keeps the banks' canonical form where what it leaves at its end and at its trap
does. -/
theorem State.settle_banks {s : State} (c : Nat) {r : Except Stop State} (hok : ∀ t, r = .ok t → BankInv t)
    (htrap : ∀ x t, r = .error (.trap x t) → BankInv t) (h : BankInv s) : BankInv (s.settle c r) :=
  match r with
  | .ok t => hok t rfl
  | .error (.trap x t) => t.takeTrap_banks c x (htrap x t rfl)
  | .error .wait => h

/-- A step goes on, and keeps the banks' canonical form. -/
def KeepsBanks (s : State) (o : Host.Outcome State Fault Refusal) : Prop :=
  ∃ t, o = .next t ∧ (BankInv s → BankInv t)

theorem keepsBanks_next {s t : State} (h : BankInv s → BankInv t) : KeepsBanks s (.next t) := ⟨t, rfl, h⟩

theorem State.settle_compute_banks (s : State) (c : Nat) (w : Word32) (srcs : List Reg) (d : Reg) (f : List Word → Word)
    (h : BankInv s) : BankInv (s.settle c (s.compute c w srcs d f)) :=
  State.settle_banks c (fun _ he => s.compute_banks c w srcs d f he h)
    (fun _ _ he => s.compute_trap_banks c w srcs d f he h) h

theorem runOp_keepsBanks (i : Instr) (d a b : Reg) (f : Word → Word → Word) (s : State) :
    KeepsBanks s (runOp i d a b f s) :=
  keepsBanks_next (s.settle_compute_banks _ _ _ _ _)

theorem runOp1_keepsBanks (i : Instr) (d a : Reg) (f : Word → Word) (s : State) : KeepsBanks s (runOp1 i d a f s) :=
  keepsBanks_next (s.settle_compute_banks _ _ _ _ _)

theorem runOp0_keepsBanks (i : Instr) (d : Reg) (v : Word) (s : State) : KeepsBanks s (runOp0 i d v s) :=
  keepsBanks_next (s.settle_compute_banks _ _ _ _ _)

theorem runBranch_keepsBanks (i : Instr) (a b : Reg) (off : BitVec 14) (cond : Word → Word → Bool) (s : State) :
    KeepsBanks s (runBranch i a b off cond s) := by
  refine keepsBanks_next fun h => State.settle_banks _ (fun t he => ?_) (fun x t he => ?_) h
  all_goals
    simp only [bind, Except.bind] at he
    grind [State.readSrcs_banks, State.readSrcs_trap_banks, State.setPc_banks, State.advance_banks]

theorem stopped_trap_banks {f : List Word → State → Except Stop (Word × State)} {vs : List Word} {e : Stop} {c : Nat}
    {s t : State} {x : Trap} (htrap : ∀ vs t x u, f vs t = .error (.trap x u) → BankInv t → BankInv u)
    (h : BankInv s) (hx : ∀ y u, e = .trap y u → BankInv u) (he : stopped f vs e c s = .trap x t) : BankInv t := by
  unfold stopped at he
  split at he
  · next hf => exact htrap vs s x t (he ▸ hf) h
  · cases e with
    | wait => cases he
    | trap y u =>
      have hu := hx y u rfl
      cases he
      exact u.setCl_banks _ _ hu (cl_sram_wf hu c)

theorem runCmd_keepsBanks (i : Instr) (d : Reg) (srcs : List Reg) {f : List Word → State → Except Stop (Word × State)}
    (s : State) (hok : ∀ vs t v u, f vs t = .ok (v, u) → BankInv t → BankInv u)
    (htrap : ∀ vs t x u, f vs t = .error (.trap x u) → BankInv t → BankInv u) :
    KeepsBanks s (runCmd i d srcs f s) := by
  refine keepsBanks_next fun h => State.settle_banks _ (fun t he => ?_) (fun x t he => ?_) h
  all_goals
    simp only [bind, Except.bind] at he
    grind [State.readSrcs_banks, State.readSrcs_trap_banks, State.writeDst_banks, State.advance_banks,
      stopped_trap_banks]

theorem runFlush_keepsBanks (i : Instr) (a : Reg) {f : State → Nat → State} (s : State)
    (hf : ∀ t n, BankInv t → BankInv (f t n)) : KeepsBanks s (runFlush i a f s) := by
  refine keepsBanks_next fun h => State.settle_banks _ (fun t he => ?_) (fun x t he => ?_) h
  all_goals
    simp only [bind, Except.bind] at he
    grind [State.readSrcs_banks, State.readSrcs_trap_banks, State.xlatFlush_banks, foldl_banks_or, drainAll_banks,
      State.advance_banks]

theorem runFw_keepsBanks (opc : Nat) {f : FwCmd → List Byte → State → State} (s : State)
    (hf : ∀ c b t, BankInv t → BankInv (f c b t)) : KeepsBanks s (runFw opc f s) := by
  refine keepsBanks_next fun h => ?_
  grind [State.fwRead_banks, State.setPkg_banks, State.fwDone_banks]

theorem runAmo_keepsBanks (i : Instr) (d a : Reg) (srcs : List Reg) (wide : Bool) (o : Order) (sc : Scope) (f : AmoFn)
    (s : State) : KeepsBanks s (runAmo i d a srcs wide o sc f s) := by
  refine keepsBanks_next fun h => State.settle_banks _ (fun t he => ?_) (fun x t he => ?_) h
  all_goals
    simp only [bind, Except.bind] at he
    grind [State.readSrcs_banks, State.readSrcs_trap_banks, State.target_banks, State.ready, State.deliverSc_banks,
      State.freshAt_banks, State.performAmo_banks, State.after_banks, State.writeDst_banks, State.advance_banks]

/-! ### Commands -/

theorem State.residCmd_trap_banks {s : State} {c ctx : Nat} {va : Word} {x : Trap} {t : State}
    (he : s.residCmd c ctx va = .error (.trap x t)) (h : BankInv s) : BankInv t := by
  grind [State.residCmd, State.readImage_banks, drainAll_banks]

theorem State.cfgCmd_trap_banks {s : State} {c ctx : Nat} {va n : Word} {x : Trap} {t : State}
    (he : s.cfgCmd c ctx va n = .error (.trap x t)) (h : BankInv s) : BankInv t := by
  grind [State.cfgCmd, State.readImage_banks, drainAll_banks, cl_sram_wf, Cluster.writeBg_sram]

theorem State.lnch_trap_banks {s : State} {c ctx : Nat} {va : Word} {x : Trap} {t : State}
    (he : s.lnch c ctx va = .error (.trap x t)) (h : BankInv s) : BankInv t := by
  grind [State.lnch, State.cmdRead_banks, drainAll_banks]

/-- A command whose work never traps by itself. -/
theorem runCmd_keepsBanks_of_ne_trap (i : Instr) (d : Reg) (srcs : List Reg)
    {f : List Word → State → Except Stop (Word × State)} (s : State)
    (hok : ∀ vs t v u, f vs t = .ok (v, u) → BankInv t → BankInv u)
    (hne : ∀ vs t x u, f vs t ≠ .error (.trap x u)) : KeepsBanks s (runCmd i d srcs f s) :=
  runCmd_keepsBanks i d srcs s hok fun vs t x u he => absurd he (hne vs t x u)

/-- A command that reads its descriptor in a bank, and waits while the bank changes its mode. -/
theorem runCmd_whenSettled_keepsBanks (i : Instr) (d : Reg) (srcs : List Reg) {n : Nat}
    {g : List Word → State → Word × State} (s : State) (hg : ∀ vs t, BankInv t → BankInv (g vs t).2) :
    KeepsBanks s (runCmd i d srcs (fun vs s => s.whenSettled (vs.getD 0 0) n (g vs s)) s) :=
  runCmd_keepsBanks_of_ne_trap i d srcs s (fun vs t v u he h => by rw
    [show u = (g vs t).2 from congrArg Prod.snd (State.whenSettled_ok he)]; exact hg vs t h)
    fun vs t x u => State.whenSettled_ne_trap

/-- A command whose work always answers. -/
theorem runCmd_ok_keepsBanks (i : Instr) (d : Reg) (srcs : List Reg) {g : List Word → State → Word × State}
    (s : State) (hg : ∀ vs t, BankInv t → BankInv (g vs t).2) :
    KeepsBanks s (runCmd i d srcs (fun vs s => .ok (g vs s)) s) :=
  runCmd_keepsBanks_of_ne_trap i d srcs s (fun vs t _ _ he h => (Except.ok.inj he ▸ hg vs t h :)) fun _ _ _ _ => nofun

theorem execXcmd_keepsBanks (d a b : Reg) (s : State) : KeepsBanks s (execXcmd d a b s) :=
  runCmd_whenSettled_keepsBanks _ _ _ s fun _ t h => State.xcmd_banks t _ _ _ _ h

theorem execPcmd_keepsBanks (d a b : Reg) (s : State) : KeepsBanks s (execPcmd d a b s) :=
  runCmd_whenSettled_keepsBanks _ _ _ s fun _ t h => State.pcmd_banks t _ _ _ _ h

theorem execTpost_keepsBanks (d a b : Reg) (s : State) : KeepsBanks s (execTpost d a b s) :=
  runCmd_whenSettled_keepsBanks _ _ _ s fun _ t h => State.tpost_banks t _ _ _ _ h

theorem execCpy_keepsBanks (d a b : Reg) (s : State) : KeepsBanks s (execCpy d a b s) :=
  runCmd_whenSettled_keepsBanks _ _ _ s fun _ t h => State.copyIssue_banks t _ _ _ _ _ h

theorem execStrm_keepsBanks (d a b : Reg) (s : State) : KeepsBanks s (execStrm d a b s) :=
  runCmd_whenSettled_keepsBanks _ _ _ s fun _ t h => State.copyIssue_banks t _ _ _ _ _ h

theorem execResid_keepsBanks (d a : Reg) (s : State) : KeepsBanks s (execResid d a s) :=
  runCmd_keepsBanks _ _ _ s (fun _ t _ _ he h => t.residCmd_banks _ _ _ he h) fun _ _ _ _ => State.residCmd_trap_banks

theorem execCfg_keepsBanks (d a b : Reg) (s : State) : KeepsBanks s (execCfg d a b s) :=
  runCmd_keepsBanks _ _ _ s (fun _ t _ _ he h => t.cfgCmd_banks _ _ _ _ he h) fun _ _ _ _ => State.cfgCmd_trap_banks

theorem execLnch_keepsBanks (d a : Reg) (s : State) : KeepsBanks s (execLnch d a s) :=
  runCmd_keepsBanks _ _ _ s (fun _ t _ _ he h => t.lnch_banks _ _ _ he h) fun _ _ _ _ => State.lnch_trap_banks

theorem execMcmode_keepsBanks (v : BitVec 64) (s : State) : KeepsBanks s (execMcmode v s) :=
  keepsBanks_next fun h => by
    cases hw : s.writeMcmode (s.sq s.here).running.ctx v with
    | none => exact h
    | some t => exact s.writeMcmode_banks _ v hw h

theorem execMfs_keepsBanks (d : Reg) (n : BitVec 12) (s : State) : KeepsBanks s (execMfs d n s) :=
  keepsBanks_next fun h => by grind [State.takeTrap_banks, State.settle_compute_banks]

theorem execMts_keepsBanks (a : Reg) (n : BitVec 12) (s : State) : KeepsBanks s (execMts a n s) := by
  refine keepsBanks_next fun h => State.settle_banks _ (fun t he => ?_) (fun x t he => ?_) h
  all_goals
    simp only [bind, Except.bind] at he
    split at he
    · grind [State.readSrcs_trap_banks]
    · next v hv =>
      have hm := s.readSrcs_banks _ _ _ _ hv h
      split at he
      · grind
      · next u hu =>
        have hw := v.2.writeSys_banks _ _ _ hu hm
        grind [State.advance_banks]

theorem execJalr_keepsBanks (d a : Reg) (imm : BitVec 14) (s : State) : KeepsBanks s (execJalr d a imm s) := by
  refine keepsBanks_next fun h => State.settle_banks _ (fun t he => ?_) (fun x t he => ?_) h
  all_goals
    simp only [bind, Except.bind] at he
    grind [State.readSrcs_banks, State.readSrcs_trap_banks, State.writeDst_banks, State.setPc_banks]

theorem execLd_keepsBanks (d a : Reg) (off : BitVec 8) (z : Size) (o : Order) (sc : Scope) (s : State) :
    KeepsBanks s (execLd d a off z o sc s) := by
  refine keepsBanks_next fun h => State.settle_banks _ (fun t he => ?_) (fun x t he => ?_) h
  all_goals
    simp only [bind, Except.bind] at he
    grind [State.readSrcs_banks, State.readSrcs_trap_banks, State.target_banks, State.ready, State.before_banks,
      State.performLoad_banks, State.after_banks, State.writeDst_banks, State.advance_banks]

theorem execSt_keepsBanks (d a : Reg) (off : BitVec 8) (z : Size) (o : Order) (sc : Scope) (s : State) :
    KeepsBanks s (execSt d a off z o sc s) := by
  refine keepsBanks_next fun h => State.settle_banks _ (fun t he => ?_) (fun x t he => ?_) h
  all_goals
    simp only [bind, Except.bind] at he
    grind [State.readSrcs_banks, State.readSrcs_trap_banks, State.target_banks, State.ready, State.before_banks,
      State.performSt_banks, State.after_banks, State.advance_banks, Cluster.write_sram_wf]

theorem execMzero_keepsBanks (s : State) : KeepsBanks s (execMzero s) :=
  keepsBanks_next (fun h => State.isleTurn_banks _ _ _ _ _ (fun _ => State.setIsle_banks _ _ _ h) h)

theorem execAmberPushRetry_keepsBanks (i : BitVec 14) (s : State) : KeepsBanks s (execAmberPushRetry i s) := by
  refine keepsBanks_next fun h => ?_
  split
  · exact h
  · refine State.freeIfHome_banks _ _ _ (foldl_banks (fun t p ht => t.givePush_banks _ _ _ ht) _ _ ?_)
    exact foldl_banks (fun t p ht => t.dropEntry_banks _ _ _ ht) _ _ h

theorem execRecalibration_keepsBanks (link : BitVec 5) (s : State) :
    KeepsBanks s (execRecalibration link s) := keepsBanks_next id

theorem execHostMemoryAccess_keepsBanks (write : Bool) (pa : BitVec 48) (len data : Nat) (s : State)
    (hp : ∀ j,
      j < len → populated (pa.toNat + j) = true) : KeepsBanks s (execHostMemoryAccess write pa len data s) := by
  have hr : (List.range len).find? (fun i => !populated (pa.toNat + i)) = none := by simpa using hp
  simp only [execHostMemoryAccess, hr]
  grind [KeepsBanks, State.deviceWrite_banks, State.deliverKnown_banks, State.send_banks, State.deviceOdd_banks,
    State.storeLines_banks]

theorem execDieRepower_keepsBanks (s : State) : KeepsBanks s (execDieRepower s) := by
  refine keepsBanks_next fun h => ?_
  dsimp only
  split
  · split
    · exact foldl_banks (fun t x ht => t.thermalRestore_banks _ x ht) _ _ (s.wipeDie_banks _ h)
    · exact h
  · exact h

/-! ### Commands that always answer -/

theorem execQfence_keepsBanks (d a : Reg) (s : State) : KeepsBanks s (execQfence d a s) :=
  runCmd_ok_keepsBanks _ _ _ s fun _ t h => t.qfence_banks _ _ h

theorem execParam_keepsBanks (d a b : Reg) (s : State) : KeepsBanks s (execParam d a b s) :=
  runCmd_ok_keepsBanks _ _ _ s fun _ t h => t.paramCmd_banks _ _ _ _ h

theorem execGbar_keepsBanks (d a b : Reg) (s : State) : KeepsBanks s (execGbar d a b s) :=
  runCmd_ok_keepsBanks _ _ _ s fun _ t h => t.gbarCmd_banks _ _ _ _ h

theorem execResume_keepsBanks (d a : Reg) (s : State) : KeepsBanks s (execResume d a s) :=
  runCmd_ok_keepsBanks _ _ _ s fun _ t h => t.resumeCmd_banks _ _ _ h

theorem execLease_keepsBanks (d a b : Reg) (s : State) : KeepsBanks s (execLease d a b s) :=
  runCmd_ok_keepsBanks _ _ _ s fun _ t h => t.leaseCmd_banks _ _ _ _ h

theorem execLfree_keepsBanks (d a : Reg) (s : State) : KeepsBanks s (execLfree d a s) :=
  runCmd_ok_keepsBanks _ _ _ s fun _ t h => t.lfreeCmd_banks _ _ _ h

theorem execBoost_keepsBanks (d a b : Reg) (s : State) : KeepsBanks s (execBoost d a b s) :=
  runCmd_ok_keepsBanks _ _ _ s fun _ t h => t.boostCmd_banks _ _ _ _ h

theorem execTbind_keepsBanks (d a b : Reg) (s : State) : KeepsBanks s (execTbind d a b s) :=
  runCmd_ok_keepsBanks _ _ _ s fun _ t h => t.tbind_banks _ _ _ _ h

/-! ### The other instructions -/

theorem execJal_keepsBanks (off : BitVec 26) (s : State) : KeepsBanks s (execJal off s) :=
  keepsBanks_next fun h => by grind [State.writeDst_banks, State.setPc_banks]

theorem execFence_keepsBanks (o : Order) (sc : Scope) (s : State) : KeepsBanks s (execFence o sc s) :=
  keepsBanks_next fun h => by grind [State.fence_banks, State.advance_banks]

theorem execCflush_keepsBanks (a : Reg) (s : State) : KeepsBanks s (execCflush a s) :=
  runFlush_keepsBanks _ _ _ fun _ _ h => by grind [foldl_banks_or, State.dropCopy_banks]

theorem execCinval_keepsBanks (a : Reg) (s : State) : KeepsBanks s (execCinval a s) :=
  runFlush_keepsBanks _ _ _ fun _ _ h => by grind [State.drawNat_banks, State.dropCopy_banks]

theorem execTend_keepsBanks (s : State) : KeepsBanks s (execTend s) :=
  keepsBanks_next fun h => by grind [State.endTask_banks]

theorem execYield_keepsBanks (s : State) : KeepsBanks s (execYield s) :=
  keepsBanks_next fun h => by grind [State.endTask_banks, State.decideSave_banks]

theorem execEret_keepsBanks (s : State) : KeepsBanks s (execEret s) :=
  keepsBanks_next fun h => by grind [State.returnTrap_banks, State.takeTrap_banks]

theorem execTrap_keepsBanks (imm : BitVec 14) (s : State) : KeepsBanks s (execTrap imm s) :=
  keepsBanks_next fun h => by grind [State.takeTrap_banks]

theorem execBankmode_keepsBanks (v : BitVec 64) (s : State) : KeepsBanks s (execBankmode v s) :=
  keepsBanks_next fun h => by grind [State.setCl_banks, cl_sram_wf, Cluster.bankRequest_sram]

theorem execBankModeCut_keepsBanks (s : State) : KeepsBanks s (execBankModeCut s) :=
  keepsBanks_next fun h => by grind [State.setCl_banks, cl_sram_wf, Cluster.bankCut_sram_wf]

theorem execWtest_keepsBanks (d a b : Reg) (s : State) : KeepsBanks s (execWtest d a b s) := by
  grind [KeepsBanks, execWtest, State.acquire_banks, runCmd_keepsBanks]

theorem execTaskDispatch_keepsBanks (s : State) : KeepsBanks s (execTaskDispatch s) :=
  keepsBanks_next fun h => by grind [State.dispatchTask_banks]

theorem execMessageArrival_keepsBanks (k : SenderKind) (chan : BitVec 4) (w0 w1 w2 w3 : BitVec 64) (s : State) :
    KeepsBanks s (execMessageArrival k chan w0 w1 w2 w3 s) :=
  keepsBanks_next fun h => by grind [State.post_banks, State.enqueue_banks, State.postMc_banks]

theorem execMessageRetry_keepsBanks (s : State) : KeepsBanks s (execMessageRetry s) :=
  keepsBanks_next fun h => by grind [State.retryAll_banks]

theorem execPageWalk_keepsBanks (ctx : BitVec 6) (k : AccKind) (va : BitVec 64) (s : State) :
    KeepsBanks s (execPageWalk ctx k va s) :=
  keepsBanks_next fun h => by grind [State.walkAndKeep_banks]

theorem execInvalidationArrival_keepsBanks (line : BitVec 41) (s : State) :
    KeepsBanks s (execInvalidationArrival line s) :=
  keepsBanks_next fun h => by grind [State.dropCopy_banks]

theorem execTierCTimeout_keepsBanks (pa : BitVec 48) (va : BitVec 64) (s : State) :
    KeepsBanks s (execTierCTimeout pa va s) :=
  keepsBanks_next fun h => by grind [State.machineCheck_banks, = bankInv_iff]

theorem execEccError_keepsBanks (sram : Bool) (addr : BitVec 48) (bad : Bool) (s : State) :
    KeepsBanks s (execEccError sram addr bad s) :=
  keepsBanks_next fun h => by grind [State.eccError_banks]

theorem execPatrolScrub_keepsBanks (pa : BitVec 48) (s : State) : KeepsBanks s (execPatrolScrub pa s) :=
  keepsBanks_next fun h => by grind [State.scrub_banks]

theorem execAmbPark_keepsBanks (v : BitVec 64) (s : State) : KeepsBanks s (execAmbPark v s) :=
  keepsBanks_next fun h => by grind [State.amberPark_banks, State.posted_banks]

theorem execWake_keepsBanks (i : BitVec 14) (token : BitVec 32) (arg : BitVec 28) (s : State) :
    KeepsBanks s (execWake i token arg s) :=
  keepsBanks_next fun h => by grind [State.posted_banks, State.wakeSlot_banks]

theorem execPromoteAll_keepsBanks (i : BitVec 14) (token : BitVec 32) (arg : BitVec 28) (s : State) :
    KeepsBanks s (execPromoteAll i token arg s) :=
  keepsBanks_next fun h => by grind [State.posted_banks, State.wakeSlot_banks]

theorem execPromoteOne_keepsBanks (i : BitVec 14) (token : BitVec 32) (arg : BitVec 28) (s : State) :
    KeepsBanks s (execPromoteOne i token arg s) :=
  keepsBanks_next fun h => by grind [State.posted_banks, State.wakeSlot_banks]

theorem execDrop_keepsBanks (i : BitVec 14) (token : BitVec 32) (arg : BitVec 28) (s : State) :
    KeepsBanks s (execDrop i token arg s) :=
  keepsBanks_next fun h => by grind [State.posted_banks, State.wakeSlot_banks]

theorem execHcTimerExpiry_keepsBanks (i : BitVec 14) (s : State) : KeepsBanks s (execHcTimerExpiry i s) :=
  keepsBanks_next fun h => by grind [State.hcExpiry_banks]

theorem execCfTimerExpiry_keepsBanks (i : BitVec 14) (s : State) : KeepsBanks s (execCfTimerExpiry i s) :=
  keepsBanks_next fun h => by grind [State.cfExpiry_banks]

theorem execAmberExamination_keepsBanks (i : BitVec 14) (s : State) : KeepsBanks s (execAmberExamination i s) :=
  keepsBanks_next fun h => by grind [State.examine_banks]

theorem execDemoteHc_keepsBanks (i : BitVec 14) (b : BitVec 28) (s : State) : KeepsBanks s (execDemoteHc i b s) :=
  keepsBanks_next fun h => by grind [State.finishHC_banks, State.goDemote_banks]

theorem execDemoteCf_keepsBanks (i : BitVec 14) (b : BitVec 28) (s : State) : KeepsBanks s (execDemoteCf i b s) :=
  keepsBanks_next fun h => by grind [State.wakeEngines_banks, State.goDemote_banks, State.finishCF_banks]

theorem execBlockPromotion_keepsBanks (i : BitVec 14) (b : BitVec 28) (s : State) :
    KeepsBanks s (execBlockPromotion i b s) :=
  keepsBanks_next fun h => by grind [State.finishPromotion_banks, State.pump_banks, State.wakeEngines_banks]

theorem execPromotionResume_keepsBanks (i : BitVec 14) (s : State) : KeepsBanks s (execPromotionResume i s) :=
  keepsBanks_next fun h => by grind [State.pump_banks]

theorem execResumeLaunchRetry_keepsBanks (i : BitVec 14) (s : State) : KeepsBanks s (execResumeLaunchRetry i s) :=
  keepsBanks_next fun h => by grind [State.setAmber_banks, State.submitPacket_banks]

theorem execAmberCfg_keepsBanks (s : State) : KeepsBanks s (execAmberCfg s) :=
  runFw_keepsBanks _ _ fun _ _ _ h => by grind [State.fwDone_banks, State.setAmber_banks]

theorem execCopy_keepsBanks (q : BitVec 3) (s : State) : KeepsBanks s (execCopy q s) :=
  keepsBanks_next fun h => by grind [State.copyStep_banks]

theorem execMaskrows_keepsBanks (q : BitVec 3) (s : State) : KeepsBanks s (execMaskrows q s) :=
  keepsBanks_next fun h => by grind [State.copyStep_banks]

theorem execStreamin_keepsBanks (q : BitVec 3) (s : State) : KeepsBanks s (execStreamin q s) :=
  keepsBanks_next fun h => by grind [State.streamStart_banks]

theorem execStreamout_keepsBanks (q : BitVec 3) (s : State) : KeepsBanks s (execStreamout q s) :=
  keepsBanks_next fun h => by grind [State.streamStart_banks]

theorem execArrive_keepsBanks (q : BitVec 3) (s : State) : KeepsBanks s (execArrive q s) :=
  keepsBanks_next fun h => by grind [State.setCl_banks, State.barArrive_banks, cl_sram_wf, Cluster.dispatched_sram]

theorem execBarset_keepsBanks (q : BitVec 3) (s : State) : KeepsBanks s (execBarset q s) :=
  keepsBanks_next fun h => by grind [State.setCl_banks, cl_sram_wf, Cluster.dispatched_sram]

theorem execStreamPortPush_keepsBanks (q : BitVec 3) (s : State) : KeepsBanks s (execStreamPortPush q s) :=
  keepsBanks_next fun h => by grind [State.setCl_banks, State.copyRead_banks, cl_sram_wf, Cluster.portPush_sram_wf,
    Cluster.setHead_sram, Cluster.setPortEnd_sram]

theorem execStreamPortPop_keepsBanks (q : BitVec 3) (s : State) : KeepsBanks s (execStreamPortPop q s) :=
  keepsBanks_next fun h => by grind [State.setCl_banks, State.copyWrite_banks, cl_sram_wf, Cluster.portPop_sram,
    Cluster.setHead_sram]

theorem execChunkComplete_keepsBanks (q : BitVec 3) (s : State) : KeepsBanks s (execChunkComplete q s) :=
  keepsBanks_next fun h => by grind [State.barWord_banks, State.setCl_banks, cl_sram_wf, Cluster.putBit_sram_wf,
    Cluster.setHead_sram]

theorem execCeCommandComplete_keepsBanks (q : BitVec 3) (s : State) : KeepsBanks s (execCeCommandComplete q s) :=
  keepsBanks_next fun h => by grind [State.post_banks, State.setCl_banks, State.barArrive_banks, cl_sram_wf,
    Cluster.setCq_sram]

theorem execQfenceRetire_keepsBanks (k : Nat) (s : State) : KeepsBanks s (execQfenceRetire k s) :=
  keepsBanks_next fun h => by grind [State.retireFence_banks]

theorem execRingDescriptorStore_keepsBanks (k : BitVec 4) (dw : BitVec 3) (v : BitVec 64) (s : State) :
    KeepsBanks s (execRingDescriptorStore k dw v s) :=
  keepsBanks_next fun h => by grind [State.setCl_banks, cl_sram_wf, Cluster.ringStore_sram]

theorem execFifoQueueStore_keepsBanks (bank : BitVec 6) (dw : BitVec 2) (v : BitVec 64) (s : State) :
    KeepsBanks s (execFifoQueueStore bank dw v s) :=
  keepsBanks_next fun h => by grind [State.setCl_banks, cl_sram_wf, Cluster.fifoStore_sram]

theorem execWindowQueueStore_keepsBanks (bank : BitVec 6) (dw : BitVec 2) (v : BitVec 64) (s : State) :
    KeepsBanks s (execWindowQueueStore bank dw v s) :=
  keepsBanks_next fun h => by grind [State.setCl_banks, cl_sram_wf, Cluster.windowStore_sram]

theorem execSwitchForward_keepsBanks (w : BitVec 3) (s : State) : KeepsBanks s (execSwitchForward w s) :=
  keepsBanks_next fun h => by grind [State.switchForward_banks]

theorem execKillPropagate_keepsBanks (k : Nat) (s : State) : KeepsBanks s (execKillPropagate k s) :=
  keepsBanks_next fun h => by grind [State.setCl_banks, cl_sram_wf, Cluster.deliverKill_sram]

theorem State.runLanes_keepsBanks (s : State) (f : PeF) (raw : List Nat) (star : Option Nat)
    (body : Pe → (Nat → Token) → FireOut) : KeepsBanks s (s.runLanes f raw star body) :=
  keepsBanks_next fun h => by grind [State.runPe_banks]

theorem State.runInt_keepsBanks (s : State) (f : PeF) (h : ℤ → ℤ → ℤ) : KeepsBanks s (s.runInt f h) :=
  State.runLanes_keepsBanks ..

theorem State.runLogic_keepsBanks (s : State) (f : PeF) (h : Nat → Nat → Nat) : KeepsBanks s (s.runLogic f h) :=
  State.runLanes_keepsBanks ..

theorem State.runShift_keepsBanks (s : State) (f : PeF) (h : Nat → Nat → Nat → Nat) : KeepsBanks s (s.runShift f h) :=
  keepsBanks_next fun h => by grind [State.runPe_banks]

theorem State.runFunnel_keepsBanks (s : State) (f : PeF) (h : Nat → Nat → Nat → Nat) : KeepsBanks s (s.runFunnel f h) :=
  State.runLanes_keepsBanks ..

theorem State.runCount_keepsBanks (s : State) (f : PeF) (h : Pe → Nat → Nat) : KeepsBanks s (s.runCount f h) :=
  State.runLanes_keepsBanks ..

theorem State.runFlt_keepsBanks (s : State) (f : PeF) (ss : List Nat) (star : Nat) (h : Bool → List Fp → Fp) :
    KeepsBanks s (s.runFlt f ss star h) :=
  State.runLanes_keepsBanks ..

theorem State.runMinMax_keepsBanks (s : State) (f : PeF) (mx : Bool) : KeepsBanks s (s.runMinMax f mx) :=
  State.runLanes_keepsBanks ..

theorem execCvt_keepsBanks (f : PeF) (s : State) : KeepsBanks s (execCvt f s) :=
  keepsBanks_next fun h => by grind [State.runPe_banks]

theorem State.runWord_keepsBanks (s : State) (f : PeF) (raw : List Nat) (star : Option Nat)
    (body : Pe → (Nat → Token) → FireOut) : KeepsBanks s (s.runWord f raw star body) :=
  keepsBanks_next fun h => by grind [State.runPe_banks]

theorem execGate_keepsBanks (f : PeF) (s : State) : KeepsBanks s (execGate f s) :=
  keepsBanks_next fun h => by grind [State.runPe_banks]

theorem execSteer_keepsBanks (f : PeF) (s : State) : KeepsBanks s (execSteer f s) :=
  keepsBanks_next fun h => by grind [State.runPe_banks]

theorem execMerge_keepsBanks (f : PeF) (s : State) : KeepsBanks s (execMerge f s) :=
  keepsBanks_next fun h => by grind [State.runPe_banks]

theorem State.runNum_keepsBanks (s : State) (f : PeF) (d : DigOp) : KeepsBanks s (s.runNum f d) :=
  keepsBanks_next fun h => by grind [State.runDigit_banks]

theorem execDrace_keepsBanks (f : PeF) (s : State) : KeepsBanks s (execDrace f s) :=
  keepsBanks_next fun h => by grind [State.runDigit_banks]

theorem execDacc_keepsBanks (f : PeF) (s : State) : KeepsBanks s (execDacc f s) :=
  keepsBanks_next fun h => by grind [State.runDigit_banks]

theorem State.runMt_keepsBanks (s : State) (f : MtF) (body : MtCtx → List Token → FireOut) :
    KeepsBanks s (s.runMt f body) :=
  keepsBanks_next fun h => by grind [State.applyFire_banks, State.discard_banks]

theorem State.runQueue_keepsBanks (s : State) (f : MtF) (ring : Bool) (flushes : MtCtx → MtQueue → Token → Bool) :
    KeepsBanks s (s.runQueue f ring flushes) :=
  keepsBanks_next fun h => by grind [State.queueStore_banks, State.queueSend_banks]

theorem execAgld_keepsBanks (f : AgF) (s : State) : KeepsBanks s (execAgld f s) :=
  keepsBanks_next fun h => by grind [State.agTurn_banks]

theorem execAgst_keepsBanks (f : AgF) (s : State) : KeepsBanks s (execAgst f s) :=
  keepsBanks_next fun h => by grind [State.agTurn_banks]

theorem execAgga_keepsBanks (f : AgF) (s : State) : KeepsBanks s (execAgga f s) :=
  keepsBanks_next fun h => by grind [State.agTurn_banks]

theorem execAgsc_keepsBanks (f : AgF) (s : State) : KeepsBanks s (execAgsc f s) :=
  keepsBanks_next fun h => by grind [State.agTurn_banks]

theorem execAgsel_keepsBanks (f : AgF) (s : State) : KeepsBanks s (execAgsel f s) :=
  keepsBanks_next fun h => by grind [State.agTurn_banks]

theorem execAgbt_keepsBanks (f : AgF) (s : State) : KeepsBanks s (execAgbt f s) :=
  keepsBanks_next fun h => by grind [State.agTurn_banks]

theorem execAgamo_keepsBanks (f : AgF) (s : State) : KeepsBanks s (execAgamo f s) :=
  keepsBanks_next fun h => by grind [State.agTurn_banks]

theorem execAgpf_keepsBanks (f : AgF) (s : State) : KeepsBanks s (execAgpf f s) :=
  keepsBanks_next fun h => by grind [State.agTurn_banks]

theorem execOrderTokenEmit_keepsBanks (s : State) : KeepsBanks s (execOrderTokenEmit s) :=
  keepsBanks_next fun h => by grind [foldl_banks_or, State.drawPower_banks, State.setCl_banks,
    State.deliverKnown_banks, cl_sram_wf, Cluster.setAg_sram]

theorem execIterationClaim_keepsBanks (slot : BitVec 4) (s : State) : KeepsBanks s (execIterationClaim slot s) :=
  keepsBanks_next fun h => by grind [State.claimItem_banks]

theorem execTileTeardown_keepsBanks (s : State) : KeepsBanks s (execTileTeardown s) :=
  keepsBanks_next fun h => by grind [State.isleDown_banks, State.agDown_banks, State.tileDown_banks]

theorem execResidencyMove_keepsBanks (slot page : BitVec 4) (s : State) :
    KeepsBanks s (execResidencyMove slot page s) :=
  keepsBanks_next fun h => by grind [State.placeMember_banks, State.moveResid_banks, State.tryPlace_banks]

theorem execLaunchEligible_keepsBanks (n : BitVec 32) (s : State) : KeepsBanks s (execLaunchEligible n s) :=
  keepsBanks_next fun h => by grind [State.setDie_banks, State.watch_banks]

theorem execLaunchAgeing_keepsBanks (n : BitVec 32) (s : State) : KeepsBanks s (execLaunchAgeing n s) :=
  keepsBanks_next fun h => by grind [State.setDie_banks]

theorem execLaunchBlocking_keepsBanks (n : BitVec 32) (s : State) : KeepsBanks s (execLaunchBlocking n s) :=
  keepsBanks_next fun h => by grind [State.tryPlace_banks, State.setDie_banks]

theorem execLaunchAdmission_keepsBanks (s : State) : KeepsBanks s (execLaunchAdmission s) :=
  keepsBanks_next fun h => by grind [foldl_banks_or, State.serveHq_banks, State.admitAll_banks]

theorem execHqctl_keepsBanks (q : BitVec 4) (v : BitVec 64) (s : State) : KeepsBanks s (execHqctl q v s) :=
  keepsBanks_next fun h => by grind [State.posted_banks, State.setHq_banks]

theorem execHqmirror_keepsBanks (q : BitVec 4) (v : BitVec 64) (s : State) : KeepsBanks s (execHqmirror q v s) :=
  keepsBanks_next fun h => by grind [State.posted_banks, State.hqDoorbell_banks]

theorem execHostQueueTail_keepsBanks (q : BitVec 4) (s : State) : KeepsBanks s (execHostQueueTail q s) :=
  keepsBanks_next fun h => by grind [State.serveHq_banks, State.setHq_banks, State.drawNat_banks]

theorem execLinkLaunchSlot_keepsBanks (origin : BitVec 64) (packet : BitVec 512) (s : State) :
    KeepsBanks s (execLinkLaunchSlot origin packet s) := by
  grind [KeepsBanks, execLinkLaunchSlot, State.accept_banks, State.send_banks]

theorem execLinkAccessRefused_keepsBanks (link : BitVec 5) (acc : PeerAccess) (s : State) :
    KeepsBanks s (execLinkAccessRefused link acc s) :=
  keepsBanks_next fun h => by grind [State.send_banks, Cluster.write_sram_wf]

theorem execLeaseArbitration_keepsBanks (s : State) : KeepsBanks s (execLeaseArbitration s) :=
  keepsBanks_next fun h => by grind [State.arbitrate_banks]

theorem execLeaseEviction_keepsBanks (p : BitVec 6) (s : State) : KeepsBanks s (execLeaseEviction p s) :=
  keepsBanks_next fun h => by grind [State.amberEvicted_banks, State.endLease_banks, State.arbitrate_banks]

theorem execPralineReady_keepsBanks (p : BitVec 6) (s : State) : KeepsBanks s (execPralineReady p s) :=
  keepsBanks_next fun h => by grind [State.setDie_banks]

theorem execPralineIdleSleep_keepsBanks (p : BitVec 6) (s : State) : KeepsBanks s (execPralineIdleSleep p s) :=
  keepsBanks_next fun h => by grind [State.setDie_banks]

theorem execLingerExpiry_keepsBanks (p : BitVec 6) (s : State) : KeepsBanks s (execLingerExpiry p s) :=
  keepsBanks_next fun h => by grind [State.setDie_banks]

theorem runPraline_keepsBanks (cmd : Nat) (p : BitVec 6) (s : State) : KeepsBanks s (runPraline cmd p s) :=
  keepsBanks_next fun h => by grind [State.setSlot_banks, State.pralineWork_banks]

theorem execPralineComplete_keepsBanks (p : BitVec 6) (s : State) : KeepsBanks s (execPralineComplete p s) :=
  keepsBanks_next fun h => by grind [State.settleSlot_banks, State.pralineDone_banks, State.setDie_banks,
    State.setSlot_banks]

theorem execPowerInterval_keepsBanks (region : BitVec 6) (s : State) : KeepsBanks s (execPowerInterval region s) :=
  keepsBanks_next fun h => by grind [State.setCl_banks, State.moveSpines_banks, State.drawNat_banks, cl_sram_wf]

theorem execSpineChange_keepsBanks (spine : BitVec 3) (mhz : BitVec 12) (s : State) :
    KeepsBanks s (execSpineChange spine mhz s) :=
  keepsBanks_next fun h => by grind [State.setDie_banks]

theorem execBoostSpineSwitch_keepsBanks (s : State) : KeepsBanks s (execBoostSpineSwitch s) :=
  keepsBanks_next fun h => by grind [State.setDie_banks]

theorem execSupplyLimit_keepsBanks (x : BitVec 16) (s : State) : KeepsBanks s (execSupplyLimit x s) :=
  keepsBanks_next fun h => by grind [State.revokeBoosts_banks]

theorem execBoostNoticeEnd_keepsBanks (ctx : BitVec 6) (s : State) : KeepsBanks s (execBoostNoticeEnd ctx s) :=
  keepsBanks_next fun h => by grind [State.endBoost_banks]

theorem execBoostExpiry_keepsBanks (ctx : BitVec 6) (s : State) : KeepsBanks s (execBoostExpiry ctx s) :=
  keepsBanks_next fun h => by grind [State.endBoost_banks]

theorem execPstall_keepsBanks (v : BitVec 64) (s : State) : KeepsBanks s (execPstall v s) :=
  keepsBanks_next fun h => by grind [State.posted_banks, State.setDie_banks]

theorem execThermalSample_keepsBanks (tj : BitVec 8) (s : State) : KeepsBanks s (execThermalSample tj s) :=
  keepsBanks_next fun h => by grind [State.sample_banks]

theorem execTripMark_keepsBanks (s : State) : KeepsBanks s (execTripMark s) :=
  keepsBanks_next fun h => by grind [State.sample_banks]

theorem execEmergencySaveTimeout_keepsBanks (s : State) : KeepsBanks s (execEmergencySaveTimeout s) :=
  keepsBanks_next fun h => by grind [State.railsFall_banks]

theorem execHbmSelfRefresh_keepsBanks (s : State) : KeepsBanks s (execHbmSelfRefresh s) :=
  keepsBanks_next fun h => by grind [State.setDie_banks]

theorem execRailRemoval_keepsBanks (s : State) : KeepsBanks s (execRailRemoval s) :=
  keepsBanks_next fun h => by grind [State.railsFall_banks]

theorem execDeadlineExpiry_keepsBanks (ctx : BitVec 6) (s : State) : KeepsBanks s (execDeadlineExpiry ctx s) :=
  keepsBanks_next fun h => by grind [State.expireDeadline_banks]

theorem execContextSaveComplete_keepsBanks (ctx : BitVec 6) (s : State) :
    KeepsBanks s (execContextSaveComplete ctx s) :=
  keepsBanks_next fun h => by grind [State.saveStep_banks]

theorem execTileFlagWrite_keepsBanks (tile : BitVec 8) (v : BitVec 64) (s : State) :
    KeepsBanks s (execTileFlagWrite tile v s) :=
  keepsBanks_next fun h => by grind [State.setCl_banks, cl_sram_wf, Cluster.setTile_sram]

theorem execIslandStatusWrite_keepsBanks (i : BitVec 2) (dw : BitVec 3) (v : BitVec 64) (s : State) :
    KeepsBanks s (execIslandStatusWrite i dw v s) :=
  keepsBanks_next fun h => by grind [State.setCl_banks, cl_sram_wf, Cluster.setMat_sram, Cluster.windowStore_sram]

theorem execRegisterWrite_keepsBanks (pa : BitVec 48) (v : BitVec 64) (s : State) :
    KeepsBanks s (execRegisterWrite pa v s) :=
  keepsBanks_next fun h => by grind [State.posted_banks, State.deviceWrite_banks]

theorem execIdentify_keepsBanks (s : State) : KeepsBanks s (execIdentify s) :=
  runFw_keepsBanks _ _ fun _ _ _ h => by grind [State.fwWrite_banks, State.fwDone_banks]

theorem execFeatures_keepsBanks (s : State) : KeepsBanks s (execFeatures s) :=
  runFw_keepsBanks _ _ fun _ _ _ h => by grind [State.fwWrite_banks, State.fwDone_banks, State.setFeatures_banks]

theorem execCtxCreate_keepsBanks (s : State) : KeepsBanks s (execCtxCreate s) :=
  runFw_keepsBanks _ _ fun _ _ _ h => by grind [State.fwDone_banks, State.createCtx_banks]

theorem execCtxDestroy_keepsBanks (s : State) : KeepsBanks s (execCtxDestroy s) :=
  runFw_keepsBanks _ _ fun _ _ _ h => by grind [State.fwDone_banks, State.endAndTell_banks, State.requestSave_banks,
    State.setCtx_banks]

theorem execMap_keepsBanks (s : State) : KeepsBanks s (execMap s) :=
  runFw_keepsBanks _ _ fun _ _ _ h => by grind [State.mapCmd_banks]

theorem execUnmap_keepsBanks (s : State) : KeepsBanks s (execUnmap s) :=
  runFw_keepsBanks _ _ fun _ _ _ h => by grind [State.mapCmd_banks]

theorem execMapComplete_keepsBanks (s : State) : KeepsBanks s (execMapComplete s) :=
  keepsBanks_next fun h => by grind [foldl_banks_or, State.fwDone_banks, drainAll_banks, State.settleLoads_banks,
    State.dropTlb_banks, State.setPkg_banks, State.giveTables_banks]

theorem execPowerCfg_keepsBanks (s : State) : KeepsBanks s (execPowerCfg s) :=
  runFw_keepsBanks _ _ fun _ _ _ h => by grind [foldl_banks_or, State.fwDone_banks, State.setDie_banks,
    State.arbitrate_banks, State.setCtx_banks]

theorem execAttest_keepsBanks (s : State) : KeepsBanks s (execAttest s) :=
  runFw_keepsBanks _ _ fun _ _ _ h => by grind [State.fwDone_banks, State.fwPut_banks, State.setPkg_banks]

theorem execLifelogRead_keepsBanks (s : State) : KeepsBanks s (execLifelogRead s) :=
  runFw_keepsBanks _ _ fun _ _ _ h => by grind [State.fwDone_banks, State.fwPut_banks]

theorem execResetDie_keepsBanks (s : State) : KeepsBanks s (execResetDie s) :=
  runFw_keepsBanks _ _ fun _ _ _ h => by grind [foldl_banks_or, State.fwDone_banks, State.resetDie_banks,
    State.rewriteLog_banks, State.send_banks]

theorem execFwUpdate_keepsBanks (s : State) : KeepsBanks s (execFwUpdate s) :=
  runFw_keepsBanks _ _ fun _ _ _ h => by grind [State.fwDone_banks, State.setPkg_banks]

theorem execA2a_keepsBanks (e : BitVec 1) (q : BitVec 2) (s : State) : KeepsBanks s (execA2a e q s) :=
  keepsBanks_next fun h => by grind [State.exchange_banks]

theorem execPut_keepsBanks (e : BitVec 1) (q : BitVec 2) (s : State) : KeepsBanks s (execPut e q s) :=
  keepsBanks_next fun h => by grind [State.exchange_banks]

theorem execGet_keepsBanks (e : BitVec 1) (q : BitVec 2) (s : State) : KeepsBanks s (execGet e q s) :=
  keepsBanks_next fun h => by grind [State.exchange_banks]

theorem execSig_keepsBanks (e : BitVec 1) (q : BitVec 2) (s : State) : KeepsBanks s (execSig e q s) :=
  keepsBanks_next fun h => by grind [State.exchange_banks]

theorem execExchangeComplete_keepsBanks (e : BitVec 1) (q : BitVec 2) (s : State) :
    KeepsBanks s (execExchangeComplete e q s) :=
  keepsBanks_next fun h => by grind [State.setXq_banks, State.exchangeDone_banks, State.deliverKnown_banks]

theorem execKeepaliveLoss_keepsBanks (link : BitVec 5) (s : State) : KeepsBanks s (execKeepaliveLoss link s) :=
  keepsBanks_next fun h => by grind [State.setPkg_banks, State.send_banks]

theorem execPowerUp_keepsBanks (s : State) : KeepsBanks s (execPowerUp s) :=
  keepsBanks_next fun h => by grind [State.setPkg_banks, State.send_banks, State.packageReset_banks]

theorem execSramScrub_keepsBanks (cl : BitVec 8) (off : BitVec 24) (s : State) :
    KeepsBanks s (execSramScrub cl off s) :=
  keepsBanks_next fun h => by grind [State.scrub_banks, = bankInv_iff]

theorem execWearLevelling_keepsBanks (s : State) : KeepsBanks s (execWearLevelling s) :=
  keepsBanks_next fun h => by grind [State.setAmber_banks]

theorem execTelemetrySample_keepsBanks (s : State) : KeepsBanks s (execTelemetrySample s) :=
  keepsBanks_next fun h => by grind [State.count_banks]

theorem execLifelogRewrite_keepsBanks (s : State) : KeepsBanks s (execLifelogRewrite s) :=
  keepsBanks_next fun h => by grind [State.setPkg_banks, State.rewriteLog_banks]

theorem execRemoteExchangeRequest_keepsBanks (ctx : BitVec 6) (kind : BitVec 2) (va : BitVec 64) (len data : Nat)
    (s : State) : KeepsBanks s (execRemoteExchangeRequest ctx kind va len data s) :=
  keepsBanks_next fun h => by grind [State.peerRequest_banks]

theorem execPowerLoss_keepsBanks (s : State) : KeepsBanks s (execPowerLoss s) :=
  keepsBanks_next fun h => by grind [State.packageReset_banks]

theorem execVoltageDroop_keepsBanks (vfi depth : BitVec 8) (s : State) : KeepsBanks s (execVoltageDroop vfi depth s) :=
  keepsBanks_next fun h => by grind [State.count_banks]

theorem execLaneRetrain_keepsBanks (link : BitVec 5) (s : State) : KeepsBanks s (execLaneRetrain link s) :=
  keepsBanks_next fun h =>
    if hl : link.toNat < 31 then by rw [if_pos hl]; exact s.count_banks _ _ h
    else by rw [if_neg hl]; exact h

/-- Every instruction goes on and keeps the banks' canonical form; a host access, where every address that it touches is
populated (R10, R291). -/
theorem exec_keepsBanks (s : State) (i : Instr) (hp : HostPopulated i) : KeepsBanks s (exec i s) := by
  cases i
  all_goals dsimp only [exec]
  case add | sub | and | or | xor | shl | shr | sha | mul | mulh | div | divu | rem | min | max | minu | maxu | slt
    | sltu | ceq => exact runOp_keepsBanks ..
  case clz | popc | addi | andi | ori | xori | shli | shri | shai | slti => exact runOp1_keepsBanks ..
  case lui | addpc => exact runOp0_keepsBanks ..
  case beq | bne | blt | bge | bltu | bgeu => exact runBranch_keepsBanks ..
  case jal => exact execJal_keepsBanks ..
  case jalr => exact execJalr_keepsBanks ..
  case ld => exact execLd_keepsBanks ..
  case st => exact execSt_keepsBanks ..
  case amoswp | amoadd | amocas | amomin | amomax | amoand | amoor | amoxor => exact runAmo_keepsBanks ..
  case fence => exact execFence_keepsBanks ..
  case cflush => exact execCflush_keepsBanks ..
  case cinval => exact execCinval_keepsBanks ..
  case qfence => exact execQfence_keepsBanks ..
  case tend => exact execTend_keepsBanks ..
  case yield => exact execYield_keepsBanks ..
  case eret => exact execEret_keepsBanks ..
  case trap => exact execTrap_keepsBanks ..
  case mfs => exact execMfs_keepsBanks ..
  case mts => exact execMts_keepsBanks ..
  case bankmode => exact execBankmode_keepsBanks ..
  case bankModeCut => exact execBankModeCut_keepsBanks ..
  case mcmode => exact execMcmode_keepsBanks ..
  case cpy => exact execCpy_keepsBanks ..
  case strm => exact execStrm_keepsBanks ..
  case wtest => exact execWtest_keepsBanks ..
  case cfg => exact execCfg_keepsBanks ..
  case resid => exact execResid_keepsBanks ..
  case param => exact execParam_keepsBanks ..
  case gbar => exact execGbar_keepsBanks ..
  case resume => exact execResume_keepsBanks ..
  case lease => exact execLease_keepsBanks ..
  case lfree => exact execLfree_keepsBanks ..
  case pcmd => exact execPcmd_keepsBanks ..
  case boost => exact execBoost_keepsBanks ..
  case lnch => exact execLnch_keepsBanks ..
  case xcmd => exact execXcmd_keepsBanks ..
  case tbind => exact execTbind_keepsBanks ..
  case tpost => exact execTpost_keepsBanks ..
  case taskDispatch => exact execTaskDispatch_keepsBanks ..
  case messageArrival => exact execMessageArrival_keepsBanks ..
  case messageRetry => exact execMessageRetry_keepsBanks ..
  case pageWalk => exact execPageWalk_keepsBanks ..
  case invalidationArrival => exact execInvalidationArrival_keepsBanks ..
  case tierCTimeout => exact execTierCTimeout_keepsBanks ..
  case eccError => exact execEccError_keepsBanks ..
  case patrolScrub => exact execPatrolScrub_keepsBanks ..
  case ambPark => exact execAmbPark_keepsBanks ..
  case wake => exact execWake_keepsBanks ..
  case promoteAll => exact execPromoteAll_keepsBanks ..
  case promoteOne => exact execPromoteOne_keepsBanks ..
  case drop => exact execDrop_keepsBanks ..
  case hcTimerExpiry => exact execHcTimerExpiry_keepsBanks ..
  case cfTimerExpiry => exact execCfTimerExpiry_keepsBanks ..
  case amberExamination => exact execAmberExamination_keepsBanks ..
  case demoteHc => exact execDemoteHc_keepsBanks ..
  case demoteCf => exact execDemoteCf_keepsBanks ..
  case blockPromotion => exact execBlockPromotion_keepsBanks ..
  case promotionResume => exact execPromotionResume_keepsBanks ..
  case resumeLaunchRetry => exact execResumeLaunchRetry_keepsBanks ..
  case amberPushRetry => exact execAmberPushRetry_keepsBanks ..
  case amberCfg => exact execAmberCfg_keepsBanks ..
  case copy => exact execCopy_keepsBanks ..
  case maskrows => exact execMaskrows_keepsBanks ..
  case streamin => exact execStreamin_keepsBanks ..
  case streamout => exact execStreamout_keepsBanks ..
  case arrive => exact execArrive_keepsBanks ..
  case barset => exact execBarset_keepsBanks ..
  case streamPortPush => exact execStreamPortPush_keepsBanks ..
  case streamPortPop => exact execStreamPortPop_keepsBanks ..
  case chunkComplete => exact execChunkComplete_keepsBanks ..
  case ceCommandComplete => exact execCeCommandComplete_keepsBanks ..
  case qfenceRetire => exact execQfenceRetire_keepsBanks ..
  case ringDescriptorStore => exact execRingDescriptorStore_keepsBanks ..
  case fifoQueueStore => exact execFifoQueueStore_keepsBanks ..
  case windowQueueStore => exact execWindowQueueStore_keepsBanks ..
  case switchForward => exact execSwitchForward_keepsBanks ..
  case killPropagate => exact execKillPropagate_keepsBanks ..
  case iadd | isub | imul | imin | imax => exact State.runInt_keepsBanks ..
  case imulh | iabs | icmp | sel | fcmp | pass | mark | const => exact State.runLanes_keepsBanks ..
  case peAnd | peOr | peXor => exact State.runLogic_keepsBanks ..
  case peShl | peShr | peSha => exact State.runShift_keepsBanks ..
  case fshl | fshr => exact State.runFunnel_keepsBanks ..
  case peClz | pePopc | bwid => exact State.runCount_keepsBanks ..
  case fadd | fsub | fmul | ffma => exact State.runFlt_keepsBanks ..
  case fmin | fmax => exact State.runMinMax_keepsBanks ..
  case cvt => exact execCvt_keepsBanks ..
  case red | scan | shuf | packb | unpkb | delta | cnt | ojoin => exact State.runWord_keepsBanks ..
  case gate => exact execGate_keepsBanks ..
  case steer => exact execSteer_keepsBanks ..
  case merge => exact execMerge_keepsBanks ..
  case dadd | dsub | dmul | dfma | ddiv | dsqrt | drsq | dexp | dlog | dnorm | dscl | dmax | dcmpk | drelu | dsel =>
    exact State.runNum_keepsBanks ..
  case drace => exact execDrace_keepsBanks ..
  case dacc => exact execDacc_keepsBanks ..
  case mtrd | mtwr | mttas | mthist | mtlut | mtacc | mtclr => exact State.runMt_keepsBanks ..
  case mtring | mtfifo => exact State.runQueue_keepsBanks ..
  case agld => exact execAgld_keepsBanks ..
  case agst => exact execAgst_keepsBanks ..
  case agga => exact execAgga_keepsBanks ..
  case agsc => exact execAgsc_keepsBanks ..
  case agsel => exact execAgsel_keepsBanks ..
  case agbt => exact execAgbt_keepsBanks ..
  case agamo => exact execAgamo_keepsBanks ..
  case agpf => exact execAgpf_keepsBanks ..
  case orderTokenEmit => exact execOrderTokenEmit_keepsBanks ..
  case iterationClaim => exact execIterationClaim_keepsBanks ..
  case mzero => exact execMzero_keepsBanks ..
  case mma => exact keepsBanks_next fun h => State.isleTurn_banks _ _ _ _ _ (fun _ => State.mmaWord_banks (h := h) ..) h
  case mout => exact keepsBanks_next fun h =>
    State.isleTurn_banks _ _ _ _ _ (fun _ => State.moutWord_banks (h := h) ..) h
  case mlut => exact keepsBanks_next fun h =>
    State.isleTurn_banks _ _ _ _ _ (fun _ => State.mlutWord_banks (h := h) ..) h
  case mqk => exact keepsBanks_next fun h => State.isleTurn_banks _ _ _ _ _ (fun _ => State.mqkWord_banks (h := h) ..) h
  case msmu => exact keepsBanks_next fun h =>
    State.isleTurn_banks _ _ _ _ _ (fun _ => State.msmuWord_banks (h := h) ..) h
  case mpva => exact keepsBanks_next fun h =>
    State.isleTurn_banks _ _ _ _ _ (fun _ => State.mpvaWord_banks (h := h) ..) h
  case msmf => exact keepsBanks_next fun h =>
    State.isleTurn_banks _ _ _ _ _ (fun _ => State.msmfWord_banks (h := h) ..) h
  case msmg => exact keepsBanks_next fun h =>
    State.isleTurn_banks _ _ _ _ _ (fun _ => State.msmgWord_banks (h := h) ..) h
  case mset => exact keepsBanks_next fun h =>
    State.isleTurn_banks _ _ _ _ _ (fun _ => State.msetWord_banks (h := h) ..) h
  case tileTeardown => exact execTileTeardown_keepsBanks ..
  case residencyMove => exact execResidencyMove_keepsBanks ..
  case launchEligible => exact execLaunchEligible_keepsBanks ..
  case launchAgeing => exact execLaunchAgeing_keepsBanks ..
  case launchBlocking => exact execLaunchBlocking_keepsBanks ..
  case launchAdmission => exact execLaunchAdmission_keepsBanks ..
  case hqctl => exact execHqctl_keepsBanks ..
  case hqmirror => exact execHqmirror_keepsBanks ..
  case hostQueueTail => exact execHostQueueTail_keepsBanks ..
  case linkLaunchSlot => exact execLinkLaunchSlot_keepsBanks ..
  case linkAccessRefused => exact execLinkAccessRefused_keepsBanks ..
  case leaseArbitration => exact execLeaseArbitration_keepsBanks ..
  case leaseEviction => exact execLeaseEviction_keepsBanks ..
  case pralineReady => exact execPralineReady_keepsBanks ..
  case pralineIdleSleep => exact execPralineIdleSleep_keepsBanks ..
  case lingerExpiry => exact execLingerExpiry_keepsBanks ..
  case czip | cunz | topk | ksort | genc | gdec | hsha | hchain => exact runPraline_keepsBanks ..
  case pralineComplete => exact execPralineComplete_keepsBanks ..
  case powerInterval => exact execPowerInterval_keepsBanks ..
  case spineChange => exact execSpineChange_keepsBanks ..
  case boostSpineSwitch => exact execBoostSpineSwitch_keepsBanks ..
  case supplyLimit => exact execSupplyLimit_keepsBanks ..
  case boostNoticeEnd => exact execBoostNoticeEnd_keepsBanks ..
  case boostExpiry => exact execBoostExpiry_keepsBanks ..
  case pstall => exact execPstall_keepsBanks ..
  case thermalSample => exact execThermalSample_keepsBanks ..
  case tripMark => exact execTripMark_keepsBanks ..
  case emergencySaveTimeout => exact execEmergencySaveTimeout_keepsBanks ..
  case hbmSelfRefresh => exact execHbmSelfRefresh_keepsBanks ..
  case railRemoval => exact execRailRemoval_keepsBanks ..
  case dieRepower => exact execDieRepower_keepsBanks ..
  case deadlineExpiry => exact execDeadlineExpiry_keepsBanks ..
  case contextSaveComplete => exact execContextSaveComplete_keepsBanks ..
  case tileFlagWrite => exact execTileFlagWrite_keepsBanks ..
  case islandStatusWrite => exact execIslandStatusWrite_keepsBanks ..
  case registerWrite => exact execRegisterWrite_keepsBanks ..
  case identify => exact execIdentify_keepsBanks ..
  case features => exact execFeatures_keepsBanks ..
  case ctxCreate => exact execCtxCreate_keepsBanks ..
  case ctxDestroy => exact execCtxDestroy_keepsBanks ..
  case map => exact execMap_keepsBanks ..
  case unmap => exact execUnmap_keepsBanks ..
  case mapComplete => exact execMapComplete_keepsBanks ..
  case powerCfg => exact execPowerCfg_keepsBanks ..
  case attest => exact execAttest_keepsBanks ..
  case lifelogRead => exact execLifelogRead_keepsBanks ..
  case resetDie => exact execResetDie_keepsBanks ..
  case fwUpdate => exact execFwUpdate_keepsBanks ..
  case a2a => exact execA2a_keepsBanks ..
  case put => exact execPut_keepsBanks ..
  case get => exact execGet_keepsBanks ..
  case sig => exact execSig_keepsBanks ..
  case exchangeComplete => exact execExchangeComplete_keepsBanks ..
  case keepaliveLoss => exact execKeepaliveLoss_keepsBanks ..
  case powerUp => exact execPowerUp_keepsBanks ..
  case sramScrub => exact execSramScrub_keepsBanks ..
  case recalibration => exact execRecalibration_keepsBanks ..
  case wearLevelling => exact execWearLevelling_keepsBanks ..
  case telemetrySample => exact execTelemetrySample_keepsBanks ..
  case lifelogRewrite => exact execLifelogRewrite_keepsBanks ..
  case hostMemoryAccess write pa len data =>
    exact execHostMemoryAccess_keepsBanks write pa len data s (hp write pa len data rfl)
  case remoteExchangeRequest => exact execRemoteExchangeRequest_keepsBanks ..
  case powerLoss => exact execPowerLoss_keepsBanks ..
  case voltageDroop => exact execVoltageDroop_keepsBanks ..
  case laneRetrain => exact execLaneRetrain_keepsBanks ..

end Sys2Proof.Machine
end

section
/-! SUPPORT. Turns and steps keep the banks' canonical form, and the statement about it. -/

namespace Sys2Proof.Machine

theorem exec_banks {i : Instr} {s t : State} (he : exec i s = .next t) (h : BankInv s) : BankInv t := by
  by_cases hi : HostPopulated i
  · obtain ⟨u, hu, hb⟩ := exec_keepsBanks s i hi
    cases hu.symm.trans he
    exact hb h
  · simp only [HostPopulated] at hi
    push Not at hi
    obtain ⟨write, pa, len, data, rfl, j, hj, hn⟩ := hi
    obtain ⟨n, -, -, -, hf⟩ := exec_hostMemoryAccess_reserved s write pa len data (fun hp => hn (hp j hj))
    cases hf.symm.trans he

theorem runSeq_banks {c : Nat} {s t : State} (he : runSeq c s = .next t) (h : BankInv s) : BankInv t := by
  have hb := s.beginSeq_banks c h
  have hf := (s.beginSeq c).fetchInstr_banks c hb
  unfold runSeq at he
  dsimp only at he
  split at he
  · cases he; exact hb
  · split at he
    · next hq => cases he; rw [hq] at hf; exact hf
    · next hq => rw [hq] at hf; exact exec_banks he (State.settleFor_banks _ _ _ hf)

theorem runUnit_banks {c u : Nat} {s t : State} (he : runUnit c u s = .next t) (h : BankInv s) : BankInv t := by
  unfold runUnit at he
  dsimp only at he
  split at he
  · cases he; exact h
  · exact exec_banks he h

theorem runEvent_banks {a : Actor} {i : Instr} {s t : State} (he : runEvent a i s = .next t) (h : BankInv s) :
    BankInv t := by
  refine exec_banks he ?_
  split <;> exact h

theorem State.finish_banks {s t : State} {rest : List Turn} {o : Host.Outcome State Fault Refusal}
    (ho : ∀ u, o = .next u → BankInv u) (he : s.finish rest o = .next t) : BankInv t := by
  cases o with
  | next u => cases he; exact u.flushDev_banks (ho u rfl)
  | fault r => cases he
  | refused r => cases he

theorem runTurn_banks {k : Turn} {rest : List Turn} {s t : State} (he : runTurn k rest s = .next t) (h : BankInv s) :
    BankInv t := by
  unfold runTurn at he
  split at he
  · cases he; exact h
  · cases k with
    | seq c => exact State.finish_banks (fun u hu => runSeq_banks hu h) he
    | drain c k => cases he; exact s.drain_banks c k h
    | issue c => exact State.finish_banks (fun u hu => by cases hu; exact issueSeq_banks c s h) he
    | perform c k => cases he; exact s.performNth_banks c k h
    | fire c u => exact State.finish_banks (fun u hu => runUnit_banks hu h) he
    | event a i => exact State.finish_banks (fun u hu => runEvent_banks hu h) he
    | tick d us => cases he; exact s.advanceClock_banks d us h

theorem step_banks {s t : State} (he : step s = .next t) (h : BankInv s) : BankInv t := by
  unfold step at he
  split at he
  · exact runTurn_banks he h
  · exact runTurn_banks he h

end Sys2Proof.Machine

namespace Sys2Proof
open Machine

/-- Settles O7: a state after reset holds no clusters and no saves, and each kind of turn keeps the form of the banks
that a state holds (`step_banks`), since every instruction does (`exec_banks`). -/
theorem banksCanonical : Obligations.BanksCanonical := by
  unfold Obligations.BanksCanonical
  exact ⟨⟨nofun, nofun⟩, fun s t h he => step_banks he h⟩

end Sys2Proof
end

section
/-! SUPPORT. The state after reset (R75, R18, R353, R369, R437), and the registers that hold a bank's mode, a ring's
descriptor and a bank's queue (R78 to R82, R86, R87). -/

namespace Sys2Proof.Machine

/-! ### Reads after updates of a cluster's registers -/

@[simp] theorem Cluster.ring_setRing_same (k : Cluster) (r : Nat) (x : Ring) : (k.setRing r x).ring r = x := by
  simp [Cluster.ring, Cluster.setRing]

theorem Cluster.ring_setRing_other (k : Cluster) {r j : Nat} (x : Ring) (h : j ≠ r) :
    (k.setRing r x).ring j = k.ring j :=
  Tab.get_put_other _ _ _ h

@[simp] theorem Cluster.bq_setBq_same (k : Cluster) (b : Nat) (x : BankQ) : (k.setBq b x).bq b = x := by
  simp [Cluster.bq, Cluster.setBq]

theorem Cluster.bq_setBq_other (k : Cluster) {b j : Nat} (x : BankQ) (h : j ≠ b) : (k.setBq b x).bq j = k.bq j :=
  Tab.get_put_other _ _ _ h

@[simp] theorem Cluster.mode_setMode_same (k : Cluster) (b m : Nat) : (k.setMode b m).mode b = m := by
  by_cases hm : m = mScratch <;> simp [Cluster.mode, Cluster.setMode, hm, Tab.get, Tab.find_del_same]

theorem Cluster.mode_setMode_other (k : Cluster) {b e : Nat} (m : Nat) (h : e ≠ b) :
    (k.setMode b m).mode e = k.mode e := by
  by_cases hm : m = mScratch <;>
    simp [Cluster.mode, Cluster.setMode, hm, Tab.get, Tab.find_del_other _ h, Tab.find_put_other _ _ h]

/-- Clearing a bank makes its bytes zero, and leaves every other byte. -/
theorem Cluster.clearBank_byte (k : Cluster) (b x : Nat) :
    (k.clearBank b).sram.byte x = if x / 0x10000 = b then 0 else k.sram.byte x := by
  have hb := Mem.byte_filter (fun a => a / 0x10000 != b) k.sram x
  by_cases hx : x / 0x10000 = b <;> simp_all [Cluster.clearBank]

/-! ### Mode changes (R78, R79) -/

/-- The request passes each judgement of R78, and names another mode. -/
theorem Cluster.bankRequest_accepted {k : Cluster} {v b m : Nat} (hb : fld v 5 0 = b) (hm : fld v 9 8 = m)
    (hp : k.bankReq.pend = none) (h7 : fld v 7 6 = 0) (h63 : fld v 63 10 = 0) (hn : b ≤ 47) (hne : k.mode b ≠ m)
    (hw : m = 1 → (k.bankMode.filter (fun e => e.2 == 1)).length < 24) (hu : k.inUse b = false) :
    k.bankRequest v = { k with bankReq := { bank := b, mode := m, bstat := 0, pend := some (b, m) } } := by
  have hst : k.modeStatus v = 0 := by
    simp only [Cluster.modeStatus, hb, hm, hp, h7, h63, hu, mWays]
    grind
  simp [Cluster.bankRequest, hst, hb, hm, hne]

/-- The cut sets the mode, clears the bank where it was or becomes WAYS, and ends the request. -/
theorem Cluster.bankCut_of_pend {k : Cluster} {b m : Nat} (hp : k.bankReq.pend = some (b, m)) :
    k.bankCut.mode b = m ∧ k.bankCut.bankReq.pend = none ∧ (∀ e, e ≠ b → k.bankCut.mode e = k.mode e) ∧
      k.bankCut.sram = if m = 1 ∨ k.mode b = 1 then (k.clearBank b).sram else k.sram := by
  by_cases hw : m = 1 ∨ k.mode b = 1
  all_goals
    simp only [Cluster.bankCut, hp, mWays, hw, if_true, if_false]
    exact ⟨Cluster.mode_setMode_same k b m, trivial, fun e he => Cluster.mode_setMode_other k m he, rfl⟩

theorem Cluster.bankCut_byte {k : Cluster} {b m : Nat} (hp : k.bankReq.pend = some (b, m)) (x : Nat) :
    k.bankCut.sram.byte x = if (m = 1 ∨ k.mode b = 1) ∧ x / 0x10000 = b then 0 else k.sram.byte x := by
  obtain ⟨-, -, -, hs⟩ := Cluster.bankCut_of_pend hp
  rw [hs, apply_ite (fun m : Mem => m.byte x), Cluster.clearBank_byte, ite_and]

/-! ### Stores to ring descriptors and to bank queue registers (R82, R86, R87) -/

theorem Cluster.ringStore_ring_other (k : Cluster) {r j : Nat} (i v : Nat) (h : j ≠ r) :
    (k.ringStore r i v).ring j = k.ring j := by
  unfold Cluster.ringStore
  grind [Cluster.ring_setRing_other]

theorem Cluster.fifoStore_bq_other (k : Cluster) {b j : Nat} (i v : Nat) (h : j ≠ b) :
    (k.fifoStore b i v).bq j = k.bq j := by
  unfold Cluster.fifoStore
  grind [Cluster.bq_setBq_other]

theorem Cluster.windowStore_bq_other (k : Cluster) {b j : Nat} (i v : Nat) (h : j ≠ b) :
    (k.windowStore b i v).bq j = k.bq j := by
  unfold Cluster.windowStore
  grind [Cluster.bq_setBq_other]

/-- A store to a descriptor changes no other ring and no byte of the banks. -/
theorem ringDescriptorStore_leaves {s : State} {r : BitVec 4} {dw : BitVec 3} {v : BitVec 64} {z : Ring}
    (hz : ((s.cl s.here).ringStore r.toNat dw.toNat v.toNat).ring r.toNat = z) :
    leaves (.ringDescriptorStore r dw v) s (fun u => (u.cl s.here).ring r.toNat = z ∧
      (u.cl s.here).sram = (s.cl s.here).sram ∧ ∀ j, j ≠ r.toNat → (u.cl s.here).ring j = (s.cl s.here).ring j) := by
  refine ⟨_, rfl, ?_⟩
  simp only [State.cl_setCl_same]
  exact ⟨hz, Cluster.ringStore_sram .., fun j hj => Cluster.ringStore_ring_other _ _ _ hj⟩

/-- A store to a FIFO bank's registers changes those of no other bank and no byte of the banks. -/
theorem fifoQueueStore_leaves {s : State} {b : BitVec 6} {dw : BitVec 2} {v : BitVec 64} {z : BankQ}
    (hm : (s.cl s.here).mode b.toNat = mFifo)
    (hz : ((s.cl s.here).fifoStore b.toNat dw.toNat v.toNat).bq b.toNat = z) :
    leaves (.fifoQueueStore b dw v) s (fun u => (u.cl s.here).bq b.toNat = z ∧
      (u.cl s.here).sram = (s.cl s.here).sram ∧ ∀ j, j ≠ b.toNat → (u.cl s.here).bq j = (s.cl s.here).bq j) := by
  refine ⟨s.setCl s.here _, congrArg Host.Outcome.next (if_pos hm), ?_⟩
  simp only [State.cl_setCl_same]
  exact ⟨hz, Cluster.fifoStore_sram .., fun j hj => Cluster.fifoStore_bq_other _ _ _ hj⟩

/-- A store to a WINDOW bank's registers changes those of no other bank and no byte of the banks. -/
theorem windowQueueStore_leaves {s : State} {b : BitVec 6} {dw : BitVec 2} {v : BitVec 64} {z : BankQ}
    (hm : (s.cl s.here).mode b.toNat = mWindow)
    (hz : ((s.cl s.here).windowStore b.toNat dw.toNat v.toNat).bq b.toNat = z) :
    leaves (.windowQueueStore b dw v) s (fun u => (u.cl s.here).bq b.toNat = z ∧
      (u.cl s.here).sram = (s.cl s.here).sram ∧ ∀ j, j ≠ b.toNat → (u.cl s.here).bq j = (s.cl s.here).bq j) := by
  refine ⟨s.setCl s.here _, congrArg Host.Outcome.next (if_pos hm), ?_⟩
  simp only [State.cl_setCl_same]
  exact ⟨hz, Cluster.windowStore_sram .., fun j hj => Cluster.windowStore_bq_other _ _ _ hj⟩

section Ring
variable {k : Cluster} {r v : Nat}

/-- A disabled ring takes the fields of its four doublewords; EN is judged (R82). -/
theorem Cluster.ringStore_disabled (hx : (k.ring r).en = false) :
    let y := { k.ring r with rbase := fld v 21 0, cmask := fld v 25 22, rsize := fld v 44 32, slot := fld v 60 48 }
    (k.ringStore r 0 v).ring r = (if bit v 63 then
      if k.ringValid r y v then { y with en := true, err := false } else { y with err := true } else y) ∧
    (k.ringStore r 1 v).ring r = { k.ring r with head := fld v 21 0, tail := fld v 53 32 } ∧
    (k.ringStore r 2 v).ring r = { k.ring r with fill := fld v 22 0, ended := bit v 23 } ∧
    (k.ringStore r 3 v).ring r =
      { k.ring r with ahead := [fld v 15 0, fld v 31 16, fld v 47 32, fld v 63 48] } := by
  unfold Cluster.ringStore
  simp only [hx, Bool.false_eq_true, if_false, Cluster.ring_setRing_same, and_true]
  grind [Cluster.ring_setRing_same]

/-- An enabled ring takes EN = 0 while it is empty and ENDED = 0, and ignores the rest (R82). -/
theorem Cluster.ringStore_enabled (hx : (k.ring r).en = true) :
    (k.ringStore r 0 v).ring r =
      (if bit v 63 = false ∧ (k.ring r).fill = 0 then { k.ring r with en := false } else k.ring r) ∧
    (k.ringStore r 1 v).ring r = k.ring r ∧
    (k.ringStore r 2 v).ring r = (if bit v 23 = false then { k.ring r with ended := false } else k.ring r) ∧
    (k.ringStore r 3 v).ring r = k.ring r := by
  unfold Cluster.ringStore
  simp only [hx, if_true, and_true, true_and]
  grind [Cluster.ring_setRing_same]

end Ring

section Bank
variable {k : Cluster} {b v : Nat}

/-- Another enabled bank of mode `m` serves port or AG `p`. -/
def Cluster.takenBy (k : Cluster) (b m p : Nat) : Bool :=
  k.bankQs.any (fun e => e.1 != b && k.mode e.1 == m && e.2.en && e.2.port == p)

theorem Cluster.takenBy_eq_false {m p : Nat}
    (h : ∀ e ∈ k.bankQs, ¬(e.1 ≠ b ∧ k.mode e.1 = m ∧ e.2.en = true ∧ e.2.port = p)) : k.takenBy b m p = false := by
  simpa [Cluster.takenBy, and_assoc] using h

/-- An enabled FIFO bank takes EN = 0 while it is empty, and ignores the rest (R86). -/
theorem Cluster.fifoStore_enabled (he : (k.bq b).en = true) :
    (k.fifoStore b 0 v).bq b = if bit v 63 = false ∧ (k.bq b).ffill = 0
      then { k.bq b with en := false, port := fld v 4 0 } else k.bq b := by
  simp only [Cluster.fifoStore, he, if_true]
  grind [Cluster.bq_setBq_same]

/-- A disabled FIFO bank takes the port, and EN where the port is free and its staging buffer empty (R86). -/
theorem Cluster.fifoStore_disabled (he : (k.bq b).en = false) :
    (k.fifoStore b 0 v).bq b = { k.bq b with
      port := fld v 4 0
      en := bit v 63 && !k.takenBy b mFifo (fld v 4 0) && !k.portBusy (fld v 4 0) &&
        (k.stage (fld v 4 0)).data.isEmpty } := by
  simp [Cluster.fifoStore, he, Cluster.takenBy]

/-- An enabled window takes EN = 0, or a WAG that no other enabled window serves (R87). -/
theorem Cluster.windowStore_enabled (he : (k.bq b).en = true) :
    (k.windowStore b 0 v).bq b = (if bit v 63 = false then { k.bq b with port := fld v 4 0, en := false }
      else if k.takenBy b mWindow (fld v 4 0) then k.bq b else { k.bq b with port := fld v 4 0 }) ∧
    (k.windowStore b 1 v).bq b = k.bq b ∧ (k.windowStore b 2 v).bq b = k.bq b := by
  unfold Cluster.windowStore
  simp only [he, if_true, and_true, Cluster.takenBy]
  grind [Cluster.bq_setBq_same]

/-- A disabled window takes its WAG and its span, and EN where the span fits a bank and the AG is free (R87). -/
theorem Cluster.windowStore_disabled (he : (k.bq b).en = false) :
    (k.windowStore b 0 v).bq b = { k.bq b with
      port := fld v 4 0
      en := bit v 63 && !k.takenBy b mWindow (fld v 4 0) &&
        (decide ((k.bq b).whead.toNat ≤ (k.bq b).wtail.toNat) &&
          decide ((k.bq b).wtail.toNat - (k.bq b).whead.toNat ≤ 65536)) } ∧
    (k.windowStore b 1 v).bq b = { k.bq b with whead := BitVec.ofNat 64 v } ∧
    (k.windowStore b 2 v).bq b = { k.bq b with wtail := BitVec.ofNat 64 v } := by
  unfold Cluster.windowStore
  simp only [he, Bool.false_eq_true, if_false, Cluster.bq_setBq_same, and_true, Cluster.takenBy]
  cases bit v 63 <;> simp

end Bank

end Sys2Proof.Machine

namespace Sys2Proof
open Machine

/-- Settles O5: every table of the state after reset is empty, and reads as its default. -/
theorem resetState : Obligations.ResetState := by
  unfold Obligations.ResetState
  dsimp only
  exact ⟨rfl, fun _ => rfl, rfl, fun _ => ⟨rfl, rfl⟩, fun _ => ⟨rfl, rfl, rfl, rfl, rfl⟩,
    fun _ _ => ⟨rfl, fun _ => rfl, rfl⟩, fun _ _ => rfl, fun _ _ => rfl, fun _ => ⟨rfl, rfl, rfl, rfl⟩, rfl, rfl⟩

/-- Settles O22: a request that passes each judgement waits for its cut (`Cluster.bankRequest_accepted`), which sets the
mode (`Cluster.bankCut_of_pend`); MCMODE takes no value but 0 and 1. -/
theorem modeRegisters : Obligations.ModeRegisters := by
  unfold Obligations.ModeRegisters
  intro s v k b m
  refine ⟨fun hp h7 h63 hb hne hw hu => ?_, fun b m hp => ?_, fun hv => ?_, fun hv => ?_⟩
  · exact congrArg (fun x => Host.Outcome.next (s.setCl s.here x))
      (Cluster.bankRequest_accepted rfl rfl hp h7 h63 hb hne hw hu)
  · obtain ⟨hm, hn, ho, -⟩ := Cluster.bankCut_of_pend hp
    refine ⟨_, rfl, ?_⟩
    simp only [State.cl_setCl_same]
    exact ⟨hm, hn, ho, fun hw x hx => (Cluster.bankCut_byte hp x).trans (if_pos ⟨hw, hx⟩),
      fun x hx => (Cluster.bankCut_byte hp x).trans (if_neg (by tauto))⟩
  · have hw : s.writeMcmode (s.sq s.here).running.ctx v = some _ := if_pos (Nat.div_eq_of_lt hv)
    exact congrArg (fun x => Host.Outcome.next (x.getD s)) hw
  · have hw : s.writeMcmode (s.sq s.here).running.ctx v = none := if_neg (by omega)
    exact congrArg (fun x => Host.Outcome.next (x.getD s)) hw

/-- Settles O30: each store's effect on the registers it names (`Cluster.ringStore_disabled`,
`Cluster.ringStore_enabled`, the cases of the stores to bank queue registers), and its frame (the `_leaves` lemmas). -/
theorem controlStores : Obligations.ControlStores := by
  unfold Obligations.ControlStores
  intro s r b v k x y ring bank f
  refine ⟨fun hx => ?_, fun hx => ?_, fun hm => ?_, fun hm => ?_⟩
  · obtain ⟨h0, h1, h2, h3⟩ := Cluster.ringStore_disabled (v := v.toNat) hx
    refine ⟨fun hv hy => ?_, fun hv hy => ?_, fun hv => ?_, ringDescriptorStore_leaves h1,
      ringDescriptorStore_leaves h2, ringDescriptorStore_leaves h3⟩
    · exact ringDescriptorStore_leaves (h0.trans (by rw [if_pos hv]; exact if_pos hy))
    · exact ringDescriptorStore_leaves (h0.trans (by rw [if_pos hv]; exact if_neg (hy ▸ Bool.false_ne_true)))
    · exact ringDescriptorStore_leaves (h0.trans (if_neg (hv ▸ Bool.false_ne_true)))
  · obtain ⟨h0, h1, h2, h3⟩ := Cluster.ringStore_enabled (v := v.toNat) hx
    exact ⟨ringDescriptorStore_leaves h0, ringDescriptorStore_leaves h1, ringDescriptorStore_leaves h2,
      ringDescriptorStore_leaves h3⟩
  · refine ⟨fun he hv hf => ?_, fun he hv hf => ?_, fun he hv hb hd ht => ?_, fun he ho => ?_⟩
    all_goals refine fifoQueueStore_leaves hm ?_
    · exact (Cluster.fifoStore_enabled he).trans (if_neg fun h => hf h.2)
    · exact (Cluster.fifoStore_enabled he).trans (if_pos ⟨hv, hf⟩)
    · refine (Cluster.fifoStore_disabled he).trans ?_
      rw [hv, Cluster.takenBy_eq_false ht, hb, hd]
      rfl
    · refine (Cluster.fifoStore_disabled he).trans ?_
      obtain hb | hd := ho
      · simp [hb, f, k]
      · simp [hd, f, k]
  · refine ⟨fun he => ?_, fun he hv hle hsp ht => ?_, fun he => ?_, fun he hv ht => ?_, fun he hv hsp => ?_,
      fun hv => ?_⟩
    · obtain ⟨-, h1, h2⟩ := Cluster.windowStore_disabled (v := v.toNat) he
      exact ⟨windowQueueStore_leaves hm (by simpa using h1), windowQueueStore_leaves hm (by simpa using h2)⟩
    · obtain ⟨h0, -, -⟩ := Cluster.windowStore_disabled (v := v.toNat) he
      refine windowQueueStore_leaves hm (h0.trans ?_)
      rw [hv, Cluster.takenBy_eq_false ht, decide_eq_true hle, decide_eq_true hsp]
      rfl
    · obtain ⟨-, h1, h2⟩ := Cluster.windowStore_enabled (v := v.toNat) he
      exact ⟨windowQueueStore_leaves hm h1, windowQueueStore_leaves hm h2⟩
    all_goals refine windowQueueStore_leaves hm ?_
    · obtain ⟨h0, -, -⟩ := Cluster.windowStore_enabled (v := v.toNat) he
      refine h0.trans ?_
      rw [hv, Cluster.takenBy_eq_false ht]
      rfl
    · obtain ⟨h0, -, -⟩ := Cluster.windowStore_disabled (v := v.toNat) he
      refine h0.trans ?_
      obtain hlt | hlt := hsp
      · simp [Nat.not_le.2 hlt, f, k]
      · simp [Nat.not_le.2 hlt, f, k]
    · cases he : f.en with
      | false =>
        obtain ⟨h0, -, -⟩ := Cluster.windowStore_disabled (v := v.toNat) he
        exact h0.trans (by simp [hv, f, k])
      | true =>
        obtain ⟨h0, -, -⟩ := Cluster.windowStore_enabled (v := v.toNat) he
        exact h0.trans (if_pos hv)

end Sys2Proof
end

section
/-! SUPPORT. MFS and MTS on plain registers (R78, R304, R305, R341): the numbers that are allocated, and the words of
STATUS, BANKMODE, BANKST0 and BANKST1. -/

namespace Sys2Proof.Machine

/-! ### Packed words -/

/-- A sum of two-bit digits stays below the place after them. -/
theorem twoBits_sum_lt {f : Nat → Nat} (hf : ∀ i, f i < 4) (n : Nat) :
    ((List.range n).map (fun i => f i * 2 ^ (2 * i))).sum < 4 ^ n := by
  induction n with
  | zero => simp
  | succ n ih =>
    simp only [List.range_succ, List.map_append, List.sum_append, List.map_cons, List.map_nil, List.sum_singleton]
    have h : f n * 2 ^ (2 * n) ≤ 3 * 4 ^ n := by
      rw [pow_mul]
      exact Nat.mul_le_mul_right _ (Nat.le_of_lt_succ (hf n))
    omega

/-- Digit `b` of a sum of two-bit digits. -/
theorem twoBits_sum_fld {f : Nat → Nat} (hf : ∀ i, f i < 4) {n b : Nat} (hb : b < n) :
    fld ((List.range n).map (fun i => f i * 2 ^ (2 * i))).sum (2 * b + 1) (2 * b) = f b := by
  have hw : 2 * b + 1 + 1 - 2 * b = 2 := by omega
  simp only [fld, hw, Nat.shiftRight_eq_div_pow]
  induction n with
  | zero => omega
  | succ n ih =>
    simp only [List.range_succ, List.map_append, List.sum_append, List.map_cons, List.map_nil, List.sum_singleton]
    obtain rfl | hlt := Nat.lt_succ_iff_lt_or_eq.1 hb |>.symm
    · have h := twoBits_sum_lt hf b
      rw [Nat.add_mul_div_right _ _ (by positivity), Nat.div_eq_of_lt (by rwa [pow_mul]), Nat.zero_add]
      exact Nat.mod_eq_of_lt (hf b)
    · obtain ⟨k, rfl⟩ := Nat.exists_eq_add_of_lt hlt
      have hp : f (b + k + 1) * 2 ^ (2 * (b + k + 1)) = f (b + k + 1) * 2 ^ (2 * k) * 2 ^ 2 * 2 ^ (2 * b) := by ring
      rw [hp, Nat.add_mul_div_right _ _ (by positivity), Nat.add_mul_mod_self_right]
      exact ih hlt

/-- The word of BANKST0 and BANKST1: two bits for each bank (R78). -/
theorem Cluster.bankSt_word {k : Cluster} (h : ∀ b, k.mode b < 4) (lo : Nat) {n : Nat} (hn : n ≤ 32) :
    (BitVec.ofNat 64 (k.bankSt lo n)).toNat < 4 ^ n ∧
      ∀ b, b < n → fld (BitVec.ofNat 64 (k.bankSt lo n)).toNat (2 * b + 1) (2 * b) = k.mode (lo + b) := by
  have hlt : k.bankSt lo n < 4 ^ n := twoBits_sum_lt (fun i => h (lo + i)) n
  have hle : 4 ^ n ≤ 2 ^ 64 := (Nat.pow_le_pow_right (by decide) hn).trans (by decide)
  rw [BitVec.toNat_ofNat, Nat.mod_eq_of_lt (hlt.trans_le hle)]
  exact ⟨hlt, fun b hb => twoBits_sum_fld (fun i => h (lo + i)) hb⟩

/-- The fields of BANKMODE as they are read (R78). -/
theorem Cluster.bankStatus_word {k : Cluster} (hb : k.bankReq.bank < 64) (hm : k.bankReq.mode < 4)
    (hs : k.bankReq.bstat < 16) :
    let v : Word := BitVec.ofNat 64 k.bankStatus
    fld v.toNat 5 0 = k.bankReq.bank ∧ fld v.toNat 7 6 = 0 ∧ fld v.toNat 9 8 = k.bankReq.mode ∧
      fld v.toNat 11 10 = 0 ∧ fld v.toNat 15 12 = k.bankReq.bstat ∧
      (v.getLsbD 16 = true ↔ k.bankReq.pend = none) ∧ v.toNat < 2 ^ 17 := by
  have hp : b2n k.bankReq.pend.isNone ≤ 1 := by unfold b2n; split <;> omega
  have hi : b2n k.bankReq.pend.isNone = 1 ↔ k.bankReq.pend = none := by simp [b2n]
  have hv : k.bankStatus < 2 ^ 17 := by unfold Cluster.bankStatus; omega
  dsimp only
  rw [BitVec.getLsbD, BitVec.toNat_ofNat, Nat.mod_eq_of_lt (hv.trans (by decide)), ← hi]
  simp only [fld, Nat.shiftRight_eq_div_pow, Nat.testBit_eq_decide_div_mod_eq, decide_eq_true_eq, Cluster.bankStatus]
  omega

/-- The fields of STATUS (R305). -/
theorem Seq.status_word (q : Seq) :
    q.status.toNat < 8 ∧ q.status.getLsbD 0 = q.inTrap ∧ q.status.getLsbD 2 = q.mcLost ∧
      (q.status.getLsbD 1 = true ↔ ∃ y ∈ q.yreqs, y.ctx = q.running.ctx ∧ y.coop = none) := by
  have hy : (q.yreqOf q.running.ctx).isSome = true ↔ ∃ y ∈ q.yreqs, y.ctx = q.running.ctx ∧ y.coop = none := by
    simp [Seq.yreqOf]
  rw [← hy]
  unfold Seq.status
  cases q.inTrap <;> cases (q.yreqOf q.running.ctx).isSome <;> cases q.mcLost <;> decide

/-- Going on changes nothing of the cluster but its sequencer. -/
theorem State.cl_advance (t : State) (c : Nat) : ∃ q, (t.advance c).cl c = { t.cl c with seq := q } :=
  ⟨_, State.cl_setCl_same ..⟩

/-- What a request leaves besides its judgement: the fields it names, and the change under way (R78). -/
theorem Cluster.bankRequest_pend {k : Cluster} {v : Nat} :
    (k.bankReq.pend.isSome = true → (k.bankRequest v).bankReq.bstat = 4 ∧
      (k.bankRequest v).bankReq.pend = k.bankReq.pend) ∧
    (k.bankReq.pend = none → (fld v 7 6 ≠ 0 ∨ fld v 63 10 ≠ 0) → (k.bankRequest v).bankReq.bstat = 5 ∧
      (k.bankRequest v).bankReq.pend = none) ∧
    (k.bankReq.pend = none → fld v 7 6 = 0 → fld v 63 10 = 0 → 47 < fld v 5 0 →
      (k.bankRequest v).bankReq.bstat = 3 ∧ (k.bankRequest v).bankReq.pend = none) := by
  refine ⟨fun hp => ?_, fun hp hr => ?_, fun hp h7 h63 hb => ?_⟩
  · have h : k.modeStatus v = 4 := by rw [Cluster.modeStatus, if_pos hp]
    simp [Cluster.bankRequest, h]
  · have h : k.modeStatus v = 5 := by simp [Cluster.modeStatus, hp, hr]
    simp [Cluster.bankRequest, h]
  · have h : k.modeStatus v = 3 := by simp [Cluster.modeStatus, hp, h7, h63, hb]
    simp [Cluster.bankRequest, h]

/-! ### Allocated numbers -/

/-- An index past the named registers names a channel's binding, or nothing (R304). -/
theorem State.sysReg_high (s : State) (c : Nat) {n : Nat} (h : 0x40 ≤ n) :
    s.sysReg c n = if 0x040 ≤ n ∧ n < 0x050 then some (s.chan c (n - 0x040)).entry
      else if 0x050 ≤ n ∧ n < 0x060 then some (s.chan c (n - 0x050)).q
      else if 0x060 ≤ n ∧ n < 0x070 then some (BitVec.ofNat 64 (s.chan c (n - 0x060)).queue.length) else none := by
  unfold State.sysReg
  split
  case h_18 => rfl
  all_goals omega

theorem State.sysReg_unallocated (s : State) (c : Nat) {n : Nat}
    (h : ¬(n < 0x00D ∨ n = 0x010 ∨ (0x020 ≤ n ∧ n < 0x023) ∨ (0x040 ≤ n ∧ n < 0x070))) : s.sysReg c n = none := by
  have h4 : ¬(0x040 ≤ n ∧ n < 0x050) := by omega
  have h5 : ¬(0x050 ≤ n ∧ n < 0x060) := by omega
  have h6 : ¬(0x060 ≤ n ∧ n < 0x070) := by omega
  unfold State.sysReg
  split
  case h_18 => rw [if_neg h4, if_neg h5, if_neg h6]
  all_goals omega

theorem State.writeSys_unallocated (s : State) (c : Nat) {n : Nat} (v : Word)
    (h : n ∉ [4, 8, 9, 11, 12, 0x010, 0x020]) : s.writeSys c n v = none := by
  unfold State.writeSys
  split
  case h_8 => rfl
  all_goals simp at h

end Sys2Proof.Machine

namespace Sys2Proof
open Machine

/-! ### MFS -/

/-- MFS of an allocated number. -/
theorem exec_mfs {s : State} {d : Reg} (hd : plainReg d) {n : BitVec 12} {v : Word}
    (hv : s.sysReg s.here n.toNat = some v) : exec (.mfs d n) s = .next (wroteReg s d v) := by
  have hc := compute_plain (rs := []) s (Instr.mfs d n).word (fun _ => v) nofun hd
  simp only [exec, execMfs, hv, hc, State.settle]

theorem exec_mfs_unallocated {s : State} (d : Reg) {n : BitVec 12} (hh : hasHandler s)
    (hv : s.sysReg s.here n.toNat = none) :
    exec (.mfs d n) s = .next (trapped s 1 ((Instr.mfs d n).word.setWidth 64) (seqHere s).pc) := by
  simp only [exec, execMfs, hv, takeTrap_handler s _ hh]
  simp [Trap.word, Trap.retPc, illegal, tIllegal, tTrap]

/-- The numbers of the channels' bindings (R304). -/
theorem exec_mfs_chan {s : State} {d : Reg} (hd : plainReg d) (n : BitVec 4) :
    exec (.mfs d (0x040 + n.setWidth 12)) s = .next (wroteReg s d (s.chan s.here n.toNat).entry) ∧
    exec (.mfs d (0x050 + n.setWidth 12)) s = .next (wroteReg s d (s.chan s.here n.toNat).q) ∧
    exec (.mfs d (0x060 + n.setWidth 12)) s =
      .next (wroteReg s d (BitVec.ofNat 64 (s.chan s.here n.toNat).queue.length)) := by
  have hn : n.toNat < 16 := n.isLt
  have h : ∀ k : BitVec 12, k.toNat < 0x100 → (k + n.setWidth 12).toNat = k.toNat + n.toNat := by
    intro k hk
    rw [BitVec.toNat_add, BitVec.toNat_setWidth, Nat.mod_eq_of_lt (by omega : n.toNat < 2 ^ 12)]
    omega
  refine ⟨exec_mfs hd ?_, exec_mfs hd ?_, exec_mfs hd ?_⟩
  · have e : (0x040 + n.setWidth 12 : BitVec 12).toNat = 0x040 + n.toNat := h 0x040 (by decide)
    rw [e, State.sysReg_high _ _ (by omega), if_pos (by omega), Nat.add_sub_cancel_left]
  · have e : (0x050 + n.setWidth 12 : BitVec 12).toNat = 0x050 + n.toNat := h 0x050 (by decide)
    rw [e, State.sysReg_high _ _ (by omega), if_neg (by omega), if_pos (by omega), Nat.add_sub_cancel_left]
  · have e : (0x060 + n.setWidth 12 : BitVec 12).toNat = 0x060 + n.toNat := h 0x060 (by decide)
    rw [e, State.sysReg_high _ _ (by omega), if_neg (by omega), if_neg (by omega), if_pos (by omega),
      Nat.add_sub_cancel_left]

/-- The deadline of the request that the running task sees, or 0 (R414). -/
theorem sysReg_deadline (s : State) (c : Nat) : s.sysReg c 10 =
    some (match (s.sq c).yreqOf (s.sq c).running.ctx with | some y => y.deadline | none => 0) := rfl

/-! ### MTS -/

section
variable {s : State} {a : Reg} {n : BitVec 12}

/-- MTS of a value that the register takes. -/
theorem exec_mts (ha : plainReg a) {t : State} (hw : s.writeSys s.here n.toNat (srcVal s a) = some t) :
    exec (.mts a n) s = .next (t.advance s.here) := by
  have hr := readSrcs_plain s s.here (Instr.mts a n).word (rs := [a]) (d := none) (by simpa using ha) nofun
  have hw' : s.writeSys s.here n.toNat (one (fun x => x) ([a].map fun r => (s.sq s.here).reg r)) = some t := hw
  simp only [exec, execMts, hr, bind, Except.bind, hw', State.settle]

/-- MTS of a value that the register refuses, or of a number that software may not write. -/
theorem exec_mts_refused (ha : plainReg a) (hh : hasHandler s)
    (hw : s.writeSys s.here n.toNat (srcVal s a) = none) :
    exec (.mts a n) s = .next (trapped s 4 (n.setWidth 64) (seqHere s).pc) := by
  have hr := readSrcs_plain s s.here (Instr.mts a n).word (rs := [a]) (d := none) (by simpa using ha) nofun
  have hw' : s.writeSys s.here n.toNat (one (fun x => x) ([a].map fun r => (s.sq s.here).reg r)) = none := hw
  simp only [exec, execMts, hr, bind, Except.bind, hw', State.settle, takeTrap_handler s _ hh]
  simp [Trap.word, Trap.retPc, tPermission, tTrap]

/-- MTS of a register of the sequencer, which takes the values that meet `ok`. -/
theorem exec_mts_puts (ha : plainReg a) (hh : hasHandler s) {ok : Prop} [Decidable ok] {q : Seq}
    (hpc : q.pc = (seqHere s).pc)
    (hw : s.writeSys s.here n.toNat (srcVal s a) = if ok then some (s.setSq s.here q) else none) :
    (ok → exec (.mts a n) s = .next (s.setSq s.here { q with pc := (seqHere s).pc + 4, brkSkip := false })) ∧
    (¬ok → exec (.mts a n) s = .next (trapped s 4 (n.setWidth 64) (seqHere s).pc)) := by
  refine ⟨fun h => ?_, fun h => exec_mts_refused ha hh (hw.trans (if_neg h))⟩
  rw [exec_mts ha (hw.trans (if_pos h)), advance_setSq, hpc]

end

/-- Where the sequencer is as it was, going on leaves it at the next instruction. -/
theorem advance_nextInstr {s t : State} (hh : t.here = s.here) (hq : t.sq s.here = s.sq s.here) :
    nextInstr s (t.advance s.here) none := by
  have hu : seqHere (t.advance s.here) = { seqHere s with pc := (seqHere s).pc + 4, brkSkip := false } := by
    have h : seqHere (t.advance s.here) = (t.advance s.here).sq s.here := congrArg (t.advance s.here).sq hh
    rw [h, State.advance, State.setPc, State.sq_setSq_same, hq]
    rfl
  unfold nextInstr srcVal
  rw [hu]
  exact ⟨rfl, hh, fun _ _ => rfl, rfl, rfl, rfl, rfl, rfl⟩

/-- MTS of BANKMODE is always performed: the request is judged, and nothing but the cluster changes (R78). -/
theorem exec_mts_bankmode {s : State} {a : Reg} (ha : plainReg a) :
    ∃ u, exec (.mts a 0x020) s = .next u ∧ nextInstr s u none ∧ sameBesideClusters s u ∧
      ∃ q, u.cl u.here = { (s.cl s.here).bankRequest (srcVal s a).toNat with seq := q } := by
  refine ⟨_, exec_mts (n := 0x020) ha rfl, advance_nextInstr rfl ?_,
    ⟨rfl, rfl, rfl, rfl, rfl, rfl, rfl, rfl, rfl, rfl⟩, ?_⟩
  · simp only [State.sq, State.cl_setCl_same]
    rfl
  · obtain ⟨q, hq⟩ := State.cl_advance (s.setCl s.here ((s.cl s.here).bankRequest (srcVal s a).toNat)) s.here
    rw [State.cl_setCl_same] at hq
    exact ⟨q, hq⟩

/-- Settles O21: MFS of each number reads what `State.sysReg` names (`exec_mfs`), MTS writes what `State.writeSys` takes
(`exec_mts_puts`, `exec_mts_bankmode`), and both trap on every other number. -/
theorem systemRegisters : Obligations.SystemRegisters := by
  unfold Obligations.SystemRegisters
  refine ⟨fun s d hd => ?_, fun s a ha hh => ?_⟩
  · refine ⟨exec_mfs hd rfl, exec_mfs hd rfl, exec_mfs hd rfl, exec_mfs hd rfl, ?status, ?deadline, ?noDeadline,
      exec_mfs hd rfl, exec_mfs hd rfl, exec_mfs hd rfl, exec_mfs hd rfl, exec_mfs hd rfl, exec_mfs hd rfl, exec_mfs hd rfl,
      exec_mfs hd rfl, fun n => exec_mfs_chan hd n, ⟨?bankmode, ?banks⟩, ?unallocated⟩
    case status =>
      obtain ⟨hlt, h0, h2, h1⟩ := (seqHere s).status_word
      exact ⟨_, exec_mfs hd rfl, hlt, h0, h2, h1⟩
    case deadline =>
      intro y hy
      refine exec_mfs hd ((sysReg_deadline s s.here).trans ?_)
      have hy' : (s.sq s.here).yreqOf (s.sq s.here).running.ctx = some y := hy
      rw [hy']
    case noDeadline =>
      intro hy
      refine exec_mfs hd ((sysReg_deadline s s.here).trans ?_)
      have hy' : (s.sq s.here).yreqOf (s.sq s.here).running.ctx = none := by
        simpa [Seq.yreqOf, seqHere] using hy
      rw [hy']
    case bankmode =>
      intro hb hm hs
      exact ⟨_, exec_mfs hd rfl, Cluster.bankStatus_word hb hm hs⟩
    case banks =>
      intro h
      obtain ⟨-, h0⟩ := Cluster.bankSt_word h 0 (n := 32) (by decide)
      obtain ⟨hlt, h1⟩ := Cluster.bankSt_word h 32 (n := 16) (by decide)
      simp only [Nat.zero_add] at h0
      exact ⟨_, _, exec_mfs hd rfl, exec_mfs hd rfl, h0, h1, hlt⟩
    case unallocated =>
      intro n hn
      refine fun hh => exec_mfs_unallocated d hh (State.sysReg_unallocated _ _ fun h => hn ?_)
      rwa [← BitVec.toNat_inj]
  · refine ⟨exec_mts_puts ha hh rfl rfl, exec_mts_puts ha hh rfl ?chanmask, exec_mts_puts ha hh rfl rfl,
      exec_mts_puts ha hh rfl ?brkpc, exec_mts_puts ha hh rfl ?mclost, fun hv => ?frun, fun hv => ?reserved, ?bankmode,
      fun n hn => exec_mts_refused ha hh (State.writeSys_unallocated _ _ _ hn)⟩
    case chanmask => exact ite_congr (propext (by omega)) (fun _ => rfl) (fun _ => rfl)
    case mclost => exact ite_congr (propext (by omega)) (fun _ => rfl) (fun _ => rfl)
    case brkpc =>
      have e : (srcVal s a).getLsbD 1 = bit (srcVal s a).toNat 1 := rfl
      change (if bit (srcVal s a).toNat 1 = true then none else _) = _
      rw [e]
      cases bit (srcVal s a).toNat 1 <;> rfl
    case frun =>
      have hw : s.writeMcmode (seqHere s).running.ctx (srcVal s a) = some _ := if_pos (Nat.div_eq_of_lt hv)
      exact exec_mts ha hw
    case reserved =>
      have hw : s.writeMcmode (seqHere s).running.ctx (srcVal s a) = none := if_neg (by omega)
      exact exec_mts_refused ha hh hw
    case bankmode =>
      obtain ⟨u, hu, hn, hs, q, hq⟩ := exec_mts_bankmode ha
      obtain ⟨hpend, hbad, hbank⟩ := Cluster.bankRequest_pend (k := s.cl s.here) (v := (srcVal s a).toNat)
      refine ⟨u, hu, hn, ?_⟩
      rw [hq]
      exact ⟨rfl, rfl, rfl, rfl, hs, hpend, hbad, hbank⟩

end Sys2Proof
end

section
/-! SUPPORT. The fabric's side of a state: the actor, and every cluster but its sequencer, channels and held messages.
Messages, machine checks, translations and accesses to memory leave it as it is. -/

namespace Sys2Proof.Machine

/-- A cluster without its sequencer, channels and held messages. -/
def Cluster.fabric (k : Cluster) : Cluster := { k with seq := {}, chans := [], held := [] }

/-- The actor, and the fabric's side of every cluster. -/
def State.fabric (s : State) : Actor × (Nat → Cluster) := (s.actor, fun c => (s.cl c).fabric)

section
variable {s t : State} (h : t.fabric = s.fabric)
include h

theorem actor_of_fabric : t.actor = s.actor := congrArg Prod.fst h
theorem here_of_fabric : t.here = s.here := congrArg Actor.cl (actor_of_fabric h)
theorem cl_of_fabric (c : Nat) : (t.cl c).fabric = (s.cl c).fabric := congrFun (congrArg Prod.snd h) c
theorem mat_of_fabric (c i : Nat) : (t.cl c).mat i = (s.cl c).mat i := (congrArg (Cluster.mat · i) (cl_of_fabric h c) :)
theorem ag_of_fabric (c a : Nat) : (t.cl c).ag a = (s.cl c).ag a := (congrArg (Cluster.ag · a) (cl_of_fabric h c) :)
theorem sram_of_fabric (c : Nat) : (t.cl c).sram = (s.cl c).sram := (congrArg Cluster.sram (cl_of_fabric h c) :)
theorem ring_of_fabric (c r : Nat) : (t.cl c).ring r = (s.cl c).ring r :=
  (congrArg (Cluster.ring · r) (cl_of_fabric h c) :)
theorem resident_of_fabric (c r : Nat) : (t.cl c).resident r = (s.cl c).resident r :=
  (congrArg (Cluster.resident · r) (cl_of_fabric h c) :)
theorem isleOwner_of_fabric (c i : Nat) : (t.cl c).isleOwner i = (s.cl c).isleOwner i :=
  (congrArg (Cluster.isleOwner · i) (cl_of_fabric h c) :)

end

/-! ### The state's updates -/

theorem State.setCl_fabric (s : State) (c : Nat) {k : Cluster} (h : k.fabric = (s.cl c).fabric) :
    (s.setCl c k).fabric = s.fabric := by
  refine Prod.ext rfl (funext fun e => ?_)
  by_cases he : e = c
  · subst he
    simp only [State.fabric, State.cl_setCl_same, h]
  · simp only [State.fabric, State.cl_setCl_other s k he]

/-- The same update of states with the same fabric. -/
theorem State.setCl_fabric_congr {s t : State} (h : t.fabric = s.fabric) (c : Nat) {j k : Cluster}
    (hk : j.fabric = k.fabric) : (t.setCl c j).fabric = (s.setCl c k).fabric := by
  refine Prod.ext (actor_of_fabric h :) (funext fun e => ?_)
  by_cases he : e = c
  · subst he
    simp only [State.fabric, State.cl_setCl_same, hk]
  · simp only [State.fabric, State.cl_setCl_other _ _ he, cl_of_fabric h]

@[simp] theorem State.setSq_fabric (s : State) (c : Nat) (q : Seq) : (s.setSq c q).fabric = s.fabric :=
  s.setCl_fabric c rfl

@[simp] theorem State.setChan_fabric (s : State) (c n : Nat) (x : Channel) : (s.setChan c n x).fabric = s.fabric :=
  s.setCl_fabric c rfl

@[simp] theorem State.setDie_fabric (s : State) (d : Nat) (k : Die) : (s.setDie d k).fabric = s.fabric := rfl
@[simp] theorem State.setPkg_fabric (s : State) (p : Package) : (s.setPkg p).fabric = s.fabric := rfl
@[simp] theorem State.drawNat_fabric (s : State) : s.drawNat.2.fabric = s.fabric := rfl

theorem SameButMem.fabric {s t : State} (h : SameButMem s t) : t.fabric = s.fabric :=
  Prod.ext h.actor (funext fun c => congrArg Cluster.fabric (h.cl c))

/-! ### Messages -/

@[simp] theorem State.enqueue_fabric (s : State) (c n : Nat) (m : QMsg) : (s.enqueue c n m).fabric = s.fabric := by
  unfold State.enqueue
  split
  · exact State.setChan_fabric ..
  · rfl

@[simp] theorem State.post_fabric (s : State) (c sender n : Nat) (m : QMsg) :
    (s.post c sender n m).fabric = s.fabric := by
  unfold State.post
  split
  · exact s.setCl_fabric c rfl
  · exact State.enqueue_fabric ..

@[simp] theorem State.machineCheck_fabric (s : State) (c ctx source unit pa : Nat) (va : Word) (detail : Nat) :
    (s.machineCheck c ctx source unit pa va detail).fabric = s.fabric := by
  unfold State.machineCheck State.postMc
  split
  · exact State.enqueue_fabric ..
  · exact State.setSq_fabric ..

/-! ### Accesses by virtual address -/

@[simp] theorem State.deviceStore_fabric (s : State) (cl ctx pa : Nat) (bs : List Byte) :
    (s.deviceStore cl ctx pa bs).fabric = s.fabric := rfl

@[simp] theorem State.freshWalk_fabric (s : State) (die mcl ctx va : Nat) (k : AccKind) :
    (s.freshWalk die mcl ctx va k).2.2.fabric = s.fabric := by
  unfold State.freshWalk
  split
  · split
    · rfl
    · exact State.machineCheck_fabric ..
  · split
    · exact (setAD_frame s die _ _).fabric
    · rfl

@[simp] theorem State.translate_fabric (s : State) (owner die mcl ctx : Nat) (k : AccKind) (va : Nat) :
    (s.translate owner die mcl ctx k va).2.fabric = s.fabric := by
  have ht : ∀ (u : State) (m), ({ u with tlb := m } : State).fabric = u.fabric := fun _ _ => rfl
  grind [State.translate, State.freshWalk_fabric]

theorem State.storeLines_fabric (agent n : Nat) (s : State) (pa : Nat) (bs : List Byte) :
    (State.storeLines agent n s pa bs).fabric = s.fabric := by
  fun_induction State.storeLines
  case case1 => rfl
  case case2 => rfl
  case case3 ih => exact ih.trans (storeHome_frame ..).1.fabric

@[simp] theorem State.storeMarked_fabric (s : State) (w : Who) (pa : Nat) (bs : List (Byte × Bool)) :
    (s.storeMarked w pa bs).fabric = s.fabric := by
  have hp : ∀ (t : State) ms, ({ t with poison := ms } : State).fabric = t.fabric := fun _ _ => rfl
  unfold State.storeMarked
  split
  · rfl
  · rw [hp]
    split
    · exact State.storeLines_fabric ..
    · exact (storeHome_frame ..).1.fabric

theorem State.engWriteF_fabric (w : Who) (ctx n : Nat) (s : State) (va : Nat) (bs : List (Byte × Bool)) :
    (State.engWriteF w ctx n s va bs).2.fabric = s.fabric := by
  fun_induction State.engWriteF <;>
    grind [State.translate_fabric, State.storeMarked_fabric, State.deviceStore_fabric]

@[simp] theorem State.engPut_fabric (s : State) (w : Who) (ctx va : Nat) (bs : List Byte) :
    (s.engPut w ctx va bs).2.fabric = s.fabric := State.engWriteF_fabric ..

theorem State.engReadF_fabric (w : Who) (ctx : Nat) (k : AccKind) (n : Nat) (s : State) (va m : Nat) :
    (State.engReadF w ctx k n s va m).2.fabric = s.fabric := by
  induction n generalizing s va m with
  | zero => rfl
  | succ n ih =>
    unfold State.engReadF
    split
    · rfl
    · have ht := State.translate_fabric s w.owner w.die w.mcl ctx k va
      dsimp only
      split
      · next he => rwa [he] at ht
      · next pa mt s1 he =>
        rw [he] at ht
        have hc := foldl_keeps State.fabric _ (fun t i => (keepCopy_frame t w.die (mt == 0 && !w.home)
          ((pa / 128 + i) * 128)).fabric) (List.range ((pa + min m (4096 - va % 4096) + 127) / 128 - pa / 128)) s1
        split
        · next hr => exact (congrArg (·.2.fabric) hr).symm.trans ((ih ..).trans (hc.trans ht))
        · next hr => exact (congrArg (·.2.fabric) hr).symm.trans ((ih ..).trans (hc.trans ht))

@[simp] theorem State.engRead_fabric (s : State) (w : Who) (ctx va n : Nat) :
    (s.engRead w ctx va n).2.fabric = s.fabric := State.engReadF_fabric ..

@[simp] theorem State.deliverKnown_fabric (s : State) (agent die : Nat) (c : Scope) :
    (s.deliverKnown agent die c).fabric = s.fabric := (deliverKnown_frame ..).fabric

/-! ### Gangs (R360 to R363) and accesses of a residency (R297) -/

@[simp] theorem State.report_fabric (s : State) (d : Nat) (g : Gang) (off v : Nat) (c : Scope) :
    (s.report d g off v c).fabric = s.fabric := by
  unfold State.report
  split
  · rfl
  · exact (State.engPut_fabric ..).trans (State.deliverKnown_fabric ..)

@[simp] theorem State.reportLink_fabric (s : State) (d : Nat) (g : Gang) : (s.reportLink d g).fabric = s.fabric := by
  unfold State.reportLink
  split
  · rfl
  · rfl

@[simp] theorem State.gbarTry_fabric (s : State) (d l b : Nat) : (s.gbarTry d l b).fabric = s.fabric := by
  unfold State.gbarTry
  split
  · rfl
  · split
    · rfl
    · dsimp only
      split
      · exact foldl_keeps State.fabric _ (fun t a => State.post_fabric ..) _ _
      · rfl

@[simp] theorem State.setMember_fabric (s : State) (d l m : Nat) (f : Member → Member) :
    (s.setMember d l m f).fabric = s.fabric := by
  have hg : ∀ (t : State) (g : Gang), (t.setGang d l g).fabric = t.fabric := fun _ _ => rfl
  have hb : ∀ t : State, ((List.range 4).foldl (fun t b => t.gbarTry d l b) t).fabric = t.fabric := fun t =>
    foldl_keeps State.fabric _ (fun t b => State.gbarTry_fabric t d l b) _ t
  unfold State.setMember
  split
  · rfl
  · split
    · rfl
    · dsimp only
      split
      · split
        · simp only [hb, State.reportLink_fabric, State.report_fabric, hg]
        · simp only [hb, State.reportLink_fabric, State.report_fabric, hg]
      · simp only [hb, State.reportLink_fabric, State.report_fabric, hg]

@[simp] theorem State.performAgs_fabric (s : State) (c : Nat) (as : List Nat) :
    (s.performAgs c as).fabric = s.fabric := by
  refine foldl_keeps State.fabric _ (fun t a => ?_) _ _
  split
  · rfl
  · exact State.deliverKnown_fabric ..

end Sys2Proof.Machine
end

section
/-! SUPPORT. What every turn of an island has in common (R260, R264, R265): its outcomes, its stop, and its output in
pieces. -/

namespace Sys2Proof.Machine

/-! ### Reads after updates -/

theorem Cluster.mat_setMat_other (k : Cluster) {i j : Nat} (m : Isle) (h : j ≠ i) : (k.setMat i m).mat j = k.mat j :=
  Tab.get_put_other _ _ _ h

@[simp] theorem State.isle_setIsle (s : State) (e : IsleEnv) (m : Isle) : (s.setIsle e m).isle e = m := by
  simp [State.isle, State.setIsle]

theorem State.cl_setIsle (s : State) (e : IsleEnv) (m : Isle) : (s.setIsle e m).cl e.c = (s.cl e.c).setMat e.i m :=
  State.cl_setCl_same ..

theorem isle_of_fabric {s t : State} (h : t.fabric = s.fabric) (e : IsleEnv) : t.isle e = s.isle e :=
  mat_of_fabric h e.c e.i

theorem collect_val {α : Type} (l : List (MRes α)) : (collect l).val = l.map MRes.val := by
  induction l with
  | nil => rfl
  | cons x l ih => exact congrArg (x.val :: ·) ih

/-- What a draw of power leaves: its cluster's bucket, or its die's count of refusals. -/
theorem State.drawPower_leaves (s : State) (c u each total : Nat) :
    (s.drawPower c u each total).2.actor = s.actor ∧
      ∃ p, (s.drawPower c u each total).2.cl c = { s.cl c with power := p } := by
  unfold State.drawPower
  dsimp only
  split
  · exact ⟨rfl, _, rfl⟩
  · exact ⟨rfl, _, State.cl_setCl_same ..⟩

theorem State.drawPower_of_le {s : State} {c u each : Nat} (total : Nat)
    (h : each ≤ (s.cl c).power.get (s.spineOf c u) 0) :
    s.drawPower c u each total = (true, s.setCl c { s.cl c with
      power := (s.cl c).power.put (s.spineOf c u) ((s.cl c).power.get (s.spineOf c u) 0 - total) }) :=
  if_neg (Nat.not_lt.2 h)

/-! ### Output in pieces -/

theorem pieces_flatten {n : Nat} {bs : List Byte} (h : bs.length ≤ 512 * n) : (pieces n bs).flatten = bs := by
  induction n generalizing bs with
  | zero => exact (List.length_eq_zero_iff.1 (by omega)).symm
  | succ n ih =>
    unfold pieces
    split
    · next he => exact (List.isEmpty_iff.1 he).symm
    · rw [List.flatten_cons, ih (by rw [List.length_drop]; omega), List.take_append_drop]

theorem pieces_small {n : Nat} {bs x : List Byte} (h : x ∈ pieces n bs) : x ≠ [] ∧ x.length ≤ 512 := by
  induction n generalizing bs with
  | zero => cases h
  | succ n ih =>
    unfold pieces at h
    split at h
    · cases h
    · next he =>
      obtain rfl | h := List.mem_cons.1 h
      · exact ⟨by simpa using he, by rw [List.length_take]; omega⟩
      · exact ih h

/-! ### The end of a residency, as one of its islands sees it -/

/-- What the end of a residency leaves of an island. -/
def Isle.core (m : Isle) : Nat × Tab Nat × Nat := (m.err, m.acc, m.ipc)

theorem Cluster.vacate_core (k : Cluster) (r i : Nat) : ((k.vacate r).mat i).core = (k.mat i).core := by
  have hm : ∀ (k : Cluster) (j : Nat), ((k.setMat j (k.mat j).cleared).mat i).core = (k.mat i).core := by
    intro k j
    by_cases hj : i = j
    · subst hj
      rw [Cluster.mat_setMat_same]
      rfl
    · rw [Cluster.mat_setMat_other _ _ hj]
  have ht : ∀ (k : Cluster) (p : Nat), ((tilesOfPage p).foldl (fun k t => k.setTile t (k.tile t).cleared) k).mat i =
      k.mat i := fun k p => foldl_keeps (fun k => Cluster.mat k i) (fun k t => k.setTile t (k.tile t).cleared)
    (fun _ _ => rfl) _ k
  have hi := foldl_keeps (fun k => (Cluster.mat k i).core) (fun k j => k.setMat j (k.mat j).cleared) hm
  have hp := foldl_keeps (fun k => Cluster.mat k i)
    (fun k p => (tilesOfPage p).foldl (fun k t => k.setTile t (k.tile t).cleared) k) ht
  have ha := foldl_keeps (fun k => Cluster.mat k i) (fun k a => k.setAg a (k.ag a).cleared) (fun _ _ => rfl)
  have h1 := hp (k.resident r).pages k
  have h2 := ha (k.resident r).ags ((k.resident r).pages.foldl (fun k p =>
    (tilesOfPage p).foldl (fun k t => k.setTile t (k.tile t).cleared) k) k)
  exact (hi (k.resident r).islands _).trans (congrArg Isle.core (h2.trans h1))

theorem State.endResid_core (s : State) (c r : Nat) (quiet : Bool) (i : Nat) :
    (s.endResid c r quiet).actor = s.actor ∧
      (((s.endResid c r quiet).cl c).mat i).core = ((s.cl c).mat i).core := by
  unfold State.endResid
  dsimp only
  split
  · exact ⟨rfl, rfl⟩
  · generalize hw : State.setCl _ c _ = w
    have hwa : w.actor = s.actor :=
      hw ▸ (actor_of_fabric (State.performAgs_fabric s c ((s.cl c).resident r).ags) :)
    have hwm : ((w.cl c).mat i).core = ((s.cl c).mat i).core := by
      rw [← hw, State.cl_setCl_same, Cluster.vacate_core, mat_of_fabric (State.performAgs_fabric ..)]
    have hf : ∀ t : State, t.fabric = w.fabric →
        t.actor = s.actor ∧ ((t.cl c).mat i).core = ((s.cl c).mat i).core := fun t ht =>
      ⟨(actor_of_fabric ht).trans hwa, (congrArg Isle.core (mat_of_fabric ht c i)).trans hwm⟩
    split
    · cases ((s.cl c).resident r).gang with
      | none => exact hf _ (State.post_fabric ..)
      | some g => exact hf _ ((State.post_fabric ..).trans (State.setMember_fabric ..))
    · cases ((s.cl c).resident r).gang with
      | none => exact hf _ rfl
      | some g => exact hf _ (State.setMember_fabric ..)

theorem State.endResid_mem_of_gang {s : State} {c r : Nat} (quiet : Bool)
    (hg : ((s.cl c).resident r).gang = none) : (s.endResid c r quiet).mem = s.mem := by
  unfold State.endResid
  simp only [hg]
  split
  · rfl
  · split <;> simp

theorem State.checkEnd_core (s : State) (c r i : Nat) :
    (s.checkEnd c r).actor = s.actor ∧ (((s.checkEnd c r).cl c).mat i).core = ((s.cl c).mat i).core := by
  unfold State.checkEnd
  dsimp only
  split
  · exact s.endResid_core c r false i
  · exact ⟨rfl, rfl⟩

theorem State.checkEnd_mem_of_gang {s : State} {c r : Nat} (hg : ((s.cl c).resident r).gang = none) :
    (s.checkEnd c r).mem = s.mem := by
  unfold State.checkEnd
  dsimp only
  split
  · exact State.endResid_mem_of_gang false hg
  · rfl

/-- A census that falls by nothing changes no more than the residency's own entry. -/
theorem State.censusFall_zero (s : State) (c : Nat) (o : Option Nat) :
    (s.censusFall c o 0).actor = s.actor ∧ (s.censusFall c o 0).mem = s.mem ∧
      (∃ rs, (s.censusFall c o 0).cl c = { s.cl c with resids := rs }) ∧
      ∀ r, (((s.censusFall c o 0).cl c).resident r).gang = ((s.cl c).resident r).gang := by
  cases o with
  | none => exact ⟨rfl, rfl, ⟨_, rfl⟩, fun _ => rfl⟩
  | some q =>
    simp only [State.censusFall, bne_self_eq_false, Bool.false_and, Bool.false_eq_true, if_false]
    refine ⟨rfl, rfl, ⟨_, State.cl_setCl_same ..⟩, fun r => ?_⟩
    rw [State.cl_setCl_same]
    by_cases hr : r = q
    · subst hr
      simp [Cluster.resident, Cluster.setResident]
    · simp [Cluster.resident, Cluster.setResident, Tab.get_put_other _ _ _ hr]

/-! ### The stop of an island (R260) -/

/-- A stop keeps the tile and the word, and memory unless it ends a gang's member. -/
theorem State.isleStop_leaves {s : State} {e : IsleEnv} (err : Nat) (h0 : (s.isle e).f0.fall = 0)
    (h1 : (s.isle e).f1.fall = 0) :
    (s.isleStop e err).actor = s.actor ∧
      ((s.isleStop e err).isle e).core = (err, (s.isle e).acc, (s.isle e).ipc) ∧
      ((∀ r, (s.cl e.c).isleOwner e.i = some r → ((s.cl e.c).resident r).gang = none) →
        (s.isleStop e err).mem = s.mem) := by
  unfold State.isleStop
  simp only [h0, h1, Nat.add_zero]
  generalize hu : State.setIsle s e _ = u
  generalize hv : State.post u _ _ _ _ = v
  have hvf : v.fabric = u.fabric := hv ▸ State.post_fabric ..
  have hvm : v.mem = s.mem := by rw [← hv, State.post_mem, ← hu]; rfl
  have hui : (u.isle e).core = (err, (s.isle e).acc, (s.isle e).ipc) := by rw [← hu, State.isle_setIsle]; rfl
  have huo : (u.cl e.c).isleOwner e.i = (s.cl e.c).isleOwner e.i := by rw [← hu, State.cl_setIsle]; rfl
  have hur : ∀ r, (u.cl e.c).resident r = (s.cl e.c).resident r := fun r => by rw [← hu, State.cl_setIsle]; rfl
  obtain ⟨hwa, hwm, ⟨rs, hwc⟩, hwg⟩ := v.censusFall_zero e.c ((v.cl e.c).isleOwner e.i)
  generalize hw : v.censusFall e.c ((v.cl e.c).isleOwner e.i) 0 = w at hwa hwm hwc hwg ⊢
  have ha : w.actor = s.actor := hwa.trans ((actor_of_fabric hvf).trans (hu ▸ rfl))
  have hi : (w.isle e).core = (err, (s.isle e).acc, (s.isle e).ipc) := by
    have hi : w.isle e = v.isle e := (congrArg (Cluster.mat · e.i) hwc :)
    rw [hi, isle_of_fabric hvf, hui]
  rw [isleOwner_of_fabric hvf, huo]
  cases ho : (s.cl e.c).isleOwner e.i with
  | none => exact ⟨ha, hi, fun _ => hwm.trans hvm⟩
  | some r =>
    obtain ⟨hca, hci⟩ := w.checkEnd_core e.c r e.i
    refine ⟨hca.trans ha, hci.trans hi, fun hg => ?_⟩
    have hg' : ((w.cl e.c).resident r).gang = none := by
      rw [hwg, resident_of_fabric hvf, hur]
      exact hg r rfl
    exact (State.checkEnd_mem_of_gang hg').trans (hwm.trans hvm)

/-- The island with other flags. -/
def Isle.withFlags (m : Isle) (fl : Nat) : Isle := { m with flags := fl }

/-- Machine checks of a word change the island's flags, and no memory. -/
theorem State.isleChecks_leaves (e : IsleEnv) (lines : List Nat) (s : State) :
    (s.isleChecks e lines).actor = s.actor ∧ (s.isleChecks e lines).mem = s.mem ∧
      ∃ fl, (s.isleChecks e lines).isle e = (s.isle e).withFlags fl := by
  induction lines generalizing s with
  | nil => exact ⟨rfl, rfl, _, rfl⟩
  | cons j lines ih =>
    obtain ⟨ha, hm, fl, hi⟩ := ih ((s.setIsle e { s.isle e with flags := (s.isle e).flags ||| mInv }).machineCheck
      e.c e.ctx 5 e.i 0 0 j)
    have hf := State.machineCheck_fabric (s.setIsle e { s.isle e with flags := (s.isle e).flags ||| mInv })
      e.c e.ctx 5 e.i 0 0 j
    refine ⟨ha.trans (actor_of_fabric hf :), hm.trans (State.machineCheck_mem ..), fl, hi.trans ?_⟩
    rw [isle_of_fabric hf, State.isle_setIsle]
    rfl

end Sys2Proof.Machine

namespace Sys2Proof
open Machine

/-! ### Turns of a ready island -/

theorem isleHere_of_actor {s t : State} (ha : t.actor = s.actor) : isleHere t = t.isle s.isleEnv := by
  unfold isleHere isleNo State.here
  rw [ha]
  rfl

theorem isleHere_setIsle {s t : State} (ha : t.actor = s.actor) (m : Isle) :
    isleHere (t.setIsle s.isleEnv m) = m :=
  (isleHere_of_actor (t := t.setIsle s.isleEnv m) ha).trans (State.isle_setIsle ..)

section
variable {s : State} {size ro : Nat} {ins : Isle → List IsleIn} {rings : Isle → List Nat}
  {f : IsleEnv → State → IsleRes} (h : isleReady s)
  (hin : ∀ x ∈ ins (isleHere s), (s.cl s.here).inEnded (isleNo s) x = false)
include h hin

/-- A ready island with inputs left acts on its word. -/
theorem isleTurn_ready : s.isleTurn size ins rings ro f =
    (match f s.isleEnv s with
      | .wait t => t
      | .stop err t => t.isleStop s.isleEnv err
      | .done t n out ret =>
        if n != 0 && !(s.drawPower s.here (288 + isleNo s) 4 4).1 then (s.drawPower s.here (288 + isleNo s) 4 4).2
        else if (isleHere s).cyc + 1 < n then
          (s.drawPower s.here (288 + isleNo s) 4 4).2.setIsle s.isleEnv { isleHere s with cyc := (isleHere s).cyc + 1 }
        else
          let t := if n = 0 then t else (t.drawPower s.here (288 + isleNo s) 4 4).2
          if out.isEmpty then t.isleDone s.isleEnv size ret
          else t.setIsle s.isleEnv { t.isle s.isleEnv with
            done := true, pushing := pieces (out.length / 512 + 1) out, pushRing := ro }) := by
  obtain ⟨hfg, hfz, herr, hend, hdone, -, -, -⟩ := h
  have hany : (ins (isleHere s)).any (fun x => (s.cl s.here).inEnded (isleNo s) x) = false := by
    simpa using hin
  have h1 : (isleHere s).fg.isNone = false := by simpa using hfg
  change (if (isleHere s).fg.isNone || (s.cl s.here).isFrozen (288 + isleNo s) || (isleHere s).err != 0 ||
    (isleHere s).ended then _ else if (isleHere s).done then _ else if !(isleHere s).begun &&
    (ins (isleHere s)).any (fun x => (s.cl s.here).inEnded (isleNo s) x) then _ else _) = _
  rw [h1, hfz, herr, hend, hdone, hany, Bool.and_false]
  rfl
end

end Sys2Proof
end

section
/-! SUPPORT. MOUT and MSMF (R270, R277): the bytes that they send, and the pieces that leave one by one (R83, R265). -/

namespace Sys2Proof.Machine

/-! ### Bits of a field -/

/-- Bit `j` of a number one bit of which is replaced. -/
theorem testBit_putFld_one (x i j : Nat) (b : Bool) :
    (putFld x i i (b2n b)).testBit j = if j = i then b else x.testBit j := by
  have hp : (0 : Nat) < 2 ^ i := by positivity
  have hv : b2n b < 2 := by cases b <;> decide
  -- the bits below `i`, bit `i`, and the bits above it
  obtain ⟨q, r, c, hr, hc, hx⟩ : ∃ q r c, r < 2 ^ i ∧ c < 2 ∧ x = 2 ^ i * (2 * q + c) + r :=
    ⟨x / 2 ^ i / 2, x % 2 ^ i, x / 2 ^ i % 2, Nat.mod_lt _ hp, Nat.mod_lt _ two_pos, by
      rw [Nat.div_add_mod, Nat.div_add_mod]⟩
  have hd : x / 2 ^ i = 2 * q + c := by
    rw [hx, Nat.mul_add_div hp, Nat.div_eq_of_lt hr, Nat.add_zero]
  have hf : putFld x i i (b2n b) = 2 ^ i * (2 * q + b2n b) + r := by
    have hw : i + 1 - i = 1 := by omega
    have hm : (2 * q + c) % 2 = c := by omega
    simp only [putFld, fld, hw, pow_one, Nat.shiftRight_eq_div_pow, Nat.shiftLeft_eq, hd, hm, Nat.mod_eq_of_lt hv]
    rw [hx, Nat.mul_add, Nat.mul_add, Nat.mul_comm c, Nat.mul_comm (b2n b)]
    omega
  rw [hf, hx, Nat.testBit_two_pow_mul_add _ hr, Nat.testBit_two_pow_mul_add _ hr]
  obtain hj | rfl | hj := Nat.lt_trichotomy j i
  · rw [if_pos hj, if_pos hj, if_neg hj.ne]
  · rw [if_neg (lt_irrefl _), if_pos rfl, Nat.sub_self, Nat.testBit_zero]
    cases b <;> simp [b2n]
  · rw [if_neg (by omega), if_neg (by omega), if_neg (by omega)]
    obtain ⟨k, hk⟩ := Nat.exists_eq_add_of_lt hj
    have he : j - i = k + 1 := by omega
    rw [he, Nat.testBit_succ, Nat.testBit_succ, Nat.mul_add_div two_pos, Nat.mul_add_div two_pos,
      Nat.div_eq_of_lt hv, Nat.div_eq_of_lt hc]

/-- Bit `j` of a number whose low bits are set one by one. -/
theorem testBit_foldl_putFld (p : Nat → Bool) (x n : Nat) {j : Nat} (hj : j < n) :
    ((List.range n).foldl (fun x r => putFld x r r (b2n (p r))) x).testBit j = p j := by
  induction n with
  | zero => omega
  | succ n ih =>
    rw [List.range_succ, List.foldl_append, List.foldl_cons, List.foldl_nil, testBit_putFld_one]
    split
    · next h => rw [h]
    · exact ih (by omega)

/-! ### Bytes of an output element -/

theorem outBytes_pos (out : Nat) : 0 < outBytes out := by
  unfold outBytes
  split <;> decide

theorem toBytes_ne_nil {n : Nat} (h : 0 < n) (v : Nat) : toBytes n v ≠ [] := by
  cases n with
  | zero => omega
  | succ n => nofun

theorem outInt_ne_nil (out : Nat) (x : Int) : (outInt out x).val ≠ [] := toBytes_ne_nil (outBytes_pos out) _

theorem outConv_ne_nil (out : Nat) (zp : Int) (sat : Bool) (v : Fp) : (outConv out zp sat v).val ≠ [] := by
  have hb := fun v => toBytes_ne_nil (outBytes_pos out) v
  unfold outConv
  dsimp only
  split
  · split
    · exact hb _
    · split
      · exact hb _
      · exact outInt_ne_nil _ _
  · repeat' split
    all_goals exact hb _

theorem Isle.outCell_ne_nil (m : Isle) (out : Nat) (bias : Option (Fp × Int)) (act rq : Bool) (x : Nat) :
    (m.outCell out bias act rq x).val ≠ [] := by
  have hb : ∀ {α : Type} (x : MRes α) (f : α → MRes (List Byte)), (∀ v, (f v).val ≠ []) → (x.bind f).val ≠ [] :=
    fun x f h => h x.val
  have hc : ∀ v, (m.chain out act rq v).val ≠ [] := fun v => hb _ _ fun _ => outConv_ne_nil _ _ _ _
  unfold Isle.outCell
  split
  · dsimp only
    split
    · exact outInt_ne_nil _ _
    · exact hb _ _ hc
  · exact hb _ _ hc

/-! ### Rings as a word reads them -/

section
variable {s : State} {e : IsleEnv} {r need : Nat}

theorem State.ringErr_eq_none (hen : ((s.cl e.c).ring r).en = true) (hc : bit ((s.cl e.c).ring r).cmask e.i = true)
    (hn : need ≤ ((s.cl e.c).ring r).slotBytes) : s.ringErr e r need = none := by
  simp [State.ringErr, hen, hc, Nat.not_lt.2 hn]

theorem State.outErr_eq_none (hen : ((s.cl e.c).ring r).en = true)
    (hc : bit ((s.cl e.c).ring r).cmask e.i = false) : s.outErr e r = none := by
  simp [State.outErr, hen, hc]

theorem Cluster.inEnded_ring_eq_false {k : Cluster} {i : Nat} (h : (k.ring r).canFire i = true) :
    k.inEnded i (.ring r) = false := by
  simp [Cluster.inEnded, h]

end

/-! ### MOUT -/

/-- The bias of column `n` from the bytes of a slot of BIASRING (R270). -/
def biasAt (slot : Marked) (bias : Bool) (n : Nat) : Option (Fp × Int) :=
  if bias then some (if ((slot.drop (4 * n)).take 4).any Prod.snd then poisonNan
      else fp32.decode (ofBytes (((slot.drop (4 * n)).take 4).map Prod.fst)) false,
    signed (ofBytes (((slot.drop (4 * n)).take 4).map Prod.fst)) 32) else none

/-- The tile's rows as MOUT converts them. -/
def Isle.outCells (m : Isle) (out : Nat) (b : Nat → Option (Fp × Int)) (act rq : Bool) : List Byte :=
  (List.range m.rows).flatMap (fun r => (List.range 32).flatMap (fun n => (m.outCell out (b n) act rq (m.cell r n)).val))

theorem fp32Slot_getD {n k : Nat} (bs : Marked) (h : k < n) : (fp32Slot n bs).getD k default =
    if ((bs.drop (4 * k)).take 4).any Prod.snd then poisonNan
    else fp32.decode (ofBytes (((bs.drop (4 * k)).take 4).map Prod.fst)) false := by
  induction n generalizing bs k with
  | zero => omega
  | succ n ih =>
    cases k with
    | zero => rfl
    | succ k =>
      have hd : (bs.drop 4).drop (4 * k) = bs.drop (4 * (k + 1)) := by rw [List.drop_drop]; congr 1; omega
      rw [← hd]
      exact ih _ (by omega)

theorem markedOf_eq_nil (size n : Nat) (bs : Marked) :
    markedOf size n bs = [] ↔ ¬ ∃ i, i < n ∧ ((bs.drop (size * i)).take size).any Prod.snd = true := by
  simp [markedOf, List.filter_eq_nil_iff]

theorem flatMap_ne_nil {α β : Type} {f : α → List β} {l : List α} (hl : l ≠ []) (hf : ∀ a, f a ≠ []) :
    l.flatMap f ≠ [] := by
  obtain ⟨a, l, rfl⟩ := List.exists_cons_of_ne_nil hl
  simp [hf a]

theorem range_ne_nil {n : Nat} (h : 0 < n) : List.range n ≠ [] := by
  simpa using h.ne'

theorem Isle.outCells_ne_nil {m : Isle} (h : 0 < m.rows) (out : Nat) (b : Nat → Option (Fp × Int)) (act rq : Bool) :
    m.outCells out b act rq ≠ [] :=
  flatMap_ne_nil (range_ne_nil h) fun _ => flatMap_ne_nil (range_ne_nil (by decide)) fun _ =>
    m.outCell_ne_nil _ _ _ _ _

theorem Isle.recordBytes_ne_nil {m : Isle} (h : 0 < m.rows) : m.recordBytes ≠ [] :=
  flatMap_ne_nil (range_ne_nil h) fun _ => by simp [toBytes]

/-- The word's inputs are there: none, or a slot of BIASRING, which it shares with no other ring that it names. -/
def State.moutFed (s : State) (e : IsleEnv) (ro : Nat) (bias : Bool) : Prop :=
  bias = false ∨ ((s.isle e).reg rBiasring ≠ ro ∧ (s.isle e).reg rBiasring ∉ (s.isle e).mmaRings ∧
    s.ringErr e ((s.isle e).reg rBiasring) 128 = none ∧ s.ringReady e ((s.isle e).reg rBiasring) = true)

section
variable {s : State} {e : IsleEnv} {out ro : Nat} {bias act rq : Bool} (ho : s.outErr e ro = none)
  (hb : s.moutFed e ro bias)
include ho hb

/-- MOUT with no error of its rings and no wait for its bias. -/
theorem State.moutWord_fed : s.moutWord e out ro bias act rq =
    if out = 7 then .done s (s.isle e).rows (s.isle e).recordBytes []
    else
      let bs := if bias then (s.cl e.c).slotBytes e.i ((s.isle e).reg rBiasring) 128 else []
      let hit := if bias then markedOf 4 32 bs else []
      if (s.isle e).atype = 2 && !hit.isEmpty then .stop 8 s
      else
        let t := s.isleChecks e (hit.take 1)
        let m := t.isle e
        let bv := fun (n : Nat) => if bias then
            some ((fp32Slot 32 bs).getD n default, signed (ofBytes (((bs.drop (4 * n)).take 4).map Prod.fst)) 32) else none
        let r := collect ((rowCells m.rows).map (fun x => m.outCell out (bv x.2) act rq (m.cell x.1 x.2)))
        .done (t.setIsle e { m with flags := m.flags ||| r.flags }) m.rows r.val.flatten
          (if bias then [(s.isle e).reg rBiasring] else []) := by
  unfold State.moutWord
  obtain rfl | ⟨hne, hnm, herr, hready⟩ := hb
  · simp only [ho, Bool.not_false, if_true, firstErr, List.filterMap_cons, id, List.filterMap_nil, List.foldl_nil,
      Bool.false_and, Bool.false_eq_true, if_false]
  · have hr : ((s.isle e).reg rBiasring == ro || (s.isle e).mmaRings.contains ((s.isle e).reg rBiasring)) = false := by
      simp [hne, hnm]
    simp only [ho, hr, herr, hready, Bool.not_true, Bool.and_false, firstErr, List.filterMap_cons, id,
      List.filterMap_nil, List.foldl_nil, Bool.false_eq_true, if_false, ite_self]

theorem State.moutWord_record (hout : out = 7) :
    s.moutWord e out ro bias act rq = .done s (s.isle e).rows (s.isle e).recordBytes [] :=
  (State.moutWord_fed ho hb).trans (if_pos hout)

/-- An integer tile takes no poisoned bias (R270). -/
theorem State.moutWord_badBias (hout : out ≠ 7) (hbias : bias = true) (hty : (s.isle e).atype = 2)
    (hbad : ∃ n, n < 32 ∧ ((((s.cl e.c).slotBytes e.i ((s.isle e).reg rBiasring) 128).drop (4 * n)).take 4).any Prod.snd
      = true) : s.moutWord e out ro bias act rq = .stop 8 s := by
  have hm : (markedOf 4 32 ((s.cl e.c).slotBytes e.i ((s.isle e).reg rBiasring) 128)).isEmpty = false := by
    rw [Bool.eq_false_iff]
    exact fun h => (markedOf_eq_nil ..).1 (List.isEmpty_iff.1 h) hbad
  rw [State.moutWord_fed ho hb, if_neg hout]
  simp only [hbias, if_true, hty, hm]
  rfl

/-- MOUT sends its rows converted, and raises flags (R270). -/
theorem State.moutWord_cells (hout : out ≠ 7)
    (hbad : ¬(bias = true ∧ (s.isle e).atype = 2 ∧ ∃ n, n < 32 ∧
      ((((s.cl e.c).slotBytes e.i ((s.isle e).reg rBiasring) 128).drop (4 * n)).take 4).any Prod.snd = true)) :
    ∃ t fl ret, s.moutWord e out ro bias act rq = .done t (s.isle e).rows ((s.isle e).outCells out
        (biasAt ((s.cl e.c).slotBytes e.i ((s.isle e).reg rBiasring) 128) bias) act rq) ret ∧
      t.actor = s.actor ∧ t.mem = s.mem ∧ t.isle e = (s.isle e).withFlags fl := by
  rw [State.moutWord_fed ho hb, if_neg hout]
  dsimp only
  generalize hbs : (if bias then (s.cl e.c).slotBytes e.i ((s.isle e).reg rBiasring) 128 else []) = bs
  generalize hhit : (if bias then markedOf 4 32 bs else []) = hit
  have hgo : ((s.isle e).atype = 2 && !hit.isEmpty) = false := by
    rw [Bool.eq_false_iff]
    intro h
    simp only [Bool.and_eq_true, decide_eq_true_eq, Bool.not_eq_true'] at h
    cases bias with
    | false => simp [← hhit] at h
    | true =>
      refine hbad ⟨rfl, h.1, ?_⟩
      by_contra hn
      rw [← (markedOf_eq_nil 4 32 _)] at hn
      simp only [if_true] at hbs hhit
      rw [hbs, hhit] at hn
      simp [hn] at h
  simp only [hgo, Bool.false_eq_true, if_false]
  obtain ⟨ha, hm, fl, hi⟩ := s.isleChecks_leaves e (hit.take 1)
  generalize s.isleChecks e (hit.take 1) = t at ha hm hi ⊢
  rw [hi]
  generalize hr : collect _ = r
  refine ⟨t.setIsle e ((s.isle e).withFlags (fl ||| r.flags)), fl ||| r.flags, _,
    congrArg (IsleRes.done _ _ · _) ?_, ha, hm, State.isle_setIsle ..⟩
  rw [← hr, collect_val, List.map_map, ← List.flatMap_def, rowCells]
  simp only [List.flatMap_assoc, List.flatMap_map, Function.comp_apply]
  refine List.flatMap_congr fun r _ => List.flatMap_congr fun n hn => ?_
  have hb32 : (if bias then some ((fp32Slot 32 bs).getD n default,
      signed (ofBytes (((bs.drop (4 * n)).take 4).map Prod.fst)) 32) else none) =
      biasAt ((s.cl e.c).slotBytes e.i ((s.isle e).reg rBiasring) 128) bias n := by
    cases bias with
    | false => rfl
    | true =>
      rw [fp32Slot_getD _ (List.mem_range.1 hn), ← hbs]
      rfl
  exact congrArg (fun b => ((s.isle e).outCell out b act rq ((s.isle e).cell r n)).val) hb32

end

/-! ### MSMF -/

/-- The rows of O divided by their denominators (R277). -/
def Isle.finalRows (m : Isle) (out : Nat) : List Byte :=
  (List.range m.rows).flatMap (fun r =>
    if m.denOf r = 0 then List.replicate (32 * outBytes out) 0
    else (List.range 32).flatMap (fun n =>
      (outConv out 0 (bit (m.reg rRqsat) 0) (quotient (m.oVal r n) (accfVal (m.denOf r)))).val))

theorem Isle.finalRows_ne_nil {m : Isle} (h : 0 < m.rows) (out : Nat) : m.finalRows out ≠ [] := by
  refine flatMap_ne_nil (range_ne_nil h) fun r => ?_
  split
  · have := outBytes_pos out
    simp; omega
  · exact flatMap_ne_nil (range_ne_nil (by decide)) fun n => outConv_ne_nil _ _ _ _

/-- MSMF sends its rows, and marks the empty ones (R277). -/
theorem State.msmfWord_rows {s : State} {e : IsleEnv} {ro : Nat} (out : Nat) (ho : s.outErr e ro = none) :
    ∃ fl, s.msmfWord e out ro = .done (s.setIsle e { s.isle e with
        empty := (List.range (s.isle e).rows).foldl (fun x r => putFld x r r (b2n ((s.isle e).denOf r == 0)))
          (s.isle e).empty
        flags := fl }) (s.isle e).rows ((s.isle e).finalRows out) [] := by
  unfold State.msmfWord
  simp only [ho]
  refine ⟨_, congrArg (IsleRes.done _ _ · _) ?_⟩
  rw [collect_val, List.map_map, ← List.flatMap_def]
  refine List.flatMap_congr fun r _ => ?_
  simp only [Function.comp_apply]
  split
  · rfl
  · rw [collect_val, List.map_map, ← List.flatMap_def]
    rfl

end Sys2Proof.Machine

namespace Sys2Proof
open Machine

/-! ### Outcomes of a ready island's turn -/

/-- The power of a cycle is there: the bucket alone changes. -/
theorem isleReady_drawPower {s : State} (h : isleReady s) : ∃ k, s.drawPower s.here (288 + isleNo s) 4 4 =
      (true, s.setCl s.here k) ∧ k.sram = (s.cl s.here).sram ∧
    k.power.get (s.spineOf s.here (288 + isleNo s)) 0 + 4 =
      (s.cl s.here).power.get (s.spineOf s.here (288 + isleNo s)) 0 := by
  obtain ⟨-, -, -, -, -, -, -, hp⟩ := h
  exact ⟨_, State.drawPower_of_le 4 hp, rfl, by rw [Tab.get_put_same]; omega⟩

section
variable {i : Instr} {s : State} {size ro : Nat} {ins : Isle → List IsleIn} {rings : Isle → List Nat}
  {f : IsleEnv → State → IsleRes} (he : exec i s = .next (s.isleTurn size ins rings ro f)) (h : isleReady s)
  (hin : ∀ x ∈ ins (isleHere s), (s.cl s.here).inEnded (isleNo s) x = false)
include he h hin

theorem isleStops_of {err : Nat} (hf : f s.isleEnv s = .stop err s) : isleStops i s err := by
  refine ⟨_, he, ?_⟩
  rw [isleTurn_ready h hin, hf]
  obtain ⟨-, -, -, -, -, h0, h1, -⟩ := h
  obtain ⟨ha, hc, hm⟩ := State.isleStop_leaves (s := s) (e := s.isleEnv) err h0 h1
  rw [isleHere_of_actor ha]
  exact ⟨congrArg (·.1) hc, congrArg (·.2.1) hc, congrArg (·.2.2) hc, hm⟩

theorem isleWorks_of {t : State} {n : Nat} {out : List Byte} {ret : List Nat}
    (hf : f s.isleEnv s = .done t n out ret) (hl : ¬isleLast s n) : isleWorks i s := by
  have hlt : (isleHere s).cyc + 1 < n := Nat.not_le.1 hl
  refine ⟨_, he, ?_⟩
  rw [isleTurn_ready h hin, hf]
  obtain ⟨k, hd, hs, hp⟩ := isleReady_drawPower h
  simp only [hd, Bool.not_true, Bool.and_false, Bool.false_eq_true, if_false, if_pos hlt]
  have hc : ∀ m, ((s.setCl s.here k).setIsle s.isleEnv m).cl s.here = k.setMat (isleNo s) m := fun m =>
    (State.cl_setIsle _ s.isleEnv m).trans (congrArg (Cluster.setMat · (isleNo s) m) (State.cl_setCl_same ..))
  refine ⟨rfl, rfl, isleHere_setIsle rfl _, (congrArg Cluster.sram (hc _)).trans hs, ?_⟩
  exact (congrArg (fun k => k.power.get (s.spineOf s.here (288 + isleNo s)) 0 + 4) (hc _)).trans hp

theorem isleSends_of {t : State} {n : Nat} {out : List Byte} {ret : List Nat}
    (hf : f s.isleEnv s = .done t n out ret) (hn : 0 < n) (hl : isleLast s n) (hout : out ≠ [])
    (ha : t.actor = s.actor) (hm : t.mem = s.mem) {w : Isle} (hw : t.isle s.isleEnv = w) (herr : w.err = (isleHere s).err)
    (hipc : w.ipc = (isleHere s).ipc) {p : State → Prop}
    (hp : ∀ u, (isleHere u).acc = w.acc → (isleHere u).empty = w.empty → p u) : isleSends i s ro out p := by
  have hlt : ¬ (isleHere s).cyc + 1 < n := Nat.not_lt.2 hl
  refine ⟨_, he, ?_⟩
  rw [isleTurn_ready h hin, hf]
  obtain ⟨k, hd, -⟩ := isleReady_drawPower h
  obtain ⟨hda, p', hdc⟩ := t.drawPower_leaves s.here (288 + isleNo s) 4 4
  have hdm := t.drawPower_mem s.here (288 + isleNo s) 4 4
  have hempty : out.isEmpty = false := by simpa using hout
  simp only [hd, Bool.not_true, Bool.and_false, Bool.false_eq_true, if_false, if_neg hlt, if_neg hn.ne', hempty]
  generalize (t.drawPower s.here (288 + isleNo s) 4 4).2 = d at hda hdc hdm ⊢
  have hdi : d.isle s.isleEnv = w := by
    rw [← hw]
    exact (congrArg (Cluster.mat · (isleNo s)) hdc :)
  have hu := isleHere_setIsle (s := s) (t := d) (hda.trans ha)
  obtain ⟨-, -, herr0, -⟩ := h
  simp only [hu, hdi]
  refine ⟨congrArg Actor.cl (hda.trans ha), hdm.trans hm, herr.trans herr0, trivial, hipc, trivial,
    pieces_flatten ?_, fun _ => pieces_small, hp _ ?_ ?_⟩
  · omega
  · rw [hu]
  · rw [hu]

end

end Sys2Proof
end

section
/-! SUPPORT. Writes of single bytes to the banks, pushes into a ring (R83), and the turn that hands over a piece of an
island's output (R265). -/

namespace Sys2Proof.Machine

/-! ### Writes of single bytes -/

theorem Mem.byte_setBytes_singleton {m : Mem} (h : m.wf = true) (a : Nat) (b : Byte) (o : Nat) :
    (m.setBytes a [b]).byte o = if a = o then b else m.byte o := by
  split
  · next ho => exact ho ▸ Mem.byte_setBytes_same [b] m a 0 h Nat.one_pos
  · next ho => exact Mem.byte_setBytes_other [b] m a (by simp; omega)

/-- Of the bytes written to an offset, the last stays. -/
theorem foldl_write_byte {α : Type} (pos : α → Nat) (val : α → Byte) (mark : α → Bool) (l : List α) {k : Cluster}
    (h : k.sram.wf = true) (o : Nat) :
    (l.foldl (fun (k : Cluster) a => k.write (pos a) [val a] (mark a)) k).sram.byte o =
      (((l.filter (fun a => pos a == o)).getLast?).map val).getD (k.sram.byte o) := by
  induction l generalizing k with
  | nil => rfl
  | cons a l ih =>
    rw [List.foldl_cons, ih (k.write_sram_wf _ _ _ h), List.filter_cons]
    have hb : (k.write (pos a) [val a] (mark a)).sram.byte o = if pos a = o then val a else k.sram.byte o :=
      Mem.byte_setBytes_singleton h ..
    rw [hb]
    by_cases ho : pos a = o
    · simp only [ho, if_true, beq_self_eq_true, List.getLast?_cons, Option.map_some, Option.getD_some]
      cases (l.filter fun a => pos a == o).getLast? <;> rfl
    · simp [ho]

theorem getLast?_filter_unique {α : Type} {p : α → Bool} {l : List α} {a : α} (ha : a ∈ l) (hp : p a = true)
    (hu : ∀ b ∈ l, p b = true → b = a) : (l.filter p).getLast? = some a := by
  have hm : a ∈ l.filter p := List.mem_filter.2 ⟨ha, hp⟩
  rw [List.getLast?_eq_getLast_of_ne_nil (List.ne_nil_of_mem hm)]
  have hg := List.mem_filter.1 (List.getLast_mem (List.ne_nil_of_mem hm))
  exact congrArg some (hu _ hg.1 hg.2)

/-! ### Pushes into a ring -/

/-- A write at offsets that differ leaves each byte at its own. -/
theorem Cluster.putAt_byte {k : Cluster} (h : k.sram.wf = true) {pos : Nat → Nat} {bs : List (Byte × Bool)}
    (hinj : ∀ i j, i < bs.length → j < bs.length → pos i = pos j → i = j) {j : Nat} (hj : j < bs.length) :
    (k.putAt pos bs).sram.byte (pos j) = (bs.getD j default).1 := by
  have hf : (k.putAt pos bs).sram = ((List.range bs.length).foldl (fun (k : Cluster) i =>
      k.write (pos i) [(bs.getD i default).1] (bs.getD i default).2) k).sram := by
    unfold Cluster.putAt
    dsimp only
    refine congrArg Cluster.sram (List.foldl_ext _ _ _ fun k i hi => ?_)
    rw [List.getElem?_eq_getElem (List.mem_range.1 hi), List.getD_eq_getElem _ _ (List.mem_range.1 hi)]
  have hu : ((List.range bs.length).filter (fun i => pos i == pos j)).getLast? = some j :=
    getLast?_filter_unique (List.mem_range.2 hj) (beq_self_eq_true _) fun i hi he =>
      hinj i j (List.mem_range.1 hi) hj (beq_iff_eq.1 he)
  rw [hf, foldl_write_byte pos (fun i => (bs.getD i default).1) (fun i => (bs.getD i default).2) _ h, hu]
  rfl

theorem Cluster.putAt_rings (k : Cluster) (pos : Nat → Nat) (bs : List (Byte × Bool)) :
    (k.putAt pos bs).rings = k.rings ∧ (k.putAt pos bs).mats = k.mats := by
  have hf := foldl_keeps (fun k : Cluster => (k.rings, k.mats)) (fun (k : Cluster) i =>
    match bs[i]? with
    | none => k
    | some (b, p) => k.write (pos i) [b] p) (fun k i => by cases bs[i]? <;> rfl) (List.range bs.length) k
  exact ⟨congrArg Prod.fst hf, congrArg Prod.snd hf⟩

/-- Positions of a ring that are less than its size apart differ. -/
theorem Ring.at_inj {x : Ring} {p n i j : Nat} (hn : n ≤ x.size) (hi : i < n) (hj : j < n)
    (h : x.at (p + i) = x.at (p + j)) : i = j := by
  have hm : p + i ≡ p + j [MOD x.size] := Nat.add_left_cancel h
  exact (Nat.ModEq.add_left_cancel' p hm).eq_of_lt_of_lt (by omega) (by omega)

section
variable {k : Cluster} {r : Nat} {bs : List (Byte × Bool)}

theorem Cluster.ring_ringPush_same : (k.ringPush r bs).ring r =
    { k.ring r with
      tail := ((k.ring r).tail + bs.length) % (k.ring r).size
      fill := (k.ring r).fill + bs.length } := Cluster.ring_setRing_same ..

theorem Cluster.ring_ringPush_other {q : Nat} (h : q ≠ r) : (k.ringPush r bs).ring q = k.ring q := by
  obtain ⟨hr, -⟩ := k.putAt_rings (fun i => (k.ring r).at ((k.ring r).tail + i)) bs
  exact (Cluster.ring_setRing_other _ _ h).trans (congrArg (fun t : Tab Ring => t.get q {}) hr :)

theorem Cluster.mat_ringPush (i : Nat) : (k.ringPush r bs).mat i = k.mat i := by
  obtain ⟨-, hm⟩ := k.putAt_rings (fun i => (k.ring r).at ((k.ring r).tail + i)) bs
  exact (congrArg (fun t : Tab Isle => t.get i {}) hm :)

/-- The bytes that a push with room leaves (R83). -/
theorem Cluster.ringPush_byte (h : k.sram.wf = true) (hroom : bs.length ≤ (k.ring r).size) {j : Nat}
    (hj : j < bs.length) :
    (k.ringPush r bs).sram.byte ((k.ring r).at ((k.ring r).tail + j)) = (bs.getD j default).1 :=
  Cluster.putAt_byte h (pos := fun i => (k.ring r).at ((k.ring r).tail + i))
    (fun _ _ hi hj he => Ring.at_inj hroom hi hj he) hj

end

/-! ### The end of a word -/

/-- A ring whose END a program sets. -/
def Ring.endedIf (x : Ring) (p : Prop) [Decidable p] : Ring := if p then { x with ended := true } else x

theorem Ring.endedIf_fields (x : Ring) (p : Prop) [Decidable p] : (x.endedIf p).fill = x.fill ∧
    (x.endedIf p).tail = x.tail ∧ (x.endedIf p).head = x.head ∧ (x.endedIf p).ahead = x.ahead := by
  unfold Ring.endedIf
  split <;> exact ⟨rfl, rfl, rfl, rfl⟩

/-- What the end of a program leaves of rings. -/
theorem foldl_ringEnd (c : Nat) (l : List Nat) (t : State) :
    let u := l.foldl (fun s r => s.setCl c ((s.cl c).setRing r { (s.cl c).ring r with ended := true })) t
    u.actor = t.actor ∧ (u.cl c).mats = (t.cl c).mats ∧ (u.cl c).sram = (t.cl c).sram ∧
      ∀ r, (u.cl c).ring r = ((t.cl c).ring r).endedIf (r ∈ l) := by
  induction l generalizing t with
  | nil => exact ⟨rfl, rfl, rfl, fun _ => rfl⟩
  | cons q l ih =>
    obtain ⟨ha, hm, hs, hr⟩ := ih (t.setCl c ((t.cl c).setRing q { (t.cl c).ring q with ended := true }))
    rw [State.cl_setCl_same] at hm hs hr
    refine ⟨ha, hm, hs, fun r => (hr r).trans ?_⟩
    unfold Ring.endedIf
    by_cases hq : r = q
    · subst hq
      simp
    · rw [Cluster.ring_setRing_other _ _ hq]
      simp [hq]

theorem State.isleEnd_leaves (s : State) (e : IsleEnv) :
    (s.isleEnd e).actor = s.actor ∧ (s.isleEnd e).isle e = { s.isle e with ended := true } ∧
      ((s.isleEnd e).cl e.c).sram = (s.cl e.c).sram ∧
      ∀ r, ((s.isleEnd e).cl e.c).ring r = ((s.cl e.c).ring r).endedIf (r ∈ (s.isle e).outRings) := by
  obtain ⟨ha, hm, hs, hr⟩ := foldl_ringEnd e.c (s.isle e).outRings (s.setIsle e { s.isle e with ended := true })
  rw [State.cl_setIsle] at hm hs hr
  exact ⟨ha, (congrArg (fun t : Tab Isle => t.get e.i {}) hm).trans (Cluster.mat_setMat_same ..), hs, hr⟩

/-- Where a word leads: to the word `next`, or to the end of the program (R264). -/
theorem State.isleGoto_leaves (s : State) (e : IsleEnv) (next : Nat) :
    (s.isleGoto e next).actor = s.actor ∧ ((s.isleGoto e next).cl e.c).sram = (s.cl e.c).sram ∧
      (next < (s.isle e).prog.length → (s.isleGoto e next).isle e = { s.isle e with ipc := next } ∧
        ∀ r, ((s.isleGoto e next).cl e.c).ring r = (s.cl e.c).ring r) ∧
      ((s.isle e).prog.length ≤ next →
        (s.isleGoto e next).isle e = { s.isle e with ipc := next % 64, ended := true } ∧
        ∀ r, ((s.isleGoto e next).cl e.c).ring r = ((s.cl e.c).ring r).endedIf (r ∈ (s.isle e).outRings)) := by
  unfold State.isleGoto
  dsimp only
  split
  · next h =>
    have hc := s.cl_setIsle e { s.isle e with ipc := next }
    exact ⟨rfl, (congrArg Cluster.sram hc :), fun _ => ⟨State.isle_setIsle .., fun r =>
      (congrArg (Cluster.ring · r) hc :)⟩, fun hn => absurd h (Nat.not_lt.2 hn)⟩
  · next h =>
    obtain ⟨ha, hi, hs, hr⟩ := (s.setIsle e { s.isle e with ipc := next % 64 }).isleEnd_leaves e
    rw [State.isle_setIsle] at hi hr
    rw [State.cl_setIsle] at hs hr
    exact ⟨ha, hs, fun hn => absurd hn h, fun _ => ⟨hi, hr⟩⟩

/-- The slots that a word has read are retired one after another. -/
theorem foldl_retire (e : IsleEnv) (rings : List Nat) (s : State) :
    let u := rings.foldl (fun s r => s.setCl e.c ((s.cl e.c).retire e.i r)) s
    u.actor = s.actor ∧ u.mem = s.mem ∧ u.cl e.c = rings.foldl (fun k r => k.retire e.i r) (s.cl e.c) := by
  induction rings generalizing s with
  | nil => exact ⟨rfl, rfl, rfl⟩
  | cons r rings ih =>
    obtain ⟨ha, hm, hc⟩ := ih (s.setCl e.c ((s.cl e.c).retire e.i r))
    rw [State.cl_setCl_same] at hc
    exact ⟨ha, hm, hc⟩

theorem Cluster.foldl_retire_leaves (i : Nat) (rings : List Nat) (k : Cluster) :
    (rings.foldl (fun k r => k.retire i r) k).sram = k.sram ∧
      ∀ j, (rings.foldl (fun k r => k.retire i r) k).mat j = k.mat j :=
  ⟨foldl_keeps Cluster.sram (fun k r => k.retire i r) (fun _ _ => rfl) _ _,
    fun j => foldl_keeps (fun k => Cluster.mat k j) (fun k r => k.retire i r) (fun _ _ => rfl) _ _⟩

/-- The island that has completed its word and goes to `next`. -/
def Isle.atNext (m : Isle) (next : Nat) : Isle :=
  { m with done := false, cyc := 0, pushing := [], f0 := { m.f0 with fall := 0 }, f1 := { m.f1 with fall := 0 }, ipc := next }

/-- The word that follows word `ipc` of `size` words (R264). -/
def Isle.nextWord (m : Isle) (size : Nat) : Nat :=
  if bit (m.reg rLoopctl) 12 = true ∧ m.ipc = fld (m.reg rLoopctl) 11 6 then fld (m.reg rLoopctl) 5 0 else m.ipc + size

/-- A completed word retires its slots, and leads to the next one or to the end of the program (R83, R264). -/
theorem State.isleDone_leaves {s : State} {e : IsleEnv} (size : Nat) (rings : List Nat) {m : Isle} (hm : s.isle e = m)
    (h0 : m.f0.fall = 0) (h1 : m.f1.fall = 0) :
    let u := s.isleDone e size rings
    let k := rings.foldl (fun k r => k.retire e.i r) (s.cl e.c)
    u.actor = s.actor ∧ u.mem = s.mem ∧ (u.cl e.c).sram = (s.cl e.c).sram ∧
      (m.nextWord size < m.prog.length → u.isle e = m.atNext (m.nextWord size) ∧ ∀ r, (u.cl e.c).ring r = k.ring r) ∧
      (m.prog.length ≤ m.nextWord size → u.isle e = { m.atNext (m.nextWord size % 64) with ended := true } ∧
        ∀ r, (u.cl e.c).ring r = (k.ring r).endedIf (r ∈ m.outRings)) := by
  obtain ⟨hta, htm, htc⟩ := foldl_retire e rings s
  obtain ⟨hks, hkm⟩ := (s.cl e.c).foldl_retire_leaves e.i rings
  unfold State.isleDone
  dsimp only
  generalize rings.foldl (fun s r => s.setCl e.c ((s.cl e.c).retire e.i r)) s = t at hta htm htc ⊢
  generalize rings.foldl (fun k r => k.retire e.i r) (s.cl e.c) = k at htc hks hkm ⊢
  have hti : t.isle e = m := by rw [← hm, State.isle, htc, hkm]; rfl
  have hnext : (if bit (m.reg rLoopctl) 12 && m.ipc == fld (m.reg rLoopctl) 11 6 then fld (m.reg rLoopctl) 5 0
      else m.ipc + size) = m.nextWord size := by
    simp [Isle.nextWord]
  simp only [hti, h0, h1, Nat.add_zero, hnext]
  generalize hv : t.setIsle e _ = v
  have hvi : v.isle e = m.atNext m.ipc := by rw [← hv, State.isle_setIsle]; rfl
  have hvc : v.cl e.c = k.setMat e.i (m.atNext m.ipc) := by rw [← hv, State.cl_setIsle, htc]; rfl
  have hva : v.actor = s.actor := hv ▸ hta
  have hvm : v.mem = s.mem := hv ▸ htm
  obtain ⟨hga, hgs, hgo, hge⟩ := v.isleGoto_leaves e (m.nextWord size)
  have hgm := v.isleGoto_mem e (m.nextWord size)
  generalize v.isleGoto e (m.nextWord size) = w at hga hgs hgo hge hgm ⊢
  obtain ⟨hwa, hwm, ⟨rs, hwc⟩, -⟩ := w.censusFall_zero e.c ((v.cl e.c).isleOwner e.i)
  generalize w.censusFall e.c ((v.cl e.c).isleOwner e.i) 0 = u at hwa hwm hwc ⊢
  have hui : u.isle e = w.isle e := (congrArg (Cluster.mat · e.i) hwc :)
  have hur : ∀ r, (u.cl e.c).ring r = (w.cl e.c).ring r := fun r => (congrArg (Cluster.ring · r) hwc :)
  have hus : (u.cl e.c).sram = (w.cl e.c).sram := (congrArg Cluster.sram hwc :)
  rw [hvi] at hgo hge
  rw [hvc] at hgs hgo hge
  refine ⟨hwa.trans (hga.trans hva), hwm.trans (hgm.trans hvm), hus.trans (hgs.trans hks), fun hn => ?_, fun hn => ?_⟩
  · obtain ⟨hi, hr⟩ := hgo hn
    exact ⟨hui.trans hi, fun r => (hur r).trans (hr r)⟩
  · obtain ⟨hi, hr⟩ := hge hn
    exact ⟨hui.trans hi, fun r => (hur r).trans (hr r)⟩

end Sys2Proof.Machine
end

section
/-! SUPPORT. The statement about island output: MOUT and MSMF begin their output, and hand it over piece by piece. -/

namespace Sys2Proof.Machine

section
variable {s : State} {e : IsleEnv} {size : Nat} {rings : List Nat} {x : List Byte} {rest : List (List Byte)}
  (hp : (s.isle e).pushing = x :: rest)
include hp

/-- A piece waits for room in its ring (R83). -/
theorem State.islePush_full (hfull : ((s.cl e.c).ring (s.isle e).pushRing).size <
    ((s.cl e.c).ring (s.isle e).pushRing).fill + x.length) : s.islePush e size rings = s := by
  unfold State.islePush
  simp only [hp, if_pos hfull]

/-- A piece is pushed; after the last one the word is complete (R265). -/
theorem State.islePush_piece (hroom : ((s.cl e.c).ring (s.isle e).pushRing).fill + x.length ≤
    ((s.cl e.c).ring (s.isle e).pushRing).size) :
    ∃ v, s.islePush e size rings = (if rest.isEmpty then v.isleDone e size rings else v) ∧ v.actor = s.actor ∧
      v.mem = s.mem ∧ v.isle e = { s.isle e with pushing := rest } ∧
      v.cl e.c = ((s.cl e.c).ringPush (s.isle e).pushRing (x.map (fun b => (b, false)))).setMat e.i
        { s.isle e with pushing := rest } := by
  unfold State.islePush
  simp only [hp, if_neg (Nat.not_lt.2 hroom)]
  have hi : (s.setCl e.c ((s.cl e.c).ringPush (s.isle e).pushRing (x.map (fun b => (b, false))))).isle e = s.isle e := by
    rw [State.isle, State.cl_setCl_same]
    exact Cluster.mat_ringPush _
  rw [hi]
  exact ⟨_, rfl, rfl, rfl, State.isle_setIsle .., by rw [State.cl_setIsle, State.cl_setCl_same]⟩

end

@[simp] theorem Cluster.ring_retire_same (k : Cluster) (i r : Nat) : (k.retire i r).ring r = (k.ring r).retire i :=
  Cluster.ring_setRing_same ..

theorem Cluster.ring_foldl_retire_other (i : Nat) {rings : List Nat} {r : Nat} (h : r ∉ rings) (k : Cluster) :
    (rings.foldl (fun k r => k.retire i r) k).ring r = k.ring r := by
  induction rings generalizing k with
  | nil => rfl
  | cons q rings ih =>
    obtain ⟨hq, hr⟩ := not_or.1 (mt List.mem_cons.2 h)
    exact (ih hr _).trans (Cluster.ring_setRing_other _ _ hq)

/-- What a push of plain bytes leaves of the cluster (R83). -/
theorem Cluster.ringPush_plain {k : Cluster} {r : Nat} {x : List Byte} (h : k.sram.wf = true)
    (hroom : (k.ring r).fill + x.length ≤ (k.ring r).size) :
    ((k.ringPush r (x.map (fun b => (b, false)))).ring r).fill = (k.ring r).fill + x.length ∧
    ((k.ringPush r (x.map (fun b => (b, false)))).ring r).tail = ((k.ring r).tail + x.length) % (k.ring r).size ∧
    ∀ j, j < x.length →
      (k.ringPush r (x.map (fun b => (b, false)))).sram.byte ((k.ring r).at ((k.ring r).tail + j)) = x.getD j 0 := by
  have hl : (x.map (fun b => (b, false))).length = x.length := List.length_map ..
  rw [Cluster.ring_ringPush_same, hl]
  refine ⟨rfl, rfl, fun j hj => ?_⟩
  rw [Cluster.ringPush_byte h (by omega) (by omega)]
  simp [hj]

end Sys2Proof.Machine

namespace Sys2Proof
open Machine

/-! ### Turns of an island that hands its output over -/

/-- The island's output is under way. -/
structure IslePushing (s : State) (x : List Byte) (rest : List (List Byte)) : Prop where
  fg : (isleHere s).fg.isSome = true
  frozen : (s.cl s.here).isFrozen (288 + isleNo s) = false
  err : (isleHere s).err = 0
  ended : (isleHere s).ended = false
  done : (isleHere s).done = true
  fall0 : (isleHere s).f0.fall = 0
  fall1 : (isleHere s).f1.fall = 0
  pushing : (isleHere s).pushing = x :: rest
  wf : (s.cl s.here).sram.wf = true

/-- What the push of the piece `x` leaves of the output ring and of the banks. -/
def piecePushed (s u : State) (x : List Byte) : Prop :=
  let p := (isleHere s).pushRing
  let r := (s.cl s.here).ring p
  ((u.cl s.here).ring p).fill = r.fill + x.length ∧ ((u.cl s.here).ring p).tail = (r.tail + x.length) % r.size ∧
    ∀ j, j < x.length → (u.cl s.here).sram.byte (r.at (r.tail + j)) = x.getD j 0

theorem isleGoes_mono {i : Instr} {s : State} {size : Nat} {p q : State → Prop} (h : isleGoes i s size p)
    (hpq : ∀ u, p u → q u) : isleGoes i s size q := by
  obtain ⟨u, hu, hh, hm, herr, hd, hc, hfg, hgo, hend, hp⟩ := h
  exact ⟨u, hu, hh, hm, herr, hd, hc, hfg, hgo, hend, hpq u hp⟩

section
variable {s : State} {x : List Byte} {rest : List (List Byte)} (h : IslePushing s x rest)
include h

theorem isleTurn_pushing (size ro : Nat) (ins : Isle → List IsleIn) (rings : Isle → List Nat)
    (f : IsleEnv → State → IsleRes) :
    s.isleTurn size ins rings ro f = s.islePush s.isleEnv size (rings (isleHere s)) := by
  have h1 : (isleHere s).fg.isNone = false := by simpa using h.fg
  change (if (isleHere s).fg.isNone || (s.cl s.here).isFrozen (288 + isleNo s) || (isleHere s).err != 0 ||
    (isleHere s).ended then _ else if (isleHere s).done then _ else _) = _
  rw [h1, h.frozen, h.err, h.ended, h.done]
  rfl

section
variable {i : Instr} {size ro : Nat} {ins : Isle → List IsleIn} {rings : Isle → List Nat}
  {f : IsleEnv → State → IsleRes} (he : exec i s = .next (s.isleTurn size ins rings ro f))
include he

theorem islePushing_full (hfull : ((s.cl s.here).ring (isleHere s).pushRing).size <
    ((s.cl s.here).ring (isleHere s).pushRing).fill + x.length) : exec i s = .next s := by
  rw [he, isleTurn_pushing h, State.islePush_full (e := s.isleEnv) h.pushing hfull]

theorem islePushing_more (hroom : ((s.cl s.here).ring (isleHere s).pushRing).fill + x.length ≤
    ((s.cl s.here).ring (isleHere s).pushRing).size) (hr : rest ≠ []) :
    leaves i s (fun u => piecePushed s u x ∧ (isleHere u).pushing = rest ∧ (isleHere u).done = true ∧
      (isleHere u).ipc = (isleHere s).ipc) := by
  obtain ⟨v, hv, ha, -, hi, hc⟩ :=
    State.islePush_piece (e := s.isleEnv) (size := size) (rings := rings (isleHere s)) h.pushing hroom
  have hrest : rest.isEmpty = false := by simpa using hr
  rw [hrest] at hv
  refine ⟨v, ?_, ?_, ?_⟩
  · rw [he, isleTurn_pushing h, hv]
    rfl
  · have hc' : v.cl s.here = _ := hc
    unfold piecePushed
    rw [hc']
    exact Cluster.ringPush_plain h.wf hroom
  · rw [isleHere_of_actor ha, hi]
    exact ⟨rfl, h.done, rfl⟩

/-- The last piece completes the word, which retires the slot that it read. -/
theorem islePushing_last {ret : List Nat} (hret : rings (isleHere s) = ret) (hone : ∀ br ∈ ret, ret = [br])
    (hne : (isleHere s).pushRing ∉ ret) (hroom : ((s.cl s.here).ring (isleHere s).pushRing).fill + x.length ≤
      ((s.cl s.here).ring (isleHere s).pushRing).size) (hr : rest = []) :
    isleGoes i s size (fun u => piecePushed s u x ∧ ∀ br ∈ ret, ringRead s u br) := by
  obtain ⟨v, hv, hva, hvm, hvi, hvc⟩ :=
    State.islePush_piece (e := s.isleEnv) (size := size) (rings := rings (isleHere s)) h.pushing hroom
  rw [hr] at hv hvi hvc
  obtain ⟨hua, hum, hus, hgo, hend⟩ := State.isleDone_leaves size ret hvi h.fall0 h.fall1
  have hu : exec i s = .next (v.isleDone s.isleEnv size ret) := by
    rw [he, isleTurn_pushing h, hv, hret]
    rfl
  generalize v.isleDone s.isleEnv size ret = u at hu hua hum hus hgo hend
  refine ⟨u, hu, ?_⟩
  have ha : u.actor = s.actor := hua.trans hva
  have hw := isleHere_of_actor ha
  have hh : u.here = s.here := congrArg Actor.cl ha
  -- every ring of the cluster, but for an END that the program's end sets
  have hring : ∀ r, ∃ (q : Prop) (_ : Decidable q), (u.cl s.here).ring r =
      ((ret.foldl (fun k r => k.retire (isleNo s) r) (v.cl s.here)).ring r).endedIf q := fun r => by
    obtain hn | hn := Nat.lt_or_ge (Isle.nextWord { isleHere s with pushing := [] } size) (isleHere s).prog.length
    · exact ⟨False, inferInstance, (hgo hn).2 r⟩
    · exact ⟨_, _, (hend hn).2 r⟩
  have hvr : ∀ r, (v.cl s.here).ring r = ((s.cl s.here).ringPush (isleHere s).pushRing
      (x.map (fun b => (b, false)))).ring r := fun r => (congrArg (Cluster.ring · r) hvc :)
  have hvs : (v.cl s.here).sram = ((s.cl s.here).ringPush (isleHere s).pushRing (x.map (fun b => (b, false)))).sram :=
    (congrArg Cluster.sram hvc :)
  have hpush : piecePushed s u x := by
    obtain ⟨hf, ht, hb⟩ := Cluster.ringPush_plain h.wf hroom
    obtain ⟨q, _, hq⟩ := hring (isleHere s).pushRing
    obtain ⟨hef, het, -⟩ := Ring.endedIf_fields ((ret.foldl (fun k r => k.retire (isleNo s) r) (v.cl s.here)).ring
      (isleHere s).pushRing) q
    have hk : (ret.foldl (fun k r => k.retire (isleNo s) r) (v.cl s.here)).ring (isleHere s).pushRing =
        (v.cl s.here).ring (isleHere s).pushRing :=
      Cluster.ring_foldl_retire_other _ hne _
    rw [hk, hvr] at hef het hq
    have hus' : (u.cl s.here).sram = (v.cl s.here).sram := hus
    refine ⟨?_, ?_, ?_⟩
    · rw [hq, hef, hf]
    · rw [hq, het, ht]
    · rw [hus', hvs]
      exact hb
  have hread : ∀ br ∈ ret, ringRead s u br := fun br hbr => by
    obtain ⟨q, _, hq⟩ := hring br
    have hp : br ≠ (isleHere s).pushRing := fun he => hne (he ▸ hbr)
    have hk : (ret.foldl (fun k r => k.retire (isleNo s) r) (v.cl s.here)).ring br =
        ((s.cl s.here).ring br).retire (isleNo s) := by
      rw [hone br hbr, List.foldl_cons, List.foldl_nil, Cluster.ring_retire_same, hvr, Cluster.ring_ringPush_other hp]
    obtain ⟨hef, -, heh, hea⟩ := Ring.endedIf_fields (((s.cl s.here).ring br).retire (isleNo s)) q
    unfold ringRead
    rw [hh, hq, hk]
    exact ⟨hea, heh, hef⟩
  dsimp only
  rw [hw]
  obtain hn | hn := Nat.lt_or_ge (Isle.nextWord { isleHere s with pushing := [] } size) (isleHere s).prog.length
  · rw [(hgo hn).1]
    exact ⟨hh, hum.trans hvm, h.err, rfl, rfl, rfl, fun _ => ⟨rfl, h.ended⟩, fun hn' => absurd hn (Nat.not_lt.2 hn'),
      hpush, hread⟩
  · obtain ⟨hi, hrs⟩ := hend hn
    rw [hi]
    refine ⟨hh, hum.trans hvm, h.err, rfl, rfl, rfl, fun hn' => absurd hn' (Nat.not_lt.2 hn), fun _ => ⟨rfl, fun r hr => ?_⟩,
      hpush, hread⟩
    rw [hh]
    exact (congrArg Ring.ended (hrs r)).trans (congrArg Ring.ended (if_pos hr))

end
end

/-! ### MOUT and MSMF -/

section
variable {s : State} {out ro : BitVec 4} {bias act rq : Bool}

theorem exec_mout : exec (.mout out ro bias act rq) s = .next (s.isleTurn 1
    (fun m => (if bias then [m.reg rBiasring] else []).map .ring) (fun m => if bias then [m.reg rBiasring] else [])
    ro.toNat fun e s => s.moutWord e out.toNat ro.toNat bias act rq) := rfl

theorem exec_msmf : exec (.msmf out ro) s = .next (s.isleTurn 1 (fun _ => []) (fun _ => []) ro.toNat
    fun e s => s.msmfWord e out.toNat ro.toNat) := rfl

theorem ringOpen_outErr (h : ringOpen s ro.toNat) : s.outErr s.isleEnv ro.toNat = none :=
  State.outErr_eq_none h.1 h.2

/-- The word has no bias, or a slot of BIASRING to read (R270). -/
theorem moutFed_of (hf : bias = false ∨ ((isleHere s).reg rBiasring ≠ ro.toNat ∧
    (isleHere s).reg rBiasring ∉ (isleHere s).mmaRings ∧ ringFull s ((isleHere s).reg rBiasring) 128)) :
    s.moutFed s.isleEnv ro.toNat bias ∧
      ∀ x ∈ (if bias then [(isleHere s).reg rBiasring] else []).map IsleIn.ring,
        (s.cl s.here).inEnded (isleNo s) x = false := by
  obtain rfl | ⟨hne, hnm, hen, hc, hn, hfire⟩ := hf
  · exact ⟨.inl rfl, nofun⟩
  · refine ⟨.inr ⟨hne, hnm, State.ringErr_eq_none hen hc hn, hfire⟩, fun x hx => ?_⟩
    obtain ⟨r, hr, rfl⟩ := List.mem_map.1 hx
    have hr' : r = (isleHere s).reg rBiasring := by
      cases bias with
      | false => cases hr
      | true => exact List.mem_singleton.1 hr
    exact hr' ▸ Cluster.inEnded_ring_eq_false hfire

end

/-- Settles O51: a word of a ready island takes its outcome from `State.moutWord` or `State.msmfWord` (`isleSends_of`,
`isleWorks_of`, `isleStops_of`), and its output leaves in pieces (`islePushing_full`, `islePushing_more`,
`islePushing_last`). -/
theorem islandOutput : Obligations.IslandOutput := by
  unfold Obligations.IslandOutput
  intro s out ro bias act rq c m go br slot raw bad b record cells rows last feeds
  have hout : ∀ {n : BitVec 4}, n ≠ 7 → n.toNat ≠ 7 := fun h he => h (BitVec.eq_of_toNat_eq he)
  refine ⟨fun hready hopen hrows => ?_, fun hready hen => ?_, fun x rest i hi hfg hfz herr hend hdone h0 h1 hpush hwf => ?_⟩
  · have ho := ringOpen_outErr hopen
    refine ⟨fun ho7 hf hl => ?record, fun ho7 hf hbad hl => ?cells, fun ho7 hb hf hty hbad => ?badBias,
      fun ho7 hf hl => ?recordWorks, fun ho7 hf hbad hl => ?cellsWork, fun hl => ?rowsWork, fun hl => ?rows⟩
    case record =>
      obtain ⟨hfed, hin⟩ := moutFed_of hf
      have h7 : out.toNat = 7 := congrArg BitVec.toNat ho7
      exact isleSends_of exec_mout hready hin (State.moutWord_record ho hfed h7) hrows hl (Isle.recordBytes_ne_nil hrows)
        rfl rfl rfl rfl rfl fun u ha _ => ha
    case cells =>
      obtain ⟨hfed, hin⟩ := moutFed_of hf
      obtain ⟨t, fl, ret, hw, ha, hm, hi⟩ := State.moutWord_cells (act := act) (rq := rq) ho hfed (hout ho7) hbad
      exact isleSends_of exec_mout hready hin hw hrows hl (Isle.outCells_ne_nil hrows _ _ _ _) ha hm hi rfl rfl fun u ha _ => ha
    case badBias =>
      obtain ⟨hfed, hin⟩ := moutFed_of hf
      exact isleStops_of exec_mout hready hin (State.moutWord_badBias ho hfed (hout ho7) hb hty hbad)
    case recordWorks =>
      obtain ⟨hfed, hin⟩ := moutFed_of hf
      have h7 : out.toNat = 7 := congrArg BitVec.toNat ho7
      exact isleWorks_of exec_mout hready hin (State.moutWord_record ho hfed h7) hl
    case cellsWork =>
      obtain ⟨hfed, hin⟩ := moutFed_of hf
      obtain ⟨t, fl, ret, hw, -⟩ := State.moutWord_cells (act := act) (rq := rq) ho hfed (hout ho7) hbad
      exact isleWorks_of exec_mout hready hin hw hl
    case rowsWork =>
      obtain ⟨fl, hw⟩ := State.msmfWord_rows out.toNat ho
      exact isleWorks_of exec_msmf hready nofun hw hl
    case rows =>
      obtain ⟨fl, hw⟩ := State.msmfWord_rows out.toNat ho
      refine isleSends_of exec_msmf hready nofun hw hrows hl (Isle.finalRows_ne_nil hrows _) rfl rfl
        (State.isle_setIsle ..) rfl rfl fun u ha he => ⟨ha, fun r hr _ => ?_⟩
      rw [he]
      exact (testBit_foldl_putFld (fun r => m.denOf r == 0) _ _ hr).trans (Bool.beq_eq_decide_eq ..)
  · have hw : s.msmfWord s.isleEnv out.toNat ro.toNat = .stop 2 s := by
      have hen' : ((s.cl s.isleEnv.c).ring ro.toNat).en = false := hen
      have ho : s.outErr s.isleEnv ro.toNat = some 2 := if_pos (by rw [hen']; rfl)
      simp only [State.msmfWord, ho]
    exact isleStops_of exec_msmf hready nofun hw
  · have h : IslePushing s x rest := ⟨hfg, hfz, herr, hend, hdone, h0, h1, hpush, hwf⟩
    obtain ⟨rfl, hbr⟩ | rfl := hi
    · refine ⟨islePushing_full h exec_mout, islePushing_more h exec_mout, fun hroom hr => ?_⟩
      refine isleGoes_mono (islePushing_last h exec_mout rfl ?_ ?_ hroom hr) fun u hu => ⟨hu.1, fun _ hb => hu.2 br ?_⟩
      · cases bias with
        | false => nofun
        | true => exact fun b hb => congrArg (fun b => [b]) (List.mem_singleton.1 hb).symm
      · cases bias with
        | false => nofun
        | true => exact fun hm => hbr.elim nofun fun hne => hne (List.mem_singleton.1 hm).symm
      · rw [hb]
        exact List.mem_singleton_self _
    · refine ⟨islePushing_full h exec_msmf, islePushing_more h exec_msmf, fun hroom hr => ?_⟩
      exact isleGoes_mono (islePushing_last h exec_msmf rfl nofun nofun hroom hr) fun u hu => ⟨hu.1, nofun⟩

end Sys2Proof
end

section
/-! Address generators: a kill that is still on a reverse wire when a block load takes its turn (R108, R196). -/

namespace Sys2Proof.Machine

/-- An AGBT word that names no slot. -/
def plainBlockWord : AgF := ⟨.cl, 0, false, false, 0, 0, 0, 0, 0, 0⟩

/-- A table of one sequence, so that its first block has lane 0 alone (R28). -/
def oneSequence : BlockTab := ⟨0, 0, 0, 1, 16, 12⟩

/-- AG 0 of cluster 0 on a round over one 4-byte element of a block that bank 0 holds. -/
def blockLoader : Ag :=
  { fg := some { shape := 2 ^ 64 + 2 * 2 ^ 324 + 2 * 2 ^ 334 }, phase := .walk, ext := [1, 1, 1, 1, 1],
    desc := some oneSequence, block := some 0xFFFFFFFFFF000000 }

/-- The kill of lane 0 in the kill unit at which the AG's output 0 stands (R106). -/
def laneZeroKill : KillMsg := { unit := 256, port := 0, kseq := 0, mask := 1 }

/-- The block load's turn, with the kill on its way to it. -/
def killedBlockLoad : State :=
  let s := State.reset.placeResid
  { s.setCl 0 { (s.cl 0).setAg 0 blockLoader with wires := [laneZeroKill] } with actor := { die := 0, cl := 0, unit := 256 } }

theorem killedBlockLoad_ready : agReady killedBlockLoad agBt plainBlockWord := by
  unfold agReady
  decide +kernel

/-- The bytes of lane 0 are the first of bank 0, which is in SCRATCH mode at reset (R75). -/
theorem killedBlockLoad_banks :
    agBanks killedBlockLoad (agEnvHere killedBlockLoad agBt plainBlockWord)
      [0xFFFFFFFFFF000000, 0xFFFFFFFFFF000001, 0xFFFFFFFFFF000002, 0xFFFFFFFFFF000003] :=
  ⟨by decide, by decide +kernel, fun _ => rfl⟩

/-- The kill acts before the position does (R108), so that lane 0 is absent from the token that leaves (R196). -/
theorem killedBlockLoad_sends :
    (agToks (killedBlockLoad.agTurn agBt plainBlockWord)).map Token.valid = [0] := by
  decide +kernel

/-- Refutes O48: its clause about the token of an AGBT block asks that no kill be remembered at the AG, but not that none be on
the reverse wires, and `killedBlockLoad` has one there for the AG's current unit.  The turn takes it first, so that the token
leaves without lane 0, which the clause says the table's length gives it. -/
theorem not_addressStores : ¬ Obligations.AddressStores := by
  unfold Obligations.AddressStores
  rintro ⟨-, hblock⟩
  obtain ⟨-, -, htoken, -⟩ := hblock killedBlockLoad plainBlockWord
  obtain ⟨u, hexec, htoks⟩ := htoken oneSequence 0xFFFFFFFFFF000000 killedBlockLoad_ready
    (by decide +kernel) (by decide) (by decide +kernel) (by decide) (by decide +kernel) (fun l _ hl => by
      obtain rfl : l = 0 := Nat.lt_one_iff.mp (Nat.lt_of_le_of_lt (Nat.le_add_left l _) hl)
      exact (congrArg (agBanks _ _) (by decide +kernel)).mpr killedBlockLoad_banks)
  obtain rfl : killedBlockLoad.agTurn agBt plainBlockWord = u := Host.Outcome.next.inj hexec
  have hvalid := congrArg (List.map Token.valid) htoks
  rw [killedBlockLoad_sends] at hvalid
  exact absurd hvalid (by decide +kernel)

end Sys2Proof.Machine
end

section
/-! SUPPORT. Switch words (R97 to R101): the links and tiles that a word reads and writes, and what each of its two moves leaves. -/

namespace Sys2Proof.Machine

/-! ### Links: registers, buffers and remembered kills -/

@[simp] theorem Links.out_setOut_same (k : Links) (o : Nat) (ts : List OutTok) : (k.setOut o ts).out o = ts := by
  unfold Links.out Links.setOut
  dsimp only
  split
  · next h => rw [Tab.get, Tab.find_del_same, List.isEmpty_iff.1 h]; rfl
  · exact Tab.get_put_same ..

theorem Links.out_setOut_other (k : Links) {o p : Nat} (ts : List OutTok) (h : p ≠ o) : (k.setOut o ts).out p = k.out p := by
  unfold Links.out Links.setOut
  dsimp only
  split
  · rw [Tab.get, Tab.find_del_other _ h]; rfl
  · exact Tab.get_put_other _ _ _ h

@[simp] theorem Links.buf_setBuf_same (k : Links) (i : Nat) (b : List BufEnt) : (k.setBuf i b).buf i = b := by
  unfold Links.buf Links.setBuf
  dsimp only
  split
  · next h => rw [Tab.get, Tab.find_del_same, List.isEmpty_iff.1 h]; rfl
  · exact Tab.get_put_same ..

theorem Links.buf_setBuf_other (k : Links) {i j : Nat} (b : List BufEnt) (h : j ≠ i) : (k.setBuf i b).buf j = k.buf j := by
  unfold Links.buf Links.setBuf
  dsimp only
  split
  · rw [Tab.get, Tab.find_del_other _ h]; rfl
  · exact Tab.get_put_other _ _ _ h

/-! ### Tiles of a cluster -/

theorem Cluster.tile_setTile_other (k : Cluster) {x y : Nat} (t : Tile) (h : y ≠ x) : (k.setTile x t).tile y = k.tile y :=
  Tab.get_put_other _ _ _ h

@[simp] theorem Cluster.setTile_setTile (k : Cluster) (x : Nat) (t u : Tile) : (k.setTile x t).setTile x u = k.setTile x u := by
  simp only [Cluster.setTile, Tab.put_put]

theorem Cluster.agWordFor_congr {j k : Cluster} {x : Nat} (ha : j.ags = k.ags) (hf : (j.tile x).fg = (k.tile x).fg) :
    j.agWordFor x = k.agWordFor x := by
  funext a
  unfold Cluster.agWordFor Cluster.ag Tile.cfgNow
  rw [ha, hf]

theorem Cluster.streamVc_congr {j k : Cluster} {x : Nat} (ha : j.ags = k.ags) (hf : (j.tile x).fg = (k.tile x).fg) :
    j.streamVc x = k.streamVc x := by
  funext src vc
  unfold Cluster.streamVc
  rw [Cluster.agWordFor_congr ha hf]

/-- Which words share a source hangs on the tile's configuration and on the words of the AGs that it faces (R99, R100). -/
theorem Cluster.sharers_congr {j k : Cluster} {x : Nat} (ha : j.ags = k.ags) (hf : (j.tile x).fg = (k.tile x).fg) :
    j.sharers x = k.sharers x := by
  funext w
  simp only [Cluster.sharers, Cluster.streamVc_congr ha hf, Tile.cfgNow, hf]

/-- A word that finds no token finds none after a change that keeps its tile's buffers and unit outputs. -/
theorem Cluster.wordHead_eq_none_congr {j k : Cluster} {x w : Nat} (ha : j.ags = k.ags) (hf : (j.tile x).fg = (k.tile x).fg)
    (hb : (j.tile x).lk.bufs = (k.tile x).lk.bufs) (ho : ∀ o, 4 ≤ o → (j.tile x).lk.out o = (k.tile x).lk.out o)
    (h : k.wordHead x w = none) : j.wordHead x w = none := by
  have hbuf : (j.tile x).lk.buf = (k.tile x).lk.buf := by
    funext i
    simp only [Links.buf, hb]
  have hcfg : (j.tile x).cfgNow = (k.tile x).cfgNow := by simp only [Tile.cfgNow, hf]
  unfold Cluster.wordHead at h ⊢
  dsimp only at h ⊢
  rw [hcfg, Cluster.streamVc_congr ha hf]
  simp only [Links.nextVc, hbuf] at h ⊢
  by_cases hsrc : swSrc ((k.tile x).cfgNow.switch w) < 4
  · rw [if_pos hsrc] at h ⊢
    split at h
    · rfl
    · split at h
      · rfl
      · split at h
        · next hpos => rw [if_pos hpos]
        · cases h
  · rw [if_neg hsrc, ho _ (Nat.le_of_not_lt hsrc)]
    rw [if_neg hsrc] at h
    split at h
    · next hunit =>
      rw [if_pos hunit]
      split at h
      · rfl
      · split at h
        · next hserved => rw [if_pos hserved]
        · cases h
    · next hunit =>
      rw [if_neg hunit]
      split at h
      · cases h
      · next hhold => rw [if_neg hhold]

/-! ### Receivers -/

theorem recvOf_slot {x w : Nat} (h : 4 ≤ w) : recvOf x w = .input x w := by
  unfold recvOf
  split
  case h_5 => rfl
  all_goals omega

/-- Words N, E, S and W lead away from their tile. -/
theorem recvOf_ne_self {x w y i : Nat} (hw : w < 4) (h : recvOf x w = .input y i) : y ≠ x := by
  have hport : facedPort x ≠ .input y i := by
    unfold facedPort
    dsimp only
    split
    all_goals exact Recv.noConfusion
  unfold recvOf at h
  split at h
  · split at h
    · exact absurd h hport
    · injection h; omega
  · split at h
    · cases h
    · injection h; omega
  · split at h
    · exact absurd h hport
    · injection h; omega
  · split at h
    · cases h
    · injection h; omega
  · next h0 h1 h2 h3 => exact absurd (show w ≠ 0 ∧ w ≠ 1 ∧ w ≠ 2 ∧ w ≠ 3 from ⟨h0, h1, h2, h3⟩) (by omega)

/-- An input takes a token where it has room and no earlier stream uses the channel (R99). -/
theorem Cluster.offer_input {k : Cluster} {y i vc cfg : Nat} (tok : Token) (hroom : (k.tile y).lk.room (4 * i + vc) = true)
    (hvc : cfg ≤ (k.tile y).cfgNow.cfg ∨ (k.tile y).inVc.contains (4 * i + vc) = false) :
    ∃ vcs, k.offer (.input y i) vc cfg tok =
      some (k.setTile y { k.tile y with lk := (k.tile y).lk.put (4 * i + vc) { tok := tok, cfg := cfg }, inVc := vcs }) := by
  refine ⟨_, if_neg ?_⟩
  rw [hroom]
  obtain hle | hnot := hvc
  · simp [hle]
  · simp only [hnot]
    simp

/-! ### The census (R110) -/

theorem Cluster.cross_uncounted (k : Cluster) (x again : Nat) {sw : Nat} {tok : Token} (hsw : swCns sw = false)
    (htok : tok.cns = false) : k.cross x sw again tok = (tok, k) := by
  obtain ⟨lanes, valid, pmask, tag, mcode, lvl, cmp, run, nseq, cns, last, prov⟩ := tok
  obtain rfl : cns = false := htok
  simp only [Cluster.cross, hsw, Bool.false_and, Bool.false_eq_true, if_false, Bool.or_self]
  cases k.tileOwner x with
  | none => rfl
  | some r => rfl

/-- The tile once a token of word `w` has reached a receiving buffer. -/
def Tile.passed (t : Tile) (w : Nat) (tok : Token) : Tile :=
  { t with lk := { t.lk with units := t.lk.units.put w (unitAfter (t.lk.units.get w 0) tok) },
           swEos := if tok.mark == Mk.eos then insertNat w t.swEos else t.swEos }

/-- A token that no firing of the tile's unit counts changes the tile, and no census. -/
theorem State.reached_uncounted (s : State) (c x w : Nat) (tok : Token) :
    ∃ rs, (s.reached c x w tok []).cl c = { (s.cl c).setTile x (((s.cl c).tile x).passed w tok) with resids := rs } := by
  obtain ⟨-, -, ⟨rs, hcl⟩, -⟩ :=
    (s.setCl c ((s.cl c).setTile x (((s.cl c).tile x).passed w tok))).censusFall_zero c ((s.cl c).tileOwner x)
  rw [State.cl_setCl_same] at hcl
  exact ⟨rs, hcl⟩

/-! ### A word hands its register's token over -/

theorem State.handOver_empty {s : State} {c x w : Nat} (h : ((s.cl c).tile x).lk.out w = []) : s.handOver c x w = s := by
  simp only [State.handOver, h]

/-- A register's token leaves whole where its edge allows it (R98, R101): the receiver's buffer has it, and the register is
empty. -/
theorem State.handOver_whole {s : State} {k : Cluster} {c x w y i sw : Nat} {t : Tile} {e : OutTok} {l : List OutTok}
    (hk : s.cl c = k) (ht : k.tile x = t) (hsw : t.cfgNow.switch w = sw) (hout : t.lk.out w = e :: l) (hfids : e.fids = [])
    (hrecv : recvOf x w = .input y i) (hyx : y ≠ x) (hrun : runAllowed (swCmp sw) (swCeil sw) e.tok = true)
    (hroom : (k.tile y).lk.room (4 * i + swVc sw) = true)
    (hvc : t.cfgNow.cfg ≤ (k.tile y).cfgNow.cfg ∨ (k.tile y).inVc.contains (4 * i + swVc sw) = false) :
    ∃ rs ty, (s.handOver c x w).cl c =
        { (k.setTile y ty).setTile x (Tile.passed { t with lk := t.lk.setOut w [] } w e.tok) with resids := rs } ∧
      ty.lk.buf (4 * i + swVc sw) = (k.tile y).lk.buf (4 * i + swVc sw) ++ [{ tok := e.tok, cfg := t.cfgNow.cfg }] := by
  obtain ⟨vcs, hoffer⟩ := Cluster.offer_input e.tok hroom hvc
  have hpart : runPart (swCmp sw) (swCeil sw) e.tok = e.tok := if_pos hrun
  generalize hj : k.setTile y _ = j at hoffer
  have hjx : j.tile x = t := by rw [← hj, Cluster.tile_setTile_other _ _ hyx.symm, ht]
  have hstep : s.handOver c x w = (s.setCl c (j.setTile x { t with lk := t.lk.setOut w [] })).reached c x w e.tok [] := by
    simp only [State.handOver, hk, ht, hsw, hout, hpart, hrecv, hoffer, Nat.lt_irrefl, if_false, List.isEmpty_nil, if_true,
      hfids, hjx]
  obtain ⟨rs, hcl⟩ := (s.setCl c (j.setTile x { t with lk := t.lk.setOut w [] })).reached_uncounted c x w e.tok
  rw [hstep, hcl]
  simp only [State.cl_setCl_same, Cluster.tile_setTile_same, Cluster.setTile_setTile, ← hj]
  exact ⟨rs, _, rfl, Links.buf_setBuf_same ..⟩

/-! ### A word takes the head of its source -/

theorem State.takeWord_none {s : State} {c x w : Nat} (h : (s.cl c).wordHead x w = none) : s.takeWord c x w = s := by
  simp only [State.takeWord, h]

theorem Token.one_le_logical (t : Token) : 1 ≤ t.logical := by
  unfold Token.logical
  split
  · exact Nat.le_add_left ..
  · exact Nat.le_refl _

theorem Links.nextVc_lt {k : Links} {input cfg v : Nat} {vc : Option Nat} (h : k.nextVc input cfg vc = some v) : v < 4 := by
  unfold Links.nextVc at h
  revert h
  refine List.foldlRecOn (motive := fun o => o = some v → v < 4) _ _ (fun h => nomatch h) fun acc hacc w hw => ?_
  have hw4 : w < 4 := List.mem_range.1 (List.mem_filter.1 hw).1
  have htake : some w = some v → v < 4 := fun hv => Option.some.inj hv ▸ hw4
  split
  · exact htake
  · split
    · split
      · exact htake
      · exact hacc
    · exact htake
  · exact hacc

/-- What a word's source loses is neither in the registers N, E, S and W nor in the slots' buffers. -/
theorem Cluster.took_keeps (k : Cluster) (x w : Nat) (tok : Token) :
    ((k.took x w tok).tile x).fg = (k.tile x).fg ∧
    (∀ o, o < 4 → ((k.took x w tok).tile x).lk.out o = (k.tile x).lk.out o) ∧
    (∀ i, 16 ≤ i → ((k.took x w tok).tile x).lk.buf i = (k.tile x).lk.buf i) := by
  have hself : (k.tile x).fg = (k.tile x).fg ∧
      (∀ o, o < 4 → (k.tile x).lk.out o = (k.tile x).lk.out o) ∧
      (∀ i, 16 ≤ i → (k.tile x).lk.buf i = (k.tile x).lk.buf i) := ⟨rfl, fun _ _ => rfl, fun _ _ => rfl⟩
  unfold Cluster.took
  dsimp only
  split
  · next hsrc =>
    split
    · exact hself
    · next v hv =>
      have hv4 := Links.nextVc_lt hv
      split
      · exact hself
      · have hbuf : ∀ b i, 16 ≤ i → ((k.tile x).lk.setBuf (4 * swSrc ((k.tile x).cfgNow.switch w) + v) b).buf i =
            (k.tile x).lk.buf i := fun b i hi => Links.buf_setBuf_other _ _ (by omega)
        split
        · rw [Cluster.tile_setTile_same]
          exact ⟨rfl, fun _ _ => rfl, hbuf _⟩
        · rw [Cluster.tile_setTile_same]
          exact ⟨rfl, fun _ _ => rfl, hbuf _⟩
  · next hsrc =>
    split
    · split
      · exact hself
      · rw [Cluster.tile_setTile_same]
        exact ⟨rfl, fun o ho => Links.out_setOut_other _ _ (by omega), fun _ _ => rfl⟩
    · exact hself

/-- The only word that takes an input pops a token that stands for one when it takes it (R100). -/
theorem Cluster.took_pops {k : Cluster} {x w v sw : Nat} {t : Tile} {e : BufEnt} {r : List BufEnt} (tok : Token)
    (ht : k.tile x = t) (hsw : t.cfgNow.switch w = sw) (hsrc : swSrc sw < 4) (honly : k.sharers x w = [w])
    (hv : t.lk.nextVc (swSrc sw) t.cfgNow.cfg (k.streamVc x (swSrc sw) (swVc sw)) = some v)
    (hbuf : t.lk.buf (4 * swSrc sw + v) = e :: r) (hone : e.tok.logical = 1) :
    ((k.took x w tok).tile x).lk.buf (4 * swSrc sw + v) = r := by
  have htaken : e.tok.logical ≤ BufEnt.pos { e with taken := e.taken.put w (e.pos w + tok.logical) } w := by
    have := tok.one_le_logical
    simp only [BufEnt.pos, Tab.get_put_same]
    omega
  have hall : (k.sharers x w).all (fun u => decide (e.tok.logical ≤
      BufEnt.pos { e with taken := e.taken.put w (e.pos w + tok.logical) } u)) = true := by
    rw [honly, List.all_cons, decide_eq_true htaken]
    rfl
  simp only [Cluster.took, ht, hsw, if_pos hsrc, hv, hbuf, hall, if_true, Cluster.tile_setTile_same]
  exact Links.buf_setBuf_same ..

/-- Words N, E, S and W put the head of their source into their empty register (R98). -/
theorem State.takeWord_register {s : State} {k : Cluster} {c x w sw : Nat} {tok : Token} {fids : List Nat} (hk : s.cl c = k)
    (hsw : (k.tile x).cfgNow.switch w = sw) (hw : w < 4) (hsrc : swSrc sw ≠ 6) (hempty : (k.tile x).lk.out w = [])
    (hcns : swCns sw = false) (htok : tok.cns = false) (hhead : k.wordHead x w = some (tok, fids)) :
    (((s.takeWord c x w).cl c).tile x).lk.out w = [{ tok := tok, fids := fids }] ∧ (s.takeWord c x w).mem = s.mem := by
  have hstep : s.takeWord c x w = s.setCl c ((k.took x w tok).setTile x { (k.took x w tok).tile x with
      lk := ((k.took x w tok).tile x).lk.setOut w [{ tok := tok, fids := fids }] }) := by
    simp only [State.takeWord, hk, hsw, hhead, Cluster.cross_uncounted _ x _ hcns htok, hempty, hw, decide_true,
      Bool.true_and, bne_iff_ne.2 hsrc, if_true]
  rw [hstep, State.cl_setCl_same, Cluster.tile_setTile_same]
  exact ⟨Links.out_setOut_same .., rfl⟩

/-- A slot word moves the head of its source into the slot's buffer (R99). -/
theorem State.takeWord_slot {s : State} {k : Cluster} {c x w sw : Nat} {tok : Token} (hk : s.cl c = k)
    (hsw : (k.tile x).cfgNow.switch w = sw) (hw : 4 ≤ w) (hcns : swCns sw = false) (htok : tok.cns = false)
    (hhead : k.wordHead x w = some (tok, [])) (hroom : (k.tile x).lk.room (4 * w + swVc sw) = true) :
    (((s.takeWord c x w).cl c).tile x).lk.buf =
      (((k.took x w tok).tile x).lk.put (4 * w + swVc sw) { tok := tok, cfg := (k.tile x).cfgNow.cfg }).buf := by
  obtain ⟨hfg, -, hbuf⟩ := k.took_keeps x w tok
  have hcfg : ((k.took x w tok).tile x).cfgNow = (k.tile x).cfgNow := by simp only [Tile.cfgNow, hfg]
  obtain ⟨vcs, hoffer⟩ := Cluster.offer_input (k := k.took x w tok) (y := x) (i := w) (vc := swVc sw)
    (cfg := (k.tile x).cfgNow.cfg) tok (by rw [Links.room, hbuf _ (by omega)]; exact hroom) (.inl (by rw [hcfg]))
  have hnot : (decide (w < 4) && swSrc sw != 6) = false := by rw [decide_eq_false (Nat.not_lt.2 hw), Bool.false_and]
  generalize hj : (k.took x w tok).setTile x _ = j at hoffer
  have hstep : s.takeWord c x w = (s.setCl c j).reached c x w tok [] := by
    simp only [State.takeWord, hk, hsw, hhead, Cluster.cross_uncounted _ x _ hcns htok, hnot, Bool.false_eq_true, if_false,
      recvOf_slot hw, hoffer]
  obtain ⟨rs, hcl⟩ := (s.setCl c j).reached_uncounted c x w tok
  rw [hstep, hcl]
  simp only [State.cl_setCl_same, ← hj, Cluster.tile_setTile_same, Cluster.setTile_setTile]
  exact congrArg (fun t : Tile => t.lk.buf) (Cluster.tile_setTile_same ..)

/-! ### A switch word's turn -/

theorem exec_switchForward (w : BitVec 3) (s : State) :
    exec (.switchForward w) s = .next (s.switchForward s.here (s.actor.unit % 256) w.toNat) := rfl

theorem State.switchForward_idle {s : State} {c x : Nat} (w : Nat) (h : (s.cl c).isFrozen x = true ∨ ((s.cl c).tile x).fg = none) :
    s.switchForward c x w = s :=
  if_pos (by obtain h | h := h <;> simp [h])

theorem State.switchForward_active {s : State} {c x : Nat} (w : Nat) (hz : (s.cl c).isFrozen x = false)
    (hfg : ((s.cl c).tile x).fg.isSome = true) :
    s.switchForward c x w = (if w < 4 then (s.setCl c ((s.cl c).takeKills x)).handOver c x w
      else s.setCl c ((s.cl c).takeKills x)).takeWord c x w :=
  if_neg (by rw [hz, Option.isNone_eq_false_iff.2 hfg]; exact Bool.false_ne_true)

/-- The part of a turn that follows the kills: words N, E, S and W hand over before they take, so that a word that finds
nothing at its source leaves its register empty (R98). -/
theorem State.handOver_takeWord {s : State} {k : Cluster} {c x w y i sw : Nat} {t : Tile} {e : OutTok} {l : List OutTok}
    (hk : s.cl c = k) (ht : k.tile x = t) (hsw : t.cfgNow.switch w = sw) (hw : w < 4) (hout : t.lk.out w = e :: l)
    (hfids : e.fids = []) (hhead : k.wordHead x w = none) (hrecv : recvOf x w = .input y i)
    (hrun : runAllowed (swCmp sw) (swCeil sw) e.tok = true) (hroom : (k.tile y).lk.room (4 * i + swVc sw) = true)
    (hvc : t.cfgNow.cfg ≤ (k.tile y).cfgNow.cfg ∨ (k.tile y).inVc.contains (4 * i + swVc sw) = false) :
    ((((s.handOver c x w).takeWord c x w).cl c).tile x).lk.out w = [] ∧
      ((((s.handOver c x w).takeWord c x w).cl c).tile y).lk.buf (4 * i + swVc sw) =
        (k.tile y).lk.buf (4 * i + swVc sw) ++ [{ tok := e.tok, cfg := t.cfgNow.cfg }] := by
  have hyx := recvOf_ne_self hw hrecv
  obtain ⟨rs, ty, hcl, hbuf⟩ := State.handOver_whole hk ht hsw hout hfids hrecv hyx hrun hroom hvc
  have htx : ((s.handOver c x w).cl c).tile x = Tile.passed { t with lk := t.lk.setOut w [] } w e.tok := by
    rw [hcl]
    exact Cluster.tile_setTile_same ..
  have hty : ((s.handOver c x w).cl c).tile y = ty := by
    rw [hcl]
    exact (Cluster.tile_setTile_other _ _ hyx).trans (Cluster.tile_setTile_same ..)
  have hnone : ((s.handOver c x w).cl c).wordHead x w = none := by
    refine Cluster.wordHead_eq_none_congr (by rw [hcl]; rfl) ?_ ?_ (fun o ho => ?_) hhead
    · rw [htx, ht]
      rfl
    · rw [htx, ht]
      rfl
    · rw [htx, ht]
      exact Links.out_setOut_other t.lk [] (show o ≠ w by omega)
  rw [State.takeWord_none hnone, htx, hty]
  exact ⟨Links.out_setOut_same t.lk w [], hbuf⟩

end Sys2Proof.Machine
end

section
/-! SUPPORT. Kills (R106 to R109): what is remembered at a sending end, what the words of a tile keep of it while the kill
goes on to their source, and the statement about switch words and kills. -/

namespace Sys2Proof.Machine

/-! ### Remembered kills -/

theorem Links.killed_congr {j k : Links} (h : j.kills = k.kills) (port u : Nat) : j.killed port u = k.killed port u := by
  unfold Links.killed
  rw [h]

theorem Links.killed_rememberFrom_same (k : Links) (h port u : Nat) (m : BitVec 16) :
    (k.rememberFrom h port u m).killed port u = k.killed port u ||| m := by
  have hold : (k.kills.filter (fun r => r.port != port || (decide (h ≤ r.unit) && r.unit != u))).find?
      (fun r => r.port == port && r.unit == u) = none := by
    rw [List.find?_eq_none]
    intro r hr
    have hkept := (List.mem_filter.1 hr).2
    grind
  rw [Links.killed, Links.rememberFrom, List.find?_append, hold]
  simp

theorem Links.killed_rememberFrom_other (k : Links) (h u : Nat) (m : BitVec 16) {port p : Nat} (v : Nat) (hp : p ≠ port) :
    (k.rememberFrom h port u m).killed p v = k.killed p v := by
  have hnew : List.find? (fun r : KillRec => r.port == p && r.unit == v)
      [{ port := port, unit := u, mask := k.killed port u ||| m }] = none := by
    simp [hp.symm]
  have hold : (k.kills.filter (fun r => r.port != port || (decide (h ≤ r.unit) && r.unit != u))).find?
      (fun r => r.port == p && r.unit == v) = k.kills.find? (fun r => r.port == p && r.unit == v) := by
    rw [List.find?_filter]
    congr 1
    funext r
    grind
  rw [Links.killed, Links.rememberFrom, List.find?_append, hold, hnew, Option.or_none, Links.killed]

/-! ### What the words of a tile are told by -/

/-- The configuration of tile `x` and the AGs, which say which words share a source, and the kills remembered at its words. -/
def Cluster.wordKills (k : Cluster) (x : Nat) : Tab Ag × Option TileCfg × (Fin 8 → Nat → BitVec 16) :=
  (k.ags, (k.tile x).fg, fun w u => (k.tile x).lk.killed w u)

/-- The output registers of words N, E, S and W. -/
def Cluster.registers (k : Cluster) (x : Nat) : Fin 4 → List OutTok := fun w => (k.tile x).lk.out w

theorem Cluster.wordKills_eq {j k : Cluster} {x : Nat} (h : j.wordKills x = k.wordKills x) :
    j.ags = k.ags ∧ (j.tile x).fg = (k.tile x).fg ∧
      ∀ w u, w < 8 → (j.tile x).lk.killed w u = (k.tile x).lk.killed w u :=
  ⟨congrArg Prod.fst h, congrArg (fun v => v.2.1) h, fun w u hw => congrFun (congrFun (congrArg (fun v => v.2.2) h) ⟨w, hw⟩) u⟩

theorem Cluster.out_of_registers {j k : Cluster} {x w : Nat} (h : j.registers x = k.registers x) (hw : w < 4) :
    (j.tile x).lk.out w = (k.tile x).lk.out w := congrFun h ⟨w, hw⟩

theorem Cluster.wordKills_setTile (k : Cluster) (x : Nat) {t : Tile} (hf : t.fg = (k.tile x).fg)
    (hm : ∀ w u, w < 8 → t.lk.killed w u = (k.tile x).lk.killed w u) : (k.setTile x t).wordKills x = k.wordKills x := by
  unfold Cluster.wordKills
  rw [Cluster.tile_setTile_same, hf]
  exact congrArg (fun f => (k.ags, (k.tile x).fg, f)) (funext fun w => funext fun u => hm w u w.isLt)

theorem Cluster.registers_setTile (k : Cluster) (x : Nat) {t : Tile} (ho : ∀ w, w < 4 → t.lk.out w = (k.tile x).lk.out w) :
    (k.setTile x t).registers x = k.registers x := by
  unfold Cluster.registers
  rw [Cluster.tile_setTile_same]
  exact funext fun w => ho w w.isLt

theorem Cluster.mem_sharers {k : Cluster} {x w v : Nat} (h : v ∈ k.sharers x w) : v < 8 :=
  List.mem_range.1 (List.mem_filter.1 h).1

theorem Cluster.self_mem_sharers (k : Cluster) (x : Nat) {w : Nat} (h : w < 8) : w ∈ k.sharers x w :=
  List.mem_filter.2 ⟨List.mem_range.2 h, by rw [beq_self_eq_true, beq_self_eq_true]; rfl⟩

theorem Cluster.nodup_sharers (k : Cluster) (x w : Nat) : (k.sharers x w).Nodup := List.nodup_range.filter _

theorem getLsbD_foldl_and (f : Nat → BitVec 16) (l : Nat) : ∀ (vs : List Nat) (a : BitVec 16),
    (vs.foldl (fun a v => a &&& f v) a).getLsbD l = true ↔ a.getLsbD l = true ∧ ∀ v ∈ vs, (f v).getLsbD l = true
  | [], a => by simp
  | v :: vs, a => by
    rw [List.foldl_cons, getLsbD_foldl_and f l vs, BitVec.getLsbD_and, Bool.and_eq_true, List.forall_mem_cons, and_assoc]

/-- A lane stops at the source of a word of an input or of a unit output once every word that takes it has killed it
(R107). -/
theorem Cluster.getLsbD_killMask {k : Cluster} {x w u l : Nat} (hsrc : swSrc ((k.tile x).cfgNow.switch w) < 6) (hl : l < 16) :
    (k.killMask x w u).getLsbD l = true ↔ ∀ v ∈ k.sharers x w, ((k.tile x).lk.killed v u).getLsbD l = true := by
  have hones : (0xFFFF : BitVec 16).getLsbD l = true := by
    rw [show (0xFFFF : BitVec 16) = BitVec.allOnes 16 from rfl, BitVec.getLsbD_allOnes, decide_eq_true hl]
  rw [Cluster.killMask, if_neg (Nat.not_le.2 hsrc), getLsbD_foldl_and, hones]
  exact and_iff_right rfl

theorem Cluster.killMask_congr {j k : Cluster} {x w : Nat} (u : Nat) (h : j.wordKills x = k.wordKills x) (hw : w < 8) :
    j.killMask x w u = k.killMask x w u := by
  obtain ⟨ha, hf, hm⟩ := Cluster.wordKills_eq h
  have hcfg : (j.tile x).cfgNow = (k.tile x).cfgNow := by simp only [Tile.cfgNow, hf]
  unfold Cluster.killMask
  rw [hcfg, Cluster.sharers_congr ha hf, hm w u hw]
  split
  · rfl
  · exact List.foldl_ext _ _ _ fun a v hv => by rw [hm v u (Cluster.mem_sharers hv)]

/-! ### The registers of the words that take a source -/

/-- The killed lanes of unit `u` leave word `v`'s output register. -/
def Cluster.clearRegister (x u : Nat) (m : BitVec 16) (k : Cluster) (v : Nat) : Cluster :=
  k.setTile x { k.tile x with lk := (k.tile x).lk.setOut v (((k.tile x).lk.out v).map (fun e =>
    { e with tok := clearUnit ((k.tile x).lk.units.get v 0) u m e.tok })) }

theorem Cluster.clearRegister_wordKills (x u : Nat) (m : BitVec 16) (k : Cluster) (v : Nat) :
    (Cluster.clearRegister x u m k v).wordKills x = k.wordKills x := Cluster.wordKills_setTile _ _ rfl fun _ _ _ => rfl

theorem Cluster.clearRegister_units (x u : Nat) (m : BitVec 16) (k : Cluster) (v : Nat) :
    ((Cluster.clearRegister x u m k v).tile x).lk.units = (k.tile x).lk.units := by
  rw [Cluster.clearRegister, Cluster.tile_setTile_same]
  rfl

theorem Cluster.clearRegister_out_same (x u : Nat) (m : BitVec 16) (k : Cluster) (v : Nat) :
    ((Cluster.clearRegister x u m k v).tile x).lk.out v = ((k.tile x).lk.out v).map (fun e =>
      { e with tok := clearUnit ((k.tile x).lk.units.get v 0) u m e.tok }) :=
  (congrArg (fun t : Tile => t.lk.out v) (Cluster.tile_setTile_same ..)).trans (Links.out_setOut_same ..)

theorem Cluster.clearRegister_out_other (x u : Nat) (m : BitVec 16) (k : Cluster) {v w : Nat} (h : w ≠ v) :
    ((Cluster.clearRegister x u m k v).tile x).lk.out w = (k.tile x).lk.out w :=
  (congrArg (fun t : Tile => t.lk.out w) (Cluster.tile_setTile_same ..)).trans (Links.out_setOut_other _ _ h)

theorem Cluster.clearRegisters_out_notMem (x u : Nat) (m : BitVec 16) {w : Nat} (vs : List Nat) (k : Cluster) (h : w ∉ vs) :
    ((vs.foldl (Cluster.clearRegister x u m) k).tile x).lk.out w = (k.tile x).lk.out w := by
  induction vs generalizing k with
  | nil => rfl
  | cons v vs ih =>
    obtain ⟨hv, hvs⟩ := not_or.1 (mt List.mem_cons.2 h)
    exact (ih _ hvs).trans (Cluster.clearRegister_out_other x u m k hv)

/-- Each register of the words is cleared once. -/
theorem Cluster.clearRegisters_out (x u : Nat) (m : BitVec 16) {w : Nat} (vs : List Nat) (k : Cluster) (hnd : vs.Nodup)
    (h : w ∈ vs) : ((vs.foldl (Cluster.clearRegister x u m) k).tile x).lk.out w = ((k.tile x).lk.out w).map (fun e =>
      { e with tok := clearUnit ((k.tile x).lk.units.get w 0) u m e.tok }) := by
  induction vs generalizing k with
  | nil => cases h
  | cons v vs ih =>
    obtain ⟨hv, hnd⟩ := List.nodup_cons.1 hnd
    obtain rfl | hw := List.mem_cons.1 h
    · exact (Cluster.clearRegisters_out_notMem x u m vs _ hv).trans (Cluster.clearRegister_out_same x u m k w)
    · rw [List.foldl_cons, ih _ hnd hw, Cluster.clearRegister_units,
        Cluster.clearRegister_out_other x u m k fun he : w = v => hv (he ▸ hw)]

/-! ### A kill goes on from a word -/

/-- What the words of a tile hold of kills. -/
def Cluster.wordView (k : Cluster) (x : Nat) : (Tab Ag × Option TileCfg × (Fin 8 → Nat → BitVec 16)) × (Fin 4 → List OutTok) :=
  (k.wordKills x, k.registers x)

theorem Cluster.wordView_setTile (k : Cluster) (x : Nat) {t : Tile} (hf : t.fg = (k.tile x).fg)
    (hm : ∀ w u, w < 8 → t.lk.killed w u = (k.tile x).lk.killed w u)
    (ho : ∀ w, w < 4 → t.lk.out w = (k.tile x).lk.out w) : (k.setTile x t).wordView x = k.wordView x :=
  Prod.ext (Cluster.wordKills_setTile k x hf hm) (Cluster.registers_setTile k x ho)

theorem Links.killed_remember_above (lk : Links) {p : Nat} (u : Nat) (m : BitVec 16) (hp : 8 ≤ p) (w v : Nat) (hw : w < 8) :
    (lk.remember p u m).killed w v = lk.killed w v :=
  Links.killed_rememberFrom_other lk _ u m v (by omega)

theorem Cluster.driveKill_wordView (k : Cluster) (x i u : Nat) (m : BitVec 16) :
    (k.driveKill x i u m).wordView x = k.wordView x := by
  unfold Cluster.driveKill
  dsimp only
  split
  · rfl
  · exact Cluster.wordView_setTile k x rfl (Links.killed_remember_above _ u m (by omega)) fun _ _ => rfl

theorem Tile.killQueues_links (t : Tile) (o u : Nat) (m : BitVec 16) :
    ((t.killQueues o u m).fg, (t.killQueues o u m).lk) = (t.fg, t.lk) :=
  foldl_keeps (fun t : Tile => (t.fg, t.lk)) _ (fun t e => by dsimp only; split <;> rfl) _ _

theorem Cluster.killOutput_wordView (k : Cluster) (x o u : Nat) (m : BitVec 16) (sel : Nat → BitVec 16) :
    (k.killOutput x o u m sel).wordView x = k.wordView x := by
  unfold Cluster.killOutput
  dsimp only
  split
  · rfl
  · generalize hlk : Links.setOut _ _ _ = lk
    obtain ⟨hf, hl⟩ := Prod.ext_iff.1 (Tile.killQueues_links { k.tile x with lk := lk } o u m)
    have hset := Cluster.wordView_setTile k x hf
      (fun w v hw => (congrArg (Links.killed · w v) hl).trans
        (hlk ▸ Links.killed_remember_above (k.tile x).lk u m (by omega) w v hw))
      (fun w hw => (congrArg (Links.out · w) hl).trans (hlk ▸ Links.out_setOut_other _ _ (by omega)))
    split
    · exact (foldl_keeps (Cluster.wordView · x) _ (fun k e => Cluster.driveKill_wordView k x _ _ _) _ _).trans hset
    · exact hset

/-- The words of a tile with an output register, N, E, S and W, that take the source of word `w`. -/
def Cluster.registerSharers (k : Cluster) (x w : Nat) : List Nat :=
  (if swSrc ((k.tile x).cfgNow.switch w) < 6 then k.sharers x w else [w]).filter (fun v => decide (v < 4))

/-- The tile of a word that has remembered a kill, and forgotten those of units before `low`. -/
def Cluster.rememberAt (k : Cluster) (x low w u : Nat) (m : BitVec 16) : Cluster :=
  k.setTile x { k.tile x with lk := (k.tile x).lk.rememberFrom low w u m }

/-- An input of the tile that has remembered a kill of its own, and lost lanes of what it holds (R107, R108). -/
theorem Cluster.inputKilled_wordView (k : Cluster) (x u : Nat) (all : BitVec 16) {p : Nat} (hp : 8 ≤ p) (clears : Nat → Bool)
    (key : Nat → Nat) (f : BufEnt → BufEnt) (vcs : List Nat) :
    (k.setTile x { k.tile x with lk := vcs.foldl (fun lk v =>
      if clears v then lk.setBuf (key v) ((lk.buf (key v)).map f) else lk) ((k.tile x).lk.remember p u all) }).wordView x =
        k.wordView x := by
  have hkeep := foldl_keeps (fun lk : Links => (lk.kills, lk.outs))
    (fun lk v => if clears v then lk.setBuf (key v) ((lk.buf (key v)).map f) else lk)
    (fun lk v => by split <;> rfl) vcs ((k.tile x).lk.remember p u all)
  obtain ⟨hkills, houts⟩ := Prod.ext_iff.1 hkeep
  exact Cluster.wordView_setTile k x rfl
    (fun w v hw => (Links.killed_congr hkills w v).trans (Links.killed_remember_above (k.tile x).lk u all hp w v hw))
    (fun w _ => congrArg (Tab.get · w []) houts)

/-- A kill of a unit that has not left is remembered at the word, and clears the registers of the words that take the same
source; what it does at the source is not seen at the words (R106, R107). -/
theorem Cluster.killWord_wordView {k : Cluster} {x w q u : Nat} (m : BitVec 16) (sel : Nat → BitVec 16)
    (h : killUnit ((k.tile x).lk.units.get w 0) q = some u) : ∃ low, (k.killWord x w q m sel).wordView x =
      (((k.rememberAt x low w u m).registerSharers x w).foldl
        (Cluster.clearRegister x u ((k.rememberAt x low w u m).killMask x w u)) (k.rememberAt x low w u m)).wordView x := by
  refine ⟨if swSrc ((k.tile x).cfgNow.switch w) < 6 then
    (k.sharers x w).foldl (fun n v => min n ((k.tile x).lk.units.get v 0)) ((k.tile x).lk.units.get w 0)
    else (k.tile x).lk.units.get w 0, ?_⟩
  simp only [Cluster.killWord, h, Cluster.registerSharers, apply_ite (List.filter _)]
  generalize (if swSrc ((k.tile x).cfgNow.switch w) < 6 then _ else _ : Nat) = low
  generalize hj : (List.foldl _ _ _ : Cluster) = j
  refine Eq.trans ?_ (congrArg (Cluster.wordView · x) hj.symm)
  split
  · split
    · rfl
    · split
      · exact Cluster.inputKilled_wordView j x u _ (by omega) _ _ _ _
      · exact Cluster.inputKilled_wordView j x u _ (by omega) _ _ _ _
      · exact Cluster.inputKilled_wordView j x u _ (by omega) _ _ _ _
  · split
    · split
      · rfl
      · exact Cluster.killOutput_wordView j x _ u _ sel
    · rfl

theorem Cluster.killWord_of_left {k : Cluster} {x w q : Nat} (m : BitVec 16) (sel : Nat → BitVec 16)
    (h : killUnit ((k.tile x).lk.units.get w 0) q = none) : k.killWord x w q m sel = k := by
  simp only [Cluster.killWord, h]

theorem Cluster.rememberAt_fg (k : Cluster) (x low w u : Nat) (m : BitVec 16) :
    ((k.rememberAt x low w u m).tile x).fg = (k.tile x).fg := by
  rw [Cluster.rememberAt, Cluster.tile_setTile_same]

theorem Cluster.rememberAt_lk (k : Cluster) (x low w u : Nat) (m : BitVec 16) :
    ((k.rememberAt x low w u m).tile x).lk = (k.tile x).lk.rememberFrom low w u m :=
  congrArg Tile.lk (Cluster.tile_setTile_same k x _)

theorem Cluster.nodup_registerSharers (k : Cluster) (x w : Nat) : (k.registerSharers x w).Nodup := by
  unfold Cluster.registerSharers
  split
  · exact (k.nodup_sharers x w).filter _
  · exact (List.nodup_singleton w).filter _

theorem Cluster.self_mem_registerSharers (k : Cluster) (x : Nat) {w : Nat} (h : w < 4) : w ∈ k.registerSharers x w := by
  refine List.mem_filter.2 ⟨?_, decide_eq_true h⟩
  split
  · exact k.self_mem_sharers x (by omega)
  · exact List.mem_singleton_self w

/-- What a kill that acts at a switch word leaves there: the mask joined to that of its unit, and the register without the
lanes that every word taking the source has killed (R106, R107). -/
theorem Cluster.killWord_leaves {k j : Cluster} {x w q u : Nat} {m : BitVec 16} {sel : Nat → BitVec 16}
    (h : killUnit ((k.tile x).lk.units.get w 0) q = some u) (hw : w < 8) (hj : k.killWord x w q m sel = j) :
    (j.tile x).lk.killed w u = (k.tile x).lk.killed w u ||| m ∧
    (j.tile x).cfgNow = (k.tile x).cfgNow ∧ j.sharers x = k.sharers x ∧
    (w < 4 → (j.tile x).lk.out w = ((k.tile x).lk.out w).map (fun e =>
      { e with tok := clearUnit ((k.tile x).lk.units.get w 0) u (j.killMask x w u) e.tok })) := by
  obtain ⟨low, hstep⟩ := Cluster.killWord_wordView m sel h
  rw [hj] at hstep
  obtain ⟨hkills, hregs⟩ := Prod.ext_iff.1 hstep
  have hview := hkills.trans (foldl_keeps (Cluster.wordKills · x) _ (Cluster.clearRegister_wordKills x u _) _ _)
  obtain ⟨ha, hf, hm⟩ := Cluster.wordKills_eq hview
  have hfg := hf.trans (k.rememberAt_fg x low w u m)
  refine ⟨?_, congrArg (fun o : Option TileCfg => o.getD {}) hfg, Cluster.sharers_congr ha hfg, fun hw4 => ?_⟩
  · rw [hm w u hw, k.rememberAt_lk]
    exact Links.killed_rememberFrom_same ..
  · rw [Cluster.killMask_congr u hview hw, Cluster.out_of_registers hregs hw4,
      Cluster.clearRegisters_out x u _ _ _ (Cluster.nodup_registerSharers ..) (Cluster.self_mem_registerSharers _ x hw4),
      k.rememberAt_lk]
    rfl

/-- What a kill that acts at output 0 of an AG leaves there (R109). -/
theorem Cluster.killAg_remembers {k : Cluster} {a q u : Nat} (m : BitVec 16)
    (h : killUnit ((k.ag a).lk.outUnit 0) q = some u) :
    ((k.killAg a 0 q m).ag a).lk.killed 8 u = (k.ag a).lk.killed 8 u ||| m := by
  have hset : ∀ g : Ag, (k.setAg a g).ag a = g := fun g => Tab.get_put_same ..
  simp only [Cluster.killAg, h, bne_self_eq_false, Bool.false_eq_true, if_false, hset]
  exact Links.killed_rememberFrom_same ..

/-! ### The kills under way -/

theorem length_dropIdx {α : Type} : ∀ (l : List α) (n : Nat), n < l.length → (dropIdx l n).length + 1 = l.length
  | [], _, h => nomatch h
  | _ :: _, 0, _ => rfl
  | _ :: t, n + 1, h => congrArg (· + 1) (length_dropIdx t n (Nat.lt_of_succ_lt_succ h))

theorem exec_killPropagate_none {s : State} {n : Nat} (h : (s.cl s.here).wires[n]? = none) :
    exec (.killPropagate n) s = .next s := by
  change execKillPropagate n s = _
  simp only [execKillPropagate, h]

theorem exec_killPropagate_early {s : State} {n : Nat} {m : KillMsg} (h : (s.cl s.here).wires[n]? = some m)
    (hcfg : (s.cl s.here).holderCfg m.unit < m.cfg) : exec (.killPropagate n) s = .next s := by
  change execKillPropagate n s = _
  simp only [execKillPropagate, h, if_pos hcfg]

/-- The kill numbered `n` has left its wire. -/
def Cluster.withoutWire (k : Cluster) (n : Nat) : Cluster := { k with wires := dropIdx k.wires n }

/-- A kill for a stream that its holder has adopted leaves the wire, and acts there. -/
theorem exec_killPropagate_due {s : State} {n : Nat} {m : KillMsg} (h : (s.cl s.here).wires[n]? = some m)
    (hcfg : m.cfg ≤ (s.cl s.here).holderCfg m.unit) :
    exec (.killPropagate n) s = .next (s.setCl s.here (((s.cl s.here).withoutWire n).deliverKill m)) := by
  change execKillPropagate n s = _
  simp only [execKillPropagate, h, if_neg (Nat.not_lt.2 hcfg)]
  rfl

theorem Cluster.deliverKill_replaced {k : Cluster} {m : KillMsg} (h : m.cfg < k.holderCfg m.unit) : k.deliverKill m = k :=
  if_pos h

theorem Cluster.deliverKill_word {k : Cluster} {m : KillMsg} (h : m.cfg = k.holderCfg m.unit) (hu : m.unit < 256) :
    k.deliverKill m = k.killWord m.unit m.port m.kseq m.mask (k.tile m.unit).killSel :=
  (if_neg (Nat.not_lt.2 h.ge)).trans (if_pos hu)

theorem Cluster.deliverKill_ag {k : Cluster} {m : KillMsg} (h : m.cfg = k.holderCfg m.unit) (hu : 256 ≤ m.unit) :
    k.deliverKill m = k.killAg (m.unit - 256) m.port m.kseq m.mask :=
  (if_neg (Nat.not_lt.2 h.ge)).trans (if_neg (Nat.not_lt.2 hu))

end Sys2Proof.Machine

namespace Sys2Proof
open Machine

/-- A step that lets a due kill act leaves memory, and what the kill leaves of its cluster. -/
theorem leaves_killPropagate {s : State} {n : Nat} {m : KillMsg} {p : State → Prop} (h : (s.cl s.here).wires[n]? = some m)
    (hcfg : m.cfg ≤ (s.cl s.here).holderCfg m.unit)
    (hp : ∀ u, u.cl s.here = ((s.cl s.here).withoutWire n).deliverKill m → u.mem = s.mem → p u) :
    leaves (.killPropagate n) s p :=
  ⟨_, exec_killPropagate_due h hcfg, hp _ (State.cl_setCl_same ..) rfl⟩

/-- Settles O38: a switch word's turn is a hand-over and a take (`State.handOver_takeWord`, `State.takeWord_register`,
`State.takeWord_slot`), and a kill acts once at the holder of its sending end (`Cluster.killWord_leaves`,
`Cluster.killAg_remembers`). -/
theorem fabricSwitching : Obligations.FabricSwitching := by
  unfold Obligations.FabricSwitching
  refine ⟨fun s w => ?switch, fun s n => ?kill⟩
  case switch =>
    intro c x k t n sw tile key
    refine ⟨fun h => congrArg Host.Outcome.next (State.switchForward_idle n h), fun hz hfg hcns => ?_⟩
    have hturn : exec (.switchForward w) s = .next ((if n < 4 then (s.setCl c k).handOver c x n else s.setCl c k).takeWord c x n) :=
      congrArg Host.Outcome.next (State.switchForward_active n hz hfg)
    have hk : (s.setCl c k).cl c = k := State.cl_setCl_same ..
    refine ⟨fun tok fids hn hempty hsrc hhead htok => ⟨_, hturn, ?_⟩,
      fun e r y i hn hout hfids hhead hrecv hrun hroom hvc => ⟨_, hturn, ?_⟩,
      fun tok hn hsrc hhead htok hroom => ⟨_, hturn, ?_⟩⟩
    · rw [if_pos hn, State.handOver_empty (hk.symm ▸ hempty)]
      exact State.takeWord_register hk rfl hn hsrc hempty hcns htok hhead
    · rw [if_pos hn]
      exact State.handOver_takeWord hk rfl rfl hn hout hfids hhead hrecv hrun hroom hvc
    · rw [if_neg (Nat.not_lt.2 hn)]
      obtain ⟨-, -, hkeep⟩ := k.took_keeps x n tok
      have hbuf := State.takeWord_slot hk rfl hn hcns htok hhead hroom
      refine ⟨?_, fun v e r honly hv hb hone => ?_⟩
      · refine (congrFun hbuf (key n)).trans ((Links.buf_setBuf_same ..).trans ?_)
        rw [hkeep (key n) (by simp only [key]; omega)]
      · have hv4 := Links.nextVc_lt hv
        exact (congrFun hbuf _).trans ((Links.buf_setBuf_other _ _ (by simp only [sw] at hsrc ⊢; omega)).trans
          (Cluster.took_pops tok rfl rfl hsrc honly hv hb hone))
  case kill =>
    intro c k t a
    have hlen : ∀ {m}, k.wires[n]? = some m → (dropIdx k.wires n).length + 1 = k.wires.length := fun hm =>
      length_dropIdx _ _ (List.getElem?_eq_some_iff.1 hm).1
    refine ⟨exec_killPropagate_none, fun m hm hcfg => exec_killPropagate_early hm hcfg,
      fun m hm hcfg => leaves_killPropagate hm hcfg.le fun u hcl _ => ?replaced, fun m hm hcfg =>
        ⟨fun v hu hv hp => leaves_killPropagate hm hcfg.le fun u hcl hmem => ?word,
          fun v hu hp hv => leaves_killPropagate hm hcfg.le fun u hcl hmem => ?ag,
          fun hu hv => leaves_killPropagate hm hcfg.le fun u hcl _ => ?left⟩⟩
    case replaced =>
      rw [hcl.trans (Cluster.deliverKill_replaced hcfg)]
      exact ⟨rfl, rfl, hlen hm⟩
    case word =>
      obtain ⟨hkilled, hcfgu, hshare, hout⟩ := Cluster.killWord_leaves (k := k.withoutWire n) hv hp
        ((Cluster.deliverKill_word (k := k.withoutWire n) hcfg hu).symm.trans hcl.symm)
      refine ⟨hkilled, fun l hl hsrc => ?_, hout, hmem⟩
      rw [Cluster.getLsbD_killMask (by rw [hcfgu]; exact hsrc) hl, hshare]
      rfl
    case ag =>
      have hag := Cluster.killAg_remembers (k := k.withoutWire n) m.mask hv
      rw [← hp, ← Cluster.deliverKill_ag (k := k.withoutWire n) hcfg hu, ← hcl] at hag
      exact ⟨hag, hmem⟩
    case left =>
      rw [hcl.trans ((Cluster.deliverKill_word (k := k.withoutWire n) hcfg hu).trans (Cluster.killWord_of_left _ _ hv))]
      exact ⟨rfl, hlen hm⟩

end Sys2Proof
end

section
/-! SUPPORT. Tokens that a firing makes (R94, R104), the links that it leaves (R98, R106, R110), and the firing of a tile's unit
that is free to send: the rules of word-mode PEs that all their operations share. -/

namespace Sys2Proof.Machine

/-! ### Lanes and masks -/

/-- A sum of bits at their places is below the next place, and has those bits. -/
theorem sum_b2n_testBit (p : Nat → Bool) (n : Nat) :
    ((List.range n).map (fun i => b2n (p i) * 2 ^ i)).sum < 2 ^ n ∧
      ∀ l, l < n → ((List.range n).map (fun i => b2n (p i) * 2 ^ i)).sum.testBit l = p l := by
  induction n with
  | zero => exact ⟨Nat.one_pos, fun l h => nomatch h⟩
  | succ n ih =>
    obtain ⟨hlt, hbit⟩ := ih
    have hb : b2n (p n) ≤ 1 := by cases p n <;> decide
    rw [List.range_succ, List.map_append, List.sum_append, List.map_singleton, List.sum_singleton, Nat.add_comm,
      Nat.mul_comm]
    have hnew := Nat.mul_le_mul_left (2 ^ n) hb
    refine ⟨by rw [Nat.pow_succ]; linarith, fun l hl => ?_⟩
    rw [Nat.testBit_two_pow_mul_add _ hlt]
    split
    · next h => exact hbit l h
    · next h =>
      obtain rfl : l = n := by omega
      rw [Nat.sub_self]
      cases p l <;> rfl

theorem getLsbD_maskOf (p : Nat → Bool) {l : Nat} (h : l < 16) : (maskOf p).getLsbD l = p l := by
  rw [maskOf, BitVec.getLsbD_ofNat, decide_eq_true h, Bool.true_and]
  exact (sum_b2n_testBit p 16).2 l h

theorem laneAt_lanesOf (f : Nat → Nat) {i : Nat} (h : i < 16) : laneAt (lanesOf f) i = f i % 2 ^ 32 := by
  simp [laneAt, lanesOf, h]

theorem lanesOf_congr {f g : Nat → Nat} (h : ∀ i, i < 16 → f i = g i) : lanesOf f = lanesOf g :=
  List.map_congr_left fun i hi => by rw [h i (List.mem_range.1 hi)]

@[simp] theorem length_lanesOf (f : Nat → Nat) : (lanesOf f).length = 16 := by
  rw [lanesOf, List.length_map, List.length_range]

theorem getD_map_range {α : Type} (f : Nat → α) {n i : Nat} (d : α) (h : i < n) :
    ((List.range n).map f).getD i d = f i := by
  simp [h]

theorem Token.lane_lt (t : Token) (i : Nat) : t.lane i < 2 ^ 32 := BitVec.isLt _

/-- Only the lanes that are valid and not poisoned are read (R94). -/
theorem tokensOf_congr {tag : Nat} {v bad : BitVec 16} {f g : Nat → Nat} (m : Mk)
    (h : ∀ i, i < 16 → v.getLsbD i = true → bad.getLsbD i = false → f i = g i) : tokensOf tag v bad f m = tokensOf tag v bad g m := by
  have hls : lanesOf (fun i => if (v ||| bad).getLsbD i && !bad.getLsbD i then f i else 0) =
      lanesOf (fun i => if (v ||| bad).getLsbD i && !bad.getLsbD i then g i else 0) := by
    refine lanesOf_congr fun i hi => ?_
    split
    · next hlive =>
      rw [BitVec.getLsbD_or] at hlive
      obtain ⟨hv, hbad⟩ := (Bool.and_eq_true _ _).mp hlive
      rw [Bool.not_eq_true'] at hbad
      exact h i hi (by rwa [hbad, Bool.or_false] at hv) hbad
    · rfl
  simp only [tokensOf, hls]

theorem tokensOf_ne_nil (tag : Nat) (v bad : BitVec 16) (f : Nat → Nat) (m : Mk) : tokensOf tag v bad f m ≠ [] := by
  unfold tokensOf
  dsimp only
  split
  · exact List.cons_ne_nil _ _
  · exact List.cons_ne_nil _ _

/-! ### Tokens as a firing makes them -/

/-- A token that no link has stamped yet: sixteen lanes, not counted, in no kill unit, descended from nothing. -/
structure Token.Fresh (t : Token) : Prop where
  lanes : t.lanes.length = 16
  cns : t.cns = false
  plain : plainTok t = t

theorem markerToken_fresh (m : Mk) : (markerToken m).Fresh := ⟨rfl, rfl, rfl⟩

theorem orderToken_fresh (m : Mk) : (orderToken m).Fresh := ⟨rfl, rfl, rfl⟩

theorem tokensOf_fresh (tag : Nat) (v bad : BitVec 16) (f : Nat → Nat) (m : Mk) : ∀ t ∈ tokensOf tag v bad f m, t.Fresh := by
  unfold tokensOf
  dsimp only
  split
  · refine List.forall_mem_cons.2 ⟨⟨length_lanesOf _, rfl, rfl⟩, fun t ht => ?_⟩
    split at ht
    · exact List.mem_singleton.1 ht ▸ markerToken_fresh m
    · cases ht
  · exact List.forall_mem_singleton.2 ⟨length_lanesOf _, rfl, rfl⟩

theorem and_not_zero (v : BitVec 16) : v &&& ~~~0 = v := BitVec.and_allOnes

theorem Token.clear_zero {t : Token} (h : t.lanes.length = 16) : t.clear 0 = t := by
  have hl : (List.range 16).map (fun i => if (0 : BitVec 16).getLsbD i then (0 : Word32) else t.lanes.getD i 0) = t.lanes := by
    refine List.ext_getElem (by simp [h]) fun i _ hi => ?_
    simp [hi]
  simp only [Token.clear, hl, and_not_zero]

/-- What a link stamps on a fresh token, its receiver does not compute with. -/
theorem Token.Fresh.plain_stamped {t : Token} (h : t.Fresh) (n : Nat) (last : Bool) (pr : Nat) :
    plainTok { t.clear 0 with nseq := n, cns := false, last := last, prov := pr } = t := by
  rw [Token.clear_zero h.lanes]
  have hp := h.plain
  have hc := h.cns
  obtain ⟨⟩ := t
  cases hc
  exact hp

/-! ### Sending -/

theorem Links.killed_of_no_kills {k : Links} (h : k.kills = []) (port u : Nat) : k.killed port u = 0 := by
  rw [Links.killed, h]
  rfl

/-- A token sent where no kill waits stands at the end of its register, under a number of its own. -/
theorem Links.sendAs_leaves {k : Links} (o : Nat) (last : Bool) {t : Token} (hk : k.kills = []) (ht : t.Fresh) :
    (∃ tok, (k.sendAs o last t).out (4 + o) = k.out (4 + o) ++ [{ tok := tok, fids := [k.nextId] }] ∧ plainTok tok = t) ∧
      (∀ q, q ≠ 4 + o → (k.sendAs o last t).out q = k.out q) ∧ (k.sendAs o last t).kills = [] ∧
      k.nextId ≤ (k.sendAs o last t).nextId := by
  refine ⟨⟨_, Links.out_setOut_same .., ?_⟩, fun q hq => Links.out_setOut_other _ _ hq, hk, Nat.le_succ _⟩
  rw [Links.killed_of_no_kills hk]
  exact ht.plain_stamped ..

/-- Tokens of a firing leave in their order where no kill waits (R98, R106). -/
theorem Links.sendWords_leaves (o : Nat) (ts : List Token) (k : Links) (hk : k.kills = []) (hts : ∀ t ∈ ts, t.Fresh) :
    (∃ es : List OutTok, (k.sendWords o ts).out (4 + o) = k.out (4 + o) ++ es ∧ es.map (fun e => plainTok e.tok) = ts ∧
        ∀ e ∈ es, ∃ i ∈ e.fids, k.nextId ≤ i) ∧
      (∀ q, q ≠ 4 + o → (k.sendWords o ts).out q = k.out q) ∧ (k.sendWords o ts).kills = [] ∧
      k.nextId ≤ (k.sendWords o ts).nextId := by
  induction ts generalizing k with
  | nil => exact ⟨⟨[], (List.append_nil _).symm, rfl, nofun⟩, fun _ _ => rfl, hk, Nat.le_refl _⟩
  | cons t ts ih =>
    obtain ⟨ht, hts⟩ := List.forall_mem_cons.1 hts
    obtain ⟨⟨tok, hout, hplain⟩, hother, hkills, hid⟩ := Links.sendAs_leaves o t.mark.any hk ht
    obtain ⟨⟨es, hout', hes, hfids⟩, hother', hkills', hid'⟩ := ih (k.sendAs o t.mark.any t) hkills hts
    refine ⟨⟨{ tok := tok, fids := [k.nextId] } :: es, ?_, ?_, ?_⟩, fun q hq => (hother' q hq).trans (hother q hq), hkills',
      hid.trans hid'⟩
    · exact hout'.trans (by rw [hout, List.append_assoc, List.singleton_append])
    · rw [List.map_cons, hes, hplain]
    · refine List.forall_mem_cons.2 ⟨⟨_, List.mem_singleton_self _, Nat.le_refl _⟩, fun e he => ?_⟩
      obtain ⟨i, hi, hle⟩ := hfids e he
      exact ⟨i, hi, hid.trans hle⟩

theorem Links.popSlot_keeps {k j : Links} {i cfg : Nat} {t : Token} (h : k.popSlot i cfg = some (t, j)) :
    (j.outs, j.kills) = (k.outs, k.kills) := by
  have hdrop : ∀ q, ((k.dropOne q).outs, (k.dropOne q).kills) = (k.outs, k.kills) := fun q => by
    unfold Links.dropOne
    split
    · rfl
    · split
      · rfl
      · rfl
  unfold Links.popSlot at h
  split at h
  · cases h
    exact hdrop _
  · cases h

theorem Links.popSlots_keeps (k : Links) (cfg : Nat) (ss : List Nat) :
    ((k.popSlots cfg ss).outs, (k.popSlots cfg ss).kills) = (k.outs, k.kills) :=
  foldl_keeps (fun k : Links => (k.outs, k.kills)) _ (fun k i => by
    split
    · next h => exact Links.popSlot_keeps h
    · rfl) _ _

/-- Copies that a switch word is still to take hold the firing back, which then lets no census fall (R110). -/
theorem Links.fired_of_taken {k : Links} {words : Nat → List Nat} {id0 o : Nat} (held : Nat) (ho : o < 2) (hw : words o ≠ [])
    (he : ∃ e ∈ k.out (4 + o), ∃ i ∈ e.fids, id0 ≤ i) : (k.fired words id0 held).1 = 0 := by
  obtain ⟨e, he, i, hi, hle⟩ := he
  obtain ⟨w, hw⟩ := List.exists_mem_of_ne_nil _ hw
  have hid : copyId i w ∈ [0, 1].flatMap (fun o => (k.out (4 + o)).flatMap (fun e =>
      (e.fids.filter (fun i => decide (id0 ≤ i))).flatMap (fun i => (words o).map (copyId i)))) := by
    simp only [List.mem_flatMap, List.mem_filter, List.mem_map]
    exact ⟨o, by simp only [List.mem_cons, List.not_mem_nil]; omega, e, he, i, ⟨hi, decide_eq_true hle⟩, w, hw, rfl⟩
  unfold Links.fired
  dsimp only
  rw [if_neg (by rw [List.isEmpty_iff]; exact List.ne_nil_of_mem hid)]

theorem Links.fired_outs (k : Links) (words : Nat → List Nat) (id0 held : Nat) : (k.fired words id0 held).2.outs = k.outs := by
  unfold Links.fired
  dsimp only
  split
  · rfl
  · rfl

theorem TileCfg.takers_ne_nil {g : TileCfg} {o : Nat} (h : g.heard o = true) : g.takers o ≠ [] := by
  obtain ⟨w, hw, ho⟩ := List.any_eq_true.1 h
  exact List.ne_nil_of_mem (List.mem_filter.2 ⟨hw, ho⟩)

theorem Links.unheard_of_heard (k : Links) {g : TileCfg} {o : Nat} (h : g.heard o = true) : k.unheard g o = k := if_pos h

theorem Links.out_unheard_other (k : Links) (g : TileCfg) {o q : Nat} (h : q ≠ 4 + o) : (k.unheard g o).out q = k.out q := by
  unfold Links.unheard
  split
  · rfl
  · exact Links.out_setOut_other _ _ h

/-! ### A firing's links -/

/-- The census fall of a word-mode firing, and the links after it (R98, R110). -/
def Links.afterFire (k : Links) (g : TileCfg) (f : FireOut) : Nat × Links :=
  let lk := k.popSlots g.cfg f.pops
  let sent := (lk.sendWords 0 f.out0).sendWords 1 f.out1
  let held := f.op.holds
  let r :=
    if !(f.out0.isEmpty && f.out1.isEmpty) then sent.fired g.takers lk.nextId held
    else if f.keep && !false then (0, sent)
    else (sent.kept - held, { sent with kept := held })
  (r.1, (r.2.unheard g 0).unheard g 1)

section
variable {k : Links} {g : TileCfg} {f : FireOut} (hk : k.kills = []) (h0 : g.heard 0 = true) (ho0 : k.out 4 = [])
  (ho1 : k.out 5 = []) (hf0 : ∀ t ∈ f.out0, t.Fresh) (hf1 : ∀ t ∈ f.out1, t.Fresh)
include hk h0 ho0 ho1 hf0 hf1

/-- Both outputs hold what the firing sends, where some switch word takes them. -/
theorem Links.afterFire_out : ((k.afterFire g f).2.out 4).map (fun e => plainTok e.tok) = f.out0 ∧
    (g.heard 1 = true → ((k.afterFire g f).2.out 5).map (fun e => plainTok e.tok) = f.out1) ∧
    (f.out0 ≠ [] ∨ (g.heard 1 = true ∧ f.out1 ≠ []) → (k.afterFire g f).1 = 0) := by
  obtain ⟨hpo, hpk⟩ := Prod.ext_iff.1 (k.popSlots_keeps g.cfg f.pops)
  unfold Links.afterFire
  dsimp only at hpo hpk ⊢
  generalize hp : k.popSlots g.cfg f.pops = p at hpo hpk ⊢
  have hpout : ∀ q, p.out q = k.out q := fun q => congrArg (Tab.get · q []) hpo
  obtain ⟨⟨es, hout, hes, hfids⟩, hother, hkills, hid⟩ := p.sendWords_leaves 0 f.out0 (hpk.trans hk) hf0
  generalize p.sendWords 0 f.out0 = a at hout hother hkills hid ⊢
  obtain ⟨⟨fs, hout', hfs, hfids'⟩, hother', -, -⟩ := a.sendWords_leaves 1 f.out1 hkills hf1
  generalize a.sendWords 1 f.out1 = b at hout' hother' ⊢
  have h4 : b.out 4 = es := by rw [hother' 4 (by decide), hout, hpout, ho0, List.nil_append]
  have h5 : b.out 5 = fs := by rw [hout', hother 5 (by decide), hpout, ho1, List.nil_append]
  generalize hr : (if !(f.out0.isEmpty && f.out1.isEmpty) then b.fired g.takers p.nextId f.op.holds
    else if f.keep && !false then (0, b) else (b.kept - f.op.holds, { b with kept := f.op.holds }) : Nat × Links) = r
  have hrout : ∀ q, r.2.out q = b.out q := by
    have houts : r.2.outs = b.outs := by
      rw [← hr]
      split
      · exact Links.fired_outs ..
      · split
        · rfl
        · rfl
    exact fun q => congrArg (Tab.get · q []) houts
  rw [Links.unheard_of_heard _ h0]
  refine ⟨?_, fun h1 => ?_, fun hsent => ?_⟩
  · rw [Links.out_unheard_other _ _ (by decide), hrout, h4, hes]
  · rw [Links.unheard_of_heard _ h1, hrout, h5, hfs]
  · have hne : (!(f.out0.isEmpty && f.out1.isEmpty)) = true := by
      obtain h | ⟨-, h⟩ := hsent <;> simp [h]
    rw [← hr, if_pos hne]
    have hmem : ∀ {ts : List Token} {es : List OutTok}, es.map (fun e => plainTok e.tok) = ts → ts ≠ [] → ∃ e, e ∈ es :=
      fun he hts => List.exists_mem_of_ne_nil _ fun hnil => hts (by rw [← he, hnil]; rfl)
    obtain h | ⟨h1, h⟩ := hsent
    · obtain ⟨e, he⟩ := hmem hes h
      exact Links.fired_of_taken _ (o := 0) (by decide) (TileCfg.takers_ne_nil h0) ⟨e, h4.symm ▸ he, hfids e he⟩
    · obtain ⟨e, he⟩ := hmem hfs h
      obtain ⟨i, hi, hle⟩ := hfids' e he
      exact Links.fired_of_taken _ (o := 1) (by decide) (TileCfg.takers_ne_nil h1) ⟨e, h5.symm ▸ he, i, hi, hid.trans hle⟩

end

/-! ### The end of a residency, as one of its tiles sees it -/

theorem Cluster.vacate_out_nil {k : Cluster} {x o : Nat} (r : Nat) (h : (k.tile x).lk.out o = []) :
    ((k.vacate r).tile x).lk.out o = [] := by
  have hclear : ∀ k : Cluster, (k.tile x).lk.out o = [] → ∀ t, ((k.setTile t (k.tile t).cleared).tile x).lk.out o = [] := by
    intro k hk t
    by_cases ht : x = t
    · subst ht
      rw [Cluster.tile_setTile_same]
      rfl
    · rw [Cluster.tile_setTile_other _ _ ht]
      exact hk
  have hpages : (((k.resident r).pages.foldl (fun k p =>
      (tilesOfPage p).foldl (fun k t => k.setTile t (k.tile t).cleared) k) k).tile x).lk.out o = [] :=
    List.foldlRecOn (motive := fun k : Cluster => (k.tile x).lk.out o = []) _ _ h fun k hk p _ =>
      List.foldlRecOn (motive := fun k : Cluster => (k.tile x).lk.out o = []) _ _ hk fun k hk t _ => hclear k hk t
  have hags := foldl_keeps (fun k => Cluster.tile k x) (fun k a => k.setAg a (k.ag a).cleared) (fun _ _ => rfl)
    (k.resident r).ags
  have hisles := foldl_keeps (fun k => Cluster.tile k x) (fun k i => k.setMat i (k.mat i).cleared) (fun _ _ => rfl)
    (k.resident r).islands
  exact (congrArg (fun t : Tile => t.lk.out o) ((hisles _).trans (hags _))).trans hpages

theorem tile_of_fabric {s t : State} (h : t.fabric = s.fabric) (c x : Nat) : (t.cl c).tile x = (s.cl c).tile x :=
  (congrArg (Cluster.tile · x) (cl_of_fabric h c) :)

theorem State.endResid_out_nil {s : State} {c x o : Nat} (r : Nat) (quiet : Bool) (h : ((s.cl c).tile x).lk.out o = []) :
    (((s.endResid c r quiet).cl c).tile x).lk.out o = [] := by
  unfold State.endResid
  dsimp only
  split
  · exact h
  · generalize hw : State.setCl _ c _ = w
    have hwx : ((w.cl c).tile x).lk.out o = [] := by
      rw [← hw, State.cl_setCl_same]
      exact Cluster.vacate_out_nil r (by rw [tile_of_fabric (State.performAgs_fabric ..)]; exact h)
    have hf : ∀ t : State, t.fabric = w.fabric → ((t.cl c).tile x).lk.out o = [] := fun t ht => by
      rw [tile_of_fabric ht]
      exact hwx
    split
    · cases ((s.cl c).resident r).gang with
      | none => exact hf _ (State.post_fabric ..)
      | some g => exact hf _ ((State.post_fabric ..).trans (State.setMember_fabric ..))
    · cases ((s.cl c).resident r).gang with
      | none => exact hf _ rfl
      | some g => exact hf _ (State.setMember_fabric ..)

/-- Whatever the census falls to, an empty output register stays empty. -/
theorem State.censusFall_out_nil {s : State} {c x o : Nat} (r : Option Nat) (n : Nat) (h : ((s.cl c).tile x).lk.out o = []) :
    (s.censusFall c r n).actor = s.actor ∧ (((s.censusFall c r n).cl c).tile x).lk.out o = [] := by
  cases r with
  | none => exact ⟨rfl, h⟩
  | some r =>
    have hset : ∀ y, (((s.setCl c ((s.cl c).setResident r y)).cl c).tile x).lk.out o = [] := fun y => by
      rw [State.cl_setCl_same]
      exact h
    unfold State.censusFall
    dsimp only
    split
    · exact ⟨(State.endResid_core _ c r false 0).1, State.endResid_out_nil r false (hset _)⟩
    · exact ⟨rfl, hset _⟩

/-! ### A firing of a free unit -/

/-- A firing of one cycle that drives no kill, raises no machine check and leaves the MT contents `mt`. -/
structure FireOut.Quiet (f : FireOut) (mt : Tab Nat) : Prop where
  kills : f.kills = []
  checks : f.checks = []
  cycles : f.cycles = 1
  mt : f.mt = mt

/-- A quiet firing with tokens of its own making. -/
structure FireOut.Plain (f : FireOut) (mt : Tab Nat) : Prop extends f.Quiet mt where
  out0 : ∀ t ∈ f.out0, t.Fresh
  out1 : ∀ t ∈ f.out1, t.Fresh

theorem tileHere_of_actor {s u : State} (h : u.actor = s.actor) :
    tileHere u = (u.cl s.here).tile (s.actor.unit % 256) := by
  unfold tileHere State.here
  rw [h]

/-- The tile after a word-mode firing. -/
def Tile.afterFire (t : Tile) (f : FireOut) : Tile :=
  { t with lk := (t.lk.afterFire t.cfgNow f).2, flags := t.flags ||| f.flags, op := f.op, fidx := (t.fidx + 1) % 2 ^ 32, mt := f.mt,
           queues := f.queues }

section
variable {s : State} {f : FireOut} (hs : unitFree s) (hf : f.Plain (tileHere s).mt)
include hs hf

/-- A plain firing of a free unit changes its cluster's power, its tile and the census. -/
theorem State.applyFire_eq : ∃ (k : Cluster) (r : Option Nat), s.applyFire s.here (s.actor.unit % 256) 1 false f =
    (s.setCl s.here (k.setTile (s.actor.unit % 256) ((tileHere s).afterFire f))).censusFall s.here r
      ((tileHere s).lk.afterFire (tileHere s).cfgNow f).1 := by
  obtain ⟨-, -, -, -, -, hpow⟩ := hs
  have hdraw := State.drawPower_of_le (1 * f.cycles) hpow
  generalize hk : Cluster.mk .. = k at hdraw
  have hktile : k.tile (s.actor.unit % 256) = tileHere s := hk ▸ rfl
  refine ⟨k, (k.setTile (s.actor.unit % 256) ((tileHere s).afterFire f)).tileOwner (s.actor.unit % 256), ?_⟩
  unfold State.applyFire
  rw [hdraw]
  simp only [hf.kills, hf.checks, List.foldl_nil, State.cl_setCl_same, hktile, State.setCl_setCl]
  rfl

/-- A firing that sends what some switch word takes leaves its tokens in the registers, and lets no census fall. -/
theorem State.applyFire_sends (hsent : f.out0 ≠ [] ∨ ((tileHere s).cfgNow.heard 1 = true ∧ f.out1 ≠ [])) {u : State}
    (hu : s.applyFire s.here (s.actor.unit % 256) 1 false f = u) :
    u.here = s.here ∧ outToks u 0 = f.out0 ∧ ((tileHere s).cfgNow.heard 1 = true → outToks u 1 = f.out1) ∧
      (tileHere u).fidx = ((tileHere s).fidx + 1) % 2 ^ 32 ∧ (tileHere u).mt = (tileHere s).mt ∧
      (tileHere u).fg = (tileHere s).fg ∧ u.mem = s.mem := by
  obtain ⟨k, r, hstep⟩ := State.applyFire_eq hs hf
  obtain ⟨-, hroom0, hroom1, hkills, hheard, -⟩ := hs
  obtain ⟨hout0, hout1, hfall⟩ := Links.afterFire_out (f := f) hkills hheard (List.isEmpty_iff.1 hroom0)
    (List.isEmpty_iff.1 hroom1) hf.out0 hf.out1
  rw [hfall hsent, hu] at hstep
  generalize ht : (tileHere s).afterFire f = t at hstep
  obtain ⟨hactor, hmem, ⟨rs, hcl⟩, -⟩ :=
    (s.setCl s.here (k.setTile (s.actor.unit % 256) t)).censusFall_zero s.here r
  rw [← hstep] at hactor hmem hcl
  have htile : tileHere u = t := by
    rw [tileHere_of_actor hactor]
    refine (congrArg (Cluster.tile · (s.actor.unit % 256)) hcl :).trans ?_
    rw [State.cl_setCl_same]
    exact Cluster.tile_setTile_same ..
  have hofs : ∀ o, outToks u o = (t.lk.out (4 + o)).map (fun e => plainTok e.tok) := fun o => by rw [outToks, htile]
  subst ht
  rw [hofs, hofs, htile]
  exact ⟨congrArg Actor.cl hactor, hout0, hout1, rfl, hf.mt, rfl, hmem⟩

/-- A firing that sends nothing leaves output 0 empty, even where the residency ends with it. -/
theorem State.applyFire_silent (h0 : f.out0 = []) :
    outToks (s.applyFire s.here (s.actor.unit % 256) 1 false f) 0 = [] := by
  obtain ⟨k, r, hstep⟩ := State.applyFire_eq hs hf
  obtain ⟨-, hroom0, hroom1, hkills, hheard, -⟩ := hs
  obtain ⟨hout0, -, -⟩ := Links.afterFire_out (f := f) hkills hheard (List.isEmpty_iff.1 hroom0)
    (List.isEmpty_iff.1 hroom1) hf.out0 hf.out1
  rw [hstep]
  have hnil : (((s.setCl s.here (k.setTile (s.actor.unit % 256) ((tileHere s).afterFire f))).cl s.here).tile
      (s.actor.unit % 256)).lk.out 4 = [] := by
    rw [State.cl_setCl_same, Cluster.tile_setTile_same]
    exact List.map_eq_nil_iff.1 (hout0.trans h0)
  obtain ⟨hactor, hout⟩ := State.censusFall_out_nil r ((tileHere s).lk.afterFire (tileHere s).cfgNow f).1 hnil
  rw [outToks, tileHere_of_actor hactor]
  exact List.map_eq_nil_iff.2 hout

end

end Sys2Proof.Machine
end

section
/-! SUPPORT. The turn of a word-mode PE whose slots hold what its operation asks for (R211). -/

namespace Sys2Proof.Machine

/-! ### Firing (R211) -/

/-- A firing uses the slots A to P alone. -/
def PeForm.InSlots (m : PeForm) : Prop := (∀ i ∈ m.used, i < 4) ∧ ∀ i, m.star = some i → i < 4

theorem Pe.slots_lt {p : Pe} {i : Nat} (h : i ∈ p.slots) : i < 4 := List.mem_range.1 (List.mem_filter.1 h).1

theorem Pe.input_other {p : Pe} {m : PeForm} {i : Nat} (hm : m.InSlots) (hi : 4 ≤ i) : p.input m i = ({}, 0) := by
  have hused : m.used.contains i = false := by
    rw [List.contains_eq_mem, decide_eq_false fun h => Nat.not_lt.2 hi (hm.1 i h)]
  have hstar : m.star ≠ some i := fun h => Nat.not_lt.2 hi (hm.2 i h)
  rw [Pe.input, hused, if_neg Bool.false_ne_true, if_neg hstar]

/-- A unit that may send has no killed lanes at its output. -/
theorem outKilled_of_free {s : State} {f : PeF} (h : unitFree s) : (peHere s f).outKilled = 0 := by
  obtain ⟨-, -, -, hkills, -, -⟩ := h
  exact Links.killed_of_no_kills hkills ..

theorem free_of_fires {s : State} {f : PeF} {m : PeForm} (h : peFires s f m) : unitFree s := h.1.1

theorem used_of_fires {s : State} {f : PeF} {m : PeForm} (h : peFires s f m) : m.used ≠ [] := h.2.1

theorem outKilled_of_fires {s : State} {f : PeF} {m : PeForm} (h : peFires s f m) : (peHere s f).outKilled = 0 :=
  outKilled_of_free (free_of_fires h)

/-- The firing's operands, slot by slot. -/
theorem operands_eq_peTok {s : State} {f : PeF} {m : PeForm} (hm : m.InSlots) :
    (fun i => (((List.range 4).map ((peHere s f).input m)).getD i ({}, 0)).1) = peTok s f m := by
  funext i
  by_cases hi : i < 4
  · rw [getD_map_range _ _ hi]
    rfl
  · rw [peTok, Pe.input_other hm (Nat.not_lt.1 hi), List.getD_eq_default _ _ (by simpa using hi)]

/-- A PE whose slots hold what its form asks for fires: what its turn applies is the body's result on its operands but
for the slots that it pops, its operation state and its flags. -/
theorem State.runPe_fires {s : State} {f : PeF} {m : PeForm} {form : Pe → PeForm} {perLane : Bool}
    (body : Pe → (Nat → Token) → FireOut) (last : Pe → (Nat → Token) → Bool) (stay : Pe → Bool) (h : peFires s f m)
    (hslots : (peHere s f).slots ≠ []) (hm : m.InSlots) (hform : form (peHere s f) = { m with perLane := perLane }) :
    ∃ fo : FireOut, s.runPe f form body last stay = s.applyFire s.here (s.actor.unit % 256) 1 false fo ∧
      fo.out0 = (body (peHere s f) (peTok s f m)).out0 ∧ fo.out1 = (body (peHere s f) (peTok s f m)).out1 ∧
      ∀ mt, (body (peHere s f) (peTok s f m)).Plain mt → fo.Plain mt := by
  obtain ⟨⟨hfree, hended⟩, hused, hheads⟩ := h
  have hkilled := outKilled_of_free (f := f) hfree
  obtain ⟨hmay, hroom0, hroom1, -⟩ := hfree
  obtain ⟨i, hi⟩ := List.exists_mem_of_ne_nil _ hslots
  have hpe : s.peOf s.here (s.actor.unit % 256) f = peHere s f := rfl
  have hdead : (peHere s f).dead = 0 := rfl
  have htile : (peHere s f).t = tileHere s := rfl
  have hins := operands_eq_peTok (s := s) (f := f) hm
  generalize peHere s f = p at *
  rw [← htile] at hroom0 hroom1
  have hnone : p.slots.filter p.t.ended = [] := List.filter_eq_nil_iff.2 fun i hi => by simp [htile, hended i hi]
  have hall : p.slots.all p.t.ended = false := List.all_eq_false.2 ⟨i, hi, by simp [htile, hended i hi]⟩
  have hframe : (m.used.any (fun i => m.converts i && (p.frame i).isSome)) = false := by
    refine List.any_eq_false.2 fun i hi => ?_
    cases hc : m.converts i with
    | false => exact Bool.false_ne_true
    | true => rw [(hheads i hi).2 hc]; exact Bool.false_ne_true
  have hempty : m.used.isEmpty = false := by rw [Bool.eq_false_iff, Ne, List.isEmpty_iff]; exact hused
  have hhead : (m.used.all (fun i => (p.head m i).isSome)) = true := List.all_eq_true.2 fun i hi => (hheads i hi).1
  have hlive : ∀ b : Bool, ({ p with dead := if b then p.outKilled else 0 } : Pe) = p := fun b => by
    rw [hkilled, ite_self, ← hdead]
  obtain ⟨n, hn⟩ : ∃ n, { m with perLane := perLane } = n := ⟨_, rfl⟩
  have hnused : n.used = m.used := hn ▸ rfl
  have hnconv : n.converts = m.converts := hn ▸ rfl
  have hnhead : p.head n = p.head m := hn ▸ rfl
  have hninput : p.input n = p.input m := hn ▸ rfl
  rw [hn] at hform
  unfold State.runPe
  simp only [hpe, hmay, hall, hnone, hform, hlive, hnused, hnconv, hframe, hempty, hnhead, hhead, hninput, hins, hroom0,
    hroom1, List.isEmpty_nil, Bool.not_true, Bool.false_and, Bool.or_true, Bool.or_false, Bool.false_eq_true, if_false]
  exact ⟨_, rfl, rfl, rfl, fun mt h => ⟨⟨h.kills, h.checks, h.cycles, h.mt⟩, h.out0, h.out1⟩⟩

/-! ### The turn of a PE that fires -/

section
variable {i : Instr} {s : State} {f : PeF} {m : PeForm} {form : Pe → PeForm} {perLane : Bool}
  {body : Pe → (Nat → Token) → FireOut} {last : Pe → (Nat → Token) → Bool} {stay : Pe → Bool}
  (hexec : exec i s = .next (s.runPe f form body last stay)) (h : peFires s f m) (hslots : (peHere s f).slots ≠ [])
  (hm : m.InSlots) (hform : form (peHere s f) = { m with perLane := perLane })
  (hq : (body (peHere s f) (peTok s f m)).Plain (tileHere s).mt)
include hexec h hslots hm hform hq

/-- What a firing leaves that sends what some switch word takes. -/
theorem leaves_of_fires (hsent : (body (peHere s f) (peTok s f m)).out0 ≠ [] ∨
    ((tileHere s).cfgNow.heard 1 = true ∧ (body (peHere s f) (peTok s f m)).out1 ≠ [])) :
    leaves i s (fun u => u.here = s.here ∧ outToks u 0 = (body (peHere s f) (peTok s f m)).out0 ∧
      ((tileHere s).cfgNow.heard 1 = true → outToks u 1 = (body (peHere s f) (peTok s f m)).out1) ∧
      (tileHere u).fidx = ((tileHere s).fidx + 1) % 2 ^ 32 ∧ (tileHere u).mt = (tileHere s).mt ∧
      (tileHere u).fg = (tileHere s).fg ∧ u.mem = s.mem) := by
  obtain ⟨fo, hrun, h0, h1, hplain⟩ := State.runPe_fires body last stay h hslots hm hform
  rw [← h0, ← h1] at hsent ⊢
  exact ⟨_, hexec, State.applyFire_sends (free_of_fires h) (hplain _ hq) hsent hrun.symm⟩

/-- A firing with nothing for output 0 leaves it empty. -/
theorem leaves_of_silent (h0 : (body (peHere s f) (peTok s f m)).out0 = []) : leaves i s (fun u => outToks u 0 = []) := by
  obtain ⟨fo, hrun, ho, -, hplain⟩ := State.runPe_fires body last stay h hslots hm hform
  exact ⟨_, hexec, hrun ▸ State.applyFire_silent (free_of_fires h) (hplain _ hq) (ho.trans h0)⟩

end

end Sys2Proof.Machine
end

section
/-! SUPPORT. The operations that move tokens (R226, R231, R232, R234 to R237): what each one's body sends, lane by lane, under
SUBOUT (R128), and the statement about them. -/

namespace Sys2Proof.Machine

/-! ### What a body sends -/

section
variable {p : Pe} (hp : p.outKilled = 0)

theorem Pe.outLane_fst (p : Pe) (x : Nat) : (p.outLane x).1 = flushed p x := by
  unfold Pe.outLane flushed
  split
  · next F _ =>
    simp only [perElem, List.map_map]
    congr 2
    funext j
    exact apply_ite Prod.fst _ _ _
  · rfl

/-- SUBOUT acts on the lanes of a token that carry a value. -/
theorem Pe.outTok_lanes {t : Token} {f : Nat → Nat} (hf : ∀ i, f i < 2 ^ 32)
    (ht : t.lanes = lanesOf (fun i => if t.has i && !t.bad i then f i else 0)) :
    (p.outTok 0 t).1 = { t with lanes := lanesOf (fun i => if t.has i && !t.bad i then flushed p (f i) else 0) } := by
  have hls : ∀ g : Nat → Nat, (∀ i, i < 16 → g i = if t.has i && !t.bad i then flushed p (f i) else 0) →
      ({ t with lanes := lanesOf g } : Token) =
        { t with lanes := lanesOf (fun i => if t.has i && !t.bad i then flushed p (f i) else 0) } := fun g hg => by
    rw [lanesOf_congr hg]
  refine hls _ fun i hi => ?_
  have hlane : t.lane i = if t.has i && !t.bad i then f i else 0 := by
    rw [Token.lane, ht, laneAt_lanesOf _ hi]
    split
    · exact Nat.mod_eq_of_lt (hf i)
    · rfl
  have hkilled : (0 : BitVec 16).getLsbD i = false := BitVec.getLsbD_zero
  rw [getD_map_range _ _ hi, hlane, hkilled, Bool.not_false, Bool.and_true]
  split
  · exact p.outLane_fst _
  · rfl

theorem Pe.outTok_markerToken (p : Pe) (m : Mk) : (p.outTok 0 (markerToken m)).1 = markerToken m := by
  have hnone : ∀ i, (markerToken m).has i = false := fun i => BitVec.getLsbD_zero
  rw [Pe.outTok_lanes (f := fun _ => 0) (fun _ => Nat.two_pow_pos 32)]
  · simp only [hnone, Bool.false_and, Bool.false_eq_true, if_false]
    rfl
  · simp only [hnone, Bool.false_and, Bool.false_eq_true, if_false]
    rfl

theorem Pe.outTok_tokensOf (tag : Nat) (v bad : BitVec 16) {f : Nat → Nat} (m : Mk) (hf : ∀ i, f i < 2 ^ 32) :
    (tokensOf tag v bad f m).map (fun t => (p.outTok 0 t).1) = tokensOf tag v bad (fun l => flushed p (f l)) m := by
  have hmark : ((if m.any then [markerToken m] else []).map fun t => (p.outTok 0 t).1) =
      if m.any then [markerToken m] else [] := by
    split
    · rw [List.map_singleton, Pe.outTok_markerToken]
    · rfl
  unfold tokensOf
  dsimp only
  split
  · rw [List.map_cons, hmark, Pe.outTok_lanes hf rfl]
    rfl
  · next h =>
    obtain rfl : bad = 0 := by simpa [anyLane] using h
    rw [List.map_singleton, Pe.outTok_lanes hf (by simp [Token.has, Token.bad])]
    simp [Token.has, Token.bad]

include hp in
theorem Pe.moved_out (out : FireOut) : (p.moved out).out0 = out.out0.map (fun t => (p.outTok 0 t).1) ∧
    (p.moved out).out1 = out.out1.map (fun t => (p.outTok 0 t).1) := by
  simp only [Pe.moved, hp, List.map_map]
  exact ⟨rfl, rfl⟩

theorem FireOut.Quiet.moved {out : FireOut} {mt : Tab Nat} (h : out.Quiet mt) : (p.moved out).Quiet mt :=
  ⟨h.kills, h.checks, h.cycles, h.mt⟩

include hp in
/-- A result computed lane by lane, where no lane is killed. -/
theorem Pe.lanewise_out0 (tok : Nat → Token) (ss : List Nat) (tag : Nat) (h : Nat → List Nat → Nat × Nat) :
    (p.lanewise tok ss tag h).out0 = tokensOf tag (p.valid tok ss) (p.poison tok ss)
      (fun l => (h l (ss.map (fun k => (tok k).lane l))).1) (p.mark tok) := by
  unfold Pe.lanewise
  dsimp only
  rw [hp, and_not_zero]
  refine tokensOf_congr _ fun i hi hv _ => ?_
  rw [getD_map_range _ _ hi, if_pos hv]

/-- One lane of a converted token. -/
theorem Pe.convTok_lane (p : Pe) (pol : Pol) (t : Token) {i : Nat} (hi : i < 16) : ((p.convTok pol t).1).lane i =
    (if t.has i && !t.bad i && !p.dead.getLsbD i then convLane t.tag p.ty pol p.key i (t.lane i) else (0, 0)).1 % 2 ^ 32 := by
  have hlanes : ((p.convTok pol t).1).lanes = lanesOf (fun i =>
      (if t.has i && !t.bad i && !p.dead.getLsbD i then convLane t.tag p.ty pol p.key i (t.lane i) else (0, 0)).1) :=
    List.map_map
  rw [Token.lane, hlanes, laneAt_lanesOf _ hi]

/-- A lane of a converted token depends on nothing else that the token carries. -/
theorem Pe.convTok_lane_withValid (p : Pe) (pol : Pol) (t : Token) {v : BitVec 16} {i : Nat} (hi : i < 16)
    (h : v.getLsbD i = t.has i) : ((p.convTok pol { t with valid := v }).1).lane i = ((p.convTok pol t).1).lane i := by
  have hhas : ({ t with valid := v } : Token).has i = t.has i := h
  rw [Pe.convTok_lane _ _ _ hi, Pe.convTok_lane _ _ _ hi, hhas]
  rfl

theorem TileCfg.constTok_has (g : TileCfg) (n : Nat) {i : Nat} (hi : i < 16) : (g.constTok n).has i = true := by
  have hvalid : (g.constTok n).valid = BitVec.allOnes 16 := rfl
  rw [Token.has, hvalid, BitVec.getLsbD_allOnes, decide_eq_true hi]

include hp in
theorem Pe.constOut_out0 (tok : Nat → Token) : (p.constOut tok).out0 = tokensOf p.ty (p.valid tok [0]) (p.poison tok [0])
    (fun l => flushed p (((p.convTok p.pol (p.g.constTok (p.imm % 8))).1).lane l)) (p.mark tok) := by
  unfold Pe.constOut
  dsimp only
  rw [(Pe.moved_out hp _).1, Pe.outTok_tokensOf _ _ _ _ (Token.lane_lt _)]
  refine tokensOf_congr _ fun i hi hv _ => congrArg (flushed p) ?_
  refine Pe.convTok_lane_withValid _ _ _ hi ?_
  rw [hp, and_not_zero, hv, TileCfg.constTok_has _ _ hi]

/-- The marker that MARK pushes, by MKB (R235). -/
theorem Pe.raised_eq (p : Pe) (tok : Nat → Token) : p.raised tok =
    if anyEos p tok then .eos
    else if p.mkb = mkAct then (if (tok 0).mark = .none then .none else .eod (p.imm % 8))
    else if p.mkb = mkFollow then (match (tok 0).mark with | .eod l => .eod (max (p.imm % 8) l) | _ => .eod (p.imm % 8))
    else .eod (p.imm % 8) := by
  unfold Pe.raised mkAct mkFollow
  dsimp only
  generalize p.mkb = k
  cases (tok 0).mark <;> grind

theorem Pe.cvtLane_fst (p : Pe) (t : Token) (i : Nat) : (p.cvtLane t i 0 (tagCount p.ty) 0).1 = perElem p (fun j =>
    (convElem (tagKind t.tag) (tagKind p.ty) p.rnd (elem t.tag (t.lane i) j) (p.key.sr24 i j)).1) := by
  simp only [Pe.cvtLane, perElem, List.map_map, Function.comp_def, Nat.zero_add]

theorem Pe.cvtOut_quiet (p : Pe) (tok : Nat → Token) : (p.cvtOut tok).Quiet p.t.mt ∧ (p.cvtOut tok).out1 = [] := by
  unfold Pe.cvtOut
  dsimp only
  split
  · split
    · exact ⟨⟨rfl, rfl, rfl, rfl⟩, rfl⟩
    · exact ⟨⟨rfl, rfl, rfl, rfl⟩, rfl⟩
  · split
    · exact ⟨⟨rfl, rfl, rfl, rfl⟩, rfl⟩
    · exact ⟨⟨rfl, rfl, rfl, rfl⟩, rfl⟩

/-- A token that is converted at once: as many elements as TYPE has, and no group open (R226). -/
theorem Pe.cvtOut_out0 {tok : Nat → Token} (hp : p.outKilled = 0) (hop : p.t.op = {})
    (hn : p.srcCount (tok 0) = tagCount p.ty) : (p.cvtOut tok).out0 = tokensOf p.ty (p.valid tok [0]) (p.poison tok [0])
      (fun l => if passesRaw (tok 0).tag p.ty = true then (tok 0).lane l else perElem p (fun j =>
        (convElem (tagKind (tok 0).tag) (tagKind p.ty) p.rnd (elem (tok 0).tag ((tok 0).lane l) j) (p.key.sr24 l j)).1))
      (p.mark tok) := by
  have hsent : ∀ i, (p.valid tok [0]).getLsbD i = true → (p.poison tok [0]).getLsbD i = false →
      ((p.valid tok [0]).getLsbD i && !(p.poison tok [0]).getLsbD i && !p.outKilled.getLsbD i) = true := fun i hv hbad => by
    rw [hv, hbad, hp]
    exact congrArg (! ·) BitVec.getLsbD_zero
  have hgroup : p.groupOut p.t.op = [] := by rw [hop]; rfl
  have hready : (p.t.op.ready.get 0 []).isEmpty = true := by rw [hop]; rfl
  have hgrp : p.t.op.grp.isEmpty = true := by rw [hop]; rfl
  unfold Pe.cvtOut
  simp only [hgroup, hready, hgrp, hn, Nat.lt_irrefl, decide_false, Bool.false_or, Bool.not_true, Bool.and_false, Bool.false_eq_true,
    if_false, if_true, List.nil_append]
  refine tokensOf_congr _ fun i hi hv hbad => ?_
  rw [getD_map_range _ _ hi, hsent i hv hbad, Bool.not_true, if_neg Bool.false_ne_true, apply_ite Prod.fst, Pe.cvtLane_fst]

include hp in
theorem Pe.markOut_out0 (tok : Nat → Token) : (p.markOut tok).out0 = tokensOf p.ty (p.valid tok [0]) (p.poison tok [0])
    (fun l => flushed p ((tok 0).lane l)) (p.raised tok) := by
  rw [Pe.markOut, (Pe.moved_out hp _).1, Pe.outTok_tokensOf _ _ _ _ (Token.lane_lt _)]

/-- The lane of A that SHUF moves to lane `l`, as B names it. -/
def shufFrom (tok : Nat → Token) (l : Nat) : Nat := (tok 1).lane l % 16

include hp in
/-- Lane `l` of SHUF's result is there where both of the lanes that it comes from are (R232). -/
theorem Pe.shufOut_out0 (tok : Nat → Token) : ∃ v bad : BitVec 16,
    (p.shufOut tok).out0 = tokensOf p.ty v bad (fun l => flushed p ((tok 0).lane (shufFrom tok l))) (p.mark tok) ∧
      ∀ l, l < 16 →
        let has := (tok 1).has l = true ∧ (tok 0).has (shufFrom tok l) = true
        (v.getLsbD l = true ↔ has ∧ p.pred tok l = true) ∧
        (bad.getLsbD l = true ↔ has ∧ ((p.pred tok l = true ∧
          ((tok 1).bad l = true ∨ (tok 0).bad (shufFrom tok l) = true)) ∨ p.predBad tok l = true)) := by
  refine ⟨maskOf (fun l => (tok 1).has l && (tok 0).has (shufFrom tok l) && p.pred tok l),
    maskOf (fun l => (tok 1).has l && (tok 0).has (shufFrom tok l) &&
      ((p.pred tok l && ((tok 1).bad l || (tok 0).bad (shufFrom tok l))) || p.predBad tok l)), ?_, fun l hl => ⟨?_, ?_⟩⟩
  · unfold Pe.shufOut
    dsimp only
    rw [(Pe.moved_out hp _).1, Pe.outTok_tokensOf _ _ _ _ fun _ => Token.lane_lt _ _]
    rfl
  · rw [getLsbD_maskOf _ hl, Bool.and_eq_true, Bool.and_eq_true]
  · rw [getLsbD_maskOf _ hl]
    simp only [Bool.and_eq_true, Bool.or_eq_true]

theorem Pe.gateOut_quiet (p : Pe) (tok : Nat → Token) : (p.gateOut tok).Quiet p.t.mt ∧ (p.gateOut tok).out1 = [] := by
  unfold Pe.gateOut
  dsimp only
  split
  · exact ⟨.moved ⟨rfl, rfl, rfl, rfl⟩, rfl⟩
  · exact ⟨⟨rfl, rfl, rfl, rfl⟩, rfl⟩

include hp in
/-- GATE's A token leaves where the decision in force says so (R234). -/
theorem Pe.gateOut_open {tok : Nat → Token} (hg : p.gate tok = true) : (p.gateOut tok).out0 =
    tokensOf p.ty (p.valid tok [0]) (p.gatePoison tok) (fun l => flushed p ((tok 0).lane l)) ((tok 0).mark.kept p.mkb) := by
  rw [Pe.gateOut, hg, if_pos rfl, (Pe.moved_out hp _).1, Pe.outTok_tokensOf _ _ _ _ (Token.lane_lt _)]

/-- One that is held back leaves its marker behind. -/
theorem Pe.gateOut_shut {tok : Nat → Token} (hg : p.gate tok = false) : (p.gateOut tok).out0 =
    if (tok 0).mark.kept p.mkb = .none then [] else [markerToken ((tok 0).mark.kept p.mkb)] := by
  rw [Pe.gateOut, hg, if_neg Bool.false_ne_true]
  cases (tok 0).mark.kept p.mkb with
  | none => rfl
  | eod l => rfl
  | eos => rfl

theorem Pe.steerOut_quiet (p : Pe) (tok : Nat → Token) : (p.steerOut tok).Quiet p.t.mt := by
  refine .moved ?_
  split
  · exact ⟨rfl, rfl, rfl, rfl⟩
  · exact ⟨rfl, rfl, rfl, rfl⟩

/-- EOS alone, for the output that the A token does not leave on. -/
def eosAlone (m : Mk) : List Token := if m = .eos then [markerToken .eos] else []

theorem eosAlone_fresh (m : Mk) : ∀ t ∈ eosAlone m, t.Fresh := by
  unfold eosAlone
  split
  · exact List.forall_mem_singleton.2 (markerToken_fresh _)
  · nofun

theorem Pe.outTok_eosAlone (p : Pe) (m : Mk) : (eosAlone m).map (fun t => (p.outTok 0 t).1) = eosAlone m := by
  unfold eosAlone
  split
  · rw [List.map_singleton, Pe.outTok_markerToken]
  · rfl

include hp in
/-- STEER sends its A token on the output that the decision names, and EOS on both (R234). -/
theorem Pe.steerOut_outs (tok : Nat → Token) :
    let data := tokensOf p.ty (p.valid tok [0]) (p.gatePoison tok) (fun l => flushed p ((tok 0).lane l)) ((tok 0).mark.kept p.mkb)
    let eos := eosAlone ((tok 0).mark.kept p.mkb)
    (p.gate tok = true → (p.steerOut tok).out0 = data ∧ (p.steerOut tok).out1 = eos) ∧
      (p.gate tok = false → (p.steerOut tok).out0 = eos ∧ (p.steerOut tok).out1 = data) := by
  intro data eos
  have hdata : (tokensOf p.ty (p.valid tok [0]) (p.gatePoison tok) (tok 0).lane ((tok 0).mark.kept p.mkb)).map
      (fun t => (p.outTok 0 t).1) = data := Pe.outTok_tokensOf _ _ _ _ (Token.lane_lt _)
  have heos : eos.map (fun t => (p.outTok 0 t).1) = eos := p.outTok_eosAlone _
  unfold Pe.steerOut
  dsimp only
  rw [(Pe.moved_out hp _).1, (Pe.moved_out hp _).2]
  refine ⟨fun hg => ?_, fun hg => ?_⟩
  · rw [hg, if_pos rfl]
    exact ⟨hdata, heos⟩
  · rw [hg, if_neg Bool.false_ne_true]
    exact ⟨heos, hdata⟩

include hp in
theorem Pe.mergeOut_out0 {tok : Nat → Token} {i : Nat} (hi : p.mergeSlot = some i) : (p.mergeOut tok).out0 =
    let m := if (tok i).mark = .eos ∧ p.t.op.closed = none then .eod 7 else (tok i).mark
    tokensOf p.ty (tok i).valid ((tok i).pmask &&& (tok i).valid) (fun l => flushed p ((tok i).lane l))
      (if p.mkb = mkStrip ∧ m ≠ .eos then .none else m) := by
  have hmerged : p.merged = i := by rw [Pe.merged, hi]; rfl
  rw [Pe.mergeOut, (Pe.moved_out hp _).1, hmerged, Pe.outTok_tokensOf _ _ _ _ (Token.lane_lt _)]
  simp

end

/-! ### Token movement (R226, R231, R232, R234 to R237) -/

theorem formOf_inSlots (raw : List Nat) {star : Option Nat} (p : Pe) (h : ∀ i, star = some i → i < 4) :
    (formOf raw star p).InSlots := by
  refine ⟨fun _ => Pe.slots_lt, fun i hi => ?_⟩
  cases star with
  | none => cases hi
  | some j =>
    cases hj : p.en j with
    | true => simp [formOf, hj] at hi
    | false => exact h i (by simpa [formOf, hj] using hi)

theorem gateForm_inSlots (p : Pe) : (gateForm p).InSlots :=
  ⟨fun _ hi => Pe.slots_lt (List.mem_filter.1 hi).1, nofun⟩

/-- Slot `i` alone, as MERGE and a one-slot form use it. -/
theorem oneSlot_inSlots {i : Nat} (h : i < 4) : ({ used := [i] } : PeForm).InSlots :=
  ⟨fun _ hj => List.mem_singleton.1 hj ▸ h, nofun⟩

section
variable {i : Instr} {s : State} {f : PeF} {m : PeForm} {form : Pe → PeForm} {perLane : Bool}
  {body : Pe → (Nat → Token) → FireOut} {last : Pe → (Nat → Token) → Bool} {stay : Pe → Bool}

/-- The firing sends the token that its body gives output 0, with the MARKER token behind it perhaps. -/
theorem firesTo_of_fires (hexec : exec i s = .next (s.runPe f form body last stay)) (h : peFires s f m)
    (hslots : (peHere s f).slots ≠ []) (hm : m.InSlots) (hform : form (peHere s f) = { m with perLane := perLane })
    (hq : (body (peHere s f) (peTok s f m)).Quiet (tileHere s).mt) (h1 : (body (peHere s f) (peTok s f m)).out1 = [])
    {tag : Nat} {v bad : BitVec 16} {g : Nat → Nat} {mk : Mk}
    (h0 : (body (peHere s f) (peTok s f m)).out0 = tokensOf tag v bad g mk) : firesTo i s (tokensOf tag v bad g mk) := by
  have hplain : (body (peHere s f) (peTok s f m)).Plain (tileHere s).mt :=
    ⟨hq, h0 ▸ tokensOf_fresh tag v bad g mk, by rw [h1]; nofun⟩
  obtain ⟨u, hu, hhere, hout, -, hrest⟩ := leaves_of_fires hexec h hslots hm hform hplain (.inl (h0 ▸ tokensOf_ne_nil tag v bad g mk))
  exact ⟨u, hu, hhere, hout.trans h0, hrest⟩

end

section
variable {s : State} {f : PeF}

theorem firesTo_pass (h : peFires s f (formOf [] none (peHere s f))) :
    let p := peHere s f
    let t := peTok s f (formOf [] none p)
    firesTo (.pass f) s (tokensOf p.ty (p.valid t [0]) (p.poison t [0]) (fun l => flushed p ((t 0).lane l)) (p.mark t)) := by
  intro p t
  have hout := Pe.lanewise_out0 (outKilled_of_fires h) t [0] p.ty (fun _ xs => p.outLane (xs.getD 0 0))
  simp only [Pe.outLane_fst] at hout
  exact firesTo_of_fires (body := fun p tok => p.lanewise tok [0] p.ty (fun _ xs => p.outLane (xs.getD 0 0))) rfl h (used_of_fires h)
    (formOf_inSlots _ _ nofun) rfl ⟨rfl, rfl, rfl, rfl⟩ rfl hout

theorem firesTo_mark (h : peFires s f (formOf [] none (peHere s f))) {m : Mk}
    (hm : (peHere s f).raised (peTok s f (formOf [] none (peHere s f))) = m) :
    let p := peHere s f
    let t := peTok s f (formOf [] none p)
    firesTo (.mark f) s (tokensOf p.ty (p.valid t [0]) (p.poison t [0]) (fun l => flushed p ((t 0).lane l)) m) :=
  hm ▸ firesTo_of_fires rfl h (used_of_fires h) (formOf_inSlots _ _ nofun) rfl (.moved ⟨rfl, rfl, rfl, rfl⟩) rfl
    (Pe.markOut_out0 (outKilled_of_fires h) _)

theorem firesTo_const (h : peFires s f (formOf [0] none (peHere s f))) :
    let p := peHere s f
    let t := peTok s f (formOf [0] none p)
    firesTo (.const f) s (tokensOf p.ty (p.valid t [0]) (p.poison t [0])
      (fun l => flushed p ((p.convTok p.pol (p.g.constTok (p.imm % 8))).1.lane l)) (p.mark t)) :=
  firesTo_of_fires rfl h (used_of_fires h) (formOf_inSlots _ _ nofun) rfl (.moved ⟨rfl, rfl, rfl, rfl⟩) rfl
    (Pe.constOut_out0 (outKilled_of_fires h) _)

theorem firesTo_shuf (h : peFires s f (formOf [1] (some 1) (peHere s f))) {v bad : BitVec 16} {g : Nat → Nat} {m : Mk}
    (hout : ((peHere s f).shufOut (peTok s f (formOf [1] (some 1) (peHere s f)))).out0 = tokensOf (peHere s f).ty v bad g m) :
    firesTo (.shuf f) s (tokensOf (peHere s f).ty v bad g m) :=
  firesTo_of_fires rfl h (used_of_fires h) (formOf_inSlots _ _ fun _ hi => Option.some.inj hi ▸ by decide) rfl
    (.moved ⟨rfl, rfl, rfl, rfl⟩) rfl hout

theorem firesTo_ojoin (h : peFires s f (formOf [0, 1, 2] none (peHere s f))) :
    firesTo (.ojoin f) s [orderToken ((peHere s f).mark (peTok s f (formOf [0, 1, 2] none (peHere s f))))] := by
  obtain ⟨u, hu, hhere, hout, -, hrest⟩ := leaves_of_fires (i := .ojoin f) (body := Pe.ojoinOut) rfl h (used_of_fires h)
    (formOf_inSlots _ _ nofun) rfl ⟨⟨rfl, rfl, rfl, rfl⟩, List.forall_mem_singleton.2 (orderToken_fresh _), nofun⟩
    (.inl (List.cons_ne_nil _ _))
  exact ⟨u, hu, hhere, hout, hrest⟩

theorem firesTo_cvt (h : peFires s f { formOf [] none (peHere s f) with asIs := true }) (hop : (tileHere s).op = {}) :
    let p := peHere s f
    let t := peTok s f { formOf [] none p with asIs := true }
    p.srcCount (t 0) = tagCount p.ty →
    firesTo (.cvt f) s (tokensOf p.ty (p.valid t [0]) (p.poison t [0])
      (fun l => if passesRaw (t 0).tag p.ty = true then (t 0).lane l else perElem p (fun j =>
        (convElem (tagKind (t 0).tag) (tagKind p.ty) p.rnd (elem (t 0).tag ((t 0).lane l) j) (p.key.sr24 l j)).1)) (p.mark t)) := by
  intro p t hn
  obtain ⟨hquiet, hout1⟩ := p.cvtOut_quiet t
  exact firesTo_of_fires rfl h (used_of_fires h) (formOf_inSlots [] (star := none) _ nofun) rfl hquiet hout1
    (Pe.cvtOut_out0 (outKilled_of_fires h) hop hn)

theorem firesTo_merge {i : Nat} (hi : i < 2) (hslots : (peHere s f).slots ≠ []) (hmerge : (peHere s f).mergeSlot = some i)
    (h : peFires s f { used := [i] }) :
    let p := peHere s f
    let t := peTok s f { used := [i] } i
    let m := if t.mark = .eos ∧ p.t.op.closed = none then .eod 7 else t.mark
    firesTo (.merge f) s (tokensOf p.ty t.valid (t.pmask &&& t.valid) (fun l => flushed p (t.lane l))
      (if p.mkb = mkStrip ∧ m ≠ .eos then .none else m)) :=
  firesTo_of_fires rfl h hslots (oneSlot_inSlots (Nat.lt_trans hi (by decide))) (by rw [mergeForm, hmerge]; rfl)
    (.moved ⟨rfl, rfl, rfl, rfl⟩) rfl (Pe.mergeOut_out0 (outKilled_of_fires h) hmerge)

section
variable (h : peFires s f (gateForm (peHere s f)))
include h

theorem slots_ne_nil_of_gate : (peHere s f).slots ≠ [] := fun hnil => used_of_fires h (by rw [gateForm, hnil]; rfl)

theorem firesTo_gate_open (hg : (peHere s f).gate (peTok s f (gateForm (peHere s f))) = true) :
    let p := peHere s f
    let t := peTok s f (gateForm p)
    firesTo (.gate f) s (tokensOf p.ty (p.valid t [0]) (p.gatePoison t) (fun l => flushed p ((t 0).lane l))
      ((t 0).mark.kept p.mkb)) := by
  intro p t
  obtain ⟨hquiet, hout1⟩ := p.gateOut_quiet t
  exact firesTo_of_fires rfl h (slots_ne_nil_of_gate h) (gateForm_inSlots _) rfl hquiet hout1
    (Pe.gateOut_open (outKilled_of_fires h) hg)

/-- A token that the gate holds back leaves its marker behind, or nothing (R234). -/
theorem leaves_gate_shut (hg : (peHere s f).gate (peTok s f (gateForm (peHere s f))) = false) :
    let p := peHere s f
    let m := (peTok s f (gateForm p) 0).mark.kept p.mkb
    leaves (.gate f) s (fun u => outToks u 0 = if m = .none then [] else [markerToken m]) := by
  intro p m
  obtain ⟨hquiet, hout1⟩ := p.gateOut_quiet (peTok s f (gateForm p))
  have hout := Pe.gateOut_shut hg
  have hslots := slots_ne_nil_of_gate h
  split
  · next hm =>
    have hout : (p.gateOut (peTok s f (gateForm p))).out0 = [] := hout.trans (if_pos hm)
    exact leaves_of_silent rfl h hslots (gateForm_inSlots _) rfl ⟨hquiet, by rw [hout]; nofun, by rw [hout1]; nofun⟩ hout
  · next hm =>
    have hout : (p.gateOut (peTok s f (gateForm p))).out0 = [markerToken m] := hout.trans (if_neg hm)
    obtain ⟨u, hu, -, hsent, -⟩ := leaves_of_fires (i := .gate f) rfl h hslots (gateForm_inSlots _) rfl
      ⟨hquiet, by rw [hout]; exact List.forall_mem_singleton.2 (markerToken_fresh m), by rw [hout1]; nofun⟩
      (.inl (by rw [hout]; exact List.cons_ne_nil _ _))
    exact ⟨u, hu, hsent.trans hout⟩

/-- STEER's token and its EOS leave on the outputs that the decision names (R234). -/
theorem leaves_steer {ts us : List Token} (hts : ((peHere s f).steerOut (peTok s f (gateForm (peHere s f)))).out0 = ts)
    (hus : ((peHere s f).steerOut (peTok s f (gateForm (peHere s f)))).out1 = us) (hf0 : ∀ t ∈ ts, t.Fresh)
    (hf1 : ∀ t ∈ us, t.Fresh) (hheard : (tileHere s).cfgNow.heard 1 = true) (hne : ts ≠ [] ∨ us ≠ []) :
    leaves (.steer f) s (fun u => outToks u 0 = ts ∧ outToks u 1 = us) := by
  obtain ⟨u, hu, -, h0, h1, -⟩ := leaves_of_fires (i := .steer f) rfl h (slots_ne_nil_of_gate h) (gateForm_inSlots _) rfl
    ⟨Pe.steerOut_quiet _ _, hts ▸ hf0, hus ▸ hf1⟩ (by rw [hts, hus]; exact hne.imp_right fun hne => ⟨hheard, hne⟩)
  exact ⟨u, hu, h0.trans hts, (h1 hheard).trans hus⟩

end

end

end Sys2Proof.Machine

namespace Sys2Proof
open Machine

/-- Settles O42: each operation's result is a token computed lane by lane or moved lane by lane (`Pe.lanewise_out0`,
`Pe.moved_out`, `Pe.outTok_tokensOf`), a PE whose slots are full fires with it (`State.runPe_fires`), and a free unit's links
hold what a firing sends (`Links.afterFire_out`). -/
theorem peMovement : Obligations.PeMovement := by
  unfold Obligations.PeMovement
  intro s f p m1 t lane
  refine ⟨fun h => ⟨firesTo_pass h, firesTo_mark h (Pe.raised_eq _ _)⟩, firesTo_const, fun h => ?shuf, firesTo_ojoin, firesTo_cvt,
    fun h => ⟨firesTo_gate_open h, leaves_gate_shut h, fun hg hheard => ?steerOpen, fun hg hheard => ?steerShut⟩,
    fun i hi hslots hmerge h => firesTo_merge hi hslots hmerge h⟩
  case shuf =>
    obtain ⟨v, bad, hout, hlanes⟩ := Pe.shufOut_out0 (outKilled_of_fires h) (peTok s f (formOf [1] (some 1) p))
    exact ⟨v, bad, firesTo_shuf h hout, hlanes⟩
  case steerOpen =>
    obtain ⟨hopen, -⟩ := Pe.steerOut_outs (outKilled_of_fires h) (peTok s f (gateForm p))
    obtain ⟨h0, h1⟩ := hopen hg
    exact leaves_steer h h0 h1 (tokensOf_fresh _ _ _ _ _) (eosAlone_fresh _) hheard (.inl (tokensOf_ne_nil _ _ _ _ _))
  case steerShut =>
    obtain ⟨-, hshut⟩ := Pe.steerOut_outs (outKilled_of_fires h) (peTok s f (gateForm p))
    obtain ⟨h0, h1⟩ := hshut hg
    exact leaves_steer h h0 h1 (eosAlone_fresh _) (tokensOf_fresh _ _ _ _ _) hheard (.inr (tokensOf_ne_nil _ _ _ _ _))

end Sys2Proof
end


section
/-! Digit PEs: a kept decision that the number at hand would not be given (R146, R249). -/

namespace Sys2Proof.Machine

/-- A DSCL word with IMM 1 and L = 8, whose slot A is enabled. -/
def doubling : PeF := ⟨0, 1, 7, 0, 0, 0, 1⟩

/-- A whole number in lane 0 whose exponent is the largest that a header carries, so that DSCL by 1 overflows (R249). -/
def largest : NumBuf :=
  { valid := 1, lanes := [{ e := 511, digits := [1, 0, 0, 0, 0, 0, 0, 0] }], toks := 2, fin := true }

/-- DSCL's operation state after a header that announced exponent 256 in lane 0, with `largest` at the head of slot A. -/
def announced : OpSt :=
  { items := [(0, [.num largest])], hdrSent := true, decided := 1, picks := [(0, (LaneRes.num 256 0).pickCode)] }

/-- Tile 0 of a residency runs DSCL with that operation state, and a switch word takes its output 0. -/
def overflowingScale : State :=
  let s := State.reset.placeResid
  { s.setCl 0 ((s.cl 0).setTile 0 { fg := some { sw := [(0, 0x8000)] }, op := announced }) with
    actor := { die := 0, cl := 0, unit := 0 } }

/-- The state after its turn. -/
def overflowingScaleTurn : State :=
  overflowingScale.runDigit doubling dsclOp.data false (fun p => p.numPush dsclOp) (fun p m => p.passMark dsclOp.conds m)

theorem overflowingScale_slots : dsclOp.data.filter (peHere overflowingScale doubling).en = [0] := by decide +kernel

theorem overflowingScale_ready : digReady overflowingScale doubling dsclOp.data := by
  unfold digReady unitReady unitFree
  refine ⟨by decide +kernel, by decide +kernel, by decide +kernel, ?_, by decide +kernel⟩
  rw [overflowingScale_slots]
  exact List.forall_mem_singleton.2 ⟨largest, by decide +kernel, rfl⟩

theorem overflowingScale_live (l : Nat) (hl : l < 16)
    (hlive : (digLive overflowingScale doubling dsclOp).getLsbD l = true) : l = 0 := by
  have hmask : digLive overflowingScale doubling dsclOp = 1 := by decide +kernel
  rw [hmask] at hlive
  decide +revert

theorem overflowingScale_kept : digKept overflowingScale 0 = some (.num 256 0) := by decide +kernel

/-- The kept decision is a number, so the number's own first digit leaves in lane 0. -/
theorem overflowingScaleTurn_sends : (outToks overflowingScaleTurn 0).map (fun t => t.lane 0) = [1] := by
  decide +kernel

end Sys2Proof.Machine

namespace Sys2Proof
open Machine

/-- Refutes O45: after the header, its clause for DSCL takes from the kept decision only that it is a number, and the digits from
what R249 makes of the number at hand.  No hypothesis asks that the two agree.  In `overflowingScale`, a state that no run need
reach, lane 0 is kept as a number while the number at hand overflows to a NaN without digits: the clause has 000 leave in lane 0,
and the model sends the number's first digit, 1. -/
theorem not_digitNumbers : ¬ Obligations.DigitNumbers := by
  unfold Obligations.DigitNumbers
  rintro ⟨hdigits, -⟩
  obtain ⟨-, -, -, -, -, -, -, -, -, -, hdscl⟩ := hdigits overflowingScale doubling
  obtain ⟨-, hsends⟩ := hdscl overflowingScale_ready (List.forall_mem_singleton.2 (.inl (by decide +kernel)))
  obtain ⟨u, hexec, -, htoks, -⟩ := hsends (by decide +kernel) (fun l hl hlive => by
    obtain rfl := overflowingScale_live l hl hlive
    exact ⟨0, 256, 0, .inr overflowingScale_kept⟩)
  obtain rfl : overflowingScaleTurn = u := Host.Outcome.next.inj hexec
  have hlane := congrArg (List.map fun t => t.lane 0) htoks
  rw [overflowingScaleTurn_sends] at hlane
  exact absurd hlane (by decide +kernel)

end Sys2Proof
end

section
/-! Address generators: a kill that is still on a reverse wire when a load of the nest takes its turn (R108, R196). -/

namespace Sys2Proof.Machine

/-- An AGLD word that names no slot. -/
def plainLoadWord : AgF := ⟨.cl, 0, false, false, 0, 0, 0, 0, 0, 0⟩

/-- AG 0 of cluster 0 on a round over one 4-byte element, the first of bank 0. -/
def rowLoader : Ag :=
  { fg := some { shape := 2 ^ 64 + 2 * 2 ^ 324 + 2 * 2 ^ 334 }, phase := .walk, base := 0xFFFFFFFFFF000000, ext := [1, 1, 1, 1, 1] }

/-- The load's turn, with the kill of its one lane on its way to it. -/
def killedRowLoad : State :=
  let s := State.reset.placeResid
  { s.setCl 0 { (s.cl 0).setAg 0 rowLoader with wires := [laneZeroKill] } with actor := { die := 0, cl := 0, unit := 256 } }

theorem killedRowLoad_ready : agReady killedRowLoad agLd plainLoadWord := by
  unfold agReady
  decide +kernel

theorem killedRowLoad_elem : agElem killedRowLoad agLd plainLoadWord 0 =
    [0xFFFFFFFFFF000000, 0xFFFFFFFFFF000001, 0xFFFFFFFFFF000002, 0xFFFFFFFFFF000003] := by
  decide +kernel

/-- The element stands in bank 0, which is in SCRATCH mode at reset (R75). -/
theorem killedRowLoad_banks :
    agBanks killedRowLoad (agEnvHere killedRowLoad agLd plainLoadWord) (agElem killedRowLoad agLd plainLoadWord 0) := by
  rw [killedRowLoad_elem]
  exact ⟨by decide, by decide +kernel, fun _ => rfl⟩

theorem killedRowLoad_lanes : rowLanes (agHere killedRowLoad).ext (agHere killedRowLoad).cnt = 1 := by
  decide +kernel

/-- The kill acts before the position does (R108), so that lane 0's element is not fetched and its lane is absent (R196). -/
theorem killedRowLoad_sends : (agToks (killedRowLoad.agTurn agLd plainLoadWord)).map Token.valid = [0] := by
  decide +kernel

end Sys2Proof.Machine

namespace Sys2Proof
open Machine

/-- Refutes O47: its clauses about AGLD ask that no kill be remembered at the AG, but not that none be on the reverse wires,
and `killedRowLoad` has one there for the AG's current unit.  The turn takes it first, so that the token leaves without lane 0,
which the clause says the row gives it. -/
theorem not_addressLoads : ¬ Obligations.AddressLoads := by
  unfold Obligations.AddressLoads
  intro h
  obtain ⟨hload, -⟩ := h killedRowLoad plainLoadWord
  obtain ⟨hbanks, -⟩ := hload killedRowLoad_ready (by decide +kernel)
  obtain ⟨u, hexec, htoks, -⟩ := hbanks fun l _ hl => by
    obtain rfl : l = 0 := by
      rw [killedRowLoad_lanes] at hl
      simpa using hl
    exact killedRowLoad_banks
  obtain rfl : killedRowLoad.agTurn agLd plainLoadWord = u := Host.Outcome.next.inj hexec
  have hvalid := congrArg (List.map Token.valid) htoks
  rw [killedRowLoad_sends] at hvalid
  exact absurd hvalid (by decide +kernel)

end Sys2Proof
end

section
/-! SUPPORT. A memory tile's firing (R91, R203): what its slots' pops keep, the links and the tile that it leaves, and the
residency that it does not end (R110, R111). -/

namespace Sys2Proof.Machine

/-! ### Pops of several slots -/

theorem Links.nextVc_congr {j k : Links} {input : Nat} (cfg : Nat) (vc : Option Nat)
    (h : ∀ v, v < 4 → j.buf (4 * input + v) = k.buf (4 * input + v)) : j.nextVc input cfg vc = k.nextVc input cfg vc := by
  unfold Links.nextVc
  dsimp only
  refine (congrArg (List.foldl _ none) (List.filter_congr fun v hv => by rw [h v (List.mem_range.1 hv)])).trans
    (List.foldl_rel (r := fun c d => c = d ∧ ∀ a, c = some a → a < 4) ⟨rfl, nofun⟩ fun v hv c d hcd => ?_).1
  obtain ⟨rfl, hlt⟩ := hcd
  have hv4 : v < 4 := List.mem_range.1 (List.mem_filter.1 hv).1
  have hnew : ∀ a, some v = some a → a < 4 := fun a ha => Option.some.inj ha ▸ hv4
  cases c with
  | none => exact ⟨rfl, hnew⟩
  | some a =>
    rw [h v hv4]
    cases (k.buf (4 * input + v)).head? with
    | none => exact ⟨rfl, hlt⟩
    | some e =>
      dsimp only
      rw [h a (hlt a rfl)]
      refine ⟨rfl, ?_⟩
      split
      · split
        · exact hnew
        · exact hlt
      · exact hnew

theorem Links.dropOne_leaves (k : Links) (i : Nat) : (k.dropOne i).kept = k.kept ∧ (k.dropOne i).units = k.units ∧
    ∀ q, q ≠ i → (k.dropOne i).buf q = k.buf q := by
  unfold Links.dropOne
  split
  · exact ⟨rfl, rfl, fun _ _ => rfl⟩
  · split
    · exact ⟨rfl, rfl, fun q hq => Links.buf_setBuf_other _ _ hq⟩
    · exact ⟨rfl, rfl, fun q hq => Links.buf_setBuf_other _ _ hq⟩

/-- A pop keeps what it counts in, and every other slot's buffers and kill unit. -/
theorem Links.popSlot_leaves {k j : Links} {i cfg : Nat} {t : Token} (h : k.popSlot i cfg = some (t, j)) :
    k.peekSlot i cfg = some t ∧ j.kept = k.kept + b2n t.cns ∧ (∀ p, p ≠ 16 + i → j.units.get p 0 = k.units.get p 0) ∧
      ∀ s v, s ≠ i → v < 4 → j.buf (4 * (4 + s) + v) = k.buf (4 * (4 + s) + v) := by
  unfold Links.popSlot at h
  split at h
  · next u v hu hv =>
    cases h
    obtain ⟨hkept, hunits, hbuf⟩ := k.dropOne_leaves (4 * (4 + i) + v)
    have hv4 := Links.nextVc_lt hv
    refine ⟨hu, congrArg (· + b2n t.cns) hkept, fun p hp => ?_, fun s w hs hw => hbuf _ (by omega)⟩
    exact (Tab.get_put_other _ _ _ hp).trans (by rw [hunits])
  · cases h

theorem Links.peekSlot_popSlot_other {k j : Links} {i s cfg : Nat} {t : Token} (h : k.popSlot i cfg = some (t, j))
    (hs : s ≠ i) : j.peekSlot s cfg = k.peekSlot s cfg := by
  obtain ⟨-, -, hunits, hbuf⟩ := Links.popSlot_leaves h
  have hkills : j.kills = k.kills := congrArg Prod.snd (Links.popSlot_keeps h)
  unfold Links.peekSlot
  rw [Links.nextVc_congr _ _ fun v => hbuf s v hs]
  split
  · rfl
  · next v hv =>
    rw [hbuf s v hs (Links.nextVc_lt hv), hunits _ (by omega)]
    simp only [Links.killed_congr hkills]

theorem Links.popSlot_eq_none {k : Links} {i cfg : Nat} (h : k.popSlot i cfg = none) : k.peekSlot i cfg = none := by
  cases hp : k.peekSlot i cfg with
  | none => rfl
  | some t =>
    cases hv : k.nextVc (4 + i) cfg none with
    | none => rw [Links.peekSlot, hv] at hp; cases hp
    | some v => rw [Links.popSlot, hp, hv] at h; cases h

/-- The pops of a firing keep as many tokens as are counted among those they take (R110). -/
theorem Links.popSlots_kept {cfg : Nat} {ss : List Nat} (hss : ss.Nodup) (k : Links) :
    (k.popSlots cfg ss).kept = k.kept + ((ss.map (fun i => (k.peekSlot i cfg).getD {})).map (fun t => b2n t.cns)).sum := by
  induction ss generalizing k with
  | nil => rfl
  | cons i ss ih =>
    obtain ⟨hi, hss⟩ := List.nodup_cons.1 hss
    rw [List.map_cons, List.map_cons, List.sum_cons, ← Nat.add_assoc, Links.popSlots, List.foldl_cons]
    split
    · next t j h =>
      obtain ⟨hpeek, hkept, -⟩ := Links.popSlot_leaves h
      have hrest : ss.map (fun s => (j.peekSlot s cfg).getD {}) = ss.map (fun s => (k.peekSlot s cfg).getD {}) :=
        List.map_congr_left fun s hs => by rw [Links.peekSlot_popSlot_other h fun he => hi (he ▸ hs)]
      rw [hpeek, Option.getD_some, ← hkept, ← hrest]
      exact ih hss j
    · next h =>
      rw [Links.popSlot_eq_none h]
      exact ih hss k

/-! ### The links after a firing -/

theorem Links.sendWords_kept (k : Links) (o : Nat) (ts : List Token) : (k.sendWords o ts).kept = k.kept :=
  foldl_keeps Links.kept (fun k (t : Token) => k.sendAs o t.mark.any t) (fun _ _ => rfl) ts k

/-- No more retires than was kept. -/
theorem Links.afterFire_fall_le (k : Links) (g : TileCfg) (f : FireOut) :
    (k.afterFire g f).1 ≤ (k.popSlots g.cfg f.pops).kept := by
  unfold Links.afterFire
  dsimp only
  have hkept : (((k.popSlots g.cfg f.pops).sendWords 0 f.out0).sendWords 1 f.out1).kept = (k.popSlots g.cfg f.pops).kept := by
    rw [Links.sendWords_kept, Links.sendWords_kept]
  split
  · unfold Links.fired
    dsimp only
    split
    · exact (Nat.sub_le _ _).trans hkept.le
    · exact Nat.zero_le _
  · split
    · exact Nat.zero_le _
    · exact (Nat.sub_le _ _).trans hkept.le

/-- What a firing leaves on output 1, where some switch word takes it; output 0 may be taken by none. -/
theorem Links.afterFire_out_one {k : Links} {g : TileCfg} {f : FireOut} (hk : k.kills = []) (h1 : g.heard 1 = true)
    (ho : k.out 5 = []) (hf0 : ∀ t ∈ f.out0, t.Fresh) (hf1 : ∀ t ∈ f.out1, t.Fresh) :
    ((k.afterFire g f).2.out 5).map (fun e => plainTok e.tok) = f.out1 ∧ (f.out1 ≠ [] → (k.afterFire g f).1 = 0) := by
  obtain ⟨hpo, hpk⟩ := Prod.ext_iff.1 (k.popSlots_keeps g.cfg f.pops)
  unfold Links.afterFire
  dsimp only at hpo hpk ⊢
  generalize k.popSlots g.cfg f.pops = p at hpo hpk ⊢
  have hpout : p.out 5 = [] := (congrArg (Tab.get · 5 []) hpo).trans ho
  obtain ⟨-, hother, hkills, hid⟩ := p.sendWords_leaves 0 f.out0 (hpk.trans hk) hf0
  generalize p.sendWords 0 f.out0 = a at hother hkills hid ⊢
  obtain ⟨⟨es, hout, hes, hfids⟩, -, -, -⟩ := a.sendWords_leaves 1 f.out1 hkills hf1
  generalize a.sendWords 1 f.out1 = b at hout ⊢
  have h5 : b.out 5 = es := by rw [hout, hother 5 (by decide), hpout, List.nil_append]
  rw [Links.unheard_of_heard _ h1, Links.out_unheard_other _ _ (by decide)]
  refine ⟨?_, fun hne => ?_⟩
  · rw [← hes, ← h5]
    split
    · exact congrArg (fun x => (Tab.get x 5 []).map _) (Links.fired_outs ..)
    · split
      · rfl
      · rfl
  · have hsent : (!(f.out0.isEmpty && f.out1.isEmpty)) = true := by simp [hne]
    obtain ⟨e, he⟩ : ∃ e, e ∈ es := List.exists_mem_of_ne_nil _ fun hnil => hne (by rw [← hes, hnil]; rfl)
    obtain ⟨i, hi, hle⟩ := hfids e he
    rw [if_pos hsent]
    exact Links.fired_of_taken _ (o := 1) (by decide) (TileCfg.takers_ne_nil h1) ⟨e, h5.symm ▸ he, i, hi, hid.trans hle⟩

/-! ### A firing that ends no residency -/

/-- A fall of the census by `n` leaves the residency `r` running (R110, R111). -/
def Cluster.outlives (k : Cluster) (r : Option Nat) (n : Nat) : Prop :=
  ∀ q, r = some q → n = 0 ∨ (k.resident q).census = 0 ∨ n < (k.resident q).census ∨ (k.resident q).csat = true

theorem Cluster.outlives_mono {k : Cluster} {r : Option Nat} {m n : Nat} (h : k.outlives r n) (hm : m ≤ n) : k.outlives r m :=
  fun q hq => by
    obtain h | h | h | h := h q hq
    · exact .inl (Nat.le_zero.1 (h ▸ hm))
    · exact .inr (.inl h)
    · exact .inr (.inr (.inl (Nat.lt_of_le_of_lt hm h)))
    · exact .inr (.inr (.inr h))

theorem Cluster.outlives_zero (k : Cluster) (r : Option Nat) : k.outlives r 0 := fun _ _ => .inl rfl

/-- A census that does not come to zero changes no more than the residency's own entry. -/
theorem State.censusFall_outlived {s : State} {c : Nat} {r : Option Nat} {n : Nat} (h : (s.cl c).outlives r n) :
    (s.censusFall c r n).actor = s.actor ∧ (s.censusFall c r n).mem = s.mem ∧
      ∀ x, ((s.censusFall c r n).cl c).tile x = (s.cl c).tile x := by
  cases r with
  | none => exact ⟨rfl, rfl, fun _ => rfl⟩
  | some q =>
    have hruns : (n != 0 && ((s.cl c).resident q).census != 0 && decide (((s.cl c).resident q).census ≤ n) &&
        !((s.cl c).resident q).csat) = false := by
      obtain h | h | h | h := h q rfl
      · simp [h]
      · simp [h]
      · simp [Nat.not_le.2 h]
      · simp [h]
    rw [State.censusFall, if_neg (ne_true_of_eq_false hruns)]
    exact ⟨rfl, rfl, fun x => by rw [State.cl_setCl_same]; rfl⟩

theorem tileOwner_of_fabric {s t : State} (h : t.fabric = s.fabric) (c x : Nat) : (t.cl c).tileOwner x = (s.cl c).tileOwner x :=
  (congrArg (Cluster.tileOwner · x) (cl_of_fabric h c) :)

section
variable {s : State} {f : FireOut} (hpow : 1 ≤ (s.cl s.here).power.get (s.spineOf s.here (s.actor.unit % 256)) 0)
  (hkills : f.kills = [])
  (hruns : (s.cl s.here).outlives ((s.cl s.here).tileOwner (s.actor.unit % 256))
    ((tileHere s).lk.afterFire (tileHere s).cfgNow f).1)
include hpow hkills hruns

/-- A firing that has power, drives no kill and ends no residency leaves its tile as `Tile.afterFire` says, and memory as it
was. -/
theorem State.applyFire_outlived {u : State} (hu : s.applyFire s.here (s.actor.unit % 256) 1 false f = u) :
    u.here = s.here ∧ u.mem = s.mem ∧ tileHere u = (tileHere s).afterFire f := by
  have hdraw := State.drawPower_of_le (1 * f.cycles) hpow
  generalize hk : Cluster.mk .. = k at hdraw
  have hktile : k.tile (s.actor.unit % 256) = tileHere s := hk ▸ rfl
  have hkowner : k.tileOwner (s.actor.unit % 256) = (s.cl s.here).tileOwner (s.actor.unit % 256) := hk ▸ rfl
  have hkres : ∀ q, k.resident q = (s.cl s.here).resident q := fun q => hk ▸ rfl
  generalize hw : s.setCl s.here (k.setTile (s.actor.unit % 256) ((tileHere s).afterFire f)) = w
  have hwcl : w.cl s.here = k.setTile (s.actor.unit % 256) ((tileHere s).afterFire f) := by rw [← hw, State.cl_setCl_same]
  generalize hctx : (match (k.setTile (s.actor.unit % 256) ((tileHere s).afterFire f)).tileOwner (s.actor.unit % 256) with
    | some r => ((k.setTile (s.actor.unit % 256) ((tileHere s).afterFire f)).resident r).ctx
    | none => 0) = ctx
  generalize hv : f.checks.foldl (fun v lane => v.machineCheck s.here ctx 8 (s.actor.unit % 256) 0 0 lane) w = v
  have hstep : s.applyFire s.here (s.actor.unit % 256) 1 false f = v.censusFall s.here
      ((v.cl s.here).tileOwner (s.actor.unit % 256)) ((tileHere s).lk.afterFire (tileHere s).cfgNow f).1 := by
    unfold State.applyFire
    rw [hdraw]
    simp only [hkills, List.foldl_nil, State.cl_setCl_same, hktile, State.setCl_setCl]
    rw [← hv, ← hw, ← hctx]
    rfl
  obtain ⟨hvf, hvm⟩ : v.fabric = w.fabric ∧ v.mem = w.mem := Prod.ext_iff.1 (hv ▸
    foldl_keeps (fun v : State => (v.fabric, v.mem)) _
      (fun v lane => Prod.ext (State.machineCheck_fabric ..) (State.machineCheck_mem ..)) f.checks w)
  have hvruns : (v.cl s.here).outlives ((v.cl s.here).tileOwner (s.actor.unit % 256))
      ((tileHere s).lk.afterFire (tileHere s).cfgNow f).1 := by
    intro q hq
    rw [resident_of_fabric hvf, hwcl]
    rw [tileOwner_of_fabric hvf, hwcl] at hq
    exact hkres q ▸ hruns q (hkowner ▸ hq)
  obtain ⟨hactor, hmem, htile⟩ := State.censusFall_outlived hvruns
  rw [← hstep, hu] at hactor hmem htile
  have hwa : w.actor = s.actor := hw ▸ rfl
  have hua : u.actor = s.actor := hactor.trans ((actor_of_fabric hvf).trans hwa)
  refine ⟨congrArg Actor.cl hua, hmem.trans (hvm.trans (hw ▸ rfl)), ?_⟩
  rw [tileHere_of_actor hua, htile, tile_of_fabric hvf, hwcl, Cluster.tile_setTile_same]

end

/-! ### The turn of a memory tile's word -/

/-- The acting memory tile, about to run a word with fields `f`. -/
def mtHere (s : State) (f : MtF) : MtCtx := s.mtOf s.here (s.actor.unit % 256) f

/-- The pops of a firing that leaves its residency running let it run on. -/
theorem outlives_of_staysResident {s : State} {f : MtF} (hstay : staysResident s (mtToks s f)) {o : FireOut}
    (ho : o.pops = mtSlots f) : (s.cl s.here).outlives ((s.cl s.here).tileOwner (s.actor.unit % 256))
      ((tileHere s).lk.afterFire (tileHere s).cfgNow o).1 := by
  refine Cluster.outlives_mono (fun q hq => hstay q hq) ((Links.afterFire_fall_le ..).trans ?_)
  have hnodup : (mtSlots f).Nodup := List.nodup_range.filter _
  rw [ho, Links.popSlots_kept hnodup]
  rfl

section
variable {s : State} {f : MtF} (h : mtFires s f)
include h

/-- A word whose slots all hold tokens fires on them (R91). -/
theorem State.runMt_fires (body : MtCtx → List Token → FireOut) : s.runMt f body =
    .next (s.applyFire s.here (s.actor.unit % 256) 1 false { body (mtHere s f) (mtToks s f) with pops := mtSlots f }) := by
  obtain ⟨hmay, hslots, hheads, hroom0, hroom1, -⟩ := h
  have hp : s.mtOf s.here (s.actor.unit % 256) f = mtHere s f := rfl
  have ht : (mtHere s f).t = tileHere s := rfl
  have hg : (mtHere s f).g = (tileHere s).cfgNow := rfl
  have hempty : (mtSlots f).isEmpty = false := by rw [Bool.eq_false_iff, Ne, List.isEmpty_iff]; exact hslots
  have hany : (mtSlots f).any (tileHere s).ended = false := List.any_eq_false.2 fun i hi => by simp [(hheads i hi).1]
  obtain ⟨i, hi⟩ := List.exists_mem_of_ne_nil _ hslots
  have hall : (mtSlots f).all (tileHere s).ended = false := List.all_eq_false.2 ⟨i, hi, by simp [(hheads i hi).1]⟩
  have hsending : (tileHere s).sending = false := by
    rw [Tile.sending, List.isEmpty_iff.1 hroom0, List.isEmpty_iff.1 hroom1]
    rfl
  have hnone : ((mtSlots f).map (fun i => (tileHere s).lk.peekSlot i (tileHere s).cfgNow.cfg)).any Option.isNone = false := by
    refine List.any_eq_false.2 fun o ho => ?_
    obtain ⟨i, hi, rfl⟩ := List.mem_map.1 ho
    rw [Option.isNone_eq_false_iff.2 (hheads i hi).2]
    exact Bool.false_ne_true
  have htoks : ((mtSlots f).map (fun i => (tileHere s).lk.peekSlot i (tileHere s).cfgNow.cfg)).map (fun t => t.getD {}) =
      mtToks s f := List.map_map
  unfold State.runMt
  simp only [hp, ht, hg, hmay, hempty, hany, hall, hsending, hnone, htoks, hroom0, hroom1, Bool.not_true, Bool.or_false,
    Bool.or_true, Bool.false_eq_true, if_false]

/-- What a word leaves that sends `ts` on its output: `ts` in the output register, the region contents of `o`, and the next
firing index. -/
theorem leaves_of_mtFires {i : Instr} {body : MtCtx → List Token → FireOut} {o : FireOut} {ts : List Token}
    (hexec : exec i s = s.runMt f body) (hbody : body (mtHere s f) (mtToks s f) = (mtHere s f).outs o ts)
    (h0 : o.out0 = []) (h1 : o.out1 = []) (hkills : o.kills = []) (hts : ∀ t ∈ ts, t.Fresh)
    (hstay : ts ≠ [] ∨ staysResident s (mtToks s f)) :
    leaves i s (fun u => outToks u (mtOutNo f) = ts ∧ (tileHere u).fidx = ((tileHere s).fidx + 1) % 2 ^ 32 ∧
      (tileHere u).mt = o.mt ∧ u.mem = s.mem) := by
  have hrun := State.runMt_fires h body
  have hstays := fun hstay : staysResident s (mtToks s f) =>
    outlives_of_staysResident (o := { (mtHere s f).outs o ts with pops := mtSlots f }) hstay rfl
  obtain ⟨-, -, -, hroom0, hroom1, hnokills, hheard, hpow⟩ := h
  have hof : (mtHere s f).f = f := rfl
  rw [hbody] at hrun
  generalize hfo : ({ (mtHere s f).outs o ts with pops := mtSlots f } : FireOut) = fo at hrun hstays
  have hfk : fo.kills = [] ∧ fo.mt = o.mt := by
    rw [← hfo, MtCtx.outs]
    split
    · exact ⟨hkills, rfl⟩
    · exact ⟨hkills, rfl⟩
  have hlinks : (((tileHere s).lk.afterFire (tileHere s).cfgNow fo).2.out (4 + mtOutNo f)).map (fun e => plainTok e.tok) = ts ∧
      (ts ≠ [] → ((tileHere s).lk.afterFire (tileHere s).cfgNow fo).1 = 0) := by
    cases hosel : f.osel with
    | true =>
      have hno : mtOutNo f = 1 := by rw [mtOutNo, hosel]; rfl
      have hfo0 : fo.out0 = [] := by rw [← hfo, MtCtx.outs, hof, hosel, if_pos rfl]; exact h0
      have hfo1 : fo.out1 = ts := by rw [← hfo, MtCtx.outs, hof, hosel, if_pos rfl]
      have hout := Links.afterFire_out_one (f := fo) hnokills (hno ▸ hheard) (List.isEmpty_iff.1 hroom1)
        (by rw [hfo0]; nofun) (by rwa [hfo1])
      rwa [hno, ← hfo1]
    | false =>
      have hno : mtOutNo f = 0 := by rw [mtOutNo, hosel]; rfl
      have hfo0 : fo.out0 = ts := by rw [← hfo, MtCtx.outs, hof, hosel, if_neg Bool.false_ne_true]
      have hfo1 : fo.out1 = [] := by rw [← hfo, MtCtx.outs, hof, hosel, if_neg Bool.false_ne_true]; exact h1
      obtain ⟨hout, -, hfall⟩ := Links.afterFire_out (f := fo) hnokills (hno ▸ hheard) (List.isEmpty_iff.1 hroom0)
        (List.isEmpty_iff.1 hroom1) (by rwa [hfo0]) (by rw [hfo1]; nofun)
      rw [hno, ← hfo0]
      exact ⟨hout, fun hne => hfall (.inl hne)⟩
  obtain ⟨hout, hfall⟩ := hlinks
  have hruns := hstay.elim (fun hne => (hfall hne).symm ▸ Cluster.outlives_zero _ _) hstays
  obtain ⟨-, hmem, htile⟩ := State.applyFire_outlived hpow hfk.1 hruns rfl
  refine ⟨_, hexec.trans hrun, ?_, ?_, ?_, hmem⟩
  · rw [outToks, htile]
    exact hout
  · rw [htile]
    rfl
  · rw [htile]
    exact hfk.2

end

end Sys2Proof.Machine
end

section
/-! SUPPORT. The words of a memory tile that act lane by lane (R203, R205 to R209): what each lane finds and leaves. -/

namespace Sys2Proof.Machine

/-! ### Words of an MT -/

@[simp] theorem mtGet_mtSet_same (mt : Tab Nat) (i v : Nat) : mtGet (mtSet mt i v) i = v % 2 ^ 32 := by
  unfold mtGet mtSet
  split
  · next h => rw [Tab.get, Tab.find_del_same, h]; rfl
  · exact Tab.get_put_same ..

theorem mtGet_mtSet_other (mt : Tab Nat) {i j : Nat} (v : Nat) (h : j ≠ i) : mtGet (mtSet mt i v) j = mtGet mt j :=
  mtSet_get_other mt v h

theorem Tab.find_filter_key {V : Type} (t : Tab V) (p : Nat → Bool) (k : Nat) :
    Tab.find (t.filter (fun e => p e.1)) k = if p k then t.find k else none := by
  induction t with
  | nil => exact (ite_self _).symm
  | cons e t ih =>
    obtain ⟨j, v⟩ := e
    by_cases hj : j = k
    · subst hj
      cases hp : p j with
      | true => simp [Tab.find, hp]
      | false => simp [hp, ih]
    · cases hp : p j with
      | true => simp [Tab.find, hp, hj, ih]
      | false => simp [Tab.find, hp, hj, ih]

theorem mtGet_mtCleared (f : MtF) (mt : Tab Nat) (n : Nat) :
    mtGet (mtCleared f mt) n = if mtFirst f ≤ n ∧ n < mtFirst f + mtSize f then 0 else mtGet mt n := by
  have hfind := Tab.find_filter_key mt (fun k => !(decide (mtFirst f ≤ k) && decide (k < mtFirst f + mtSize f))) n
  unfold mtGet Tab.get mtCleared
  rw [hfind]
  by_cases hn : mtFirst f ≤ n ∧ n < mtFirst f + mtSize f
  · rw [if_pos hn, if_neg (by simpa using hn)]
    rfl
  · rw [if_neg hn, if_pos (by simpa only [← Bool.decide_and, Bool.not_eq_true', decide_eq_false_iff_not] using hn)]

/-! ### Folds over lanes -/

/-- Sums taken modulo `M` at each step. -/
theorem foldl_add_mod {α : Type} (M : Nat) (y : α → Nat) (l : List α) (x : Nat) :
    l.foldl (fun x a => (x + y a) % M % M) x % M = (x + (l.map y).sum) % M := by
  induction l generalizing x with
  | nil => rfl
  | cons a l ih => rw [List.foldl_cons, ih, Nat.mod_mod, Nat.mod_add_mod, List.map_cons, List.sum_cons, Nat.add_assoc]

/-- A fold whose steps see no more than the residue of what they get. -/
theorem foldl_mod {α : Type} {M : Nat} {g : Nat → α → Nat} (hg : ∀ x a, g (x % M) a = g x a) (l : List α) (x : Nat) :
    l.foldl (fun x a => g x a % M) x % M = l.foldl g x % M := by
  refine List.foldl_rel (r := fun x y => x % M = y % M) rfl fun a _ x y hxy => ?_
  rw [Nat.mod_mod, ← hg x, hxy, hg y]

/-- Of values written one after another the last stays. -/
theorem foldl_last {α : Type} (y : α → Nat) (l : List α) (x : Nat) :
    l.foldl (fun _ a => y a) x = (l.getLast?.map y).getD x := by
  obtain rfl | ⟨l, a, rfl⟩ := l.eq_nil_or_concat
  · rfl
  · rw [List.concat_eq_append, List.foldl_append, List.getLast?_concat]
    rfl

/-- The bits of a word in which lanes set a bit each (R206). -/
theorem testBit_foldl_or {α : Type} (u : α → Nat) (l : List α) (x : Nat) {b : Nat} (hb : b < 32) :
    (l.foldl (fun x a => (x ||| 2 ^ (u a % 32)) % 2 ^ 32) x).testBit b = (x.testBit b || l.any (fun a => u a % 32 == b)) := by
  induction l generalizing x with
  | nil => exact (Bool.or_false _).symm
  | cons a l ih =>
    rw [List.foldl_cons, ih, Nat.testBit_mod_two_pow, decide_eq_true hb, Bool.true_and, Nat.testBit_or, Nat.testBit_two_pow,
      List.any_cons, Bool.or_assoc]
    rfl

/-! ### Lanes of a token -/

/-- A token's lanes are words. -/
theorem tokensOf_congr_mod {tag : Nat} {v bad : BitVec 16} {f g : Nat → Nat} (m : Mk)
    (h : ∀ i, i < 16 → v.getLsbD i = true → bad.getLsbD i = false → f i % 2 ^ 32 = g i % 2 ^ 32) :
    tokensOf tag v bad f m = tokensOf tag v bad g m := by
  have hmod : ∀ f : Nat → Nat, tokensOf tag v bad f m = tokensOf tag v bad (fun i => f i % 2 ^ 32) m := fun f => by
    have hls : ∀ p : Nat → Bool, lanesOf (fun i => if p i then f i else 0) =
        lanesOf (fun i => if p i then f i % 2 ^ 32 else 0) := fun p => List.map_congr_left fun i _ => by
        cases hp : p i with
        | true => exact BitVec.eq_of_toNat_eq (by simp [hp])
        | false => simp [hp]
    simp only [tokensOf, hls]
  rw [hmod f, hmod g, tokensOf_congr m h]

theorem opLane_lt (ts : List Token) (k l : Nat) : opLane ts k l < 2 ^ 32 := Token.lane_lt _ _

/-! ### The lanes of a word, one after another -/

section
variable (s : State) (f : MtF) (idx : Nat → Nat) (writes : Bool) (step : Nat → Nat → Nat → Nat × Nat × Nat)

/-- What lane `l` makes of its word `x`. -/
def mtStep (x l : Nat) : Nat × Nat × Nat := step (opLane (mtToks s f) 0 l) (opLane (mtToks s f) 1 l) x

/-- The turn of lane `l`: the MT's words, the lanes' results so far, and their flags. -/
def mtTurn (st : Tab Nat × List Nat × Nat) (l : Nat) : Tab Nat × List Nat × Nat :=
  if mtLane s f idx l then
    let w := mtFirst f + idx (opLane (mtToks s f) 0 l)
    let r := mtStep s f step (mtGet st.1 w) l
    (if writes then mtSet st.1 w r.1 else st.1, st.2.1 ++ [r.2.1], st.2.2 ||| r.2.2)
  else (st.1, st.2.1 ++ [0], st.2.2)

/-- The lanes below `n` have had their turns. -/
def mtTurns (n : Nat) : Tab Nat × List Nat × Nat := (List.range n).foldl (mtTurn s f idx writes step) ((tileHere s).mt, [], 0)

theorem mtTurns_succ (n : Nat) : mtTurns s f idx writes step (n + 1) =
    mtTurn s f idx writes step (mtTurns s f idx writes step n) n := by
  rw [mtTurns, List.range_succ, List.foldl_append]
  rfl

variable {s f idx} in
theorem mtTurn_live {l : Nat} (hl : mtLane s f idx l = true) (st : Tab Nat × List Nat × Nat) :
    mtTurn s f idx writes step st l =
      let w := mtFirst f + idx (opLane (mtToks s f) 0 l)
      let r := mtStep s f step (mtGet st.1 w) l
      (if writes then mtSet st.1 w r.1 else st.1, st.2.1 ++ [r.2.1], st.2.2 ||| r.2.2) := if_pos hl

variable {s f idx} in
theorem mtTurn_idle {l : Nat} (hl : mtLane s f idx l = false) (st : Tab Nat × List Nat × Nat) :
    mtTurn s f idx writes step st l = (st.1, st.2.1 ++ [0], st.2.2) := if_neg (ne_true_of_eq_false hl)

theorem mtLanesAt_succ (n w : Nat) : mtLanesAt s f idx (n + 1) w = mtLanesAt s f idx n w ++
    if mtLane s f idx n && idx (opLane (mtToks s f) 0 n) == w then [n] else [] := by
  rw [mtLanesAt, List.range_succ, List.filter_append, List.filter_singleton, Bool.cond_eq_ite]
  rfl

theorem length_mtTurns (n : Nat) : (mtTurns s f idx writes step n).2.1.length = n := by
  induction n with
  | zero => rfl
  | succ n ih =>
    rw [mtTurns_succ]
    cases hl : mtLane s f idx n with
    | true => rw [mtTurn_live _ _ hl, List.length_append, ih]; rfl
    | false => rw [mtTurn_idle _ _ hl, List.length_append, ih]; rfl

/-- A lane's result comes from the word as the lanes before it have left it. -/
theorem mtTurns_result {l n : Nat} (hl : l < n) (hlive : mtLane s f idx l = true) :
    (mtTurns s f idx writes step n).2.1.getD l 0 =
      (mtStep s f step (mtGet (mtTurns s f idx writes step l).1 (mtFirst f + idx (opLane (mtToks s f) 0 l))) l).2.1 := by
  induction n with
  | zero => cases hl
  | succ n ih =>
    have hlen := length_mtTurns s f idx writes step n
    obtain hln | rfl := Nat.lt_succ_iff_lt_or_eq.1 hl
    · rw [← ih hln, mtTurns_succ]
      cases hn : mtLane s f idx n with
      | true => rw [mtTurn_live _ _ hn]; exact List.getD_append _ _ _ _ (hlen.symm ▸ hln)
      | false => rw [mtTurn_idle _ _ hn]; exact List.getD_append _ _ _ _ (hlen.symm ▸ hln)
    · rw [mtTurns_succ, mtTurn_live _ _ hlive]
      exact (List.getD_append_right _ _ _ _ hlen.le).trans (by rw [hlen, Nat.sub_self]; rfl)

/-- A word that only reads leaves the MT as it is. -/
theorem mtTurns_reads (n : Nat) : (mtTurns s f idx false step n).1 = (tileHere s).mt := by
  induction n with
  | zero => rfl
  | succ n ih =>
    rw [mtTurns_succ, ← ih]
    cases hl : mtLane s f idx n with
    | true => rw [mtTurn_live _ _ hl]; rfl
    | false => rw [mtTurn_idle _ _ hl]

/-- A region word sees the lanes that name it, in their order. -/
theorem mtTurns_word (n w : Nat) : mtGet (mtTurns s f idx true step n).1 (mtFirst f + w) =
    (mtLanesAt s f idx n w).foldl (fun x l => (mtStep s f step x l).1 % 2 ^ 32) (mtWord s (mtFirst f + w)) := by
  induction n with
  | zero => rfl
  | succ n ih =>
    rw [mtTurns_succ, mtLanesAt_succ, List.foldl_append, ← ih]
    cases hl : mtLane s f idx n with
    | true =>
      rw [mtTurn_live _ _ hl, Bool.true_and]
      dsimp only
      rw [if_pos rfl]
      by_cases hw : idx (opLane (mtToks s f) 0 n) = w
      · rw [hw, if_pos (beq_self_eq_true w), mtGet_mtSet_same]
        rfl
      · rw [if_neg (by simpa using hw), mtGet_mtSet_other _ _ (by omega)]
        rfl
    | false => rw [mtTurn_idle _ _ hl]; rfl

/-- No lane reaches outside the region. -/
theorem mtTurns_outside (n : Nat) {w : Nat} (hw : ¬(mtFirst f ≤ w ∧ w < mtFirst f + mtSize f)) :
    mtGet (mtTurns s f idx writes step n).1 w = mtWord s w := by
  induction n with
  | zero => rfl
  | succ n ih =>
    rw [mtTurns_succ, ← ih]
    cases hl : mtLane s f idx n with
    | true =>
      have hlt : idx (opLane (mtToks s f) 0 n) < mtSize f := of_decide_eq_true ((Bool.and_eq_true _ _).mp hl).2
      rw [mtTurn_live _ _ hl]
      dsimp only
      split
      · exact mtGet_mtSet_other _ _ (by omega)
      · rfl
    | false => rw [mtTurn_idle _ _ hl]

/-- Lane `l` has an index, which is not poisoned itself and lies outside the region (R203). -/
def mtFar (l : Nat) : Bool :=
  (mtValid (mtToks s f) &&& ~~~((mtToks s f).headD {}).pmask).getLsbD l && decide (mtSize f ≤ idx (opLane (mtToks s f) 0 l))

/-- The index of a lane that is not poisoned is not poisoned either. -/
theorem mtLane_eq {l : Nat} (hl : l < 16) :
    ((mtValid (mtToks s f) &&& ~~~mtPoison (mtToks s f)).getLsbD l && !mtFar s f idx l) = mtLane s f idx l := by
  have hhead : (mtValid (mtToks s f)).getLsbD l = true → (mtPoison (mtToks s f)).getLsbD l = false →
      ((mtToks s f).headD {}).pmask.getLsbD l = false := fun hv hbad => by
    rw [mtPoison, BitVec.getLsbD_and, hv, Bool.true_and, getLsbD_maskOf _ hl] at hbad
    cases ht : mtToks s f with
    | nil => exact BitVec.getLsbD_zero
    | cons t ts =>
      rw [ht, List.any_cons, Bool.or_eq_false_iff] at hbad
      exact hbad.1
  unfold mtLane mtFar
  simp only [BitVec.getLsbD_and, BitVec.getLsbD_not, decide_eq_true hl, Bool.true_and]
  cases hv : (mtValid (mtToks s f)).getLsbD l with
  | false => rfl
  | true =>
    cases hbad : (mtPoison (mtToks s f)).getLsbD l with
    | true => rfl
    | false =>
      rw [hhead hv hbad]
      simp [decide_not.symm]

theorem mtOutLanes_eq : (mtValid (mtToks s f) &&& ~~~mtPoison (mtToks s f) &&&
      ~~~maskOf (mtFar s f idx)) ||| mtPoison (mtToks s f) = mtOutLanes s f idx := by
  refine congrArg (· ||| mtPoison (mtToks s f)) (BitVec.eq_of_getLsbD_eq fun l hl => ?_)
  rw [BitVec.getLsbD_and, BitVec.getLsbD_not, decide_eq_true hl, Bool.true_and, getLsbD_maskOf _ hl, getLsbD_maskOf _ hl,
    mtLane_eq s f idx hl]

/-- What a word whose lanes act one after another does. -/
theorem MtCtx.lanesAct_eq :
    let r := (mtHere s f).lanesAct (mtToks s f) idx writes step
    r.1 = (mtTurns s f idx writes step 16).1 ∧ (r.2.1 = fun l => (mtTurns s f idx writes step 16).2.1.getD l 0) ∧
      r.2.2.1 = mtOutLanes s f idx ∧ r.2.2.2.mt = (mtTurns s f idx writes step 16).1 ∧ r.2.2.2.out0 = [] ∧
      r.2.2.2.out1 = [] ∧ r.2.2.2.kills = [] := by
  unfold MtCtx.lanesAct
  dsimp only
  rw [List.foldl_ext (g := mtTurn s f idx writes step)]
  rotate_left
  · intro st l hl
    rw [mtTurn, ← mtLane_eq s f idx (List.mem_range.1 hl)]
    rfl
  generalize hst : (List.range 16).foldl (mtTurn s f idx writes step) ((mtHere s f).t.mt, [], 0) = st
  have hturns : mtTurns s f idx writes step 16 = st := hst
  rw [hturns]
  exact ⟨rfl, rfl, mtOutLanes_eq s f idx, rfl, rfl, rfl, rfl⟩

end

end Sys2Proof.Machine
end

section
/-! SUPPORT. What the words of a memory tile leave that read, look up, write, count, add and clear (R205 to R209). -/

namespace Sys2Proof.Machine

/-- Word `n` lies in the region of a word with fields `f`. -/
abbrev inRegion (f : MtF) (n : Nat) : Prop := mtFirst f ≤ n ∧ n < mtFirst f + mtSize f

/-- A word changes nothing outside its region. -/
def mtFrame (s u : State) (f : MtF) : Prop := u.mem = s.mem ∧ ∀ n, ¬inRegion f n → mtWord u n = mtWord s n

/-- The acting lanes that name word `n`. -/
def lanesOfWord (s : State) (f : MtF) (idx : Nat → Nat) (n : Nat) : List Nat := mtLanesAt s f idx 16 (n - mtFirst f)

/-! ### Turns of sixteen lanes -/

section
variable {s u : State} {f : MtF} {idx : Nat → Nat} {step : Nat → Nat → Nat → Nat × Nat × Nat}

theorem mtFrame_of_turns {writes : Bool} (hmem : u.mem = s.mem) (hmt : (tileHere u).mt = (mtTurns s f idx writes step 16).1) :
    mtFrame s u f :=
  ⟨hmem, fun n hn => (congrArg (mtGet · n) hmt).trans (mtTurns_outside s f idx writes step 16 hn)⟩

theorem mtWord_of_turns (hmt : (tileHere u).mt = (mtTurns s f idx true step 16).1) {n : Nat} (hn : inRegion f n) :
    mtWord u n = (lanesOfWord s f idx n).foldl (fun x l => (mtStep s f step x l).1 % 2 ^ 32) (mtWord s n) := by
  obtain ⟨w, rfl⟩ := Nat.exists_eq_add_of_le hn.1
  rw [lanesOfWord, Nat.add_sub_cancel_left]
  exact (congrArg (mtGet · _) hmt).trans (mtTurns_word s f idx step 16 w)

/-- The tokens of a word each lane of which sends what it makes of its word as the lanes before it have left it. -/
theorem laneToks_eq {tag : Nat} {writes : Bool} {g : Nat → Nat} (m : Mk) (hg : ∀ l, mtLane s f idx l = true →
      (mtStep s f step (mtGet (mtTurns s f idx writes step l).1 (mtFirst f + idx (opLane (mtToks s f) 0 l))) l).2.1 % 2 ^ 32 =
        g l % 2 ^ 32) :
    tokensOf tag (mtOutLanes s f idx) (mtPoison (mtToks s f)) (fun l => (mtTurns s f idx writes step 16).2.1.getD l 0) m =
      tokensOf tag (mtOutLanes s f idx) (mtPoison (mtToks s f)) g m := by
  refine tokensOf_congr_mod m fun l hl hv hbad => ?_
  have hlive : mtLane s f idx l = true := by
    rwa [mtOutLanes, BitVec.getLsbD_or, hbad, Bool.or_false, getLsbD_maskOf _ hl] at hv
  rw [mtTurns_result s f idx writes step hl hlive]
  exact hg l hlive

end

/-- What a lane of a histogram makes of its word: it counts one more, and finds the count so far (R207). -/
def countStep (_ _ old : Nat) : Nat × Nat × Nat := ((old + 1) % 2 ^ 32, old, 0)

/-- MTHIST under ACT (R207). -/
theorem MtCtx.histOut_act (p : MtCtx) (toks : List Token) (hmkb : p.f.mkb.toNat = mkAct) :
    let r := p.lanesAct toks id true countStep
    let m := strongest (toks.map Token.mark)
    p.histOut toks = if m.any then p.outs { r.2.2.2 with mt := mtCleared p.f r.1, cycles := mtRows p.f } (p.regionToks r.1 m)
      else { r.2.2.2 with keep := true } := by
  have hact : ¬(p.f.mkb.toNat != mkAct) = true := by rw [bne_iff_ne, Decidable.not_not]; exact hmkb
  have hstep : countStep = fun (_ _ old : Nat) => ((old + 1) % 2 ^ 32, old, 0) := rfl
  rw [hstep]
  unfold MtCtx.histOut
  dsimp only
  rw [if_neg hact]

theorem MtCtx.lanesOut_eq (p : MtCtx) (toks : List Token) (tag : Nat) (idx : Nat → Nat) (writes : Bool)
    (step : Nat → Nat → Nat → Nat × Nat × Nat) :
    let r := p.lanesAct toks idx writes step
    p.lanesOut toks tag idx writes step = p.outs r.2.2.2 (tokensOf tag r.2.2.1 (mtPoison toks) r.2.1 (p.mark toks)) := by
  unfold MtCtx.lanesOut
  generalize p.lanesAct toks idx writes step = r
  rfl

theorem MtCtx.outs_nil (p : MtCtx) {o : FireOut} (h0 : o.out0 = []) (h1 : o.out1 = []) : p.outs o [] = o := by
  obtain ⟨⟩ := o
  subst h0 h1
  exact ite_self _

/-- Among the lanes of one word, those that name a bit of it name one index (R206). -/
theorem any_lane_names (s : State) (f : MtF) (n x : Nat) :
    ((mtLanesAt s f (fun x => x / 32) n (x / 32)).any fun k => opLane (mtToks s f) 0 k % 32 == x % 32) =
      (mtLanesAt s f (fun x => x / 32) n (x / 32)).any fun k => opLane (mtToks s f) 0 k == x := by
  rw [Bool.eq_iff_iff, List.any_eq_true, List.any_eq_true]
  refine exists_congr fun k => and_congr_right fun hk => ?_
  obtain ⟨-, hword⟩ := (Bool.and_eq_true _ _).mp (List.mem_filter.1 hk).2
  have hquot : opLane (mtToks s f) 0 k / 32 = x / 32 := beq_iff_eq.1 hword
  rw [beq_iff_eq, beq_iff_eq]
  omega

/-- A word counts the lanes that name it. -/
theorem foldl_countStep (s : State) (f : MtF) (ls : List Nat) (x : Nat) :
    ls.foldl (fun x l => (mtStep s f countStep x l).1 % 2 ^ 32) x % 2 ^ 32 = (x + ls.length) % 2 ^ 32 := by
  refine (foldl_add_mod (2 ^ 32) (fun _ => 1) ls x).trans ?_
  rw [List.map_const', List.sum_replicate, smul_eq_mul, Nat.mul_one]

/-- An FP32 operand is a word. -/
theorem decode_fp32_mod (x : Nat) (subin : Bool) : fp32.decode (x % 2 ^ 32) subin = fp32.decode x subin := by
  have hbit : bit (x % 2 ^ 32) 31 = bit x 31 := by
    rw [bit, Nat.testBit_mod_two_pow]
    rfl
  have hexp : fld (x % 2 ^ 32) 30 23 = fld x 30 23 := by
    simp only [fld, Nat.shiftRight_eq_div_pow]
    omega
  have hman : x % 2 ^ 32 % 2 ^ 23 = x % 2 ^ 23 := Nat.mod_mod_of_dvd _ (by decide)
  unfold Fmt.decode
  dsimp only [fp32, Fmt.mw]
  rw [hbit, hexp, hman]

theorem mtAdd_mod (x y : Nat) : mtAdd (x % 2 ^ 32) y = mtAdd x y := by rw [mtAdd, decode_fp32_mod]; rfl

/-- The table's word nearest to a position, and its value between two words (R208). -/
def lutNearest (s : State) (f : MtF) (x : Nat) : Nat :=
  mtWord s (mtFirst f + min ((x * mtSize f + 2 ^ 31) / 2 ^ 32) (mtSize f - 1))
def lutBetween (s : State) (f : MtF) (x : Nat) : Nat :=
  let T := fun n => mtWord s (mtFirst f + n)
  let n := x * mtSize f
  let i := n / 2 ^ 32
  let frac := (mtRound { m := n % 2 ^ 32, e := -32 }).1
  (mtAdd (T i) (mtMul frac (mtSub (T (min (i + 1) (mtSize f - 1))) (T i)).1).1).1

theorem MtCtx.lut_nearest (s : State) {f : MtF} (x : Nat) (hmod : f.mod = 0) : ((mtHere s f).lut x).1 = lutNearest s f x :=
  congrArg Prod.fst (if_pos hmod)

theorem MtCtx.lut_between (s : State) {f : MtF} (x : Nat) (hmod : f.mod ≠ 0) : ((mtHere s f).lut x).1 = lutBetween s f x := by
  have hmod : ¬(mtHere s f).f.mod = 0 := hmod
  unfold MtCtx.lut
  dsimp only
  rw [if_neg hmod]
  rfl

/-- The step sends the lanes `g`, and leaves the MT and memory as they are. -/
def mtSends (i : Instr) (s : State) (f : MtF) (tag : Nat) (v : BitVec 16) (g : Nat → Nat) : Prop :=
  leaves i s (fun u => outToks u (mtOutNo f) = tokensOf tag v (mtPoison (mtToks s f)) g (mtMark s f) ∧
    (tileHere u).fidx = ((tileHere s).fidx + 1) % 2 ^ 32 ∧ (tileHere u).mt = (tileHere s).mt ∧ u.mem = s.mem)

section
variable {s : State} {f : MtF} (h : mtFires s f)
include h

section
variable {i : Instr} {body : MtCtx → List Token → FireOut} (hexec : exec i s = s.runMt f body) {idx : Nat → Nat}
  {writes : Bool} {step : Nat → Nat → Nat → Nat × Nat × Nat}
include hexec

theorem leaves_lanesOut {tag : Nat}
    (hbody : body (mtHere s f) (mtToks s f) = (mtHere s f).lanesOut (mtToks s f) tag idx writes step) :
    leaves i s (fun u => outToks u (mtOutNo f) = tokensOf tag (mtOutLanes s f idx) (mtPoison (mtToks s f))
        (fun l => (mtTurns s f idx writes step 16).2.1.getD l 0) (mtMark s f) ∧
      (tileHere u).fidx = ((tileHere s).fidx + 1) % 2 ^ 32 ∧ (tileHere u).mt = (mtTurns s f idx writes step 16).1 ∧
      u.mem = s.mem) := by
  obtain ⟨-, hout, hlanes, hmt, h0, h1, hkills⟩ := MtCtx.lanesAct_eq s f idx writes step
  rw [← hmt, ← hout, ← hlanes]
  exact leaves_of_mtFires h hexec (hbody.trans (MtCtx.lanesOut_eq ..)) h0 h1 hkills (tokensOf_fresh _ _ _ _ _)
    (.inl (tokensOf_ne_nil _ _ _ _ _))

/-- A word that sends nothing. -/
theorem leaves_silent (hstay : staysResident s (mtToks s f)) {o : FireOut} (hbody : body (mtHere s f) (mtToks s f) = o)
    (h0 : o.out0 = []) (h1 : o.out1 = []) (hkills : o.kills = []) :
    leaves i s (fun u => outToks u (mtOutNo f) = [] ∧ (tileHere u).mt = o.mt ∧ u.mem = s.mem) := by
  obtain ⟨u, hu, hout, -, hrest⟩ := leaves_of_mtFires h hexec (hbody.trans (MtCtx.outs_nil _ h0 h1).symm) h0 h1 hkills nofun
    (.inr hstay)
  exact ⟨u, hu, hout, hrest⟩

theorem leaves_lanesAct (hstay : staysResident s (mtToks s f))
    (hbody : body (mtHere s f) (mtToks s f) = ((mtHere s f).lanesAct (mtToks s f) idx writes step).2.2.2) :
    leaves i s (fun u => (tileHere u).mt = (mtTurns s f idx writes step 16).1 ∧ u.mem = s.mem) := by
  obtain ⟨-, -, -, hmt, h0, h1, hkills⟩ := MtCtx.lanesAct_eq s f idx writes step
  rw [← hmt]
  obtain ⟨u, hu, -, hrest⟩ := leaves_silent h hexec hstay hbody h0 h1 hkills
  exact ⟨u, hu, hrest⟩

end

/-! ### MTRD and MTLUT (R205, R208) -/

theorem mtSends_mtrd :
    mtSends (.mtrd f) s f tagRaw (mtOutLanes s f id) (fun l => mtWord s (mtFirst f + opLane (mtToks s f) 0 l)) := by
  obtain ⟨u, hu, hout, hfidx, hmt, hmem⟩ := leaves_lanesOut (i := .mtrd f)
    (body := fun p toks => p.lanesOut toks tagRaw id false (fun _ _ old => (old, old, 0))) h rfl rfl
  refine ⟨u, hu, hout.trans (laneToks_eq _ fun l _ => ?_), hfidx, hmt.trans (mtTurns_reads ..), hmem⟩
  rw [mtTurns_reads]
  rfl

theorem mtKilled_of_fires : (mtHere s f).killed = 0 := by
  obtain ⟨-, -, -, -, -, hkills, -⟩ := h
  exact Links.killed_of_no_kills hkills _ _

/-- MTLUT sends what the table gives at each valid lane's position. -/
theorem mtSends_mtlut {g : Nat → Nat} (hg : ∀ x, ((mtHere s f).lut x).1 = g x) : mtSends (.mtlut f) s f
    (if f.mod = 0 then tagRaw else tagFp32) (mtValid (mtToks s f)) (fun l => g (opLane (mtToks s f) 0 l)) := by
  obtain ⟨flags, hbody⟩ : ∃ flags, (mtHere s f).lutOut (mtToks s f) = (mtHere s f).outs
      { (mtHere s f).idleOut with flags := flags } (tokensOf (if f.mod = 0 then tagRaw else tagFp32) (mtValid (mtToks s f))
        (mtPoison (mtToks s f)) (fun l => g (opLane (mtToks s f) 0 l)) (mtMark s f)) := by
    unfold MtCtx.lutOut
    dsimp only
    refine ⟨_, congrArg (MtCtx.outs _ _) (tokensOf_congr _ fun l hl hv hbad => ?_)⟩
    rw [getD_map_range _ _ hl, mtKilled_of_fires h, and_not_zero, BitVec.getLsbD_and, BitVec.getLsbD_not, hv, hbad,
      decide_eq_true hl, ← hg]
    rfl
  exact leaves_of_mtFires (i := .mtlut f) (body := MtCtx.lutOut) h rfl hbody rfl rfl rfl (tokensOf_fresh _ _ _ _ _)
    (.inl (tokensOf_ne_nil _ _ _ _ _))

theorem mtSends_mtlut_nearest (hmod : f.mod = 0) : mtSends (.mtlut f) s f tagRaw (mtValid (mtToks s f))
    (fun l => lutNearest s f (opLane (mtToks s f) 0 l)) := by
  simpa only [if_pos hmod] using mtSends_mtlut h fun x => MtCtx.lut_nearest s x hmod

theorem mtSends_mtlut_between (hmod : f.mod ≠ 0) : mtSends (.mtlut f) s f tagFp32 (mtValid (mtToks s f))
    (fun l => lutBetween s f (opLane (mtToks s f) 0 l)) := by
  simpa only [if_neg hmod] using mtSends_mtlut h fun x => MtCtx.lut_between s x hmod

/-! ### MTWR, MTTAS, MTHIST, MTACC and MTCLR (R205 to R207, R209) -/

theorem leaves_mtwr (hstay : staysResident s (mtToks s f)) : leaves (.mtwr f) s (fun u => mtFrame s u f ∧
    ∀ n, inRegion f n → mtWord u n = ((lanesOfWord s f id n).getLast?.map (opLane (mtToks s f) 1)).getD (mtWord s n)) := by
  obtain ⟨u, hu, hmt, hmem⟩ := leaves_lanesAct (i := .mtwr f)
    (body := fun p toks => (p.lanesAct toks id true (fun _ y _ => (y, 0, 0))).2.2.2) h rfl hstay rfl
  refine ⟨u, hu, mtFrame_of_turns hmem hmt, fun n hn => (mtWord_of_turns hmt hn).trans ?_⟩
  have hlane : ∀ l, (mtStep s f (fun _ y _ => (y, 0, 0)) 0 l).1 % 2 ^ 32 = opLane (mtToks s f) 1 l :=
    fun l => Nat.mod_eq_of_lt (opLane_lt _ _ _)
  exact (congrArg (List.foldl · _ _) (funext fun _ => funext hlane)).trans (foldl_last (opLane (mtToks s f) 1) _ _)

theorem leaves_mttas : leaves (.mttas f) s (fun u => mtFrame s u f ∧
    outToks u (mtOutNo f) = tokensOf tagUint32 (mtOutLanes s f (fun x => x / 32)) (mtPoison (mtToks s f)) (fun l =>
      let x := opLane (mtToks s f) 0 l
      b2n (bit (mtWord s (mtFirst f + x / 32)) (x % 32) ||
        (mtLanesAt s f (fun x => x / 32) l (x / 32)).any (fun k => opLane (mtToks s f) 0 k == x))) (mtMark s f) ∧
    ∀ n b, inRegion f n → b < 32 → (bit (mtWord u n) b = true ↔ (bit (mtWord s n) b = true ∨
      ∃ k ∈ lanesOfWord s f (fun x => x / 32) n, opLane (mtToks s f) 0 k % 32 = b))) := by
  obtain ⟨u, hu, hout, -, hmt, hmem⟩ := leaves_lanesOut (i := .mttas f)
    (body := fun p toks => p.lanesOut toks tagUint32 (fun u => u / 32) true
      (fun u _ old => (old ||| 2 ^ (u % 32), b2n (bit old (u % 32)), 0))) h rfl rfl
  have hbits := fun ls x b hb => testBit_foldl_or (fun l => opLane (mtToks s f) 0 l) ls x (b := b) hb
  refine ⟨u, hu, mtFrame_of_turns hmem hmt, hout.trans (laneToks_eq _ fun l _ => ?_), fun n b hn hb => ?_⟩
  · rw [mtTurns_word]
    refine congrArg (b2n · % 2 ^ 32) ((hbits _ _ _ (Nat.mod_lt _ (by decide))).trans ?_)
    rw [any_lane_names]
    rfl
  · rw [mtWord_of_turns hmt hn]
    refine (Bool.eq_iff_iff.1 (hbits _ _ b hb)).trans ?_
    simp only [Bool.or_eq_true, List.any_eq_true, beq_iff_eq]
    rfl

theorem leaves_mthist (hmkb : f.mkb.toNat ≠ mkAct) : leaves (.mthist f) s (fun u => mtFrame s u f ∧
    outToks u (mtOutNo f) = tokensOf tagUint32 (mtOutLanes s f id) (mtPoison (mtToks s f)) (fun l =>
      (mtWord s (mtFirst f + opLane (mtToks s f) 0 l) + (mtLanesAt s f id l (opLane (mtToks s f) 0 l)).length) % 2 ^ 32)
      (mtMark s f) ∧
    ∀ n, inRegion f n → mtWord u n % 2 ^ 32 = (mtWord s n + (lanesOfWord s f id n).length) % 2 ^ 32) := by
  have hbody : (mtHere s f).histOut (mtToks s f) = (mtHere s f).lanesOut (mtToks s f) tagUint32 id true countStep :=
    if_pos (bne_iff_ne.2 hmkb)
  obtain ⟨u, hu, hout, -, hmt, hmem⟩ := leaves_lanesOut (i := .mthist f) (body := MtCtx.histOut) h rfl hbody
  refine ⟨u, hu, mtFrame_of_turns hmem hmt, hout.trans (laneToks_eq _ fun l _ => ?_), fun n hn => ?_⟩
  · rw [mtTurns_word, Nat.mod_mod]
    exact foldl_countStep s f _ _
  · rw [mtWord_of_turns hmt hn]
    exact foldl_countStep s f _ _

section
variable (hstay : staysResident s (mtToks s f))
include hstay

/-- Under ACT a token without a marker only counts (R207). -/
theorem leaves_mthist_act (hmkb : f.mkb.toNat = mkAct) (hm : strongest ((mtToks s f).map Token.mark) = .none) :
    leaves (.mthist f) s (fun u => mtFrame s u f ∧ outToks u (mtOutNo f) = [] ∧
      ∀ n, inRegion f n → mtWord u n % 2 ^ 32 = (mtWord s n + (lanesOfWord s f id n).length) % 2 ^ 32) := by
  obtain ⟨-, -, -, hact, h0, h1, hkills⟩ := MtCtx.lanesAct_eq s f id true countStep
  have hbody := ((mtHere s f).histOut_act (mtToks s f) hmkb).trans (if_neg (by rw [hm]; decide))
  obtain ⟨u, hu, hout, hmt, hmem⟩ := leaves_silent (i := .mthist f) (body := MtCtx.histOut) h rfl hstay hbody h0 h1 hkills
  replace hmt := hmt.trans hact
  refine ⟨u, hu, mtFrame_of_turns hmem hmt, hout, fun n hn => ?_⟩
  rw [mtWord_of_turns hmt hn]
  exact foldl_countStep s f _ _

/-- Under ACT a marker sends the whole region and clears it (R207). -/
theorem leaves_mthist_flush (hmkb : f.mkb.toNat = mkAct) (hm : strongest ((mtToks s f).map Token.mark) ≠ .none) :
    leaves (.mthist f) s (fun u => mtFrame s u f ∧ (∀ n, inRegion f n → mtWord u n = 0) ∧
      outToks u (mtOutNo f) = (List.range (mtRows f)).flatMap (fun t =>
        tokensOf tagUint32 (maskOf (fun j => 16 * t + j < mtSize f)) 0 (fun j =>
          (mtWord s (mtFirst f + 16 * t + j) + (lanesOfWord s f id (mtFirst f + 16 * t + j)).length) % 2 ^ 32)
          (if t + 1 = mtRows f then strongest ((mtToks s f).map Token.mark) else .none))) := by
  obtain ⟨hact, -, -, -, h0, h1, hkills⟩ := MtCtx.lanesAct_eq s f id true countStep
  have hbody := ((mtHere s f).histOut_act (mtToks s f) hmkb).trans (if_pos (bne_iff_ne.2 hm))
  rw [hact] at hbody
  obtain ⟨u, hu, hout, -, hmt, hmem⟩ := leaves_of_mtFires (i := .mthist f) (body := MtCtx.histOut) h rfl hbody h0 h1 hkills
    (fun t ht => by
      obtain ⟨n, -, ht⟩ := List.mem_flatMap.1 ht
      exact tokensOf_fresh _ _ _ _ _ t ht) (.inr hstay)
  have hword : ∀ n, mtWord u n = if inRegion f n then 0 else mtGet (mtTurns s f id true countStep 16).1 n := fun n =>
    (congrArg (mtGet · n) hmt).trans (mtGet_mtCleared f _ n)
  refine ⟨u, hu, ⟨hmem, fun n hn => ?_⟩, fun n hn => (hword n).trans (if_pos hn), hout.trans ?_⟩
  · rw [hword, if_neg hn]
    exact mtTurns_outside s f id true countStep 16 hn
  · refine List.flatMap_congr fun t _ => tokensOf_congr_mod _ fun j hj hv _ => ?_
    rw [getLsbD_maskOf _ hj, decide_eq_true_eq] at hv
    have hlanes : lanesOfWord s f id (mtFirst f + 16 * t + j) = mtLanesAt s f id 16 (16 * t + j) := by
      rw [lanesOfWord, Nat.add_assoc, Nat.add_sub_cancel_left]
    have hassoc : mtFirst f + 16 * t + j = mtFirst f + (16 * t + j) := Nat.add_assoc ..
    rw [hlanes, Nat.mod_mod, ← foldl_countStep s f, hassoc, ← mtTurns_word, ← hassoc]
    rfl

theorem leaves_mtacc {step : Nat → Nat → Nat × Nat × Nat} (hstep : ∀ y old, (if f.mod = 0 then ((old + y) % 2 ^ 32, 0, 0)
      else ((mtAdd old y).1, 0, (mtAdd old y).2)) = step y old) :
    leaves (.mtacc f) s (fun u => (tileHere u).mt = (mtTurns s f id true (fun _ => step) 16).1 ∧ u.mem = s.mem) := by
  obtain ⟨body, hexec, hbody⟩ : ∃ body, exec (.mtacc f) s = s.runMt f body ∧
      body (mtHere s f) (mtToks s f) = ((mtHere s f).lanesAct (mtToks s f) id true (fun _ => step)).2.2.2 := by
    have hexec : exec (.mtacc f) s = execMtacc f s := rfl
    unfold execMtacc at hexec
    refine ⟨_, hexec, ?_⟩
    refine congrArg (fun st => ((mtHere s f).lanesAct (mtToks s f) id true st).2.2.2)
      (funext fun _ => funext fun y => funext fun old => Eq.trans ?_ (hstep y old))
    generalize mtAdd old y = z
    rfl
  exact leaves_lanesAct h hexec hstay hbody

theorem leaves_mtacc_int (hmod : f.mod = 0) : leaves (.mtacc f) s (fun u => mtFrame s u f ∧ ∀ n, inRegion f n →
    mtWord u n % 2 ^ 32 = (mtWord s n + ((lanesOfWord s f id n).map (opLane (mtToks s f) 1)).sum) % 2 ^ 32) := by
  obtain ⟨u, hu, hmt, hmem⟩ := leaves_mtacc h hstay (step := fun y old => ((old + y) % 2 ^ 32, 0, 0))
    fun _ _ => if_pos hmod
  refine ⟨u, hu, mtFrame_of_turns hmem hmt, fun n hn => ?_⟩
  rw [mtWord_of_turns hmt hn]
  exact foldl_add_mod (2 ^ 32) (opLane (mtToks s f) 1) _ _

theorem leaves_mtacc_fp (hmod : f.mod ≠ 0) : leaves (.mtacc f) s (fun u => mtFrame s u f ∧ ∀ n, inRegion f n →
    mtWord u n % 2 ^ 32 =
      (lanesOfWord s f id n).foldl (fun x l => (mtAdd x (opLane (mtToks s f) 1 l)).1) (mtWord s n) % 2 ^ 32) := by
  obtain ⟨u, hu, hmt, hmem⟩ := leaves_mtacc h hstay (step := fun y old => ((mtAdd old y).1, 0, (mtAdd old y).2))
    fun _ _ => if_neg hmod
  refine ⟨u, hu, mtFrame_of_turns hmem hmt, fun n hn => ?_⟩
  rw [mtWord_of_turns hmt hn]
  exact foldl_mod (g := fun x l => (mtAdd x (opLane (mtToks s f) 1 l)).1) (fun x l => by rw [mtAdd_mod]) _ _

theorem leaves_mtclr : leaves (.mtclr f) s (fun u => mtFrame s u f ∧ ∀ n, inRegion f n → mtWord u n = 0) := by
  obtain ⟨u, hu, -, hmt, hmem⟩ := leaves_silent (i := .mtclr f)
    (body := fun p _ => { p.idleOut with mt := mtCleared p.f p.t.mt, cycles := mtRows p.f }) h rfl hstay rfl rfl rfl rfl
  have hword : ∀ n, mtWord u n = if inRegion f n then 0 else mtWord s n := fun n =>
    (congrArg (mtGet · n) hmt).trans (mtGet_mtCleared f _ n)
  exact ⟨u, hu, ⟨hmem, fun n hn => (hword n).trans (if_neg hn)⟩, fun n hn => (hword n).trans (if_pos hn)⟩

end

end

end Sys2Proof.Machine
end

section
/-! SUPPORT. Token queues (R210): what a turn sends or stores. -/

namespace Sys2Proof.Machine

/-- Sixteen lanes stored one after another stand at their words, and nothing else changes. -/
theorem mtGet_storeLanes (mt : Tab Nat) (w n : Nat) (g : Nat → Nat) (k : Nat) :
    mtGet ((List.range n).foldl (fun mt j => mtSet mt (w + j) (g j)) mt) k =
      if w ≤ k ∧ k < w + n then g (k - w) % 2 ^ 32 else mtGet mt k := by
  induction n with
  | zero => rw [if_neg (by omega)]; rfl
  | succ n ih =>
    rw [List.range_succ, List.foldl_append, List.foldl_cons, List.foldl_nil]
    by_cases hk : k = w + n
    · subst hk
      rw [mtGet_mtSet_same, if_pos (by omega), Nat.add_sub_cancel_left]
    · rw [mtGet_mtSet_other _ _ hk, ih]
      exact if_congr (by omega) rfl rfl

section
variable {s : State} {f : MtF} {ring : Bool} {flushes : MtCtx → MtQueue → Token → Bool}
  (hmay : (s.cl s.here).mayFire (s.actor.unit % 256) = true) (hsending : (tileHere s).sending = false)
include hmay hsending

theorem State.runQueue_sends (hnow : (mtHere s f).sendsNow ring (mtHere s f).queue = true) :
    s.runQueue f ring flushes = .next (s.queueSend s.here (s.actor.unit % 256) (mtHere s f) (mtHere s f).queue) := by
  have hp : s.mtOf s.here (s.actor.unit % 256) f = mtHere s f := rfl
  have ht : (s.cl s.here).tile (s.actor.unit % 256) = tileHere s := rfl
  unfold State.runQueue
  simp only [hp, ht, hmay, hsending, hnow, Bool.not_true, Bool.or_false, Bool.false_eq_true, if_false, if_true]

theorem State.runQueue_stores (hnow : (mtHere s f).sendsNow ring (mtHere s f).queue = false) {t : Token}
    (hnext : (mtHere s f).storesNext (mtHere s f).queue = some t) :
    s.runQueue f ring flushes = .next (s.queueStore s.here (s.actor.unit % 256) (mtHere s f) (mtHere s f).queue t
      (flushes (mtHere s f) (mtHere s f).queue t)) := by
  have hp : s.mtOf s.here (s.actor.unit % 256) f = mtHere s f := rfl
  have ht : (s.cl s.here).tile (s.actor.unit % 256) = tileHere s := rfl
  unfold State.runQueue
  simp only [hp, ht, hmay, hsending, hnow, hnext, Bool.not_true, Bool.or_false, Bool.false_eq_true, if_false]

end

/-- The tile once its queue `q` has sent its oldest token, or dropped it with its marker. -/
def MtCtx.afterSend (p : MtCtx) (q : MtQueue) : Tile :=
  let o := 4 + mtOutNo p.f
  let u := p.t.lk.units.get (8 + mtOutNo p.f) 0
  let rest := q.toks.drop 1
  { p.t with
    lk := { p.t.lk.setOut o (if p.drops q then p.t.lk.out o else [{ tok := p.oldest q }]) with
            units := p.t.lk.units.put (8 + mtOutNo p.f) (u + b2n (p.oldest q).last) }
    queues := p.t.queues.put ((mtSlots p.f).headD 0) { q with toks := rest, flush := q.flush && !rest.isEmpty }
    fidx := (p.t.fidx + 1) % 2 ^ 32 }

/-- The tile once its queue `q` has stored `t`. -/
def MtCtx.afterStore (p : MtCtx) (q : MtQueue) (t : Token) (flush : Bool) : Tile :=
  let i := (mtSlots p.f).headD 0
  { p.t with
    lk := { p.t.lk.popSlots p.g.cfg [i] with kept := p.t.lk.kept }
    mt := (List.range 16).foldl (fun mt j => mtSet mt (q.base + 16 * (q.stored % q.depth) + j) (t.lane j)) p.t.mt
    queues := p.t.queues.put i { q with toks := q.toks ++ [t], stored := q.stored + 1, flush := q.flush || flush }
    fidx := (p.t.fidx + 1) % 2 ^ 32 }

theorem MtCtx.length_oldest (p : MtCtx) (q : MtQueue) : (p.oldest q).lanes.length = 16 := by
  unfold MtCtx.oldest
  dsimp only
  split
  · exact length_lanesOf _
  · exact length_lanesOf _

theorem MtCtx.afterSend_queues (p : MtCtx) (q : MtQueue) (d : MtQueue) :
    ((p.afterSend q).queues.get ((mtSlots p.f).headD 0) d).toks = q.toks.drop 1 :=
  congrArg MtQueue.toks (Tab.get_put_same ..)

theorem MtCtx.afterStore_queues (p : MtCtx) (q : MtQueue) (t : Token) (flush : Bool) (d : MtQueue) :
    (p.afterStore q t flush).queues.get ((mtSlots p.f).headD 0) d =
      { q with toks := q.toks ++ [t], stored := q.stored + 1, flush := q.flush || flush } := Tab.get_put_same ..

theorem MtCtx.afterStore_outs (p : MtCtx) (q : MtQueue) (t : Token) (flush : Bool) :
    (p.afterStore q t flush).lk.outs = p.t.lk.outs :=
  congrArg Prod.fst (Links.popSlots_keeps ..)

section
variable {s : State} {f : MtF} (hpow : 1 ≤ (s.cl s.here).power.get (s.spineOf s.here (s.actor.unit % 256)) 0) (q : MtQueue)
include hpow

/-- A send changes its cluster's power and its tile; no census falls by a token that is not counted or goes on. -/
theorem State.queueSend_eq (hkills : (tileHere s).lk.kills = []) (hheard : (tileHere s).cfgNow.heard (mtOutNo f) = true)
    (hcns : (mtHere s f).drops q = true → ((mtHere s f).oldest q).cns = false) : ∃ (k : Cluster) (r : Option Nat),
      s.queueSend s.here (s.actor.unit % 256) (mtHere s f) q =
        (s.setCl s.here (k.setTile (s.actor.unit % 256) ((mtHere s f).afterSend q))).censusFall s.here r 0 := by
  have hdraw := State.drawPower_of_le 1 hpow
  generalize Cluster.mk .. = k at hdraw
  have hgone : ((mtHere s f).drops q || !(mtHere s f).g.heard (mtOutNo (mtHere s f).f)) = (mtHere s f).drops q := by
    have hg : (mtHere s f).g.heard (mtOutNo (mtHere s f).f) = true := hheard
    rw [hg, Bool.not_true, Bool.or_false]
  have hfall : (if ((mtHere s f).drops q && ((mtHere s f).oldest q).cns) = true
      then ((mtHere s f).oldest q).logical else 0) = 0 := by
    refine if_neg fun hc => ?_
    obtain ⟨hdrops, hcounted⟩ := (Bool.and_eq_true _ _).mp hc
    rw [hcns hdrops] at hcounted
    cases hcounted
  have hkilled : ∀ n, (mtHere s f).t.lk.killed (8 + mtOutNo (mtHere s f).f) n = 0 := Links.killed_of_no_kills hkills _
  have hclear := Token.clear_zero ((mtHere s f).length_oldest q)
  refine ⟨k, k.tileOwner (s.actor.unit % 256), ?_⟩
  unfold State.queueSend
  rw [hdraw]
  simp only [State.setCl_setCl, State.cl_setCl_same, hkilled, hclear, hgone, hfall]
  rfl

theorem State.queueSend_leaves (hkills : (tileHere s).lk.kills = []) (hheard : (tileHere s).cfgNow.heard (mtOutNo f) = true)
    (hcns : (mtHere s f).drops q = true → ((mtHere s f).oldest q).cns = false) {u : State}
    (hu : s.queueSend s.here (s.actor.unit % 256) (mtHere s f) q = u) :
    u.here = s.here ∧ u.mem = s.mem ∧ (u.cl s.here).tile (s.actor.unit % 256) = (mtHere s f).afterSend q ∧
      tileHere u = (mtHere s f).afterSend q := by
  obtain ⟨k, r, hstep⟩ := State.queueSend_eq hpow q hkills hheard hcns
  rw [hu] at hstep
  obtain ⟨hactor, hmem, htile⟩ := State.censusFall_outlived (r := r)
    (s := s.setCl s.here (k.setTile (s.actor.unit % 256) ((mtHere s f).afterSend q))) (c := s.here) (Cluster.outlives_zero _ _)
  rw [← hstep] at hactor hmem htile
  have hx : (u.cl s.here).tile (s.actor.unit % 256) = (mtHere s f).afterSend q := by
    rw [htile, State.cl_setCl_same, Cluster.tile_setTile_same]
  exact ⟨congrArg Actor.cl hactor, hmem, hx, (tileHere_of_actor hactor).trans hx⟩

theorem State.queueStore_leaves (t : Token) (flush : Bool) {u : State}
    (hu : s.queueStore s.here (s.actor.unit % 256) (mtHere s f) q t flush = u) :
    u.here = s.here ∧ (u.cl s.here).tile (s.actor.unit % 256) = (mtHere s f).afterStore q t flush ∧
      tileHere u = (mtHere s f).afterStore q t flush := by
  have hdraw := State.drawPower_of_le 1 hpow
  generalize Cluster.mk .. = k at hdraw
  unfold State.queueStore at hu
  rw [hdraw] at hu
  simp only [State.setCl_setCl, State.cl_setCl_same] at hu
  have hstep : s.setCl s.here (k.setTile (s.actor.unit % 256) ((mtHere s f).afterStore q t flush)) = u := hu
  have hx : (u.cl s.here).tile (s.actor.unit % 256) = (mtHere s f).afterStore q t flush := by
    rw [← hstep, State.cl_setCl_same, Cluster.tile_setTile_same]
  have hactor : u.actor = s.actor := hstep ▸ rfl
  exact ⟨congrArg Actor.cl hactor, hx, (tileHere_of_actor hactor).trans hx⟩

end

/-! ### The turn of a queue -/

/-- A stored token after which the queue sends everything that it holds (R210). -/
def queueFlushes (ring : Bool) (p : MtCtx) (q : MtQueue) (t : Token) : Bool :=
  if ring then t.mark == .eos || (p.f.mkb.toNat == mkAct && t.mark.any)
  else p.f.mkb.toNat == mkAct && (t.mark.any || decide (q.depth ≤ q.toks.length + 1))

theorem exec_queue (s : State) (f : MtF) (ring : Bool) :
    exec (if ring then .mtring f else .mtfifo f) s = s.runQueue f ring (queueFlushes ring) := by
  cases ring with
  | true => rfl
  | false => rfl

/-- The oldest token of a queue may leave once everything is sent, or as its kind of queue says (R210). -/
theorem queueMaySend_iff (ring : Bool) (f : MtF) (q : MtQueue) : queueMaySend ring f q = true ↔
    q.toks ≠ [] ∧ (q.flush = true ∨ if ring then q.depth ≤ q.toks.length else f.mkb.toNat ≠ mkAct) := by
  cases ring with
  | true => simp [queueMaySend]
  | false => simp [queueMaySend]

section
variable {s : State} {f : MtF} {ring : Bool} {i : Instr} {flushes : MtCtx → MtQueue → Token → Bool}
  (hexec : exec i s = s.runQueue f ring flushes) (hmay : (s.cl s.here).mayFire (s.actor.unit % 256) = true)
  (hsending : (tileHere s).sending = false)
  (hpow : 1 ≤ (s.cl s.here).power.get (s.spineOf s.here (s.actor.unit % 256)) 0)
include hexec hmay hsending hpow

/-- A queue whose oldest token may leave sends it, or drops a MARKER token whose marker MKB takes away. -/
theorem leaves_queue_sends (hkills : (tileHere s).lk.kills = []) (hheard : (tileHere s).cfgNow.heard (mtOutNo f) = true)
    (hroom : (tileHere s).lk.outRoom (mtOutNo f) = true) (hsend : queueMaySend ring f (mtHere s f).queue = true)
    (hcns : (mtHere s f).drops (mtHere s f).queue = true → ((mtHere s f).oldest (mtHere s f).queue).cns = false) :
    leaves i s (fun u => u.here = s.here ∧
      (u.mtOf s.here (s.actor.unit % 256) f).queue.toks = (mtHere s f).queue.toks.drop 1 ∧
      (tileHere u).mt = (tileHere s).mt ∧ u.mem = s.mem ∧ outToks u (mtOutNo f) =
        if (mtHere s f).drops (mtHere s f).queue = true then [] else [plainTok ((mtHere s f).oldest (mtHere s f).queue)]) := by
  have hnow : (mtHere s f).sendsNow ring (mtHere s f).queue = true := by
    have hsend : queueMaySend ring (mtHere s f).f (mtHere s f).queue = true := hsend
    have hroom : (mtHere s f).t.lk.outRoom (mtOutNo (mtHere s f).f) = true := hroom
    rw [MtCtx.sendsNow, hsend, hroom, Bool.or_true, Bool.true_and]
  refine ⟨_, hexec.trans (State.runQueue_sends hmay hsending hnow), ?_⟩
  obtain ⟨hhere, hmem, htile, htileHere⟩ := State.queueSend_leaves hpow (mtHere s f).queue hkills hheard hcns rfl
  refine ⟨hhere, ?_, (congrArg Tile.mt htileHere :), hmem, ?_⟩
  · rw [← (mtHere s f).afterSend_queues _ { base := mtFirst f, depth := max 1 (mtSize f / 16) }, ← htile]
    rfl
  · have hout : (tileHere s).lk.out (4 + mtOutNo f) = [] := List.isEmpty_iff.1 hroom
    rw [outToks, htileHere]
    refine (congrArg (List.map _) (Links.out_setOut_same ..)).trans ?_
    split
    · exact congrArg (List.map _) hout
    · rfl

/-- A queue with room that sends nothing now stores the arriving token. -/
theorem leaves_queue_stores {t : Token} (hnow : (mtHere s f).sendsNow ring (mtHere s f).queue = false)
    (hflush : (mtHere s f).queue.flush = false) (hroom : (mtHere s f).queue.toks.length < (mtHere s f).queue.depth)
    (hpeek : (tileHere s).lk.peekSlot ((mtSlots f).headD 0) (tileHere s).cfgNow.cfg = some t) :
    leaves i s (fun u =>
      let q := (mtHere s f).queue
      u.here = s.here ∧ (u.mtOf s.here (s.actor.unit % 256) f).queue =
        { q with toks := q.toks ++ [t], stored := q.stored + 1, flush := q.flush || flushes (mtHere s f) q t } ∧
      (tileHere u).lk.outs = (tileHere s).lk.outs ∧
      ∀ n, mtWord u n = if q.base + 16 * (q.stored % q.depth) ≤ n ∧ n < q.base + 16 * (q.stored % q.depth) + 16
        then t.lane (n - (q.base + 16 * (q.stored % q.depth))) % 2 ^ 32 else mtWord s n) := by
  have hnext : (mtHere s f).storesNext (mtHere s f).queue = some t := by
    refine (if_neg ?_).trans hpeek
    rw [hflush]
    simpa using hroom
  refine ⟨_, hexec.trans (State.runQueue_stores hmay hsending hnow hnext), ?_⟩
  obtain ⟨hhere, htile, htileHere⟩ := State.queueStore_leaves hpow (mtHere s f).queue t
    (flushes (mtHere s f) (mtHere s f).queue t) rfl
  refine ⟨hhere, ?_, ?_, fun n => ?_⟩
  · rw [← (mtHere s f).afterStore_queues _ _ _ { base := mtFirst f, depth := max 1 (mtSize f / 16) }, ← htile]
    rfl
  · rw [htileHere]
    exact MtCtx.afterStore_outs ..
  · rw [mtWord, htileHere]
    exact mtGet_storeLanes ..

end

end Sys2Proof.Machine

namespace Sys2Proof
open Machine

/-- Settles O44: a word whose slots are full fires (`State.runMt_fires`) and leaves its tokens and its tile's words
(`leaves_of_mtFires`), lane by lane (`mtTurns_word`, `mtTurns_result`); a queue's turn sends (`leaves_queue_sends`) or stores
(`leaves_queue_stores`). -/
theorem memoryTiles : Obligations.MemoryTiles := by
  unfold Obligations.MemoryTiles
  refine ⟨fun s f h => ⟨mtSends_mtrd h, mtSends_mtlut_nearest h, mtSends_mtlut_between h⟩, fun s f h hstay =>
    ⟨?mtwr, leaves_mttas h, leaves_mthist h, leaves_mthist_act h hstay, ?flush, leaves_mtacc_int h hstay,
      leaves_mtacc_fp h hstay, leaves_mtclr h hstay⟩, ?queues⟩
  case mtwr =>
    obtain ⟨u, hu, hframe, hwords⟩ := leaves_mtwr h hstay
    refine ⟨u, hu, hframe, fun n hn => (hwords n hn).trans ?_⟩
    dsimp only [lanesOfWord]
    cases (mtLanesAt s f id 16 (n - mtFirst f)).getLast? with
    | none => rfl
    | some l => rfl
  case flush => exact leaves_mthist_flush h hstay
  case queues =>
    intro s f ring i p q k queue mayLeave hmay hsending hkills hheard hpow
    have hexec : exec i s = s.runQueue f ring (queueFlushes ring) := exec_queue s f ring
    refine ⟨fun t rest hq hleave hroom hcns => ?sends, fun t hhold hflush hroom hpeek => ?stores⟩
    case sends =>
      have hsend : queueMaySend ring f q = true :=
        (queueMaySend_iff ring f q).2 ⟨by rw [hq]; exact List.cons_ne_nil _ _, hleave⟩
      obtain ⟨u, hu, hhere, htoks, hrest⟩ := leaves_queue_sends hexec hmay hsending hpow hkills hheard hroom hsend hcns
      exact ⟨u, hu, hhere, htoks.trans (congrArg (List.drop 1) hq), hrest⟩
    case stores =>
      have hnow : p.sendsNow ring q = false := by
        refine Bool.eq_false_iff.2 fun hnow => ?_
        obtain ⟨hsend, hout⟩ := (Bool.and_eq_true _ _).mp hnow
        obtain ⟨hne, hleave⟩ := (queueMaySend_iff ring f q).1 hsend
        obtain hnil | hstays | ⟨hfull, hkept⟩ := hhold
        · exact hne hnil
        · exact hleave.elim (by rw [hflush]; exact Bool.noConfusion) hstays
        · have hfull : p.t.lk.outRoom (mtOutNo p.f) = false := hfull
          rw [hfull, hkept] at hout
          cases hout
      obtain ⟨u, hu, hhere, hqueue, houts, hword⟩ := leaves_queue_stores hexec hmay hsending hpow hnow hflush hroom hpeek
      have hq : (mtHere s f).queue = q := rfl
      rw [hq] at hqueue hword
      refine ⟨u, hu, hhere, congrArg MtQueue.toks hqueue, houts, fun l hl => ?_, fun n hn => ?_, ?_⟩
      · rw [hword, if_pos (by omega), Nat.add_sub_cancel_left]
        exact Nat.mod_eq_of_lt (Token.lane_lt _ _)
      · rw [hword, if_neg (by omega)]
      · refine (congrArg MtQueue.flush hqueue).trans ?_
        rw [hflush, Bool.false_or]
        rfl

end Sys2Proof
end
